-- ==== Sys2Proof/Word.lean ====
section
/-! DEFINITION. Words, byte strings, and the plain operand types that commands carry: where a
message travels, which unit an event names, what a measurement or a neighbour's message says.
The types follow 00_scope (R3), 02 (R44), 18 (Table 18.1), 19 (R735) and 21 (R796). -/
namespace Sys2Proof

abbrev Byte := BitVec 8
abbrev W16 := BitVec 16
abbrev W32 := BitVec 32
abbrev W64 := BitVec 64
abbrev Bytes := List Byte

/-- The transport that carries an Oananos message (R44, R722). A network manager's address and
port (R590: each source is one transport) is the number `src`. -/
inductive Xport where
  | bar0
  | twoWire
  | network (src : Nat)
deriving DecidableEq, Repr

/-- The mailbox pair (0-7 valley, 8 DM) and the transport of the next request to consume. -/
structure Via where
  mbx : Nat
  xport : Xport
deriving DecidableEq, Repr

/-- One unit: class code and index as Table 18.1. -/
structure UnitRef where
  cls : Nat
  idx : Nat
deriving DecidableEq, Repr

/-- What the codes that guard memory find in a step that uses it (R162, R193): an error corrected, or not, in the data at
a local address; an uncorrectable tag or voted state of a line's entry; an uncorrectable error in the host-held
tracker. -/
inductive Ecc where
  | corrected (addr : Nat)
  | uncorrectable (addr : Nat)
  | tag (line : Nat)
  | tracker
deriving DecidableEq, Repr

/-- What a glen's codes find in a step that uses them (Tables 8.4, 10.5, R677): a 16-byte chunk of a lane store (by
lane × 2^14 + offset) or of scratch (by offset) corrected or lost, an accumulator entry of bad parity, the ownership
record of a weight unit lost. -/
inductive GlenErr where
  | laneFixed (at_ : Nat)
  | laneLost (at_ : Nat)
  | scratchFixed (at_ : Nat)
  | scratchLost (at_ : Nat)
  | parity
  | ownership (unit : Nat)
deriving DecidableEq, Repr

/-- What stops a thread at its next operation (Table 10.5): an operation or a reserved field of its code that the glen
does not know, or an uncorrectable error in the thread's state. -/
inductive ThreadErr where
  | code
  | state
deriving DecidableEq, Repr

/-- An uncorrectable error in state that is not a memory's (Table 13.4): what Oananos holds for one context, or for more
than one, in a control core's memory; the command front end's own. -/
inductive StateErr where
  | context (ctx core : Nat)
  | shared (core : Nat)
  | frontEnd
deriving DecidableEq, Repr

/-- An uncorrectable error in what the fault-record writer keeps (R707): the entry at a place of the staging queue, the
record being written, a record in the ring, or the overflow counter and the ring's indices. -/
inductive RecordLoss where
  | staged (place : Nat)
  | writer
  | ring (seq : Nat)
  | indices
deriving DecidableEq, Repr

/-- Whether a two-wire write carried a PEC byte, and whether it matched (R796). -/
inductive Pec where
  | absent
  | good
  | bad
deriving DecidableEq, Repr

/-- The SPDM requests of R735, by name; `other` is any request outside that list. -/
inductive SpdmReq where
  | getVersion
  | getCapabilities
  | negotiateAlgorithms (p384 sha384 : Bool)
  | getDigests
  | getCertificate (slot offset length : Nat)
  | challenge (slot : Nat) (nonce : Bytes)
  | getMeasurements (index : Nat) (signed : Bool) (nonce : Bytes)
  | other (code : Nat)
deriving DecidableEq, Repr

/-- The SPDM answers, by their content (R735, R736). -/
inductive SpdmRsp where
  | version (list : List Nat)
  | capabilities (cert chal measSig : Bool)
  | algorithms (p384 sha384 : Bool)
  | digests (slot0 : Bytes)
  | certificate (slot : Nat) (portion : Bytes) (remainder : Nat)
  | challengeAuth (measSummary sig : Bytes)
  | measurements (blocks : List (Nat × Nat × Bytes)) (sig : Bytes)
  | errorBusy
  | errorUnsupported
  | errorInvalid
deriving DecidableEq, Repr

/-- One image entry of the flash directory with its contents (R579, Table 15.2). -/
structure FlashImage where
  generation : Nat
  bytes : Bytes
  crcOk : Bool
deriving DecidableEq, Repr

/-- What a release of reset reads from the fuses (R16, R743, R744): the check code of the capability
fuses matches, a vote of the lifecycle cells was split, and the owner key hash passes its check. -/
structure FuseRead where
  capsOk : Bool
  voteSplit : Bool
  keyOk : Bool
deriving DecidableEq, Repr

/-- The three entries of the flash directory, as a writer outside the device left them. -/
structure FlashWrite where
  fwA : Option FlashImage
  fwB : Option FlashImage
  cfg : Option FlashImage
deriving DecidableEq, Repr

end Sys2Proof
end

