-- ==== Sys2Proof/Syntax.lean ====
section
/-! DEFINITION. The commands of the block: one constructor per row of the table of operations and
events, with the operands its rule gives it. An Oananos message carries the mailbox and transport
of the next request waiting there; the request's bytes are state. An event carries what the device
measures or receives. -/
namespace Sys2Proof

/-- One command. -/
inductive Instr where
  | pwrokFall
  | pwrokRise (fuses : FuseRead)
  | resetNAssert
  | resetNDeassert (fuses : FuseRead)
  | perstNAssert
  | perstNDeassert (fuses : FuseRead)
  | pcieHotReset
  | functionLevelReset
  | internalResetHoldExpire (fuses : FuseRead)
  | strapSample
  | powerLoss
  | selftestDone (coresOk frontEndOk : Bool) (failed : List UnitRef)
  | fwLoadDone (written : Option FlashWrite)
  | memTrainingDone (spared hardUsed : List Nat) (failedPc failedCh : List Nat)
  | pcieConfigRequest
  | mbxDoorbellWrite (n : Nat) (value : W32)
  | mbxRspConsWrite (n : Nat) (value : W32)
  | mbxNtfConsWrite (n : Nat) (value : W32)
  | mbxRequestSlotError (n : Nat) (inHeader : Bool)
  | badOpcodeRequest (via : Via)
  | mbxHeartbeatAdvance
  | heartbeatWatchdogExpire
  | lockstepMismatch (core : Nat)
  | devIdentify (via : Via)
  | devStatus (via : Via)
  | devPing (via : Via)
  | configBegin (via : Via)
  | configChunk (via : Via)
  | configCommit (via : Via)
  | configAbort (via : Via)
  | configRead (via : Via)
  | configStagingTimeout
  | configCheckDone
  | devDrain (via : Via)
  | drainComplete
  | drainLimitExpire
  | devReset (via : Via)
  | devResetStart
  | paceSample (glens : List Nat) (cc basin meas : Nat) (tj : Int)
  | vcoreTargetLower
  | ownAdmissionHoldback (valley : Nat)
  | holdbackRelease (valley : Nat)
  | replicaFault (replica : Nat)
  | paceLowSet
  | paceLowClear
  | referenceLost
  | referenceReturn
  /-- `identity`: the grandmaster's, and the sending clock's own. -/
  | ptpAnnounceReceive (port domain transport priority1 clockClass accuracy variance priority2 : Nat) (identity : Nat × Nat) (stepsRemoved : Nat)
  /-- `source`: the sending clock, and the log of its Sync interval. -/
  | ptpSyncReceive (port domain transport : Nat) (source : Nat × Int) (origin receipt : Nat)
  | ptpDelayRespReceive (port domain source : Nat) (sent received : Nat)
  | ptpSyncTimeout
  | ppsInEdge (pin stamp : Nat)
  | ppsOutPulse
  | paceQuery (via : Via)
  | governorSet (via : Via)
  | timePtpSet (via : Via)
  | timeQuery (via : Via)
  | paceMinRead
  | paceTimeLoRead
  | paceTimeStatusRead
  | batchBoundary (valley : Nat)
  | boundaryAutoTimer (valley : Nat)
  | epochRetainExpire (set : Nat)
  | bsnGroupModeSet (via : Via)
  | bsnWaysSet (via : Via)
  | bsnQuery (via : Via)
  | bsnFlush (via : Via)
  | bsnFlushDone (valley : Nat)
  /-- `group`, and what the codes find while its lines are written back. -/
  | basinWritebackDone (group : Nat × List Ecc)
  | basinGroupZeroed (group : Nat)
  | basinBucketFlip (bucket : Nat)
  | memHostWindowSet (via : Via)
  | cxlSnoop (addr kind : Nat) (store : Option Bytes)
  /-- `addr`, and what the codes find in the data read. -/
  | cxlMemRead (addr : Nat × List Ecc) (exclusive : Bool)
  | cxlMemWrite (addr : Nat) (data : Bytes) (poison : Bool)
  | cxlBiResponse (addr : Nat) (data : Option Bytes)
  | memQuery (via : Via)
  | memChannelRetire (via : Via)
  | memHbmRepairSoft (via : Via)
  | memHbmRepairHard (via : Via)
  | memHbmRepairCancelHard (via : Via)
  | softRepairDone (bad : List Nat) (waits : Nat)
  | memoryRefreshTick (lpddr : Bool) (unit : Nat) (temp : Int)
  | lpddrMr4Poll (pkg : Nat) (temp : Int) (rate : Nat)
  | patrolScrubStep (found : Nat)
  | eccCorrectionBurst (lpddr : Bool) (channel : Nat) (lane : Option Nat) (count : Nat)
  | tblSetCreate (via : Via)
  | tblSetDestroy (via : Via)
  | tblCreate (via : Via)
  | tblDestroy (via : Via)
  | tblQuery (via : Via)
  | tblRowmapLoad (via : Via)
  | creekBagDispatch (creek : Nat)
  /-- `pos`, and what the codes find in the rows fetched. -/
  | creekFetchComplete (bag : Nat) (pos : Nat × List Ecc)
  | creekBagComplete (bag : Nat) (residue : Bool)
  | remoteLookupRequest (src tag : Nat) (msg : Bytes)
  | epochWaitExpire (node reqTag : Nat)
  | remoteLookupResponse (src : Nat) (msg : Bytes)
  | remoteOperationTimeout (op : Nat)
  | hwtStreamOpen (via : Via)
  | hwtStreamClose (via : Via)
  | hwtStreamShutdownDone (stream : Nat)
  | hwtRecordOverwrite (set : Nat)
  | hwtRecordAddDelta (set : Nat)
  | hwtRecordExport (set : Nat)
  | hwtRecordFence (set : Nat)
  | headwaterEngineFault (engine : Nat) (set : Option Nat)
  | epochAdvance (via : Via)
  | epochSealStaged (set : Nat)
  | epochCatchupDone (set : Nat)
  | epochQuery (via : Via)
  | reflowStartPlan (via : Via)
  | reflowStartTrack (via : Via)
  | reflowStepCopied (set : Nat)
  | reflowResume (via : Via)
  | reflowAbandon (via : Via)
  | reflowQuery (via : Via)
  | plainChainStart (glen : Nat)
  /-- `parity`: an accumulator entry was of bad parity. -/
  | plainChainComplete (op : Nat) (parity : Bool) (errs : List GlenErr)
  | checkedChainCompare (op : Nat) (mismatch : Option Nat)
  /-- `glen`, and what the codes of memory and of the glen find in the data loaded. -/
  | weightLoadStart (glen : Nat × List Ecc × List GlenErr)
  | weightLoadComplete (op : Nat)
  /-- `off`, and what the glen's codes find in the bytes read. -/
  | threadLoadScratch (t : Nat) (off : Nat × List GlenErr) (size dst next : Nat)
  | threadStoreScratch (t off size src next : Nat)
  | threadLoadGlobal (t addr size dst next : Nat)
  /-- `t`, and what the codes find in the data read. -/
  | globalLoadDataReturn (t : Nat × List Ecc)
  | threadStoreGlobal (t addr size src next : Nat)
  | threadIssue (t : Nat) (desc : Bytes) (next : Nat)
  | issueQueueSpace (t : Nat)
  /-- `ref`, and whether the object's state is found to be lost. -/
  | syncRead (t : Nat) (ref : W64 × Bool) (dst next : Nat)
  | syncAdd (t : Nat) (ref : W64) (n : W64) (next : Nat)
  | syncSet (t : Nat) (ref : W64) (value : W64) (next : Nat)
  | syncWaitGe (t : Nat) (ref : W64) (target : W64) (us dst next : Nat)
  | syncAcquire (t : Nat) (ref : W64) (n us dst next : Nat)
  /-- `waiter`, and whether its wait entry is found to be lost. -/
  | syncWaitTimeout (waiter : Nat × Bool)
  | threadEnqueue (t : Nat) (record : Bytes) (next : Nat)
  | fenceLocal (t next : Nat)
  | fenceGlobal (t next : Nat)
  | fenceComplete (t : Nat)
  | threadExit (t : Nat)
  /-- `value`: the result, or what stops the thread. -/
  | threadArithmetic (t dst : Nat) (value : Nat × Option ThreadErr) (next : Nat)
  | remoteSignalReceive (src tag : Nat) (msg : Bytes)
  | remoteSignalAnswer (node tag status : Nat)
  | remoteSignalTimeout (tag : Nat)
  | synAddWrite (obj : Nat) (value : W64) (high : Bool)
  | synSetWrite (obj : Nat) (value : W64) (high : Bool)
  | synNotifyAtWrite (obj : Nat) (value : W64) (high : Bool)
  | synArmWrite (obj : Nat) (value : W32)
  | syncNotifyPost (q : Nat)
  /-- `obj`, and whether its state is found to be lost. -/
  | synValueRead (obj : Nat × Bool)
  | synStatusRead (obj : Nat)
  | sqCreate (via : Via)
  | sqDestroy (via : Via)
  | cqCreate (via : Via)
  | cqDestroy (via : Via)
  | handleTableSet (via : Via)
  | queueQuery (via : Via)
  | cfeSqDoorbellWrite (q : Nat) (value : W32)
  | cfeCqHeadWrite (q : Nat) (value : W32)
  | cfeCqArmWrite (q : Nat) (value : W32)
  | cqCoalesceTimer (q : Nat)
  | cqEntryPost (q : Nat)
  | launch (sq : Nat)
  | boundary (sq : Nat)
  | signal (sq : Nat)
  | nop (sq : Nat)
  | invalidCommand (sq : Nat)
  | graphStore (via : Via)
  | graphPatchStructural (via : Via)
  | graphPatchIndirect (via : Via)
  | graphPatchSetEntry (via : Via)
  | graphPatchActivate (via : Via)
  | graphPatchDiscard (via : Via)
  | graphRetire (via : Via)
  | valleyStart (via : Via)
  | valleyStop (via : Via)
  | valleyStopDone (valley : Nat)
  | valleyStopLimitExpire (valley : Nat)
  | valleyQuery (via : Via)
  | valleyProfileSet (via : Via)
  | narrowsSet (via : Via)
  | ctxCreate (via : Via)
  | ctxDestroy (via : Via)
  | ctxQuery (via : Via)
  /-- `time`, and an error found in the state the scheduler keeps. -/
  | schedulerTick (valley : Nat) (time : Nat × Option StateErr)
  | contextSaveDone (valley ctx ns : Nat)
  | contextRestoreDone (valley ctx ns : Nat)
  | passLinkEnable (via : Via)
  | passLinkDisable (via : Via)
  | passDisableDrained (port : Nat)
  | passLinkQuery (via : Via)
  | passScheduleSet (via : Via)
  | passRouteSet (via : Via)
  | passKeySet (via : Via)
  | passBackoffExpire (port : Nat)
  | passTrainLock (port : Nat) (failed : List Nat)
  | passTrainTimeout (port : Nat)
  | passAlignLock (port candidates : Nat)
  | passLinkInitReceive (port : Nat) (msg : Bytes)
  | passEchoReceive (port : Nat) (msg : Bytes) (time : Nat)
  | passEchoAnsReceive (port : Nat) (msg : Bytes) (time : Nat)
  | passEchoTimer (port : Nat)
  /-- `lane`: the lane with many corrections, and the flit lost in the receive buffer. -/
  | passFrameReceive (port time : Nat) (data : Bytes) (corrected : Nat) (failed : List Nat) (lane : Option Nat × Option Nat)
  | passMarkerLoss (port : Nat)
  | passFrameTransmit (port time : Nat) (bufferError routingError : Bool)
  | passReplayTimer (port : Nat)
  | passRoundTick
  | passScheduleBoundary
  | passRouteEffective
  | passPacketForward (port dest src tag cls hops kind : Nat) (poison : Bool) (msg : Bytes)
  | passPacketHoldTimeout (port : Nat)
  | passReadRequest (src tag : Nat) (msg : Bytes)
  | passWriteRequest (src tag : Nat) (msg : Bytes) (poison : Bool)
  | passPushRequest (src tag : Nat) (msg : Bytes)
  | passAnswerReceive (src kind : Nat) (msg : Bytes) (poison : Bool)
  | requestDatagramReceive (endpoint : Nat) (addr : Bytes) (port : Nat) (arrived : Option Bytes)
  | datagramResponseSend (endpoint : Nat)
  | updateDatagramReceive (endpoint : Nat) (addr : Bytes) (port : Nat) (data : Bytes)
  | mgmtDatagramReceive (eth : Nat) (addr : Bytes) (port : Nat) (data : Bytes)
  | ethControlPacket (port kind : Nat) (target data : Bytes)
  | roceCnpReceive (endpoint : Option Nat)
  | roceRateRecover (endpoint : Option Nat)
  | poolRdmaCompletion (data : Bytes)
  | poolQpError
  | ethPortDown (port : Nat)
  | ethPortUp (port : Nat)
  | hostLinkDlDown
  | hostLinkUp (gts lanes : Nat) (cxl flit256 : Bool)
  | msixVectorUnmask (vector : Nat)
  | pcieDStateChange (d3hot : Bool)
  | netPortSet (via : Via)
  | netEndpointCreate (via : Via)
  | netEndpointDestroy (via : Via)
  | hostLinkQuery (via : Via)
  | poolNodeSet (via : Via)
  | fordPersonalitySet (via : Via)
  | fordRingCreate (via : Via)
  | fordRingDestroy (via : Via)
  | fordShardSet (via : Via)
  | fordQuery (via : Via)
  | fordLookup (sq : Nat)
  | fordVecSend (sq : Nat)
  | fordVecRecv (sq : Nat)
  | fordRowPut (sq : Nat)
  | fordRowGet (sq : Nat)
  | fordRingPoll (ring : Nat)
  | fordInLookup (ring : Nat) (waited : Bool)
  | fordInRowGet (ring : Nat) (waited : Bool)
  | fordInVec (ring : Nat)
  | fordInRowPut (ring : Nat)
  | fordInAnswer (ring : Nat) (datapath : Bool)
  | fordExchangeTimeout (ring xid : Nat)
  | cynCtxEnable (via : Via)
  | cynCtxDisable (via : Via)
  | cynCtxShutdownDone (ctx : Nat)
  | cynKeyLoad (via : Via)
  | cynTriplesLoad (via : Via)
  | cynQuery (via : Via)
  | cynLinear (sq : Nat)
  | cynMul (sq : Nat)
  | cynRelin (sq : Nat)
  | cynRescale (sq : Nat)
  | cynScore (sq : Nat)
  | cynSsLinear (sq : Nat)
  | cynSsMask (sq : Nat)
  | cynSsCombine (sq : Nat)
  /-- `valley`, and whether the chain state on the chip reads uncorrectable. -/
  | cynOperationStart (valley : Nat × Bool)
  | cynOperationComplete (pipe : Nat) (residue : Bool)
  /-- `commit`, and what the writer finds lost in its own state. -/
  | faultRecordWrite (commit : Bool × List RecordLoss)
  | targetedTestStart (unit : UnitRef)
  | targetedTestDone (unit : UnitRef) (pass : Bool)
  | probationDone (unit : UnitRef) (match_ : Bool)
  | testWindowOpen
  | testWindowClose
  | packTestComplete (unit : UnitRef) (test : Nat) (match_ last : Bool)
  | fltRingConsWrite (value : W32)
  | fltRecordRead (via : Via)
  | fltRecordRelease (via : Via)
  | fltCheckedSet (via : Via)
  | fltSelftestRun (via : Via)
  | fltUnitReadmit (via : Via)
  | fltPackLoad (via : Via)
  | fltWindowSet (via : Via)
  | fltCperRead (via : Via)
  | secLifecycleSet (via : Via)
  | lifecycleReturnDone
  | secOtpRead (via : Via)
  | secOtpProgram (via : Via)
  | otpProgramDone (ok : Bool)
  | secFwUpdateBegin (via : Via)
  | secFwUpdateChunk (via : Via)
  | secFwUpdateCommit (via : Via)
  | flashCommitDone
  | fwUpdateSessionTimeout
  | secAccessSet (via : Via)
  | spdmGetVersion
  | spdmGetCapabilities
  | spdmNegotiateAlgorithms
  | spdmGetDigests
  | spdmGetCertificate
  | spdmChallenge
  | spdmGetMeasurements
  | pwrStateSet (via : Via)
  | pwrQuery (via : Via)
  | pwrLimitSet (via : Via)
  | powerWindow (milliwatts : Nat) (sensorOk : Bool)
  | throttleInAssert
  | throttleInRelease
  | glenGate (glen : Nat)
  | thermalSupplyFault
  | vcoreDeviation
  | standbyWritebackDone
  | standbySelfRefreshDone
  | standbyEntryDone
  | standbyWakeVcore
  | standbyWakeMemoryDone
  | standbyWakeDone
  | dbgUnlock (via : Via)
  | dbgLock (via : Via)
  | dbgTelemetryRead (via : Via)
  | debugDurationExpire
  | traceTick
  | tapBypass
  | tapIdcode
  | tapSamplePreload (chain : Option Bytes)
  | tapExtest (chain : Bytes)
  | tapClamp
  | tapHighz
  | dapCoreHalt (pair : Nat)
  | dapCoreResume (pair : Nat)
  | dapMemoryAccess (addr : Nat) (len : Nat) (data : Option Bytes)
  | gpioOutLatchWrite (value : W32)
  | gpioOutSetWrite (value : W32)
  | gpioOutClrWrite (value : W32)
  | gpioPadEdge (pin : Nat) (rising : Bool)
  | triggerInEdge (pin edges stamp : Nat)
  | gpioTrigTimeLoRead
  | ledBlinkTimer (source : Nat)
  | brdGpioSet (via : Via)
  | brdGpioQuery (via : Via)
  | brdSensorRead (via : Via)
  | brdSmbSet (via : Via)
  | smbDevId
  | smbDevCaps
  | smbStatus
  | smbReset (kind confirm : Nat) (pec : Pec)
  | smbMctp (source : Nat) (req : SpdmReq) (pec : Pec)
  | mctpArbitrationLost
  | smbMbxWrite (flags : Nat) (data : Bytes) (pec : Pec)
  | smbMbxRead
  | smbMbxAdvance (seq : Nat) (pec : Pec)
  | smbAlertResponse
  | smbBusTimeout
  | smbErrorsRead
  /-- `data`, and whether the TLP carries poison (R839). -/
  | registerWrite (offset : Nat) (data : Bytes × Bool)
  | passAlignTimeout (port : Nat)
  | channelPowerDown (lpddr : Bool) (channel : Nat)
  | queuePairError (endpoint : Nat)
deriving DecidableEq, Repr

end Sys2Proof
end

