-- ==== Sys2Proof/Decode.lean ====
section
/-! DEFINITION. Commands spelt by table words. The table of operations gives no row any bits: a
command reaches the block as a register access, a bus transaction, an event or a message whose bytes
lie in State, so no word spells one. -/
namespace Sys2Proof

/-- The command a word spells by the table's bits: none, as no row of the table has bits. -/
def decodeTableWord (_nbits _w : Nat) : Option Instr := none

end Sys2Proof
end

