-- ==== Sys2Proof/Config.lean ====
section
/-! DEFINITION. What an implementation fixes, and the free values: constants with no body, so that
nothing proved can rest on one. Each is named in notes/assumptions. -/
namespace Sys2Proof.Config
open Sys2Proof

/-- A free number: the use it is put to, and the count of free values drawn so far. -/
opaque freeNat (use draw : Nat) : Nat

/-- A free byte string of the length asked for. -/
opaque freeByte (use draw index : Nat) : Byte

/-- SHA-384 (R721), byte `i` of the digest; its standard is outside the spec. -/
opaque sha384Byte (message : Bytes) (i : Nat) : Byte

/-- ECDSA P-384 verification under the key whose SHA-384 is given (R721). -/
opaque sigOk (keyHash message signature : Bytes) : Bool

/-- Byte `i` of a signature by the device identity key (R735). -/
opaque deviceSigByte (message : Bytes) (draw i : Nat) : Byte

/-- Whether 96 bytes are a valid P-384 point (Table 19.1). -/
opaque p384Point (key : Bytes) : Bool

/-- SHA-384 of the vendor firmware key and of the vendor return key, in ROM (Table 19.2). -/
opaque vendorKeyHashByte (i : Nat) : Byte
opaque returnKeyHashByte (i : Nat) : Byte

/-- The ROM whose digest is measurement 1 (R736), and its version (R88). -/
opaque romByte (i : Nat) : Byte
opaque romVersion : W32

/-- The certificate chain of slot 0 (R735). -/
opaque certByte (serial : W64) (i : Nat) : Byte
opaque certLength (serial : W64) : Nat

/-- AES-GCM authentication and cipher of a Pass flit (R549): the algorithm is its standard's. -/
opaque gcmOk (key salt : Bytes) (counter : Nat) (data tag : Bytes) : Bool
opaque gcmByte (key salt : Bytes) (counter : Nat) (data : Bytes) (i : Nat) : Byte
opaque gcmPlainByte (key salt : Bytes) (counter : Nat) (data : Bytes) (i : Nat) : Byte

/-- The fixed internal hash that chooses a Basin set (R142). -/
opaque basinSet (line : Nat) : Nat

/-- The frequency correction the discipline sets after an offset, in parts per 10^9 (R110). -/
opaque servo (rate offset : Int) : Int

/-- Byte `i` of the fused MAC address of an Ethernet port (R601). -/
opaque portMac (serial : W64) (port i : Nat) : Byte

/-- The last DRAM row of a bank of an HBM stack (the stack's row count less one, Table 5.5), and hard repair
resources of a bank (R187). -/
opaque hbmLastRow : Nat
opaque hardResources (stack pc bank : Nat) : Nat

/-- Sector `i` of a DRAM row, as a local address: where a bank and row lie in a pseudo-channel is the
stack's (R184). -/
opaque hbmRowSector (stack pc bank row i : Nat) : Nat

/-- The bank that a byte of a pseudo-channel lies in, for the same reason (R183). -/
opaque hbmBank (stack pc offset : Nat) : Nat

/-- Redundant data lanes of an HBM stack (R199). -/
opaque hbmSpareLanes (stack : Nat) : Nat

end Sys2Proof.Config
end

