-- ==== Sys2Proof/Machine/State.lean ====
section
/-! DEFINITION. The state of the device as plain data: one structure per chapter of the spec, the
reasons a step may stop, the queue of waiting commands, and the state after reset.

Times are device time in ns and counts are Nat; registers that software reads as words are bit
vectors. A field's default is its reset value: the spec's where it gives one, otherwise the value
that notes/assumptions/3.md names. -/
namespace Sys2Proof.Machine
open Sys2Proof

/-- Sparse data by number: entries in strictly rising order of key. -/
abbrev TMap (α : Type) := List (Nat × α)

/-- A memory: the cells that differ from zero, in strictly rising order of address. -/
abbrev Mem := List Host.Cell

/-! ## 02 Mailboxes and device state -/

/-- Table 2.2. -/
inductive DevState where
  | reset | selftest | fwLoad | awaitConfig | configCheck | configRejected
  | ready | degraded | draining | faultHold | standby
deriving DecidableEq, Repr

/-- A deferred operation outstanding (R54): its tag, opcode, mailbox and transport. -/
structure Deferred where
  tag : Nat
  op : Nat
  via : Via
deriving DecidableEq, Repr

/-- One mailbox pair's indices and flags (Table 2.9). -/
structure Mbx where
  doorbell : W16 := 0
  reqCons : W16 := 0
  rspProd : W16 := 0
  rspCons : W16 := 0
  ntfProd : W16 := 0
  ntfCons : W16 := 0
  reqIdxErr : Bool := false
  rspIdxErr : Bool := false
  ntfIdxErr : Bool := false
  /-- NTF_LOST_CNT, saturating at 255. -/
  ntfLost : Nat := 0
  /-- NTF_DEFERRED_DONE entries kept back (R79). -/
  heldNtf : List Bytes := []
  deferred : List Deferred := []
  irqEn : BitVec 3 := 0
  irqStat : BitVec 3 := 0
  /-- Source of the last network request on this mailbox (R590). -/
  lastNet : Option Nat := none
deriving DecidableEq, Repr

/-- A staging session of images sent in chunks (R58-R60; R732 for flash images). -/
structure Staging where
  xport : Xport
  generation : Nat
  length : Nat
  count : Nat
  crc : W32
  /-- Stored chunks by index. -/
  chunks : TMap Bytes := []
  mismatch : Option Nat := none
  /-- Device time from which the idle limit runs. -/
  idleFrom : Nat := 0
  /-- R748: 0 firmware, 1 configuration (flash update sessions only). -/
  target : Nat := 0
  raiseFloor : Bool := false
deriving DecidableEq, Repr

/-- A committed configuration under check (R61). -/
structure Commit where
  image : Bytes
  generation : Nat
  /-- The commit's deferred operation; none for the automatic commit of R64. -/
  done : Option Deferred
deriving DecidableEq, Repr

/-- A drain in progress (R94). -/
structure Drain where
  standby : Bool
  done : Deferred
  deadline : Option Nat
  torn : Nat := 0
  ended : Nat := 0
  /-- Steps of Table 20.3 passed: 0 draining, 1 drained, 2 written back, 3 self-refresh. -/
  phase : Nat := 0
deriving DecidableEq, Repr

/-- The device as a whole: state, time of states, staging, identity of the configuration. -/
structure Dev where
  st : DevState := .reset
  prev : DevState := .reset
  since : Nat := 0
  /-- FW_VERSION of the running Oananos, 0 when the ROM handler answers. -/
  fwVersion : Nat := 0
  /-- SHA-384 input of measurement 2: the loaded image. -/
  fwImage : Bytes := []
  lastGen : Nat := 0
  rejectDetail : Nat := 0
  nodeId : Nat := 0xFFFF
  acceptedImage : Bytes := []
  warmLast : Bool := false
  attachConflict : Bool := false
  memTrained : Bool := false
  /-- R84: READY or DEGRADED has been entered since reset. -/
  everReady : Bool := false
  staging : Option Staging := none
  commit : Option Commit := none
  drain : Option Drain := none
  /-- DEV_RESET accepted, KIND (R95); the reset starts at DEV_RESET_START. -/
  resetPending : Option Nat := none
  heartbeat : W32 := 0
  heartbeatAt : Nat := 0
deriving DecidableEq, Repr

/-- Oananos' service of the mailboxes: the pair it serviced last (R69), and the transports of the DM requests that wait, in
order of arrival (R44). -/
structure Service where
  last : Nat := 8
  order : List Xport := []
deriving DecidableEq, Repr

/-! ## 00 Identity -/

/-- What fuses fix for the part (R16, R19, R20). -/
structure Fuse where
  step : BitVec 8 := 0x11
  variant : BitVec 8 := 0x01
  caps : W64 := 0x0FFFFFFFFFFFFF3F
  serial : W64 := 0
  /-- The check code of the capability fuses matched when they were last loaded. -/
  checkOk : Bool := true
  /-- D_nom of each replica, in the units its delay is measured in (R100): glens 0-31, 32 control cores, 33 Basin; a
  replica not listed has 512. -/
  nominal : TMap Nat := []
deriving DecidableEq, Repr

/-! ## 21 Resets, pins, GPIO, two-wire -/

/-- Reset sources of Table 21.4 and the reset they hold. -/
structure Rst where
  pwrok : Bool := false
  resetN : Bool := true
  perstN : Bool := true
  /-- An internal source holds reset: its kind is cold. -/
  internal : Option Bool := none
  /-- The reset in progress is cold. -/
  cold : Bool := true
  /-- R817: no attach mode has been resolved since power was applied. -/
  first : Bool := true
  /-- Straps are still to be sampled after a release. -/
  strapsDue : Bool := false
  /-- Every rail is down (R818). -/
  off : Bool := false
  /-- The capability fuses have been loaded and checked since power was applied (R16, R18). -/
  fused : Bool := false
  /-- Events a warm reset lost, for the RESET record (R709). -/
  lost : Nat := 0
deriving DecidableEq, Repr

/-- One pin's function and configuration (GPIO_FUNCn). -/
structure GpioFn where
  func : Nat := 0
  param : Nat := 0
  pull : Nat := 0
  invert : Bool := false
  drive : Bool := false
deriving DecidableEq, Repr

/-- The GPIO block (Table 21.14). -/
structure Gpio where
  /-- What the board and the pulls give each pad. -/
  ext : W32 := 0
  latch : W32 := 0
  /-- Pins set by a map; a pin not listed has the function of R791. -/
  map : TMap GpioFn := []
  /-- Levels the board gives the pads, and pads it drives against their own output (R816). -/
  forced : W32 := 0
  straps : BitVec 4 := 0
  edge : W32 := 0
  trigTime : W64 := 0
  /-- High half latched by a read of GPIO_TRIG_TIME_LO, while the read it serves is still to come (R121). -/
  trigHi : W32 := 0
  trigHiValid : Bool := false
  trigCount : W32 := 0
  /-- Phase of blinking LED pins, by LED source (R788, Table 21.7). -/
  ledPhase : W32 := 0
deriving DecidableEq, Repr

/-- An unread item of the two-wire transport (R803). -/
structure SmbItem where
  isNtf : Bool
  bytes : Bytes
deriving DecidableEq, Repr

/-- The two-wire target (R792-R805, Table 21.14). -/
structure Smb where
  addr : BitVec 7 := 0x58
  addrPins : BitVec 3 := 0
  fromOtp : Bool := false
  pecErrors : Nat := 0
  timeouts : Nat := 0
  speed : Nat := 0
  pecAll : Bool := false
  timeoutDis : Bool := false
  alertEn : Bool := false
  /-- The message being assembled, if any (R802). -/
  assembling : Option Bytes := none
  /-- Fragments discarded and counted (R811). -/
  discarded : Nat := 0
  requests : List Bytes := []
  /-- Responses and notifications unread, oldest first. -/
  items : List SmbItem := []
  /-- Bytes of the oldest item already advanced past. -/
  pos : Nat := 0
  seq : BitVec 8 := 0
  alert : Bool := false
  ntfLost : Nat := 0
  heldNtf : List Bytes := []
  /-- The transport has carried a request since reset. -/
  active : Bool := false
  /-- MCTP requests taken, with the address to answer (R805). -/
  mctpIn : List (Nat × SpdmReq) := []
  /-- The response being transmitted and the arbitrations it has lost. -/
  mctpOut : List (Nat × SpdmRsp) := []
  mctpLosses : Nat := 0
  mctpDropped : Nat := 0
deriving DecidableEq, Repr

/-- Instruction register of the debug access port's TAP (R806, R764). -/
inductive TapInstr where
  | bypass | idcode | sample | extest | clamp | highz
deriving DecidableEq, Repr

/-- The debug access port (R764, R806). -/
structure Tap where
  instr : TapInstr := .idcode
  /-- The boundary-scan chain as last preloaded or sampled. -/
  chain : Bytes := []
  /-- Control-core pairs halted (pair 0: CC0 CC1, pair 1: CC2 CC3). -/
  halted : List Nat := []
deriving DecidableEq, Repr

/-! ## 19 Security -/

/-- Lifecycle fuse bits (R719). -/
structure Lifecycle where
  provisioned : Bool := false
  deployed : Bool := false
  returned : Bool := false
deriving DecidableEq, Repr

/-- One programmed or partly programmed slot (R726); an index not listed is EMPTY. -/
structure OtpSlot where
  valid : Bool
  writer : Nat
  lifecycle : Nat
  fwVersion : Nat
  value : Bytes
deriving DecidableEq, Repr

/-- A slot being programmed (R734). -/
structure OtpProg where
  setting : Nat
  slot : Nat
  entry : OtpSlot
  done : Deferred
deriving DecidableEq, Repr

/-- A flash commit in progress (R733). -/
structure FlashCommit where
  target : Nat
  image : FlashImage
  raiseTo : Option Nat
  done : Deferred
deriving DecidableEq, Repr

/-- Lifecycle, keys, masks, persistent settings and image updates. -/
structure Sec where
  life : Lifecycle := {}
  ownerKeyHash : Option Bytes := none
  /-- The owner key hash passes its own check (R743). -/
  ownerKeyOk : Bool := true
  voteCorrected : Bool := false
  maskBar0 : W16 := 0x3FFF
  maskTwoWire : W16 := 0x3FFF
  maskNetwork : W16 := 0x3FFF
  /-- The nonce issued last on each transport, with its time of issue (R724). -/
  nonces : List (Xport × Bytes × Nat) := []
  /-- Slots by setting x 256 + slot. -/
  otp : TMap OtpSlot := []
  otpProg : Option OtpProg := none
  svnFloor : Nat := 0
  bootImage : Nat := 0
  bootFails : BitVec 2 := 0
  update : Option Staging := none
  flashCommit : Option FlashCommit := none
  /-- The flash directory as last read or written: 1 FW_A, 2 FW_B, 3 CONFIG. -/
  flash : TMap FlashImage := []
  /-- A transition to RETURNED runs, with its deferred operation. -/
  returning : Option Deferred := none
deriving DecidableEq, Repr

/-! ## 20 Power and debug -/

inductive PwrState where
  | active | paced | dormant
deriving DecidableEq, Repr

/-- The limits of R778 (Table 20.8 defaults). -/
structure PwrLimits where
  limitW : Nat := 700
  pacedLimitW : Nat := 450
  pacedMv : Nat := 700
  throttleMv : Nat := 650
  tjWarn : Nat := 95
  gateUs : Nat := 20
deriving DecidableEq, Repr

/-- A wake from STANDBY in progress (R761): steps passed and the state on arrival. -/
structure Wake where
  target : PwrState
  done : Deferred
  start : Nat
  phase : Nat := 0
deriving DecidableEq, Repr

structure Pwr where
  st : PwrState := .active
  /-- Takes effect at the next pace sample (R758, R778). -/
  pendingSt : Option PwrState := none
  limits : PwrLimits := {}
  pendingLimits : Option PwrLimits := none
  throttle : Bool := false
  tjWarn : Bool := false
  powerLimit : Bool := false
  /-- More than 2 % above the limit: the target falls at every sample (R752). -/
  powerOver : Bool := false
  sensorFail : Bool := false
  powerMw : Nat := 0
  /-- End of the last 1 ms power window. -/
  windowAt : Nat := 0
  heldVcore : Nat := 0
  wake : Option Wake := none
  gatedGlens : W32 := 0
  standbyEntries : Nat := 0
  throttleEvents : Nat := 0
  d3hot : Bool := false
  /-- R773: the governor holds its target. -/
  holdTarget : Bool := false
  dbgLevel : Nat := 0
  dbgDeadline : Option Nat := none
  /-- DBG_TELEMETRY_READ counters since cold reset (R781), by index. -/
  counters : TMap Nat := []
  /-- The trace ring, by slot 0-4095, and the number of entries written. -/
  trace : TMap Bytes := []
  traceCount : Nat := 0
deriving DecidableEq, Repr

/-! ## 18 Faults -/

/-- An event staged for the fault ring; the fields of Table 18.6. -/
structure FaultEv where
  kind : Nat := 0
  source : Nat := 0
  event : Nat := 0
  cls : Nat := 0x0F
  valley : Nat := 0xFF
  unit : Nat := 0
  subunit : Nat := 0xFFFF
  ctx : Nat := 0xFFFF
  scope : Nat := 0
  outcome : Nat := 0
  flags : Nat := 0
  count : Nat := 1
  cmpl : Nat := 0
  addr : Nat := 0
  related : Nat := 0
  syndrome : Nat := 0
  index : Nat := 0
  expected : Nat := 0
  observed : Nat := 0
  first : Nat := 0
  last : Nat := 0
  /-- An EVENTS_LOST marker takes its COUNT when it is written (R692). -/
  marker : Bool := false
deriving DecidableEq, Repr

/-- A targeted test requested or running (R683). -/
structure UnitTest where
  unit : UnitRef
  running : Bool := false
  /-- A check mismatch fences the unit before its test runs (R688). -/
  fence : Bool := false
  /-- SEQ of the first error covered, and how many errors are covered. -/
  firstSeq : Nat := 0
  covered : Nat := 0
  /-- FLT_SELFTEST_RUN and FLT_UNIT_READMIT requests that wait for it. -/
  waiters : List Deferred := []
deriving DecidableEq, Repr

/-- A readmission in progress (R689): 0 test, 1 probation, 2 waiting for boundaries. -/
structure Readmit where
  unit : UnitRef
  done : Deferred
  phase : Nat := 0
  partner : Nat := 0
  valley : Nat := 0xFF
  /-- Valleys whose boundary is still to pass. -/
  valleys : List Nat := []
  startSeq : Nat := 0
deriving DecidableEq, Repr

/-- A test window's settings (R717). -/
structure Window where
  periodMs : Nat
  offsetMs : Nat
  lengthMs : Nat
  classes : W16
  share : Nat
deriving DecidableEq, Repr

structure Pack where
  id : Nat
  version : Nat
  tests : Nat
  classes : W16
deriving DecidableEq, Repr

structure Flt where
  nextSeq : Nat := 1
  ringCons : W32 := 0
  consErr : Bool := false
  /-- The entry the writer has begun to write, and the staging queue, oldest first. -/
  writing : Option FaultEv := none
  staged : List FaultEv := []
  overflow : Nat := 0
  lost : Nat := 0
  transient : Nat := 0
  lasting : Nat := 0
  packRuns : Nat := 0
  packFails : Nat := 0
  /-- FRACTION code in force per valley; absent is OFF. -/
  checked : TMap Nat := []
  /-- Wave credit per glen x 8 + valley, in 1/256 waves (R686). -/
  credit : TMap Nat := []
  retired : List UnitRef := []
  tests : List UnitTest := []
  /-- Time of the last passed test, by class x 65536 + index. -/
  lastPass : TMap Nat := []
  readmits : List Readmit := []
  pack : Option Pack := none
  /-- A pack loaded while a window is open (R704). -/
  packNext : Option Pack := none
  /-- An UNLOAD while a window is open takes the pack when it closes. -/
  packGone : Bool := false
  window : Option Window := none
  windowNext : Option Window := none
  windowOpen : Bool := false
  /-- Units that have run every test of the pack in this window. -/
  packDone : List UnitRef := []
deriving DecidableEq, Repr

/-! ## 03 Pace, governor, timebase -/

/-- One valley's governor settings (Table 3.8). -/
structure GovValley where
  cls : Nat := 0
  target : Nat := 512
  inflMax : Nat := 65535
  inflMin : Nat := 1
deriving DecidableEq, Repr

/-- Governor settings in force (Table 3.5 defaults); a valley not listed has the defaults. -/
structure Gov where
  vmin : Nat := 700
  vmax : Nat := 850
  step : Nat := 5
  hyst : Nat := 16
  valleys : TMap GovValley := []
deriving DecidableEq, Repr

/-- Per-valley sample counts of R107, R108 and R842, and what the latest sample said. -/
structure PaceValley where
  index : Nat := 0
  below : Bool := false
  /-- Consecutive samples below target with VCORE unable to rise. -/
  shortRun : Nat := 0
  /-- Consecutive samples at or above target. -/
  okRun : Nat := 0
  ownDue : Bool := false
  releaseDue : Bool := false
  /-- This valley's shortfall holds back the lower classes. -/
  holdsLower : Bool := false
  /-- It is itself held back under R108. -/
  own : Bool := false
deriving DecidableEq, Repr

/-- The best master known from Announce messages (R112): the grandmaster's data set, and the port that sends. -/
structure PtpMaster where
  priority1 : Nat
  clockClass : Nat
  accuracy : Nat
  variance : Nat
  priority2 : Nat
  identity : Nat
  stepsRemoved : Nat
  sender : Nat
deriving DecidableEq, Repr

/-- TIME_PTP_SET fields in force (Table 3.9). -/
structure TimeCfg where
  mode : Nat := 0
  port : Nat := 0
  domain : Nat := 0
  transport : Nat := 0
  stepUs : Nat := 1
  slewPpm : Nat := 1
  hostOffset : Int := 0
  ppsSeconds : Nat := 0
deriving DecidableEq, Repr

/-- The timebase (R110-R114, R121, R125). -/
structure Time where
  now : Nat := 0
  hi : W32 := 0
  hiValid : Bool := false
  cfg : TimeCfg := {}
  pending : Option TimeCfg := none
  /-- 0 FREE, 1 ACQUIRING, 2 LOCKED, 3 HOLDOVER. -/
  sync : Nat := 0
  stepped : Bool := false
  steps : Nat := 0
  /-- READY or DEGRADED has been entered since device time began: it steps no more (R110). -/
  settled : Bool := false
  /-- Offset still to be slewed, and what MAX_SLEW_PPM has allowed beyond whole ns, in 10^-6 ns. -/
  slew : Int := 0
  slewRoom : Nat := 0
  /-- MODEL: the board reference's own count, in 10^-9 ns: device time less every correction (R110). -/
  ref : Int := 0
  ratePpb : Int := 0
  offset : Int := 0
  meanPath : Nat := 0
  master : Option PtpMaster := none
  /-- Origin and receipt times of the last Sync, and the log of its interval. -/
  lastSync : Option (Nat × Nat) := none
  syncLog : Int := 0
  /-- A delay request is on its way (R112). -/
  delayReq : Bool := false
  goodRun : Nat := 0
  ppsNext : Option Nat := none
  refLost : Bool := false
deriving DecidableEq, Repr

structure Pace where
  device : Nat := 0
  minRead : Nat := 0x3FF
  seq : W32 := 0
  cc : Nat := 0
  basin : Nat := 0
  glen : TMap Nat := []
  target : Nat := 0
  meas : Nat := 0
  /-- Signed, 1/8 degree C. -/
  tj : Int := 0
  low : Bool := false
  govLimit : Bool := false
  /-- Values last reported by the replicas: glens 0-31, 32 control cores, 33 Basin. -/
  raw : TMap Nat := []
  /-- Replicas judged faulty, by the same numbers. -/
  faulty : List Nat := []
  /-- Consecutive deviating samples per replica (R123). -/
  devRun : TMap Nat := []
  lowRun : Nat := 0
  highRun : Nat := 0
  lowDue : Bool := false
  clearDue : Bool := false
  /-- Samples of R107 step 2. -/
  easyRun : Nat := 0
  lowerDue : Bool := false
  /-- Device paces of the last 1,000 samples, newest first (MIN_1MS). -/
  recent : List Nat := []
  valley : TMap PaceValley := []
  gov : Gov := {}
  govPending : Option Gov := none
  /-- Device time of the last sample. -/
  at_ : Nat := 0
deriving DecidableEq, Repr

/-! ## 04 Basin, 05 external memory -/

/-- State of one 64-byte sector of a host line (R147). -/
inductive HostSector where
  | invalid | shared | exclusive | modified
deriving DecidableEq, Repr

/-- A line held in a CACHE group. `backing` is what memory behind a dirty line holds. -/
structure Line where
  group : Nat
  set : Nat
  way : Nat
  /-- Valley on whose behalf it was allocated (R143). -/
  valley : Nat
  stamp : Nat
  dirty : Bool := false
  /-- Writer context of a dirty line in a single-valley group (R144). -/
  writer : Option (Nat × Nat) := none
  backing : Mem := []
  sectors : List HostSector := []
deriving DecidableEq, Repr

/-- A change of a slice group in progress (R149-R153). -/
structure GroupChange where
  toScratch : Bool
  owner : Option Nat
  /-- Valleys whose next boundary is still to pass. -/
  waiting : List Nat
  /-- 0 waiting for boundaries, 1 draining, 2 written back, 3 zeroed (waiting for the new owner). -/
  phase : Nat := 0
  done : Deferred
  /-- The owner a scratch group had, should its change fail (R163). -/
  old : Option Nat := none
  /-- New way masks (BSN_WAYS_SET); empty for a mode change. -/
  ways : TMap Nat := []
  /-- A write-back could not reach memory (R163). -/
  faulted : Bool := false
deriving DecidableEq, Repr

/-- One slice group (R140, R169). -/
structure Group where
  scratch : Bool := false
  owner : Option Nat := none
  retired : Bool := false
  ways : TMap Nat := []
  change : Option GroupChange := none
  /-- Requests of the owner see the range from this boundary (R145) ... -/
  grant : Nat := 0
  /-- ... and no longer from this one (R152). -/
  revoke : Option Nat := none
deriving DecidableEq, Repr

/-- A BSN_FLUSH that outlives its response (R170). -/
structure Flush where
  base : Nat
  length : Nat
  invalidate : Bool
  done : Deferred
deriving DecidableEq, Repr

/-- A 64-byte HBM line that the host may hold (R148). -/
structure Tracked where
  line : Nat
  exclusive : Bool
deriving DecidableEq, Repr

/-- A device write that waits for the host to give lines up (R148): the context it is for, if any, and whether it is
written through. -/
structure HeldWrite where
  addr : Nat
  data : Bytes
  who : Option (Nat × Nat) := none
  through : Bool := false
deriving DecidableEq, Repr

/-- An engine's increment that waits for such writes of its context (R379): its request and object. -/
structure HeldSync where
  valley : Nat
  ctx : Nat
  req : Nat
  obj : Nat
deriving DecidableEq, Repr

/-- Basin groups, buckets, lines, the host window and its tracker. -/
structure Basin where
  groups : TMap Group := []
  /-- Group of each assigned bucket, and the target of a MOVING one (R142, R150). -/
  bucket : TMap Nat := []
  moving : TMap Nat := []
  lines : TMap Line := []
  clock : Nat := 0
  ceCount : Nat := 0
  ueCount : Nat := 0
  /-- 16-byte scratch chunks marked poisoned, by address / 16 (R162). -/
  poisonChunks : List Nat := []
  flushes : TMap Flush := []
  winOffset : Nat := 0
  winSize : Nat := 0
  winValley : Nat := 0
  /-- Oldest entry first. -/
  tracker : List Tracked := []
  /-- Tracked lines whose back-invalidate awaits the host's response. -/
  biPending : List Nat := []
  /-- Device writes that wait for such a response, oldest first. -/
  biWrites : List HeldWrite := []
  biSyncs : List HeldSync := []
  /-- Host reads that wait for room in the tracker: line, and whether it is read to be held Exclusive. -/
  hostReads : List (Nat × Bool) := []
deriving DecidableEq, Repr

/-- One HBM stack (Table 5.9). -/
structure Stack where
  temp : Int := 0
  lanesSpared : Nat := 0
  /-- Lanes marked for repeated errors: pseudo-channel and lane (Table 5.6). -/
  lanesMarked : List (Nat × Nat) := []
  hardUsed : Nat := 0
  /-- Pending hard repairs: pseudo-channel, bank, row (R185). -/
  hardPending : List (Nat × Nat × Nat) := []
  /-- Hard repairs the stack holds: pseudo-channel, bank, row. -/
  hardDone : List (Nat × Nat × Nat) := []
  corrected : Nat := 0
  uncorrected : Nat := 0
  refreshes : Nat := 0
  halvedRefresh : Bool := false
deriving DecidableEq, Repr

/-- One LPDDR package: temperature and refresh rate as MR4 gave them (R182). -/
structure Package where
  temp : Int := 0
  rate : Nat := 0
  refreshes : Nat := 0
deriving DecidableEq, Repr

/-- A soft repair in progress (R184). -/
structure SoftRepair where
  stack : Nat
  pc : Nat
  bank : Nat
  row : Nat
  done : Deferred
deriving DecidableEq, Repr

/-- A retirement requested by MEM_CHANNEL_RETIRE (R195). -/
structure RetireReq where
  lpddr : Bool
  channel : Nat
  waiting : List Nat
  done : Deferred
deriving DecidableEq, Repr

/-- External memory. -/
structure ExtMem where
  /-- Poisoned 64-byte sectors of HBM and LPDDR, by address / 64, in rising order. -/
  poison : List Nat := []
  /-- Regions unpopulated by retirement. -/
  hbmGone : List Nat := []
  lpdGone : List Nat := []
  /-- Channels retired: pseudo-channels 0-127, LPDDR channels 0-31. -/
  pcRetired : List Nat := []
  chRetired : List Nat := []
  hstacks : TMap Stack := []
  packages : TMap Package := []
  /-- Active soft repairs: (stack, pseudo-channel, bank) and row. -/
  soft : List (Nat × Nat × Nat × Nat) := []
  softBusy : Option SoftRepair := none
  /-- A soft repair a reset interrupted; the row is poisoned at the next training (R201). -/
  softTorn : Option (Nat × Nat × Nat × Nat) := none
  retires : List RetireReq := []
  /-- Regions that requests of a valley stamped from a boundary on no longer reach (R195): LPDDR,
  region, valley, boundary count. -/
  leaving : List (Bool × Nat × Nat × Nat) := []
  lpdCorrected : Nat := 0
  scrubPasses : Nat := 0
  scrubPos : Nat := 0
  scrubHours : Nat := 24
  training : Bool := false
  /-- Training follows a cold reset. -/
  cold : Bool := true
  selfRefresh : Bool := false
  /-- Channels in power-down in DORMANT: (LPDDR, channel). -/
  poweredDown : List (Bool × Nat) := []
deriving DecidableEq, Repr

/-! ## 13 Valleys and contexts -/

/-- A valley profile (Table 13.6), PERSONALITY resolved (R476). -/
structure Profile where
  separate : Bool := true
  personality : Nat := 84
  hold : Bool := false
  glens : W32 := 0
  hbmRegions : W16 := 0
  lpdRegions : BitVec 8 := 0
  cynPipes : BitVec 8 := 0
  syncFirst : Nat := 0
  syncCount : Nat := 0
  ctxMax : Nat := 1
  hwtShare : Nat := 0
deriving DecidableEq, Repr

/-- R490: a valley's own state. -/
inductive ValleyState where
  | noProfile | stopped | running | stopping
deriving DecidableEq, Repr

/-- What takes effect at a batch boundary of a valley (R262), with its own data. -/
inductive Change where
  | handles (ctx addr entries : Nat)
  | graphStore (ctx graph : Nat)
  | graphActivate (ctx graph : Nat)
  | graphRetire (ctx graph : Nat)
  | tableUsable (key : Nat)
  | tableGone (key : Nat)
  | setGone (set : Nat)
  | flip (set : Nat)
  | profile (p : Profile)
  | narrows (bytes : Bytes)
  | personality (p : Nat)
  | checked (code : Nat)
  /-- A Basin group's change, a channel's retirement, a unit's return: this valley's part. -/
  | basin (group : Nat)
  | channel (lpddr : Bool) (ch : Nat)
  | readmit (unit : UnitRef)
deriving DecidableEq, Repr

/-- A change armed for a valley: ready or not, and since when (R262). -/
structure Armed where
  change : Change
  ready : Bool := true
  since : Nat := 0
  done : Option Deferred := none
deriving DecidableEq, Repr

/-- What a boundary superseded and R263 has yet to retire. -/
inductive Superseded where
  | handles
  | graphVer (ctx graph ver : Nat)
  | graph (ctx graph : Nat)
  | table (key : Nat)
  | set (set : Nat)
  | profile (old new : Profile)
  | scratch (group : Nat)
  | channel (lpddr : Bool) (ch : Nat)
deriving DecidableEq, Repr

/-- A superseded resource: it is retired when no request stamped below `bnd` remains. -/
structure Retiring where
  bnd : Nat
  what : Superseded
  done : Option Deferred := none
  result : Bytes := []
deriving DecidableEq, Repr

/-- A shutdown in progress (R67, R68): the notifications its end owes, in order, and a held enable
with its payload. -/
structure Shutdown where
  dones : List Deferred := []
  held : Option (Deferred × Bytes) := none
deriving DecidableEq, Repr

/-- A valley. -/
structure Valley where
  profile : Option Profile := none
  st : ValleyState := .noProfile
  bseq : W32 := 0
  /-- MODEL: boundaries since reset, never set back; stamps and retention count in it. -/
  bnd : Nat := 0
  changes : List Armed := []
  retiring : List Retiring := []
  shut : Shutdown := {}
  /-- VALLEY_STOP: end of LIMIT_MS, contexts torn down, requests completed. -/
  limit : Option Nat := none
  torn : Nat := 0
  completed : Nat := 0
  admitted : Nat := 0
  switches : Nat := 0
  throttledNs : Nat := 0
  /-- Narrows settings in force, bytes 4-19 of R510. -/
  narrows : Bytes := [0, 0, 0, 0, 0x40, 0, 0, 0, 0, 0, 0, 0, 0x40, 0, 0, 0]
  /-- AUTO_US (R307) and PEER_WEIGHT (R259). -/
  autoUs : Nat := 100
  peerWeight : Nat := 4
  /-- Weighted round robin (R413): the queue whose turn it is and what is left of it. -/
  turnSq : Nat := 0
  turnLeft : Nat := 0
  /-- SQs whose chained successors are due, in order (R452). -/
  chainDue : List Nat := []
deriving DecidableEq, Repr

/-- R483, R515. -/
inductive CtxState where
  | resident | swapped | saving | restoring
deriving DecidableEq, Repr

/-- One entry of a context's weight-load log on a glen (R326). -/
structure LoadLog where
  glen : Nat
  src : Nat
  laneOff : Nat
  bytes : Nat
  firstLane : Nat
  lanes : Nat
  /-- A load from scratch: not in the log proper, kept while it covers part of an entry. -/
  scratch : Bool := false
deriving DecidableEq, Repr

/-- A graph version (R445, R473). -/
structure GraphVer where
  num : Nat
  record : Nat
  blocks : List Nat
  entry : Nat
  threads : Nat
  actBseq : Nat := 0
  /-- POISONED: its record or block table was found lost (Table 12.7). -/
  lost : Bool := false
deriving DecidableEq, Repr

/-- A stored graph (R445-R455). `current` is the version in force. -/
structure Graph where
  arena : Nat
  bytes : Nat
  indir : Nat
  indirCount : Nat
  codeBytes : Nat
  personality : Nat
  units : Nat
  vers : List GraphVer
  current : Option Nat := none
  pendingVer : Option Nat := none
  armed : Bool := false
  retiring : Bool := false
deriving DecidableEq, Repr

/-- A live context; its key is valley × 128 + number. -/
structure Context where
  /-- The CTX_CREATE payload (R513). -/
  create : Bytes
  scrBase : Nat := 0xFFFFFFFF
  st : CtxState := .resident
  handles : Option (Nat × Nat) := none
  log : List LoadLog := []
  /-- A replay has failed since the context's last chain (Table 8.4). -/
  replayErr : Bool := false
  /-- Bytes that peers sent for a restore, by place in the log; none where the READ failed (R326). -/
  replayData : TMap (Option Bytes) := []
  /-- Lane units to reload by replay: glen × 64 + unit (R326, Table 8.4). -/
  reload : List Nat := []
  graphs : TMap Graph := []
  switchesOut : Nat := 0
  lastSave : Nat := 0
  lastRestore : Nat := 0
  residentNs : Nat := 0
  /-- Since when it has been resident, or its switch has run; and waiting. -/
  since : Nat := 0
  waiting : Option Nat := none
  /-- The context to restore after this one's save. -/
  next : Option Nat := none
deriving DecidableEq, Repr

/-! ## 10-12 Requests, threads, queues -/

/-- Where a request came from: an SQ, or a network endpoint's buffered request (R585). -/
inductive Origin where
  | sq (n : Nat)
  | net (endpoint slot : Nat)
deriving DecidableEq, Repr

/-- The stamp of a request (R25, R260). -/
structure Stamp where
  bnd : Nat := 0
  bseq : W32 := 0
  personality : Nat := 84
  /-- Newest epoch of each table set of the valley. -/
  epochs : TMap Nat := []
  /-- The handle table in force: address and entries. -/
  handles : Option (Nat × Nat) := none
  /-- Checked fraction code in force (R706). -/
  checked : Nat := 0
  /-- The graph launched and its version. -/
  graph : Option (Nat × Nat) := none
  at_ : Nat := 0
deriving DecidableEq, Repr

/-- A request in flight. -/
structure Request where
  valley : Nat
  ctx : Nat
  origin : Origin
  /-- CMD_TAG, OP and ARG of the command, its CHAIN bit and its inline data. -/
  tag : Nat
  op : Nat
  arg : Nat := 0
  chain : Bool := false
  inline : Bytes := []
  stamp : Stamp := {}
  area : Option Nat := none
  /-- LAUNCH: threads to start, and the first not yet started. -/
  threads : Nat := 0
  started : Nat := 0
  /-- The first error: code and DETAIL (R227). -/
  latch : Option (Nat × Nat) := none
  /-- DETAIL of a successful completion. -/
  detail : Nat := 0
  wrote : Bool := false
  /-- Its completion waits to be posted. -/
  ended : Bool := false
deriving DecidableEq, Repr

/-- What a thread waits for. -/
inductive Wait where
  | run
  | load (addr size dst : Nat)
  | issue (desc : Bytes)
  /-- A wait on object `obj`: its entry is held once `entry` is set (R384). -/
  | ge (obj target since us dst : Nat) (entry : Bool)
  | acquire (obj n since us dst : Nat) (entry : Bool)
  | signal (node valley index n : Nat)
  /-- A SET, or an ADD, of a local object that waits for the host to make way for earlier writes (R376). -/
  | release (set : Bool) (obj n : Nat)
  | fence (all : Bool)
deriving DecidableEq, Repr

/-- A thread (R359): registers not listed are 0. `saved`: its context is switched out. -/
structure Thread where
  req : Nat
  glen : Nat
  pc : Nat := 0
  regs : TMap W64 := []
  wait : Wait := .run
  saved : Bool := false
deriving DecidableEq, Repr

/-- A queued task (R368): `queue` is its glen, or none for the valley queue; `glen` enqueued it. -/
structure Task where
  req : Nat
  queue : Option Nat
  glen : Nat
  record : Bytes
  ready : Bool
  status : Nat := 0
  since : Nat := 0
  saved : Bool := false
deriving DecidableEq, Repr

/-- A sync object (Table 10.6). The acquire line holds thread numbers in arrival order. -/
structure SyncObj where
  value : W64 := 0
  notifyAt : W64 := 0
  ctrl : W32 := 0
  armed : Bool := false
  fired : Bool := false
  poisoned : Bool := false
  notifyErr : Bool := false
  sizeErr : Bool := false
  refused : Nat := 0
  line : List Nat := []
  /-- High half latched by a read of the low half, while the read it serves is still to come (R391). -/
  hi : W32 := 0
  hiValid : Bool := false
deriving DecidableEq, Repr

/-- A submission queue (R400-R432). -/
structure Sq where
  update : Bool
  kernel : Bool
  ctx : Nat
  cq : Nat
  ring : Nat
  log2 : Nat
  prio : Nat
  weight : Nat
  maxIn : Nat
  prod : W32 := 0
  cons : W32 := 0
  pending : Bool := false
  /-- 1 ACTIVE, 2 ERROR, 3 DESTROYING (Table 11.4a). -/
  st : Nat := 1
  err : Nat := 0
  inflight : Nat := 0
  admitted : Nat := 0
  spurious : Nat := 0
  stalls : Nat := 0
  /-- The next command's withheld admission is counted in STALLS. -/
  stalled : Bool := false
  done : Option Deferred := none
  /-- Since when a command has been ready without being chosen (R413). -/
  readySince : Option Nat := none
  /-- A CHAIN predecessor runs; then whether it succeeded, for its successor. -/
  chained : Bool := false
  chainOk : Option Bool := none
deriving DecidableEq, Repr

/-- A completion queue. -/
structure Cq where
  log2 : Nat
  vector : Nat
  count : Nat
  ns : Nat
  ring : Nat
  head : W32 := 0
  tail : W32 := 0
  st : Nat := 1
  err : Nat := 0
  armed : Bool := false
  /-- Time of the first entry posted since arming. -/
  firstAt : Option Nat := none
  reserved : Nat := 0
  posted : Nat := 0
  irqs : Nat := 0
  notifyWaits : Nat := 0
  corrupt : Bool := false
deriving DecidableEq, Repr

/-- A completion entry to be posted on a CQ (Table 11.4b): KIND, bytes 0-13 as fields, STATUS, PARTIAL,
and the request it completes. `b` none is SQ_CONS at posting. -/
structure Due where
  cq : Nat
  kind : Nat
  a : Nat
  b : Option Nat
  c : Nat
  d : Nat := 0
  e : Nat := 0
  status : Nat := 0
  wrote : Bool := false
  req : Option Nat := none
  /-- It uses a reserved entry. -/
  held : Bool := true
deriving DecidableEq, Repr

/-! ## 06, 08 Creek and Plain -/

/-- A position of a bag: its row is still to come, or the row's FP32 patterns. -/
inductive Pos where
  | row (set table row base k : Nat)
  | dflt
  | remote (node set table row : Nat) (asked : Bool)
  | values (w : List Nat)
deriving DecidableEq, Repr

/-- A bag in a Creek (R219, Table 6.9). `lists`: its index and weight lists once read. -/
structure Bag where
  req : Nat
  glen : Nat
  creek : Nat
  desc : Bytes
  running : Bool := false
  resolved : Bool := false
  index : Option Bytes := none
  weights : Option Bytes := none
  positions : TMap Pos := []
  /-- List position of each position, for WSUM. -/
  listPos : List Nat := []
  skipped : Nat := 0
  missing : Nat := 0
  /-- Where the rows landed so far came from. -/
  homes : List Nat := []
  err : Option Nat := none
  saved : Bool := false
deriving DecidableEq, Repr

/-- A peer's lookup in a Creek's peer queue (Table 6.11), or held for its epoch. -/
structure PeerLookup where
  node : Nat
  tag : Nat
  reqTag : Nat
  set : Nat
  table : Nat
  epoch : Nat
  rows : List Nat
  creek : Option Nat := none
  since : Nat := 0
deriving DecidableEq, Repr

/-- A chain or weight load of a glen's Plain, in issue order by its number. -/
structure PlainOp where
  req : Nat
  ctx : Nat
  glen : Nat
  desc : Bytes
  running : Bool := false
  /-- The bytes to be written, or the error; a load's source bytes. -/
  result : Bytes := []
  err : Option Nat := none
  saved : Bool := false
  /-- The checked fraction picked it (R686), and the partner's result. -/
  checked : Bool := false
  compared : Bool := false
  /-- The glen that runs it a second time (R686); its own where lanes are rotated. -/
  partner : Nat := 0
deriving DecidableEq, Repr

/-- What a remote operation in flight serves. -/
inductive RemoteUse where
  | load (thread : Nat)
  | store (thread : Nat)
  | signal (thread : Nat)
  | lookup (bag : Nat) (positions : List Nat)
  | indexList (bag : Nat)
  | weightList (bag : Nat)
  | weights (op : Nat)
  /-- Place `entry` in the log of a context, read for its restore (R326). -/
  | replay (ctx entry : Nat)
deriving DecidableEq, Repr

/-- A remote operation awaiting its answer: message type (Table 14.4), target, tag, and for part of a
longer read its offset and length. -/
structure Remote where
  use : RemoteUse
  req : Nat
  glen : Nat
  kind : Nat
  node : Nat
  sent : Nat
  tag : Nat
  off : Nat := 0
  bytes : Nat := 0
deriving DecidableEq, Repr

/-- A Pass packet (R525, Table 14.4): destination, source, valley tag, type, and its message. -/
structure Packet where
  dest : Nat
  src : Nat
  tag : Nat
  kind : Nat
  poison : Bool := false
  hops : Nat := 0
  /-- CLASS as it arrived, of a type not listed (Table 14.3). -/
  cls : Nat := 0
  msg : Bytes
deriving DecidableEq, Repr

/-! ## 06, 07 Table sets, tables, streams -/

/-- An armed or running epoch advance (Table 7.2): 1 deferred, 2 catching up, 3 staged, 4 awaiting
its boundary. -/
structure Advance where
  phase : Nat
  done : Option Deferred
  target : Nat
  retainUs : Nat
  slots : Nat := 0
  /-- Issued by reflow itself. -/
  own : Bool := false
deriving DecidableEq, Repr

/-- A block to free when the old epoch expires: address, bytes, tier, back to the host. -/
structure FreeBlock where
  addr : Nat
  bytes : Nat
  tier : Nat
  host : Bool
deriving DecidableEq, Repr

/-- A pool range or a free piece of one: tier, address, bytes (R271). -/
structure Extent where
  tier : Nat
  addr : Nat
  bytes : Nat
deriving DecidableEq, Repr

/-- A table set (R208). Change lists map table × 2^34 + slot to an entry. -/
structure TSet where
  valley : Nat
  create : Bytes
  newest : Nat
  /-- N - 1 is live, superseded at this time under this retention. -/
  oldLive : Bool := false
  flipAt : Nat := 0
  retainUs : Nat := 0
  cN : TMap Nat := []
  cP : TMap Nat := []
  /-- The sealed list of an advance in progress; records then go to `cP`. -/
  sealed : Option (TMap Nat) := none
  records : Nat := 0
  sealedRecords : Nat := 0
  advance : Option Advance := none
  freeing : List FreeBlock := []
  pools : List Extent := []
  free : List Extent := []
  /-- Pool copies made for entries not yet published. -/
  copies : List Extent := []
  /-- Absorbed blocks outside the pool ranges, for POOL_BYTES. -/
  absorbed : List Extent := []
  journal : Nat := 0
  destroying : Bool := false
  /-- Stream served last by the engine's round robin (R269). -/
  lastStream : Nat := 0
deriving DecidableEq, Repr

/-- A table; its key is SET × 1024 + TABLE. -/
structure Table where
  create : Bytes
  /-- Boundary count from which requests may name it, and from which no longer. -/
  from_ : Option Nat := none
  until_ : Option Nat := none
  destroying : Bool := false
  adopted : Bool := false
  lookups : Nat := 0
  missing : Nat := 0
  poisoned : Nat := 0
  served : Nat := 0
  refused : Nat := 0
deriving DecidableEq, Repr

/-- A record waiting in a stream: its bytes and, for PASS, who to acknowledge. -/
structure Inbox where
  bytes : Bytes
  node : Nat := 0
  tag : Nat := 0
deriving DecidableEq, Repr

/-- A Headwater stream (R270). -/
structure Stream where
  valley : Nat
  payload : Bytes
  /-- 0 DISABLED, 1 ENABLED, 2 SHUTTING_DOWN. -/
  st : Nat := 1
  shut : Shutdown := {}
  taken : Nat := 0
  refused : Nat := 0
  inbox : List Inbox := []
deriving DecidableEq, Repr

/-- A move of a reflow session (Table 7.11); state 0 PLANNED to 4 FAILED. -/
structure Move where
  slot : Nat
  target : Nat
  old : Nat := 0
  st : Nat := 0
  flip : Nat := 0
deriving DecidableEq, Repr

/-- A message in a receive buffer (R583): source address and port, payload, records already taken. -/
structure NetMsg where
  addr : Bytes
  port : Nat
  bytes : Bytes
  took : Nat := 0
  /-- Of an admitted request: the relocated handle its response reads. -/
  handle : Bytes := []
deriving DecidableEq, Repr

/-- A network endpoint (R583, R602). -/
structure Endpoint where
  create : Bytes
  buf : List NetMsg := []
  inflight : Nat := 0
  admitted : Nat := 0
  dropped : Nat := 0
  /-- Its queue pair is in the error state (R593, R598). -/
  err : Bool := false
  /-- The queue pair's send rate, in millionths of the line rate, and when it changed last (R582). -/
  rate : Nat := 1000000
  rateAt : Nat := 0
  closing : Option Deferred := none
  readySince : Option Nat := none
deriving DecidableEq, Repr

/-- A reflow or TRACK session of a set (R280, R282). -/
structure Session where
  set : Nat
  table : Nat
  track : Bool
  temp : Nat := 0
  journal : Nat := 0
  journalBytes : Nat := 0
  advance : Bool := false
  stepMoves : Nat := 0
  moves : List Move := []
  steps : Nat := 0
  lastEpoch : Nat := 0
  done : Option Deferred := none
  /-- Abandoned (R304): it ends when its FLIPPED moves are committed. -/
  abandoned : Option Deferred := none
deriving DecidableEq, Repr

/-- The command side of the device: contexts, queues, requests, threads, Creeks and Plains. Numbers
of requests, threads, tasks, bags, operations and remote operations are the model's own, rising. -/
structure Core where
  nextId : Nat := 1
  ctxs : TMap Context := []
  reqs : TMap Request := []
  threads : TMap Thread := []
  tasks : TMap Task := []
  sync : TMap SyncObj := []
  sqs : TMap Sq := []
  cqs : TMap Cq := []
  due : List Due := []
  bags : TMap Bag := []
  /-- Turn of each Creek's round of 16 (R235). -/
  turns : TMap Nat := []
  peers : List PeerLookup := []
  plain : TMap PlainOp := []
  remote : TMap Remote := []
  /-- Packets this node has originated and not yet queued at a port. -/
  outbox : List Packet := []
  /-- Glen scratch by glen × 2^21 + offset, lane stores by glen × 2^21 + lane × 2^14 + offset. -/
  scratch : Mem := []
  lanes : Mem := []
  /-- Thread of each glen that took the last operation turn (R365). -/
  opTurn : TMap Nat := []
  /-- The valley that took the last admission turn (R414). -/
  turnValley : Nat := 7
  /-- Of each Headwater engine: its record turns taken, modulo 64, and the valley that was last lent one (R478). -/
  hwTurns : TMap (Nat × Nat) := []
  /-- Poisoned 16-byte chunks of glen scratch (R677), by scratch address / 16. -/
  scratchPoison : List Nat := []
  /-- Poisoned 16-byte chunks of lane stores (Table 8.4), by lane address / 16. -/
  lanePoison : List Nat := []
  /-- Context that last wrote a unit, by glen × 64 + unit (R311). -/
  owner : TMap Nat := []
  sets : TMap TSet := []
  tables : TMap Table := []
  streams : TMap Stream := []
  eps : TMap Endpoint := []
  /-- The datagram each request of an endpoint came in. -/
  netReqs : TMap NetMsg := []
  sessions : List Session := []
  /-- Journals that survived or are registered, by address (R295, R305). -/
  journals : List Nat := []
deriving DecidableEq, Repr

/-! ## 14 Pass fabric -/

/-- Link states (R535). -/
inductive LinkState where
  | disabled | backoff | train | align | init | up | retrain | shuttingDown | retired
deriving DecidableEq, Repr

/-- A key of one phase: salt, key, and the frames sent or expected under it (R549, R550). -/
structure PassKey where
  salt : Bytes
  key : Bytes
  count : Nat := 0
deriving DecidableEq, Repr

/-- A packet queued at an output port: its channel, the port it came in by (none: this node), and when it was
queued. `sent` flits of it have left. -/
structure Queued where
  chan : Nat
  input : Option Nat
  packet : Packet
  since : Nat
  sent : Nat := 0
  /-- Counted in SLOT_SLIP (R545). -/
  slipped : Bool := false
deriving DecidableEq, Repr

/-- A CONTROL message to be sent; an ECHO_ANS forms its TURN_NS from the ECHO's arrival. -/
structure Control where
  kind : Nat
  msg : Bytes
  arrived : Option Nat := none
deriving DecidableEq, Repr

/-- The partner of a link, from its LINK_INIT and its headers. -/
structure Partner where
  node : Nat
  port : Nat
  incarnation : Nat
  rootHops : Nat := 0xFF
  schedGen : Nat := 0
  inStep : Bool := false
  unslotted : Bool := false
deriving DecidableEq, Repr

/-- Counters of Table 14.8. -/
structure PassCounts where
  tx : Nat := 0
  rx : Nat := 0
  through : Nat := 0
  fecCorrected : Nat := 0
  slip : Nat := 0
  fecFailed : Nat := 0
  crcDrops : Nat := 0
  replays : Nat := 0
  duplicates : Nat := 0
  discarded : Nat := 0
  falseCandidates : Nat := 0
  retrains : Nat := 0
  authFails : Nat := 0
deriving DecidableEq, Repr

/-- A Pass link. -/
structure PassLink where
  st : LinkState := .disabled
  encrypt : Bool := false
  /-- PASS_LINK_ENABLE FLAGS, and the map in force (R518). -/
  identity : Bool := false
  map : W32 := 0x001AC688
  reason : Nat := 0
  shut : Shutdown := {}
  /-- End of the backoff, start of TRAIN, start of the shutdown, of ALIGN after a lost marker. -/
  until_ : Nat := 0
  since : Nat := 0
  incarnation : Nat := 0
  partner : Option Partner := none
  /-- The partner's LINK_INIT of this training was accepted. -/
  greeted : Bool := false
  /-- ECHOs sent (id and time) and round trips measured. -/
  echoes : TMap Nat := []
  trips : List Nat := []
  delay : Nat := 0
  lastEcho : Nat := 0
  /-- The link is in RETRAIN until it is UP again (R541); retrains failed in a row. -/
  again : Bool := false
  failed : Nat := 0
  /-- Sender: next SEQ, unacknowledged flits, those to be sent again, and the replay timer. -/
  txSeq : W16 := 0
  unacked : List Bytes := []
  replaying : List Bytes := []
  replayAt : Nat := 0
  timerRuns : Nat := 0
  lastNak : Option Nat := none
  /-- Receiver: next SEQ, whether a flit was accepted, a NAK to send and when one was sent last. -/
  rxSeq : W16 := 0
  accepted : Bool := false
  nakDue : Bool := false
  nakSent : Option Nat := none
  /-- Flits received of a packet not yet whole, by channel. -/
  partly : TMap (List Bytes) := []
  /-- Credits the partner gave and flits sent, by channel; credits given and flits received. -/
  credits : TMap Nat := []
  sent : TMap Nat := []
  given : TMap Nat := []
  received : TMap Nat := []
  queue : List Queued := []
  control : List Control := []
  /-- Packet whose flits are being sent. -/
  current : Option Queued := none
  turnChan : Nat := 0
  turnIn : TMap Nat := []
  /-- Keys by phase, for each direction; the phase used for sending. -/
  txKeys : TMap PassKey := []
  rxKeys : TMap PassKey := []
  txPhase : Nat := 0
  /-- Frames sent, of a link without keys. -/
  frames : Nat := 0
  /-- Times of authentication failures within the last 1 ms. -/
  authAt : List Nat := []
  notice : Bool := false
  lost : Nat := 0
  counts : PassCounts := {}
  /-- Rounds since a boundary with SCHED_GEN unlike the partner's. -/
  genRuns : Nat := 0
deriving DecidableEq, Repr

/-- A schedule or route change outstanding. -/
structure FabricChange where
  gen : Nat
  round : Nat
  bytes : Bytes
  done : Deferred
deriving DecidableEq, Repr

/-- The fabric as this node sees it (R528-R533, R566, R570). -/
structure Fabric where
  topology : Nat := 0
  xSize : Nat := 0
  ySize : Nat := 0
  root : Nat := 0
  enabled : BitVec 8 := 0
  encrypt : BitVec 8 := 0
  hopLimit : Nat := 255
  /-- Fabric time in ps, at a device time. -/
  ps : Nat := 0
  at_ : Nat := 0
  /-- Sum and number of this round's offsets to the parent, in ps, and the last round's mean. -/
  sum : Int := 0
  samples : Nat := 0
  offset : Int := 0
  /-- 1 IN_STEP, 2 OUT_OF_STEP, 3 JOINING (Table 14.9; the root is 0). -/
  step : Nat := 3
  inRun : Nat := 0
  outRun : Nat := 0
  schedGen : Nat := 0
  /-- WINDOW[8]: a tag, or 0xFF for FREE. -/
  windows : Bytes := [0xFF, 0xFF, 0xFF, 0xFF, 0xFF, 0xFF, 0xFF, 0xFF]
  sched : Option FabricChange := none
  /-- The last schedule boundary that has passed, in units of 1,024 rounds. -/
  boundary : Nat := 0
  routeGen : Nat := 0
  /-- ROUTE[256], where a table is installed. -/
  routes : Option Bytes := none
  routing : Option FabricChange := none
  /-- Packets dropped at their destination (R525). -/
  dropped : Nat := 0
deriving DecidableEq, Repr

/-! ## 15 Host link -/

/-- The host link, its MSI-X table and its counters (R573-R577, R604). -/
structure Link where
  standalone : Bool := false
  up : Bool := false
  gts : Nat := 0
  lanes : Nat := 0
  cxlActive : Bool := false
  /-- CXL.cache and CXL.mem are enabled (R83, R575). -/
  cxlEnabled : Bool := false
  decoder : Bool := false
  /-- Vectors whose mask bit is clear, and vectors pending (R576). -/
  unmasked : List Nat := []
  pendingVec : List Nat := []
  dlDowns : Nat := 0
  aerCorr : Nat := 0
  aerUncorr : Nat := 0
  linesLost : Nat := 0
deriving DecidableEq, Repr

/-- A request of the management endpoint waiting in its mailbox (R590). -/
structure MgmtReq where
  mbx : Nat
  src : Nat
  seq : Nat
  msg : Bytes
deriving DecidableEq, Repr

/-- The network management endpoint (R590, record NET_MGMT of R606). -/
structure Mgmt where
  /-- Record NET_MGMT (R606) is present: its UDP port, the destination of DM notifications, and its 40 bytes. A
  source or destination is its address, as a number, × 65536 + its port. -/
  port : Option Nat := none
  notifyDest : Nat := 0
  cfg : Bytes := []
  queue : List MgmtReq := []
  /-- Kept responses, oldest first: mailbox, source, SEQ, response. -/
  kept : List (Nat × Nat × Nat × Bytes) := []
  seq : TMap Nat := []
  dropped : Nat := 0
  /-- DM has carried a request from the network since reset. -/
  active : Bool := false
deriving DecidableEq, Repr

/-- An Ethernet port (R581, R601). -/
structure EthPort where
  up : Bool := false
  /-- Bytes of NET_PORT or NET_PORT_SET in force. -/
  cfg : Bytes := []
  rxDropped : Nat := 0
  fullRefusals : Nat := 0
  respDiscarded : Nat := 0
deriving DecidableEq, Repr

/-- An RDMA operation outstanding at the pool node, in issue order (R591): a READ of a ring's header, of an entry
or of its data, or a WRITE. -/
structure RdmaOp where
  write : Bool
  ring : Nat
  /-- 0 header, 1 entry, 2 data. -/
  what : Nat := 0
  off : Nat
  bytes : Nat
deriving DecidableEq, Repr

/-- The pool node (R591, R598, R605): its 56 bytes, its queue pair, the region as this device last saw it, and the
operations outstanding. -/
structure Pool where
  cfg : Option Bytes := none
  qpErr : Bool := false
  rate : Nat := 1000000
  rateAt : Nat := 0
  mem : Mem := []
  ops : List RdmaOp := []
deriving DecidableEq, Repr

/-! ## 16 Ford -/

/-- A shard (R613, R636): its 32 bytes; the key in the table is valley × 256 + SHARD. -/
abbrev Shard := Bytes

/-- A Ford command that waits for its turn, its VEC or its answer. -/
structure FordJob where
  ring : Nat
  desc : Bytes
  /-- Local addresses of SRC and DST, and the relocated data as sent. -/
  src : Nat
  dst : Nat
  /-- Bytes of its handle from DST on (R442). -/
  room : Nat := 0
  data : Bytes := []
  /-- The shard's bytes when the command was admitted (R627). -/
  shard : Bytes := []
  /-- Its exchange is outstanding. -/
  posted : Bool := false
deriving DecidableEq, Repr

/-- An exchange outstanding on a ring, by XID: its request and what it asked for. -/
structure Exchange where
  req : Nat
  job : FordJob
  op : Nat
  sent : Nat
  rspAt : Nat
  rspLen : Nat
deriving DecidableEq, Repr

/-- An exchange ring (R614, R634). -/
structure Ring where
  create : Bytes
  /-- 1 OPEN, 2 CLOSING, 3 ERROR. -/
  st : Nat := 1
  outProd : W32 := 0
  outCons : W32 := 0
  inProd : W32 := 0
  inCons : W32 := 0
  /-- Buffer area in use: the OUT entry it belongs to, or none while its exchange lasts; offset and bytes. -/
  used : List (Option W32 × Nat × Nat) := []
  exch : TMap Exchange := []
  /-- VECs held: their entries, oldest first. -/
  held : List Bytes := []
  errors : Nat := 0
  late : Nat := 0
  inexact : Nat := 0
  sent : Nat := 0
  received : Nat := 0
  served : Nat := 0
  converted : Nat := 0
  done : Option Deferred := none
  polledAt : Nat := 0
deriving DecidableEq, Repr

structure Ford where
  rings : TMap Ring := []
  shards : TMap Shard := []
  /-- Commands in progress, by request. -/
  jobs : TMap FordJob := []
  nextXid : Nat := 0
  /-- The valley whose command was last posted (R622). -/
  turn : Nat := 7
deriving DecidableEq, Repr

/-! ## 17 Canyon -/

/-- A Canyon context (R639): its enable message, level state and counters. -/
structure CynCtx where
  pay : Bytes
  /-- 1 ENABLED, 2 SHUTTING_DOWN. -/
  st : Nat := 1
  chain : List Nat := []
  crc : Nat := 0
  /-- Key slots loaded. -/
  slots : List Nat := []
  loadIdx : Nat := 0
  maskIdx : Nat := 0
  /-- TRIPLES_LOW has been posted since LOADED last stood at LOW_WATER. -/
  low : Bool := false
  shut : Shutdown := {}
  ops : Nat := 0
  levelRefused : Nat := 0
  poisoned : Nat := 0
deriving DecidableEq, Repr

/-- A checked Canyon command, queued or running on a pipeline (R658), by request. -/
structure CynJob where
  valley : Nat
  ctx : Nat
  op : Nat
  desc : Bytes
  /-- Operand addresses IN0, IN1, OUT0, OUT1, and the headers of the inputs as checked (R661). -/
  in0 : Nat
  in1 : Nat
  out0 : Nat
  out1 : Nat
  hdr0 : Bytes
  hdr1 : Bytes
  /-- SCORE: the plaintext's elements, and the scale entries of the rows. -/
  elems : List Int := []
  width : Nat := 0
  scales : Bytes := []
  /-- SS_MASK: its first triple. -/
  first : Nat := 0
  pipe : Option Nat := none
  start : Nat := 0
  result : Bytes := []
  err : Option Nat := none
  /-- Its request has gone: it runs its time and writes nothing (R666). -/
  dead : Bool := false
deriving DecidableEq, Repr

structure Cyn where
  ctxs : TMap CynCtx := []
  jobs : TMap CynJob := []
  /-- Key areas and pools ever enabled since the last cold reset, zeroed by the next training: address, bytes. -/
  areas : List (Nat × Nat) := []
deriving DecidableEq, Repr

/-! ## What leaves the device -/

/-- One thing the device has sent, or the answer to one read. -/
inductive Output where
  /-- An MSI-X message (R576). -/
  | msix (vector : Nat)
  /-- The value a register read returned. -/
  | read (value : Nat)
  /-- A PCIe configuration request: served, or answered with Retry Status (R83). -/
  | pcieConfig (served : Bool)
  /-- The data of a two-wire Block Read, PEC not shown. -/
  | smbRead (data : Bytes)
  /-- A two-wire command-code or PEC byte was not acknowledged. -/
  | smbNack
  /-- An MCTP packet sent as controller (R805). -/
  | mctp (dest : Nat) (rsp : SpdmRsp)
  /-- The debug port shifted out these bits (R806). -/
  | tap (value : Nat)
  /-- A datagram of the management endpoint (R590): kind, mailbox, SEQ, destination, message. -/
  | mgmt (kind mbx seq dest : Nat) (msg : Bytes)
  /-- Bytes the debug port read from memory (R764). -/
  | dapRead (data : Bytes)
  /-- A PTP delay request leaves a port, in a domain and over a transport (R112). -/
  | ptpDelayReq (port domain transport : Nat)
  /-- PPS_OUT rose at this device time, with this width in ms (R114). -/
  | pps (time width : Nat)
  /-- A datagram or SEND of a network endpoint, to an address and port (R587, R588). -/
  | datagram (endpoint : Nat) (addr : Bytes) (port : Nat) (msg : Bytes)
  /-- A frame of a Pass port: its 4,352 line bytes (R520), the frame data before scrambling, and DOWN_NOTICE in 16
  frames. -/
  | frame (port : Nat) (data line : Bytes)
  | downNotice (port : Nat)
  /-- An answer to an ARP, neighbour-discovery or ICMP echo packet of a port (R581). -/
  | ethReply (port kind : Nat) (data : Bytes)
  /-- CXL: a snoop answer, a read's data, a back-invalidate issued. -/
  | cxlSnoop (addr : Nat) (states : List HostSector)
  | cxlData (addr : Nat) (data : Bytes) (poison : Bool)
  | cxlBackInvalidate (addr : Nat)
deriving DecidableEq, Repr

/-! ## The whole -/

/-- Why a command ends in a fault. Every error the spec describes is a change of State, so no
command raises one. -/
inductive Fault : Type
deriving DecidableEq, Repr

/-- Why a command is refused. -/
inductive Refusal where
  /-- Raised by the dispatcher alone for a row with no meaning yet; safe. -/
  | notModelled (mnemonic : String)
deriving DecidableEq, Repr

/-- The device and its queue of waiting commands. -/
structure State where
  fuse : Fuse := {}
  rst : Rst := {}
  dev : Dev := {}
  mbx : TMap Mbx := []
  svc : Service := {}
  /-- Ring areas of BAR0 by offset (R832): mailbox rings and fault ring. -/
  ram : Mem := []
  gpio : Gpio := {}
  smb : Smb := {}
  tap : Tap := {}
  sec : Sec := {}
  pwr : Pwr := {}
  flt : Flt := {}
  time : Time := {}
  pace : Pace := {}
  /-- Device memory by local address, as every device access sees it. -/
  mem : Mem := []
  basin : Basin := {}
  ext : ExtMem := {}
  valleys : TMap Valley := []
  /-- States of the valleys when the device entered DRAINING (R507). -/
  drainSt : TMap ValleyState := []
  core : Core := {}
  link : Link := {}
  links : TMap PassLink := []
  fabric : Fabric := {}
  eth : TMap EthPort := []
  mgmt : Mgmt := {}
  pool : Pool := {}
  ford : Ford := {}
  cyn : Cyn := {}
  /-- MODEL: number of free values drawn so far. -/
  free : Nat := 0
  /-- MODEL: what has left the device, oldest first. -/
  out : List Output := []
  pending : List Instr := []
deriving DecidableEq, Repr

/-- The device held in a cold reset by PWROK, every field at its reset value. -/
def State.reset : State := {}

end Sys2Proof.Machine
end

