-- ==== Sys2Proof/Machine/Operands.lean ====
section
/-! DEFINITION. Operand forms: sparse maps, byte memories, little-endian fields (R3), and the
check codes of R91 and R796. -/
namespace Sys2Proof.Machine
open Sys2Proof

/-! ## Sparse maps -/

def look {α : Type} : TMap α → Nat → Option α
  | [], _ => none
  | (k, v) :: m, a => if a = k then some v else look m a

def lookD {α : Type} (m : TMap α) (a : Nat) (d : α) : α := (look m a).getD d

/-- Put a value at a key, keeping the rising order. -/
def put {α : Type} : TMap α → Nat → α → TMap α
  | [], a, x => [(a, x)]
  | (k, v) :: m, a, x =>
    if a < k then (a, x) :: (k, v) :: m
    else if a = k then (a, x) :: m
    else (k, v) :: put m a x

def del {α : Type} : TMap α → Nat → TMap α
  | [], _ => []
  | (k, v) :: m, a => if a = k then m else (k, v) :: del m a

/-- Change the value at a key, starting from a default where the key is not listed. -/
def upd {α : Type} (m : TMap α) (a : Nat) (d : α) (f : α → α) : TMap α := put m a (f (lookD m a d))

/-! ## Bytes in memory -/

/-- One byte; a cell not listed reads as zero. -/
def rd (m : Mem) (a : Nat) : Byte := lookD m a 0

/-- Write one byte; writing zero removes the cell. -/
def wr (m : Mem) (a : Nat) (b : Byte) : Mem := if b = 0 then del m a else put m a b

def rdN (m : Mem) (a : Nat) : Nat → Bytes
  | 0 => []
  | n + 1 => rd m a :: rdN m (a + 1) n

def wrN (m : Mem) (a : Nat) : Bytes → Mem
  | [] => m
  | b :: bs => wrN (wr m a b) (a + 1) bs

/-- Zero a range. -/
def zeroN (m : Mem) (a n : Nat) : Mem := m.filter fun c => c.1 < a || a + n ≤ c.1

/-! ## Fields of a byte string -/

/-- The canonical form of a memory: addresses strictly rising, and no cell equal to what an unlisted one reads as. -/
abbrev Memory.wf (m : Mem) : Prop := m.Pairwise (fun c d => c.1 < d.1) ∧ ∀ c ∈ m, c.2 ≠ 0

/-- The `n` bytes of a value, least significant first. -/
def leBytes : Nat → Nat → Bytes
  | 0, _ => []
  | n + 1, v => BitVec.ofNat 8 v :: leBytes n (v / 256)

/-- The value of bytes, least significant first. -/
def leNat : Bytes → Nat
  | [] => 0
  | b :: bs => b.toNat + 256 * leNat bs

def slice (p : Bytes) (o n : Nat) : Bytes := (p.drop o).take n
def u8 (p : Bytes) (o : Nat) : Nat := leNat (slice p o 1)
def u16 (p : Bytes) (o : Nat) : Nat := leNat (slice p o 2)
def u32 (p : Bytes) (o : Nat) : Nat := leNat (slice p o 4)
def u64 (p : Bytes) (o : Nat) : Nat := leNat (slice p o 8)

def zeros (n : Nat) : Bytes := List.replicate n 0

/-- A byte string cut or zero-extended to a length. -/
def fit (n : Nat) (p : Bytes) : Bytes := (p ++ zeros n).take n

/-- Two's complement of `bits` bits, read as a signed number. -/
def signed (bits v : Nat) : Int :=
  if v < 2 ^ (bits - 1) then (v : Int) else (v : Int) - (2 : Int) ^ bits

/-- A signed number as `n` two's complement bytes. -/
def leInt (n : Nat) (v : Int) : Bytes := leBytes n (v % (256 : Int) ^ n).toNat

def bit (v i : Nat) : Bool := v / 2 ^ i % 2 = 1

/-- The numbers below `n` whose bit is set. -/
def bitsOf (v n : Nat) : List Nat := (List.range n).filter (bit v)

def maskOf (l : List Nat) : Nat := l.foldl (fun m i => if bit m i then m else m + 2 ^ i) 0

def b2n (b : Bool) : Nat := if b then 1 else 0

def ceilDiv (a b : Nat) : Nat := (a + b - 1) / b

def satAdd (lim a b : Nat) : Nat := min lim (a + b)

/-! ## Check codes -/

def crcBits (poly : W32) : Nat → W32 → W32
  | 0, c => c
  | n + 1, c => crcBits poly n (if c.getLsbD 0 then (c >>> 1) ^^^ poly else c >>> 1)

/-- CRC-32C (R91): Castagnoli, reflected, initial value and final XOR of ones. -/
def crc32c (p : Bytes) : W32 :=
  (p.foldl (fun c b => crcBits 0x82F63B78 8 (c ^^^ b.setWidth 32)) 0xFFFFFFFF) ^^^ 0xFFFFFFFF

/-- 48 bytes of a digest. -/
def sha384 (p : Bytes) : Bytes := (List.range 48).map (Config.sha384Byte p)

end Sys2Proof.Machine
end

