-- ==== Sys2Proof/Machine/Pads.lean ====
section
/-! DEFINITION. GPIO pins: functions, what drives each pad, and what each pad carries (R788-R791,
R798, R816). -/
namespace Sys2Proof.Machine
open Sys2Proof

/-- An Ethernet port is up. -/
def State.ethUp (s : State) (p : Nat) : Bool := (lookD s.eth p {}).up

/-- A Pass link is UP. -/
def State.passUp (s : State) (p : Nat) : Bool := (lookD s.links p {}).st == .up

/-- Function of a pin until a map is set (R791). -/
def defaultFn (n : Nat) : GpioFn :=
  if 24 ≤ n && n ≤ 27 then { pull := 1 }
  else if n = 30 then { func := 5 }
  else if n = 31 then { func := 6 }
  else {}

def State.fn (s : State) (n : Nat) : GpioFn := lookD s.gpio.map n (defaultFn n)

/-- GPIO_FUNCn as read (Table 21.14). -/
def GpioFn.word (f : GpioFn) : Nat :=
  f.func + 256 * f.param + 65536 * f.pull + 262144 * b2n f.invert + 524288 * b2n f.drive

/-- Pins that carry a function. -/
def State.pinsOf (s : State) (func : Nat) : List Nat := (List.range 32).filter fun n => (s.fn n).func = func

/-- GPIO_CONFLICT: input functions on two or more pins (R790). -/
def State.gpioConflict (s : State) : Nat :=
  b2n (1 < (s.pinsOf 3).length) + 2 * b2n (1 < (s.pinsOf 5).length) + 4 * b2n (1 < (s.pinsOf 8).length)

/-- Pins that a PPS_OUT pulse reaches: the boundary scan holds every pad while it drives them. -/
def State.pulsing (s : State) : List Nat :=
  match s.tap.instr with
  | .highz | .extest | .clamp => []
  | _ => s.pinsOf 4

/-- Value of an LED source (Table 21.7); 3, 4 and 13 blink by their timer's phase. -/
def State.led (s : State) (src : Nat) : Bool :=
  match src with
  | 0 => s.dev.st == .ready || s.dev.st == .degraded
  | 1 => s.dev.st == .degraded
  | 2 => s.dev.st == .faultHold
  | 3 => s.ethUp 0 && !s.gpio.ledPhase.getLsbD 3
  | 4 => s.ethUp 1 && !s.gpio.ledPhase.getLsbD 4
  | 13 => s.gpio.ledPhase.getLsbD 13
  | n => s.passUp (n - 5)

/-- Level a pin's own function drives, or none while it leaves the pad released. -/
def State.drives (s : State) (n : Nat) : Option Bool :=
  let f := s.fn n
  let pp (b : Bool) : Option Bool := some (b != f.invert)
  let od (b : Bool) : Option Bool := if b then none else some false
  if s.dev.st == .reset then none else
  match s.tap.instr with
  | .highz => none
  | .extest | .clamp => some ((s.tap.chain.getD (n / 8) 0).getLsbD (n % 8))
  | _ =>
    match f.func with
    | 1 => pp (s.gpio.latch.getLsbD n)
    | 2 => od (s.gpio.latch.getLsbD n != f.invert)
    | 4 => pp false
    | 6 => od (s.dev.st != .faultHold)
    | 7 => pp (s.led f.param)
    | 9 => pp (if f.param = 0 then s.link.standalone else (s.smb.addr - 0x58).getLsbD (f.param - 1))
    | 10 => od (!s.smb.alert)
    | _ => none

/-- What the pad carries. -/
def State.padAt (s : State) (n : Nat) : Bool :=
  if s.gpio.forced.getLsbD n then s.gpio.ext.getLsbD n
  else match s.drives n with
  | some b => b
  | none => s.gpio.ext.getLsbD n

/-- GPIO_PAD_LEVEL. -/
def State.padLevel (s : State) : Nat := maskOf ((List.range 32).filter s.padAt)

/-- Logical value of an input function: its one pin's level XOR INVERT, or the default (R790). -/
def State.input (s : State) (func : Nat) : Bool :=
  match s.pinsOf func with
  | [n] => s.padAt n != (s.fn n).invert
  | _ => false

/-- Set GPIO_EDGE for each pad that rose from one state to the next (R798). -/
def State.noteEdges (old s : State) : State :=
  let e : W32 := BitVec.ofNat 32 (maskOf ((List.range 32).filter fun n => !old.padAt n && s.padAt n))
  { s with gpio := { s.gpio with edge := s.gpio.edge ||| e } }

end Sys2Proof.Machine
end

