-- ==== Sys2Proof/Machine/Ops.lean ====
section
/-! DEFINITION. The named operations every chapter uses: device time, interrupts, notifications,
responses, deferred operations (02), fault events and targeted tests (18), changes of device
state and entry into FAULT_HOLD. -/
namespace Sys2Proof.Machine
open Sys2Proof

/-- The outcome of a command. -/
abbrev Out := Host.Outcome State Fault Refusal

/-! ## Identity -/

/-- DEV_CAPS as read (R16, R20). -/
def State.devCaps (s : State) : W64 := if s.fuse.checkOk then s.fuse.caps else 0

def State.present (s : State) (b : Nat) : Bool := s.devCaps.getLsbD b
def State.hasCyn (s : State) : Bool := s.present 0
def State.hasLpd (s : State) : Bool := s.present 1
def State.hasCxl (s : State) : Bool := s.present 2
def State.hasFord (s : State) : Bool := s.present 4
def State.hasPtp (s : State) : Bool := s.present 5
def State.hasPass (s : State) (p : Nat) : Bool := p < 8 && s.present (8 + p)
def State.hasGlen (s : State) (g : Nat) : Bool := g < 32 && s.present (16 + g)
def State.hasEth (s : State) : Bool := s.present 3
def State.hasStack (s : State) (h : Nat) : Bool := h < 4 && s.present (48 + h)
def State.hasPkg (s : State) (k : Nat) : Bool := k < 8 && s.hasLpd && s.present (52 + k)
/-- LPDDR channel `c` lies in package `c` div 4 (R173). -/
def State.hasLpdCh (s : State) (c : Nat) : Bool := c < 32 && s.hasPkg (c / 4)
/-- Every member of a region is on the part: two pseudo-channels of each stack (R175), four channels (R176). -/
def State.hasHbmRegion (s : State) (r : Nat) : Bool := r < 16 && (List.range 4).all s.hasStack
def State.hasLpdRegion (s : State) (r : Nat) : Bool := r < 8 && (List.range 4).all fun m => s.hasLpdCh (r + 8 * m)

/-- DEV_ID (R19); bit 7 of VARIANT reads 1 after a failed fuse check (R16). -/
def State.devId (s : State) : W32 :=
  (0xC0DA0000 : W32) ||| (s.fuse.step.setWidth 32 <<< 8) |||
    ((if s.fuse.checkOk then s.fuse.variant else s.fuse.variant ||| 0x80).setWidth 32)

def DevState.code : DevState → Nat
  | .reset => 0 | .selftest => 1 | .fwLoad => 2 | .awaitConfig => 3 | .configCheck => 4
  | .configRejected => 5 | .ready => 6 | .degraded => 7 | .draining => 8 | .faultHold => 9
  | .standby => 10

/-- READY or DEGRADED. -/
def State.serving (s : State) : Bool := s.dev.st == .ready || s.dev.st == .degraded

/-- Oananos or the ROM handler services the mailboxes (FW_RUN). -/
def State.fwRun (s : State) : Bool :=
  !(s.dev.st == .reset || s.dev.st == .selftest || s.dev.st == .fwLoad)

/-- BAR0 answers (R83, R573, R762, R829). -/
def State.bar0 (s : State) : Bool := !s.link.standalone && s.fwRun && !s.pwr.d3hot

def State.valley (s : State) (v : Nat) : Valley := lookD s.valleys v {}
def State.profile (s : State) (v : Nat) : Option Profile := (s.valley v).profile

/-! ## Device time -/

/-- `d` ns of device time pass: the slew takes its part of them at no more than MAX_SLEW_PPM, the frequency correction its
own outside FREE, and the board reference counts the rest; without edges it counts nothing (R110, R111, R125). -/
def Time.run (t : Time) (d : Nat) : Time :=
  let room := t.slewRoom + d * t.cfg.slewPpm
  let lim : Int := (room / 1000000 : Nat)
  let part := max (-lim) (min lim t.slew)
  let rate := if t.cfg.mode = 0 then 0 else t.ratePpb
  { t with
    now := t.now + d
    slew := t.slew - part
    slewRoom := if t.slew - part = 0 then 0 else room - part.natAbs * 1000000
    ref := if t.refLost then t.ref else t.ref + (d : Int) * 1000000000 - part * 1000000000 - (d : Int) * rate }

/-- Let device time run on to at least `t`. -/
def State.advanceTo (s : State) (t : Nat) : State :=
  if t ≤ s.time.now then s else { s with time := s.time.run (t - s.time.now) }

def State.now (s : State) : Nat := s.time.now

/-! ## Free values -/

/-- Draw one free number. -/
def State.drawNat (s : State) (use : Nat) : Nat × State :=
  (Config.freeNat use s.free, { s with free := s.free + 1 })

/-- Draw a free byte string. -/
def State.drawBytes (s : State) (use n : Nat) : Bytes × State :=
  ((List.range n).map (Config.freeByte use s.free), { s with free := s.free + 1 })

/-- Add to a telemetry counter (R781). -/
def State.count (s : State) (i n : Nat) : State :=
  { s with pwr := { s.pwr with counters := upd s.pwr.counters i 0 fun c => (c + n) % 2 ^ 64 } }

def State.emit (s : State) (o : Output) : State := { s with out := s.out ++ [o] }

/-! ## Interrupts -/

/-- Send an MSI-X message, or set the pending bit of a masked vector (R576), or of any in D3hot (R762). -/
def State.msix (s : State) (v : Nat) : State :=
  if s.link.standalone then s
  else if v ∈ s.link.unmasked && !s.pwr.d3hot then s.emit (.msix v)
  else if v ∈ s.link.pendingVec then s
  else { s with link := { s.link with pendingVec := s.link.pendingVec ++ [v] } }

def State.box (s : State) (n : Nat) : Mbx := lookD s.mbx n {}
def State.setBox (s : State) (n : Nat) (b : Mbx) : State := { s with mbx := put s.mbx n b }
def State.updBox (s : State) (n : Nat) (f : Mbx → Mbx) : State := s.setBox n (f (s.box n))

/-- Set a cause of pair `n`; an enabled cause raises vector `n` (R57). -/
def State.irq (s : State) (n bitNo : Nat) : State :=
  let b := s.box n
  let m : BitVec 3 := 1 <<< bitNo
  let s := s.setBox n { b with irqStat := b.irqStat ||| m }
  if b.irqEn &&& m ≠ 0 then s.msix n else s

/-! ## Messages -/

/-- Status codes (Table 2.1). -/
inductive St where
  | ok | pending | busy | badOpcode | badLength | badField | notReady | unitAbsent | denied
  | noResource | conflict | limitReached | checkFailed | faulted | timeout | stale
deriving DecidableEq, Repr

def St.code : St → Nat
  | .ok => 0 | .pending => 1 | .busy => 2 | .badOpcode => 3 | .badLength => 4 | .badField => 5
  | .notReady => 6 | .unitAbsent => 7 | .denied => 8 | .noResource => 9 | .conflict => 10
  | .limitReached => 11 | .checkFailed => 12 | .faulted => 13 | .timeout => 14 | .stale => 15

/-- A request as received, its header parsed (Table 2.10). -/
structure Req where
  via : Via
  op : Nat
  tag : Nat
  len : Nat
  ver : Nat
  pay : Bytes
deriving DecidableEq, Repr

/-- A ring slot holds LENGTH payload bytes; an assembled message is all of its bytes (R802). -/
def parseReq (via : Via) (raw : Bytes) : Req :=
  { via, op := u16 raw 0, tag := u16 raw 2, len := u16 raw 4, ver := u8 raw 6,
    pay := if via.xport = .bar0 then slice raw 16 (min (u16 raw 4) 496) else raw.drop 16 }

/-- A message of 16 + payload bytes with its header (R87). -/
def message (op tag st detail : Nat) (pay : Bytes) : Bytes :=
  leBytes 2 op ++ leBytes 2 tag ++ leBytes 2 pay.length ++ leBytes 1 1 ++ leBytes 1 st ++
    leBytes 4 detail ++ zeros 4 ++ pay

def boxBase (n : Nat) : Nat := 0x100000 + n * 0x4000

/-- Slot addresses of the three rings (R50, R51, R56, R86). -/
def reqSlot (n : Nat) (b : Mbx) : Nat := boxBase n + ((b.reqCons.toNat + 1) % 8) * 512
def rspSlot (n : Nat) (b : Mbx) : Nat := boxBase n + 0x1000 + (b.rspProd.toNat % 8) * 512
def ntfSlot (n : Nat) (b : Mbx) : Nat := boxBase n + 0x2000 + (b.ntfProd.toNat % 16) * 64

/-- Unread responses and notifications of the two-wire transport. -/
def Smb.count (m : Smb) (ntf : Bool) : Nat := (m.items.filter fun i => i.isNtf == ntf).length

/-- The request that waits first in a mailbox on one transport and may be consumed (R50, R51, R77, R797, R590); none
where nothing waits or no response could be posted. -/
def State.rawAt (s : State) (via : Via) : Option Bytes :=
  if !s.fwRun then none else
  match via.xport with
  | .bar0 =>
    let b := s.box via.mbx
    if via.mbx < 9 && !s.link.standalone && b.doorbell != b.reqCons && !b.reqIdxErr && !b.rspIdxErr
        && (b.rspProd - b.rspCons).toNat < 8
    then some (rdN s.ram (reqSlot via.mbx b) 512) else none
  | .twoWire =>
    if via.mbx = 8 && s.smb.count false < 8 then s.smb.requests.head? else none
  | .network src =>
    if s.link.standalone then
      (s.mgmt.queue.find? fun q => q.mbx = via.mbx && q.src = src).map (·.msg)
    else none

/-- The transport whose request is the next of mailbox `n`: of DM the one that arrived first (R44), of a valley the ring
or the network source that came first. -/
def State.nextXport (s : State) (n : Nat) : Option Xport :=
  let came := (if n = 8 then s.svc.order else []) ++ [.bar0, .twoWire] ++
    ((s.mgmt.queue.filter fun q => q.mbx = n).map fun q => .network q.src)
  came.find? fun x => (s.rawAt { mbx := n, xport := x }).isSome

/-- The mailbox whose turn it is: the first with a request to consume after the one serviced last (R69). -/
def State.nextBox (s : State) : Option Nat :=
  ((List.range 9).map fun k => (s.svc.last + 1 + k) % 9).find? fun n => (s.nextXport n).isSome

/-- The request that Oananos consumes next, where it is the one of this mailbox and transport. -/
def State.nextRaw (s : State) (via : Via) : Option Bytes :=
  if s.nextBox = some via.mbx && s.nextXport via.mbx = some via.xport then s.rawAt via else none

/-- Take a DM request of a transport out of the order of arrival, and note the mailbox as serviced. -/
def Service.serviced (x : Service) (via : Via) : Service :=
  { last := via.mbx, order := if via.mbx = 8 then x.order.erase via.xport else x.order }

/-- The order of arrival with exactly `k` BAR0 requests: those a doorbell adds come last, those it withdraws were last
(R50, R77). -/
def Service.keep : Nat → List Xport → List Xport
  | k, [] => List.replicate k .bar0
  | k, x :: l => if x = .bar0 then (match k with | 0 => Service.keep 0 l | k + 1 => x :: Service.keep k l) else x :: Service.keep k l

/-- A request of another transport has arrived for DM. -/
def State.arrived (s : State) (x : Xport) : State := { s with svc := { s.svc with order := s.svc.order ++ [x] } }

/-- Consume it: advance MBX_REQ_CONS or drop it from its queue. -/
def State.consume (s : State) (via : Via) : State :=
  let s := { s with svc := s.svc.serviced via }
  match via.xport with
  | .bar0 => s.updBox via.mbx fun b => { b with reqCons := b.reqCons + 1 }
  | .twoWire => { s with smb := { s.smb with requests := s.smb.requests.tail, active := true } }
  | .network src =>
    let q := s.mgmt.queue
    let s := { s with mgmt := { s.mgmt with
      queue := q.eraseP fun r => r.mbx = via.mbx && r.src = src,
      active := s.mgmt.active || via.mbx == 8 } }
    s.updBox via.mbx fun b => { b with lastNet := some src }

/-- Put an item on the two-wire transport, raising SMB_ALERT_N where enabled (R803, R804). -/
def State.smbItem (s : State) (isNtf : Bool) (bytes : Bytes) : State :=
  { s with smb := { s.smb with items := s.smb.items ++ [{ isNtf, bytes }], alert := s.smb.alertEn } }

/-- Post a response (R51, R590, R803). `seq` is the SEQ a network response answers. -/
def State.postRsp (s : State) (via : Via) (seq : Nat) (msg : Bytes) : State :=
  match via.xport with
  | .bar0 =>
    let b := s.box via.mbx
    let s := { s with ram := wrN (zeroN s.ram (rspSlot via.mbx b) 512) (rspSlot via.mbx b) msg }
    (s.updBox via.mbx fun b => { b with rspProd := b.rspProd + 1 }).irq via.mbx 0
  | .twoWire => s.smbItem false msg
  | .network src =>
    let mine := s.mgmt.kept.filter fun k => k.1 = via.mbx && k.2.1 = src
    let kept := if mine.length < 8 then s.mgmt.kept
      else s.mgmt.kept.eraseP fun k => k.1 = via.mbx && k.2.1 = src
    ({ s with mgmt := { s.mgmt with kept := kept ++ [(via.mbx, src, seq, msg)] } }).emit
      (.mgmt 1 via.mbx seq src msg)

/-- SEQ of the network request about to be consumed. -/
def State.netSeq (s : State) (via : Via) : Nat :=
  match via.xport with
  | .network src => ((s.mgmt.queue.find? fun q => q.mbx = via.mbx && q.src = src).map (·.seq)).getD 0
  | _ => 0

/-! ## Notifications -/

/-- Post into ring `n`; a full or stopped ring keeps back NTF_DEFERRED_DONE and drops and counts
the rest (R77, R79). -/
def State.ntfRing (s : State) (n : Nat) (isDone : Bool) (msg : Bytes) : State :=
  let b := s.box n
  if (b.ntfProd - b.ntfCons).toNat < 16 && !b.ntfIdxErr && b.heldNtf.isEmpty then
    let s := { s with ram := wrN (zeroN s.ram (ntfSlot n b) 64) (ntfSlot n b) msg }
    (s.updBox n fun b => { b with ntfProd := b.ntfProd + 1 }).irq n 1
  else if isDone then s.updBox n fun b => { b with heldNtf := b.heldNtf ++ [msg] }
  else s.updBox n fun b => { b with ntfLost := satAdd 255 b.ntfLost 1 }

/-- A notification on the two-wire transport's queue of 16 (R797). -/
def State.ntfSmb (s : State) (isDone : Bool) (msg : Bytes) : State :=
  if s.smb.count true < 16 && s.smb.heldNtf.isEmpty then s.smbItem true msg
  else if isDone then { s with smb := { s.smb with heldNtf := s.smb.heldNtf ++ [msg] } }
  else { s with smb := { s.smb with ntfLost := satAdd 255 s.smb.ntfLost 1 } }

/-- A notification of the management endpoint, sent once (R590). -/
def State.ntfNet (s : State) (n : Nat) (msg : Bytes) : State :=
  if !s.link.standalone || s.mgmt.port.isNone then s else
  match (if n = 8 then some s.mgmt.notifyDest else (s.box n).lastNet) with
  | none => s
  | some d =>
    let q := lookD s.mgmt.seq n 0
    ({ s with mgmt := { s.mgmt with seq := put s.mgmt.seq n ((q + 1) % 2 ^ 32) } }).emit
      (.mgmt 2 n q d msg)

/-- NTF_EVENT and NTF_STATE for mailbox `n`: its ring and, for DM, every active transport (R56). -/
def State.notify (s : State) (n : Nat) (msg : Bytes) : State :=
  let s := (s.ntfRing n false msg).ntfNet n msg
  if n = 8 && s.smb.active then s.ntfSmb false msg else s

/-- Post what was kept back, then NTF_LOST with the count (R79). -/
def State.flushNtf (s : State) (n : Nat) : State :=
  let held := (s.box n).heldNtf
  let s := held.foldl (fun s m => s.ntfRing n true m) (s.updBox n fun b => { b with heldNtf := [] })
  let b := s.box n
  if b.ntfLost > 0 && b.heldNtf.isEmpty && !b.ntfIdxErr && (b.ntfProd - b.ntfCons).toNat < 16 then
    let k := b.ntfLost
    (s.updBox n fun b => { b with ntfLost := 0 }).ntfRing n false (message 0x0082 0 0 0 (leBytes 4 k))
  else s

/-- Post what the two-wire notification queue kept back, then NTF_LOST (R79, R797). -/
def State.flushSmb (s : State) : State :=
  let held := s.smb.heldNtf
  let s := held.foldl (fun s m => s.ntfSmb true m) { s with smb := { s.smb with heldNtf := [] } }
  if s.smb.ntfLost > 0 && s.smb.heldNtf.isEmpty && s.smb.count true < 16 then
    let k := s.smb.ntfLost
    ({ s with smb := { s.smb with ntfLost := 0 } }).ntfSmb false (message 0x0082 0 0 0 (leBytes 4 k))
  else s

/-- NTF_EVENT (R96) to DM, and to the valley concerned; nothing posts it before Oananos runs (log 31). -/
def State.event (s : State) (source ev unit : Nat) (detail : Bytes) (valley : Option Nat) : State :=
  if !s.fwRun then s else
  let m := message 0x0084 0 0 0
    (leBytes 2 source ++ leBytes 2 ev ++ leBytes 2 unit ++ zeros 2 ++ fit 40 detail)
  let s := s.notify 8 m
  match valley with
  | some v => s.notify v m
  | none => s

/-! ## Deferred operations -/

/-- NTF_DEFERRED_DONE to the mailbox and transport of the request, once (R54, R56). -/
def State.done (s : State) (d : Deferred) (st : St) (detail : Nat) (result : Bytes) : State :=
  if d ∉ (s.box d.via.mbx).deferred then s else
  let m := message 0x0083 d.tag st.code detail (leBytes 2 d.op ++ zeros 2 ++ fit 44 result)
  let s := s.updBox d.via.mbx fun b => { b with deferred := b.deferred.erase d }
  match d.via.xport with
  | .bar0 => s.ntfRing d.via.mbx true m
  | .twoWire => s.ntfSmb true m
  | .network _ => s.ntfNet d.via.mbx m

def State.doneOpt (s : State) (d : Option Deferred) (st : St) (detail : Nat) (result : Bytes) : State :=
  match d with
  | some d => s.done d st detail result
  | none => s

def Req.deferred (r : Req) : Deferred := { tag := r.tag, op := r.op, via := r.via }

/-- All deferred operations of the device, mailbox by mailbox. -/
def State.allDeferred (s : State) : List Deferred := s.mbx.flatMap fun e => e.2.deferred

/-! ## Fault events -/

/-- Two events with one signature (R691). -/
def FaultEv.same (a b : FaultEv) : Bool :=
  a.kind == b.kind && a.source == b.source && a.event == b.event && a.cls == b.cls &&
  a.valley == b.valley && a.unit == b.unit && a.subunit == b.subunit && a.ctx == b.ctx &&
  a.addr / 4096 == b.addr / 4096 && !a.marker && !b.marker

/-- Index of a staged entry the event coalesces with. -/
def coalesceAt (e : FaultEv) : List FaultEv → Option Nat
  | [] => none
  | x :: xs => if x.same e then some 0 else (coalesceAt e xs).map (· + 1)

def Flt.inFlight (f : Flt) : Nat := if f.writing.isSome then 1 else 0

/-- SEQ the entry at position `i` of the staging queue will get. -/
def Flt.seqAt (f : Flt) (i : Nat) : Nat := f.nextSeq + f.inFlight + i

/-- Stage an event: coalesce it, queue it, or lose it (R690-R692). Also answers the SEQ its record
has or will have. -/
def State.stage (s : State) (e : FaultEv) : State × Nat :=
  let f := s.flt
  let e := { e with first := s.now, last := s.now }
  match coalesceAt e f.staged with
  | some i =>
    let hit := fun (x : FaultEv) =>
      { x with count := x.count + 1, last := s.now, flags := if bit x.flags 0 then x.flags else x.flags + 1 }
    ({ s with flt := { f with staged := f.staged.modify i hit } }, f.seqAt i)
  | none =>
    if f.staged.length < (if e.scope = 3 then 64 else 63) then
      ({ s with flt := { f with staged := f.staged ++ [e] } }, f.seqAt f.staged.length)
    else ({ s with flt := { f with overflow := f.overflow + 1, lost := satAdd 0xFFFFFFFF f.lost 1 } },
      f.seqAt f.staged.length)

def State.isRetired (s : State) (cls idx : Nat) : Bool := s.flt.retired.any fun u => u.cls == cls && u.idx == idx

/-- A unit under a running test, on request or not (R684). -/
def State.testing (s : State) (cls idx : Nat) : Bool :=
  s.flt.tests.any fun t => t.unit.cls == cls && t.unit.idx == idx && t.running

/-- Classes with a fence (Table 18.3, R684): glens, Creeks, Canyon pipelines. It lasts while the test runs, and after a
check mismatch from then on (R688). -/
def State.fenced (s : State) (cls idx : Nat) : Bool :=
  (cls == 1 || cls == 2 || cls == 9) &&
  s.flt.tests.any fun t => t.unit.cls == cls && t.unit.idx == idx && (t.running || t.fence)

/-- Ask for a targeted test, or join the one waiting or running (R679, R683, R701). -/
def State.requestTest (s : State) (u : UnitRef) (seq : Nat) : State :=
  if u.cls ≥ 0x0C || s.isRetired u.cls u.idx then s
  else if s.flt.tests.any (fun t => t.unit = u) then
    { s with flt := { s.flt with tests := s.flt.tests.map fun t =>
        if t.unit = u then { t with covered := t.covered + 1, firstSeq := if t.firstSeq = 0 then seq else t.firstSeq }
        else t } }
  else { s with flt := { s.flt with tests := s.flt.tests ++ [{ unit := u, firstSeq := seq, covered := 1 }] } }

/-- A probation that a mismatch or an error ends: its record, and the end of the readmission (R701, R703). -/
def State.failProbation (s : State) (u : UnitRef) : State :=
  match s.flt.readmits.find? fun r => r.unit = u && r.phase = 1 with
  | none => s
  | some r =>
    let (s, seq) := s.stage { kind := 4, source := 0x0A, cls := u.cls, unit := u.idx, valley := r.valley, outcome := 6, flags := 8, related := r.startSeq }
    let s := { s with flt := { s.flt with readmits := s.flt.readmits.filter fun x => x.unit ≠ u } }
    s.done r.done .faulted 0 (leBytes 1 6 ++ zeros 7 ++ leBytes 8 seq)

/-- An event of kind ERROR that names units: its record, whose SEQ is answered, and a test of each (R679). The record of
an error on a retired unit, or on a class with no test, says NO_TEST. -/
def State.errorSeq (s : State) (e : FaultEv) (units : List UnitRef) : State × Nat :=
  let noTest := e.cls ≥ 0x0C || s.isRetired e.cls e.unit
  let (s, seq) := s.stage { e with kind := 0, outcome := if noTest then 1 else 0 }
  (units.foldl (fun s u => (s.failProbation u).requestTest u seq) s, seq)

def State.error (s : State) (e : FaultEv) (units : List UnitRef) : State := (s.errorSeq e units).1

/-- Fence the units that a check mismatch names, until their tests end (R688). -/
def State.fenceUnits (s : State) (units : List UnitRef) : State :=
  { s with flt := { s.flt with tests := s.flt.tests.map fun t => if t.unit ∈ units then { t with fence := true } else t } }

/-! ## Changes of device state -/

/-- Enter a state and announce it in every mailbox, except for RESET, SELFTEST and FW_LOAD (R56,
R96). -/
def State.enter (s : State) (st : DevState) (reason : Nat) : State :=
  let old := s.dev.st
  let s := s.noteEdges { s with dev := { s.dev with
    st, prev := old, since := s.now
    rejectDetail := if st == .configRejected then reason else 0 } }
  let s := (List.range 9).foldl (fun s n => s.irq n 2) s
  if st == .reset || st == .selftest || st == .fwLoad then s else
  let m := message 0x0081 0 0 0 (leBytes 1 old.code ++ leBytes 1 st.code ++ zeros 2 ++ leBytes 8 s.now ++ leBytes 4 reason)
  (List.range 9).foldl (fun s n => s.notify n m) s

/-- R85: every ring index to zero, everything posted discarded, MBX_IRQ_STAT cleared. Deferred
operations stay listed until their completions are posted. -/
def State.clearRings (s : State) : State :=
  s.noteEdges { s with
    mbx := (List.range 9).map fun n =>
      let b := s.box n
      (n, ({ deferred := b.deferred, irqEn := b.irqEn, lastNet := b.lastNet, heldNtf := b.heldNtf, ntfLost := b.ntfLost } : Mbx))
    svc := { s.svc with order := [] }
    ram := s.ram.filter fun c => c.1 < 0x100000 || 0x124000 ≤ c.1
    smb := { s.smb with requests := [], items := [], pos := 0, assembling := none, alert := false }
    mgmt := { s.mgmt with queue := [], kept := [] } }

/-- The zeroing of R85. It frees the rings, so what was kept back, never posted, comes first (R79; log 91). -/
def State.zeroRings (s : State) : State := (List.range 9).foldl State.flushNtf s.clearRings.flushSmb

/-- End every deferred operation but those a test keeps, with one status (R72). -/
def State.endDeferred (s : State) (st : St) (keep : Deferred → Bool) : State :=
  (s.allDeferred.filter fun d => !keep d).foldl (fun s d => s.done d st 0 []) s

/-- READY or DEGRADED, by whether a unit is retired (Table 2.5). -/
def State.servingState (s : State) : DevState := if s.flt.retired.isEmpty then .ready else .degraded

end Sys2Proof.Machine
end

