-- ==== Sys2Proof/Machine/Flags.lean ====
section
/-! DEFINITION. The checks a request meets and the status each gives (R45-R47, R54, R66, R82, R97,
R722), and the one operation that consumes a request, runs its meaning and posts the response. -/
namespace Sys2Proof.Machine
open Sys2Proof

/-- Message classes (R49). -/
inductive Cls where
  | q | c | o | d | x
deriving DecidableEq, Repr

/-- Mailboxes on which Table 2.14 allows a message. -/
inductive Mark where
  | dm | v | both
deriving DecidableEq, Repr

/-- What a message's meaning answers: the new state, the response, and what follows the response. -/
structure Res where
  s : State
  st : St := .ok
  detail : Nat := 0
  pay : Bytes := []
  after : State → State := id

def Res.fail (s : State) (st : St) (detail : Nat := 0) : Res := { s, st, detail }
def Res.okay (s : State) (pay : Bytes := []) : Res := { s, pay }
def Res.pend (s : State) : Res := { s, st := .pending }
/-- ST_BAD_FIELD for the payload field at an offset (Table 2.1: DETAIL counts from the message). -/
def Res.field (s : State) (off : Nat) : Res := { s, st := .badField, detail := 16 + off }

/-- One message: its row of Table 2.14, its length, and its meaning. -/
structure Msg where
  op : Nat
  mark : Mark
  cls : Cls
  /-- LENGTH and payload are as the owning chapter defines (R45). -/
  len : Nat → Bytes → Bool
  /-- A named unit is absent (R8, R15). -/
  absent : Req → State → Bool := fun _ _ => false
  /-- Refused for the role, or for a resource of another valley (R43). -/
  denied : Req → State → Bool := fun _ _ => false
  /-- A state in which this message alone is not accepted (R763). -/
  notReady : Req → State → Bool := fun _ _ => false
  /-- First payload field out of range, as an offset in the payload. -/
  field : Req → State → Option Nat := fun _ _ => none
  run : Req → State → Res

/-- Table 2.6: none where the state accepts the class. -/
def accepts (st : DevState) (k : Cls) (op : Nat) : Option St :=
  match st, k with
  | _, .q => none
  | .awaitConfig, .c | .configRejected, .c => none
  | .configCheck, .c => some .busy
  | .ready, .o | .degraded, .o | .ready, .d | .degraded, .d | .draining, .d => none
  | .ready, .x | .degraded, .x => none
  | .awaitConfig, .x | .configCheck, .x | .configRejected, .x =>
    if op = 0x0021 then none else some .notReady
  | .draining, .x =>
    if op = 0x0021 || op = 0x0C21 then none else if op = 0x0020 then some .busy else some .notReady
  | .standby, .x => if op = 0x0021 || op = 0x0C01 || op = 0x0C21 then none else some .notReady
  | _, _ => some .notReady

/-- The access mask of a transport (R722). -/
def State.mask (s : State) : Xport → W16
  | .bar0 => s.sec.maskBar0
  | .twoWire => s.sec.maskTwoWire
  | .network _ => s.sec.maskNetwork

/-- Step 4 of R47: the wrong mailbox, a masked transport, or another refusal of role. -/
def Msg.refuses (m : Msg) (r : Req) (s : State) : Bool :=
  (match m.mark with
    | .dm => r.via.mbx != 8
    | .v => r.via.mbx == 8
    | .both => false) ||
  (m.cls != .q && !(s.mask r.via.xport).getLsbD (m.op / 256)) || m.denied r s

/-- The first check of R47, steps 2 to 6, that fails; then the reused tag of R46. R47 orders no two statuses of execution:
DESIGN CHOICE, the reused tag's ST_CONFLICT comes before every other (log 92). -/
def Msg.check (m : Msg) (r : Req) (s : State) : Option (St × Nat) :=
  if r.len % 4 ≠ 0 || r.len > 496 || r.pay.length ≠ r.len || !m.len r.len r.pay then some (.badLength, 0)
  else if m.absent r s then some (.unitAbsent, 0)
  else if m.refuses r s then some (.denied, 0)
  else match accepts s.dev.st m.cls m.op with
  | some st => some (st, 0)
  | none =>
    if m.notReady r s then some (.notReady, 0)
    else if r.tag = 0 then some (.badField, 2)
    else if r.ver ≠ 1 then some (.badField, 6)
    else match m.field r s with
    | some o => some (.badField, 16 + o)
    | none =>
      if (s.box r.via.mbx).deferred.any fun d => d.tag == r.tag && d.via == r.via then some (.conflict, 0)
      else none

/-- Work whose length the spec does not give: a free value decides whether it exceeds the bound of R55, and then
ST_PENDING goes first and the outcome follows it (log 30). -/
def Res.work (x : Res) (r : Req) : Res :=
  let (k, s) := x.s.drawNat 42
  if k % 2 = 1 then { s, st := .pending, after := fun s => (x.after s).done r.deferred x.st x.detail x.pay }
  else { x with s }

/-- Run a request that has been consumed: checks, meaning, and the deferred limit
(R66); a transition to RETURNED makes the rest busy (R738). -/
def Msg.reply (m : Msg) (r : Req) (s : State) : Res :=
  match m.check r s with
  | some (st, d) => Res.fail s st d
  | none =>
    if s.sec.returning.isSome && m.cls != .q && m.op ≠ 0x0021 then Res.fail s .busy else
    let x := m.run r s
    if x.st = .pending then
      if (s.box r.via.mbx).deferred.length ≥ 8 then Res.fail s .noResource
      else { x with s := x.s.updBox r.via.mbx fun b => { b with deferred := b.deferred ++ [r.deferred] } }
    else x

/-- Consume the next request, answer it, and do what follows the response (R50-R54). -/
def Msg.answer (m : Msg) (r : Req) (s : State) : State :=
  let seq := s.netSeq r.via
  let x := m.reply r (s.consume r.via)
  x.after (x.s.postRsp r.via seq (message r.op r.tag x.st.code x.detail x.pay))

/-- The step of one message: nothing happens where no request of its opcode waits there. -/
def serveIf (m : Msg) (picks : Req → Bool) (via : Via) (s : State) : Out :=
  .next (match s.nextRaw via with
    | none => s
    | some raw =>
      let r := parseReq via raw
      if r.op = m.op && picks r then m.answer r s else s)

def serve (m : Msg) (via : Via) (s : State) : Out := serveIf m (fun _ => true) via s

/-- A fixed request length. -/
def lenIs (n : Nat) : Nat → Bytes → Bool := fun l _ => l == n

/-- First failing field check of a list, each with its payload offset. -/
def firstBad : List (Bool × Nat) → Option Nat
  | [] => none
  | (bad, o) :: l => if bad then some o else firstBad l

/-- Opcodes a request may carry (Table 2.14). -/
def requestOpcodes : List Nat :=
  [0x0001, 0x0002, 0x0003, 0x0010, 0x0011, 0x0012, 0x0013, 0x0014, 0x0020, 0x0021,
   0x0101, 0x0102, 0x0103, 0x0104, 0x0105, 0x0110, 0x0111, 0x0112,
   0x0201, 0x0202, 0x0203, 0x0204, 0x0205, 0x0210, 0x0211, 0x0212,
   0x0301, 0x0302, 0x0303, 0x0304, 0x0305, 0x0306] ++
  [0x0401, 0x0402, 0x0403, 0x0404, 0x0405, 0x0406, 0x0407, 0x0408,
   0x0501, 0x0502, 0x0503, 0x0504, 0x0505, 0x0506, 0x0507, 0x0508, 0x0509,
   0x0601, 0x0602, 0x0603, 0x0604, 0x0605, 0x0606,
   0x0701, 0x0702, 0x0703, 0x0704, 0x0705, 0x0710, 0x0711] ++
  [0x0801, 0x0802, 0x0803, 0x0804, 0x0805, 0x0901, 0x0902, 0x0903, 0x0904, 0x0905,
   0x0A01, 0x0A02, 0x0A03, 0x0A04, 0x0A05, 0x0A06, 0x0A07, 0x0A08,
   0x0B01, 0x0B02, 0x0B03, 0x0B04, 0x0B05, 0x0B06, 0x0B07] ++
  [0x0C01, 0x0C02, 0x0C03, 0x0C10, 0x0C11, 0x0C20, 0x0C21, 0x0C22,
   0x0D01, 0x0D02, 0x0D03, 0x0D04]

end Sys2Proof.Machine
end

