-- ==== Sys2Proof/Machine/Basin.lean ====
section
/-! DEFINITION. The local address map, poison, and the Basin's lines, groups and buckets (04), with
the address side of external memory (05: R175-R181). -/
namespace Sys2Proof.Machine
open Sys2Proof

/-! ## Address map (Table 4.1, R175-R177) -/

def hbmBase : Nat := 0x001000000000
def lpdBase : Nat := 0x010000000000
def hostBase : Nat := 0x800000000000
def hostTop : Nat := 0xC00000000000
def hbmRegionSize : Nat := 0x240000000
def lpdRegionSize : Nat := 0x1000000000
def hbmTop : Nat := hbmBase + 16 * hbmRegionSize
def lpdTop : Nat := lpdBase + 8 * lpdRegionSize
def scratchSize : Nat := 0x8000000

def inScratch (a : Nat) : Bool := a < 0x80000000
def inHbm (a : Nat) : Bool := hbmBase ≤ a && a < hbmTop
def inLpd (a : Nat) : Bool := lpdBase ≤ a && a < lpdTop
def inHost (a : Nat) : Bool := hostBase ≤ a && a < hostTop
def hbmRegion (a : Nat) : Nat := (a - hbmBase) / hbmRegionSize
def lpdRegion (a : Nat) : Nat := (a - lpdBase) / lpdRegionSize

/-- Pseudo-channel of an HBM address (R177). -/
def hbmPc (a : Nat) : Nat :=
  let g := (a - hbmBase) % hbmRegionSize / 256
  hbmRegion a + 16 * ((g % 8) ^^^ (g / 8 % 8))

/-- Byte address in the channel (R177). -/
def lpdChAddr (a : Nat) : Nat := (a - lpdBase) % lpdRegionSize / 256 / 4 * 256 + (a - lpdBase) % 256

/-- Byte address in the pseudo-channel. -/
def hbmPcAddr (a : Nat) : Nat := (a - hbmBase) % hbmRegionSize / 256 / 8 * 256 + (a - hbmBase) % 256

/-- Channel of an LPDDR address (R177). -/
def lpdCh (a : Nat) : Nat :=
  let g := (a - lpdBase) % lpdRegionSize / 256
  lpdRegion a + 8 * ((g % 4) ^^^ (g / 4 % 4))

/-- The unit whose memory holds an address. -/
def memUnit (a : Nat) : Option UnitRef :=
  if inHbm a then some { cls := 4, idx := hbmPc a }
  else if inLpd a then some { cls := 5, idx := lpdCh a }
  else if inScratch a then some { cls := 3, idx := a / 0x2000000 }
  else none

def State.group (s : State) (g : Nat) : Group := lookD s.basin.groups g {}
def State.updGroup (s : State) (g : Nat) (f : Group → Group) : State :=
  { s with basin := { s.basin with groups := upd s.basin.groups g {} f } }

/-- Populated for the device as a whole: what its own agents, the debug port and peers may reach
(R135, R10, R194, R575). -/
def State.populated (s : State) (a : Nat) : Bool :=
  if inScratch a then (s.group (a / scratchSize)).scratch && !(s.group (a / scratchSize)).retired
  else if inHbm a then s.hasHbmRegion (hbmRegion a) && hbmRegion a ∉ s.ext.hbmGone
  else if inLpd a then s.hasLpdRegion (lpdRegion a) && lpdRegion a ∉ s.ext.lpdGone
  else inHost a && !s.link.standalone && s.link.cxlEnabled

/-- The profile of valley `v` that a request stamped with boundary count `b` runs under (R25, R263): one that a later
boundary superseded, or the one in force. -/
def State.profileAt (s : State) (v b : Nat) : Option Profile :=
  match (s.valley v).retiring.findSome? fun x => match x.what with
    | .profile old _ => if b < x.bnd then some old else none
    | _ => none with
  | some p => some p
  | none => s.profile v

/-- A profile has the memory region of an address. -/
def Profile.hasRegion (p : Profile) (a : Nat) : Bool :=
  if inHbm a then p.hbmRegions.getLsbD (hbmRegion a) else inLpd a && p.lpdRegions.getLsbD (lpdRegion a)

/-- Memory whose channel another valley holds, where either of the two is SEPARATE: no traffic of valley `v` reaches it (R31,
R477; log 95). -/
def State.foreign (s : State) (v b a : Nat) : Bool :=
  let mine := s.profileAt v b
  !((mine.map fun p => p.hasRegion a).getD false) && (List.range 8).any fun w => w ≠ v &&
    ((s.profile w).map fun q => q.hasRegion a && (q.separate || (mine.map (·.separate)).getD true)).getD false

/-- Populated for a request of valley `v` stamped with boundary count `b` (R138, R145, R152, R195). -/
def State.populatedFor (s : State) (v b a : Nat) : Bool :=
  s.populated a && !s.foreign v b a && !(s.ext.leaving.any fun (l, r, w, n) => w == v && n ≤ b &&
    (if l then inLpd a && lpdRegion a == r else inHbm a && hbmRegion a == r)) && (!inScratch a ||
    (let g := s.group (a / scratchSize)
     g.owner == some v && g.grant ≤ b && (g.revoke.map fun r => decide (b < r)).getD true))

/-- Every byte of a range, tested at each 64-byte boundary it touches. -/
def rangeAll (f : Nat → Bool) (a n : Nat) : Bool :=
  f a && (n = 0 || f (a + n - 1)) && (List.range ((a + n - 1) / scratchSize - a / scratchSize)).all fun i =>
    f ((a / scratchSize + i + 1) * scratchSize)

def State.stack (s : State) (i : Nat) : Stack := lookD s.ext.hstacks i {}
def State.updStack (s : State) (i : Nat) (f : Stack → Stack) : State :=
  { s with ext := { s.ext with hstacks := upd s.ext.hstacks i {} f } }

def overlaps (a n b m : Nat) : Bool := a < b + m && b < a + n

/-! ## Lines and their buckets (R141, R142) -/

def cacheable (a : Nat) : Bool := inHbm a || inLpd a || inHost a

def lineBucket (l : Nat) : Nat :=
  (l % 256) ^^^ (l / 256 % 256) ^^^ (l / 65536 % 256) ^^^ (l / 16777216 % 256) ^^^ (l / 4294967296 % 256)

/-! ## Poison (R162, R179-R181) -/

/-- A sector of HBM or LPDDR, or a chunk of scratch, in the range is poisoned. -/
def State.poisoned (s : State) (a n : Nat) : Bool :=
  if n = 0 then false
  else if inScratch a then s.basin.poisonChunks.any fun c => a / 16 ≤ c && c ≤ (a + n - 1) / 16
  else s.ext.poison.any fun c => a / 64 ≤ c && c ≤ (a + n - 1) / 64

/-- Entries of the LPDDR poison list in use. -/
def State.lpdPoison (s : State) : Nat := (s.ext.poison.filter fun c => inLpd (c * 64)).length

/-- A write clears the poison of each sector or chunk it covers whole. -/
def State.clearPoison (s : State) (a n : Nat) : State :=
  if inScratch a then
    { s with basin := { s.basin with poisonChunks := s.basin.poisonChunks.filter fun c => !(a ≤ c * 16 && c * 16 + 16 ≤ a + n) } }
  else { s with ext := { s.ext with poison := s.ext.poison.filter fun c => !(a ≤ c * 64 && c * 64 + 64 ≤ a + n) } }

/-- Insert in rising order, once. -/
def insertSorted (x : Nat) : List Nat → List Nat
  | [] => [x]
  | y :: l => if x < y then x :: y :: l else if x = y then y :: l else y :: insertSorted x l

/-- A line that a change of its group, or the move of its bucket, is still to write back (R151, R152). -/
def State.toWriteBack (s : State) (l : Nat) (x : Line) : Bool :=
  (((s.group x.group).change.map fun c => c.toScratch && c.ways.isEmpty && !(s.group x.group).scratch && decide (c.phase < 2)).getD false) ||
  (match look s.basin.moving (lineBucket l) with
    | some t => ((s.group t).change.map fun c => !c.toScratch && c.ways.isEmpty && decide (c.phase = 2)).getD false
    | none => false)

/-- Bytes a region loses, and a region's retirement (R191, R194, R197): it becomes unpopulated, its
Basin lines are dropped but those whose write-back R163 will fail, its other members are stranded. Poison-list entries
stay until a write clears them (R198). -/
def State.dropRegion (s : State) (lpddr : Bool) (r : Nat) : State :=
  let lo := if lpddr then lpdBase + r * lpdRegionSize else hbmBase + r * hbmRegionSize
  let n := if lpddr then lpdRegionSize else hbmRegionSize
  let inR := fun (a : Nat) => lo ≤ a && a < lo + n
  { s with
    mem := s.mem.filter fun c => !inR c.1
    basin := { s.basin with
      lines := s.basin.lines.filter fun l => !inR (l.1 * 256) || s.toWriteBack l.1 l.2
      tracker := s.basin.tracker.filter fun t => !inR (t.line * 64)
      winSize := if !lpddr && hbmBase + s.basin.winOffset < lo + n && lo < hbmBase + s.basin.winOffset + s.basin.winSize then 0 else s.basin.winSize }
    ext := { s.ext with
      hbmGone := if lpddr then s.ext.hbmGone else insertSorted r s.ext.hbmGone
      lpdGone := if lpddr then insertSorted r s.ext.lpdGone else s.ext.lpdGone } }

/-- A region is lost, and the host window where it lay there (R190, R596). -/
def State.loseRegion (s : State) (lpddr : Bool) (r : Nat) : State :=
  let t := s.dropRegion lpddr r
  if s.basin.winSize ≠ 0 && t.basin.winSize = 0 then t.event 7 3 0xFFFF [] none else t

/-- Retire a memory channel by fault (R194): RETIRE record, region dropped, DEGRADED, notification. -/
def State.retireChannel (s : State) (lpddr : Bool) (ch : Nat) (related : Nat) : State :=
  let cls := if lpddr then 5 else 4
  if s.isRetired cls ch then s else
  let (s, seq) := s.stage { kind := 2, source := 2, cls, unit := ch, related }
  let s := { s with
    flt := { s.flt with retired := s.flt.retired ++ [(⟨cls, ch⟩ : UnitRef)] }
    ext := { s.ext with
      pcRetired := if lpddr then s.ext.pcRetired else insertSorted ch s.ext.pcRetired
      chRetired := if lpddr then insertSorted ch s.ext.chRetired else s.ext.chRetired } }
  let s := s.loseRegion lpddr (if lpddr then ch % 8 else ch % 16)
  let s := if s.dev.st = .ready then s.enter .degraded seq else s
  s.event 0x0A 2 (cls * 256 + ch) (leBytes 8 seq) none

/-- Write poison over every sector a range touches (R181); a full LPDDR list retires the channel
(R198). -/
def State.poison (s : State) (a n : Nat) : State :=
  if n = 0 then s
  else if inScratch a then
    (List.range ((a + n - 1) / 16 - a / 16 + 1)).foldl (fun s i =>
      { s with basin := { s.basin with poisonChunks := insertSorted (a / 16 + i) s.basin.poisonChunks } }) s
  else (List.range ((a + n - 1) / 64 - a / 64 + 1)).foldl (fun s i =>
    let c := a / 64 + i
    if inLpd (c * 64) && lpdRegion (c * 64) ∈ s.ext.lpdGone then s
    else if inLpd (c * 64) && c ∉ s.ext.poison && 16384 ≤ s.lpdPoison then s.retireChannel true (lpdCh (c * 64)) 0
    else { s with
      ext := { s.ext with poison := insertSorted c s.ext.poison }
      mem := zeroN s.mem (c * 64) 64 }) s

/-! ## Lines (R141-R144) -/

def State.setLine (s : State) (l : Nat) (x : Line) : State :=
  { s with basin := { s.basin with lines := put s.basin.lines l x } }

/-- Bytes that pass between the Basin and an HBM stack or LPDDR package, for COUNTERS (R781; DESIGN CHOICE, log 97). -/
def State.countMem (s : State) (a n : Nat) : State :=
  if inHbm a then s.count (144 + hbmPc a / 32) n else if inLpd a then s.count (148 + lpdCh a / 4) n else s

/-- Put a dirty line's bytes behind it: memory keeps what devices see (R144). -/
def State.writeBack (s : State) (l : Nat) : State :=
  match look s.basin.lines l with
  | some x => (s.setLine l { x with
      dirty := false, writer := none, backing := []
      sectors := x.sectors.map fun h => if h == .modified then .exclusive else h }).countMem (l * 256) (if x.dirty then 256 else 0)
  | none => s

/-- Lose a line without writing it back: memory shows what was behind it. -/
def State.loseLine (s : State) (l : Nat) : State :=
  match look s.basin.lines l with
  | some x =>
    { s with
      mem := if x.dirty then wrN s.mem (l * 256) (rdN x.backing (l * 256) 256) else s.mem
      basin := { s.basin with lines := del s.basin.lines l } }
  | none => s

def State.dropLine (s : State) (l : Nat) : State := { s with basin := { s.basin with lines := del s.basin.lines l } }

/-- The way a miss of valley `v` takes in a set: the lowest free way of its mask, else its least
recently used line's (R143). -/
def State.victim (s : State) (v g set : Nat) : Option (Nat × Option Nat) :=
  let here := s.basin.lines.filter fun l => l.2.group = g && l.2.set = set
  let mine := bitsOf (lookD (s.group g).ways v 0) 16
  match mine.find? fun w => !here.any fun l => l.2.way = w with
  | some w => some (w, none)
  | none =>
    let c := here.filter fun l => l.2.way ∈ mine
    match c with
    | [] => none
    | x :: xs =>
      let y := xs.foldl (fun m l => if l.2.stamp < m.2.stamp then l else m) x
      some (y.2.way, some y.1)

/-- Sector `k` of line `l` holds a byte of a range (R147). -/
def inSector (l k a n : Nat) : Bool := overlaps a n (l * 256 + k * 64) 64

/-- States of a host line's four sectors after those a range touches change (R147). -/
def Line.sectorsIn (x : Line) (l a n : Nat) (f : HostSector → HostSector) : List HostSector :=
  x.sectors.mapIdx fun k h => if inSector l k a n then f h else h

/-- An Invalid sector that is read is fetched from the host, to be Shared. -/
def HostSector.fetched : HostSector → HostSector
  | .invalid => .shared
  | h => h

/-- Look a line up for an access of valley `v` to a range: a hit is touched, its Invalid sectors are fetched; a miss
allocates where it may. -/
def State.touch (s : State) (v a n l : Nat) : State :=
  let s := { s with basin := { s.basin with clock := s.basin.clock + 1 } }
  match look s.basin.lines l with
  | some x => (s.setLine l { x with stamp := s.basin.clock, sectors := x.sectorsIn l a n HostSector.fetched }).count (112 + x.group) 1
  | none =>
    let b := lineBucket l
    let past := s.countMem (l * 256) (min (a + n) (l * 256 + 256) - max a (l * 256))
    if !cacheable (l * 256) || (look s.basin.moving b).isSome then past else
    match look s.basin.bucket b with
    | none => past
    | some g =>
      let set := Config.basinSet l % 32768
      match s.victim v g set with
      | none => past.count (128 + g) 1
      | some (w, old) =>
        let s := (s.count (128 + g) 1).countMem (l * 256) 256
        let s := match old with | some o => (s.writeBack o).dropLine o | none => s
        s.setLine l {
          group := g, set, way := w, valley := v, stamp := s.basin.clock
          sectors := if inHost (l * 256) then (List.range 4).map fun k => if inSector l k a n then .shared else .invalid else [] }

/-- The slice that holds a line: 8,192 sets each (R140). -/
def Line.slice (x : Line) : Nat := x.group * 4 + x.set / 8192

/-- The slice that holds an address: its scratch, or the line it is cached in. -/
def State.sliceOf (s : State) (a : Nat) : Option Nat :=
  if inScratch a then (if s.populated a then some (a / 0x2000000) else none)
  else (look s.basin.lines (a / 256)).map Line.slice

/-- The Basin slice or memory channel that an access to an address finds it in (R244). -/
def State.holder (s : State) (a : Nat) : Option UnitRef :=
  match s.sliceOf a with
  | some i => some { cls := 3, idx := i }
  | none => memUnit a

/-- A host-memory access waits while the host holds the function in D3hot (R762). -/
def State.hostWaits (s : State) (a : Nat) : Bool := inHost a && s.pwr.d3hot

/-- Lines a range touches. -/
def linesOf (a n : Nat) : List Nat := (List.range (if n = 0 then 0 else (a + n - 1) / 256 - a / 256 + 1)).map (a / 256 + ·)

/-! ## The host's hold on its window (R148) -/

/-- Snoop a line the host may hold, once. -/
def State.backInvalidate (s : State) (l : Nat) : State :=
  if l ∈ s.basin.biPending then s
  else ({ s with basin := { s.basin with biPending := s.basin.biPending ++ [l] } }).emit (.cxlBackInvalidate (l * 64))

/-- Tracked lines of a range that a device access must first take back: any for a write, Exclusive for a read. -/
def State.hostHolds (s : State) (a n : Nat) (write : Bool) : List Nat :=
  (s.basin.tracker.filter fun t => (write || t.exclusive) && a < t.line * 64 + 64 && t.line * 64 < a + n).map (·.line)

/-- Issue the back-invalidates of an access. -/
def State.recall (s : State) (a n : Nat) (write : Bool) : State :=
  (s.hostHolds a n write).foldl State.backInvalidate s

/-- A device write to lines the host may hold issues their back-invalidates and waits for the responses. -/
def State.holdWrite (s : State) (who : Option (Nat × Nat)) (a : Nat) (d : Bytes) (through : Bool := false) : State :=
  let s := s.recall a d.length true
  { s with basin := { s.basin with biWrites := s.basin.biWrites ++ [{ addr := a, data := d, who, through }] } }

/-- A write waits for the host, or behind one that does and overlaps it. -/
def State.mustWait (s : State) (a n : Nat) : Bool :=
  !(s.hostHolds a n true).isEmpty || s.basin.biWrites.any fun w => a < w.addr + w.data.length && w.addr < a + n

/-- Writes of one context that still wait for the host (R376, R378); with 0xFFFF, those of no context. -/
def State.writesHeld (s : State) (v ctx : Nat) : Bool :=
  s.basin.biWrites.any fun w => w.who = some (v, ctx) || (ctx = 0xFFFF && w.who = none)

/-- An access ends the power-down of the channels it uses (R186). -/
def State.wakeChannels (s : State) (a n : Nat) : State :=
  if s.ext.poweredDown.isEmpty then s else
  let us := (linesOf a n).filterMap fun l => memUnit (l * 256)
  { s with ext := { s.ext with poweredDown := s.ext.poweredDown.filter fun c => !us.any fun u => u.cls == (if c.1 then 5 else 4) && u.idx == c.2 } }

/-- A read on behalf of valley `v`: its bytes, and the lines it brings in. Creek reads of host
memory allocate nothing (R147). -/
def State.fetch (s : State) (v a n : Nat) (alloc : Bool := true) : State :=
  let s := (s.recall a n false).wakeChannels a n
  if alloc && cacheable a then (linesOf a n).foldl (fun s l => s.touch v a n l) s else s

/-- A second range fetched with the first: only lines that the first did not look up are looked up (R222). -/
def State.fetchWith (s : State) (v a n b m : Nat) (alloc : Bool := true) : State :=
  let s := s.fetch v a n alloc
  let s := (s.recall b m false).wakeChannels b m
  if alloc && cacheable b then ((linesOf b m).filter (· ∉ linesOf a n)).foldl (fun s l => s.touch v b m l) s else s

/-- What the device's own accesses find in a range: memory under the writes that wait for the host. -/
def State.bytes (s : State) (a n : Nat) : Bytes := rdN (s.basin.biWrites.foldl (fun m w => wrN m w.addr w.data) s.mem) a n

/-- A write through to memory that nothing holds up, updating any cached copy (R144). -/
def State.putThrough (s : State) (a : Nat) (d : Bytes) : State :=
  let s := s.wakeChannels a d.length
  let s := { s with
    mem := wrN s.mem a d
    basin := { s.basin with lines := s.basin.lines.map fun (l : Nat × Line) =>
      if l.2.dirty && a < l.1 * 256 + 256 && l.1 * 256 < a + d.length
      then (l.1, { l.2 with backing := wrN l.2.backing a d }) else l } }
  s.clearPoison a d.length

/-- A write through (R144), after the host has given up what it holds (R148). -/
def State.writeThrough (s : State) (a : Nat) (d : Bytes) : State :=
  if s.mustWait a d.length then s.holdWrite none a d else s.putThrough a d

/-- A write through of an engine's output for a context of valley `v`, whose increment waits for it (R379). -/
def State.throughFor (s : State) (v : Nat) (ctx : Nat) (a : Nat) (d : Bytes) : State :=
  if s.mustWait a d.length then s.holdWrite (some (v, ctx)) a d true else s.putThrough a d

/-- One valley alone holds ways in a group (R143). -/
def Group.single (g : Group) : Bool := (g.ways.filter fun w => w.2 ≠ 0).length = 1

/-- Mark a cached line dirty by a write to a range, keeping what memory behind it holds. -/
def State.dirty (s : State) (who : Option (Nat × Nat)) (a n l : Nat) : State :=
  match look s.basin.lines l with
  | some x => s.setLine l { x with
      dirty := true
      writer := if (s.group x.group).single then who else none
      backing := if x.dirty then x.backing else s.mem.filter fun c => l * 256 ≤ c.1 && c.1 < l * 256 + 256
      sectors := x.sectorsIn l a n fun _ => .modified }
  | none => s

/-- A write of a context that nothing holds up: written back where a line is held (R144). -/
def State.putFor (s : State) (v : Nat) (ctx : Nat) (a : Nat) (d : Bytes) : State :=
  let s := s.wakeChannels a d.length
  if cacheable a then
    let s := (linesOf a d.length).foldl (fun s l => (s.touch v a d.length l).dirty (some (v, ctx)) a d.length l) s
    ({ s with mem := wrN s.mem a d }).clearPoison a d.length
  else ({ s with mem := wrN s.mem a d }).clearPoison a d.length

/-- A write for a command of a context of valley `v` (R144), after the host has given up what it holds (R148). -/
def State.writeFor (s : State) (v : Nat) (ctx : Nat) (a : Nat) (d : Bytes) : State :=
  if s.mustWait a d.length then s.holdWrite (some (v, ctx)) a d else s.putFor v ctx a d

/-- A write that has waited takes effect. -/
def State.putHeld (s : State) (w : HeldWrite) : State :=
  match w.who with
  | some (v, c) => if w.through then s.putThrough w.addr w.data else s.putFor v c w.addr w.data
  | none => s.putThrough w.addr w.data

/-- The host holds nothing of the window any more: what waited for it takes effect, its own reads are gone. -/
def State.forgetHost (s : State) : State :=
  s.basin.biWrites.foldl State.putHeld { s with basin := { s.basin with tracker := [], biPending := [], biWrites := [], hostReads := [] } }

/-- Memory as it is behind the Basin: dirty lines show their backing. -/
def State.behind (s : State) (a n : Nat) : Bytes :=
  rdN (s.basin.lines.foldl (fun m l => if l.2.dirty then wrN m (l.1 * 256) (rdN l.2.backing (l.1 * 256) 256) else m) s.mem) a n

/-- Write back every dirty line (R160, R166). -/
def State.writeBackAll (s : State) : State :=
  { s with basin := { s.basin with lines := s.basin.lines.map fun (l : Nat × Line) => (l.1, { l.2 with dirty := false, writer := none, backing := [] }) } }

/-- Lose every line without writing back (R166). -/
def State.loseAll (s : State) : State :=
  (s.basin.lines.map (·.1)).foldl (fun s l => s.loseLine l) s

/-! ## Buckets (R142, R150) -/

/-- CACHE groups that are not retired, in ascending order. -/
def State.cacheGroups (s : State) : List Nat :=
  (List.range 16).filter fun g => !(s.group g).scratch && !(s.group g).retired

/-- Buckets a group holds, MOVING ones excluded. -/
def State.bucketsOf (s : State) (g : Nat) : List Nat :=
  ((s.basin.bucket.filter fun e => e.2 = g).map (·.1)).filter fun b => (look s.basin.moving b).isNone

/-- The configuration's assignment (R142). -/
def State.assignBuckets (s : State) : State :=
  let c := s.cacheGroups
  { s with basin := { s.basin with
      bucket := if c.isEmpty then [] else (List.range 256).map fun b => (b, c.getD (b % c.length) 0)
      moving := [] } }

/-- Buckets held or coming to each group, with ties to the lowest number. -/
def State.load (s : State) (g : Nat) : Nat :=
  (s.bucketsOf g).length + (s.basin.moving.filter fun e => e.2 = g).length

def pickMin (f : Nat → Nat) : List Nat → Option Nat
  | [] => none
  | x :: xs => some (xs.foldl (fun m y => if f y < f m then y else m) x)

def pickMax (f : Nat → Nat) : List Nat → Option Nat
  | [] => none
  | x :: xs => some (xs.foldl (fun m y => if f m < f y then y else m) x)

/-- CACHE groups that no change in progress takes out of CACHE mode. -/
def State.stayingGroups (s : State) : List Nat :=
  s.cacheGroups.filter fun g => !((s.group g).change.map fun c => c.toScratch && c.ways.isEmpty && decide (1 ≤ c.phase)).getD false

/-- A target that leaves a bucket unassigned: no CACHE group remains (R142). -/
def noGroup : Nat := 16

/-- A group leaves CACHE mode: its buckets, and those on their way to it, go one at a time, in ascending order, to the
remaining CACHE group holding the fewest. -/
def State.leaveCache (s : State) (g : Nat) : State :=
  let bs := (List.range 256).filter fun b => match look s.basin.moving b with
    | some t => t = g
    | none => look s.basin.bucket b = some g
  bs.foldl (fun s b =>
    let t := (pickMin s.load (s.stayingGroups.filter (· ≠ g))).getD noGroup
    { s with basin := { s.basin with moving := put s.basin.moving b t } }) s

/-- A group that was to leave CACHE mode stays: its buckets stay with it. -/
def State.keepBuckets (s : State) (g : Nat) : State :=
  { s with basin := { s.basin with moving := s.basin.moving.filter fun e => look s.basin.bucket e.1 ≠ some g } }

/-- A group enters CACHE mode: it takes the highest-numbered bucket of the fullest group until it
holds ⌊256 ÷ n⌋. -/
def State.enterCache (s : State) (g : Nat) : State :=
  let n := s.stayingGroups.length
  let others := s.stayingGroups.filter (· ≠ g)
  if others.isEmpty then
    let free := (List.range 256).filter fun b => (look s.basin.bucket b).isNone
    { s with basin := { s.basin with
        bucket := free.foldl (fun m b => put m b g) s.basin.bucket
        moving := s.basin.moving.map fun e => (e.1, g) } }
  else (List.range (256 / n)).foldl (fun s _ =>
    match pickMax (fun x => (s.bucketsOf x).length) others with
    | some t => match (s.bucketsOf t).getLast? with
      | some b => { s with basin := { s.basin with moving := put s.basin.moving b g } }
      | none => s
    | none => s) s

/-- Bucket `b` flips once its old group holds no line of it (R150). -/
def State.flipBucket (s : State) (b : Nat) : State :=
  match look s.basin.moving b, look s.basin.bucket b with
  | some t, some old =>
    if s.basin.lines.any fun l => l.2.group = old && lineBucket l.1 = b then s
    else { s with basin := { s.basin with
      bucket := if t = noGroup then del s.basin.bucket b else put s.basin.bucket b t
      moving := del s.basin.moving b } }
  | _, _ => s

def execBasinBucketFlip (bucket : Nat) (s : State) : Out := .next (s.flipBucket bucket)

end Sys2Proof.Machine
end

