-- ==== Sys2Proof/Machine/Idle.lean ====
section
/-! DEFINITION. Pass links at rest: what a link keeps when it stops, and the way down of all of them (R526, R560). -/
namespace Sys2Proof.Machine
open Sys2Proof

def State.plink (s : State) (p : Nat) : PassLink := lookD s.links p {}
def State.updLink (s : State) (p : Nat) (f : PassLink → PassLink) : State :=
  { s with links := put s.links p (f (s.plink p)) }

/-- The transmitter of a link sends frames. -/
def PassLink.sends (l : PassLink) : Bool :=
  match l.st with
  | .align | .init | .up | .shuttingDown => true
  | _ => false

/-- Link-layer state of a new LINK_INIT: credits of both directions start with the receive buffers (R526, R539). -/
def PassLink.fresh (l : PassLink) : PassLink :=
  let all := (List.range 17).map fun c => (c, if c = 16 then 64 else 480)
  { l with
    txSeq := 0, unacked := [], replaying := [], timerRuns := 0, lastNak := none, rxSeq := 0, accepted := false
    nakDue := false, nakSent := none, partly := [], credits := all, sent := [], given := all, received := [] }

/-- What a link's end keeps when it stops: its settings, keys, counters and the partner's incarnation. -/
def PassLink.stop (l : PassLink) (st : LinkState) (reason : Nat) : PassLink :=
  { l.fresh with
    st, reason, greeted := false, again := false, failed := 0, echoes := [], trips := [], delay := 0, control := []
    current := none, queue := [], authAt := [], lost := l.lost + l.unacked.length
    partner := l.partner.map fun (q : Partner) => { q with rootHops := 0xFF, inStep := false } }

/-- The link is UP, or has been and seeks to be so again. -/
def PassLink.wasUp (l : PassLink) : Bool :=
  l.st == .up || (l.st == .shuttingDown && l.notice) || l.again || (l.st == .align && l.greeted)

/-- DOWN_NOTICE in 16 frames, from a transmitter that sends. -/
def State.downNotice (s : State) (p : Nat) : State := if (s.plink p).sends then s.emit (.downNotice p) else s

/-- The device leaves the states in which links are UP: every link sends DOWN_NOTICE and goes to electrical idle;
an enabled one, or one whose shutdown ends with the state (R72), waits, after a new backoff, for the states to return.
Nothing is forwarded any more. -/
def State.linksDown (s : State) : State :=
  (List.range 8).foldl (fun s p =>
    match (s.plink p).st with
    | .disabled | .retired => s
    | _ =>
      let (n, s) := (s.downNotice p).drawNat 43
      s.noteEdges (s.updLink p fun l => { (l.stop .backoff 0) with until_ := s.now + n % 5000001, shut := {}, notice := false })) s

end Sys2Proof.Machine
end

