-- ==== Sys2Proof/Machine/Records.lean ====
section
/-! DEFINITION. The fault ring: its writer, its consumer index, the messages that read records, and the
entry into FAULT_HOLD (18: R690-R696, R705, R707, R710-R713, R718; R72, R85, R506). -/
namespace Sys2Proof.Machine
open Sys2Proof

def fltBase : Nat := 0x150000
def recAt (seq : Nat) : Nat := fltBase + (seq + 255) % 256 * 128

/-- SEQ of the last committed record. -/
def Flt.prod (f : Flt) : Nat := f.nextSeq - 1

/-- Records not released. -/
def Flt.unread (f : Flt) : Nat := (BitVec.ofNat 32 f.prod - f.ringCons).toNat

/-- Bytes 24 to 35 of a record: the signature's fields but ADDRESS. -/
def FaultEv.key (e : FaultEv) : Bytes :=
  leBytes 1 e.kind ++ leBytes 1 e.source ++ leBytes 2 e.event ++ leBytes 1 e.cls ++ leBytes 1 e.valley ++
  leBytes 2 e.unit ++ leBytes 2 e.subunit ++ leBytes 2 e.ctx

/-- Bytes 0 to 119 of the record of an event (Table 18.6). -/
def FaultEv.bytes (e : FaultEv) (seq : Nat) : Bytes :=
  leBytes 8 seq ++ leBytes 8 e.first ++ leBytes 8 e.last ++ e.key ++ leBytes 1 e.scope ++ leBytes 1 e.outcome ++
  leBytes 2 e.flags ++ leBytes 4 (min e.count 0xFFFFFFFF) ++ leBytes 1 e.cmpl ++ zeros 3 ++ leBytes 8 e.addr ++
  leBytes 8 e.related ++ leBytes 4 (crc32c (e.key ++ leBytes 8 (e.addr / 4096 * 4096))).toNat ++ zeros 4 ++
  leBytes 8 e.syndrome ++ leBytes 8 e.index ++ leBytes 8 e.expected ++ leBytes 8 e.observed ++ zeros 16

/-- The record with its COMMIT (R693). -/
def FaultEv.record (e : FaultEv) (seq : Nat) : Bytes :=
  e.bytes seq ++ leBytes 4 seq ++ leBytes 4 (crc32c (e.bytes seq)).toNat

def State.setFlt (s : State) (f : Flt) : State := { s with flt := f }

/-- A freed entry is taken by the EVENTS_LOST marker while losses are uncounted (R692). -/
def State.raiseMarker (s : State) : State :=
  if s.flt.overflow ≠ 0 && !(s.flt.staged.any (·.marker)) && s.flt.staged.length < 63 then
    s.setFlt { s.flt with staged := s.flt.staged ++
      [{ kind := 7, source := 0x0A, count := 0, first := s.now, last := s.now, marker := true }] }
  else s

/-- The writer takes the next staged entry and clears the slot's COMMIT. -/
def State.beginRecord (s : State) : State :=
  match s.flt.writing, s.flt.staged with
  | none, e :: rest =>
    let e := if e.marker then { e with count := s.flt.overflow } else e
    let s := s.setFlt { s.flt with
      writing := some e, staged := rest, overflow := if e.marker then 0 else s.flt.overflow }
    ({ s with ram := wrN s.ram (recAt s.flt.nextSeq + 120) (zeros 8) }).raiseMarker
  | _, _ => s

/-- NTF_EVENT of Table 18.5. -/
def State.faultNtf (s : State) (ev : Nat) (e : FaultEv) (seq : Nat) : State :=
  s.event 0x0A ev (if e.cls = 0x0F then 0xFFFF else (e.cls * 256 + e.unit) % 65536) (leBytes 8 seq)
    (if e.valley < 8 then some e.valley else none)

/-- The writer commits the record it has begun; `over` writes over the oldest when the ring is full (R694). -/
def State.commitRecord (s : State) (past : Bool) : State :=
  match s.flt.writing with
  | none => s
  | some e =>
    let full := s.flt.unread = 256
    if full && !past then s else
    let s := if full then s.setFlt { s.flt with
        ringCons := s.flt.ringCons + 1, overflow := s.flt.overflow + 1, lost := satAdd 0xFFFFFFFF s.flt.lost 1 } else s
    let seq := s.flt.nextSeq
    let empty := s.flt.unread = 0
    let s := ({ s with ram := wrN s.ram (recAt seq) (e.record seq) }).setFlt
      { s.flt with writing := none, nextSeq := seq + 1 }
    let s := if empty || s.flt.unread = 192 then s.faultNtf 1 e seq else s
    let s := if e.kind = 7 then s.faultNtf 5 e seq else s
    s.raiseMarker

/-- Entries the writer must write past a full ring: those up to the last of scope DEVICE. -/
def Flt.urgent (f : Flt) : Bool := (f.writing.toList ++ f.staged).any fun e => e.scope = 3

/-- A record that the ring holds. -/
def Flt.holdsRecord (f : Flt) (seq : Nat) : Bool := 1 ≤ seq && seq ≤ f.prod && f.prod < seq + 256

/-- What an error of the writer's own state takes: how many records are lost, and the state without them. -/
def State.loseRecord (s : State) : RecordLoss → Nat × State
  | .staged i =>
    if i < s.flt.staged.length then (1, s.setFlt { s.flt with staged := s.flt.staged.eraseIdx i }) else (0, s)
  | .writer => if s.flt.writing.isSome then (1, s.setFlt { s.flt with writing := none }) else (0, s)
  | .ring q => if s.flt.holdsRecord q then (1, { s with ram := zeroN s.ram (recAt q) 128 }) else (0, s)
  | .indices => (0, s)

/-- One EVENTS_LOST record states how many were lost (R707): staged as an entry of its own, or where none is free left to
the overflow counter. -/
def State.reportLoss (s : State) (n : Nat) : State :=
  if n = 0 then s else
  let f := { s.flt with lost := satAdd 0xFFFFFFFF s.flt.lost n }
  if f.staged.length < 63 then
    s.setFlt { f with staged := f.staged ++ [{ kind := 7, source := 0x0A, count := n, first := s.now, last := s.now }] }
  else s.setFlt { f with overflow := f.overflow + n }

/-- Errors found in the writer's state; without its indices the device cannot go on (R707). -/
def State.loseRecords (s : State) (l : List RecordLoss) : State :=
  let (n, s) := l.foldl (fun (a : Nat × State) x => let (k, s) := a.2.loseRecord x; (a.1 + k, s)) (0, s)
  s.reportLoss n

/-- Write everything staged, up to and with the event of scope DEVICE. -/
def flushRecords : Nat → State → State
  | 0, s => s
  | k + 1, s => if s.flt.urgent then flushRecords k ((s.beginRecord).commitRecord true) else s

/-! ## FAULT_HOLD (R72, R85, R506, R708) -/

/-- A commit is stopped by a reset or FAULT_HOLD (R739). Whether the primary directory was complete is free: if it was,
the new image stands; if not, the old entry does, with a CRC that does not match. -/
def State.stopFlashCommit (s : State) : State :=
  match s.sec.flashCommit with
  | none => s
  | some c =>
    let (n, s) := s.drawNat 65
    let flash := if n % 2 = 1 then put s.sec.flash c.target c.image else match look s.sec.flash c.target with
      | some e => put s.sec.flash c.target { e with crcOk := false }
      | none => s.sec.flash
    { s with sec := { s.sec with flashCommit := none, flash } }

/-- A slot's programming is stopped: it is CONSUMED unless COMMIT was set with a CHECK that matches (R740), which is free. -/
def State.stopOtp (s : State) : State :=
  match s.sec.otpProg with
  | none => s
  | some p =>
    let (n, s) := s.drawNat 66
    { s with sec := { s.sec with
      otpProg := none, otp := put s.sec.otp (p.setting * 256 + p.slot) { p.entry with valid := n % 2 = 1 } } }

/-- A transition to RETURNED that is stopped leaves memory zeroed up to a point that is not stated (R740). -/
def State.stopReturn (s : State) : State :=
  if s.sec.returning.isNone then s else
  let (n, s) := s.drawNat 61
  { s with sec := { s.sec with returning := none }, mem := s.mem.filter fun c => n ≤ c.1 || inHost c.1 }

/-- Enter FAULT_HOLD: every request ends without completion and every deferred operation with ST_FAULTED. -/
def State.hold (s : State) (seq : Nat) : State :=
  if s.dev.st = .reset || s.dev.st = .faultHold then s else
  let s := s.stopFlashCommit.stopOtp.stopReturn
  let c := s.core
  let s := { s with
    core := { c with
      reqs := [], threads := [], tasks := [], bags := [], plain := [], remote := [], due := [], peers := [], netReqs := []
      sync := c.sync.map fun (o : Nat × SyncObj) => (o.1, { o.2 with line := [] })
      sets := c.sets.map fun (x : Nat × TSet) => (x.1, { x.2 with advance := none }) }
    valleys := s.valleys.map fun (v : Nat × Valley) => (v.1, { v.2 with
      changes := [], retiring := v.2.retiring.map fun (r : Retiring) => { r with done := none } })
    basin := { s.basin with biSyncs := [] }
    dev := { s.dev with commit := none, drain := none }
    pwr := { s.pwr with wake := none }
    ford := { s.ford with jobs := [] }
    cyn := { s.cyn with jobs := [] } }
  ((s.linksDown.zeroRings).endDeferred .faulted fun _ => false).enter .faultHold seq

/-- A fault that loses every job on the device: its record is written, then FAULT_HOLD. -/
def State.deviceFault (s : State) (e : FaultEv) : State :=
  let (s, seq) := s.stage { e with scope := 3, outcome := if e.kind = 0 then 1 else e.outcome }
  (flushRecords 65 s).hold seq

/-- The writer runs from RESET on; a full ring stops it, unless a DEVICE event waits. `found`: uncorrectable errors in its
own state. -/
def execFaultRecordWrite (commit : Bool × List RecordLoss) (s : State) : Out :=
  .next (if s.dev.st = .reset then s
    else if RecordLoss.indices ∈ commit.2 then s.deviceFault { source := 0x0A, event := 2, cls := 0x0F }
    else
      let s := s.loseRecords commit.2
      if commit.1 then s.commitRecord s.flt.urgent
      else if s.flt.unread = 256 && !s.flt.urgent then s else s.beginRecord)

/-! ## The consumer (R705) -/

/-- A new FLT_RING_CONS, where it lies from the old one to FLT_RING_PROD. -/
def State.setCons (s : State) (v : W32) : Option State :=
  if (v - s.flt.ringCons).toNat ≤ s.flt.unread then some (s.setFlt { s.flt with ringCons := v }) else none

/-- The fault window is written through BAR0. -/
def execFltRingConsWrite (value : W32) (s : State) : Out :=
  .next (if s.bar0 then
    match s.setCons value with
    | some s => s
    | none => s.setFlt { s.flt with consErr := true }
  else s)

/-! ## Messages (R712, R713, R718) -/

/-- The record of a SEQ, where its slot holds it with a matching COMMIT. -/
def State.recordSeq (s : State) (seq : Nat) : Option Bytes :=
  let r := rdN s.ram (recAt seq) 128
  if 1 ≤ seq && seq ≤ s.flt.prod && s.flt.prod < seq + 256 && u32 r 120 = seq % 2 ^ 32 &&
      u32 r 124 = (crc32c (r.take 120)).toNat then some r else none

/-- Valid records from a SEQ on, of one valley where a valley asks. -/
def State.recordsFrom (s : State) (start : Nat) (valley : Option Nat) : List (Nat × Bytes) :=
  ((List.range 256).map (start + ·)).filterMap fun q => match s.recordSeq q with
    | some r => if (valley.map fun v => u8 r 29 == v).getD true then some (q, r) else none
    | none => none

def fltRecordRead : Msg where
  op := 0x0A01
  mark := .both
  cls := .q
  len := lenIs 12
  field := fun r _ => firstBad [(u8 r.pay 8 = 0 || 3 < u8 r.pay 8, 8)]
  run := fun r s =>
    let f := s.flt
    let ask := if u64 r.pay 0 = 2 ^ 64 - 1 then f.prod + 1 - f.unread else u64 r.pay 0
    let start := max (max ask 1) (f.prod + 1 - 256)
    let got := (s.recordsFrom start (if r.via.mbx = 8 then none else some r.via.mbx)).take (u8 r.pay 8)
    Res.okay s (leBytes 8 ((got.head?.map (·.1)).getD 0) ++ leBytes 4 f.prod ++ leBytes 4 f.ringCons.toNat ++
      leBytes 1 got.length ++ zeros 7 ++ got.flatMap (·.2))

def execFltRecordRead (via : Via) (s : State) : Out := serve fltRecordRead via s

def fltRecordRelease : Msg where
  op := 0x0A02
  mark := .dm
  cls := .o
  len := lenIs 8
  field := fun r s => firstBad [((s.setCons (BitVec.ofNat 32 (u32 r.pay 0))).isNone, 0)]
  run := fun r s => Res.okay ((s.setCons (BitVec.ofNat 32 (u32 r.pay 0))).getD s)

def execFltRecordRelease (via : Via) (s : State) : Out := serve fltRecordRelease via s

/-- A GUID as UEFI stores it: three little-endian fields, then eight bytes in order. -/
def guid (a b c : Nat) (rest : List Nat) : Bytes := leBytes 4 a ++ leBytes 2 b ++ leBytes 2 c ++ rest.map (BitVec.ofNat 8)

/-- FRU text of a unit: the letters of its class name in the spec, and its index in decimal. -/
def fruText (cls unit : Nat) : Bytes :=
  let name := match cls with
    | 1 => "G" | 2 => "CK" | 3 => "BS" | 4 => "HBM" | 5 => "LPD" | 6 => "P" | 7 => "HD" | 8 => "FORD" | 9 => "CYN"
    | 0x0A => "FE" | 0x0B => "CC" | 0x0C => "HOST" | 0x0D => "ETH" | 0x0E => "MBX" | _ => "DEV"
  fit 20 ((name ++ toString unit).toList.map fun c => BitVec.ofNat 8 c.toNat)

/-- Table 18.8. -/
def severity (r : Bytes) : Nat :=
  match u8 r 24, u8 r 36 with
  | 0, 3 => 1
  | 0, 1 | 0, 2 => 0
  | 0, _ => if u16 r 26 = 1 then 2 else 3
  | 2, _ => 0
  | _, _ => 3

/-- R696: a Common Platform Error Record of 344 bytes around one fault record. -/
def State.cper (s : State) (r : Bytes) : Bytes :=
  let sev := leBytes 4 (severity r)
  let header := [0x43, 0x50, 0x45, 0x52] ++ leBytes 2 0x0101 ++ leBytes 4 0xFFFFFFFF ++ leBytes 2 1 ++ sev ++
    zeros 4 ++ leBytes 4 344 ++ zeros 8 ++ zeros 16 ++ zeros 16 ++
    guid 0x3B1E0D6A 0x5C27 0x4F91 [0xA8, 0xE4, 0x70, 0xD2, 0xC6, 0xB9, 0x5F, 0x13] ++
    guid 0x9E4C2B70 0x1A3D 0x4E86 [0xB5, 0xF0, 0x6C, 0x28, 0xD1, 0xE7, 0xA9, 0x4B] ++ slice r 0 8 ++ zeros 32
  let section_ := leBytes 4 200 ++ leBytes 4 144 ++ leBytes 2 0x0101 ++ leBytes 1 2 ++ zeros 1 ++ leBytes 4 1 ++
    guid 0x7C3A9E21 0x4F6B 0x4D08 [0x9B, 0x15, 0x2E, 0x60, 0xC4, 0xA7, 0xD9, 0x13] ++ zeros 16 ++ sev ++
    fruText (u8 r 28) (u16 r 30)
  fit 128 header ++ fit 72 section_ ++ leBytes 4 s.devId.toNat ++ leBytes 4 s.dev.fwVersion ++
    leBytes 8 s.fuse.serial.toNat ++ r

def fltCperRead : Msg where
  op := 0x0A08
  mark := .dm
  cls := .q
  len := lenIs 8
  run := fun r s => match s.recordSeq (u64 r.pay 0) with
    | some x => Res.okay s (s.cper x)
    | none => Res.fail s .conflict

def execFltCperRead (via : Via) (s : State) : Out := serve fltCperRead via s

end Sys2Proof.Machine
end

