-- ==== Sys2Proof/Machine/Formats.lean ====
section
/-! DEFINITION. Numbers (09): exact values, decoding, rounding under a personality, narrowing with one
rounding, and the FP32 operations built from them. -/
namespace Sys2Proof.Machine
open Sys2Proof

/-- An exact value: NaN, an infinity, or a signed magnitude `n / d`; zero keeps its sign. -/
inductive Num where
  | nan
  | inf (neg : Bool)
  | fin (neg : Bool) (n d : Nat)
deriving DecidableEq, Repr

def Num.zero : Num := .fin false 0 1
def Num.ofInt (v : Int) : Num := .fin (decide (v < 0)) v.natAbs 1

/-- `n × 2^k` for any integer k. -/
def Num.pow2 (k : Int) : Num := if 0 ≤ k then .fin false (2 ^ k.toNat) 1 else .fin false 1 (2 ^ (-k).toNat)

def signOf (neg : Bool) (n : Nat) : Int := if neg then -(n : Int) else n

/-- The exact sum (R346): an exact zero is +0 unless both addends are -0. -/
def Num.add : Num → Num → Num
  | .nan, _ => .nan
  | _, .nan => .nan
  | .inf a, .inf b => if a = b then .inf a else .nan
  | .inf a, .fin _ _ _ => .inf a
  | .fin _ _ _, .inf b => .inf b
  | .fin a n d, .fin b m e =>
    let c := if d % e = 0 then d else if e % d = 0 then e else d * e
    let v := signOf a (n * (c / d)) + signOf b (m * (c / e))
    if v = 0 then .fin (a && b) 0 1 else .fin (decide (v < 0)) v.natAbs c

def Num.isZero : Num → Bool
  | .fin _ n _ => n == 0
  | _ => false

def Num.isFinite : Num → Bool
  | .fin _ _ _ => true
  | _ => false

def Num.isNan : Num → Bool
  | .nan => true
  | _ => false

def Num.isNeg : Num → Bool
  | .nan => false
  | .inf a => a
  | .fin a _ _ => a

/-- The IEEE 754 product, exact (R347). -/
def Num.mul : Num → Num → Num
  | .nan, _ => .nan
  | _, .nan => .nan
  | .fin a n d, .fin b m e => .fin (a != b) (n * m) (d * e)
  | x, y => if x.isZero || y.isZero then .nan else .inf (x.isNeg != y.isNeg)

/-- The IEEE 754 quotient, exact. -/
def Num.div : Num → Num → Num
  | .nan, _ => .nan
  | _, .nan => .nan
  | .inf _, .inf _ => .nan
  | .inf a, .fin b _ _ => .inf (a != b)
  | .fin a _ _, .inf b => .fin (a != b) 0 1
  | .fin a n d, .fin b m e =>
    if m = 0 then (if n = 0 then .nan else .inf (a != b)) else .fin (a != b) (n * e) (d * m)

def Num.neg : Num → Num
  | .nan => .nan
  | .inf a => .inf (!a)
  | .fin a n d => .fin (!a) n d

def Num.abs : Num → Num
  | .nan => .nan
  | .inf _ => .inf false
  | .fin _ n d => .fin false n d

/-- `x < y` for values that are not NaN; +0 and -0 are ordered, -0 below +0 (R223, MAX). -/
def Num.lt : Num → Num → Bool
  | .nan, _ => false
  | _, .nan => false
  | .inf a, .inf b => a && !b
  | .inf a, .fin _ _ _ => a
  | .fin _ _ _, .inf b => !b
  | .fin a n d, .fin b m e =>
    let x := signOf a (n * e)
    let y := signOf b (m * d)
    decide (x < y) || (x = y && a && !b)

/-! ## Formats (Table 9.1) -/

/-- A floating format: fraction bits, emin, width, largest finite magnitude, pattern of infinity and
of NaN; whether it overflows to infinity under personalities 32 and 84. -/
structure FloatFmt where
  bits : Nat
  frac : Nat
  emin : Int
  max : Nat
  inf : Option Nat
  nan : Option Nat
  overInf : Bool
deriving DecidableEq, Repr

def fp32 : FloatFmt := { bits := 32, frac := 23, emin := -126, max := 0x7F7FFFFF, inf := some 0x7F800000, nan := some 0x7FC00000, overInf := true }
def bf16 : FloatFmt := { bits := 16, frac := 7, emin := -126, max := 0x7F7F, inf := some 0x7F80, nan := some 0x7FC0, overInf := true }
def fp16 : FloatFmt := { bits := 16, frac := 10, emin := -14, max := 0x7BFF, inf := some 0x7C00, nan := some 0x7E00, overInf := true }
def e4m3 : FloatFmt := { bits := 8, frac := 3, emin := -6, max := 0x7E, inf := none, nan := some 0x7F, overInf := false }
def e5m2 : FloatFmt := { bits := 8, frac := 2, emin := -14, max := 0x7B, inf := some 0x7C, nan := some 0x7E, overInf := false }
def e2m1 : FloatFmt := { bits := 4, frac := 1, emin := 0, max := 0x7, inf := none, nan := none, overInf := false }

/-- Floating formats by code (Table 6.3). -/
def floatFmt : Nat → Option FloatFmt
  | 0 => some fp32 | 1 => some bf16 | 2 => some fp16 | 3 => some e4m3 | 4 => some e5m2 | _ => none

/-- Decode a pattern (R335, R338). -/
def FloatFmt.decode (f : FloatFmt) (w : Nat) : Num :=
  let half := 2 ^ (f.bits - 1)
  let neg := half ≤ w % 2 ^ f.bits
  let m := w % half
  if m ≤ f.max then
    let e := m / 2 ^ f.frac
    let k : Int := f.emin - f.frac + (if e = 0 then 0 else (e : Int) - 1)
    let r := if e = 0 then m else m % 2 ^ f.frac + 2 ^ f.frac
    if 0 ≤ k then .fin neg (r * 2 ^ k.toNat) 1 else .fin neg r (2 ^ (-k).toNat)
  else if f.inf = some m then .inf neg
  else .nan

/-- ⌊log2 (n / d)⌋ for positive n and d. -/
def floorLog2 (n d : Nat) : Int :=
  let e : Int := (n.log2 : Int) - d.log2
  let below := if 0 ≤ e then decide (n < d * 2 ^ e.toNat) else decide (n * 2 ^ (-e).toNat < d)
  if below then e - 1 else e

/-- Quotient and twice the remainder of n / d ÷ 2^k, with the divisor. -/
def scaled (n d : Nat) (k : Int) : Nat × Nat × Nat :=
  let a := if 0 ≤ k then n else n * 2 ^ (-k).toNat
  let b := if 0 ≤ k then d * 2 ^ k.toNat else d
  (a / b, 2 * (a % b), b)

/-- Round a quotient under personality p: 21 toward zero, 32 ties to even, 84 ties away. -/
def roundQ (p q r2 b : Nat) : Nat :=
  if p = 21 then q
  else if r2 < b then q
  else if b < r2 then q + 1
  else if r2 = 0 then q
  else if p = 84 then q + 1
  else if q % 2 = 0 then q else q + 1

/-- narrow_p (R341-R343, Tables 9.3 and 9.4), as the format's pattern. -/
def FloatFmt.narrow (f : FloatFmt) (p : Nat) (x : Num) : Nat :=
  let sign := fun (neg : Bool) (m : Nat) => if neg then m + 2 ^ (f.bits - 1) else m
  match x with
  | .nan => f.nan.getD 0
  | .inf a => sign a (f.inf.getD f.max)
  | .fin a n d =>
    if n = 0 then sign a 0 else
    let l := floorLog2 n d
    let e := if l < f.emin then f.emin else l
    let (q, r2, b) := scaled n d (e - f.frac)
    let m := (e - f.emin).toNat * 2 ^ f.frac + roundQ p q r2 b
    if m ≤ f.max then sign a m
    else if p ≠ 21 && f.overInf then sign a (f.inf.getD f.max) else sign a f.max

/-- round_p (R340) of a finite value. -/
def roundInt (p : Nat) (x : Num) : Int :=
  match x with
  | .fin a n d => signOf a (roundQ p (n / d) (2 * (n % d)) d)
  | _ => 0

/-- sat(round_p(v) + z) to the range lo..hi (R344). -/
def satInt (p : Nat) (lo hi z : Int) (x : Num) : Int :=
  match x with
  | .inf false => hi
  | .inf true => lo
  | v => max lo (min hi (roundInt p v + z))

/-! ## FP32 operations: exact, then one rounding to nearest even (R223, R317) -/

def Num.rnd (x : Num) : Num := fp32.decode (fp32.narrow 32 x)
def fadd (a b : Num) : Num := (a.add b).rnd
def fmul (a b : Num) : Num := (a.mul b).rnd
def fdiv (a b : Num) : Num := (a.div b).rnd

/-- The largest power of two below n, for n > 1. -/
def splitAt2 (n : Nat) : Nat := 2 ^ (n - 1).log2

/-- The fixed binary tree of R224 (personality 84), by the length as fuel. -/
def treeSum : Nat → List Num → Num
  | _, [] => Num.zero
  | _, [x] => x
  | 0, _ => Num.zero
  | k + 1, l => fadd (treeSum k (l.take (splitAt2 l.length))) (treeSum k (l.drop (splitAt2 l.length)))

def leftSum : List Num → Num
  | [] => Num.zero
  | x :: xs => xs.foldl fadd x

/-- Every fourth value from the k-th. -/
def fourth (l : List Num) (k : Nat) : List Num :=
  ((List.range l.length).filter (fun p => p % 4 = k)).map fun p => l.getD p Num.zero

/-- ordered_sum (R224). -/
def orderedSum (p : Nat) (l : List Num) : Num :=
  match l with
  | [] => Num.zero
  | l =>
    if p = 21 then leftSum l
    else if p = 32 then
      let s := fun k => leftSum (fourth l k)
      if l.length = 1 then s 0
      else if l.length = 2 then fadd (s 0) (s 1)
      else if l.length = 3 then fadd (fadd (s 0) (s 1)) (s 2)
      else fadd (fadd (s 0) (s 1)) (fadd (s 2) (s 3))
    else treeSum l.length l

/-- Pooling of one output element (Table 6.5); POOL 0 is not pooled. -/
def pool (kind p : Nat) (xs ws : List Num) : Num :=
  match xs with
  | [] => Num.zero
  | x :: rest =>
    match kind with
    | 1 => orderedSum p xs
    | 2 => fdiv (orderedSum p xs) (.fin false xs.length 1)
    | 3 => if xs.any Num.isNan then .nan else rest.foldl (fun m y => if m.lt y then y else m) x
    | _ => orderedSum p ((xs.zip ws).map fun e => fmul e.2 e.1)

/-! ## Elements and rows (R214-R218, R335-R337, Table 6.4) -/

/-- Bits of one element; 0 for a code that names no format. -/
def elemBits : Nat → Nat
  | 0 => 32 | 1 => 16 | 2 => 16 | 3 => 8 | 4 => 8 | 5 => 8 | 6 => 4 | 7 => 2 | 8 => 8 | 9 => 4 | _ => 0

def isMx (fmt : Nat) : Bool := fmt = 8 || fmt = 9
def isIntFmt (fmt : Nat) : Bool := fmt = 5 || fmt = 6 || fmt = 7

/-- Payload bytes for W elements (Table 6.3). -/
def payloadBytes (fmt w : Nat) : Nat := w * elemBits fmt / 8 + (if isMx fmt then w / 32 else 0)

/-- Scale entries of a row (R216). -/
def scaleCount (group w : Nat) : Nat :=
  match group with
  | 1 => 1 | 2 => w / 32 | 3 => w / 64 | 4 => w / 128 | _ => 0

/-- Elements per scale entry. -/
def scaleGroup (group w : Nat) : Nat :=
  match group with
  | 2 => 32 | 3 => 64 | 4 => 128 | _ => w

/-- Row stride (R214). -/
def rowStride (fmt w : Nat) : Nat := ceilDiv (payloadBytes fmt w + 4) 16 * 16

/-- Stored element i of a payload, as its unsigned pattern. -/
def elemAt (fmt : Nat) (p : Bytes) (i : Nat) : Nat :=
  let b := elemBits fmt
  if 8 ≤ b then leNat (slice p (i * (b / 8)) (b / 8)) else u8 p (i * b / 8) / 2 ^ (i * b % 8) % 2 ^ b

/-- Pack patterns narrower than a byte from bit 0 up, or lay wider ones out in bytes. -/
def packElems (fmt : Nat) (l : List Nat) : Bytes :=
  let b := elemBits fmt
  if 8 ≤ b then l.flatMap (leBytes (b / 8))
  else
    let per := 8 / b
    (List.range (ceilDiv l.length per)).map fun i =>
      BitVec.ofNat 8 ((List.range per).foldl (fun a k => a + l.getD (i * per + k) 0 * 2 ^ (k * b)) 0)

/-- Value of an E8M0 scale (R337). -/
def e8m0 (e : Nat) : Num := if e % 256 = 255 then .nan else Num.pow2 ((e % 256 : Nat) - 127)

/-- Scale and zero point of a scale entry. -/
def scaleEntry (sc : Bytes) (j : Nat) : Num × Int := (fp16.decode (u16 sc (4 * j)), signed 8 (u8 sc (4 * j + 2)))

/-- Dequantise element i of a stored row (Table 6.4, R218, R349). -/
def dequant (fmt group w : Nat) (payload scales : Bytes) (i : Nat) : Num :=
  let q := elemAt fmt payload i
  let e := fun (_ : Unit) => e8m0 (u8 payload (w * elemBits fmt / 8 + i / 32))
  if fmt = 8 then (Num.ofInt (signed 8 q)).mul (Num.pow2 (-6)) |>.mul (e ())
  else if fmt = 9 then ((e2m1.decode q).mul (e ())).rnd
  else
    let (s, z) := scaleEntry scales (i / max 1 (scaleGroup group w))
    match floatFmt fmt with
    | some f =>
      if group = 0 then f.decode q
      else if z = 0 then s.mul (f.decode q)
      else (s.mul ((f.decode q).add (Num.ofInt (-z)))).rnd
    | none => s.mul (Num.ofInt (signed (elemBits fmt) q - z))

/-- All elements of a row. -/
def dequantRow (fmt group w : Nat) (payload scales : Bytes) : List Num :=
  (List.range w).map (dequant fmt group w payload scales)

/-- CRC of a row (R217). -/
def rowCrc (index : Nat) (scales payload : Bytes) : W32 := crc32c (leBytes 8 index ++ scales ++ payload)

def intRange (fmt : Nat) : Int × Int :=
  if fmt = 6 then (-8, 7) else if fmt = 7 then (-2, 1) else (-128, 127)

/-- A two's complement pattern. -/
def intPattern (bits : Nat) (v : Int) : Nat := (v % (2 : Int) ^ bits).toNat

/-- Quantise one value (Table 7.1) under the entry or block scale given. -/
def quantise (p fmt group : Nat) (s : Num) (z : Int) (x : Num) : Nat :=
  if fmt = 8 then intPattern 8 (satInt p (-128) 127 0 ((x.div s).mul (Num.pow2 6)))
  else if fmt = 9 then e2m1.narrow p (x.div s)
  else match floatFmt fmt with
  | some f =>
    if fmt = 0 then fp32.narrow 32 x
    else if group = 0 then f.narrow p x
    else f.narrow p (if z = 0 then x.div s else (x.div s).add (Num.ofInt z))
  | none =>
    let (lo, hi) := intRange fmt
    intPattern (elemBits fmt) (satInt p lo hi z (x.div s))

/-- Least FP16 value at or above a positive one, at most 65,504 (R274). -/
def fp16Up (x : Num) : Nat :=
  let lo := fp16.narrow 21 x
  if (fp16.decode lo).lt x then min (lo + 1) 0x7BFF else min lo 0x7BFF

/-- Largest magnitude of a list. -/
def amax (l : List Num) : Num := l.foldl (fun m x => if m.lt x.abs then x.abs else m) Num.zero

/-- DERIVE for a scale entry (R274): SCALE with ZERO 0. -/
def deriveScale (fmt : Nat) (l : List Num) : Nat :=
  let a := amax l
  let top : Num := match fmt with
    | 2 => .fin false 65504 1 | 3 => .fin false 448 1 | 4 => .fin false 57344 1
    | 5 => .fin false 127 1 | 6 => .fin false 7 1 | _ => .fin false 1 1
  if a.isZero then 0x3C00 else fp16Up (a.div top)

/-- DERIVE for an MX block (R348). -/
def deriveBlock (fmt : Nat) (l : List Num) : Nat :=
  match amax l with
  | .fin _ n d =>
    if n = 0 then 127
    else (max 0 (min 254 (floorLog2 n d - (if fmt = 9 then 2 else 0) + 127))).toNat
  | _ => 127

/-! ## Waves and the outlet (08) -/

/-- Wave depth and slot bytes (Table 8.1); depth 0 where the code is no wave format. -/
def waveK : Nat → Nat
  | 0 => 16 | 1 => 64 | 2 => 64 | 3 => 128 | 4 => 128 | 5 => 128 | 6 => 256 | 8 => 128 | 9 => 256 | _ => 0

def waveSlot : Nat → Nat
  | 0 => 64 | 8 => 144 | 9 => 144 | _ => 128

/-- Element i of a floating wave slot; block j's scale follows the elements. -/
def waveElem (fmt : Nat) (slot : Bytes) (i : Nat) : Num :=
  let q := elemAt fmt slot i
  if fmt = 8 then ((Num.ofInt (signed 8 q)).mul (Num.pow2 (-6))).mul (e8m0 (u8 slot (128 + i / 32)))
  else if fmt = 9 then (e2m1.decode q).mul (e8m0 (u8 slot (128 + i / 32)))
  else match floatFmt fmt with
  | some f => f.decode q
  | none => Num.zero

/-- The product of two elements of a wave: exact, but for a scaled product beyond the FP32 range, an infinity (R349). -/
def waveProduct (fmt : Nat) (x y : Num) : Num :=
  let p := x.mul y
  if isMx fmt && !p.rnd.isFinite then p.rnd else p

/-- One wave of one lane into an FP32 accumulator (R317). -/
def waveFloat (p fmt kv : Nat) (acc : Nat) (a w : Bytes) : Nat :=
  let ps := (List.range kv).map fun i => waveProduct fmt (waveElem fmt a i) (waveElem fmt w i)
  let x := fp32.decode acc
  fp32.narrow 32 (
    if p = 21 then (ps.map Num.rnd).foldl fadd x
    else if p = 32 then fadd x (treeSum kv (ps.map Num.rnd))
    else ps.foldl Num.add x)

/-- One wave of one lane into an INT32 accumulator (R316). -/
def waveInt (fmt kv : Nat) (za zw : Int) (acc : Nat) (a w : Bytes) : Nat :=
  let b := elemBits fmt
  let t := (List.range kv).foldl (fun (t : Int) i =>
    t + (signed b (elemAt fmt a i) - za) * (signed b (elemAt fmt w i) - zw)) (signed 32 acc)
  intPattern 32 t

/-- The outlet (R318, Table 8.2) of one lane, as a pattern of OUT_FMT. -/
def outlet (p fmt outFmt : Nat) (relu : Bool) (acc : Nat) (param : Bytes) : Nat :=
  let isInt := fmt = 5 || fmt = 6
  let bias := if isInt then Num.ofInt (signed 32 (u32 param 0)) else fp32.decode (u32 param 0)
  let x := if isInt then Num.ofInt (signed 32 acc) else fp32.decode acc
  let v := (x.add bias).mul (Num.pow2 (-(signed 8 (u8 param 4))))
  let v := if relu && (v.isNeg || v.isZero) then Num.zero else v
  match floatFmt outFmt with
  | some f => f.narrow p v
  | none =>
    let (lo, hi) := intRange outFmt
    intPattern (elemBits outFmt) (satInt p lo hi (signed 8 (u8 param 6)) v)

/-- The Confluence output conversion (R225). -/
def confluence (p outFmt rscale : Nat) (zero : Int) (y : Num) : Nat :=
  match floatFmt outFmt with
  | some f => if outFmt = 0 then fp32.narrow 32 y else f.narrow p y
  | none => intPattern 8 (satInt p (-128) 127 zero (y.mul (fp32.decode rscale)))

/-- What a personality offers (Table 16.1): any SCALE_GROUP of R216 under 84. -/
def offers (p fmt group : Nat) : Bool :=
  if p = 21 then
    (fmt = 0 || fmt = 2) && group = 0 || (fmt = 5 || fmt = 6) && group = 1
  else if p = 32 then
    (fmt = 0 || fmt = 1) && group = 0 || fmt = 2 && group ≤ 1 ||
    (fmt = 3 || fmt = 4) && (group = 0 || group = 1 || group = 3) ||
    (fmt = 5 || fmt = 6) && (group = 1 || group = 3) || fmt = 7 && group = 1
  else fmt ≤ 9

/-- A format the personality offers with some scale grouping. -/
def offersFmt (p fmt : Nat) : Bool := (List.range 5).any (offers p fmt)

end Sys2Proof.Machine
end

