-- ==== Sys2Proof/Machine/Board.lean ====
section
/-! DEFINITION. GPIO, the two-wire target, MCTP carriage and the debug access port (21, with R764). -/
namespace Sys2Proof.Machine
open Sys2Proof

/-! ## GPIO registers (R789, R798, R801, R809) -/

def State.setGpio (s : State) (g : Gpio) : State := s.noteEdges { s with gpio := g }

/-- New latch value; a pad whose own drive changes is no longer held against it. -/
def State.setLatch (s : State) (v : W32) : State :=
  s.setGpio { s.gpio with latch := v, forced := s.gpio.forced &&& ~~~(v ^^^ s.gpio.latch) }

def execGpioOutLatchWrite (value : W32) (s : State) : Out :=
  .next (if s.bar0 then s.setLatch value else s)

def execGpioOutSetWrite (value : W32) (s : State) : Out :=
  .next (if s.bar0 then s.setLatch (s.gpio.latch ||| value) else s)

def execGpioOutClrWrite (value : W32) (s : State) : Out :=
  .next (if s.bar0 then s.setLatch (s.gpio.latch &&& ~~~value) else s)

/-- The board changes the level of a pad (R798, R816). -/
def execGpioPadEdge (pin : Nat) (rising : Bool) (s : State) : Out :=
  .next (if pin < 32 then
    let m : W32 := 1 <<< pin
    let g := { s.gpio with
      ext := if rising then s.gpio.ext ||| m else s.gpio.ext &&& ~~~m
      forced := match s.drives pin with
        | some b => if b = rising then s.gpio.forced &&& ~~~m else s.gpio.forced ||| m
        | none => s.gpio.forced &&& ~~~m
      edge := if rising && s.dev.st != .reset then s.gpio.edge ||| m else s.gpio.edge }
    { s with gpio := g }
  else s)

/-- Logical rising edges of TRIGGER_IN no further apart than 1 µs: all are counted, the last is
latched and notified (R801). -/
def execTriggerInEdge (pin edges stamp : Nat) (s : State) : Out :=
  .next (if s.pinsOf 8 = [pin] && edges ≠ 0 && s.dev.st != .reset then
    let g := { s.gpio with
      trigTime := BitVec.ofNat 64 stamp
      trigCount := s.gpio.trigCount + BitVec.ofNat 32 edges }
    let s := { s with gpio := g }
    if s.fwRun then s.event 0x0D 1 pin (leBytes 8 stamp) none else s
  else s)

/-- Blinking LED sources toggle on their timers (Table 21.7). -/
def execLedBlinkTimer (source : Nat) (s : State) : Out :=
  .next (if source = 3 || source = 4 || source = 13 then
    s.setGpio { s.gpio with ledPhase := s.gpio.ledPhase ^^^ ((1 : W32) <<< source) }
  else s)

/-! ## Board messages (R822-R825) -/

/-- The greatest PARAM of a function (Tables 21.6, 21.7). -/
def paramMax : Nat → Nat
  | 4 => 50
  | 7 => 13
  | 9 => 3
  | _ => 0

/-- First bad field of an entry of a pin map, behind pins already named (Tables 21.6, 21.7, 21.11). -/
def pinEntryField (named : List Nat) (e : Bytes) : Option Nat :=
  firstBad [(32 ≤ u8 e 0 || u8 e 0 ∈ named, 0), (0x0A < u8 e 1, 1), (paramMax (u8 e 1) < u8 e 2, 2),
    (16 ≤ u8 e 3 || u8 e 3 % 4 = 3, 3)]

def pinEntry (e : Bytes) : Nat × GpioFn :=
  (u8 e 0, { func := u8 e 1, param := u8 e 2, pull := u8 e 3 % 4, invert := bit (u8 e 3) 2, drive := bit (u8 e 3) 3 })

/-- The entries of a map of `n` entries at an offset. -/
def pinEntries (p : Bytes) (o n : Nat) : List Bytes := (List.range n).map fun i => slice p (o + 4 * i) 4

/-- The first bad field of the entries: out of range, or a pin named twice (Table 21.11). -/
def badEntry (p : Bytes) (o n : Nat) : Option Nat :=
  let es := pinEntries p o n
  (List.range n).findSome? fun i =>
    (pinEntryField ((es.take i).map fun e => u8 e 0) (es.getD i [])).map (o + 4 * i + ·)

/-- The first byte of a reserved run that is not zero (Table 21.11; log 104). -/
def reservedSet (p : Bytes) (o n : Nat) : Option Nat := ((List.range n).find? fun i => u8 p (o + i) ≠ 0).map (o + ·)

/-- Put a list of entries into the map, in one step (R809). -/
def State.mapPins (s : State) (es : List Bytes) (latch : W32) : State :=
  let g := { s.gpio with
    map := es.foldl (fun m e => put m (pinEntry e).1 (pinEntry e).2) s.gpio.map
    latch := latch, forced := 0 }
  s.setGpio g

def brdGpioSet : Msg where
  op := 0x0D01
  mark := .dm
  cls := .o
  len := fun l p => l == 12 + 4 * u8 p 0
  field := fun r _ =>
    if 32 < u8 r.pay 0 then some 0 else reservedSet r.pay 1 3 <|> badEntry r.pay 12 (u8 r.pay 0)
  run := fun r s =>
    let m : W32 := BitVec.ofNat 32 (u32 r.pay 4)
    let v : W32 := BitVec.ofNat 32 (u32 r.pay 8)
    let s := s.mapPins (pinEntries r.pay 12 (u8 r.pay 0)) ((s.gpio.latch &&& ~~~m) ||| (v &&& m))
    Res.okay s (leBytes 4 s.gpioConflict)

def execBrdGpioSet (via : Via) (s : State) : Out := serve brdGpioSet via s

def brdGpioQuery : Msg where
  op := 0x0D02
  mark := .dm
  cls := .q
  len := lenIs 0
  run := fun _ s => Res.okay s
    (leBytes 4 s.padLevel ++ leBytes 4 s.gpio.latch.toNat ++ leBytes 4 s.gpioConflict ++
     leBytes 4 s.gpio.straps.toNat ++ leBytes 4 s.gpio.edge.toNat ++ zeros 4 ++
     leBytes 8 s.gpio.trigTime.toNat ++ leBytes 4 s.gpio.trigCount.toNat ++ zeros 4 ++
     (List.range 32).flatMap fun n => leBytes 4 (s.fn n).word)

def execBrdGpioQuery (via : Via) (s : State) : Out := serve brdGpioQuery via s

def PwrState.code : PwrState → Nat
  | .active => 0 | .paced => 1 | .dormant => 2

/-- Power state as PWR_QUERY codes it; STANDBY follows the device state (R750). -/
def State.pwrCode (s : State) : Nat := if s.dev.st = .standby then 3 else s.pwr.st.code

/-- Highest package temperature, 0 where none has been read. -/
def State.lpdTempMax (s : State) : Int :=
  match s.ext.packages with
  | [] => 0
  | p :: ps => ps.foldl (fun m q => max m q.2.temp) p.2.temp

def State.hbmTemp (s : State) (i : Nat) : Int := (lookD s.ext.hstacks i {}).temp

def brdSensorRead : Msg where
  op := 0x0D03
  mark := .dm
  cls := .q
  len := lenIs 0
  run := fun _ s => Res.okay s
    (leBytes 1 s.dev.st.code ++ leBytes 1 s.pwrCode ++ leInt 2 s.pace.tj ++
     ((List.range 4).flatMap fun i => leInt 1 (s.hbmTemp i)) ++ leInt 1 s.lpdTempMax ++ zeros 1 ++
     leBytes 2 s.pace.meas ++ leBytes 4 s.pwr.powerMw ++ leBytes 2 s.pace.device ++
     leBytes 2 (b2n s.pwr.throttle + 2 * b2n (s.dev.st == .faultHold) + 4 * b2n s.time.refLost) ++ zeros 4)

def execBrdSensorRead (via : Via) (s : State) : Out := serve brdSensorRead via s

/-- Fields of a two-wire setting (R825, Table 21.11). -/
def smbField (p : Bytes) : Option Nat := firstBad [(2 < u8 p 0, 0), (7 < u8 p 1, 1)] <|> reservedSet p 2 6

def State.setSmb (s : State) (p : Bytes) : State :=
  let on := bit (u8 p 1) 2
  s.noteEdges { s with smb := { s.smb with
      speed := u8 p 0, pecAll := bit (u8 p 1) 0, timeoutDis := bit (u8 p 1) 1, alertEn := on,
      alert := on && (s.smb.alert || !s.smb.items.isEmpty) } }

def brdSmbSet : Msg where
  op := 0x0D04
  mark := .dm
  cls := .o
  len := lenIs 8
  field := fun r _ => smbField r.pay
  run := fun r s => Res.okay (s.setSmb r.pay)

def execBrdSmbSet (via : Via) (s : State) : Out := serve brdSmbSet via s

/-! ## Two-wire target (R794-R805, R811-R814) -/

/-- Hardware commands are served from SELFTEST onward (R795). -/
def State.smbLive (s : State) : Bool := s.dev.st != .reset && !s.rst.off

def execSmbDevId (s : State) : Out :=
  .next (s.emit (if s.smbLive then .smbRead (leBytes 4 s.devId.toNat) else .smbNack))

def execSmbDevCaps (s : State) : Out :=
  .next (s.emit (if s.smbLive then .smbRead (leBytes 8 s.devCaps.toNat) else .smbNack))

/-- SMB_XPORT and byte 1 of STATUS: ITEM_READY, REQ_SPACE, ASSEMBLING, ALERT. -/
def State.smbFlags (s : State) : Nat :=
  b2n (!s.smb.items.isEmpty) + 2 * b2n (s.smb.requests.length < 8) + 4 * b2n s.smb.assembling.isSome +
    8 * b2n s.smb.alert

def execSmbStatus (s : State) : Out :=
  .next (s.emit (if s.smbLive then
    .smbRead [BitVec.ofNat 8 (s.dev.st.code + 16 * b2n s.fwRun), BitVec.ofNat 8 s.smbFlags, s.smb.addr.setWidth 8, 0]
  else .smbNack))

/-- A write whose PEC fails is not acknowledged, discarded and counted (R796). -/
def State.pecFails (s : State) (need : Bool) : Pec → Bool
  | .good => false
  | .bad => true
  | .absent => need || s.smb.pecAll

def State.nackPec (s : State) : State :=
  ({ s with smb := { s.smb with pecErrors := satAdd 65535 s.smb.pecErrors 1 } }).emit .smbNack

/-- A mailbox fragment (R802, R811). -/
def execSmbMbxWrite (flags : Nat) (data : Bytes) (pec : Pec) (s : State) : Out :=
  .next (
    if !s.fwRun || 8 ≤ s.smb.requests.length then s.emit .smbNack
    else if s.pecFails false pec then s.nackPec
    else
      let start : Option Bytes := if bit flags 0 then some [] else s.smb.assembling
      match start with
      | none => { s with smb := { s.smb with discarded := s.smb.discarded + 1 } }
      | some a =>
        let m := a ++ data
        if 512 < m.length then
          { s with smb := { s.smb with assembling := none, discarded := s.smb.discarded + 1 } }
        else if bit flags 1 then
          { s with smb := { s.smb with assembling := none, requests := s.smb.requests ++ [m] } }.arrived .twoWire
        else { s with smb := { s.smb with assembling := some m } })

/-- The fragment now served: its flags and bytes (R803). -/
def Smb.fragment (m : Smb) : Nat × Bytes :=
  match m.items with
  | [] => (8, [])
  | i :: _ =>
    let d := slice i.bytes m.pos 253
    (b2n (m.pos = 0) + 2 * b2n (i.bytes.length ≤ m.pos + 253) + 4 * b2n i.isNtf, d)

def execSmbMbxRead (s : State) : Out :=
  .next (s.emit (if s.fwRun then
    .smbRead (BitVec.ofNat 8 s.smb.fragment.1 :: s.smb.seq :: s.smb.fragment.2)
  else .smbNack))

def execSmbMbxAdvance (seq : Nat) (pec : Pec) (s : State) : Out :=
  .next (
    if !s.smbLive then s.emit .smbNack
    else if s.pecFails false pec then s.nackPec
    else match s.smb.items with
    | [] => s
    | i :: rest =>
      if s.smb.seq.toNat ≠ seq then s
      else if s.smb.pos + 253 < i.bytes.length then
        { s with smb := { s.smb with pos := s.smb.pos + 253, seq := s.smb.seq + 1 } }
      else
        (s.noteEdges { s with smb := { s.smb with
            items := rest, pos := 0, seq := s.smb.seq + 1, alert := s.smb.alert && !rest.isEmpty } }).flushSmb)

/-- The Alert Response Address (R804). -/
def execSmbAlertResponse (s : State) : Out :=
  .next (if s.smb.alert && !(s.pinsOf 10).isEmpty then
    (s.noteEdges { s with smb := { s.smb with alert := false } }).emit (.smbRead [s.smb.addr.setWidth 8 <<< 1])
  else s.emit .smbNack)

/-- R814. -/
def execSmbBusTimeout (s : State) : Out :=
  .next (if s.smb.timeoutDis || !s.smbLive then s
    else { s with smb := { s.smb with timeouts := satAdd 65535 s.smb.timeouts 1 } })

/-- Transmit an MCTP response as controller (R805). -/
def State.sendMctp (s : State) (dest : Nat) (r : SpdmRsp) : State :=
  ({ s with smb := { s.smb with mctpOut := [(dest, r)], mctpLosses := 0 } }).emit (.mctp dest r)

/-- An MCTP packet with an SPDM request: before Oananos runs the ROM answers Busy (R735, R805). -/
def execSmbMctp (source : Nat) (req : SpdmReq) (pec : Pec) (s : State) : Out :=
  .next (
    if !s.smbLive then s.emit .smbNack
    else if s.pecFails true pec then s.nackPec
    else if !s.fwRun then s.sendMctp source .errorBusy
    else match req with
    | .other _ => s.sendMctp source .errorUnsupported
    | r => { s with smb := { s.smb with mctpIn := s.smb.mctpIn ++ [(source, r)] } })

/-- After eight losses the packet is dropped and counted; until then it is sent again (R805). -/
def execMctpArbitrationLost (s : State) : Out :=
  .next (match s.smb.mctpOut with
    | [] => s
    | (d, r) :: _ =>
      if 8 ≤ s.smb.mctpLosses + 1 then
        { s with smb := { s.smb with mctpOut := [], mctpLosses := 0, mctpDropped := s.smb.mctpDropped + 1 } }
      else ({ s with smb := { s.smb with mctpLosses := s.smb.mctpLosses + 1 } }).emit (.mctp d r))

/-! ## Debug access port (R764, R806) -/

def Lifecycle.code (l : Lifecycle) : Nat :=
  if l.returned then 3 else if l.deployed then 2 else if l.provisioned then 1 else 0

/-- IDCODE by variant; other variants' codes are outside the manual (a free value). -/
def State.idcode (s : State) : Nat :=
  let part := match s.fuse.variant.toNat with
    | 1 => 0x8400 | 2 => 0x8300 | 3 => 0x8210 | 4 => 0x8401
    | v => Config.freeNat 1 v % 65536
  (s.fuse.step.toNat % 16) * 2 ^ 28 + part * 2 ^ 12 + 0x2D3 * 2 + 1

def State.setTap (s : State) (i : TapInstr) : State :=
  if s.dev.st = .reset then s else s.noteEdges { s with tap := { s.tap with instr := i } }

/-- EXTEST, CLAMP and HIGHZ are open in BLANK, and at level 2 or above elsewhere. -/
def State.tapOpen (s : State) : Bool := s.sec.life.code = 0 || 2 ≤ s.pwr.dbgLevel

def execTapBypass (s : State) : Out := .next (s.setTap .bypass)

def execTapIdcode (s : State) : Out :=
  .next (if s.dev.st = .reset then s else (s.setTap .idcode).emit (.tap s.idcode))

/-- Sample the pins into the chain, or preload it. The chain's order is the model's: 32 GPIO pads,
then PWROK, RESET_N and PERST_N. -/
def execTapSamplePreload (chain : Option Bytes) (s : State) : Out :=
  .next (if s.dev.st = .reset then s else
    match chain with
    | some c => { s.setTap .sample with tap := { s.tap with instr := .sample, chain := c } }
    | none =>
      let v := s.padLevel + 2 ^ 32 * (b2n s.rst.pwrok + 2 * b2n s.rst.resetN + 4 * b2n s.rst.perstN)
      let s := s.setTap .sample
      ({ s with tap := { s.tap with chain := leBytes 5 v } }).emit (.tap v))

def execTapExtest (chain : Bytes) (s : State) : Out :=
  .next (if s.dev.st = .reset then s
    else if s.tapOpen then s.noteEdges { s with tap := { s.tap with instr := .extest, chain := chain } }
    else s.setTap .bypass)

def execTapClamp (s : State) : Out := .next (s.setTap (if s.tapOpen then .clamp else .bypass))

def execTapHighz (s : State) : Out := .next (s.setTap (if s.tapOpen then .highz else .bypass))

/-- Every halt and resume is a fault record (R764). -/
def State.haltRecord (s : State) (pair : Nat) : State :=
  (s.stage { kind := 0, source := 0x0C, event := 9, cls := 0x0B, unit := 2 * pair, outcome := 1 }).1

def execDapCoreHalt (pair : Nat) (s : State) : Out :=
  .next (if 2 ≤ s.pwr.dbgLevel && pair < 2 && pair ∉ s.tap.halted && s.dev.st != .reset then
    ({ s with tap := { s.tap with halted := s.tap.halted ++ [pair] } }).haltRecord pair
  else s)

def State.resumePair (s : State) (pair : Nat) : State :=
  if pair ∈ s.tap.halted then
    ({ s with tap := { s.tap with halted := s.tap.halted.erase pair }
              dev := { s.dev with heartbeatAt := s.now } }).haltRecord pair
  else s

def execDapCoreResume (pair : Nat) (s : State) : Out :=
  .next (if 2 ≤ s.pwr.dbgLevel && s.dev.st != .reset then s.resumePair pair else s)

/-- Memory access of the debug port at local addresses, coherent through the Basin; not in STANDBY,
and never to an unpopulated range (R763, R764, R828). -/
def execDapMemoryAccess (addr len : Nat) (data : Option Bytes) (s : State) : Out :=
  .next (if 2 ≤ s.pwr.dbgLevel && s.dev.st != .reset && s.dev.st != .standby then
    match data with
    | some d => if rangeAll s.populated addr d.length then s.writeThrough addr d else s
    | none => if rangeAll s.populated addr len && !s.poisoned addr len
        then s.emit (.dapRead (s.bytes addr len)) else s
  else s)

end Sys2Proof.Machine
end

