-- ==== Sys2Proof/Machine/Pace.lean ====
section
/-! DEFINITION. Pace, the governor, device time and its discipline (03), and the VCORE cap of
R751-R753. Sample-counted rules act at the sample after the Nth (R842): each sample marks a rule due,
and the rule's own command acts on it. -/
namespace Sys2Proof.Machine
open Sys2Proof

def State.glenValley (s : State) (g : Nat) : Option Nat :=
  (List.range 8).find? fun v => ((s.profile v).map fun p => p.glens.getLsbD g).getD false

/-- Glens of a valley that are present and not retired. -/
def State.liveGlens (s : State) (v : Nat) : List Nat :=
  match s.profile v with
  | some p => (List.range 32).filter fun g => p.glens.getLsbD g && s.hasGlen g && !s.isRetired 1 g
  | none => []

def State.govValley (s : State) (v : Nat) : GovValley := lookD s.pace.gov.valleys v {}
def State.paceValley (s : State) (v : Nat) : PaceValley := lookD s.pace.valley v {}
def State.setPaceValley (s : State) (v : Nat) (x : PaceValley) : State :=
  { s with pace := { s.pace with valley := put s.pace.valley v x } }

/-- The governor runs: Oananos serves and the device is not in STANDBY or FAULT_HOLD (R126, R760). -/
def State.governed (s : State) : Bool := s.fwRun && s.dev.st != .standby && s.dev.st != .faultHold

/-! ## VCORE cap (R751) -/

def State.vcoreCap (s : State) : Nat :=
  if s.dev.st = .standby || s.dev.st = .faultHold then 600 else
  let c := match s.pwr.st with
    | .paced => min s.pace.gov.vmax s.pwr.limits.pacedMv
    | _ => s.pace.gov.vmax
  if s.pwr.throttle then min c s.pwr.limits.throttleMv else c

/-- VCORE cannot rise: a THROTTLE_IN assertion and the capped state count whatever the target (R118, R751-R753, R773). -/
def State.cannotRise (s : State) : Bool :=
  s.vcoreCap ≤ s.pace.target || s.pwr.throttle || s.pwr.st = .paced || s.pwr.powerLimit || s.pwr.sensorFail || s.pwr.tjWarn

/-! ## Samples (R100, R101, R123) -/

/-- A replica's pace index from its fused D_nom and the longest delay it measured (R100). DEDUCED: halves round up, and a
delay of 0 reads 1,023 (log 24). -/
def paceIndex (nom meas : Nat) : Nat := if meas = 0 then 1023 else min 1023 ((1024 * nom + meas) / (2 * meas))

/-- Reference set of a replica: values of the valid replicas it is compared with (R123). DESIGN CHOICE: a retired glen's
replica is no "valid glen replica" of the widened set, nor a substitute (log 93). -/
def State.refSet (s : State) (raw : TMap Nat) (i : Nat) : List Nat :=
  let ok := fun g => s.hasGlen g && !s.isRetired 1 g && g ∉ s.pace.faulty
  let all := (List.range 32).filter ok
  let own := if i < 32 then
      match s.glenValley i with
      | some v => all.filter fun g => s.glenValley g = some v
      | none => all
    else all
  let pick := if own.length < 3 then all else own
  if pick.length < 3 then [] else pick.map fun g => lookD raw g 0

/-- The middle value, or the lower of the two middle ones. -/
def median (l : List Nat) : Nat := (l.mergeSort (· ≤ ·)).getD ((l.length - 1) / 2) 0

/-- A replica's value deviates by more than 128 from its reference set's median. -/
def deviates (set : List Nat) (x : Nat) : Bool :=
  !set.isEmpty && (median set + 128 < x || x + 128 < median set)

/-- The pace substituted for a faulty replica (R123). -/
def State.substitute (s : State) (raw : TMap Nat) : Nat :=
  let g := (List.range 32).filter fun g => s.hasGlen g && !s.isRetired 1 g && g ∉ s.pace.faulty
  let c := [32, 33].filter fun i => i ∉ s.pace.faulty
  match g.map (lookD raw · 0), c.map (lookD raw · 0) with
  | x :: xs, _ => xs.foldl min x
  | [], x :: xs => xs.foldl min x
  | [], [] => 256

/-- Valley pace: the lowest of its live glens and of the Basin. -/
def State.valleyPace (s : State) (glen : TMap Nat) (basin v : Nat) : Nat :=
  (s.liveGlens v).foldl (fun m g => min m (lookD glen g 0)) basin

/-- R124: NTF_EVENT PACE_LOW and the rest of SOURCE 0x0C (R782). -/
def State.pwrEvent (s : State) (ev : Nat) (d : Bytes) : State := s.event 0x0C ev 0xFFFF d none

/-- Settings that take effect at this sample (R119, R758, R768, R778); only DORMANT gates glens and powers channels down. -/
def State.applyPending (s : State) : State :=
  let p := { s.pace with gov := s.pace.govPending.getD s.pace.gov, govPending := none }
  let st := s.pwr.pendingSt.getD s.pwr.st
  let w := { s.pwr with
    st, pendingSt := none
    limits := s.pwr.pendingLimits.getD s.pwr.limits, pendingLimits := none
    gatedGlens := if st = .dormant || !s.governed then s.pwr.gatedGlens else 0 }
  { s with pace := p, pwr := w, ext := { s.ext with poweredDown := if st = .dormant then s.ext.poweredDown else [] } }

/-- Device time steps to `t`. What it times by intervals goes on from the new count: the next sample, heartbeat and power
window and the idle time of a session come when they would have (log 93). -/
def State.stepTo (s : State) (t : Nat) : State :=
  let move := fun (x : Nat) => ((x : Int) + t - s.time.now).toNat
  { s with
    time := { s.time with now := t, slew := 0, slewRoom := 0, stepped := true, steps := s.time.steps + 1 }
    pace := { s.pace with at_ := move s.pace.at_ }
    pwr := { s.pwr with windowAt := move s.pwr.windowAt }
    dev := { s.dev with
      heartbeatAt := move s.dev.heartbeatAt
      staging := s.dev.staging.map fun (g : Staging) => { g with idleFrom := move g.idleFrom } } }

/-- TIME_PTP_SET takes effect (R111, R119, R120): a HOST offset is a step before the first entry
into READY and a slew after it, LOCKED or not. DESIGN CHOICE: HOST shows FREE, and PPS ACQUIRING and LOCKED as PTP does
(log 93). -/
def State.applyTime (s : State) : State :=
  match s.time.pending with
  | none => s
  | some c =>
    let t := { s.time with
      cfg := c, pending := none, goodRun := 0, lastSync := none, delayReq := false, master := none
      ppsNext := if c.mode = 3 then some c.ppsSeconds else none
      sync := if c.mode = 1 || c.mode = 3 then 1 else 0
      slew := if c.mode = 0 then 0 else s.time.slew }
    if c.mode = 2 then
      if s.time.settled then { s with time := { t with slew := c.hostOffset } }
      else { s with time := t }.stepTo ((t.now : Int) + c.hostOffset).toNat
    else { s with time := t }

/-- Paces of one sample, from the delays the replicas measured: values, substitution, minima and deviation runs. -/
def State.readPaces (s : State) (glens : List Nat) (cc basin : Nat) : State :=
  let raw : TMap Nat := (List.range 34).map fun i =>
    (i, paceIndex (lookD s.fuse.nominal i 512) (if i < 32 then glens.getD i 0 else if i = 32 then cc else basin))
  let sub := s.substitute raw
  let val := fun i => if i ∈ s.pace.faulty then sub else lookD raw i 0
  let glen : TMap Nat := ((List.range 32).filter s.hasGlen).map fun g => (g, val g)
  let live := (List.range 32).filter fun g => s.hasGlen g && !s.isRetired 1 g
  let dev := live.foldl (fun m g => min m (val g)) (min (val 32) (val 33))
  let run : TMap Nat := (List.range 34).map fun i =>
    (i, if (i ≥ 32 || s.hasGlen i) && deviates (s.refSet raw i) (lookD raw i 0)
        then lookD s.pace.devRun i 0 + 1 else 0)
  { s with pace := { s.pace with
      raw, glen, cc := val 32, basin := val 33, device := dev, devRun := run
      minRead := min s.pace.minRead dev
      recent := (dev :: s.pace.recent).take 1000
      lowRun := if dev < 256 then s.pace.lowRun + 1 else 0
      lowDue := 100 ≤ s.pace.lowRun
      highRun := if 272 ≤ dev then s.pace.highRun + 1 else 0
      clearDue := 1000 ≤ s.pace.highRun } }

/-- Valley entries of one sample, in every state (R129), and the holdbacks of R108 while the governor runs. -/
def State.readValleys (s : State) : State :=
  let stuck := s.cannotRise
  let f := fun v =>
    let o := s.paceValley v
    let g := s.govValley v
    let p := s.valleyPace s.pace.glen s.pace.basin v
    let below := (s.profile v).isSome && p < g.target
    let short := below && stuck && g.cls ≠ 0
    let run := if below && (o.holdsLower || short) then o.shortRun + 1 else 0
    let o := { o with index := p, below }
    (v, if !s.governed then o else { o with
      shortRun := run, ownDue := 100 ≤ o.shortRun && below
      okRun := if below then 0 else o.okRun + 1
      releaseDue := 1000 ≤ o.okRun && (o.holdsLower || o.own)
      holdsLower := o.holdsLower || short })
  { s with pace := { s.pace with valley := (List.range 8).map f, govLimit := stuck } }

/-- The governor's target at a sample: caps first, then R752 and R753, then the raise of R107. A lowering is due at the
sample after the 1,000th easy one, whatever that sample shows, and this sample is the first of the next thousand where it
is easy (R107, R842). A target below a newly set VCORE_MIN_MV stays until it rises (DESIGN CHOICE, log 93). -/
def State.govern (s : State) : State :=
  let p := s.pace
  let cap := s.vcoreCap
  let capped := min p.target cap
  let down := s.pwr.powerOver || s.pwr.tjWarn
  let lowered := if down && !s.pwr.holdTarget then max (min capped p.gov.vmin) (capped - p.gov.step) else capped
  let want := (List.range 8).any fun v => (s.govValley v).cls ≠ 0 && (s.paceValley v).below
  let settled := p.meas ≤ p.target + 2 && p.target ≤ p.meas + 2
  let t := if want && settled && !s.cannotRise && !s.pwr.holdTarget then min cap (lowered + p.gov.step) else lowered
  let easy := (List.range 8).all fun v =>
    (s.govValley v).cls = 0 || (s.profile v).isNone || (s.govValley v).target + p.gov.hyst ≤ (s.paceValley v).index
  { s with pace := { p with
      target := t
      easyRun := if !easy then 0 else if t ≠ p.target || 1000 ≤ p.easyRun then 1 else p.easyRun + 1
      lowerDue := 1000 ≤ p.easyRun && t = p.target } }

/-- TJ_WARN with its 2 °C of hysteresis, announced on each change (R753, R782). -/
def State.watchHeat (s : State) : State :=
  let warn : Int := s.pwr.limits.tjWarn
  let on := if s.pwr.tjWarn then decide (8 * (warn - 2) < s.pace.tj) else decide (8 * warn < s.pace.tj)
  if on = s.pwr.tjWarn then s
  else ({ s with pwr := { s.pwr with tjWarn := on } }).pwrEvent 3 (leBytes 1 (b2n on))

/-- One pace sample (R100): 1 µs of device time after the last. The operands are the delays the replicas measured, and the
measured VCORE and junction. -/
def execPaceSample (glens : List Nat) (cc basin meas : Nat) (tj : Int) (s : State) : Out :=
  .next (if s.dev.st = .reset then s else
    let s := (s.advanceTo (s.pace.at_ + 1000)).applyPending.applyTime
    let s := { s with pace := { s.pace with at_ := s.now, seq := s.pace.seq + 1, meas, tj } }
    let s := s.readPaces glens cc basin
    if s.governed then (s.watchHeat).readValleys.govern else s.readValleys)

def execVcoreTargetLower (s : State) : Out :=
  .next (if s.pace.lowerDue && s.governed && !s.pwr.holdTarget then
    let p := s.pace
    { s with pace := { p with
        target := max (min p.target p.gov.vmin) (p.target - p.gov.step), lowerDue := false } }
  else s)

/-- The valley is itself held back, until the release (R108). -/
def execOwnAdmissionHoldback (valley : Nat) (s : State) : Out :=
  .next (
    let o := s.paceValley valley
    if o.ownDue && !o.own then s.setPaceValley valley { o with own := true } else s)

/-- Release the holdbacks that a valley's shortfall caused (R108). -/
def execHoldbackRelease (valley : Nat) (s : State) : Out :=
  .next (
    let o := s.paceValley valley
    if o.releaseDue then
      s.setPaceValley valley { o with holdsLower := false, own := false, shortRun := 0, releaseDue := false }
    else s)

/-- HOLDBACK of a valley: PACE_LOW, a higher class below target, or its own limit. -/
def State.heldBack (s : State) (v : Nat) : Bool :=
  s.pace.low || (s.paceValley v).own ||
    (List.range 8).any fun u => (s.paceValley u).holdsLower && (s.govValley v).cls < (s.govValley u).cls

/-- Requests in flight that a valley may have now: held back itself, ⌊INFLIGHT_MAX × p ÷ target⌋ by its latest pace and
the settings in force, at least INFLIGHT_MIN (R108, R109, R124). -/
def State.inflightLimit (s : State) (v : Nat) : Nat :=
  let g := s.govValley v
  if s.pace.low || (List.range 8).any fun u => (s.paceValley u).holdsLower && g.cls < (s.govValley u).cls
  then g.inflMin
  else if (s.paceValley v).own then max g.inflMin (g.inflMax * (s.paceValley v).index / g.target)
  else g.inflMax

/-- A replica reporting 0 or 1,023, or deviating for 16 samples, is judged faulty (R123). Replicas
are numbered 0-31 for glens, 32 control cores, 33 Basin. -/
def execReplicaFault (replica : Nat) (s : State) : Out :=
  .next (
    let x := lookD s.pace.raw replica 512
    if (x = 0 || x = 1023 || 16 ≤ lookD s.pace.devRun replica 0) && replica < 34 &&
        replica ∉ s.pace.faulty && (32 ≤ replica || s.hasGlen replica) && s.dev.st != .reset then
      let s := { s with pace := { s.pace with faulty := s.pace.faulty ++ [replica] } }
      if replica < 32 then
        s.error { source := 0x0C, event := 0x0D, cls := 1, unit := replica,
                  valley := (s.glenValley replica).getD 0xFF } [{ cls := 1, idx := replica }]
      else s.error { source := 0x0C, event := 0x0D, cls := 0x0F, subunit := replica - 32 } []
    else s)

def execPaceLowSet (s : State) : Out :=
  .next (if s.pace.lowDue && !s.pace.low && s.governed then
    ({ s with pace := { s.pace with low := true } }).pwrEvent 1 []
  else s)

def execPaceLowClear (s : State) : Out :=
  .next (if s.pace.clearDue && s.pace.low then { s with pace := { s.pace with low := false } } else s)

/-- PACE_FLAGS [3:0]. -/
def State.paceFlags (s : State) : Nat :=
  b2n s.pace.low + 2 * b2n (!s.pace.faulty.isEmpty) + 4 * b2n s.time.refLost + 8 * b2n s.pace.govLimit

def paceQuery : Msg where
  op := 0x0C10
  mark := .both
  cls := .q
  len := lenIs 0
  run := fun r s =>
    let mine := fun v => r.via.mbx = 8 || r.via.mbx = v
    Res.okay s
      (leBytes 2 s.pace.device ++ leBytes 2 s.pace.cc ++ leBytes 2 s.pace.basin ++
       leBytes 2 (s.pace.recent.foldl min 1023) ++ leBytes 2 s.pace.meas ++ leBytes 2 s.pace.target ++
       leInt 2 s.pace.tj ++ leBytes 2 s.paceFlags ++
       ((List.range 8).flatMap fun v =>
         if mine v then leBytes 2 (s.paceValley v).index ++ leBytes 1 (s.govValley v).cls ++
           leBytes 1 (b2n (s.heldBack v) + 2 * b2n (s.paceValley v).below) else zeros 4) ++
       ((List.range 32).flatMap fun g =>
         if r.via.mbx = 8 || s.glenValley g = some r.via.mbx then leBytes 2 (lookD s.pace.glen g 0) else zeros 2) ++
       leBytes 4 s.pace.seq.toNat)

def execPaceQuery (via : Via) (s : State) : Out := serve paceQuery via s

/-- First field of a GOVERNOR payload outside Table 3.4. -/
def govField (p : Bytes) : Option Nat :=
  firstBad ([(u16 p 0 < 600 || 900 < u16 p 0, 0), (u16 p 2 < 600 || 900 < u16 p 2 || u16 p 2 < u16 p 0, 2),
    (u8 p 4 < 1 || 25 < u8 p 4, 4), (64 < u16 p 6, 6)] ++
    ((List.range 8).flatMap fun v =>
      let o := 8 + 8 * v
      ([(2 < u8 p o, o), (u16 p (o + 2) < 256 || 767 < u16 p (o + 2), o + 2),
       (u16 p (o + 4) < u16 p (o + 6), o + 4), (u16 p (o + 6) = 0, o + 6)] : List (Bool × Nat))))

def govOf (p : Bytes) : Gov :=
  { vmin := u16 p 0, vmax := u16 p 2, step := u8 p 4, hyst := u16 p 6
    valleys := (List.range 8).map fun v =>
      (v, { cls := u8 p (8 + 8 * v), target := u16 p (10 + 8 * v),
            inflMax := u16 p (12 + 8 * v), inflMin := u16 p (14 + 8 * v) }) }

def governorSet : Msg where
  op := 0x0C11
  mark := .dm
  cls := .o
  len := lenIs 72
  field := fun r _ => govField r.pay
  run := fun r s => Res.okay { s with pace := { s.pace with govPending := some (govOf r.pay) } }

def execGovernorSet (via : Via) (s : State) : Out := serve governorSet via s

/-! ## Timebase (R110-R114, R120, R125) -/

def timeOf (p : Bytes) : TimeCfg :=
  { mode := u8 p 0, port := u8 p 1, domain := u8 p 2, transport := u8 p 3, stepUs := u32 p 4
    slewPpm := u16 p 8, hostOffset := signed 64 (u64 p 12), ppsSeconds := u32 p 20 }

/-- Each field is checked only in the modes that use it (R132). -/
def timeField (p : Bytes) : Option Nat :=
  let m := u8 p 0
  firstBad [(3 < m, 0), (m = 1 && 1 < u8 p 1, 1), (m = 1 && 127 < u8 p 2, 2), (m = 1 && 2 < u8 p 3, 3),
    (m = 1 && (u32 p 4 = 0 || 1000000 < u32 p 4), 4), (m ≠ 0 && (u16 p 8 = 0 || 1000 < u16 p 8), 8)]

def timePtpSet : Msg where
  op := 0x0710
  mark := .dm
  cls := .o
  len := lenIs 24
  absent := fun r s => u8 r.pay 0 = 1 && !s.hasPtp
  field := fun r _ => timeField r.pay
  run := fun r s =>
    if u8 r.pay 0 = 3 && (s.pinsOf 3).isEmpty then Res.fail s .conflict
    else Res.okay { s with time := { s.time with pending := some (timeOf r.pay) } }

def execTimePtpSet (via : Via) (s : State) : Out := serve timePtpSet via s

/-- Sync state as read: FREE while the reference is lost (R125). -/
def State.syncState (s : State) : Nat := if s.time.refLost then 0 else s.time.sync

def timeQuery : Msg where
  op := 0x0711
  mark := .both
  cls := .q
  len := lenIs 0
  run := fun _ s => Res.okay s
    (leBytes 8 s.now ++ leBytes 1 s.time.cfg.mode ++ leBytes 1 s.syncState ++ zeros 2 ++
     leInt 8 s.time.offset ++ leInt 4 s.time.ratePpb ++ leBytes 4 s.time.meanPath ++
     leBytes 8 ((s.time.master.map (·.identity)).getD 0) ++ leBytes 4 s.time.steps)

def execTimeQuery (via : Via) (s : State) : Out := serve timeQuery via s

/-- A message of the domain, port and transport in use. -/
def State.ptpFor (s : State) (port domain transport : Nat) : Bool :=
  s.time.cfg.mode = 1 && s.hasPtp && s.time.cfg.port = port && s.time.cfg.domain = domain &&
  s.time.cfg.transport = transport && s.ethUp port && !s.time.refLost

/-- The default comparison of masters (R112): lower is better, field by field; of one grandmaster, the nearer sender. -/
def PtpMaster.rank (m : PtpMaster) : List Nat :=
  [m.priority1, m.clockClass, m.accuracy, m.variance, m.priority2, m.identity, m.stepsRemoved, m.sender]

def lexLt : List Nat → List Nat → Bool
  | [], _ => false
  | _, [] => false
  | x :: xs, y :: ys => x < y || (x == y && lexLt xs ys)

def execPtpAnnounceReceive (port domain transport priority1 clockClass accuracy variance priority2 : Nat)
    (identity : Nat × Nat) (stepsRemoved : Nat) (s : State) : Out :=
  .next (if s.ptpFor port domain transport then
    let m : PtpMaster := {
      priority1, clockClass, accuracy, variance, priority2, identity := identity.1, stepsRemoved, sender := identity.2 }
    let better := match s.time.master with
      | none => true
      | some o => o.sender = identity.2 || lexLt m.rank o.rank
    if better then { s with time := { s.time with master := some m } } else s
  else s)

/-- An offset measured by PTP or PPS: a step before READY where it exceeds the threshold, a slew
otherwise (R110, R113, R120), and the sync state's count. -/
def State.discipline (s : State) (offset : Int) (thresholdNs : Nat) : State :=
  let near := offset.natAbs ≤ 100
  let run := if near then s.time.goodRun + 1 else 0
  let need := if s.time.sync = 3 then 8 else 16
  let sync := if s.time.sync = 2 then 2 else if need ≤ run then 2 else s.time.sync
  let t := { s.time with offset, goodRun := run, sync, ratePpb := Config.servo s.time.ratePpb offset }
  if !s.time.settled && thresholdNs < offset.natAbs then { s with time := t }.stepTo ((t.now : Int) - offset).toNat
  else { s with time := { t with slew := -offset } }

/-- A Sync (one-step, or two-step with its follow-up) whose interval has a log value of -7 to 1: origin and receipt times.
It disciplines device time, and a delay request follows it (R112, R113). -/
def execPtpSyncReceive (port domain transport : Nat) (source : Nat × Int) (origin receipt : Nat) (s : State) : Out :=
  .next (if s.ptpFor port domain transport && (s.time.master.map (·.sender)) = some source.1 && -7 ≤ source.2 && source.2 ≤ 1 then
    let s := { s with time := { s.time with lastSync := some (origin, receipt), syncLog := source.2, delayReq := true } }
    (s.discipline ((receipt : Int) - origin - s.time.meanPath) (s.time.cfg.stepUs * 1000)).emit
      (.ptpDelayReq port domain transport)
  else s)

/-- The response to the delay request: when the request left, and when the transmitter received it (R112). -/
def execPtpDelayRespReceive (port domain source sent received : Nat) (s : State) : Out :=
  .next (if s.ptpFor port domain s.time.cfg.transport && (s.time.master.map (·.sender)) = some source && s.time.delayReq then
    match s.time.lastSync with
    | some (t1, t2) => { s with time := { s.time with
        meanPath := ((((t2 : Int) - t1) + ((received : Int) - sent)) / 2).toNat, delayReq := false } }
    | none => s
  else s)

/-- Eight Sync intervals without a Sync: HOLDOVER with the last frequency correction (R113). -/
def execPtpSyncTimeout (s : State) : Out :=
  .next (if s.time.cfg.mode = 1 && (s.time.sync = 2 || s.time.sync = 1) && s.time.lastSync.isSome && !s.time.refLost then
    { s with time := { s.time with sync := 3, goodRun := 0 } }
  else s)

/-- A PPS_IN edge on the one pin mapped to it, stamped in device time (R111, R790, R800). DESIGN CHOICE: before the first
entry into READY an edge aligns by a step at any offset, STEP_THRESHOLD_US being PTP's (log 93). -/
def execPpsInEdge (pin stamp : Nat) (s : State) : Out :=
  .next (if s.time.cfg.mode = 3 && s.pinsOf 3 = [pin] && !s.time.refLost then
    let sec := match s.time.ppsNext with
      | some k => k
      | none => (stamp + 500000000) / 1000000000
    let s := { s with time := { s.time with ppsNext := none } }
    s.discipline ((stamp : Int) - sec * 1000000000) 0
  else s)

/-- Device time crosses a whole second: every PPS_OUT pin rises for its width (R114, R800). Each such pad that nothing
else holds rises once, at the start or, inverted, at the end (R798). -/
def execPpsOutPulse (s : State) : Out :=
  .next (if s.dev.st = .reset then s else
    let s := s.advanceTo ((s.now / 1000000000 + 1) * 1000000000)
    let up : W32 := BitVec.ofNat 32 (maskOf (s.pulsing.filter fun n => !s.gpio.forced.getLsbD n))
    s.pulsing.foldl (fun s n =>
      let w := (s.fn n).param
      s.emit (.pps s.now (if w = 0 then 100 else 10 * w))) { s with gpio := { s.gpio with edge := s.gpio.edge ||| up } })

/-- R125. -/
def execReferenceLost (s : State) : Out :=
  .next (if s.time.refLost || s.dev.st = .reset then s else
    let s := { s with time := { s.time with refLost := true } }
    if s.fwRun then s.event 7 1 0xFFFF [] none else s)

/-- The previous mode, whichever it was, resumes in ACQUIRING (R125). -/
def execReferenceReturn (s : State) : Out :=
  .next (if s.time.refLost then { s with time := { s.time with refLost := false, goodRun := 0, sync := 1 } } else s)

/-! ## Register reads with effects (R121, R129) -/

end Sys2Proof.Machine
end

