-- ==== Sys2Proof/Machine/Profile.lean ====
section
/-! DEFINITION. Valley profiles as bytes (Table 13.6) and the checks of Table 13.1. -/
namespace Sys2Proof.Machine
open Sys2Proof

/-- Fields of a profile out of range, with the payload offset of the first (rows 1, 3 and 4 of Table
13.1). -/
def profileRange (p : Bytes) : Option Nat :=
  let any (o n : Nat) : Bool := (slice p o n).any (· != 0)
  if 7 < u8 p 0 then some 0
  else if 1 < u8 p 1 then some 1
  else if !(u8 p 2 = 0 || u8 p 2 = 21 || u8 p 2 = 32 || u8 p 2 = 84) then some 2
  else if 1 < u8 p 3 then some 3
  else if u32 p 12 % 64 ≠ 0 then some 12
  else if u32 p 16 % 64 ≠ 0 || 16384 < u32 p 16 || 131072 < u32 p 12 + u32 p 16 then some 16
  else if u8 p 20 = 0 || 128 < u8 p 20 then some 20
  else if 64 < u8 p 21 then some 21
  else if any 22 10 then some 22
  else none

/-- Row 2: a profile names at least one glen and one HBM region. -/
def profileEmpty (p : Bytes) : Option Nat :=
  if u32 p 4 = 0 then some 4 else if u16 p 8 = 0 then some 8 else none

/-- ST_BAD_FIELD of a profile message. -/
def profileField (p : Bytes) : Option Nat :=
  match profileRange p, profileEmpty p with
  | none, e => e
  | some o, none => some o
  | some o, some e => some (min o e)

/-- A profile with PERSONALITY as its field gives it. -/
def profileOf (p : Bytes) : Profile :=
  { separate := u8 p 1 = 0, personality := u8 p 2, hold := bit (u8 p 3) 0
    glens := BitVec.ofNat 32 (u32 p 4), hbmRegions := BitVec.ofNat 16 (u16 p 8)
    lpdRegions := BitVec.ofNat 8 (u8 p 10), cynPipes := BitVec.ofNat 8 (u8 p 11)
    syncFirst := u32 p 12, syncCount := u32 p 16, ctxMax := u8 p 20, hwtShare := u8 p 21 }

/-- Table 13.6 of a profile in force. -/
def profileBytes (v : Nat) (p : Profile) : Bytes :=
  leBytes 1 v ++ leBytes 1 (b2n !p.separate) ++ leBytes 1 p.personality ++ leBytes 1 (b2n p.hold) ++
  leBytes 4 p.glens.toNat ++ leBytes 2 p.hbmRegions.toNat ++ leBytes 1 p.lpdRegions.toNat ++
  leBytes 1 p.cynPipes.toNat ++ leBytes 4 p.syncFirst ++ leBytes 4 p.syncCount ++
  leBytes 1 p.ctxMax ++ leBytes 1 p.hwtShare ++ zeros 10

def Profile.glenList (p : Profile) : List Nat := (List.range 32).filter p.glens.getLsbD
def Profile.hbmList (p : Profile) : List Nat := (List.range 16).filter p.hbmRegions.getLsbD
def Profile.lpdList (p : Profile) : List Nat := (List.range 8).filter p.lpdRegions.getLsbD
def Profile.cynList (p : Profile) : List Nat := (List.range 8).filter p.cynPipes.getLsbD

/-- A glen, region or Canyon pipeline that the part lacks (R14). -/
def State.profileAbsent (s : State) (p : Profile) : Bool :=
  p.glenList.any (fun g => !s.hasGlen g) || p.hbmList.any (fun r => !s.hasHbmRegion r) ||
  p.lpdList.any (fun r => !s.hasLpdRegion r) || (!s.hasCyn && p.cynPipes ≠ 0)

/-- Two profiles ask for the same unit or for a region that must not be shared (Table 13.1). -/
def Profile.clashes (p q : Profile) : Bool :=
  (p.glens &&& q.glens) ≠ 0 || (p.cynPipes &&& q.cynPipes) ≠ 0 ||
  (p.syncFirst < q.syncFirst + q.syncCount && q.syncFirst < p.syncFirst + p.syncCount) ||
  ((p.separate || q.separate) && ((p.hbmRegions &&& q.hbmRegions) ≠ 0 || (p.lpdRegions &&& q.lpdRegions) ≠ 0))

end Sys2Proof.Machine
end

