-- ==== Sys2Proof/Machine/Front.lean ====
section
/-! DEFINITION. Requests and what they touch: handles and global addresses (12, R134-R138), the error
latch and cancellation (R227, R387), sync objects and their waiters (10), thread slots, completions
(11) and the release of a finished request. -/
namespace Sys2Proof.Machine
open Sys2Proof

/-! ## Plain updates -/

def State.setCore (s : State) (c : Core) : State := { s with core := c }
def State.updReq (s : State) (i : Nat) (f : Request → Request) : State :=
  match look s.core.reqs i with
  | some r => s.setCore { s.core with reqs := put s.core.reqs i (f r) }
  | none => s
def State.updThread (s : State) (i : Nat) (f : Thread → Thread) : State :=
  match look s.core.threads i with
  | some t => s.setCore { s.core with threads := put s.core.threads i (f t) }
  | none => s
def State.updCtx (s : State) (i : Nat) (f : Context → Context) : State :=
  match look s.core.ctxs i with
  | some c => s.setCore { s.core with ctxs := put s.core.ctxs i (f c) }
  | none => s
def State.updSq (s : State) (i : Nat) (f : Sq → Sq) : State :=
  match look s.core.sqs i with
  | some q => s.setCore { s.core with sqs := put s.core.sqs i (f q) }
  | none => s
def State.updCq (s : State) (i : Nat) (f : Cq → Cq) : State :=
  match look s.core.cqs i with
  | some q => s.setCore { s.core with cqs := put s.core.cqs i (f q) }
  | none => s
def State.updBag (s : State) (i : Nat) (f : Bag → Bag) : State :=
  match look s.core.bags i with
  | some b => s.setCore { s.core with bags := put s.core.bags i (f b) }
  | none => s
def State.updPlain (s : State) (i : Nat) (f : PlainOp → PlainOp) : State :=
  match look s.core.plain i with
  | some b => s.setCore { s.core with plain := put s.core.plain i (f b) }
  | none => s
def State.updSet (s : State) (i : Nat) (f : TSet → TSet) : State :=
  match look s.core.sets i with
  | some b => s.setCore { s.core with sets := put s.core.sets i (f b) }
  | none => s
def State.updTable (s : State) (i : Nat) (f : Table → Table) : State :=
  match look s.core.tables i with
  | some b => s.setCore { s.core with tables := put s.core.tables i (f b) }
  | none => s
def State.updEp (s : State) (i : Nat) (f : Endpoint → Endpoint) : State :=
  match look s.core.eps i with
  | some x => s.setCore { s.core with eps := put s.core.eps i (f x) }
  | none => s

def State.updStream (s : State) (i : Nat) (f : Stream → Stream) : State :=
  match look s.core.streams i with
  | some b => s.setCore { s.core with streams := put s.core.streams i (f b) }
  | none => s
def State.updValley (s : State) (v : Nat) (f : Valley → Valley) : State :=
  { s with valleys := upd s.valleys v {} f }

/-- A number of the model's own for a new request, thread, task, bag, operation. -/
def State.fresh (s : State) : Nat × State :=
  (s.core.nextId, s.setCore { s.core with nextId := s.core.nextId + 1 })

def ctxKey (v c : Nat) : Nat := v * 128 + c

/-! ## A context's creation fields (R513) -/

def Context.prio (c : Context) : Nat := u8 c.create 2
def Context.scrUnits (c : Context) : Nat := u8 c.create 4
def Context.raCount (c : Context) : Nat := u16 c.create 6
def Context.wBase (c : Context) : Nat := u8 c.create 8
def Context.wUnits (c : Context) : Nat := u8 c.create 9
def Context.quantum (c : Context) : Nat := u32 c.create 12
def Context.saveAddr (c : Context) : Nat := u64 c.create 16
def Context.saveBytes (c : Context) : Nat := u64 c.create 24

/-- A span lies in the context's glen scratch (R361). -/
def Context.inScratchRange (c : Context) (o n : Nat) : Bool :=
  c.scrUnits ≠ 0 && c.scrBase ≤ o && o + n ≤ c.scrBase + c.scrUnits * 65536

/-- A span of lane offsets lies in the context's weight range (R311). -/
def Context.inWeights (c : Context) (o n : Nat) : Bool := c.wBase * 256 ≤ o && o + n ≤ (c.wBase + c.wUnits) * 256

def State.ctxOf (s : State) (r : Request) : Option Context := look s.core.ctxs (ctxKey r.valley r.ctx)
def State.resident (s : State) (r : Request) : Bool := ((s.ctxOf r).map fun c => c.st == .resident).getD false

/-! ## Handles and addresses -/

/-- One handle table entry (Table 12.3). -/
structure Handle where
  base : Nat
  read : Bool
  write : Bool
  len : Nat
  ok : Bool
deriving DecidableEq, Repr

def handleOf (e : Bytes) : Handle :=
  let w := u64 e 0
  let len := u64 e 8
  { base := w % 2 ^ 56, read := bit w 57, write := bit w 58, len
    ok := bit w 56 && w / 2 ^ 59 = 0 && 1 ≤ len && len ≤ 2 ^ 48 && w % 2 ^ 48 + len ≤ 2 ^ 48 }

/-- An access that some entry of the table in force permits (R442). -/
def State.permits (s : State) (t : Stamp) (a n : Nat) (write : Bool) : Bool :=
  match t.handles with
  | none => false
  | some (addr, entries) => (List.range entries).any fun i =>
    let e := handleOf (s.bytes (addr + 16 * i) 16)
    e.ok && !s.poisoned (addr + 16 * i) 16 && (if write then e.write else e.read) && e.base ≤ a && a + n ≤ e.base + e.len

def nodeOf (a : Nat) : Nat := a / 2 ^ 48 % 256
def localOf (a : Nat) : Nat := a % 2 ^ 48
def State.isRemote (s : State) (a : Nat) : Bool := nodeOf a ≠ s.dev.nodeId

/-- Why a request may not make a global access: completion code and DETAIL (R442, R136, R40). -/
def State.barred (s : State) (r : Request) (a n : Nat) (write : Bool) : Option (Nat × Nat) :=
  if !s.permits r.stamp a n write then some (0x19, 0xFFFF)
  else if s.isRemote a then none
  else if !rangeAll (s.populatedFor r.valley r.stamp.bnd) (localOf a) n then some (0x11, 0)
  else if !write && s.poisoned (localOf a) n then some (0x17, 0)
  else none

/-- The fault record of a barred access by the unit SOURCE (R136, R181): one for an unpopulated address, one for
poison, which also asks for the test of the memory it lies in. -/
def State.recordAccess (s : State) (source : Nat) (r : Request) (a code : Nat) : State :=
  if code = 0x11 then
    s.error { source, event := 8, valley := r.valley, ctx := r.ctx, scope := 1, cmpl := 0x11, addr := localOf a } []
  else if code = 0x17 then
    let e : FaultEv := { source, event := 3, valley := r.valley, ctx := r.ctx, scope := 1, cmpl := 0x17, addr := localOf a }
    match memUnit (localOf a) with
    | some u => s.error { e with cls := u.cls, unit := u.idx } [u]
    | none => s.error e []
  else s

def State.recordBarred (s : State) (r : Request) (a code : Nat) : State := s.recordAccess 5 r a code

/-! ## Glen scratch and lane stores -/

def glenAt (g o : Nat) : Nat := g * 2 ^ 21 + o
def laneAt (g lane o : Nat) : Nat := g * 2 ^ 21 + lane * 2 ^ 14 + o

def State.scratchRead (s : State) (g o n : Nat) : Bytes := rdN s.core.scratch (glenAt g o) n

/-- A write to scratch; it ends the poison of the 16-byte chunks it covers (R677). -/
def State.scratchWrite (s : State) (g o : Nat) (d : Bytes) : State :=
  s.setCore { s.core with
    scratch := wrN s.core.scratch (glenAt g o) d
    scratchPoison := s.core.scratchPoison.filter fun k => !(glenAt g o ≤ k * 16 && k * 16 + 16 ≤ glenAt g o + d.length) }

/-- A span of scratch meets a poisoned chunk. -/
def State.scratchPoisoned (s : State) (g o n : Nat) : Bool :=
  s.core.scratchPoison.any fun k => glenAt g o < k * 16 + 16 && k * 16 < glenAt g o + n

/-- Zero a span of scratch. -/
def State.zeroScratch (s : State) (g o n : Nat) : State :=
  s.setCore { s.core with
    scratch := zeroN s.core.scratch (glenAt g o) n
    scratchPoison := s.core.scratchPoison.filter fun k => !(glenAt g o ≤ k * 16 && k * 16 < glenAt g o + n) }

/-! ## Sync objects (10) -/

def State.obj (s : State) (g : Nat) : SyncObj := lookD s.core.sync g {}
def State.setObj (s : State) (g : Nat) (o : SyncObj) : State :=
  s.setCore { s.core with sync := put s.core.sync g o }

/-- Object range of a profile. -/
def Profile.holdsSync (p : Profile) (g : Nat) : Bool := p.syncFirst ≤ g && g < p.syncFirst + p.syncCount

/-- An object in transit between valleys (R390). -/
def State.inTransit (s : State) (g : Nat) : Bool :=
  s.valleys.any fun v => v.2.retiring.any fun x => match x.what with
    | .profile old new => old.holdsSync g && !new.holdsSync g
    | _ => false

/-- The valley an object belongs to, one in transit with its old valley (R363, R390). -/
def State.syncValley (s : State) (g : Nat) : Option Nat :=
  (List.range 8).find? fun v => ((s.profile v).map fun p => p.holdsSync g).getD false ||
    (s.valley v).retiring.any fun x => match x.what with
      | .profile old _ => old.holdsSync g
      | _ => false

/-- Global number of valley index i for what was stamped with boundary count b, where the index is below SYNC_COUNT
(R25, R390). -/
def State.syncIndex (s : State) (v b i : Nat) : Option Nat :=
  match s.profileAt v b with
  | some p => if i < p.syncCount then some (p.syncFirst + i) else none
  | none => none

/-- A descriptor's SYNC is none or names an object of the valley. -/
def State.syncOk (s : State) (v b i : Nat) : Bool := i = 0xFFFFFFFF || (s.syncIndex v b i).isSome

/-- Boundary count of a valley now: what is not of a request takes the settings in force. -/
def State.bndNow (s : State) (v : Nat) : Nat := (s.valley v).bnd

/-! ## Waiters of an object (R371, R383) -/

/-- Wake a thread with its status and value. -/
def State.wake (s : State) (t status : Nat) (value : Option W64) : State :=
  s.updThread t fun x =>
    let dst := match x.wait with | .ge _ _ _ _ d _ => d | .acquire _ _ _ _ d _ => d | _ => 0
    let regs := match value with | some w => if dst = 0 then x.regs else put x.regs dst w | none => x.regs
    { x with wait := .run, regs := put regs 0 (BitVec.ofNat 64 status) }

/-- A thread waits with an entry for object g to reach its target. -/
def Thread.geMet (x : Thread) (g : Nat) (v : W64) : Bool :=
  match x.wait with
  | .ge o t _ _ _ e => o == g && e && !x.saved && decide (t ≤ v.toNat)
  | _ => false

/-- The acquire line is served in strict arrival order (R371). -/
def State.serveLine (g : Nat) : Nat → State → State
  | 0, s => s
  | k + 1, s =>
    let o := s.obj g
    match o.line with
    | [] => s
    | t :: rest =>
      match (look s.core.threads t).map (·.wait) with
      | some (Wait.acquire _ n _ _ _ _) =>
        if n ≤ o.value.toNat then
          let v := o.value - BitVec.ofNat 64 n
          State.serveLine g k ((s.setObj g { o with value := v, line := rest }).wake t 0 (some v))
        else s
      | _ => State.serveLine g k (s.setObj g { o with line := rest })

/-- Every line is served again, after threads have left it. -/
def State.serveAll (s : State) : State :=
  (s.core.sync.filter fun o => !o.2.line.isEmpty).foldl (fun s o => State.serveLine o.1 o.2.line.length s) s

/-- Post the notify of an armed object whose threshold is reached (R383). -/
def State.fireNotify (s : State) (g : Nat) : State :=
  let o := s.obj g
  if o.armed && o.notifyAt ≤ o.value then
    let entry : Due := {
      cq := o.ctrl.toNat % 4096, kind := 1, a := o.value.toNat % 2 ^ 32
      b := some (o.value.toNat / 2 ^ 32), c := g % 65536, d := g / 65536, held := false }
    let s := (s.setObj g { o with armed := false }).updCq entry.cq fun q => { q with
      notifyWaits := q.notifyWaits + b2n (decide (2 ^ q.log2 ≤ (q.tail - q.head).toNat + q.reserved)) }
    s.setCore { s.core with due := s.core.due ++ [entry] }
  else s

/-! ## The error latch and cancellation (R227, R387) -/

/-- Take threads off every acquire line. -/
def State.leaveLines (s : State) (gone : Nat → Bool) : State :=
  s.setCore { s.core with sync := s.core.sync.map fun o => (o.1, { o.2 with line := o.2.line.filter fun t => !gone t }) }

/-- End the threads, tasks and queued descriptors of some requests; descriptors in progress run on. A line that loses
its head is served again (R371). -/
def State.cancel (s : State) (mine : Nat → Bool) : State :=
  let c := s.core
  let goneT := fun (t : Nat) => ((look c.threads t).map fun x => mine x.req).getD false
  let s := s.leaveLines goneT
  (s.setCore { s.core with
    threads := c.threads.filter fun t => !mine t.2.req
    tasks := c.tasks.filter fun t => !mine t.2.req
    bags := c.bags.filter fun b => !(mine b.2.req && !b.2.running)
    plain := c.plain.filter fun p => !(mine p.2.req && !p.2.running)
    reqs := c.reqs.map fun r => (r.1, if mine r.1 then { r.2 with started := r.2.threads } else r.2) }).serveAll

/-! ## Waiting threads and their entries (R384) -/

def Thread.holdsEntry (t : Thread) : Bool :=
  !t.saved && match t.wait with | .ge _ _ _ _ _ e => e | .acquire _ _ _ _ _ e => e | _ => false

/-- Wait entries in use on a glen. -/
def State.entries (s : State) (g : Nat) : Nat :=
  (s.core.threads.filter fun t => t.2.glen = g && t.2.holdsEntry).length +
  (s.core.tasks.filter fun t => t.2.glen = g && !t.2.ready && !t.2.saved).length

/-- Writes of a request's context that the host has still to make way for (R148, R376). -/
def State.writesPend (s : State) (req : Nat) : Bool :=
  ((look s.core.reqs req).map fun r => s.writesHeld r.valley r.ctx).getD false

/-- Begin a wait, or wait for an entry. A condition that holds already takes no entry (R370). An ACQUIRE releases, so
it joins its line once the earlier writes are visible (R376). -/
def State.beginWait (s : State) (t : Nat) : State :=
  match look s.core.threads t with
  | none => s
  | some x =>
    if x.saved then s else
    match x.wait with
    | .ge o tgt since us dst _ =>
      let b := s.obj o
      if b.poisoned then s
      else if tgt ≤ b.value.toNat then s.wake t 0 (some b.value)
      else if s.entries x.glen < 4096 then s.updThread t fun x => { x with wait := .ge o tgt since us dst true }
      else s
    | .acquire o n since us dst _ =>
      let b := s.obj o
      if b.poisoned || s.writesPend x.req then s
      else if b.line.isEmpty && n ≤ b.value.toNat then
        let v := b.value - BitVec.ofNat 64 n
        (s.setObj o { b with value := v }).wake t 0 (some v)
      else if s.entries x.glen < 4096 then
        (s.setObj o { b with line := b.line ++ [t] }).updThread t fun x => { x with wait := .acquire o n since us dst true }
      else s
    | _ => s

/-- Threads that still wait for an entry get those now free, oldest first. -/
def State.grantEntries (s : State) : State :=
  (s.core.threads.filter fun t => match t.2.wait with
    | .ge _ _ _ _ _ e => !e && !t.2.saved
    | .acquire _ _ _ _ _ e => !e && !t.2.saved
    | _ => false).foldl (fun s t => s.beginWait t.1) s

/-! ## Remote ADDs (R380, R384, R547) -/

/-- Send a request packet and remember what its answer serves. -/
def State.askRemote (s : State) (m : Remote) (valley : Nat) (msg : Nat → Bytes) : State :=
  let (i, s) := s.fresh
  let tag := if m.kind = 1 || m.kind = 3 then i % 65536 else i % 2 ^ 32
  s.setCore { s.core with
    remote := put s.core.remote i { m with tag, sent := s.now }
    outbox := s.core.outbox ++ [{ dest := m.node, src := s.dev.nodeId, tag := valley, kind := m.kind, msg := msg tag }] }

def signalMsg (index valley n tag : Nat) : Bytes := leBytes 2 tag ++ leBytes 2 index ++ leBytes 1 valley ++ zeros 3 ++ leBytes 8 n

def setReg (regs : TMap W64) (i : Nat) (v : Nat) : TMap W64 := put regs (i % 32) (BitVec.ofNat 64 v)

def State.setStatus (s : State) (t status : Nat) : State := s.updThread t fun y => { y with regs := setReg y.regs 0 status }

/-- Earlier remote writes of a thread to a node that are not yet acknowledged. -/
def State.unacked (s : State) (t : Nat) (node : Option Nat) : Bool :=
  s.core.remote.any fun m => m.2.use == .store t && (node.map fun n => m.2.node == n).getD true

/-- Remote signals outstanding on a glen (Table 10.4). -/
def State.signalsOut (s : State) (g : Nat) : Nat := (s.core.remote.filter fun m => m.2.kind = 3 && m.2.glen = g).length

/-- Send a remote ADD once its thread's writes to the node are acknowledged and the glen may send one
more (R380, R384); the thread waits otherwise. -/
def State.trySignal (s : State) (t : Nat) (x : Thread) (r : Request) (node valley index n : Nat) : State :=
  if s.unacked t (some node) || 256 ≤ s.signalsOut x.glen then
    s.updThread t fun y => { y with wait := .signal node valley index n }
  else
    let s := s.updThread t fun y => { y with wait := .run, regs := setReg y.regs 0 0 }
    s.askRemote { use := .signal t, req := x.req, glen := x.glen, kind := 3, node, sent := 0, tag := 0 } r.valley
      (signalMsg index valley n)

/-- Waiting remote ADDs that may go on now. -/
def State.retrySignals (s : State) : State :=
  s.core.threads.foldl (fun s e => match e.2.wait, look s.core.reqs e.2.req with
    | .signal node v i n, some r => if e.2.saved then s else s.trySignal e.1 e.2 r node v i n
    | _, _ => s) s

/-! ## Slots and placement (R360, R368) -/

def State.probation (s : State) (g : Nat) : Bool :=
  s.flt.readmits.any fun r => r.unit.cls == 1 && r.unit.idx == g

/-- Glens of a valley, for what was stamped with boundary count b, that are present and not retired (R25). -/
def State.stampGlens (s : State) (v b : Nat) : List Nat :=
  ((s.profileAt v b).map Profile.glenList).getD [] |>.filter fun g => s.hasGlen g && !s.isRetired 1 g

/-- Glens of a valley that take new work of what was stamped with boundary count b (R25). -/
def State.openGlens (s : State) (v b : Nat) : List Nat :=
  (s.stampGlens v b).filter fun g => !s.probation g && !s.fenced 1 g

/-- Work placed on a gated glen wakes it (R754). -/
def State.ungate (s : State) (g : Nat) : State :=
  { s with pwr := { s.pwr with gatedGlens := s.pwr.gatedGlens &&& ~~~((1 : W32) <<< g) } }

def State.freeSlots (s : State) (g : Nat) : Nat :=
  2048 - (s.core.threads.filter fun t => t.2.glen = g && !t.2.saved).length

/-- The glen a thread is placed on: the most free slots, ties to the lowest; none when all are full. -/
def State.placement (s : State) (v b : Nat) : Option Nat :=
  match pickMax s.freeSlots (s.openGlens v b) with
  | some g => if s.freeSlots g = 0 then none else some g
  | none => none

def State.addThread (s : State) (t : Thread) : State :=
  let (i, s) := (s.ungate t.glen).fresh
  s.setCore { s.core with threads := put s.core.threads i t }

/-- Start thread `k` of a LAUNCH (R444). -/
def State.startLaunch (s : State) (i : Nat) (r : Request) (g : Nat) : State :=
  let entry := match r.stamp.graph, s.ctxOf r with
    | some (gr, v), some c => match look c.graphs gr with
      | some x => ((x.vers.find? fun y => y.num = v).map (·.entry)).getD 0
      | none => 0
    | _, _ => 0
  let area := match s.ctxOf r, r.area with
    | some c, some k => c.scrBase + k * 2048
    | _, _ => 0
  let regs : TMap W64 := [(0, 0), (1, BitVec.ofNat 64 r.started), (2, BitVec.ofNat 64 area), (3, BitVec.ofNat 64 r.threads)]
  (s.addThread { req := i, glen := g, pc := entry, regs }).updReq i fun r => { r with started := r.started + 1 }

/-- Start a task's thread (R369). -/
def State.startTask (s : State) (i : Nat) (t : Task) (g : Nat) : State :=
  let regs : TMap W64 := (0, BitVec.ofNat 64 t.status) :: (List.range 5).map fun k => (k + 1, BitVec.ofNat 64 (u64 t.record (24 + 8 * k)))
  let s := s.setCore { s.core with tasks := del s.core.tasks i }
  s.addThread { req := t.req, glen := g, pc := u32 t.record 0, regs }

/-- A queued task that may start now: it is ready and its context is resident. -/
def State.canStart (s : State) (v : Nat) (t : Task) : Bool :=
  t.ready && !t.saved && match look s.core.reqs t.req with
    | some r => r.valley == v && s.resident r
    | none => false

/-- One start in valley v: the oldest ready task of a glen with a free slot, then of the valley queue,
then the oldest launch with threads to start. -/
def State.startOne (s : State) (v : Nat) : Option State :=
  let bnd := fun (i : Nat) => ((look s.core.reqs i).map fun r => r.stamp.bnd).getD 0
  let own := s.core.tasks.find? fun t => s.canStart v t.2 &&
    (match t.2.queue with | some g => g ∈ s.openGlens v (bnd t.2.req) && 0 < s.freeSlots g | none => false)
  match own with
  | some (i, t) => some (s.startTask i t (t.queue.getD 0))
  | none =>
    match s.core.tasks.find? fun t => s.canStart v t.2 && t.2.queue.isNone && (s.placement v (bnd t.2.req)).isSome with
    | some (i, t) => (s.placement v (bnd t.req)).map fun g => s.startTask i t g
    | none =>
      match s.core.reqs.find? fun r =>
          r.2.valley = v && r.2.started < r.2.threads && s.resident r.2 && (s.placement v r.2.stamp.bnd).isSome with
      | some (i, r) => (s.placement v r.stamp.bnd).map fun g => s.startLaunch i r g
      | none => none

/-- Start what slots allow; the fuel is what waits to start. -/
def startMany (v : Nat) : Nat → State → State
  | 0, s => s
  | k + 1, s => match s.startOne v with
    | some s => startMany v k s
    | none => s

def State.fill (s : State) (v : Nat) : State :=
  startMany v (s.core.tasks.length + (s.core.reqs.map fun r => r.2.threads - r.2.started).sum) s

/-! ## Changes of objects (R364, R368, R371, R383, R393) -/

/-- Whatever waited for a slot, a wait entry or a remote signal takes what is free now (R360, R368, R384). -/
def State.resume (s : State) : State :=
  (List.range 8).foldl State.fill ((s.grantEntries).retrySignals)

/-- After a change of value: the notify at the moment its threshold is reached, WAIT_GE waiters, deferred tasks, the
acquire line; then what these let go on. -/
def State.changed (s : State) (g : Nat) : State :=
  let s := s.fireNotify g
  let o := s.obj g
  let s := (s.core.threads.filter fun t => t.2.geMet g o.value).foldl (fun s t => s.wake t.1 0 (some o.value)) s
  let met := fun (t : Task) => !t.ready && !t.saved &&
    (match look s.core.reqs t.req with
      | some r => s.syncIndex r.valley r.stamp.bnd (u32 t.record 8) == some g
      | none => false) && decide (u64 t.record 16 ≤ o.value.toNat)
  let s := s.setCore { s.core with tasks := s.core.tasks.map fun t => (t.1, if met t.2 then { t.2 with ready := true } else t.2) }
  (State.serveLine g (o.line.length) s).resume

/-- ADD n; a poisoned object changes nothing and says so (R364, R393). -/
def State.syncAdd (s : State) (g : Nat) (n : W64) : State × Bool :=
  let o := s.obj g
  if o.poisoned then (s, false) else ((s.setObj g { o with value := o.value + n }).changed g, true)

/-- SET v clears poison (R393). -/
def State.syncSet (s : State) (g : Nat) (v : W64) : State :=
  (s.setObj g { s.obj g with value := v, poisoned := false }).changed g

/-- Set a request's error latch, if it is clear, and cancel the rest of it; slots and entries it held are free. -/
def State.latch (s : State) (i code detail : Nat) : State :=
  match look s.core.reqs i with
  | none => s
  | some r =>
    let s := if r.latch.isNone then s.updReq i fun r => { r with latch := some (code, detail) } else s
    (s.cancel (· = i)).resume

/-- An engine's increment; a poisoned object drops it and latches the request (R393). -/
def State.engineAdd (s : State) (req g : Nat) : State :=
  let (s, ok) := s.syncAdd g 1
  if ok then s else s.latch req 0x17 0

/-- An engine adds 1 to the SYNC of a descriptor of request r, once the output is visible (R226, R319, R379): the host
may still hold lines that the request's context has written (R148). -/
def State.engineSync (s : State) (req : Nat) (r : Request) (idx : Nat) : State :=
  if idx = 0xFFFFFFFF then s else
  match s.syncIndex r.valley r.stamp.bnd idx with
  | none => s
  | some g =>
    if s.writesHeld r.valley r.ctx then
      { s with basin := { s.basin with biSyncs := s.basin.biSyncs ++ [{ valley := r.valley, ctx := r.ctx, req, obj := g }] } }
    else s.engineAdd req g

/-- The increment of a request that is itself the engine's operation (Ford, Canyon). -/
def State.jobSync (s : State) (req idx : Nat) : State :=
  match look s.core.reqs req with
  | some r => s.engineSync req r idx
  | none => s

/-- A thread's ADD or SET, which releases: it waits until the host has made way for the context's earlier writes
(R376). -/
def State.tryRelease (s : State) (t : Nat) (x : Thread) (set : Bool) (g n : Nat) : State :=
  if s.writesPend x.req then s.updThread t fun y => { y with wait := .release set g n }
  else
    let s := s.updThread t fun y => { y with wait := .run }
    if set then (s.syncSet g (BitVec.ofNat 64 n)).setStatus t 0
    else
      let (s, ok) := s.syncAdd g (BitVec.ofNat 64 n)
      s.setStatus t (if ok then 0 else 2)

/-! ## Completion (R30, R367, R410) -/

/-- Nothing of a LAUNCH is left running (R367). -/
def State.quiet (s : State) (i : Nat) : Bool :=
  let c := s.core
  !(c.threads.any fun t => t.2.req = i) && !(c.tasks.any fun t => t.2.req = i) &&
  !(c.bags.any fun b => b.2.req = i) && !(c.plain.any fun p => p.2.req = i) &&
  !(c.remote.any fun m => m.2.req = i) && !(s.basin.biSyncs.any fun b => b.req = i) &&
  (match look c.reqs i with | some r => r.started == r.threads | none => true)

/-- The completion entry of a request (Table 11.4b). -/
def completionOf (i : Nat) (r : Request) (q cq : Nat) : Due :=
  let (code, detail) := r.latch.getD (0, r.detail)
  { cq, kind := 0, a := r.tag, b := none, c := q, d := detail % 65536, status := code, wrote := r.wrote && code ≠ 0, req := some i }

/-- End a request: its completion waits to be posted. A corrupt CQ posts nothing (R427). -/
def State.finish (s : State) (i : Nat) : State :=
  match look s.core.reqs i with
  | none => s
  | some r =>
    if r.ended then s else
    let s := (s.updReq i fun r => { r with ended := true }).count (8 + r.valley) 1
    let s := s.updValley r.valley fun v => { v with completed := v.completed + (if v.st = .stopping then 1 else 0) }
    match r.origin with
    | .net _ _ => s
    | .sq q =>
      let cq := ((look s.core.sqs q).map (·.cq)).getD 0
      s.setCore { s.core with due := s.core.due ++ [completionOf i r q cq] }

/-- End it with a code, unless an error is latched already. -/
def State.finishWith (s : State) (i code detail : Nat) : State :=
  (s.updReq i fun r => { r with
    latch := if code = 0 then r.latch else r.latch <|> some (code, detail)
    detail := if code = 0 then detail else r.detail }).finish i

/-- Complete a LAUNCH that has nothing left, and start what its slots allow. -/
def State.settle (s : State) (i : Nat) : State :=
  match look s.core.reqs i with
  | none => s
  | some r =>
    let s := s.resume
    if r.op = 1 && s.quiet i then s.finish i else s

/-- A latch followed by the completion it may allow. -/
def State.fail (s : State) (i code detail : Nat) : State := (s.latch i code detail).settle i

/-- The host has made way for writes: releases that waited for them take place, engines' first (R376, R379). -/
def State.releaseSyncs (s : State) : State :=
  let ready := fun (b : HeldSync) => !s.writesHeld b.valley b.ctx
  let go := s.basin.biSyncs.filter ready
  let s : State := { s with basin := { s.basin with biSyncs := s.basin.biSyncs.filter fun b => !ready b } }
  let s := go.foldl (fun s b => (s.engineAdd b.req b.obj).settle b.req) s
  (s.core.threads.foldl (fun s e => match e.2.wait with
    | .release set g n => if e.2.saved then s else s.tryRelease e.1 e.2 set g n
    | _ => s) s).resume

/-- An uncorrectable error in an object marks it POISONED; whatever waits on it ends (Table 10.5). The objects are
tested with the front end (notes/assumptions/96.md). -/
def State.poisonObj (s : State) (g : Nat) : State :=
  let s := s.error { source := 5, event := 2, cls := 0x0A, valley := (s.syncValley g).getD 0xFF, index := g } [{ cls := 0x0A, idx := 0 }]
  let s := s.setObj g { s.obj g with poisoned := true }
  let waits := (s.core.threads.filter fun t => !t.2.saved && match t.2.wait with
    | .ge o _ _ _ _ _ => o == g
    | .acquire o _ _ _ _ _ => o == g
    | _ => false).map (·.2.req)
  let tasks := (s.core.tasks.filter fun t => !t.2.ready && !t.2.saved && match look s.core.reqs t.2.req with
    | some r => s.syncIndex r.valley r.stamp.bnd (u32 t.2.record 8) == some g
    | none => false).map (·.2.req)
  (waits ++ tasks).eraseDups.foldl (fun s i => s.fail i 0x17 0) s

/-- The request leaves the device once its entry is posted: its area and slot are free, its chain
goes on (R443, R449, R452). -/
def State.release (s : State) (i : Nat) : State :=
  match look s.core.reqs i with
  | none => s
  | some r =>
    let s := s.setCore { s.core with reqs := del s.core.reqs i }
    match r.origin with
    | .net e _ => s.updEp e fun x => { x with inflight := x.inflight - 1 }
    | .sq q =>
      let s := s.updSq q fun x => { x with
        inflight := x.inflight - 1
        chained := if r.chain then false else x.chained
        chainOk := if r.chain then some r.latch.isNone else x.chainOk }
      if r.chain then s.updValley r.valley fun v => { v with chainDue := v.chainDue ++ [q] } else s

/-- Requests in flight of a valley, and of a context. -/
def State.inflight (s : State) (v : Nat) : Nat := (s.core.reqs.filter fun r => r.2.valley = v).length
def State.ctxInflight (s : State) (v c : Nat) : Nat := (s.core.reqs.filter fun r => r.2.valley = v && r.2.ctx = c).length

/-- Discard requests without a completion (R388, R506). -/
def State.dropReqs (s : State) (mine : Nat → Bool) : State :=
  let s := s.cancel mine
  let s := s.setCore { s.core with
    bags := s.core.bags.filter fun b => !mine b.2.req
    plain := s.core.plain.filter fun b => !mine b.2.req
    remote := s.core.remote.filter fun b => !mine b.2.req }
  let gone := s.core.reqs.filter fun r => mine r.1
  let s := gone.foldl (fun s r => match r.2.origin with
    | .sq q =>
      let cq := ((look s.core.sqs q).map (·.cq)).getD 0
      (s.updSq q fun x => { x with inflight := x.inflight - 1, chained := if r.2.chain then false else x.chained }).updCq cq
        fun c => { c with reserved := c.reserved - 1 }
    | .net e _ => s.updEp e fun x => { x with inflight := x.inflight - 1 }) s
  let left := s.cyn.jobs.filter fun j => !(mine j.1 && j.2.pipe.isNone)
  let left := left.map fun (j : Nat × CynJob) => if mine j.1 then (j.1, { j.2 with dead := true }) else j
  let fj := s.ford.jobs.filter fun j => !mine j.1
  let s : State := { s with ford := { s.ford with jobs := fj }, cyn := { s.cyn with jobs := left } }
  (s.setCore { s.core with
    netReqs := s.core.netReqs.filter fun r => !mine r.1
    reqs := s.core.reqs.filter fun r => !mine r.1
    due := s.core.due.filter fun d => !((d.req.map mine).getD false) }).resume

end Sys2Proof.Machine
end

