-- ==== Sys2Proof/Machine/Maps.lean ====
section
/-! DEFINITION. Tables, row maps and the storage of rows (06), pools and journals (07). -/
namespace Sys2Proof.Machine
open Sys2Proof

/-! ## Fields of a table (Table 6.13) -/

def Table.width (t : Table) : Nat := u16 t.create 4
def Table.fmt (t : Table) : Nat := u8 t.create 6
def Table.group (t : Table) : Nat := u8 t.create 7
def Table.rows (t : Table) : Nat := u64 t.create 8
def Table.shift (t : Table) : Nat := u8 t.create 16
def Table.dfltRow (t : Table) : Bool := u8 t.create 17 = 1
def Table.map (t : Table) : Nat := u64 t.create 24
def Table.dflt (t : Table) : Nat := u64 t.create 32
def Table.slots (t : Table) : Nat := ceilDiv t.rows (2 ^ t.shift)
def Table.scales (t : Table) : Nat := scaleCount t.group t.width
def Table.payload (t : Table) : Nat := payloadBytes t.fmt t.width
def Table.stride (t : Table) : Nat := rowStride t.fmt t.width
/-- Offset of the scale entries in a block, and the block's size (R213). -/
def Table.scaleOff (t : Table) : Nat := ceilDiv (2 ^ t.shift * t.stride) 64 * 64
def Table.block (t : Table) : Nat := t.scaleOff + ceilDiv (2 ^ t.shift * t.scales * 4) 64 * 64

def tableKey (set table : Nat) : Nat := set * 1024 + table
def slotKey (table slot : Nat) : Nat := table * 2 ^ 34 + slot
def keySlot (k : Nat) : Nat := k % 2 ^ 34
def keyTable (k : Nat) : Nat := k / 2 ^ 34

/-! ## Row-map entries (Table 6.1) -/

def tierOf (e : Nat) : Nat := e / 2 ^ 60 % 16
def baseOf (e : Nat) : Nat := e % 2 ^ 48
def entryOf (tier base : Nat) : Nat := tier * 2 ^ 60 + base
/-- T0, T1 or T2: a block on this device's own memory; T4 is host memory. -/
def isLocal (e : Nat) : Bool := 1 ≤ tierOf e && tierOf e ≤ 3
def hasBlock (e : Nat) : Bool := isLocal e || tierOf e = 5
def isT3 (e : Nat) : Bool := tierOf e = 4
def t3Node (e : Nat) : Nat := e / 2 ^ 52 % 256
def t3Set (e : Nat) : Nat := e / 2 ^ 44 % 256
def t3Table (e : Nat) : Nat := e / 2 ^ 34 % 1024
def t3Row (e : Nat) : Nat := e % 2 ^ 34

/-- An entry that reads as poisoned: POISON or a reserved TIER; its other reserved bits are ignored (R4, R220, R243). -/
def badEntry6 (e : Nat) : Bool := tierOf e = 14 || (5 < tierOf e && tierOf e ≠ 14)

/-- Non-zero reserved bits, or a BASE that is no multiple of 64, of an entry that names a block (R258). -/
def looseEntry (e : Nat) : Bool := e / 2 ^ 48 % 4096 ≠ 0 || e % 64 ≠ 0

/-- The half of a slot that an epoch reads (R210). -/
def State.mapEntry (s : State) (t : Table) (slot epoch : Nat) : Nat :=
  u64 (s.bytes (t.map + 16 * slot + 8 * (epoch % 2)) 8) 0

def State.setMapEntry (s : State) (t : Table) (slot epoch e : Nat) : State :=
  s.writeThrough (t.map + 16 * slot + 8 * (epoch % 2)) (leBytes 8 e)

/-- An address in valley v's own storage of a tier (R145, R178, R212): 1 T0, 2 T1, 3 T2, 5 T4. A group
on its way back to CACHE is refused (R157). -/
def State.tierPoint (s : State) (v tier a : Nat) : Bool :=
  match s.profile v with
  | none => false
  | some p =>
    match tier with
    | 1 => inScratch a &&
        (let g := s.group (a / scratchSize)
         g.scratch && !g.retired && g.owner == some v && !((g.change.map fun c => !c.toScratch).getD false))
    | 2 => inHbm a && p.hbmRegions.getLsbD (hbmRegion a) && s.populated a
    | 3 => inLpd a && p.lpdRegions.getLsbD (lpdRegion a) && s.populated a
    | 5 => inHost a && !s.link.standalone
    | _ => false

/-- The extent or region of an address of a tier. -/
def tierPart (tier a : Nat) : Nat :=
  match tier with
  | 1 => a / scratchSize | 2 => (a - hbmBase) / hbmRegionSize | 3 => (a - lpdBase) / lpdRegionSize | _ => 0

def partBase (tier i : Nat) : Nat :=
  match tier with
  | 1 => i * scratchSize | 2 => hbmBase + i * hbmRegionSize | _ => lpdBase + i * lpdRegionSize

/-- A range wholly in valley v's storage of a tier. -/
def State.inTier (s : State) (v tier a n : Nat) : Bool :=
  let i := tierPart tier a
  s.tierPoint v tier a && s.tierPoint v tier (a + n - 1) &&
  (List.range (tierPart tier (a + n - 1) - i)).all fun k => s.tierPoint v tier (partBase tier (i + k + 1))

/-- A range in one scratch group or one region of valley v's storage of a tier (R212, R486). -/
def State.inPart (s : State) (v tier a n : Nat) : Bool :=
  s.inTier v tier a n && tierPart tier a = tierPart tier (a + n - 1)

/-- T0 or T1 storage of valley v. -/
def State.inFast (s : State) (v a n : Nat) : Bool := s.inTier v 1 a n || s.inTier v 2 a n

/-- T1 of the valley, or the host-memory window. -/
def State.t1OrHost (s : State) (v a n : Nat) : Bool :=
  s.inTier v 2 a n || (inHost a && inHost (a + n - 1) && rangeAll s.populated a n)

/-- An entry that a load may install for valley v (R258). -/
def State.entryOk (s : State) (v : Nat) (t : Table) (e : Nat) : Bool :=
  match tierOf e with
  | 0 | 14 => e % 2 ^ 60 = 0
  | 4 => t3Node e ≠ s.dev.nodeId
  | 1 | 2 | 3 | 5 => !looseEntry e && s.inPart v (tierOf e) (baseOf e) t.block
  | _ => false

/-! ## Sets and their views (R265-R267) -/

/-- The epoch after one (R265). -/
def epochNext (e : Nat) : Nat := if e = 0xFFFFFFFE then 1 else e + 1
def epochPrev (e : Nat) : Nat := if e = 1 then 0xFFFFFFFE else e - 1
/-- A is after B in serial arithmetic modulo 2^32 - 2. -/
def epochAfter (a b : Nat) : Bool :=
  let m := 2 ^ 32 - 2
  let d := (a % m + m - b % m) % m
  1 ≤ d && d ≤ 2 ^ 31 - 2

def TSet.oldest (t : TSet) : Nat := if t.oldLive then epochPrev t.newest else t.newest

/-- A table is there for a request stamped at boundary count b. -/
def Table.live (t : Table) (b : Nat) : Bool :=
  (t.from_.map fun f => decide (f ≤ b)).getD false && (t.until_.map fun u => decide (b < u)).getD true

/-- The entry records and moves start from: the pending lists, else the newest half. -/
def State.pendingView (s : State) (x : TSet) (t : Table) (key : Nat) : Nat :=
  match look x.cP key, x.sealed.bind fun l => look l key with
  | some e, _ => e
  | none, some e => e
  | none, none => s.mapEntry t (keySlot key) x.newest

/-- A slot of the set reads block `base` in the half of an epoch. -/
def State.halfNames (s : State) (set epoch base : Nat) (skip : Nat → Bool) : Bool :=
  s.core.tables.any fun t => t.1 / 1024 = set && (List.range t.2.slots).any fun slot =>
    !skip (slotKey (t.1 % 1024) slot) &&
      (let e := s.mapEntry t.2 slot epoch
       isLocal e && baseOf e = base)

/-- A live epoch of the set, or the one that a running advance publishes, names a block (R267). -/
def State.liveNames (s : State) (set : Nat) (x : TSet) (base : Nat) : Bool :=
  s.halfNames set x.newest base (fun _ => false) || (x.oldLive && s.halfNames set (x.newest + 1) base (fun _ => false)) ||
  (x.sealed.getD []).any fun e => isLocal e.2 && baseOf e.2 = base

/-- Requests stamped with an epoch of a set. -/
def State.stampedWith (s : State) (set e : Nat) : Nat :=
  (s.core.reqs.filter fun r => look r.2.stamp.epochs set == some e).length

/-! ## Rows in storage (R213-R217) -/

/-- A row as stored: payload, CRC, scale entries. -/
structure StoredRow where
  payload : Bytes
  crc : Nat
  scales : Bytes
deriving DecidableEq, Repr

def Table.rowAt (t : Table) (s : State) (base k : Nat) : StoredRow :=
  { payload := s.bytes (base + k * t.stride) t.payload
    crc := u32 (s.bytes (base + k * t.stride + t.payload) 4) 0
    scales := s.bytes (base + t.scaleOff + k * t.scales * 4) (t.scales * 4) }

def StoredRow.good (r : StoredRow) (index : Nat) : Bool := (rowCrc index r.scales r.payload).toNat == r.crc

/-- Row k of a block cannot be trusted: poison or a CRC mismatch; the CRC alone. -/
def Table.rowPoison (t : Table) (s : State) (base k : Nat) : Bool :=
  s.poisoned (base + k * t.stride) t.stride || s.poisoned (base + t.scaleOff + k * t.scales * 4) (t.scales * 4)

/-- The bytes of a row slot. -/
def Table.slotBytes (t : Table) (index : Nat) (payload scales : Bytes) : Bytes :=
  fit t.stride (payload ++ leBytes 4 (rowCrc index scales payload).toNat)

/-- Write row k of a block, written through (R144). -/
def State.putRow (s : State) (t : Table) (base k index : Nat) (payload scales : Bytes) : State :=
  (s.writeThrough (base + k * t.stride) (t.slotBytes index payload scales)).writeThrough
    (base + t.scaleOff + k * t.scales * 4) scales

/-- A row of zero bytes, as DEFAULT ZERO gives it. -/
def Table.zeroRow (t : Table) : StoredRow := { payload := zeros t.payload, crc := 0, scales := zeros (4 * t.scales) }

/-- The bytes of the default row of DEFAULT ROW (R221). -/
def Table.dfltAt (t : Table) (s : State) : StoredRow :=
  { payload := s.bytes t.dflt t.payload, crc := u32 (s.bytes (t.dflt + t.payload) 4) 0
    scales := s.bytes (t.dflt + t.stride) (4 * t.scales) }

/-- FP32 values of a stored row. -/
def Table.values (t : Table) (r : StoredRow) : List Num := dequantRow t.fmt t.group t.width r.payload r.scales
/-- FP32 values of a default row: those of DEFAULT ZERO are +0. -/
def Table.dfltValues (t : Table) (r : StoredRow) : List Num := if t.dfltRow then t.values r else List.replicate t.width Num.zero

/-! ## Pools (R271) -/

/-- Bytes free, less 16 per listed slot (Table 7.3). -/
def TSet.poolFree (x : TSet) : Nat :=
  (x.free.map (·.bytes)).sum - 16 * (x.cN.length + x.cP.length + (x.sealed.map List.length).getD 0)

/-- Take n bytes of a tier: the first free piece that holds them (notes/assumptions/12.md). -/
def takeExtent (tier n : Nat) : List Extent → Option (Nat × List Extent)
  | [] => none
  | e :: l =>
    if e.tier = tier && n ≤ e.bytes then
      some (e.addr, if e.bytes = n then l else { e with addr := e.addr + n, bytes := e.bytes - n } :: l)
    else (takeExtent tier n l).map fun r => (r.1, e :: r.2)

def TSet.alloc (x : TSet) (tier n : Nat) : Option (Nat × TSet) :=
  if x.poolFree < n + 16 then none
  else (takeExtent tier n x.free).map fun r => (r.1, { x with free := r.2 })

def TSet.giveBack (x : TSet) (tier addr n : Nat) : TSet := { x with free := x.free ++ [{ tier, addr, bytes := n }] }

/-- A copy that a pending entry named and nothing uses any more returns to the pool at once (R280). -/
def TSet.unuse (x : TSet) (e : Nat) : TSet :=
  match x.copies.find? fun c => c.addr = baseOf e && c.tier = tierOf e with
  | some c => { (x.giveBack c.tier c.addr c.bytes) with copies := x.copies.filter fun d => !(d.addr = c.addr) }
  | none => x

/-! ## Journals (Table 7.11) -/

def journalMagic : Nat := 0x4A524C46

/-- A header copy that can be trusted. -/
def headerOk (h : Bytes) : Bool := u32 h 0 = journalMagic && u16 h 4 = 1 && (crc32c (h.take 60)).toNat = u32 h 60

/-- The valid header copy with the higher SEQ. -/
def State.journalHeader (s : State) (j : Nat) : Option Bytes :=
  let a := s.bytes j 64
  let b := s.bytes (j + 64) 64
  let okA := headerOk a && !s.poisoned j 64
  let okB := headerOk b && !s.poisoned (j + 64) 64
  if !s.populated j then none
  else if okA && (!okB || u32 b 8 ≤ u32 a 8) then some a else if okB then some b else none

/-- Write the header to the copy with the lower SEQ (R306). -/
def State.putHeader (s : State) (j st set newest oldest table flags moves step next : Nat) : State :=
  let seq := fun (a : Nat) => if headerOk (s.bytes a 64) && !s.poisoned a 64 then u32 (s.bytes a 64) 8 else 0
  let h := leBytes 4 journalMagic ++ leBytes 2 1 ++ leBytes 1 st ++ leBytes 1 set ++
    leBytes 4 (max (seq j) (seq (j + 64)) + 1) ++ leBytes 4 newest ++ leBytes 4 oldest ++ leBytes 2 table ++
    leBytes 2 flags ++ leBytes 4 moves ++ leBytes 4 step ++ leBytes 4 next ++ zeros 4 ++ leBytes 8 s.now ++
    leBytes 1 s.dev.nodeId ++ zeros 11
  s.writeThrough (if seq (j + 64) < seq j then j + 64 else j) (h ++ leBytes 4 (crc32c h).toNat)

def State.putMove (s : State) (j i : Nat) (m : Move) : State :=
  s.writeThrough (j + 128 + 32 * i)
    (leBytes 8 m.slot ++ leBytes 8 m.old ++ leBytes 8 m.target ++ leBytes 1 m.st ++ zeros 3 ++ leBytes 4 m.flip)

def readMove (b : Bytes) : Move := { slot := u64 b 0, old := u64 b 8, target := u64 b 16, st := u8 b 24, flip := u32 b 28 }

/-- The session of a set, and its moves put back. -/
def State.session (s : State) (set : Nat) (track : Bool) : Option Session :=
  s.core.sessions.find? fun x => x.set = set && x.track = track
def State.setSession (s : State) (x : Session) : State :=
  s.setCore { s.core with sessions := s.core.sessions.map fun y => if y.set = x.set && y.track = x.track then x else y }
def State.endSession (s : State) (x : Session) : State :=
  s.setCore { s.core with sessions := s.core.sessions.filter fun y => !(y.set = x.set && y.track = x.track) }

/-- STATE of a session's journal while it runs: 1 ACTIVE, 2 ABANDONED. -/
def Session.state (x : Session) : Nat := if x.abandoned.isSome then 2 else 1

def Session.next (x : Session) : Nat := (x.moves.findIdx? fun m => m.st = 0).getD x.moves.length

/-- Header and moves of a session as they stand. -/
def State.putSession (s : State) (x : Session) (st : Nat) : State :=
  match look s.core.sets x.set with
  | none => s
  | some t =>
    let newest := match t.advance with | some a => if a.phase = 4 then a.target else t.newest | none => t.newest
    let s := s.putHeader x.journal st x.set newest t.oldest x.table (b2n x.advance) x.moves.length x.stepMoves x.next
    (List.range x.moves.length).foldl (fun s i => match x.moves[i]? with
      | some m => s.putMove x.journal i m
      | none => s) s

end Sys2Proof.Machine
end

