-- ==== Sys2Proof/Machine/Peers.lean ====
section
/-! DEFINITION. Reading a stored row with its checks (R217, R243, R244), and lookups served for peers
(R229, R235, R252). -/
namespace Sys2Proof.Machine
open Sys2Proof

/-- Creeks of a glen in service, and descriptors queued on one. -/
def State.creeksOf (s : State) (g : Nat) : List Nat := [2 * g, 2 * g + 1].filter fun k => !s.isRetired 2 k
def State.queuedBags (s : State) (k : Nat) : Nat := (s.core.bags.filter fun b => b.2.creek = k && !b.2.running && !b.2.saved).length

/-! ## One row -/

/-- Who a row is read for: the valley and the boundary count it reads at, and for its own bags the context and the code
its record gives. -/
structure Reader where
  valley : Nat
  bnd : Nat
  ctx : Nat := 0xFFFF
  /-- The unit that reads: its class and index, and the chapter that detects. -/
  creek : Nat
  cls : Nat := 2
  source : Nat := 3
  cmpl : Nat := 0
deriving DecidableEq, Repr

def Reader.event (r : Reader) (code addr index : Nat) : FaultEv :=
  { source := r.source, event := code, valley := r.valley, ctx := r.ctx, scope := if r.cmpl = 0 then 0 else 1, cmpl := r.cmpl, addr, index }

/-- Bytes of a range are there to be read: the extent is populated for the reader, and host memory has its link. -/
def State.readable (s : State) (r : Reader) (a n : Nat) : Bool :=
  rangeAll (s.populatedFor r.valley r.bnd) a n && (!inHost a || s.link.up)

/-- Record storage that is not there, or poison, of a range the Creek reads. -/
def State.recordLost (s : State) (r : Reader) (a n index : Nat) : State :=
  if !s.readable r a n then s.error (r.event (if inHost a then 0xA else 8) a index) []
  else match memUnit a with
    | some u => s.error { r.event 3 a index with cls := u.cls, unit := u.idx } [u]
    | none => s.error (r.event 3 a index) []

/-- The record and the tests of a row whose CRC fails (R244): of the reading unit, and of what held the row. -/
def State.recordCrc (s : State) (r : Reader) (held : Option UnitRef) (a index : Nat) (x : StoredRow) : State :=
  let c : UnitRef := { cls := r.cls, idx := r.creek }
  s.error { r.event 4 a index with
    cls := r.cls, unit := r.creek, expected := x.crc, observed := (rowCrc index x.scales x.payload).toNat } (c :: held.toList)

/-- Row k of a block at `base`, whose index for the CRC is `index`; none where it cannot be trusted, which
is recorded. -/
def State.readRow (s : State) (r : Reader) (t : Table) (base k index : Nat) : State × Option StoredRow :=
  let a := base + k * t.stride
  let b := base + t.scaleOff + k * t.scales * 4
  let n := t.scales * 4
  if !s.readable r a t.stride || !s.readable r b n || t.rowPoison s base k then
    (s.recordLost r (if s.readable r a t.stride && !s.poisoned a t.stride then b else a) t.stride index, none)
  else
    let held := s.holder a
    let s := s.fetchWith r.valley a t.stride b n (!inHost a)
    let x := t.rowAt s base k
    if x.good index then (s, some x) else (s.recordCrc r held a index x, none)

/-- The default row, that of DEFAULT ROW read and checked like any other (R221, R222, R245). -/
def State.readDefault (s : State) (r : Reader) (t : Table) : State × Option StoredRow :=
  if !t.dfltRow then (s, some t.zeroRow)
  else
    let n := t.stride + 4 * t.scales
    if !s.readable r t.dflt n || s.poisoned t.dflt n then (s.recordLost r t.dflt n (2 ^ 64 - 1), none)
    else
      let held := s.holder t.dflt
      let s := s.fetch r.valley t.dflt n
      let x := t.dfltAt s
      if x.good (2 ^ 64 - 1) then (s, some x) else (s.recordCrc r held t.dflt (2 ^ 64 - 1) x, none)

/-- The row map of a table lies in storage that is there (R245). -/
def State.mapThere (s : State) (r : Reader) (t : Table) : Bool := rangeAll (s.populatedFor r.valley r.bnd) t.map (16 * t.slots)

/-! ## Lookups for peers (R229) -/

/-- Per-row statuses of R252. -/
def stOk : Nat := 0
def stMissing : Nat := 1
def stPoisoned : Nat := 2
def stOutOfRange : Nat := 3
def stGone : Nat := 4
def stAhead : Nat := 5
def stNoSet : Nat := 6
def stUnavailable : Nat := 7

/-- One row of a peer's request: its status, and the slot and scale entries when OK. -/
def State.peerRow (s : State) (v k : Nat) (t : Table) (epoch row : Nat) : State × Nat × Bytes :=
  let r : Reader := { valley := v, bnd := (s.valley v).bnd, creek := k }
  let slot := row / 2 ^ t.shift
  let a := t.map + 16 * slot + 8 * (epoch % 2)
  if !s.mapThere r t then (s.recordLost r t.map (16 * t.slots) slot, stPoisoned, [])
  else if t.rows ≤ row then (s, stOutOfRange, [])
  else
    if s.poisoned a 8 then (s.recordLost r a 8 slot, stPoisoned, [])
    else
      let s := s.fetch v a 8
      let e := s.mapEntry t slot epoch
      if badEntry6 e then (s, stPoisoned, [])
      else if tierOf e = 0 then (s, stMissing, [])
      else if isT3 e then (s, stNoSet, [])
      else
        let j := row % 2 ^ t.shift
        match s.readRow r t (baseOf e) j row with
        | (s, none) => (s, stPoisoned, [])
        | (s, some x) => (s, stOk, s.bytes (baseOf e + j * t.stride) t.stride ++ x.scales)

/-- A LOOKUP_ANS (Table 6.12). -/
def lookupAns (p : PeerLookup) (fmt width group : Nat) (rows : Bytes) : Bytes :=
  leBytes 2 p.reqTag ++ leBytes 1 p.rows.length ++ leBytes 1 fmt ++ leBytes 2 width ++ leBytes 1 group ++ zeros 1 ++
    leBytes 4 p.epoch ++ rows

def State.send (s : State) (p : Packet) : State := s.setCore { s.core with outbox := s.core.outbox ++ [p] }

def State.answerPeer (s : State) (p : PeerLookup) (msg : Bytes) : State :=
  s.send { dest := p.node, src := s.dev.nodeId, tag := p.tag, kind := 2, msg }

/-- The table a peer names, if its set exists, is exported to the peer's valley tag, and holds it. -/
def State.peerTable (s : State) (p : PeerLookup) : Option (TSet × Table) :=
  match look s.core.sets p.set, look s.core.tables (tableKey p.set p.table) with
  | some x, some t =>
    if bit (u8 x.create 1) 0 && p.tag < 8 && bit (u8 x.create 2) p.tag && p.table < 1024 &&
        t.live (s.valley x.valley).bnd then some (x, t) else none
  | _, _ => none

/-- Every row of the request gets one status. -/
def State.refusePeer (s : State) (p : PeerLookup) (st : Nat) : State :=
  let rows := p.rows.flatMap fun _ => leBytes 1 st ++ zeros 3
  let s := s.updTable (tableKey p.set p.table) fun t => { t with refused := t.refused + p.rows.length }
  match s.peerTable p with
  | some (_, t) => s.answerPeer p (lookupAns p t.fmt t.width t.group rows)
  | none => s.answerPeer p (lookupAns p 0xFF 0 0 rows)

/-- Serve a peer's request on its Creek. -/
def State.servePeer (s : State) (p : PeerLookup) : State :=
  match s.peerTable p with
  | none => s.refusePeer p stNoSet
  | some (x, t) =>
    if epochAfter x.oldest p.epoch then s.refusePeer p stGone else
    let k := p.creek.getD 0
    let (s, out) := p.rows.foldl (fun (acc : State × List (Nat × Bytes)) row =>
      let (s, st, b) := acc.1.peerRow x.valley k t p.epoch row
      (s, acc.2 ++ [(st, b)])) (s, [])
    let good := (out.filter fun o => o.1 = stOk).length
    let s := s.updTable (tableKey p.set p.table) fun t => { t with served := t.served + good, refused := t.refused + (out.length - good) }
    s.answerPeer p (lookupAns p t.fmt t.width t.group (out.flatMap fun o => leBytes 1 o.1 ++ zeros 3 ++ o.2))

/-- Creeks of a valley that are not retired, ascending (R229). -/
def State.valleyCreeks (s : State) (v : Nat) : List Nat :=
  match s.profile v with
  | some p => p.glenList.flatMap s.creeksOf
  | none => []

def State.peersOn (s : State) (k : Nat) : List PeerLookup := s.core.peers.filter fun p => p.creek = some k

/-- Take a request off the peer queue of its Creek and serve it. -/
def State.takePeer (s : State) (p : PeerLookup) : State :=
  (s.setCore { s.core with peers := s.core.peers.erase p }).servePeer p

/-- The peer queue has the Creek to itself while no bag is queued there (R235). -/
def State.drainPeers (s : State) (k : Nat) : State :=
  if 0 < s.queuedBags k || s.fenced 2 k then s else
  (s.peersOn k).foldl (fun s p =>
    let s := s.takePeer p
    s.setCore { s.core with turns := upd s.core.turns k 0 fun n => (n + 1) % 16 }) s

/-- The checks of R229 in order, and the Creek that serves. -/
def State.admitPeer (s : State) (p : PeerLookup) : State :=
  match s.peerTable p with
  | none => s.refusePeer p stNoSet
  | some (x, _) =>
    if epochAfter x.oldest p.epoch then s.refusePeer p stGone
    else if epochAfter p.epoch x.newest then
      s.setCore { s.core with peers := s.core.peers ++ [{ p with creek := none, since := s.now }] }
    else
      let ks := s.valleyCreeks x.valley
      match ks[p.rows.headD 0 % ks.length]? with
      | none => s.refusePeer p stUnavailable
      | some k => (s.setCore { s.core with peers := s.core.peers ++ [{ p with creek := some k }] }).drainPeers k

/-- Requests held for an epoch that is live now go on (R229, R290). -/
def State.serveHeld (s : State) (set : Nat) : State :=
  let held := s.core.peers.filter fun p => p.set = set && p.creek.isNone
  held.foldl (fun s p =>
    match look s.core.sets set with
    | some x => if epochAfter p.epoch x.newest then s
        else (s.setCore { s.core with peers := s.core.peers.erase p }).admitPeer p
    | none => s) s

/-- An ERROR answer (Table 14.4). -/
def State.sendError (s : State) (dest tag kind code : Nat) (msg : Bytes) : State :=
  s.send { dest, src := s.dev.nodeId, tag, kind := 0x0B, msg := fit 4 (msg.take 4) ++ leBytes 1 kind ++ leBytes 1 code ++ zeros 2 }

/-- A drain to STANDBY has passed its last request: Headwater, Ford and Canyon take no new work (Table 20.3, step 1). -/
def State.stopping (s : State) : Bool := (s.dev.drain.map fun d => d.standby && d.phase != 0).getD false

/-- Peers are served in READY, DEGRADED and DRAINING (R26, R41). -/
def State.servesPeers (s : State) : Bool := s.serving || s.dev.st == .draining

/-- A LOOKUP arrives (R229); one too short for its rows is malformed (R525). -/
def State.lookupRequest (s : State) (src tag : Nat) (msg : Bytes) : State :=
  let n := u8 msg 3
  if !s.servesPeers then s
  else if msg.length < 16 || n = 0 || 8 < n || msg.length < 16 + 8 * n then s.sendError src tag 1 4 msg
  else s.admitPeer {
    node := src, tag, reqTag := u16 msg 0, set := u8 msg 2, table := u16 msg 4, epoch := u32 msg 8
    rows := (List.range n).map fun i => u64 msg (16 + 8 * i) }

def execRemoteLookupRequest (src tag : Nat) (msg : Bytes) (s : State) : Out := .next (s.lookupRequest src tag msg)

/-- EPOCH_WAIT_US runs out for the oldest held request of a peer with this tag. -/
def execEpochWaitExpire (node reqTag : Nat) (s : State) : Out :=
  .next (match s.core.peers.find? fun p => p.node = node && p.reqTag = reqTag && p.creek.isNone with
    | none => s
    | some p =>
      let us := ((look s.core.sets p.set).map fun x => u16 x.create 8).getD 0
      let s := s.advanceTo (p.since + 1000 * us)
      let s := s.setCore { s.core with peers := s.core.peers.erase p }
      if (s.peerTable p).isSome then s.refusePeer p stAhead else s.refusePeer p stNoSet)

end Sys2Proof.Machine
end

