-- ==== Sys2Proof/Machine/Boundary.lean ====
section
/-! DEFINITION. Batch boundaries (R260-R263): what each armed change does when it applies, how epochs
seal, flip and expire (R264-R268, R278), and when a superseded resource is retired. -/
namespace Sys2Proof.Machine
open Sys2Proof

/-! ## Graph storage (R445, R446, R473) -/

/-- Arena units in use. -/
def Graph.used (g : Graph) : List Nat := (g.vers.flatMap fun v => v.record :: v.blocks).eraseDups
def Graph.freeBytes (g : Graph) : Nat := g.bytes - 4096 * g.used.length
/-- The lowest free unit. -/
def Graph.unit (g : Graph) : Option Nat :=
  ((List.range (g.bytes / 4096)).map fun i => g.arena + 4096 * i).find? fun a => a ∉ g.used
def Graph.ver (g : Graph) (n : Nat) : Option GraphVer := g.vers.find? fun v => v.num = n
def Graph.setVer (g : Graph) (v : GraphVer) : Graph := { g with vers := g.vers.map fun x => if x.num = v.num then v else x }

def State.graph (s : State) (ck g : Nat) : Option Graph := (look s.core.ctxs ck).bind fun c => look c.graphs g
def State.setGraph (s : State) (ck g : Nat) (x : Graph) : State :=
  s.updCtx ck fun c => { c with graphs := put c.graphs g x }

/-- Write a version's record and block table: STATE 0 PENDING to 4 POISONED. -/
def State.writeVer (s : State) (ck g : Nat) (x : Graph) (v : GraphVer) (st : Nat) : State :=
  let r := leBytes 4 0x56524547 ++ leBytes 4 v.num ++ leBytes 2 (ck % 128) ++ leBytes 1 g ++ leBytes 1 st ++
    leBytes 4 x.codeBytes ++ leBytes 4 v.entry ++ leBytes 4 v.threads ++ leBytes 1 x.personality ++
    leBytes 1 x.units ++ leBytes 2 v.blocks.length ++ leBytes 4 v.actBseq ++ leBytes 8 x.indir ++
    leBytes 4 x.indirCount ++ zeros 12
  let t := v.blocks.flatMap fun a => leBytes 8 a ++ leBytes 4 (crc32c (s.bytes a 4096)).toNat ++ zeros 4
  s.writeThrough v.record (r ++ leBytes 4 (crc32c r).toNat ++ t)

/-! ## Journals and sessions at an epoch's life -/

/-- A journal leaves the device's list. -/
def State.dropJournal (s : State) (j : Nat) : State := s.setCore { s.core with journals := s.core.journals.filter (· ≠ j) }

/-- The session ends when every move is FREED or FAILED (R280); an abandoned one then detaches its journal (R296). -/
def State.endIfDone (s : State) (set : Nat) : State :=
  match s.session set false with
  | none => s
  | some x =>
    if x.moves.all fun m => 3 ≤ m.st then
      let n := fun (k : Nat) => (x.moves.filter fun m => m.st = k).length
      let s := (s.putSession x (if x.abandoned.isSome then 2 else 0)).endSession x
      let s := if x.abandoned.isSome then
          (s.updSet set fun y => { y with journal := 0 }).dropJournal x.journal
        else s
      let s := s.doneOpt x.done .ok 0
        (leBytes 4 (n 3) ++ leBytes 4 (n 4) ++ leBytes 4 x.steps ++ leBytes 4 x.lastEpoch)
      s.doneOpt x.abandoned .ok 0 []
    else s

/-- Moves of a set's session changed, written to its journal. -/
def State.mapMoves (s : State) (set : Nat) (f : Move → Move) : State :=
  match s.session set false with
  | none => s
  | some x =>
    let x := { x with moves := x.moves.map f }
    (s.setSession x).putSession x x.state

/-! ## The journal lost (R294) -/

/-- The journal region can be read and written. -/
def State.journalThere (s : State) (j : Nat) : Bool := s.populated j && s.populated (j + 127) && !s.poisoned j 128

/-- Discard the copies of a session that are not published: their targets are never used (R294, R296, R304). -/
def State.discardCopies (s : State) (y : Session) : State :=
  (y.moves.filter fun m => m.st = 1).foldl (fun s m =>
    let key := slotKey y.table m.slot
    s.updSet y.set fun x => { x with
      cP := if look x.cP key = some m.target then del x.cP key else x.cP
      sealed := x.sealed.map fun l => if look l key = some m.target then del l key else l }) s

/-- End a session whose journal is lost. -/
def State.faultSession (s : State) (x : Session) : State :=
  let s := s.discardCopies x
  let s := if s.populated x.journal then s.putSession x 3 else s
  ((s.endSession x).doneOpt x.done .faulted 0 []).doneOpt x.abandoned .faulted 0 []

/-- Sessions whose journal is no longer there end (R294). -/
def State.checkJournals (s : State) : State :=
  (s.core.sessions.filter fun x => !x.track && !s.journalThere x.journal).foldl (fun s x => s.faultSession x) s

/-! ## Epochs (R265-R268, R278) -/

/-- Seal: records taken after this point go to the epoch after P. -/
def State.seal (s : State) (set : Nat) : State :=
  s.updSet set fun x => { x with
    sealed := some x.cP, cP := [], sealedRecords := x.records, records := 0
    advance := x.advance.map fun a => { a with phase := 2, slots := x.cP.length } }

/-- Free the blocks an expired epoch held: reflow's go back to the host, others to the pool. -/
def TSet.freeOld (x : TSet) : TSet :=
  let mine : List Extent := (x.freeing.filter fun b => !b.host).map fun b => { tier := b.tier, addr := b.addr, bytes := b.bytes }
  let known := fun (b : Extent) => (x.pools ++ x.absorbed).any fun e => e.tier = b.tier && e.addr ≤ b.addr && b.addr + b.bytes ≤ e.addr + e.bytes
  { x with
    oldLive := false, freeing := []
    free := x.free ++ mine
    absorbed := x.absorbed ++ mine.filter fun b => !known b }

/-- Expire N - 1 when its conditions hold (R268), and let a deferred advance seal. -/
def State.expire (s : State) (set : Nat) : State :=
  match look s.core.sets set with
  | none => s
  | some x =>
    if !x.oldLive || s.now < x.flipAt + 1000 * x.retainUs || 0 < s.stampedWith set x.oldest then s else
    let s := s.updSet set TSet.freeOld
    let s := s.mapMoves set fun m => if m.st = 2 && m.flip = x.newest then { m with st := 3 } else m
    let s := s.endIfDone set
    if (x.advance.map fun a => a.phase == 1).getD false then s.seal set else s

/-- Blocks that the old epoch names and the new one does not (R264); `target`: the epoch that supersedes it. -/
def State.superseded (s : State) (set : Nat) (x : TSet) (target : Nat) : List FreeBlock :=
  let l := x.sealed.getD []
  let moved := (s.session set false).map fun y => (y.table, y.moves.filter fun m => m.st = 2 && m.flip = target)
  let kept := fun (base : Nat) => (l.any fun e => isLocal e.2 && baseOf e.2 = base) ||
    s.halfNames set x.newest base fun key => (look l key).isSome
  (l.filterMap fun (key, _) =>
    match look s.core.tables (tableKey set (keyTable key)) with
    | none => none
    | some t =>
      let old := s.mapEntry t (keySlot key) x.newest
      if isLocal old && !kept (baseOf old) then
        some { addr := baseOf old, bytes := t.block, tier := tierOf old
               host := (moved.map fun y => y.1 == keyTable key && y.2.any fun m => m.slot == keySlot key).getD false : FreeBlock }
      else none).eraseDups

/-- Halve a TRACK session's temperatures at a flip (R282). -/
def State.halveTemps (s : State) (set : Nat) : State :=
  match s.session set true with
  | none => s
  | some x =>
    match look s.core.tables (tableKey set x.table) with
    | none => s
    | some t => s.writeThrough x.temp ((s.bytes x.temp t.slots).map fun b => b / 2)

/-- Flip: P becomes newest, C_P becomes C_N (R266, Table 7.2). -/
def State.flipSet (s : State) (set : Nat) : State :=
  match look s.core.sets set with
  | none => s
  | some x =>
    match x.advance with
    | none => s
    | some a =>
      let freeing := s.superseded set x a.target
      let s := s.updSet set fun x => { x with
        newest := a.target, oldLive := true, flipAt := s.now, retainUs := a.retainUs
        cN := x.sealed.getD [], sealed := none, advance := none, freeing
        copies := x.copies.filter fun c => !((x.sealed.getD []).any fun e => baseOf e.2 == c.addr) }
      let s := s.halveTemps set
      let s := match s.session set false with
        | some y => s.setSession { y with lastEpoch := if y.moves.any fun m => m.flip = a.target then a.target else y.lastEpoch }
        | none => s
      let s := s.doneOpt a.done .ok 0
        (leBytes 4 a.target ++ zeros 4 ++ leBytes 8 s.now ++ leBytes 8 a.slots ++ leBytes 8 x.sealedRecords)
      (s.expire set).serveHeld set

/-! ## Retirement of superseded resources (R263) -/

/-- Zero a glen's lane stores and scratch (R333). -/
def State.zeroGlen (s : State) (g : Nat) : State :=
  let c := s.core
  s.setCore { c with
    scratch := zeroN c.scratch (glenAt g 0) (2 ^ 21), lanes := zeroN c.lanes (glenAt g 0) (2 ^ 21)
    lanePoison := c.lanePoison.filter fun k => k / 2 ^ 17 ≠ g
    scratchPoison := c.scratchPoison.filter fun k => k / 2 ^ 17 ≠ g
    owner := c.owner.filter fun o => o.1 / 64 ≠ g }

/-- Release what a profile no longer names. -/
def State.releaseProfile (s : State) (old new : Profile) : State :=
  let s := (old.glenList.filter fun g => !new.glens.getLsbD g).foldl State.zeroGlen s
  s.setCore { s.core with sync := s.core.sync.filter fun o => !(old.holdsSync o.1 && !new.holdsSync o.1) }

/-- A valley has let go of a region that a request retires (R195). -/
def State.channelFree (s : State) (v : Nat) (lpddr : Bool) (ch : Nat) : State :=
  match s.ext.retires.find? fun r => r.lpddr = lpddr && r.channel = ch with
  | none => s
  | some r =>
    let w := r.waiting.filter (· ≠ v)
    if w.isEmpty then
      let r8 := if lpddr then ch % 8 else ch % 16
      let s := { s with ext := { s.ext with
        retires := s.ext.retires.filter fun x => !(x.lpddr = lpddr && x.channel = ch)
        leaving := s.ext.leaving.filter fun x => !(x.1 = lpddr && x.2.1 = r8) } }
      let bytes := if r8 ∈ (if lpddr then s.ext.lpdGone else s.ext.hbmGone) then 0 else if lpddr then lpdRegionSize else hbmRegionSize
      ((s.retireChannel lpddr ch 0).checkJournals).done r.done .ok 0 (leBytes 1 r8 ++ zeros 7 ++ leBytes 8 bytes)
    else
      let rest := s.ext.retires.map fun x => if x.lpddr = lpddr && x.channel = ch then { x with waiting := w } else x
      { s with ext := { s.ext with retires := rest } }

/-- A table is gone: nothing listed for it is published any more, and copies made for it return to the pool. -/
def TSet.forget (x : TSet) (table : Nat) : TSet :=
  let gone := fun (e : Nat × Nat) => keyTable e.1 = table
  let y := ((x.cP ++ x.sealed.getD []).filter gone).foldl (fun (x : TSet) e => x.unuse e.2) x
  { y with cP := y.cP.filter fun e => !gone e, cN := y.cN.filter fun e => !gone e
           sealed := y.sealed.map fun (l : TMap Nat) => l.filter fun e => !gone e }

/-- Retire one superseded resource. -/
def State.retire (s : State) (v : Nat) (r : Retiring) : State :=
  let s := match r.what with
    | .handles => s
    | .graphVer c g n =>
      match s.graph (ctxKey v c) g with
      | some x => s.setGraph (ctxKey v c) g { x with vers := x.vers.filter fun y => y.num ≠ n }
      | none => s
    | .graph c g => s.updCtx (ctxKey v c) fun x => { x with graphs := del x.graphs g }
    | .table k =>
      let s := s.updSet (k / 1024) fun x => x.forget (k % 1024)
      let s := match s.session (k / 1024) false with
        | some y =>
          if y.table = k % 1024 then
            (s.mapMoves (k / 1024) fun m => if m.st < 2 then { m with st := 4 } else m).endIfDone (k / 1024)
          else s
        | none => s
      s.setCore { s.core with tables := del s.core.tables k }
    | .set x => s.setCore { s.core with
        sets := del s.core.sets x, tables := s.core.tables.filter fun t => t.1 / 1024 ≠ x
        sessions := s.core.sessions.filter fun y => y.set ≠ x }
    | .profile old new => s.releaseProfile old new
    | .scratch g => s.updGroup g fun x => { x with change := x.change.map fun (y : GroupChange) => { y with phase := 1 } }
    | .channel l c => s.channelFree v l c
  s.doneOpt r.done .ok 0 r.result

/-- Retire everything of valley v that no earlier request still needs, and expire its epochs. -/
def State.sweep (s : State) (v : Nat) : State :=
  let free := fun (r : Retiring) => !(s.core.reqs.any fun q => q.2.valley = v && q.2.stamp.bnd < r.bnd)
  let go := (s.valley v).retiring.filter free
  let s := s.updValley v fun x => { x with retiring := x.retiring.filter fun r => !free r }
  let s := go.foldl (fun s r => s.retire v r) s
  (s.core.sets.filter fun t => t.2.valley = v).foldl (fun s t => s.expire t.1) s

/-! ## Units that return (Table 18.4, step 5) -/

/-- The valley a glen, Creek or pipeline belongs to. -/
def State.unitValley (s : State) (u : UnitRef) : Option Nat :=
  match u.cls with
  | 1 => s.glenValley u.idx
  | 2 => s.glenValley (u.idx / 2)
  | 9 => (List.range 8).find? fun v => ((s.profile v).map fun p => p.cynPipes.getLsbD u.idx).getD false
  | _ => none

/-- A readmitted unit joins: its record, and READY when no unit remains retired. -/
def State.join (s : State) (r : Readmit) : State :=
  let u := r.unit
  let valley := (s.unitValley u).getD 0xFF
  let (s, seq) := s.stage { kind := 5, source := 0x0A, cls := u.cls, unit := u.idx, outcome := 4, valley, related := r.startSeq }
  let s := { s with flt := { s.flt with
    retired := s.flt.retired.filter (· ≠ u), readmits := s.flt.readmits.filter fun x => x.unit ≠ u } }
  let s := if u.cls = 1 then s.zeroGlen u.idx
    else if u.cls = 3 && !(s.flt.retired.any fun x => x.cls == 3 && x.idx / 4 == u.idx / 4) then
      (s.updGroup (u.idx / 4) fun g => { g with retired := false, scratch := false, owner := none, ways := [] }).enterCache (u.idx / 4)
    else if u.cls = 6 then { s with links := put s.links u.idx { lookD s.links u.idx {} with st := .disabled } }
    else s
  let s := s.event 0x0A 3 ((u.cls * 256 + u.idx) % 65536) (leBytes 8 seq) (s.unitValley u)
  let s := s.done r.done .ok 0 (leBytes 1 4 ++ zeros 7 ++ leBytes 8 seq)
  if s.dev.st = .degraded && s.flt.retired.isEmpty then s.enter .ready 0 else s

/-! ## Basin changes at a boundary (R149-R153) -/

/-- Valley v passes the boundary that a change of group g waits for. -/
def State.basinBoundary (s : State) (v g bnd : Nat) : State × Option Retiring :=
  match (s.group g).change with
  | none => (s, none)
  | some c =>
    let w := c.waiting.filter (· ≠ v)
    let c := { c with waiting := w }
    if !c.ways.isEmpty then
      let mask := lookD c.ways v 0
      let had := lookD (s.group g).ways v 0
      let added := (bitsOf mask 16).filter fun w => !bit had w
      let lost := (s.basin.lines.filter fun l => l.2.group = g && l.2.way ∈ added && l.2.valley ≠ v).map (·.1)
      let s := lost.foldl (fun s l => (s.writeBack l).dropLine l) s
      let s := s.updGroup g fun x => { x with ways := put x.ways v mask, change := if w.isEmpty then none else some c }
      (if w.isEmpty then s.done c.done .ok 0 [] else s, none)
    else if c.phase = 3 then
      let s := s.updGroup g fun x => { x with owner := some v, scratch := true, grant := bnd, revoke := none, change := none }
      (s.done c.done .ok 0 [], none)
    else if (s.group g).scratch then
      (s.updGroup g fun x => { x with revoke := some bnd, change := some c }, some { bnd, what := .scratch g })
    else if w.isEmpty then
      ((s.updGroup g fun x => { x with change := some { c with phase := 1 } }).leaveCache g, none)
    else (s.updGroup g fun x => { x with change := some c }, none)

/-! ## A boundary (R262) -/

def State.pushRetiring (s : State) (v : Nat) (r : Retiring) : State :=
  s.updValley v fun x => { x with retiring := x.retiring ++ [r] }

/-- One ready change of valley v applies at boundary count `bnd`. -/
def State.applyChange (s : State) (v bnd : Nat) (a : Armed) : State :=
  let bseq := (s.valley v).bseq.toNat
  match a.change with
  | .handles c addr n =>
    if (look s.core.ctxs (ctxKey v c)).isNone then s.doneOpt a.done .conflict 0 [] else
    let s := s.updCtx (ctxKey v c) fun x => { x with handles := some (addr, n) }
    s.pushRetiring v { bnd, what := .handles, done := a.done }
  | .graphStore c g =>
    match s.graph (ctxKey v c) g with
    | none => s.doneOpt a.done .conflict 0 []
    | some x =>
      let x := { x with current := some 1, vers := x.vers.map fun y => { y with actBseq := bseq } }
      let s := s.setGraph (ctxKey v c) g x
      let s := match x.ver 1 with | some y => s.writeVer (ctxKey v c) g x y 2 | none => s
      s.doneOpt a.done .ok 0 (leBytes 4 1 ++ leBytes 4 (((x.ver 1).map fun y => y.blocks.length).getD 0) ++ leBytes 8 x.freeBytes)
  | .graphActivate c g =>
    match s.graph (ctxKey v c) g with
    | none => s.doneOpt a.done .conflict 0 []
    | some x =>
      match x.pendingVer.bind x.ver with
      | none => s.doneOpt a.done .conflict 0 []
      | some y =>
        let y := { y with actBseq := bseq }
        let old := x.current
        let x := ({ x with current := some y.num, pendingVer := none, armed := false }).setVer y
        let s := (s.setGraph (ctxKey v c) g x).writeVer (ctxKey v c) g x y 2
        let s := match old.bind x.ver with
          | some o => (s.writeVer (ctxKey v c) g x o 3).pushRetiring v { bnd, what := .graphVer c g o.num }
          | none => s
        s.doneOpt a.done .ok 0 (leBytes 4 y.num)
  | .graphRetire c g =>
    match s.graph (ctxKey v c) g with
    | none => s.doneOpt a.done .ok 0 []
    | some x =>
      let s := s.setGraph (ctxKey v c) g { x with current := none, pendingVer := none }
      s.pushRetiring v { bnd, what := .graph c g, done := a.done }
  | .tableUsable k => s.updTable k fun t => { t with from_ := some bnd }
  | .tableGone k => (s.updTable k fun t => { t with until_ := some bnd }).pushRetiring v { bnd, what := .table k, done := a.done }
  | .setGone x =>
    let ks := (s.core.tables.filter fun t => t.1 / 1024 = x).map (·.1)
    (ks.foldl (fun s k => s.updTable k fun t => { t with until_ := some bnd }) s).pushRetiring v { bnd, what := .set x, done := a.done }
  | .flip x => s.flipSet x
  | .profile p =>
    match s.profile v with
    | none => s
    | some old =>
      let s := s.updValley v fun x => { x with profile := some { p with personality := old.personality } }
      s.pushRetiring v { bnd, what := .profile old p, done := a.done, result := leBytes 4 bseq }
  | .narrows b => (s.updValley v fun x => { x with narrows := b }).doneOpt a.done .ok 0 []
  | .personality p =>
    (s.updValley v fun x => { x with profile := x.profile.map fun q => { q with personality := p } }).doneOpt a.done .ok 0 (leBytes 4 bseq)
  | .checked c =>
    ({ s with flt := { s.flt with checked := put s.flt.checked v c } }).doneOpt a.done .ok 0 (leBytes 4 bseq)
  | .basin g =>
    let (s, r) := s.basinBoundary v g bnd
    match r with | some r => s.pushRetiring v r | none => s
  | .channel l c =>
    let s := { s with ext := { s.ext with leaving := s.ext.leaving ++ [(l, if l then c % 8 else c % 16, v, bnd)] } }
    s.pushRetiring v { bnd, what := .channel l c }
  | .readmit u =>
    match s.flt.readmits.find? fun r => r.unit = u with
    | none => s
    | some r =>
      let w := r.valleys.filter (· ≠ v)
      if w.isEmpty then s.join r
      else { s with flt := { s.flt with readmits := s.flt.readmits.map fun x => if x.unit = u then { x with valleys := w } else x } }

/-- A batch boundary of valley v: every ready change applies in one step. -/
def State.boundary (s : State) (v : Nat) : State :=
  let go := (s.valley v).changes.filter (·.ready)
  let s := s.updValley v fun x => { x with
    bseq := x.bseq + 1, bnd := x.bnd + 1, changes := x.changes.filter fun a => !a.ready }
  let bnd := (s.valley v).bnd
  (go.foldl (fun s a => s.applyChange v bnd a) s).sweep v

/-- A change of a stopped valley, or of one with no profile, gets its boundary at once (R261). -/
def State.boundaryIfStopped (s : State) (v : Nat) : State :=
  if ((s.valley v).st = .stopped || (s.valley v).st = .noProfile) && (s.valley v).changes.any (·.ready) then s.boundary v else s

/-- Arm a change (R262). -/
def State.arm (s : State) (v : Nat) (c : Change) (done : Option Deferred) (ready : Bool := true) : State :=
  s.updValley v fun x => { x with changes := x.changes ++ [{ change := c, ready, since := s.now, done }] }

/-- A change armed without readiness becomes ready. -/
def State.ready (s : State) (v : Nat) (c : Change) : State :=
  (s.updValley v fun x => { x with changes := x.changes.map fun a =>
    if a.change = c then { a with ready := true, since := s.now } else a }).boundaryIfStopped v

/-- The boundary itself (R262); what causes one (R261) has rows of its own. -/
def execBatchBoundary (valley : Nat) (s : State) : Out :=
  .next (if (s.valley valley).profile.isSome then s.boundary valley else s)

/-- AUTO_US passes since a change became ready with no boundary in between (R261). -/
def execBoundaryAutoTimer (valley : Nat) (s : State) : Out :=
  .next (match ((s.valley valley).changes.filter (·.ready)).map (·.since) with
    | [] => s
    | t :: ts =>
      if (s.valley valley).autoUs = 0 then s
      else (s.advanceTo (ts.foldl min t + 1000 * (s.valley valley).autoUs)).boundary valley)

/-- R268: the retention time of the set's old epoch passes. -/
def execEpochRetainExpire (set : Nat) (s : State) : Out :=
  .next (match look s.core.sets set with
    | none => s
    | some x => if x.oldLive then (s.advanceTo (x.flipAt + 1000 * x.retainUs)).expire set else s)

end Sys2Proof.Machine
end

