-- ==== Sys2Proof/Machine/Mailbox.lean ====
section
/-! DEFINITION. Mailbox registers and the staging of a configuration (02). -/
namespace Sys2Proof.Machine
open Sys2Proof

/-! ## Host-written indices (R77) -/

def execMbxDoorbellWrite (n : Nat) (value : W32) (s : State) : Out :=
  .next (if s.bar0 && n < 9 then
    let d : W16 := value.setWidth 16
    let k := (d - (s.box n).reqCons).toNat
    let s := s.updBox n fun b => { b with doorbell := d, reqIdxErr := k > 8 }
    if n = 8 && k ≤ 8 then { s with svc := { s.svc with order := Service.keep k s.svc.order } } else s
  else s)

def execMbxRspConsWrite (n : Nat) (value : W32) (s : State) : Out :=
  .next (if s.bar0 && n < 9 then
    let c : W16 := value.setWidth 16
    s.updBox n fun b => { b with rspCons := c, rspIdxErr := (b.rspProd - c).toNat > 8 }
  else s)

def execMbxNtfConsWrite (n : Nat) (value : W32) (s : State) : Out :=
  .next (if s.bar0 && n < 9 then
    let c : W16 := value.setWidth 16
    (s.updBox n fun b => { b with ntfCons := c, ntfIdxErr := (b.ntfProd - c).toNat > 16 }).flushNtf n
  else s)

/-- R78: an uncorrectable error in the slot being read. The response echoes OPCODE and TAG only
when the header read clean. -/
def execMbxRequestSlotError (n : Nat) (inHeader : Bool) (s : State) : Out :=
  let via : Via := { mbx := n, xport := .bar0 }
  .next (match s.nextRaw via with
    | none => s
    | some raw =>
      let (op, tag) := if inHeader then (0, 0) else (u16 raw 0, u16 raw 2)
      let s := s.error { source := 0, event := 2, cls := 0x0E, unit := n } [{ cls := 0x0E, idx := n }]
      (s.consume via).postRsp via 0 (message op tag St.checkFailed.code 0xFFFFFFFF []))

/-- R47 step 1, and the notification opcodes of step 4: the request's opcode is none that a request
may carry. -/
def execBadOpcodeRequest (via : Via) (s : State) : Out :=
  .next (match s.nextRaw via with
    | none => s
    | some raw =>
      let r := parseReq via raw
      if r.op ∈ requestOpcodes then s else
      let st : St :=
        if r.op < 0x0081 || 0x0084 < r.op then .badOpcode
        else if r.len % 4 ≠ 0 || r.len > 496 || r.pay.length ≠ r.len then .badLength
        else .denied
      (s.consume via).postRsp via (s.netSeq via) (message r.op r.tag st.code 0 []))

/-- Firmware runs and no control-core pair is halted (R75, R764). -/
def State.firmwareRuns (s : State) : Bool := s.fwRun && s.dev.st != .faultHold && s.tap.halted.isEmpty

def execMbxHeartbeatAdvance (s : State) : Out :=
  .next (if s.firmwareRuns then
    let s := s.advanceTo (s.dev.heartbeatAt + 1000000)
    { s with dev := { s.dev with heartbeat := s.dev.heartbeat + 1, heartbeatAt := s.now } }
  else s)

/-! ## Device-level messages -/

def devIdentify : Msg where
  op := 0x0001
  mark := .both
  cls := .q
  len := lenIs 0
  run := fun r s => Res.okay s
    (leBytes 4 s.devId.toNat ++ zeros 4 ++ leBytes 8 s.devCaps.toNat ++ leBytes 8 s.fuse.serial.toNat ++
     leBytes 4 (if s.dev.st = .faultHold then 0 else s.dev.fwVersion) ++
     leBytes 4 Config.romVersion.toNat ++ leBytes 2 1 ++ leBytes 2 496 ++ leBytes 2 s.dev.nodeId ++
     leBytes 1 r.via.mbx ++ leBytes 1 (b2n s.link.standalone) ++ zeros 4)

def execDevIdentify (via : Via) (s : State) : Out := serve devIdentify via s

def devPing : Msg where
  op := 0x0003
  mark := .both
  cls := .q
  len := fun _ _ => true
  run := fun r s => Res.okay s r.pay

def execDevPing (via : Via) (s : State) : Out := serve devPing via s

/-! ## Staging (R58-R60, R66, R70) -/

def State.setStaging (s : State) (g : Option Staging) : State := { s with dev := { s.dev with staging := g } }

/-- Bytes chunk `i` of a session carries (R59). -/
def Staging.chunkLen (g : Staging) (i : Nat) : Nat := if i + 1 = g.count then g.length - 448 * i else 448

/-- First chunk not stored. -/
def Staging.gap (g : Staging) : Option Nat := (List.range g.count).find? fun i => (look g.chunks i).isNone

def Staging.image (g : Staging) : Bytes := (List.range g.count).flatMap fun i => (look g.chunks i).getD []

/-- Field checks of a BEGIN: generation, image length, chunk count (Table 2.3). -/
def beginField (p : Bytes) (o lo : Nat) : Option Nat :=
  firstBad [(u32 p o = 0, o),
    (u32 p (o + 4) < lo || 1048576 < u32 p (o + 4) || u32 p (o + 4) % 4 ≠ 0, o + 4),
    (u32 p (o + 8) = 0 || 2341 < u32 p (o + 8), o + 8)]

/-- CONFIG_BEGIN. R58 and R70 give no order between ST_BUSY for another transport's session and the execution checks of
R58: DESIGN CHOICE, ST_BUSY comes first (log 92). -/
def configBegin : Msg where
  op := 0x0010
  mark := .dm
  cls := .c
  len := lenIs 16
  field := fun r _ => beginField r.pay 0 16
  run := fun r s =>
    if (s.dev.staging.map fun g => g.xport != r.via.xport).getD false then Res.fail s .busy
    else if u32 r.pay 0 ≤ s.dev.lastGen then Res.fail s .stale
    else if u32 r.pay 8 ≠ ceilDiv (u32 r.pay 4) 448 then Res.field s 8
    else Res.okay (s.setStaging (some
      { xport := r.via.xport, generation := u32 r.pay 0, length := u32 r.pay 4,
        count := u32 r.pay 8, crc := BitVec.ofNat 32 (u32 r.pay 12), idleFrom := s.now }))

def execConfigBegin (via : Via) (s : State) : Out := serve configBegin via s

/-- What a chunk does to its session: status, payload offset of a bad field, session (R59). -/
def Staging.store (g : Staging) (p : Bytes) : St × Nat × Staging :=
  let i := u32 p 4
  let d := p.drop 16
  if g.generation ≠ u32 p 0 then (.stale, 0, g)
  else if g.count ≤ i then (.badField, 4, g)
  else if u16 p 8 ≠ g.chunkLen i then (.badField, 8, g)
  else if (crc32c d).toNat ≠ u32 p 12 then (.checkFailed, 0, g)
  else match look g.chunks i with
  | none => (.ok, 0, { g with chunks := put g.chunks i d })
  | some e => if e = d then (.ok, 0, g)
              else (.conflict, 0, { g with mismatch := g.mismatch <|> some i })

/-- LENGTH of a chunk message: 16 + DATA_LENGTH, from 20 to 464 (R91). -/
def chunkMsgLen : Nat → Bytes → Bool := fun l p => 20 ≤ l && l ≤ 464 && l == 16 + u16 p 8

def configChunk : Msg where
  op := 0x0011
  mark := .dm
  cls := .c
  len := chunkMsgLen
  field := fun r _ => firstBad [(u32 r.pay 0 = 0, 0)]
  run := fun r s =>
    match s.dev.staging with
    | none => Res.fail s .conflict
    | some g =>
      if g.xport ≠ r.via.xport then Res.fail s .busy else
      let (st, o, g') := g.store r.pay
      { s := s.setStaging (some g'), st, detail := if st = .badField then 16 + o else 0 }

/-- A chunk of the session's generation from the transport that holds it restarts the idle time whatever its outcome
(Table 2.3), so before any check. -/
def State.chunkSeen (s : State) (via : Via) : State :=
  match s.nextRaw via, s.dev.staging with
  | some raw, some g =>
    let r := parseReq via raw
    if r.op = 0x0011 && via.mbx = 8 && g.xport = via.xport && 4 ≤ r.pay.length && u32 r.pay 0 = g.generation then
      { s with dev := { s.dev with staging := some { g with idleFrom := s.now } } }
    else s
  | _, _ => s

def execConfigChunk (via : Via) (s : State) : Out := serve configChunk via (s.chunkSeen via)

/-- Enter CONFIG_REJECTED, or stay there with a new reason (Table 2.5); CXL.cache and CXL.mem are disabled (R80). -/
def State.reject (s : State) (detail : Nat) : State :=
  let s := { s with link := { s.link with cxlEnabled := false } }
  if s.dev.st = .configRejected then { s with dev := { s.dev with rejectDetail := detail } }
  else s.enter .configRejected detail

/-- DETAIL of a rejection (R93). -/
def rejectCode (reason index : Nat) : Nat := reason + 65536 * min index 0xFFFF

/-- Steps 2 to 4 of R60: the reason a session fails. -/
def Staging.fails (g : Staging) (crc : Nat) : Option Nat :=
  match g.gap, g.mismatch with
  | some i, _ => some (rejectCode 1 i)
  | none, some i => some (rejectCode 2 i)
  | none, none =>
    if crc ≠ g.crc.toNat || crc ≠ (crc32c g.image).toNat then some (rejectCode 3 0) else none

def configCommit : Msg where
  op := 0x0012
  mark := .dm
  cls := .c
  len := lenIs 8
  field := fun r _ => firstBad [(u32 r.pay 0 = 0, 0)]
  run := fun r s =>
    match s.dev.staging with
    | none => Res.fail s .conflict
    | some g =>
      if g.xport ≠ r.via.xport then Res.fail s .busy
      else if g.generation ≠ u32 r.pay 0 then Res.fail s .conflict
      else match g.fails (u32 r.pay 4) with
      | some d => { s := s.setStaging none, st := .checkFailed, detail := d, after := fun s => s.reject d }
      | none =>
        let c : Commit := { image := g.image, generation := g.generation, done := some r.deferred }
        { s := { s with dev := { s.dev with staging := none, commit := some c } }, st := .pending,
          after := fun s => s.enter .configCheck 0 }

def execConfigCommit (via : Via) (s : State) : Out := serve configCommit via s

def configAbort : Msg where
  op := 0x0013
  mark := .dm
  cls := .c
  len := lenIs 4
  field := fun r _ => firstBad [(u32 r.pay 0 = 0, 0)]
  run := fun r s =>
    match s.dev.staging with
    | none => Res.okay s
    | some g =>
      if g.xport ≠ r.via.xport then Res.fail s .busy
      else if g.generation = u32 r.pay 0 then Res.okay (s.setStaging none) else Res.okay s

def execConfigAbort (via : Via) (s : State) : Out := serve configAbort via s

/-- CONFIG_READ. R91 gives no status for an INDEX beyond the accepted image: DESIGN CHOICE, ST_BAD_FIELD at INDEX (DETAIL
20), after the check of GENERATION (log 92). -/
def configRead : Msg where
  op := 0x0014
  mark := .dm
  cls := .q
  len := lenIs 8
  field := fun r _ => firstBad [(u32 r.pay 0 = 0, 0)]
  run := fun r s =>
    if u32 r.pay 0 ≠ s.dev.lastGen then Res.fail s .stale
    else
      let d := slice s.dev.acceptedImage (448 * u32 r.pay 4) 448
      if d.isEmpty then Res.field s 4 else Res.okay s (leBytes 2 d.length ++ zeros 2 ++ d)

def execConfigRead (via : Via) (s : State) : Out := serve configRead via s

/-- R66: 10 s of device time without a chunk close the session silently. -/
def execConfigStagingTimeout (s : State) : Out :=
  .next (match s.dev.staging with
    | none => s
    | some g => (s.advanceTo (g.idleFrom + 10000000000)).setStaging none)

end Sys2Proof.Machine
end

