-- ==== Sys2Proof/Machine/Security.lean ====
section
/-! DEFINITION. Owner authorisation, persistent settings, flash image updates, access masks and
attestation (19). The change of lifecycle is in Drain.lean, with the jobs it ends. -/
namespace Sys2Proof.Machine
open Sys2Proof

def State.setSec (s : State) (x : Sec) : State := { s with sec := x }

/-- Transport code of R726 and R749. -/
def xportCode : Xport → Nat
  | .bar0 => 0 | .twoWire => 1 | .network _ => 2

/-! ## Owner authorisation (R724, R742, R743) -/

/-- Evaluate the AUTH block at a payload offset under a key's hash: the nonce is consumed, and the
answer is the DETAIL of the failure. -/
def State.authorise (s : State) (r : Req) (off : Nat) (key : Option Bytes) : State × Option Nat :=
  let nonce := slice r.pay off 32
  let sig := slice r.pay (off + 32) 96
  let held := s.sec.nonces.find? fun n => n.1 = r.via.xport
  let s' := s.setSec { s.sec with nonces := s.sec.nonces.filter fun n => n.1 ≠ r.via.xport }
  let msg := leBytes 8 s.fuse.serial.toNat ++ leBytes 2 r.op ++ r.pay.take off ++ nonce
  (s', match held with
    | none => some 2
    | some (_, n, t) =>
      if n ≠ nonce || t + 60000000000 < s.now then some 2
      else match key with
      | some h => if Config.sigOk h msg sig then none else some 1
      | none => some 1)

/-- The owner key, while its hash passes its own check. -/
def State.ownerKey (s : State) : Option Bytes := if s.sec.ownerKeyOk then s.sec.ownerKeyHash else none

/-! ## Settings (R725-R728) -/

def otpSlots (setting : Nat) : Nat :=
  match setting with
  | 1 | 2 => 8
  | 3 => 4
  | 4 => 32
  | n => if 0x10 ≤ n && n ≤ 0x17 then 16 else 0

def State.otpSlot (s : State) (setting i : Nat) : Option OtpSlot := look s.sec.otp (setting * 256 + i)

/-- The last slot, counting up, that a test accepts. -/
def State.lastSlot (s : State) (setting : Nat) (ok : OtpSlot → Bool) : Option Nat :=
  (List.range (otpSlots setting)).foldl (fun d i =>
    if ((s.otpSlot setting i).map ok).getD false then some i else d) none

/-- The deciding slot of a setting (R727). -/
def State.otpDeciding (s : State) (setting : Nat) : Option Nat := s.lastSlot setting (·.valid)

/-- Effective VALUE of a setting. -/
def State.otpValue (s : State) (setting : Nat) : Option Bytes :=
  (s.otpDeciding setting).bind fun i => (s.otpSlot setting i).map (·.value)

/-- A valley's slot of DEFAULT_VALLEY_PROFILE that decides. -/
def State.otpProfile (s : State) (v : Nat) : Option Bytes :=
  ((s.lastSlot 4 fun e => e.valid && u8 e.value 0 = v).bind fun i => (s.otpSlot 4 i).map (·.value))

/-- The default profile of a valley, none where GLENS is 0 (R727). -/
def State.defaultProfile (s : State) (v : Nat) : Option Bytes :=
  match s.otpProfile v with
  | some b => if u32 b 4 = 0 then none else some b
  | none => none

/-- PERSONALITY 0 resolved (R476). -/
def State.resolvePersonality (s : State) (p : Nat) : Nat :=
  if p ≠ 0 then p else match s.otpValue 2 with
  | some b => u8 b 0
  | none => 84

/-- Physical lane of each logical lane 0-5 and the spare, from PASS_LANE_MAP. -/
def laneFields (v : Nat) : List Nat := (List.range 7).map fun i => v / 8 ^ i % 8

/-- VALUE lies in Table 19.3, bytes beyond the setting's length being zero. -/
def otpValid (setting : Nat) (v : Bytes) : Bool :=
  let tail (n : Nat) : Bool := (v.drop n).all (· == 0)
  match setting with
  | 1 => u8 v 0 ≤ 1 && tail 1
  | 2 => (u8 v 0 = 21 || u8 v 0 = 32 || u8 v 0 = 84) && tail 1
  | 3 => u8 v 0 ≤ 7 && tail 1
  | 4 => (profileRange v).isNone && (u32 v 4 = 0 || (profileEmpty v).isNone)
  | _ => u32 v 0 < 2 ^ 21 && tail 4 && (List.range 7).all (· ∈ laneFields (u32 v 0))

/-- Programming would not change the setting (R734 step 5). -/
def State.otpSame (s : State) (setting : Nat) (v : Bytes) : Bool :=
  if setting = 4 then s.otpProfile (u8 v 0) = some v else s.otpValue setting = some v

def slotBytes : Option OtpSlot → Bytes
  | none => zeros 40
  | some e => leBytes 1 (if e.valid then 1 else 2) ++ leBytes 1 e.writer ++ leBytes 1 e.lifecycle ++ zeros 1 ++
      leBytes 4 e.fwVersion ++ (if e.valid then fit 32 e.value else zeros 32)

/-- SUMMARY (Table 19.8). -/
def State.secSummary (s : State) (nonce : Bytes) : Bytes :=
  leBytes 1 s.sec.life.code ++ leBytes 1 (b2n s.sec.ownerKeyHash.isSome + 2 * b2n s.sec.voteCorrected) ++
  leBytes 1 s.sec.bootImage ++ leBytes 1 s.sec.bootFails.toNat ++ leBytes 4 s.sec.svnFloor ++
  fit 48 (s.sec.ownerKeyHash.getD []) ++ nonce ++ leBytes 2 s.sec.maskBar0.toNat ++
  leBytes 2 s.sec.maskTwoWire.toNat ++ leBytes 2 s.sec.maskNetwork.toNat ++ zeros 2

/-- A setting that names an absent Pass link. -/
def State.otpAbsent (s : State) (setting : Nat) : Bool :=
  0x10 ≤ setting && setting ≤ 0x17 && !s.hasPass (setting - 0x10)

def secOtpRead : Msg where
  op := 0x0B02
  mark := .dm
  cls := .q
  len := lenIs 4
  absent := fun r s => s.otpAbsent (u8 r.pay 0)
  field := fun r _ => firstBad [(u8 r.pay 0 ≠ 0 && otpSlots (u8 r.pay 0) = 0, 0)]
  run := fun r s =>
    let g := u8 r.pay 0
    if g = 0 then
      if s.dev.st = .faultHold then Res.okay s (s.secSummary (zeros 32))
      else
        let (n, s) := s.drawBytes 2 32
        let s := s.setSec { s.sec with
          nonces := (s.sec.nonces.filter fun x => x.1 ≠ r.via.xport) ++ [(r.via.xport, n, s.now)] }
        Res.okay s (s.secSummary n)
    else
      let n := min 12 (otpSlots g - u8 r.pay 1)
      let eff := if g = 4 then 255 else (s.otpDeciding g).getD 255
      Res.okay s (leBytes 1 (otpSlots g) ++ leBytes 1 eff ++ leBytes 1 (u8 r.pay 1) ++ leBytes 1 n ++
        (List.range n).flatMap fun i => slotBytes (s.otpSlot g (u8 r.pay 1 + i)))

def execSecOtpRead (via : Via) (s : State) : Out := serve secOtpRead via s

/-- From here a slot counts as used: BEGIN is set, and it is CONSUMED until COMMIT (R726, R740). -/
def State.beginSlot (s : State) (r : Req) (g i : Nat) : State :=
  let e : OtpSlot := {
    valid := true, writer := xportCode r.via.xport, lifecycle := s.sec.life.code
    fwVersion := s.dev.fwVersion, value := slice r.pay 4 32 }
  s.setSec { s.sec with
    otp := put s.sec.otp (g * 256 + i) { e with valid := false }
    otpProg := some { setting := g, slot := i, entry := e, done := r.deferred } }

def secOtpProgram : Msg where
  op := 0x0B03
  mark := .dm
  cls := .o
  len := lenIs 164
  absent := fun r s => (u8 r.pay 0 = 1 && !s.hasCxl) || s.otpAbsent (u8 r.pay 0)
  field := fun r _ => firstBad [(otpSlots (u8 r.pay 0) = 0, 0), (!otpValid (u8 r.pay 0) (slice r.pay 4 32), 4)]
  run := fun r s =>
    let g := u8 r.pay 0
    if s.sec.life.returned then Res.fail s .denied
    else if s.sec.otpProg.isSome then Res.fail s .busy
    else
      let (s, bad) := if s.sec.life.code = 2 then s.authorise r 36 s.ownerKey else (s, none)
      match bad with
      | some d => Res.fail s .checkFailed d
      | none =>
        if s.otpSame g (slice r.pay 4 32) then Res.okay s
        else match (List.range (otpSlots g)).find? fun i => (s.otpSlot g i).isNone with
        | none => Res.fail s .limitReached
        | some i => Res.pend (s.beginSlot r g i)

def execSecOtpProgram (via : Via) (s : State) : Out := serve secOtpProgram via s

/-- Programming ends, and the slot reads back VALID or not (R734). -/
def execOtpProgramDone (ok : Bool) (s : State) : Out :=
  .next (match s.sec.otpProg with
    | none => s
    | some p =>
      let s := s.setSec { s.sec with
        otpProg := none
        otp := put s.sec.otp (p.setting * 256 + p.slot) { p.entry with valid := ok } }
      if ok then
        (s.done p.done .ok 0 (leBytes 1 p.slot ++ leBytes 1 1)).event 0x0B 1 (p.setting * 256 + p.slot) [] none
      else s.done p.done .checkFailed 0 (leBytes 1 p.slot ++ leBytes 1 2))

/-! ## Flash images (R729, R732, R733, R739) -/

/-- The region an update writes: CONFIG, or the firmware region not running (R733, R748). -/
def State.updateRegion (s : State) (target : Nat) : Nat :=
  if target = 1 then 3 else if s.sec.bootImage = 1 then 2 else 1

def secFwUpdateBegin : Msg where
  op := 0x0B04
  mark := .dm
  cls := .o
  len := lenIs 20
  field := fun r _ =>
    let t := u8 r.pay 0
    let n := u32 r.pay 8
    firstBad [(1 < t, 0), (u32 r.pay 4 = 0, 4),
      (n % 4 ≠ 0 || (if t = 1 then n < 16 || 1048576 < n else n < 256 || 7340032 < n), 8),
      (u32 r.pay 12 ≠ ceilDiv n 448, 12)]
  run := fun r s =>
    if (s.sec.update.map fun g => g.xport != r.via.xport).getD false then Res.fail s .busy
    else
      let g : Staging := {
        xport := r.via.xport, generation := u32 r.pay 4, length := u32 r.pay 8, count := u32 r.pay 12
        crc := BitVec.ofNat 32 (u32 r.pay 16), idleFrom := s.now, target := u8 r.pay 0
        raiseFloor := bit (u8 r.pay 1) 0 }
      let s := s.setSec { s.sec with update := some g }
      Res.okay s (leBytes 1 (s.updateRegion (u8 r.pay 0)) ++ zeros 3)

def execSecFwUpdateBegin (via : Via) (s : State) : Out := serve secFwUpdateBegin via s

def secFwUpdateChunk : Msg where
  op := 0x0B05
  mark := .dm
  cls := .o
  len := chunkMsgLen
  field := fun r _ => firstBad [(u32 r.pay 0 = 0, 0)]
  run := fun r s =>
    match s.sec.update with
    | none => Res.fail s .conflict
    | some g =>
      if g.xport ≠ r.via.xport then Res.fail s .busy else
      let (st, o, g') := g.store r.pay
      let g' := if st = .stale then g' else { g' with idleFrom := s.now }
      { s := s.setSec { s.sec with update := some g' }, st, detail := if st = .badField then 16 + o else 0 }

/-- A chunk of the session's transport and generation restarts its idle time, whatever its outcome (Table 2.3, R732). -/
def State.updateSeen (s : State) (via : Via) : State :=
  match s.nextRaw via, s.sec.update with
  | some raw, some g =>
    let r := parseReq via raw
    if r.op = 0x0B05 && via.mbx = 8 && g.xport = via.xport && 4 ≤ r.pay.length && u32 r.pay 0 = g.generation then
      s.setSec { s.sec with update := some { g with idleFrom := s.now } }
    else s
  | _, _ => s

def execSecFwUpdateChunk (via : Via) (s : State) : Out := serve secFwUpdateChunk via (s.updateSeen via)

def vendorKeyHash : Bytes := (List.range 48).map Config.vendorKeyHashByte
def returnKeyHash : Bytes := (List.range 48).map Config.returnKeyHashByte

/-- MAGIC, FORMAT and SVN range of an Oananos image (R729 step 1, R737). -/
def fwFormat (b : Bytes) : Bool :=
  u32 b 0 = 0x534F4E41 && u16 b 4 = 1 && u32 b 16 % 4 = 0 && b.length = 256 + u32 b 16 && u32 b 12 ≤ 63

/-- Steps 2 and 3 of R729. -/
def fwKey (b : Bytes) : Bool := sha384 (slice b 64 96) = vendorKeyHash
def fwSigned (b : Bytes) : Bool :=
  Config.sigOk vendorKeyHash (b.take (160 + u32 b 16)) (slice b (160 + u32 b 16) 96)

/-- The image check of R733, with the DETAIL of the first failure. -/
def State.imageFails (s : State) (g : Staging) (b : Bytes) : Option Nat :=
  if g.target = 1 then
    if u32 b 0 = 0x4746434F && u16 b 4 = 1 && u32 b 8 = g.generation then none else some 0x0004
  else if !fwFormat b then some 0x0101
  else if !fwKey b then some 0x0102
  else if !fwSigned b then some 0x0103
  else if u32 b 12 < s.sec.svnFloor then some 0x0104
  else none

/-- GENERATION of a new directory entry (R733 step 3). -/
def State.nextFlashGen (s : State) (g : Staging) : Nat :=
  let gen := fun r => ((look s.sec.flash r).map (·.generation)).getD 0
  if g.target = 1 then g.generation else max (gen 1) (gen 2) + 1

def secFwUpdateCommit : Msg where
  op := 0x0B06
  mark := .dm
  cls := .o
  len := lenIs 8
  field := fun r _ => firstBad [(u32 r.pay 0 = 0, 0)]
  run := fun r s =>
    match s.sec.update with
    | none => Res.fail s .conflict
    | some g =>
      if g.xport ≠ r.via.xport || s.sec.flashCommit.isSome then Res.fail s .busy
      else if g.generation ≠ u32 r.pay 0 then Res.fail s .conflict
      else
        let s' := s.setSec { s.sec with update := none }
        match g.fails (u32 r.pay 4) with
        | some d => Res.fail s' .checkFailed (d % 65536)
        | none =>
          let b := g.image
          match s.imageFails g b with
          | some d => Res.fail s' .checkFailed d
          | none =>
            Res.pend (s'.setSec { s'.sec with flashCommit := some {
              target := s.updateRegion g.target
              image := { generation := s.nextFlashGen g, bytes := b, crcOk := true }
              raiseTo := if g.target = 0 && g.raiseFloor && s.sec.svnFloor < u32 b 12 then some (u32 b 12) else none
              done := r.deferred } })

def execSecFwUpdateCommit (via : Via) (s : State) : Out := serve secFwUpdateCommit via s

/-- The region, both directories and the floor are written (R733). -/
def execFlashCommitDone (s : State) : Out :=
  .next (match s.sec.flashCommit with
    | none => s
    | some c =>
      let s := s.setSec { s.sec with
        flashCommit := none
        flash := put s.sec.flash c.target c.image
        svnFloor := c.raiseTo.getD s.sec.svnFloor }
      s.done c.done .ok 0 (leBytes 1 c.target ++ zeros 3 ++ leBytes 4 c.image.generation ++ leBytes 4 s.sec.svnFloor))

def execFwUpdateSessionTimeout (s : State) : Out :=
  .next (match s.sec.update with
    | none => s
    | some g =>
      let s := s.advanceTo (g.idleFrom + 10000000000)
      s.setSec { s.sec with update := none })

/-! ## Access masks (R722, R741, R749) -/

/-- Transports of the current attach mode, by code. -/
def State.transports (s : State) : List Nat := if s.link.standalone then [1, 2] else [0, 1]

def State.maskOf (s : State) : Nat → W16
  | 0 => s.sec.maskBar0
  | 1 => s.sec.maskTwoWire
  | _ => s.sec.maskNetwork

/-- Some existing transport keeps bit 11 (R741). -/
def State.keepsSecurity (s : State) : Bool := s.transports.any fun t => (s.maskOf t).getLsbD 11

def State.setMask (s : State) (t m : Nat) : State :=
  let w : W16 := BitVec.ofNat 16 (m % 16384)
  match t with
  | 0 => s.setSec { s.sec with maskBar0 := w }
  | 1 => s.setSec { s.sec with maskTwoWire := w }
  | _ => s.setSec { s.sec with maskNetwork := w }

def secAccessSet : Msg where
  op := 0x0B07
  mark := .dm
  cls := .o
  len := lenIs 8
  field := fun r _ => firstBad [(2 < u8 r.pay 0, 0)]
  run := fun r s =>
    let s' := s.setMask (u8 r.pay 0) (u16 r.pay 2)
    if u8 r.pay 0 ∉ s.transports || !s'.keepsSecurity then Res.fail s .conflict else Res.okay s'

def execSecAccessSet (via : Via) (s : State) : Out := serve secAccessSet via s

/-! ## Attestation (R735, R736) -/

def sha384Zero : Bytes := zeros 48

def State.certChain (s : State) : Bytes :=
  (List.range (Config.certLength s.fuse.serial)).map (Config.certByte s.fuse.serial)

/-- The 658 bytes that measurement 4 digests. -/
def State.measuredSettings (s : State) : Bytes :=
  let v := fun g => fit 32 ((s.otpValue g).getD [])
  leBytes 1 s.sec.life.code ++ leBytes 1 s.sec.svnFloor ++ fit 48 (s.sec.ownerKeyHash.getD []) ++
  v 1 ++ v 2 ++ v 3 ++ ((List.range 8).flatMap fun n => fit 32 ((s.defaultProfile n).getD [])) ++
  ((List.range 8).flatMap fun n => if s.hasPass n then v (0x10 + n) else zeros 32)

/-- Digest of the ROM; the ROM's bytes are outside the spec. -/
def romDigest : Bytes := sha384 ((List.range 65536).map Config.romByte)

/-- Measurement `i`: index, value type and content (Table 19.6). -/
def State.measurement (s : State) (i : Nat) : Nat × Nat × Bytes :=
  match i with
  | 1 => (1, 0x00, romDigest)
  | 2 => (2, 0x01, if s.dev.st = .faultHold then sha384Zero else sha384 s.dev.fwImage)
  | 3 => (3, 0x03, if s.dev.acceptedImage.isEmpty then sha384Zero else sha384 s.dev.acceptedImage)
  | 4 => (4, 0x02, sha384 s.measuredSettings)
  | n => (n, 0x82, leBytes 1 s.pwr.dbgLevel ++ zeros 3)

/-- A signature by the device identity key: a free value over the message. -/
def State.deviceSign (s : State) (m : Bytes) : Bytes × State :=
  ((List.range 96).map (Config.deviceSigByte m s.free), { s with free := s.free + 1 })

/-- Answer the oldest MCTP request if the row serves it (R735, R805). -/
def State.spdm (s : State) (f : SpdmReq → Option (SpdmRsp × State)) : State :=
  match s.smb.mctpIn with
  | [] => s
  | (src, r) :: rest =>
    match f r with
    | none => s
    | some (x, t) => ({ t with smb := { t.smb with mctpIn := rest } }).sendMctp src x

def execSpdmGetVersion (s : State) : Out :=
  .next (s.spdm fun
    | .getVersion => some (.version [0x11, 0x12], s)
    | _ => none)

def execSpdmGetCapabilities (s : State) : Out :=
  .next (s.spdm fun
    | .getCapabilities => some (.capabilities true true true, s)
    | _ => none)

def execSpdmNegotiateAlgorithms (s : State) : Out :=
  .next (s.spdm fun
    | .negotiateAlgorithms p h => some (.algorithms p h, s)
    | _ => none)

def execSpdmGetDigests (s : State) : Out :=
  .next (s.spdm fun
    | .getDigests => some (.digests (sha384 s.certChain), s)
    | _ => none)

def execSpdmGetCertificate (s : State) : Out :=
  .next (s.spdm fun
    | .getCertificate slot o n =>
      if slot ≠ 0 || s.certChain.length < o then some (.errorInvalid, s)
      else
        let d := slice s.certChain o n
        some (.certificate 0 d (s.certChain.length - o - d.length), s)
    | _ => none)

def execSpdmChallenge (s : State) : Out :=
  .next (s.spdm fun
    | .challenge slot nonce =>
      if slot ≠ 0 then some (.errorInvalid, s)
      else
        let sum := sha384 (([1, 2, 3, 4, 5].map s.measurement).flatMap fun m => m.2.2)
        let (sig, s) := s.deviceSign (nonce ++ sum)
        some (.challengeAuth sum sig, s)
    | _ => none)

def execSpdmGetMeasurements (s : State) : Out :=
  .next (s.spdm fun
    | .getMeasurements i signed nonce =>
      let blocks := if i = 0xFF then [1, 2, 3, 4, 5].map s.measurement
        else if 1 ≤ i && i ≤ 5 then [s.measurement i] else []
      if i ≠ 0 && blocks.isEmpty then some (.errorInvalid, s)
      else if signed then
        let (sig, s) := s.deviceSign (nonce ++ blocks.flatMap fun m => m.2.2)
        some (.measurements blocks sig, s)
      else some (.measurements blocks [], s)
    | _ => none)

end Sys2Proof.Machine
end

