-- ==== Sys2Proof/Machine/Valleys.lean ====
section
/-! DEFINITION. Valleys: profiles, starting and stopping, Narrows (13), and contexts: creation,
teardown and queries. -/
namespace Sys2Proof.Machine
open Sys2Proof

/-! ## What lies where -/

/-- Save areas, arenas, pool ranges and journals of a valley: kind 0-3, address, bytes. -/
def State.claims (s : State) (v : Nat) : List (Nat × Nat × Nat) :=
  let cs := s.core.ctxs.filter fun c => c.1 / 128 = v
  let ts := s.core.sets.filter fun t => t.2.valley = v
  (cs.filterMap fun c => if c.2.saveBytes = 0 then none else some (0, c.2.saveAddr, c.2.saveBytes)) ++
  (cs.flatMap fun c => c.2.graphs.map fun g => (1, g.2.arena, g.2.bytes)) ++
  (ts.flatMap fun t => t.2.pools.map fun e => (2, e.addr, e.bytes)) ++
  (ts.filterMap fun t => if t.2.journal = 0 then none else
    some (3, t.2.journal, ((s.session t.1 false).map (·.journalBytes)).getD 128))

def State.claimed (s : State) (v a n : Nat) : Bool := (s.claims v).any fun c => overlaps a n c.2.1 c.2.2

/-- Entries a table shows: both halves that a live epoch reads, and the pending lists. -/
def State.entriesOf (s : State) (x : TSet) (k : Nat) (t : Table) : List Nat :=
  let es := [x.newest] ++ (if x.oldLive then [x.oldest] else [])
  ((List.range t.slots).flatMap fun i => es.map fun e => s.mapEntry t i e) ++
  ((x.cP ++ x.sealed.getD []).filter fun e => keyTable e.1 = k % 1024).map (·.2)

/-- A row, row map, default row of some table of the valley meets a range test. -/
def State.rowsMeet (s : State) (v : Nat) (blocks maps : Nat → Nat → Bool) : Bool :=
  s.core.tables.any fun t => match look s.core.sets (t.1 / 1024) with
    | none => false
    | some x => x.valley = v && (maps t.2.map (16 * t.2.slots) ||
        (t.2.dfltRow && maps t.2.dflt (t.2.stride + 4 * t.2.scales)) ||
        (s.entriesOf x t.1 t.2).any fun e => hasBlock e && blocks (baseOf e) t.2.block)

/-! ## Contexts -/

def State.ctxCount (s : State) (v : Nat) : Nat := (s.core.ctxs.filter fun c => c.1 / 128 = v).length

/-- Weight ranges share a unit (R482). -/
def Context.conflicts (a b : Context) : Bool :=
  a.wUnits ≠ 0 && b.wUnits ≠ 0 && a.wBase < b.wBase + b.wUnits && b.wBase < a.wBase + a.wUnits

def Context.pinned (c : Context) : Bool := c.saveBytes = 0

/-- Contexts of a valley whose lane weights may be in use. -/
def State.active (s : State) (v : Nat) : TMap Context :=
  s.core.ctxs.filter fun c => c.1 / 128 = v && c.2.st ≠ .swapped

/-- The lowest free run of scratch units (R513). -/
def State.scratchRun (s : State) (v n : Nat) : Option Nat :=
  let used := (s.core.ctxs.filter fun c => c.1 / 128 = v && c.2.scrUnits ≠ 0)
  (List.range (33 - n)).find? fun u => !used.any fun c => overlaps (u * 65536) (n * 65536) c.2.scrBase (c.2.scrUnits * 65536)

/-- Smallest save area for G glens (R486). -/
def saveMin (g : Nat) : Nat := 2097152 * g + 266240

def State.ctxField (s : State) (v : Nat) (p : Bytes) : Option Nat :=
  let g := ((s.profile v).map fun q => q.glenList.length).getD 0
  firstBad [(127 < u16 p 0, 0), (3 < u8 p 2, 2), (32 < u8 p 4, 4), (u8 p 4 * 32 < u16 p 6, 6), (63 < u8 p 8, 8),
    (64 < u8 p 8 + u8 p 9, 9), (u32 p 12 ≠ 0 && (u32 p 12 < 20 || 1000000 < u32 p 12), 12), (u64 p 16 % 4096 ≠ 0, 16),
    (u64 p 24 ≠ 0 && (u64 p 24 < saveMin g || 134217728 < u64 p 24 || u64 p 24 % 4096 ≠ 0), 24)]

/-- ST_CONFLICT of CTX_CREATE (R482, R513). -/
def State.ctxConflict (s : State) (v : Nat) (c : Context) (key : Nat) : Bool :=
  let live := s.core.ctxs.filter fun x => x.1 / 128 = v
  (s.profile v).isNone || (look s.core.ctxs key).isSome ||
  (!c.pinned && !(s.inPart v 1 c.saveAddr c.saveBytes || s.inPart v 2 c.saveAddr c.saveBytes)) ||
  (!c.pinned && s.claimed v c.saveAddr c.saveBytes) ||
  live.any fun x => (c.pinned || x.2.pinned) && c.conflicts x.2

def ctxCreate : Msg where
  op := 0x0110
  mark := .v
  cls := .o
  len := lenIs 40
  field := fun r s => s.ctxField r.via.mbx r.pay
  run := fun r s =>
    let v := r.via.mbx
    let key := ctxKey v (u16 r.pay 0)
    let c : Context := { create := r.pay, since := s.now }
    if s.ctxConflict v c key then Res.fail s .conflict
    else if ((s.profile v).map (·.ctxMax)).getD 0 ≤ s.ctxCount v || 1024 ≤ s.core.ctxs.length then Res.fail s .noResource
    else match s.scratchRun v c.scrUnits with
    | none => Res.fail s .noResource
    | some u =>
      let base := if c.scrUnits = 0 then 0xFFFFFFFF else u * 65536
      let free := !(s.active v).any fun x => c.conflicts x.2
      let c := { c with scrBase := base, st := if free then .resident else .swapped }
      let glens := ((s.profile v).map Profile.glenList).getD []
      let s := glens.foldl (fun s g =>
        s.zeroScratch g base (c.scrUnits * 65536)) s
      (Res.okay (s.setCore { s.core with ctxs := put s.core.ctxs key c }) (leBytes 4 base ++ zeros 4)).work r

def execCtxCreate (via : Via) (s : State) : Out := serve ctxCreate via s

/-- Zero the lane-store units a context wrote last (R328). -/
def State.zeroUnits (s : State) (v c : Nat) : State :=
  let glens := ((s.profile v).map Profile.glenList).getD []
  let mine := (s.core.owner.filter fun o => o.2 = c && o.1 / 64 ∈ glens).map (·.1)
  mine.foldl (fun s k =>
    let g := k / 64
    let o := k % 64 * 256
    let s := (List.range 128).foldl (fun s l => s.setCore { s.core with lanes := zeroN s.core.lanes (laneAt g l o) 256 }) s
    s.setCore { s.core with
      owner := del s.core.owner k
      lanePoison := s.core.lanePoison.filter fun x => !(x * 16 / 2 ^ 21 = g && x * 16 % 2 ^ 14 / 256 = k % 64) }) s

/-- A QUEUE_ERROR entry (Table 11.4b) and the record of R425. -/
def State.queueError (s : State) (cq index sq err detail valley : Nat) : State :=
  let entry : Due := { cq, kind := 3, a := index, b := some 0, c := sq, d := err, e := detail, status := 0x0D, held := false }
  let s := s.setCore { s.core with due := s.core.due ++ [entry] }
  s.error { source := 5, event := 0x0E, valley, index := err, addr := 0, syndrome := sq } []

/-- The USER SQs of a torn-down context stop (R426): unadmitted slots are discarded. -/
def State.stopUserSqs (s : State) (v c ended : Nat) : State :=
  (s.core.sqs.filter fun q => q.1 / 512 = v && !q.2.update && !q.2.kernel && q.2.ctx = c && q.2.st = 1).foldl (fun s q =>
    let s := s.updSq q.1 fun x => { x with st := 2, err := 4, cons := x.prod, chainOk := none, chained := false }
    s.queueError q.2.cq q.2.prod.toNat q.1 4 (min ended 0xFFFF) v) s

/-- Tear a context down (R505): reason 0 FAULT, 1 LIMIT, 2 DESTROY; the number of requests ended. A switch of the
context is abandoned: the triggers are tested again (R500). -/
def State.teardown (s : State) (v c reason seq : Nat) : State :=
  let key := ctxKey v c
  match look s.core.ctxs key with
  | none => s
  | some x =>
    let mine := fun (i : Nat) => ((look s.core.reqs i).map fun r => r.valley == v && r.ctx == c).getD false
    let ended := s.ctxInflight v c
    let s := s.dropReqs mine
    let s := s.setCore { s.core with remote := s.core.remote.filter fun m => match m.2.use with | .replay k _ => k ≠ key | _ => true }
    let s := (s.zeroUnits v c).stopUserSqs v c ended
    let glens := ((s.profile v).map Profile.glenList).getD []
    let s := if x.scrUnits = 0 then s else glens.foldl (fun s g =>
      s.zeroScratch g x.scrBase (x.scrUnits * 65536)) s
    let s := s.setCore { s.core with ctxs := del s.core.ctxs key }
    let bound := fun (y : Nat × CynCtx) => y.1 / 8 = v && u16 y.2.pay 2 = c
    let cs := s.cyn.ctxs.map fun (y : Nat × CynCtx) => if bound y then (y.1, { y.2 with st := 2 }) else y
    let s : State := { s with cyn := { s.cyn with ctxs := cs } }
    let d := leBytes 1 reason ++ zeros 3 ++ leBytes 4 ended ++ leBytes 8 seq
    ((s.event 1 1 (v * 256 + c) d (some v)).sweep v).resume

/-- A fault of scope CONTEXT: its record, and the teardown of the context. -/
def State.ctxFault (s : State) (v c : Nat) (e : FaultEv) (units : List UnitRef) : State :=
  let seq := s.flt.seqAt s.flt.staged.length
  (s.error { e with scope := 2, valley := v, ctx := c } units).teardown v c 0 seq

def ctxDestroy : Msg where
  op := 0x0111
  mark := .v
  cls := .d
  len := lenIs 4
  field := fun r _ => firstBad [(127 < u16 r.pay 0, 0)]
  run := fun r s =>
    let v := r.via.mbx
    let c := u16 r.pay 0
    if (look s.core.ctxs (ctxKey v c)).isNone then Res.okay s
    else if s.core.sqs.any fun q => q.1 / 512 = v && !q.2.update && !q.2.kernel && q.2.ctx = c then Res.fail s .conflict
    else { s, st := .pending, after := fun s => (s.teardown v c 2 0).done r.deferred .ok 0 [] }

def execCtxDestroy (via : Via) (s : State) : Out := serve ctxDestroy via s

def CtxState.code : CtxState → Nat
  | .resident => 1 | .swapped => 2 | .saving => 3 | .restoring => 3

def State.ctxBytes (s : State) (v c : Nat) : Bytes :=
  match look s.core.ctxs (ctxKey v c) with
  | none => zeros 80
  | some x =>
    let threads := (s.core.threads.filter fun t =>
      ((look s.core.reqs t.2.req).map fun r => r.valley == v && r.ctx == c).getD false).length
    let ns := x.residentNs + (if x.st = .resident then s.now - x.since else 0)
    leBytes 1 x.st.code ++ zeros 3 ++ leBytes 4 (s.ctxInflight v c) ++ leBytes 4 x.scrBase ++ leBytes 4 threads ++
    leBytes 8 x.switchesOut ++ leBytes 4 x.lastSave ++ leBytes 4 x.lastRestore ++ leBytes 8 ns ++ fit 40 x.create

def ctxQuery : Msg where
  op := 0x0112
  mark := .v
  cls := .q
  len := lenIs 4
  field := fun r _ => firstBad [(127 < u16 r.pay 0, 0)]
  run := fun r s => Res.okay s (s.ctxBytes r.via.mbx (u16 r.pay 0))

def execCtxQuery (via : Via) (s : State) : Out := serve ctxQuery via s

/-! ## Starting and stopping (R490-R493, R511) -/

def State.startValley (s : State) (v : Nat) : State :=
  s.updValley v fun x => { x with st := .running, bseq := 0, admitted := 0, switches := 0 }

def valleyStart : Msg where
  op := 0x0101
  mark := .dm
  cls := .o
  len := lenIs 4
  field := fun r _ => firstBad [(7 < u8 r.pay 0, 0)]
  run := fun r s =>
    let v := u8 r.pay 0
    let x := s.valley v
    match x.st with
    | .noProfile => Res.fail s .conflict
    | .running => Res.okay s
    | .stopped => Res.okay (s.startValley v)
    | .stopping =>
      if x.shut.held.isSome then Res.fail s .busy
      else Res.pend (s.updValley v fun x => { x with shut := { x.shut with held := some (r.deferred, r.pay) } })

def execValleyStart (via : Via) (s : State) : Out := serve valleyStart via s

def valleyStop : Msg where
  op := 0x0102
  mark := .dm
  cls := .d
  len := lenIs 8
  field := fun r _ => firstBad [(7 < u8 r.pay 0, 0), (60000 < u32 r.pay 4, 4)]
  run := fun r s =>
    let v := u8 r.pay 0
    let x := s.valley v
    match x.st with
    | .noProfile | .stopped => Res.okay s
    | .running => Res.pend (s.updValley v fun x => { x with
        st := .stopping, torn := 0, completed := 0, shut := { dones := [r.deferred], held := none }
        limit := if u32 r.pay 4 = 0 then none else some (s.now + 1000000 * u32 r.pay 4) })
    | .stopping =>
      { s := s.updValley v fun x => { x with shut := { dones := x.shut.dones ++ [r.deferred], held := none } }
        st := .pending
        after := fun s => match x.shut.held with
          | some h => s.done h.1 .conflict 0 []
          | none => s }

def execValleyStop (via : Via) (s : State) : Out := serve valleyStop via s

/-- R491 step 4, then the notifications of R68. -/
def execValleyStopDone (valley : Nat) (s : State) : Out :=
  .next (
    let x := s.valley valley
    if x.st = .stopping && s.inflight valley = 0 then
      let s := (s.updValley valley fun x => { x with st := .stopped, limit := none, shut := {} }).boundaryIfStopped valley
      let s := x.shut.dones.foldl (fun s d => s.done d .ok 0 (leBytes 4 x.torn ++ zeros 4 ++ leBytes 8 x.completed)) s
      match x.shut.held with
      | some h => (s.startValley valley).done h.1 .ok 0 []
      | none => s
    else s)

/-- Contexts of a valley that still hold a request. -/
def State.holders (s : State) (v : Nat) : List Nat :=
  ((s.core.ctxs.filter fun c => c.1 / 128 = v).map fun c => c.1 % 128).filter fun c => 0 < s.ctxInflight v c

def execValleyStopLimitExpire (valley : Nat) (s : State) : Out :=
  .next (
    let x := s.valley valley
    match x.st, x.limit with
    | .stopping, some t =>
      let s := s.advanceTo t
      let cs := s.holders valley
      let s := cs.foldl (fun s c => s.teardown valley c 1 0) s
      s.updValley valley fun x => { x with torn := x.torn + cs.length, limit := none }
    | _, _ => s)

/-! ## Profiles (R494, R495, R509) -/

/-- Every profile in force, armed or not yet released. -/
def State.profiles (s : State) : List (Nat × Profile) :=
  (List.range 8).flatMap fun v =>
    (match s.profile v with | some p => [(v, p)] | none => []) ++
    ((s.valley v).changes.filterMap fun a => match a.change with | .profile p => some (v, p) | _ => none) ++
    ((s.valley v).retiring.filterMap fun r => match r.what with | .profile o _ => some (v, o) | _ => none)

/-- The profile a valley will have once the changes armed for it have been applied. -/
def State.nextProfile (s : State) (v : Nat) : Option Profile :=
  (s.valley v).changes.foldl (fun p a => match a.change with | .profile q => some q | _ => p) (s.profile v)

/-- The personality a valley will run after every change armed. -/
def State.nextPersonality (s : State) (v : Nat) (p : Profile) : Nat :=
  (s.valley v).changes.foldl (fun x a => match a.change with | .personality y => y | _ => x) p.personality

/-- Regions by masks that a profile drops hold something live (R495). -/
def State.regionHeld (s : State) (v : Nat) (old new : Profile) : Bool :=
  let out := fun (a : Nat) => old.hasRegion a && !new.hasRegion a
  let gone := fun (a n : Nat) => out a || (n ≠ 0 && out (a + n - 1))
  let armed := (s.valley v).changes.any fun a => match a.change with | .handles _ addr n => gone addr (16 * n) | _ => false
  (s.claims v).any (fun c => gone c.2.1 c.2.2) || s.rowsMeet v gone gone ||
  (s.core.ctxs.any fun c => c.1 / 128 = v && (c.2.handles.map fun h => gone h.1 (16 * h.2)).getD false) || armed ||
  (s.core.journals.any fun j => gone j 64) ||
  (0 < s.basin.winSize && s.basin.winValley = v &&
    (List.range 16).any fun r => old.hbmRegions.getLsbD r && !new.hbmRegions.getLsbD r &&
      overlaps (hbmBase + s.basin.winOffset) s.basin.winSize (hbmBase + r * hbmRegionSize) hbmRegionSize)

/-- GB/s of one tier that the valleys sharing region r are owed; units of 1/5040 GB/s (R480). -/
def rateSum (lpddr : Bool) (r : Nat) (profs : List (Nat × Profile)) (narrows : Nat → Bytes) : Nat :=
  (profs.map fun (v, p) =>
    let n := if lpddr then p.lpdList.length else p.hbmList.length
    let has := if lpddr then p.lpdRegions.getLsbD r else p.hbmRegions.getLsbD r
    if has && !p.separate && n ≠ 0 then u16 (narrows v) (if lpddr then 8 else 0) * 720720 / n else 0).sum

def ratesOk (profs : List (Nat × Profile)) (narrows : Nat → Bytes) : Bool :=
  (List.range 16).all (fun r => rateSum false r profs narrows ≤ 192 * 720720) &&
  (List.range 8).all (fun r => rateSum true r profs narrows ≤ 41 * 720720)

/-- Narrows a valley will have after the changes already armed. -/
def State.narrowsOf (s : State) (v : Nat) : Bytes :=
  (s.valley v).changes.foldl (fun b a => match a.change with | .narrows n => n | _ => b) (s.valley v).narrows

def valleyProfileSet : Msg where
  op := 0x0104
  mark := .dm
  cls := .o
  len := lenIs 32
  absent := fun r s => s.profileAbsent (profileOf r.pay)
  field := fun r _ => profileField r.pay
  run := fun r s =>
    let v := u8 r.pay 0
    let p := profileOf r.pay
    let p := { p with personality := s.resolvePersonality p.personality }
    let others := s.profiles.filter fun e => e.1 ≠ v
    let outstanding := (s.valley v).changes.any (fun a => match a.change with | .profile _ => true | _ => false) ||
      (s.valley v).retiring.any (fun a => match a.what with | .profile _ _ => true | _ => false)
    let all := (v, p) :: (List.range 8).filterMap fun u => if u = v then none else (s.nextProfile u).map fun q => (u, q)
    if outstanding then Res.fail s .busy
    else if p.cynPipes ≠ 0 && p.personality ≠ 84 then Res.fail s .conflict
    else if others.any fun e => p.clashes e.2 then Res.fail s .conflict
    else if 64 < p.hwtShare + (((List.range 8).filter (· ≠ v)).map fun u =>
        max (((s.profile u).map (·.hwtShare)).getD 0) (((s.nextProfile u).map (·.hwtShare)).getD 0)).sum then
      Res.fail s .conflict
    else if !ratesOk all s.narrowsOf then Res.fail s .conflict
    else match s.profile v with
    | none =>
      { s := (s.updValley v fun x => { x with profile := some p, st := .stopped }).arm v (.profile p) (some r.deferred)
        st := .pending, after := fun s => s.boundaryIfStopped v }
    | some old =>
      if p.personality ≠ s.nextPersonality v old then Res.fail s .conflict
      else if p.ctxMax < s.ctxCount v then Res.fail s .conflict
      else if s.core.ctxs.any fun c => c.1 / 128 = v && !c.2.pinned && c.2.saveBytes < saveMin p.glenList.length then
        Res.fail s .conflict
      else if s.regionHeld v old p then Res.fail s .conflict
      else
        { s := s.arm v (.profile { p with personality := old.personality }) (some r.deferred)
          st := .pending, after := fun s => s.boundaryIfStopped v }

def execValleyProfileSet (via : Via) (s : State) : Out := serve valleyProfileSet via s

/-- Fields of NARROWS outside Table 13.3, from payload offset o. -/
def narrowsField (p : Bytes) : Option Nat :=
  firstBad [(7 < u8 p 0, 0), (4096 < u16 p 4 || (u16 p 6 ≠ 0 && u16 p 6 < u16 p 4), 4), (4096 < u16 p 6, 6),
    (u32 p 8 < 4 || 65536 < u32 p 8, 8), (546 < u16 p 12 || (u16 p 14 ≠ 0 && u16 p 14 < u16 p 12), 12),
    (546 < u16 p 14, 14), (u32 p 16 < 4 || 65536 < u32 p 16, 16)]

def narrowsSet : Msg where
  op := 0x0105
  mark := .dm
  cls := .o
  len := lenIs 20
  field := fun r _ => narrowsField r.pay
  run := fun r s =>
    let v := u8 r.pay 0
    let n := r.pay.drop 4
    let next := (List.range 8).filterMap fun u => (s.nextProfile u).map fun p => (u, p)
    match s.profile v with
    | none => Res.fail s .conflict
    | some p =>
      if p.separate then Res.fail s .conflict
      else if !ratesOk next (fun u => if u = v then n else s.narrowsOf u) then Res.fail s .conflict
      else { s := s.arm v (.narrows n) (some r.deferred), st := .pending, after := fun s => s.boundaryIfStopped v }

def execNarrowsSet (via : Via) (s : State) : Out := serve narrowsSet via s

/-! ## VALLEY_QUERY (R512) -/

def ValleyState.code : ValleyState → Nat
  | .stopped => 0 | .running => 1 | .stopping => 2 | .noProfile => 3

def State.valleyBytes (s : State) (v : Nat) : Bytes :=
  let x := s.valley v
  let changing := x.changes.any (fun a => match a.change with | .profile _ => true | _ => false) ||
    x.retiring.any (fun a => match a.what with | .profile _ _ => true | _ => false)
  let narrowing := x.changes.any (fun a => match a.change with | .narrows _ => true | _ => false)
  let res := (s.core.ctxs.filter fun c => c.1 / 128 = v && c.2.st = .resident).length
  let nar := match x.profile with
    | some p => if p.separate then zeros 20 else leBytes 1 v ++ zeros 3 ++ fit 16 x.narrows
    | none => zeros 20
  (match x.profile with | some p => profileBytes v p | none => zeros 32) ++
  leBytes 1 x.st.code ++ leBytes 1 (b2n changing + 2 * b2n narrowing) ++ zeros 2 ++ leBytes 4 x.bseq.toNat ++
  leBytes 1 (s.ctxCount v) ++ leBytes 1 res ++ zeros 2 ++ leBytes 4 (s.inflight v) ++ leBytes 8 x.admitted ++
  leBytes 8 x.switches ++ nar ++ zeros 4 ++ leBytes 8 x.throttledNs

def valleyQuery : Msg where
  op := 0x0103
  mark := .both
  cls := .q
  len := lenIs 4
  denied := fun r _ => r.via.mbx ≠ 8 && u8 r.pay 0 ≠ r.via.mbx
  field := fun r _ => firstBad [(7 < u8 r.pay 0, 0)]
  run := fun r s => Res.okay s (s.valleyBytes (u8 r.pay 0))

def execValleyQuery (via : Via) (s : State) : Out := serve valleyQuery via s

end Sys2Proof.Machine
end

