-- ==== Sys2Proof/Machine/Queues.lean ====
section
/-! DEFINITION. Submission and completion queues (11): creation, doorbells, completion entries,
interrupts, and the sync notify (R383, R409). -/
namespace Sys2Proof.Machine
open Sys2Proof

/-! ## Creation and destruction -/

/-- A ring of n bytes at a host physical address (R402, Table 11.2). -/
def State.ringBad (s : State) (a n : Nat) : Bool :=
  a % 4096 ≠ 0 || 2 ^ 46 < a + n || (!s.link.standalone && !rangeAll s.populated (hostBase + a) n)

def sqOf (p : Bytes) : Sq :=
  { update := u8 p 2 = 1, kernel := u8 p 3 = 1, ctx := u16 p 4, cq := u16 p 6, ring := u64 p 8, log2 := u8 p 16
    prio := u8 p 17, weight := u8 p 18, maxIn := if u16 p 20 = 0 then 65535 else u16 p 20 }

def sqCreate : Msg where
  op := 0x0501
  mark := .v
  cls := .o
  len := lenIs 24
  denied := fun r _ => u16 r.pay 0 / 512 ≠ r.via.mbx || u16 r.pay 6 / 512 ≠ r.via.mbx
  field := fun r s =>
    let p := r.pay
    let cmd := u8 p 2 = 0
    firstBad [(1 < u8 p 2, 2), (cmd && 1 < u8 p 3, 3),
      (s.ringBad (u64 p 8) (2 ^ (min 15 (u8 p 16)) * 128), 8), (u8 p 16 < 4 || 15 < u8 p 16, 16),
      (cmd && 3 < u8 p 17, 17), (cmd && (u8 p 18 = 0 || 16 < u8 p 18), 18)]
  run := fun r s =>
    let q := sqOf r.pay
    if s.link.standalone || !s.link.cxlActive then Res.fail s .conflict
    else if (look s.core.sqs (u16 r.pay 0)).isSome || (look s.core.cqs q.cq).isNone then Res.fail s .conflict
    else if !q.update && !q.kernel && (look s.core.ctxs (ctxKey r.via.mbx q.ctx)).isNone then Res.fail s .conflict
    else Res.okay (s.setCore { s.core with sqs := put s.core.sqs (u16 r.pay 0) q })

def execSqCreate (via : Via) (s : State) : Out := serve sqCreate via s

/-- A destroyed SQ is gone once its last admitted request has posted (R422). -/
def State.endSq (s : State) (q : Nat) : State :=
  match look s.core.sqs q with
  | some x =>
    if x.st = 3 && x.inflight = 0 then (s.setCore { s.core with sqs := del s.core.sqs q }).doneOpt x.done .ok 0 [] else s
  | none => s

def sqDestroy : Msg where
  op := 0x0502
  mark := .v
  cls := .d
  len := lenIs 4
  denied := fun r _ => u16 r.pay 0 / 512 ≠ r.via.mbx
  run := fun r s =>
    match look s.core.sqs (u16 r.pay 0) with
    | none => Res.okay s
    | some q =>
      if q.st = 3 then Res.fail s .busy
      else
        let n := u16 r.pay 0
        let s := s.updValley r.via.mbx fun v => { v with chainDue := v.chainDue.erase n }
        { s := s.updSq n fun x => { x with st := 3, cons := x.prod, done := some r.deferred }
          st := .pending, after := fun s => s.endSq n }

def execSqDestroy (via : Via) (s : State) : Out := serve sqDestroy via s

def cqOf (p : Bytes) : Cq :=
  { log2 := u8 p 2, vector := u16 p 4, count := max 1 (u16 p 6), ns := u32 p 8, ring := u64 p 16 }

def cqCreate : Msg where
  op := 0x0503
  mark := .v
  cls := .o
  len := lenIs 24
  denied := fun r _ => u16 r.pay 0 / 512 ≠ r.via.mbx
  field := fun r s =>
    let p := r.pay
    firstBad [(u8 p 2 < 4 || 16 < u8 p 2, 2), (u16 p 4 ≠ 0xFFFF && (u16 p 4 < 9 || 2047 < u16 p 4), 4), (256 < u16 p 6, 6),
      (1000000 < u32 p 8, 8), (s.ringBad (u64 p 16) (2 ^ (min 16 (u8 p 2)) * 16), 16)]
  run := fun r s =>
    let q := cqOf r.pay
    if s.link.standalone || !s.link.cxlActive || (look s.core.cqs (u16 r.pay 0)).isSome then Res.fail s .conflict
    else
      let s := { s with mem := zeroN s.mem (hostBase + q.ring) (2 ^ q.log2 * 16) }
      (Res.okay (s.setCore { s.core with cqs := put s.core.cqs (u16 r.pay 0) q })).work r

def execCqCreate (via : Via) (s : State) : Out := serve cqCreate via s

/-- Objects armed for a CQ are disarmed, and notifies that wait for it are dropped (R423). -/
def State.dropNotifies (s : State) (q : Nat) : State :=
  let waiting := (s.core.due.filter fun d => d.cq = q && d.kind = 1).map fun d => d.c + 65536 * d.d
  s.setCore { s.core with
    due := s.core.due.filter fun d => d.cq ≠ q
    sync := s.core.sync.map fun o =>
      if (o.2.armed && o.2.ctrl.toNat % 4096 = q) || o.1 ∈ waiting then (o.1, { o.2 with armed := false, notifyErr := true }) else o }

def cqDestroy : Msg where
  op := 0x0504
  mark := .v
  cls := .d
  len := lenIs 4
  denied := fun r _ => u16 r.pay 0 / 512 ≠ r.via.mbx
  run := fun r s =>
    let q := u16 r.pay 0
    if (look s.core.cqs q).isNone then Res.okay s
    else if s.core.sqs.any fun x => x.2.cq = q then Res.fail s .conflict
    else
      let s := s.dropNotifies q
      Res.okay (s.setCore { s.core with cqs := del s.core.cqs q })

def execCqDestroy (via : Via) (s : State) : Out := serve cqDestroy via s

/-- A local address that a valley's tables and images may lie at: its regions, or host memory. -/
def State.storage (s : State) (v a n : Nat) : Bool :=
  s.inTier v 2 a n || s.inTier v 3 a n || (inHost a && inHost (a + n - 1) && rangeAll s.populated a n)

def handleTableSet : Msg where
  op := 0x0505
  mark := .v
  cls := .o
  len := lenIs 16
  field := fun r s => firstBad [(127 < u16 r.pay 0, 0), (u32 r.pay 4 = 0 || 1048576 < u32 r.pay 4, 4),
    (!s.storage r.via.mbx (u64 r.pay 8) (16 * u32 r.pay 4), 8)]
  run := fun r s =>
    let v := r.via.mbx
    if (look s.core.ctxs (ctxKey v (u16 r.pay 0))).isNone then Res.fail s .conflict
    else
      { s := s.arm v (.handles (u16 r.pay 0) (u64 r.pay 8) (u32 r.pay 4)) (some r.deferred)
        st := .pending, after := fun s => s.boundaryIfStopped v }

def execHandleTableSet (via : Via) (s : State) : Out := serve handleTableSet via s

def State.queueBytes (s : State) (q ty : Nat) : Bytes :=
  if ty = 0 then match look s.core.sqs q with
    | none => zeros 32
    | some x => leBytes 1 x.st ++ leBytes 1 x.err ++ leBytes 2 x.cq ++ leBytes 4 x.prod.toNat ++ leBytes 4 x.cons.toNat ++
        leBytes 4 x.inflight ++ leBytes 8 x.admitted ++ leBytes 4 x.spurious ++ leBytes 4 x.stalls
  else match look s.core.cqs q with
    | none => zeros 32
    | some x => leBytes 1 x.st ++ leBytes 1 (x.err + 128 * b2n x.corrupt) ++
        leBytes 2 (s.core.sqs.filter fun y => y.2.cq = q).length ++ leBytes 4 x.tail.toNat ++ leBytes 4 x.head.toNat ++
        leBytes 4 x.reserved ++ leBytes 8 x.posted ++ leBytes 4 x.irqs ++ leBytes 4 x.notifyWaits

def queueQuery : Msg where
  op := 0x0509
  mark := .v
  cls := .q
  len := lenIs 4
  denied := fun r _ => u16 r.pay 0 / 512 ≠ r.via.mbx
  field := fun r _ => firstBad [(1 < u8 r.pay 2, 2)]
  run := fun r s => Res.okay s (s.queueBytes (u16 r.pay 0) (u8 r.pay 2))

def execQueueQuery (via : Via) (s : State) : Out := serve queueQuery via s

/-! ## Doorbells (R407, R418-R421, R425) -/

def execCfeSqDoorbellWrite (q : Nat) (value : W32) (s : State) : Out :=
  .next (match look s.core.sqs q with
    | none => s
    | some x =>
      if !s.bar0 || x.st = 3 then s
      else if 2 ^ x.log2 < (value - x.cons).toNat then
        let s1 := s.updSq q fun x => { x with prod := value, pending := true, st := 2, err := if x.err = 0 then 1 else x.err }
        if x.st = 1 then s1.queueError x.cq value.toNat q 1 0 (q / 512) else s1
      else
        let done := (x.st = 1 || x.err = 1) && value = x.cons
        s.updSq q fun x => { x with
          prod := value, pending := !done
          spurious := x.spurious + b2n (done && x.st = 1 && x.prod = x.cons)
          st := if x.err = 1 then 1 else x.st, err := if x.err = 1 then 0 else x.err
          readySince := if value = x.cons then none else x.readySince <|> some s.now })

/-- Send the interrupt of a CQ and disarm it (R412). -/
def State.fireCq (s : State) (q : Nat) : State :=
  match look s.core.cqs q with
  | none => s
  | some x =>
    let s := s.updCq q fun x => { x with armed := false, firstAt := none, irqs := x.irqs + 1 }
    if x.vector = 0xFFFF then s else s.msix x.vector

def Cq.unread (x : Cq) : Nat := (x.tail - x.head).toNat

/-- An armed CQ fires once it has enough unread entries, or any when its time since the first has passed (R412). -/
def State.countFire (s : State) (q : Nat) : State :=
  match look s.core.cqs q with
  | some x =>
    let due := (x.firstAt.map fun t => decide (t + x.ns ≤ s.now)).getD false
    if x.armed && (x.count ≤ x.unread || (due && x.unread ≠ 0)) then s.fireCq q else s
  | none => s

def execCfeCqHeadWrite (q : Nat) (value : W32) (s : State) : Out :=
  .next (match look s.core.cqs q with
    | none => s
    | some x =>
      if !s.bar0 || x.err = 3 then s
      else if x.unread < (value - x.head).toNat then
        let s1 := s.updCq q fun x => { x with st := 2, err := 5 }
        if x.st = 1 then s1.queueError q value.toNat 0xFFFF 5 0 (q / 512) else s1
      else s.updCq q fun x => { x with head := value, st := 1, err := 0 })

def execCfeCqArmWrite (q : Nat) (value : W32) (s : State) : Out :=
  .next (match look s.core.cqs q with
    | none => s
    | some _ =>
      if !s.bar0 || !value.getLsbD 0 then s
      else (s.updCq q fun x => { x with armed := true, firstAt := none }).countFire q)

def execCqCoalesceTimer (q : Nat) (s : State) : Out :=
  .next (match look s.core.cqs q with
    | none => s
    | some x => match x.armed, x.firstAt with
      | true, some t => if x.unread = 0 then s else (s.advanceTo (t + x.ns)).fireCq q
      | _, _ => s)

/-! ## Completion entries (R405, R409-R411) -/

def Cq.size (x : Cq) : Nat := 2 ^ x.log2

/-- An entry neither filled nor reserved. -/
def Cq.spare (x : Cq) : Bool := x.unread + x.reserved < x.size

/-- The first entry due on a CQ that may be posted now, of SYNC kind or of the others. A completion follows the writes of
its request's context that the host has still to make way for (R30, R148). -/
def State.nextDue (s : State) (q : Nat) (x : Cq) (sync : Bool) : Option Due :=
  s.core.due.find? fun d => d.cq = q && (d.kind == 1) == sync && (d.held || x.spare) && !((d.req.map s.writesPend).getD false) &&
    !(d.kind = 2 && s.writesHeld (q / 512) 0xFFFF)

/-- The 16 bytes of an entry. -/
def State.entryBytes (s : State) (x : Cq) (d : Due) : Bytes :=
  let cons := ((look s.core.sqs d.c).map fun q => q.cons.toNat).getD 0
  let phase := 1 - x.tail.toNat / x.size % 2
  leBytes 4 d.a ++ leBytes 4 (d.b.getD cons) ++ leBytes 2 d.c ++ leBytes 2 d.d ++ leBytes 2 d.e ++
    leBytes 1 d.status ++ leBytes 1 (phase + 2 * d.kind + 8 * b2n d.wrote)

/-- What a posted completion frees: the request, then what waited for its end. -/
def State.posted (s : State) (d : Due) : State :=
  match d.req.bind (look s.core.reqs) with
  | none => s
  | some r =>
    let s := (s.release (d.req.getD 0)).sweep r.valley
    match r.origin with
    | .sq q => s.endSq q
    | .net _ _ => s

/-- The write of an entry fails: error 3; completions reserved there are lost (R425, R427). -/
def State.cqFails (s : State) (q : Nat) : State :=
  let lost := s.core.due.filter fun d => d.cq = q && d.kind ≠ 1
  let s := s.updCq q fun x => { x with st := 2, err := 3, corrupt := true, reserved := 0 }
  let s := s.setCore { s.core with due := s.core.due.filter fun d => !(d.cq = q && d.kind ≠ 1) }
  let s := s.error { source := 5, event := 0x0E, valley := q / 512, index := 3, syndrome := q } []
  lost.foldl State.posted s

/-- Post one entry of a CQ (R410). -/
def State.postEntry (s : State) (q : Nat) (sync : Bool) : State :=
  match look s.core.cqs q with
  | none => s
  | some x =>
    if x.corrupt then
      match s.core.due.find? fun d => d.cq = q && d.kind ≠ 1 with
      | some d => (s.setCore { s.core with due := s.core.due.erase d }).posted d
      | none => s
    else if x.st ≠ 1 || s.pwr.d3hot || s.dev.st = .standby then s else
    match s.nextDue q x sync with
    | none => s
    | some d =>
      let a := hostBase + x.ring + (x.tail.toNat % x.size) * 16
      if !s.populated a || !s.link.up then s.cqFails q else
      let s := s.writeThrough a (s.entryBytes x d)
      let s := s.setCore { s.core with due := s.core.due.erase d }
      let s := s.updCq q fun x => { x with
        tail := x.tail + 1, posted := x.posted + 1, reserved := x.reserved - b2n d.held
        firstAt := if x.armed then x.firstAt <|> some s.now else none }
      let s := if d.kind = 1 then
          let g := d.c + 65536 * d.d
          s.setObj g { s.obj g with fired := true }
        else s
      (s.posted d).countFire q

def execCqEntryPost (q : Nat) (s : State) : Out := .next (s.postEntry q false)
def execSyncNotifyPost (q : Nat) (s : State) : Out := .next (s.postEntry q true)

/-! ## Sync object registers (R381, R383, R389-R396) -/

/-- An object's registers act: it has a valley, it is not in transit, BAR0 reaches it. -/
def State.syncWritable (s : State) (g : Nat) : Bool :=
  s.bar0 && s.dev.st != .faultHold && (s.syncValley g).isSome && !s.inTransit g

/-- Bytes written to an 8-byte register at its low half: 8, or 4 zero-extended; the high half alone
sets SIZE_ERR (R391). -/
def State.syncWrite (s : State) (g : Nat) (high : Bool) (f : State → State) : State :=
  if !s.syncWritable g then s
  else if high then s.setObj g { s.obj g with sizeErr := true }
  else f s

def execSynAddWrite (obj : Nat) (value : W64) (high : Bool) (s : State) : Out :=
  .next (s.syncWrite obj high fun s => (s.syncAdd obj value).1)

def execSynSetWrite (obj : Nat) (value : W64) (high : Bool) (s : State) : Out :=
  .next (s.syncWrite obj high fun s => s.syncSet obj value)

def execSynNotifyAtWrite (obj : Nat) (value : W64) (high : Bool) (s : State) : Out :=
  .next (s.syncWrite obj high fun s => (s.setObj obj { s.obj obj with notifyAt := value }).fireNotify obj)

/-- NOTIFY_CQ must belong to the object's valley (R383). -/
def execSynArmWrite (obj : Nat) (value : W32) (s : State) : Out :=
  .next (
    let o := s.obj obj
    let cq := o.ctrl.toNat % 4096
    if !s.syncWritable obj || !value.getLsbD 0 then s
    else if s.syncValley obj = some (cq / 512) && (look s.core.cqs cq).isSome then
      (s.setObj obj { o with armed := true }).fireNotify obj
    else s.setObj obj { o with armed := false, notifyErr := true })

end Sys2Proof.Machine
end

