-- ==== Sys2Proof/Machine/Commands.lean ====
section
/-! DEFINITION. Admission of commands (R407-R421, R437-R453): arbitration, the checks of R448, stamps,
relocation, request areas and chains. -/
namespace Sys2Proof.Machine
open Sys2Proof

/-! ## Command slots (R437, R438) -/

/-- A command as its slots give it. -/
structure Cmd where
  op : Nat
  flags : Nat
  ncont : Nat
  nhandle : Nat
  tag : Nat
  ctx : Nat
  inlineLen : Nat
  arg : Nat
  inline : Bytes
  /-- A continuation slot is wrong, or has a reserved bit set. -/
  contBad : Bool
  contReserved : Bool
deriving DecidableEq, Repr

/-- Slot i of an SQ ring. -/
def State.slot (s : State) (q : Sq) (i : Nat) : Bytes := s.bytes (hostBase + q.ring + i % 2 ^ q.log2 * 128) 128

/-- Slots a command takes (R448, steps 1 and 2). -/
def slotsOf (first : Bytes) : Nat := if 8 < u8 first 2 then 1 else 1 + u8 first 2

def State.command (s : State) (q : Sq) : Cmd :=
  let h := s.slot q q.cons.toNat
  let n := slotsOf h - 1
  let cs := (List.range n).map fun i => s.slot q (q.cons.toNat + i + 1)
  { op := u8 h 0, flags := u8 h 1, ncont := u8 h 2, nhandle := u8 h 3, tag := u32 h 4, ctx := u16 h 8
    inlineLen := u16 h 10, arg := u32 h 12
    inline := (h.drop 16 ++ cs.flatMap fun c => c.drop 16).take (u16 h 10)
    contBad := (List.range n).any fun i =>
      let c := cs.getD i []
      u8 c 0 ≠ 0x7F || u8 c 1 ≠ i + 1 || u32 c 4 ≠ u32 h 4
    contReserved := cs.any fun c => u16 c 2 ≠ 0 || u64 c 8 ≠ 0 }

def Cmd.chain (c : Cmd) : Bool := bit c.flags 0
def Cmd.always (c : Cmd) : Bool := bit c.flags 1
def Cmd.set (c : Cmd) : Bool := bit c.flags 2

/-- Malformed whatever its OP (R448, step 3). -/
def Cmd.malformed (c : Cmd) : Bool :=
  8 ≤ c.flags || (c.set && c.op ≠ 3) || c.contReserved || 1008 < c.inlineLen || 32 < c.nhandle ||
  c.ncont ≠ ceilDiv c.inlineLen 112 - 1 || c.inlineLen < 4 * c.nhandle

/-! ## Readiness and choice (R413, R416, R419, R421, R449, R483) -/

/-- Request areas of a context in use. -/
def State.areas (s : State) (v c : Nat) : List Nat :=
  s.core.reqs.filterMap fun r => if r.2.valley = v && r.2.ctx = c then r.2.area else none

def State.freeArea (s : State) (v c : Nat) : Option Nat :=
  match look s.core.ctxs (ctxKey v c) with
  | some x => (List.range x.raCount).find? fun k => k ∉ s.areas v c
  | none => none

/-- Context a command would run in. -/
def Sq.ctxFor (q : Sq) (c : Cmd) : Nat := if q.kernel then c.ctx else q.ctx

/-- The valley admits now (R94, R109, R421, R490). -/
def State.admits (s : State) (v : Nat) : Bool :=
  s.serving && (s.valley v).st = .running && s.inflight v < s.inflightLimit v

/-- An SQ whose ring can be read, with all slots of its next command covered (R419). -/
def State.hasCommand (s : State) (q : Sq) : Bool :=
  !q.update && q.st = 1 && !q.chained && slotsOf (s.slot q q.cons.toNat) ≤ (q.prod - q.cons).toNat && q.prod ≠ q.cons

/-- The context lets its command in: it is resident, with an area for a LAUNCH. -/
def State.ctxReady (s : State) (v : Nat) (q : Sq) (c : Cmd) : Bool :=
  match look s.core.ctxs (ctxKey v (q.ctxFor c)) with
  | none => true
  | some x => x.st = .resident &&
      (c.op ≠ 1 || x.raCount = 0 || x.scrUnits = 0 || (s.freeArea v (q.ctxFor c)).isSome)

def State.cqSpare (s : State) (q : Sq) : Bool :=
  ((look s.core.cqs q.cq).map fun x => x.spare && x.err ≠ 3).getD false

/-- Canyon's queue of a valley has room for a command of its OPs (R658). -/
def State.cynRoom (s : State) (v op : Nat) : Bool :=
  !(0x28 ≤ op && op ≤ 0x2F) || (s.cyn.jobs.filter fun j => j.2.valley = v && j.2.pipe.isNone).length < 64

def State.cynRoomSq (s : State) (v : Nat) (q : Sq) : Bool := s.cynRoom v (s.command q).op

/-- The queue is ready (R413). -/
def State.readySq (s : State) (n : Nat) : Bool :=
  match look s.core.sqs n with
  | none => false
  | some q => s.hasCommand q && q.inflight < q.maxIn && s.cqSpare q && s.ctxReady (n / 512) q (s.command q) && s.cynRoomSq (n / 512) q && !s.pwr.d3hot

/-- Ready queues of a valley. -/
def State.readyQueues (s : State) (v : Nat) : TMap Sq := s.core.sqs.filter fun q => q.1 / 512 = v && s.readySq q.1

/-! ### Network endpoints as queues (R583) -/

/-- The command a request datagram carries after its header (R585). -/
def netCmd (m : Bytes) : Cmd :=
  let h := m.drop 32
  { op := u8 h 0, flags := u8 h 1, ncont := u8 h 2, nhandle := u8 h 3, tag := u32 h 4, ctx := u16 h 8
    inlineLen := u16 h 10, arg := u32 h 12, inline := slice h 16 (u16 h 10), contBad := false, contReserved := false }

def Endpoint.kind (e : Endpoint) : Nat := u8 e.create 2
def Endpoint.ctx (e : Endpoint) : Nat := u16 e.create 4

/-- A request endpoint has a message that nothing but its context may keep back. -/
def State.epHas (s : State) (v : Nat) (e : Endpoint) : Bool :=
  e.kind < 2 && e.closing.isNone && !e.err && e.inflight < (if u16 e.create 12 = 0 then 65535 else u16 e.create 12) &&
  match e.buf with
  | [] => false
  | m :: _ => s.cynRoom v (netCmd m.bytes).op

/-- A request endpoint has a message that may be admitted. -/
def State.readyEp (s : State) (n : Nat) : Bool :=
  match look s.core.eps n with
  | none => false
  | some e => s.epHas (n / 64) e &&
    match look s.core.ctxs (ctxKey (n / 64) e.ctx) with
    | none => true
    | some x => x.st = .resident && ((e.buf.head?.map fun m => (netCmd m.bytes).op) ≠ some 1 || x.raCount = 0 || x.scrUnits = 0 ||
        (s.freeArea (n / 64) e.ctx).isSome)

/-- A source of commands in the arbitration: an SQ by its number, an endpoint by 4,096 + its own. -/
structure Turn where
  id : Nat
  prio : Nat
  weight : Nat
  since : Option Nat
deriving DecidableEq, Repr

def State.readyTurns (s : State) (v : Nat) : List Turn :=
  ((s.readyQueues v).map fun q => { id := q.1, prio := q.2.prio, weight := q.2.weight, since := q.2.readySince }) ++
  ((s.core.eps.filter fun e => e.1 / 64 = v && s.readyEp e.1).map fun e =>
    { id := 4096 + e.1, prio := u8 e.2.create 10, weight := u8 e.2.create 11, since := e.2.readySince })

/-- The source the valley admits from next: a chained successor, a queue that waited 1 ms, then priority and
weighted round robin (R413, R452). -/
def State.chosen (s : State) (v : Nat) : Option Nat :=
  let r := s.readyTurns v
  let x := s.valley v
  match x.chainDue.find? fun q => r.any fun e => e.id = q with
  | some q => some q
  | none =>
    let old := r.filter fun e => (e.since.map fun t => decide (t + 1000000 ≤ s.now)).getD false
    match pickMin (fun i => ((old.find? fun e => e.id = i).bind (·.since)).getD 0) (old.map (·.id)) with
    | some q => some q
    | none =>
      let top := r.foldl (fun m e => max m e.prio) 0
      let c := (r.filter fun e => e.prio = top).map (·.id)
      if x.turnSq ∈ c && 0 < x.turnLeft then some x.turnSq
      else match c.find? fun q => x.turnSq < q with
      | some q => some q
      | none => c.head?

/-- The valley whose admission turn it is: the next, round robin, with a command ready; one with nothing ready yields
(R414). -/
def State.valleyTurn (s : State) : Option Nat :=
  ((List.range 8).map fun k => (s.core.turnValley + 1 + k) % 8).find? fun v => s.admits v && (s.chosen v).isSome

/-- A source of a valley's is the next that the front end admits from. -/
def State.isNext (s : State) (v id : Nat) : Bool := s.chosen v = some id && s.valleyTurn = some v

/-- A valley has had its turn. -/
def State.spendTurn (s : State) (v : Nat) : State := s.setCore { s.core with turnValley := v }

/-! ## Admission (R439) -/

def State.stampFor (s : State) (v c : Nat) : Stamp :=
  let x := s.valley v
  { bnd := x.bnd, bseq := x.bseq, personality := (x.profile.map (·.personality)).getD 84
    epochs := (s.core.sets.filter fun t => t.2.valley = v).map fun t => (t.1, t.2.newest)
    handles := (look s.core.ctxs (ctxKey v c)).bind (·.handles), checked := lookD s.flt.checked v 0, at_ := s.now }

/-- Copy of the handles a command names, or the code and DETAIL of the first that fails (R441, Table
12.7). -/
def State.relocate (s : State) (t : Stamp) (inline : Bytes) (n : Nat) : List Bytes × Option (Nat × Nat) :=
  (List.range n).foldl (fun (acc : List Bytes × Option (Nat × Nat)) i =>
    if acc.2.isSome then acc else
    let idx := u32 inline (4 * i)
    match t.handles with
    | none => (acc.1, some (0x19, i))
    | some (a, entries) =>
      if entries ≤ idx then (acc.1, some (0x19, i))
      else if !s.populated (a + 16 * idx) then (acc.1, some (0x11, i))
      else if s.poisoned (a + 16 * idx) 16 then (acc.1, some (0x17, i))
      else
        let e := s.bytes (a + 16 * idx) 16
        if (handleOf e).ok then (acc.1 ++ [e], none) else (acc.1, some (0x19, i))) ([], none)

/-- What one OP takes and does. -/
structure CmdKind where
  op : Nat
  /-- Inline data, handles or ARG that the OP does not take (step 3). -/
  bad : State → Nat → Cmd → Bool := fun _ _ _ => false
  /-- The unit it needs is absent (step 5). -/
  absent : State → Bool := fun _ => false
  /-- Step 6: a code, DETAIL. -/
  refuse : State → Request → Option (Nat × Nat) := fun _ _ => none
  /-- What the unit checks of the command once the front end's checks are done (R650, Table 16.5). -/
  check : State → Request → Option (Nat × Nat) := fun _ _ => none
  /-- What the unit reads as it takes a command of a valley: handle position, offset, bytes. -/
  reads : State → Nat → Cmd → List (Nat × Nat × Nat) := fun _ _ _ => []
  /-- It takes handles, whose entries the front end reads (R441). -/
  handles : Bool := false
  /-- The admitted request, with its relocated handles. -/
  run : Nat → Request → List Bytes → State → State

/-- The OP of a command slot that Table 12.2 knows. -/
def knownOp (op : Nat) : Bool := (1 ≤ op && op ≤ 4) || (0x20 ≤ op && op ≤ 0x24) || (0x28 ≤ op && op ≤ 0x2F)

/-- The checks of R448 in order, for an admitted request. -/
def State.checkCommand (s : State) (k : CmdKind) (q : Sq) (c : Cmd) (r : Request) : Option (Nat × Nat) :=
  if q.chainOk = some false && !c.always then some (0x1A, 0)
  else if 8 < c.ncont || c.contBad || c.malformed || k.bad s r.valley c then some (0x16, 0)
  else if q.kernel && (look s.core.ctxs (ctxKey r.valley r.ctx)).isNone then some (0x18, 0)
  else if k.absent s then some (0x07, 0)
  else match k.refuse s r with
  | some e => some e
  | none => (s.relocate r.stamp r.inline c.nhandle).2 <|> k.check s r

/-- The version a LAUNCH would run. -/
def State.verFor (s : State) (r : Request) : Option (Graph × GraphVer) :=
  match s.graph (ctxKey r.valley r.ctx) (r.arg % 256) with
  | some g => (g.current.bind g.ver).map fun v => (g, v)
  | none => none

/-- Where the front end found poison or nothing: a LAUNCH's version record or block table, else the handle entry at the
position DETAIL gives (Table 12.7). -/
def State.frontPoison (s : State) (r : Request) (d : Nat) : Option Nat :=
  match s.verFor r, r.stamp.handles with
  | some (_, v), h =>
    if r.op = 1 && (v.lost || s.poisoned v.record 4096) then some v.record else h.map fun t => t.1 + 16 * u32 r.inline (4 * d)
  | none, h => h.map fun t => t.1 + 16 * u32 r.inline (4 * d)

/-- Mark the version a LAUNCH met POISONED (Table 12.7). -/
def State.markVersion (s : State) (r : Request) : State :=
  match s.verFor r with
  | some (g, v) =>
    if r.op = 1 && !v.lost && s.poisoned v.record 4096 then
      let ck := ctxKey r.valley r.ctx
      let v := { v with lost := true }
      (s.setGraph ck (r.arg % 256) (g.setVer v)).writeVer ck (r.arg % 256) g v 4
    else s
  | none => s

/-- Refuse an admitted command; what the front end itself could not read is recorded (R136, R466). -/
def State.refuseCommand (s : State) (i : Nat) (r : Request) (code d : Nat) : State :=
  let s := match (if code = 0x17 || code = 0x11 then s.frontPoison r d else none) with
    | some a => (s.recordBarred r a code).markVersion r
    | none => s
  s.finishWith i code d

/-- The turns after an admission: the valley's is over, and the queue's counts down (R413, R414). -/
def State.passTurn (s : State) (v n weight : Nat) : State :=
  (s.spendTurn v).updValley v fun x => { x with
    chainDue := x.chainDue.erase n
    turnSq := n, turnLeft := (if x.turnSq = n && 0 < x.turnLeft then x.turnLeft else weight) - 1 }

/-- Take the command off its queue: CONS passes its slots, a CQ entry is reserved (R407-R409, R439). -/
def State.take (s : State) (n : Nat) (q : Sq) : State :=
  let k := BitVec.ofNat 32 (slotsOf (s.slot q q.cons.toNat))
  let s := s.updSq n fun x => { x with
    cons := x.cons + k, pending := x.cons + k ≠ x.prod, inflight := x.inflight + 1, admitted := x.admitted + 1
    readySince := if x.cons + k = x.prod then none else some s.now, chainOk := none, stalled := false }
  (s.updCq q.cq fun x => { x with reserved := x.reserved + 1 }).passTurn (n / 512) n q.weight

/-- Take the command in: a request of its own, its number and the state that holds it (R439). -/
def State.takeCommand (s : State) (k : CmdKind) (n : Nat) (q : Sq) : Nat × Request × State :=
  let v := n / 512
  let c := s.command q
  let ctx := q.ctxFor c
  let (i, s) := (s.take n q).fresh
  let s := (s.updValley v fun x => { x with admitted := x.admitted + 1 }).count v 1
  let r : Request := {
    valley := v, ctx, origin := .sq n, tag := c.tag, op := k.op, arg := c.arg, chain := c.chain
    inline := c.inline, stamp := s.stampFor v ctx }
  let s := s.setCore { s.core with reqs := put s.core.reqs i r }
  (i, r, if c.chain then s.updSq n fun x => { x with chained := true } else s)

/-- Check a command taken in, and run it or refuse it. -/
def State.start (k : CmdKind) (q : Sq) (c : Cmd) (x : Nat × Request × State) : State :=
  match x.2.2.checkCommand k q c x.2.1 with
  | some (code, d) => x.2.2.refuseCommand x.1 x.2.1 code d
  | none => k.run x.1 x.2.1 (x.2.2.relocate x.2.1.stamp x.2.1.inline c.nhandle).1 x.2.2

/-- Entries of the handle table that a command names and that the host holds (R148, R440). -/
def State.heldEntries (s : State) (v ctx : Nat) (c : Cmd) : List (Nat × Nat) :=
  match (s.stampFor v ctx).handles with
  | none => []
  | some (a, n) => (((List.range c.nhandle).map fun i => u32 c.inline (4 * i)).filter fun i =>
      i < n && !(s.hostHolds (a + 16 * i) 16 false).isEmpty).map fun i => (a + 16 * i, 16)

/-- Ranges of its own memory that a command will have read at once and that the host holds (R148): the entries of its
handles first. -/
def State.heldInputs (s : State) (k : CmdKind) (v ctx : Nat) (c : Cmd) : List (Nat × Nat) :=
  match if k.handles then s.heldEntries v ctx c else [] with
  | x :: l => x :: l
  | [] =>
    let hs := (s.relocate (s.stampFor v ctx) c.inline c.nhandle).1
    ((k.reads s v c).filterMap fun (x : Nat × Nat × Nat) =>
      let e := handleOf (hs.getD x.1 [])
      if e.ok && !s.isRemote (e.base + x.2.1) then some (localOf (e.base + x.2.1), x.2.2) else none).filter
        fun x => !(s.hostHolds x.1 x.2 false).isEmpty

/-- Admit the next command of SQ n, which is the valley's next and carries this OP; the ring's slot may
be unreadable (Table 11.3). -/
def State.admitHead (s : State) (k : CmdKind) (picks : Cmd → Bool) (n : Nat) : State :=
  match look s.core.sqs n with
  | none => s
  | some q =>
    let v := n / 512
    if !s.admits v then s
    else if s.hasCommand q && !s.cqSpare q then s.updSq n fun x => if x.stalled then x else { x with stalls := x.stalls + 1, stalled := true }
    else if !s.isNext v n then s
    else
      let a := hostBase + q.ring
      if !s.link.up || s.poisoned (a + q.cons.toNat % 2 ^ q.log2 * 128) 128 then
        (s.updSq n fun x => { x with st := 2, err := 2 }).queueError q.cq q.prod.toNat n 2 0 v
      else if !picks (s.command q) then s
      else match s.heldInputs k v (q.ctxFor (s.command q)) (s.command q) with
      | [] => State.start k q (s.command q) (s.takeCommand k n q)
      | l => (l.foldl (fun s x => s.recall x.1 x.2 false) s).spendTurn v

def State.admitOp (s : State) (k : CmdKind) (n : Nat) : Out := .next (s.admitHead k (fun c => c.op = k.op) n)

/-! ## The commands of Table 12.2 -/

/-- Steps 6 of R448, and the fault of R493, for a LAUNCH. -/
def launchRefuse (s : State) (r : Request) : Option (Nat × Nat) :=
  match s.ctxOf r with
  | none => some (0x18, 0)
  | some c =>
    if c.scrUnits = 0 || c.raCount = 0 then some (0x16, 0)
    else match s.verFor r with
    | none => some (0x0F, 0)
    | some (g, v) =>
      if g.personality ≠ 0 && g.personality ≠ r.stamp.personality then some (0x0A, 0)
      else if v.lost || s.poisoned v.record 4096 then some (0x17, 0)
      else if (s.liveGlens r.valley).isEmpty then some (0x0D, 0) else none

/-- The request area (Table 12.4). -/
def areaBytes (r : Request) (q threads ver serial nhandle : Nat) (hs : List Bytes) : Bytes :=
  leBytes 4 r.tag ++ leBytes 2 q ++ leBytes 2 r.ctx ++ leBytes 4 threads ++ leBytes 1 (r.arg % 256) ++
  leBytes 1 r.stamp.personality ++ zeros 2 ++ leBytes 4 ver ++ leBytes 4 r.stamp.bseq.toNat ++
  leBytes 2 r.inline.length ++ leBytes 1 nhandle ++ zeros 1 ++ leBytes 4 serial ++ leBytes 8 r.stamp.at_ ++
  zeros 24 ++ fit 512 (hs.flatMap id) ++ fit 1008 r.inline ++ zeros 464

/-- Write the area in every live glen, and start the threads (R443, R444). -/
def State.launch (i : Nat) (r : Request) (q : Nat) (hs : List Bytes) (s : State) : State :=
  match s.ctxOf r, s.verFor r, s.freeArea r.valley r.ctx with
  | some c, some (_, v), some k =>
    let n := if r.arg / 256 % 131072 = 0 then v.threads else r.arg / 256 % 131072
    let b := areaBytes r q n v.num ((s.valley r.valley).admitted % 2 ^ 32) hs.length hs
    let s := (s.liveGlens r.valley).foldl (fun s g => s.scratchWrite g (c.scrBase + k * 2048) b) s
    let s := s.updReq i fun r => { r with
      area := some k, threads := n, stamp := { r.stamp with graph := some (r.arg % 256, v.num) } }
    (s.fill r.valley).settle i
  | _, _, _ => s

def launchKind (n : Nat) : CmdKind where
  op := 0x01
  bad := fun _ _ c => c.arg / 2 ^ 25 ≠ 0 || 65536 < c.arg / 256 % 131072
  refuse := launchRefuse
  handles := true
  run := fun i r hs s => State.launch i r n hs s

def execLaunch (sq : Nat) (s : State) : Out := s.admitOp (launchKind sq) sq

/-- Inline data, handles or ARG given to an OP that takes none. -/
def takesNone (c : Cmd) : Bool := c.inlineLen ≠ 0 || c.nhandle ≠ 0 || c.arg ≠ 0

def boundaryKind : CmdKind where
  op := 0x02
  bad := fun _ _ c => takesNone c
  run := fun i r _ s =>
    let s := s.boundary r.valley
    s.finishWith i 0 ((s.valley r.valley).bseq.toNat % 65536)

def execBoundary (sq : Nat) (s : State) : Out := s.admitOp boundaryKind sq

def signalKind (set : Bool) : CmdKind where
  op := 0x03
  bad := fun s v c => c.nhandle ≠ 0 || c.inlineLen ≠ 8 || (s.syncIndex v (s.bndNow v) c.arg).isNone
  run := fun i r _ s =>
    match s.syncIndex r.valley r.stamp.bnd r.arg with
    | none => s.finishWith i 0x16 0
    | some g =>
      if set then (s.syncSet g (BitVec.ofNat 64 (u64 r.inline 0))).finishWith i 0 0
      else
        let (s, ok) := s.syncAdd g (BitVec.ofNat 64 (u64 r.inline 0))
        s.finishWith i (if ok then 0 else 0x17) 0

/-- ADD, or SET where the command's FLAGS say so (R450). -/
def execSignal (sq : Nat) (s : State) : Out :=
  let set := ((look s.core.sqs sq).map fun q => (s.command q).set).getD false
  s.admitOp (signalKind set) sq

def nopKind : CmdKind where
  op := 0x04
  bad := fun _ _ c => takesNone c
  run := fun i _ _ s => s.finishWith i 0 0

def execNop (sq : Nat) (s : State) : Out := s.admitOp nopKind sq

/-- A reserved or unknown OP (R438, R448). -/
def invalidKind : CmdKind where
  op := 0
  bad := fun _ _ _ => true
  run := fun i _ _ s => s.finishWith i 0x16 0

def execInvalidCommand (sq : Nat) (s : State) : Out := .next (s.admitHead invalidKind (fun c => !knownOp c.op) sq)

end Sys2Proof.Machine
end

