-- ==== Sys2Proof/Machine/Tables.lean ====
section
/-! DEFINITION. Messages of tables and table sets (06, R253-R258). -/
namespace Sys2Proof.Machine
open Sys2Proof

/-- The set a message names, of this mailbox's own valley. -/
def State.ownSet (s : State) (v set : Nat) : Option TSet :=
  (look s.core.sets set).bind fun x => if x.valley = v then some x else none

/-- R43: the set a message names belongs to another valley. -/
def setDenied (o : Nat) : Req → State → Bool := fun r s =>
  ((look s.core.sets (u8 r.pay o)).map fun x => x.valley != r.via.mbx).getD false

/-! ## Sets -/

def tblSetCreate : Msg where
  op := 0x0301
  mark := .v
  cls := .o
  len := lenIs 12
  denied := setDenied 0
  field := fun r _ => firstBad [(u32 r.pay 4 = 0 || u32 r.pay 4 = 0xFFFFFFFF, 4), (1000 < u16 r.pay 8, 8)]
  run := fun r s =>
    let n := u8 r.pay 0
    if (look s.core.sets n).isSome then Res.fail s .conflict
    else if 32 ≤ (s.core.sets.filter fun x => x.2.valley = r.via.mbx).length then Res.fail s .noResource
    else
      let x : TSet := { valley := r.via.mbx, create := r.pay, newest := u32 r.pay 4 }
      Res.okay (s.setCore { s.core with sets := put s.core.sets n x })

def execTblSetCreate (via : Via) (s : State) : Out := serve tblSetCreate via s

def tblSetDestroy : Msg where
  op := 0x0302
  mark := .v
  cls := .d
  len := lenIs 4
  denied := setDenied 0
  run := fun r s =>
    let n := u8 r.pay 0
    match look s.core.sets n with
    | none => Res.okay s
    | some x =>
      if x.destroying then Res.fail s .notReady else
      { s := (s.updSet n fun x => { x with destroying := true }).arm r.via.mbx (.setGone n) (some r.deferred)
        st := .pending, after := fun s => s.boundaryIfStopped r.via.mbx }

def execTblSetDestroy (via : Via) (s : State) : Out := serve tblSetDestroy via s

/-! ## Tables -/

/-- W must be a multiple of this (Tables 6.3, R216). -/
def widthUnit (fmt group : Nat) : Nat :=
  max (match fmt with | 6 => 2 | 7 => 4 | 8 => 32 | 9 => 32 | _ => 1) (match group with | 2 => 32 | 3 => 64 | 4 => 128 | _ => 1)

/-- Scale grouping that Table 6.3 allows a format. -/
def groupOk (fmt group : Nat) : Bool :=
  if fmt = 0 || fmt = 1 || isMx fmt then group = 0
  else if isIntFmt fmt then 1 ≤ group && group ≤ 4 else group ≤ 4

def tableField (s : State) (v : Nat) (p : Bytes) : Option Nat :=
  let t : Table := { create := p }
  let n := t.stride + 4 * t.scales
  firstBad [(1023 < u16 p 2, 2),
    (t.width = 0 || 8192 < t.width || (t.fmt ≤ 9 && groupOk t.fmt t.group && (t.width % widthUnit t.fmt t.group ≠ 0 || 4096 < t.payload)), 4),
    (9 < t.fmt, 6), (!groupOk t.fmt t.group, 7),
    (t.rows = 0 || 2 ^ 34 < t.rows, 8), (12 < t.shift, 16), (1 < u8 p 17, 17),
    (t.map % 64 ≠ 0 || !s.inFast v t.map (16 * t.slots), 24),
    (bit (u8 p 1) 0 && inScratch t.map, 24),
    (u8 p 17 = 1 && (t.dflt % 16 ≠ 0 || !s.inFast v t.dflt n), 32)]

/-- Zero a range of memory, written through. -/
def State.zeroFill (s : State) (a n : Nat) : State :=
  let lines := s.basin.lines.map fun (l : Nat × Line) =>
    if l.2.dirty && a < l.1 * 256 + 256 && l.1 * 256 < a + n then (l.1, { l.2 with backing := zeroN l.2.backing a n }) else l
  ({ s with mem := zeroN s.mem a n, basin := { s.basin with lines } }).clearPoison a n

/-- The first slot whose entry an adoption cannot take (R248). -/
def State.adoptFails (s : State) (v epoch : Nat) (t : Table) : Option Nat :=
  (List.range t.slots).find? fun i =>
    s.poisoned (t.map + 16 * i + 8 * (epoch % 2)) 8 || !s.entryOk v t (s.mapEntry t i epoch)

/-- Copy each half that an adoption checked into the other. -/
def State.adopt (s : State) (epoch : Nat) (t : Table) : State :=
  (List.range t.slots).foldl (fun s i => s.setMapEntry t i (epoch + 1) (s.mapEntry t i epoch)) s

def Table.sizes (t : Table) : Bytes := leBytes 2 t.stride ++ leBytes 2 (4 * t.scales) ++ leBytes 4 t.block ++ leBytes 8 t.slots

def tblCreate : Msg where
  op := 0x0303
  mark := .v
  cls := .o
  len := lenIs 40
  denied := setDenied 0
  field := fun r s => tableField s r.via.mbx r.pay
  run := fun r s =>
    let v := r.via.mbx
    let key := tableKey (u8 r.pay 0) (u16 r.pay 2)
    let t : Table := { create := r.pay, adopted := bit (u8 r.pay 1) 0 }
    match s.ownSet v (u8 r.pay 0), s.profile v with
    | some x, some p =>
      if x.destroying || ((look s.core.tables key).map (·.destroying)).getD false then Res.fail s .notReady
      else if (look s.core.tables key).isSome || !offers p.personality t.fmt t.group then Res.fail s .conflict
      else if 8192 ≤ s.core.tables.length then Res.fail s .noResource
      else
        let make := fun (s : State) =>
          Res.work { s := (s.setCore { s.core with tables := put s.core.tables key t }).arm v (.tableUsable key) none
                     pay := t.sizes, after := fun s => s.boundaryIfStopped v } r
        if t.adopted then
          match s.adoptFails v (u32 x.create 4) t with
          | some i => Res.fail s .checkFailed (min i 0xFFFFFFFF)
          | none => make (s.adopt (u32 x.create 4) t)
        else make (s.zeroFill t.map (16 * t.slots))
    | _, _ => Res.fail s .conflict

def execTblCreate (via : Via) (s : State) : Out := serve tblCreate via s

def tblDestroy : Msg where
  op := 0x0304
  mark := .v
  cls := .d
  len := lenIs 4
  denied := setDenied 0
  field := fun r _ => firstBad [(1023 < u16 r.pay 2, 2)]
  run := fun r s =>
    let key := tableKey (u8 r.pay 0) (u16 r.pay 2)
    match s.ownSet r.via.mbx (u8 r.pay 0), look s.core.tables key with
    | some x, some t =>
      if x.destroying || t.destroying then Res.fail s .notReady else
      { s := (s.updTable key fun t => { t with destroying := true }).arm r.via.mbx (.tableGone key) (some r.deferred)
        st := .pending, after := fun s => s.boundaryIfStopped r.via.mbx }
    | _, _ => Res.okay s

def execTblDestroy (via : Via) (s : State) : Out := serve tblDestroy via s

/-- Counters of a table, or the totals of some (R257). -/
def countersOf (ts : List Table) : Bytes :=
  leBytes 8 (ts.map (·.lookups)).sum ++ leBytes 8 (ts.map (·.missing)).sum ++ leBytes 8 (ts.map (·.poisoned)).sum ++
    leBytes 8 (ts.map (·.served)).sum ++ leBytes 8 (ts.map (·.refused)).sum

def tblQuery : Msg where
  op := 0x0305
  mark := .v
  cls := .q
  len := lenIs 4
  denied := setDenied 0
  field := fun r _ => firstBad [(1023 < u16 r.pay 2 && u16 r.pay 2 ≠ 0xFFFF, 2)]
  run := fun r s =>
    let set := u8 r.pay 0
    match s.ownSet r.via.mbx set with
    | none => Res.fail s .conflict
    | some x =>
      if u16 r.pay 2 = 0xFFFF then
        Res.okay s (fit 40 x.create ++ countersOf ((s.core.tables.filter fun t => t.1 / 1024 = set).map (·.2)))
      else match look s.core.tables (tableKey set (u16 r.pay 2)) with
        | some t => Res.okay s (fit 40 t.create ++ countersOf [t])
        | none => Res.fail s .conflict

def execTblQuery (via : Via) (s : State) : Out := serve tblQuery via s

/-! ## Row-map loads (R258, R279) -/

/-- LENGTH of TBL_ROWMAP_LOAD, by its MODE and COUNT. -/
def loadLen (l : Nat) (p : Bytes) : Bool :=
  match u8 p 1 with
  | 0 => l = 24 + 8 * u32 p 4
  | 1 => l = 24
  | _ => 24 ≤ l

/-- A slot's pending entry becomes `e`: a copy it used returns to the pool, and a move that set it in this
pending epoch has failed (R281). -/
def State.stageEntry (s : State) (set key e : Nat) : State :=
  let was := (look s.core.sets set).bind fun x => look x.cP key
  let s := s.updSet set fun x =>
    let x := match look x.cP key with
      | some old => if baseOf old = baseOf e then x else x.unuse old
      | none => x
    { x with cP := put x.cP key e }
  match s.session set false with
  | some y =>
    if y.table = keyTable key then s.mapMoves set fun m =>
      if m.slot = keySlot key && m.st = 1 && was = some m.target then { m with st := 4 } else m
    else s
  | none => s

/-- Install checked entries from a first slot on. -/
def State.loadEntries (s : State) (set table first : Nat) (es : List Nat) : State :=
  (es.foldl (fun (acc : State × Nat) e => (acc.1.stageEntry set (slotKey table acc.2) e, acc.2 + 1)) (s, first)).1

def tblRowmapLoad : Msg where
  op := 0x0306
  mark := .v
  cls := .o
  len := loadLen
  denied := setDenied 0
  field := fun r s =>
    let n := u32 r.pay 4
    firstBad [(1 < u8 r.pay 1, 1), (1023 < u16 r.pay 2, 2), (u8 r.pay 1 = 1 && 2 ^ 24 < n, 4),
      (u8 r.pay 1 = 1 && 0 < n && !s.t1OrHost r.via.mbx (u64 r.pay 16) (8 * n), 16)]
  run := fun r s =>
    let v := r.via.mbx
    let set := u8 r.pay 0
    let table := u16 r.pay 2
    let n := u32 r.pay 4
    let buffer := u8 r.pay 1 = 1
    match s.ownSet v set, look s.core.tables (tableKey set table) with
    | some x, some t =>
      if x.destroying || t.destroying then Res.fail s .notReady
      else if !rangeAll s.populated t.map (16 * t.slots) then Res.fail s .conflict
      else if t.slots < u64 r.pay 8 + n then Res.field s 8
      else if buffer && s.poisoned (u64 r.pay 16) (8 * n) then Res.fail s .checkFailed 0xFFFFFFFF
      else
        let src := if buffer then s.bytes (u64 r.pay 16) (8 * n) else r.pay.drop 24
        let es := (List.range n).map fun i => u64 src (8 * i)
        match es.findIdx? fun e => !s.entryOk v t e with
        | some i => if buffer then Res.fail s .checkFailed i else Res.field s (24 + 8 * i)
        | none =>
          let fresh := ((List.range n).filter fun i => (look x.cP (slotKey table (u64 r.pay 8 + i))).isNone).length
          if 2 ^ 24 < x.cP.length + fresh then Res.fail s .noResource
          else
            let x : Res := { s := s.loadEntries set table (u64 r.pay 8) es, after := fun s => s.endIfDone set }
            if buffer then x.work r else x
    | _, _ => Res.fail s .conflict

def execTblRowmapLoad (via : Via) (s : State) : Out := serve tblRowmapLoad via s

end Sys2Proof.Machine
end

