-- ==== Sys2Proof/Machine/Ecc.lean ====
section
/-! DEFINITION. What the device does with the errors its memories' codes find: Table 4.7 for the Basin and its tracker
(R162), Table 5.6 for HBM and LPDDR (R179, R180, R193). -/
namespace Sys2Proof.Machine
open Sys2Proof

def State.basinCorrected (s : State) : State :=
  { s with basin := { s.basin with ceCount := satAdd 0xFFFFFFFF s.basin.ceCount 1 } }
def State.basinUncorrected (s : State) : State :=
  { s with basin := { s.basin with ueCount := satAdd 0xFFFFFFFF s.basin.ueCount 1 } }

def sliceError (event slice a scope : Nat) : FaultEv :=
  { source := 2, event, cls := 3, unit := slice, addr := a, scope }

/-- A correctable error is corrected and counted. One in the Basin is recorded and its slice tested; a single one of a
channel is not: Table 5.6 tests at 1,024 in 1 ms. -/
def State.eccCorrected (s : State) (a : Nat) : State :=
  match s.sliceOf a with
  | some i => s.basinCorrected.error (sliceError 1 i a 0) [{ cls := 3, idx := i }]
  | none =>
    if !s.populated a then s
    else if inHbm a then s.updStack (hbmPc a / 32) fun x => { x with corrected := satAdd 0xFFFFFFFF x.corrected 1 }
    else if inLpd a then { s with ext := { s.ext with lpdCorrected := satAdd 0xFFFFFFFF s.ext.lpdCorrected 1 } }
    else s

/-- Uncorrectable data: a scratch chunk is poisoned, a clean line dropped, a dirty line written back with poison in the
sector; a sector of HBM is poisoned. LPDDR detects none (R180). -/
def State.eccUncorrectable (s : State) (a : Nat) : State :=
  match s.sliceOf a with
  | some i =>
    let l := a / 256
    let clean := ((look s.basin.lines l).map fun x => !x.dirty).getD false
    let s := s.basinUncorrected.error (sliceError 2 i a (if clean then 0 else 1)) [{ cls := 3, idx := i }]
    if inScratch a then s.poison (a / 16 * 16) 16
    else if clean then s.dropLine l
    else ((s.writeBack l).dropLine l).poison (a / 64 * 64) 64
  | none =>
    if inHbm a && s.populated a then
      let pc := hbmPc a
      ((s.updStack (pc / 32) fun x => { x with uncorrected := satAdd 0xFFFFFFFF x.uncorrected 1 }).poison (a / 64 * 64) 64).error
        { source := 2, event := 2, cls := 4, unit := pc, addr := a, scope := 1 } [{ cls := 4, idx := pc }]
    else s

/-- An uncorrectable tag, or voted state with no majority: an entry with nothing dirty is invalidated; a dirty line costs
its writer's context, or where its group keeps no owner every job. -/
def State.eccTag (s : State) (l : Nat) : State :=
  match look s.basin.lines l with
  | none => match look s.basin.bucket (lineBucket l) with
    | some g =>
      let i := g * 4 + Config.basinSet l % 32768 / 8192
      s.basinUncorrected.error (sliceError 2 i (l * 256) 0) [{ cls := 3, idx := i }]
    | none => s
  | some x =>
    let s := s.basinUncorrected
    if !x.dirty then (s.error (sliceError 2 x.slice (l * 256) 0) [{ cls := 3, idx := x.slice }]).dropLine l
    else match (if (s.group x.group).single then x.writer else none) with
      | some (v, c) => (s.loseLine l).ctxFault v c (sliceError 2 x.slice (l * 256) 2) [{ cls := 3, idx := x.slice }]
      | none => s.deviceFault (sliceError 2 x.slice (l * 256) 3)

def State.eccFind (s : State) : Ecc → State
  | .corrected a => s.eccCorrected a
  | .uncorrectable a => s.eccUncorrectable a
  | .tag l => s.eccTag l
  | .tracker => s.basinUncorrected.deviceFault { source := 2, event := 2, cls := 0x0F }

/-- What a step that uses memory finds there, in order. -/
def State.eccAll (s : State) (found : List Ecc) : State := found.foldl State.eccFind s

end Sys2Proof.Machine
end

