-- ==== Sys2Proof/Machine/Graphs.lean ====
section
/-! DEFINITION. Stored graphs: storing, patching, activating and retiring versions (R454-R457,
R460-R462, R469-R472). -/
namespace Sys2Proof.Machine
open Sys2Proof

def graphStoreField (s : State) (v : Nat) (p : Bytes) : Option Nat :=
  let code := u32 p 4 - 64
  firstBad [(127 < u16 p 0, 0), (u32 p 4 < 68 || 1032256 < u32 p 4 || u32 p 4 % 4 ≠ 0, 4), (!s.t1OrHost v (u64 p 8) (u32 p 4), 8),
    (u64 p 16 % 4096 ≠ 0 || !s.inPart v 2 (u64 p 16) (max 1 (u64 p 24)), 16),
    (u64 p 24 % 4096 ≠ 0 || u64 p 24 < 4096 * (1 + ceilDiv code 4096) || 2 ^ 30 < u64 p 24, 24),
    (u32 p 40 ≠ 0 && (u64 p 32 % 8 ≠ 0 || !s.t1OrHost v (u64 p 32) (8 * u32 p 40)), 32), (65536 < u32 p 40, 40)]

/-- An arena would meet another arena, a pool, a journal or row storage of the valley (Table 12.6). -/
def State.arenaMeets (s : State) (v a n : Nat) : Bool :=
  ((s.claims v).any fun c => c.1 ≠ 0 && overlaps a n c.2.1 c.2.2) || s.rowsMeet v (fun b m => overlaps b m a n) (fun _ _ => false)

/-- Checks of the image itself (R469, R470, Table 12.7): a status and the payload offset it names. -/
def State.imageBad (s : State) (v : Nat) (p img : Bytes) : Option (St × Nat) :=
  let pers := u8 img 6
  if s.poisoned (u64 p 8) (u32 p 4) || (crc32c img).toNat ≠ u32 p 44 then some (.checkFailed, 0)
  else if (bit (u8 img 7) 0 && !s.hasCyn) || (bit (u8 img 7) 1 && !s.hasFord) then some (.unitAbsent, 0)
  else if u32 img 0 ≠ 0x47524150 || u16 img 4 ≠ 1 || !(pers = 0 || pers = 21 || pers = 32 || pers = 84) ||
      u32 img 8 + 64 ≠ u32 p 4 || u32 img 8 ≤ u32 img 12 || u32 img 12 % 4 ≠ 0 || u32 img 16 = 0 || 65536 < u32 img 16 then
    some (.badField, 24)
  else if pers ≠ 0 && pers ≠ ((s.profile v).map (·.personality)).getD 84 then some (.conflict, 0)
  else none

/-- Store an image as version 1 (R454): one unit for the record, one for each block. -/
def State.storeGraph (s : State) (ck g : Nat) (p img : Bytes) : State :=
  let n := ceilDiv (u32 img 8) 4096
  let arena := u64 p 16
  let blocks := (List.range n).map fun i => arena + 4096 * (i + 1)
  let s := (List.range n).foldl (fun s i => s.writeThrough (arena + 4096 * (i + 1)) (fit 4096 (slice img (64 + 4096 * i) 4096))) s
  let ver : GraphVer := { num := 1, record := arena, blocks, entry := u32 img 12, threads := u32 img 16 }
  let x : Graph := {
    arena, bytes := u64 p 24, indir := u64 p 32, indirCount := u32 p 40, codeBytes := u32 img 8
    personality := u8 img 6, units := u8 img 7 % 4, vers := [ver] }
  (s.setGraph ck g x).writeVer ck g x ver 1

def graphStore : Msg where
  op := 0x0506
  mark := .v
  cls := .o
  len := lenIs 48
  field := fun r s => graphStoreField s r.via.mbx r.pay
  run := fun r s =>
    let v := r.via.mbx
    let p := r.pay
    let c := u16 p 0
    let g := u8 p 2
    let n := (s.core.ctxs.filter fun x => x.1 / 128 = v).foldl (fun n x => n + x.2.graphs.length) 0
    match look s.core.ctxs (ctxKey v c) with
    | none => Res.fail s .conflict
    | some x =>
      if (look x.graphs g).isSome then Res.fail s .conflict
      else if s.arenaMeets v (u64 p 16) (u64 p 24) then Res.fail s .conflict
      else if 1024 ≤ n then Res.fail s .noResource
      else
        let img := s.bytes (u64 p 8) (u32 p 4)
        match s.imageBad v p img with
        | some (.badField, o) => Res.field s (o - 16)
        | some (st, _) => Res.fail s st
        | none =>
          { s := (s.storeGraph (ctxKey v c) g p img).arm v (.graphStore c g) (some r.deferred)
            st := .pending, after := fun s => s.boundaryIfStopped v }

def execGraphStore (via : Via) (s : State) : Out := serve graphStore via s

/-! ## Patches (R455, R457, R460, R471) -/

/-- LENGTH of a patch by its kind (Table 12.6). -/
def patchLen (l : Nat) (p : Bytes) : Bool :=
  let n := u16 p 8
  l == 16 + n && match u8 p 3 with
    | 0 => 4 ≤ n && n ≤ 480 && n % 4 = 0
    | 1 => 8 ≤ n && n ≤ 480 && n % 8 = 0
    | 2 => n = 8
    | 3 | 4 => n = 0
    | _ => true

def patchField (p : Bytes) : Option Nat :=
  firstBad [(127 < u16 p 0, 0), (4 < u8 p 3, 3), ((u8 p 3 = 0 && u32 p 4 % 4 ≠ 0) || (2 ≤ u8 p 3 && u32 p 4 ≠ 0), 4)]

/-- Table 12.12. -/
def Graph.patchRsp (x : Graph) : Bytes :=
  leBytes 4 (x.current.getD 0) ++ leBytes 4 (x.pendingVer.getD 0) ++ leBytes 2 x.vers.length ++ zeros 6 ++ leBytes 8 x.freeBytes

/-- The graph with a pending version: the first patch copies the current record (R455 step 1). -/
def Graph.withPending (x : Graph) : Option Graph :=
  if x.pendingVer.isSome then some x else
  match x.ver (x.current.getD 1), x.unit with
  | some v, some u =>
    if 4 ≤ x.vers.length then none
    else some { x with vers := x.vers ++ [{ v with num := v.num + 1, record := u, actBseq := 0, lost := false }], pendingVer := some (v.num + 1) }
  | _, _ => none

/-- Copy an arena unit; what reads as poison there is poison in the copy. -/
def State.copyUnit (s : State) (a u : Nat) : State :=
  let bad := (List.range 64).filter fun i => s.poisoned (a + 64 * i) 64
  bad.foldl (fun s i => s.poison (u + 64 * i) 64) (s.writeThrough u (s.bytes a 4096))

/-- Make block b of the pending version its own (R455 step 2). -/
def ownBlock (s : State) (x : Graph) (b : Nat) : Option (State × Graph) :=
  match x.pendingVer.bind x.ver with
  | none => none
  | some v =>
    let a := v.blocks.getD b 0
    if x.vers.any fun y => y.num ≠ v.num && a ∈ y.blocks then
      match x.unit with
      | none => none
      | some u => some (s.copyUnit a u, x.setVer { v with blocks := v.blocks.set b u })
    else some (s, x)

/-- Write patch data over the blocks it touches; none when the arena is exhausted. -/
def patchBlocks (off : Nat) (d : Bytes) (s : State) (x : Graph) : Option (State × Graph) :=
  (List.range ((off + d.length - 1) / 4096 - off / 4096 + 1)).foldl (fun acc i => acc.bind fun (s, x) =>
    let b := off / 4096 + i
    (ownBlock s x b).map fun (s, x) =>
      let a := ((x.pendingVer.bind x.ver).map fun v => v.blocks.getD b 0).getD 0
      let lo := max off (b * 4096)
      let hi := min (off + d.length) (b * 4096 + 4096)
      (s.writeThrough (a + lo % 4096) (slice d (lo - off) (hi - lo)), x)) (some (s, x))

/-- The graph a patch names, or why it is refused: BUSY where an ACTIVATE is armed, FAULTED where a version is POISONED
(R460, R462, R466). -/
def State.patchTarget (s : State) (r : Req) (busy faulted : Bool) : Except St Graph :=
  match s.graph (ctxKey r.via.mbx (u16 r.pay 0)) (u8 r.pay 2) with
  | none => .error .conflict
  | some x =>
    if x.retiring then .error .notReady
    else if x.armed && busy then .error .busy
    else if faulted && x.vers.any fun v => v.lost || s.poisoned v.record 4096 then .error .faulted
    else .ok x

/-- Put a patched graph back, its pending record rewritten. -/
def State.patched (s : State) (r : Req) (x : Graph) (st : Nat) : State :=
  let ck := ctxKey r.via.mbx (u16 r.pay 0)
  let s := s.setGraph ck (u8 r.pay 2) x
  match x.pendingVer.bind x.ver with
  | some v => s.writeVer ck (u8 r.pay 2) x v st
  | none => s

def graphPatch (run : Req → State → Res) : Msg where
  op := 0x0507
  mark := .v
  cls := .o
  len := patchLen
  field := fun r _ => patchField r.pay
  run := run

def patchStructural (r : Req) (s : State) : Res :=
  match s.patchTarget r true true with
  | .error e => Res.fail s e
  | .ok x =>
    if x.codeBytes < u32 r.pay 4 + u16 r.pay 8 then Res.field s 4
    else match (x.withPending).bind (patchBlocks (u32 r.pay 4) (r.pay.drop 16) s) with
    | none => Res.fail s .noResource
    | some (s, x) => Res.okay (s.patched r x 0) x.patchRsp

def execGraphPatchStructural (via : Via) (s : State) : Out :=
  serveIf (graphPatch patchStructural) (fun r => u8 r.pay 3 = 0 || 4 < u8 r.pay 3) via s

def patchIndirect (r : Req) (s : State) : Res :=
  match s.patchTarget r false false with
  | .error e => Res.fail s e
  | .ok x =>
    if x.indirCount < u32 r.pay 4 + u16 r.pay 8 / 8 then Res.field s 4
    else Res.okay (s.writeThrough (x.indir + 8 * u32 r.pay 4) (r.pay.drop 16)) x.patchRsp

def execGraphPatchIndirect (via : Via) (s : State) : Out :=
  serveIf (graphPatch patchIndirect) (fun r => u8 r.pay 3 = 1) via s

def patchEntry (r : Req) (s : State) : Res :=
  match s.patchTarget r true false with
  | .error e => Res.fail s e
  | .ok x =>
    if x.codeBytes ≤ u32 r.pay 16 || u32 r.pay 16 % 4 ≠ 0 then Res.field s 16
    else if u32 r.pay 20 = 0 || 65536 < u32 r.pay 20 then Res.field s 20
    else match x.withPending with
    | none => Res.fail s .noResource
    | some x =>
      let x := match x.pendingVer.bind x.ver with
        | some v => x.setVer { v with entry := u32 r.pay 16, threads := u32 r.pay 20 }
        | none => x
      Res.okay (s.patched r x 0) x.patchRsp

def execGraphPatchSetEntry (via : Via) (s : State) : Out :=
  serveIf (graphPatch patchEntry) (fun r => u8 r.pay 3 = 2) via s

def patchActivate (r : Req) (s : State) : Res :=
  match s.patchTarget r true true with
  | .error e => Res.fail s e
  | .ok x =>
    if x.pendingVer.isNone then Res.fail s .conflict
    else
      let v := r.via.mbx
      let s := s.patched r { x with armed := true } 1
      { s := s.arm v (.graphActivate (u16 r.pay 0) (u8 r.pay 2)) (some r.deferred)
        st := .pending, after := fun s => s.boundaryIfStopped v }

def execGraphPatchActivate (via : Via) (s : State) : Out :=
  serveIf (graphPatch patchActivate) (fun r => u8 r.pay 3 = 3) via s

/-- Drop the pending version; an armed ACTIVATE is cancelled (R460). -/
def patchDiscard (r : Req) (s : State) : Res :=
  match s.patchTarget r false false with
  | .error e => Res.fail s e
  | .ok x =>
    let v := r.via.mbx
    let mine := fun (a : Armed) => a.change == .graphActivate (u16 r.pay 0) (u8 r.pay 2)
    let cancelled := ((s.valley v).changes.filter mine).filterMap (·.done)
    let x := { x with vers := x.vers.filter fun y => x.pendingVer ≠ some y.num, pendingVer := none, armed := false }
    let s := s.setGraph (ctxKey v (u16 r.pay 0)) (u8 r.pay 2) x
    let s := s.updValley v fun y => { y with changes := y.changes.filter fun a => !mine a }
    { s, pay := x.patchRsp, after := fun s => cancelled.foldl (fun s d => s.done d .conflict 0 []) s }

def execGraphPatchDiscard (via : Via) (s : State) : Out :=
  serveIf (graphPatch patchDiscard) (fun r => u8 r.pay 3 = 4) via s

def graphRetire : Msg where
  op := 0x0508
  mark := .v
  cls := .d
  len := lenIs 4
  field := fun r _ => firstBad [(127 < u16 r.pay 0, 0)]
  run := fun r s =>
    let v := r.via.mbx
    match s.graph (ctxKey v (u16 r.pay 0)) (u8 r.pay 2) with
    | none => Res.okay s
    | some x =>
      if x.retiring then Res.fail s .notReady
      else
        { s := (s.setGraph (ctxKey v (u16 r.pay 0)) (u8 r.pay 2) { x with retiring := true }).arm v
            (.graphRetire (u16 r.pay 0) (u8 r.pay 2)) (some r.deferred)
          st := .pending, after := fun s => s.boundaryIfStopped v }

def execGraphRetire (via : Via) (s : State) : Out := serve graphRetire via s

end Sys2Proof.Machine
end

