-- ==== Sys2Proof/Machine/Threads.lean ====
section
/-! DEFINITION. Thread operations, tasks and remote signals (10). A thread's code decides its operations,
and its encoding is outside the spec (R359): each operation is a command that names the thread, the
operands the code gave it, and the position of the next operation. -/
namespace Sys2Proof.Machine
open Sys2Proof

/-! ## Remote operations (R547) -/

def readMsg (len addr tag : Nat) : Bytes := leBytes 4 tag ++ leBytes 4 len ++ leBytes 8 addr

/-- Reads of at most 4,096 bytes that cover a range on another node. -/
def State.readRemote (s : State) (use : RemoteUse) (req glen valley a n : Nat) : State :=
  (List.range (ceilDiv n 4096)).foldl (fun s i =>
    let len := min 4096 (n - 4096 * i)
    s.askRemote { use, req, glen, kind := 5, node := nodeOf a, sent := 0, tag := 0, off := 4096 * i, bytes := len } valley
      (readMsg len (localOf a + 4096 * i))) s

/-! ## The frame of a thread operation -/

/-- A thread may take operation turns: it waits for nothing and its context is resident. A fence does not stop it (R684). -/
def State.runnable (s : State) (x : Thread) : Bool :=
  x.wait == .run && !x.saved && ((look s.core.reqs x.req).map s.resident).getD false

/-- The thread whose operation turn is next on a glen: round-robin over its runnable threads, in the order they were
started (R365). -/
def State.nextTurn (s : State) (g : Nat) : Option Nat :=
  let l := (s.core.threads.filter fun t => t.2.glen = g && s.runnable t.2).map (·.1)
  match look s.core.opTurn g with
  | some k => (l.find? (k < ·)) <|> l.head?
  | none => l.head?

/-- Where the code of a thread's next operation lies: in its request's version (R445, R456). -/
def State.codeAt (s : State) (r : Request) (pc : Nat) : Option Nat :=
  (r.stamp.graph.bind fun g => (s.graph (ctxKey r.valley r.ctx) g.1).bind (·.ver g.2)).map fun v =>
    v.blocks.getD (pc / 4096) 0 + pc % 4096

/-- The code that a fetch of the next operation raises: poison, or memory that is not there (Table 12.7, R136). -/
def State.codeLost (s : State) (r : Request) (pc : Nat) : Option (Nat × Nat) :=
  match s.codeAt r pc with
  | some a => if !s.populated a then some (a, 0x11) else if s.poisoned a 4 then some (a, 0x17) else none
  | none => none

/-- Run one operation of the thread whose turn it is; its position moves on first. Out of turn nothing runs. -/
def State.thread (s : State) (t next : Nat) (f : Thread → Request → Context → State → State) : Out :=
  .next (match look s.core.threads t with
    | none => s
    | some x => match look s.core.reqs x.req with
      | none => s
      | some r => match s.ctxOf r with
        | none => s
        | some c =>
          if s.nextTurn x.glen ≠ some t then s
          else
            let s := s.setCore { s.core with opTurn := put s.core.opTurn x.glen t }
            match s.codeLost r x.pc with
            | some (a, code) => (s.recordBarred r a code).fail x.req code 0
            | none => f x r c (s.updThread t fun x => { x with pc := next }))

/-! ## Errors of a glen's storage (Tables 8.4, 10.5, R677) -/

/-- The record of an error on a glen, and its test. -/
def State.glenFault (s : State) (g : Nat) (r : Request) (event sub scope : Nat) : State :=
  s.error { source := 5, event, cls := 1, unit := g, subunit := sub, valley := r.valley, ctx := r.ctx, scope
            cmpl := if scope = 0 then 0 else 0x17 } [{ cls := 1, idx := g }]

/-- What the codes of glen g found in a step of request r. A lost chunk is poisoned until it is rewritten; a lost
ownership record takes down every context whose weight range covers the unit (Table 13.4). -/
def State.glenErr (s : State) (g : Nat) (r : Request) : GlenErr → State
  | .laneFixed a => s.glenFault g r 1 (a / 2 ^ 14 % 128) 0
  | .laneLost a =>
    let s := s.setCore { s.core with lanePoison := insertSorted ((g * 2 ^ 21 + a % 2 ^ 21) / 16) s.core.lanePoison }
    s.glenFault g r 2 (a / 2 ^ 14 % 128) 1
  | .scratchFixed _ => s.glenFault g r 1 0xFFFF 0
  | .scratchLost a =>
    let s := s.setCore { s.core with scratchPoison := insertSorted (glenAt g (a % 2 ^ 21) / 16) s.core.scratchPoison }
    s.glenFault g r 2 0xFFFF 1
  | .parity => s.glenFault g r 6 0xFFFF 1
  | .ownership u =>
    let hit := s.core.ctxs.filter fun c => c.1 / 128 = r.valley && c.2.wBase ≤ u && u < c.2.wBase + c.2.wUnits
    hit.foldl (fun s c => s.ctxFault r.valley (c.1 % 128) { source := 5, event := 2, cls := 1, unit := g, index := u }
      [{ cls := 1, idx := g }]) s

def State.glenErrs (s : State) (g : Nat) (r : Request) (l : List GlenErr) : State := l.foldl (fun s e => s.glenErr g r e) s

/-- Load little-endian bytes into a register, or a pair for 16 (notes/assumptions/20.md). -/
def loadRegs (regs : TMap W64) (dst : Nat) (d : Bytes) : TMap W64 :=
  if d.length ≤ 8 then setReg regs dst (leNat d)
  else setReg (setReg regs dst (leNat (d.take 8))) (dst + 1) (leNat (d.drop 8))

def Thread.regBytes (x : Thread) (src size : Nat) : Bytes :=
  let r := fun (i : Nat) => (lookD x.regs (i % 32) 0).toNat
  if size ≤ 8 then leBytes size (r src) else leBytes 8 (r src) ++ leBytes 8 (r (src + 1))

/-- 1, 2, 4, 8 or 16 bytes, naturally aligned (R365). -/
def accessOk (a size : Nat) : Bool := (size = 1 || size = 2 || size = 4 || size = 8 || size = 16) && a % size = 0

/-! ## Loads and stores -/

/-- A load of scratch, with what its code found; a poisoned chunk ends the request (R677). -/
def execThreadLoadScratch (t : Nat) (off : Nat × List GlenErr) (size dst next : Nat) (s : State) : Out :=
  s.thread t next fun x r c s =>
    if !accessOk off.1 size || !c.inScratchRange off.1 size then s.fail x.req 0x11 0
    else
    let s := s.glenErrs x.glen r off.2
    if s.scratchPoisoned x.glen off.1 size then s.fail x.req 0x17 0
    else s.updThread t fun y => { y with regs := loadRegs y.regs dst (s.scratchRead x.glen off.1 size) }

def execThreadStoreScratch (t off size src next : Nat) (s : State) : Out :=
  s.thread t next fun x _ c s =>
    if !accessOk off size || !c.inScratchRange off size then s.fail x.req 0x11 0
    else s.scratchWrite x.glen off (x.regBytes src size)

/-- Refuse a barred access: its record, then the request's end. -/
def State.bar (s : State) (i : Nat) (r : Request) (a : Nat) (e : Nat × Nat) : State :=
  (s.recordBarred r a e.1).fail i e.1 e.2

def execThreadLoadGlobal (t addr size dst next : Nat) (s : State) : Out :=
  s.thread t next fun x r _ s =>
    if !accessOk addr size then s.fail x.req 0x11 0
    else match s.barred r addr size false with
    | some e => s.bar x.req r addr e
    | none =>
      let s := s.updThread t fun y => { y with wait := .load addr size dst }
      if s.isRemote addr then s.readRemote (.load t) x.req x.glen r.valley addr size else s

/-- The data of a local load arrives, with what the memory's codes found; that of a remote one comes with its answer
(R547). -/
def execGlobalLoadDataReturn (t : Nat × List Ecc) (s : State) : Out :=
  .next (match look s.core.threads t.1 with
    | none => s
    | some x => match x.wait, look s.core.reqs x.req with
      | .load a n d, some r =>
        if s.isRemote a || s.hostWaits (localOf a) then s
        else if !(s.hostHolds (localOf a) n false).isEmpty then s.recall (localOf a) n false else
        let s := s.eccAll t.2
        match s.barred r a n false with
        | some e => s.bar x.req r a e
        | none =>
          let s := s.fetch r.valley (localOf a) n
          s.updThread t.1 fun y => { y with wait := .run, regs := loadRegs y.regs d (s.bytes (localOf a) n) }
      | _, _ => s)

def execThreadStoreGlobal (t addr size src next : Nat) (s : State) : Out :=
  if !s.isRemote addr && s.hostWaits (localOf addr) then .next s else
  s.thread t next fun x r _ s =>
    if !accessOk addr size then s.fail x.req 0x11 0
    else match s.barred r addr size true with
    | some e => s.bar x.req r addr e
    | none =>
      let d := x.regBytes src size
      let s := s.updReq x.req fun r => { r with wrote := true }
      if s.isRemote addr then
        s.askRemote { use := .store t, req := x.req, glen := x.glen, kind := 7, node := nodeOf addr, sent := 0, tag := 0 }
          r.valley fun tag => readMsg size (localOf addr) tag ++ d
      else s.writeFor r.valley r.ctx (localOf addr) d

/-- Register arithmetic: the result the code computed (R365). `err`: the glen finds no operation it knows, or its
thread state in error, and the request is stopped (Table 10.5). -/
def execThreadArithmetic (t dst : Nat) (value : Nat × Option ThreadErr) (next : Nat) (s : State) : Out :=
  s.thread t next fun x r _ s =>
    match value.2 with
    | none => s.updThread t fun y => { y with regs := setReg y.regs dst value.1 }
    | some .code => s.fail x.req 0x16 0
    | some .state => (s.glenFault x.glen r 2 0xFFFF 1).fail x.req 0x17 0

/-! ## ISSUE (R219, R366) -/

/-- Descriptors queued on a Plain. -/
def State.queuedPlain (s : State) (g : Nat) : Nat := (s.core.plain.filter fun p => p.2.glen = g && !p.2.running && !p.2.saved).length

/-- Hand a descriptor to its unit; none while its queue is full. -/
def State.issue (s : State) (x : Thread) (r : Request) (desc : Bytes) : Option State :=
  let op := u8 desc 0
  if op = 1 then
    match pickMin s.queuedBags (s.creeksOf x.glen) with
    | none => some (s.fail x.req 0x0D 0)
    | some k =>
      if 128 ≤ s.queuedBags k then none else
      let (i, s) := s.fresh
      some (s.setCore { s.core with bags := put s.core.bags i { req := x.req, glen := x.glen, creek := k, desc } })
  else if op = 0x10 || op = 0x11 then
    if 256 ≤ s.queuedPlain x.glen then none else
    let (i, s) := s.fresh
    some (s.setCore { s.core with plain := put s.core.plain i { req := x.req, ctx := r.ctx, glen := x.glen, desc } })
  else some (s.fail x.req 0x16 0)

def execThreadIssue (t : Nat) (desc : Bytes) (next : Nat) (s : State) : Out :=
  s.thread t next fun x r _ s =>
    match s.issue x r desc with
    | some s => s
    | none => s.updThread t fun y => { y with wait := .issue desc }

/-- Space frees in the unit's queue, and a waiting thread queues its descriptor. -/
def execIssueQueueSpace (t : Nat) (s : State) : Out :=
  .next (match look s.core.threads t with
    | none => s
    | some x => match x.wait, look s.core.reqs x.req with
      | .issue d, some r =>
        if x.saved || !s.resident r then s
        else match s.issue { x with wait := .run } r d with
        | some s => s.updThread t fun y => { y with wait := .run }
        | none => s
      | _, _ => s)

/-! ## Sync operations (Tables 10.2, 10.7) -/

/-- A SYNC_REF with a reserved bit set. -/
def refBad (w : Nat) : Bool := w / 2 ^ 14 % 4 ≠ 0 || w / 2 ^ 19 % 32 ≠ 0 || w / 2 ^ 33 ≠ 0 || (!bit w 32 && w / 2 ^ 16 % 2 ^ 16 ≠ 0)

/-- Run a sync operation on a local object, or end the request. -/
def State.syncOp (s : State) (t next : Nat) (ref : W64) (f : Nat → Thread → Request → State → State) : Out :=
  s.thread t next fun x r _ s =>
    let w := ref.toNat
    if refBad w || bit w 32 then s.fail x.req 0x16 0
    else match s.syncIndex r.valley r.stamp.bnd (w % 2 ^ 14) with
    | none => s.fail x.req 0x16 0
    | some g => f g x r s

/-- READ; `bad`: the object is found in error and marked POISONED first. -/
def execSyncRead (t : Nat) (ref : W64 × Bool) (dst next : Nat) (s : State) : Out :=
  s.syncOp t next ref.1 fun g _ _ s =>
    let s := if ref.2 then s.poisonObj g else s
    if (s.obj g).poisoned then s.setStatus t 2
    else (s.updThread t fun y => { y with regs := setReg y.regs dst (s.obj g).value.toNat }).setStatus t 0

def execSyncAdd (t : Nat) (ref : W64) (n : W64) (next : Nat) (s : State) : Out :=
  if bit ref.toNat 32 then
    s.thread t next fun x r _ s =>
      let w := ref.toNat
      if refBad w || w / 2 ^ 24 % 256 = s.dev.nodeId then s.fail x.req 0x16 0
      else s.trySignal t x r (w / 2 ^ 24 % 256) (w / 2 ^ 16 % 8) (w % 2 ^ 14) n.toNat
  else s.syncOp t next ref fun g x _ s => s.tryRelease t x false g n.toNat

def execSyncSet (t : Nat) (ref : W64) (value : W64) (next : Nat) (s : State) : Out :=
  s.syncOp t next ref fun g x _ s => s.tryRelease t x true g value.toNat

/-- Begin a wait; a poisoned object returns POISONED and latches (Table 10.5). -/
def State.waitOn (s : State) (t g us : Nat) (x : Thread) (w : Nat → Wait) : State :=
  if 1000000 < us then s.fail x.req 0x16 0
  else if (s.obj g).poisoned then (s.setStatus t 2).fail x.req 0x17 0
  else (s.updThread t fun y => { y with wait := w (if us = 0 then 10000 else us) }).beginWait t

def execSyncWaitGe (t : Nat) (ref : W64) (target : W64) (us dst next : Nat) (s : State) : Out :=
  s.syncOp t next ref fun g x _ s => s.waitOn t g us x fun u => .ge g target.toNat s.now u dst false

def execSyncAcquire (t : Nat) (ref : W64) (n us dst next : Nat) (s : State) : Out :=
  s.syncOp t next ref fun g x _ s =>
    if n = 0 || 2 ^ 32 < n then s.fail x.req 0x16 0
    else s.waitOn t g us x fun u => .acquire g n s.now u dst false

/-- A wait of a thread reaches its timeout: it returns TIMEOUT and the value, the object is unchanged, and the acquire
line is served again without it (R370, R371, R373). -/
def State.timeoutThread (s : State) (t : Nat) (x : Thread) : State :=
  match x.wait with
  | .ge o _ since us _ _ => ((s.advanceTo (since + 1000 * us)).wake t 1 (some (s.obj o).value)).resume
  | .acquire o _ since us _ _ =>
    let s := ((s.advanceTo (since + 1000 * us)).wake t 1 (some (s.obj o).value)).leaveLines (· = t)
    (State.serveLine o (s.obj o).line.length s).resume
  | _ => s

/-- DEP_TIMEOUT_US runs out: the task starts with TIMEOUT (R369). -/
def State.timeoutTask (s : State) (k : Nat) (x : Task) : State :=
  let us := if u32 x.record 12 = 0 then 10000 else u32 x.record 12
  let s := s.advanceTo (x.since + 1000 * us)
  (s.setCore { s.core with tasks := put s.core.tasks k { x with ready := true, status := 1 } }).resume

/-- The wait entry of a waiter of request i on glen g is found in error: that wait ends with its request (Table 10.5). -/
def State.entryLost (s : State) (g i : Nat) : State :=
  match look s.core.reqs i with
  | some r => (s.glenFault g r 2 0xFFFF 1).fail i 0x17 0
  | none => s

/-- `waiter` is a waiting thread, or else a deferred task. `bad`: its wait entry is in error instead. -/
def execSyncWaitTimeout (waiter : Nat × Bool) (s : State) : Out :=
  .next (match look s.core.threads waiter.1, look s.core.tasks waiter.1 with
    | some x, _ =>
      if x.saved then s
      else if waiter.2 then (if x.holdsEntry then s.entryLost x.glen x.req else s)
      else s.timeoutThread waiter.1 x
    | none, some k =>
      if k.ready || k.saved then s
      else if waiter.2 then s.entryLost k.glen k.req
      else s.timeoutTask waiter.1 k
    | none, none => s)

/-! ## Tasks (R368, R369, R398) -/

/-- A malformed task record, or one naming an object the valley lacks (Tables 10.4, 10.5). -/
def State.taskBad (s : State) (v b : Nat) (rec : Bytes) : Bool :=
  let g := u8 rec 4
  2 ≤ u8 rec 5 || u16 rec 6 ≠ 0 || (g ≠ 0xFF && g ∉ s.stampGlens v b) ||
  (bit (u8 rec 5) 0 && ((s.syncIndex v b (u32 rec 8)).isNone || 1000000 < u32 rec 12))

def execThreadEnqueue (t : Nat) (record : Bytes) (next : Nat) (s : State) : Out :=
  s.thread t next fun x r _ s =>
    let rec' := fit 64 record
    let g := u8 rec' 4
    let queue := if g = 0xFF then none else some g
    let mine := s.core.tasks.filter fun k => match queue with
      | some g => k.2.queue = some g
      | none => k.2.queue = none && ((look s.core.reqs k.2.req).map fun q => q.valley == r.valley).getD false
    if s.taskBad r.valley r.stamp.bnd rec' then s.fail x.req 0x16 0
    else if (if queue.isSome then 512 else 4096) ≤ mine.length then s.setStatus t 3
    else
      let dep := bit (u8 rec' 5) 0
      let obj := (s.syncIndex r.valley r.stamp.bnd (u32 rec' 8)).map s.obj
      let met := (obj.map fun o => decide (u64 rec' 16 ≤ o.value.toNat)).getD true
      let eg := queue.getD x.glen
      if dep && (obj.map (·.poisoned)).getD false then (s.setStatus t 2).fail x.req 0x17 0
      else if dep && !met && 4096 ≤ s.entries eg then s.setStatus t 3
      else
        let (i, s) := s.fresh
        let k : Task := { req := x.req, queue, glen := eg, record := rec', ready := !dep || met, since := s.now }
        ((s.setCore { s.core with tasks := put s.core.tasks i k }).setStatus t 0).fill r.valley

/-! ## Fences and exit -/

def execFenceLocal (t next : Nat) (s : State) : Out :=
  s.thread t next fun _ _ _ s => s.updThread t fun y => { y with wait := .fence false }

def execFenceGlobal (t next : Nat) (s : State) : Out :=
  s.thread t next fun _ _ _ s => s.updThread t fun y => { y with wait := .fence true }

/-- A fence waits for the writes that the host has still to make way for; a global one also for the thread's remote
writes (R378). -/
def execFenceComplete (t : Nat) (s : State) : Out :=
  .next (match look s.core.threads t with
    | none => s
    | some x => match x.wait with
      | .fence all => if s.writesPend x.req || (all && s.unacked t none) then s else s.updThread t fun y => { y with wait := .run }
      | _ => s)

def execThreadExit (t : Nat) (s : State) : Out :=
  s.thread t 0 fun x _ _ s =>
    (s.setCore { s.core with threads := del s.core.threads t }).settle x.req

/-! ## Remote signals (R382, R394) -/

/-- A SIGNAL from a peer, and its answer. -/
def State.signalRequest (s : State) (src tag : Nat) (msg : Bytes) : State :=
  if !s.servesPeers then s else
  let v := u8 msg 4
  let answer := fun (s : State) (st : Nat) =>
    s.send { dest := src, src := s.dev.nodeId, tag, kind := 4, msg := leBytes 2 (u16 msg 0) ++ leBytes 2 st ++ leBytes 1 v ++ zeros 3 }
  if msg.length < 16 then s.sendError src tag 3 4 msg
  else match (if v < 8 then s.syncIndex v (s.bndNow v) (u16 msg 2) else none) with
  | none => answer s 2
  | some g =>
    let o := s.obj g
    if s.inTransit g then answer s 2
    else if !o.ctrl.getLsbD 16 || 8 ≤ tag || !o.ctrl.getLsbD (24 + tag) then
      answer (s.setObj g { o with refused := satAdd 0xFFFF o.refused 1 }) 1
    else
      let (s, ok) := s.syncAdd g (BitVec.ofNat 64 (u64 msg 8))
      answer s (if ok then 0 else 3)

def execRemoteSignalReceive (src tag : Nat) (msg : Bytes) (s : State) : Out := .next (s.signalRequest src tag msg)

/-- Take an answered remote operation off the list. -/
def State.dropRemote (s : State) (i : Nat) : State := s.setCore { s.core with remote := del s.core.remote i }

/-- SIGNAL_ANS: a refusal latches CMPL_REMOTE_REFUSED; a late answer matches nothing (R394). -/
def State.signalAnswer (s : State) (node tag status : Nat) : State :=
  match s.core.remote.find? fun m => m.2.kind = 3 && m.2.tag = tag && m.2.node = node with
    | none => s
    | some (i, m) =>
      let s := s.dropRemote i
      if status = 0 then s.settle m.req else s.fail m.req 0x15 0

def execRemoteSignalAnswer (node tag status : Nat) (s : State) : Out := .next (s.signalAnswer node tag status)

/-- No answer to a remote ADD within 1 ms. -/
def execRemoteSignalTimeout (tag : Nat) (s : State) : Out :=
  .next (match s.core.remote.find? fun m => m.2.kind = 3 && m.2.tag = tag with
    | none => s
    | some (i, m) => ((s.advanceTo (m.sent + 1000000)).dropRemote i).fail m.req 0x0E 0)

end Sys2Proof.Machine
end

