-- ==== Sys2Proof/Machine/Creek.lean ====
section
/-! DEFINITION. The Creeks (06): taking bags and resolving their indices, fetches, lookups on peers, and
the Confluence stage with the end of a bag (R219-R231, R242-R246). -/
namespace Sys2Proof.Machine
open Sys2Proof

/-! ## The bag descriptor (Table 6.9) -/

def Bag.poolOp (b : Bag) : Nat := u8 b.desc 1
def Bag.outFmt (b : Bag) : Nat := u8 b.desc 2
def Bag.idxBytes (b : Bag) : Nat := if bit (u8 b.desc 3) 0 then 8 else 4
def Bag.oor (b : Bag) : Nat := u8 b.desc 3 / 2 % 4
def Bag.set (b : Bag) : Nat := u32 b.desc 4 % 256
def Bag.table (b : Bag) : Nat := u32 b.desc 4 / 256 % 1024
def Bag.key (b : Bag) : Nat := tableKey b.set b.table
def Bag.count (b : Bag) : Nat := u16 b.desc 8
def Bag.sync (b : Bag) : Nat := u32 b.desc 12
def Bag.dest (b : Bag) : Nat := u32 b.desc 16
def Bag.status (b : Bag) : Nat := u32 b.desc 20
def Bag.src (b : Bag) : Nat := u8 b.desc 29
def Bag.wsum (b : Bag) : Bool := b.poolOp = 4

/-- The table a bag names, if its set belongs to the request's valley and both are there for its stamp. -/
def State.bagTable (s : State) (r : Request) (b : Bag) : Option Table :=
  match look s.core.sets b.set, look s.core.tables b.key with
  | some x, some t =>
    if x.valley = r.valley && (look r.stamp.epochs b.set).isSome && t.live r.stamp.bnd then some t else none
  | _, _ => none

/-- A malformed descriptor (R246), but for the extent of an output that is not pooled. -/
def State.bagBad (s : State) (r : Request) (c : Context) (b : Bag) : Bool :=
  let d := b.desc
  u8 d 0 ≠ 1 || 4 < b.poolOp || 5 < b.outFmt || 2 < b.src || b.oor = 3 || u8 d 3 / 8 ≠ 0 || u32 d 4 / 2 ^ 18 ≠ 0 ||
  u16 d 10 ≠ 0 || u16 d 30 ≠ 0 || 8192 < b.count || (b.wsum && b.src = 0) ||
  (b.src = 0 && 16 / b.idxBytes < b.count) || b.dest % 64 ≠ 0 || b.status % 8 ≠ 0 ||
  (b.src ≠ 0 && u64 d 32 % b.idxBytes ≠ 0) || (b.wsum && u64 d 40 % 4 ≠ 0) ||
  !c.inScratchRange b.status 8 || !s.syncOk r.valley r.stamp.bnd b.sync || !offersFmt r.stamp.personality b.outFmt ||
  match s.bagTable r b with
  | none => true
  | some t => b.poolOp ≠ 0 && !c.inScratchRange b.dest (t.width * (elemBits b.outFmt / 8))

/-! ## Errors of a bag (R227) -/

/-- The bag raises a code: its own first error, and the request's latch in the order of detection. -/
def State.bagErr (s : State) (i : Nat) (b : Bag) (code detail : Nat) : State :=
  let s := s.updBag i fun b => { b with err := b.err <|> some code, resolved := true }
  let s := if code = 0x12 then s.updTable b.key fun t => { t with poisoned := t.poisoned + 1 } else s
  s.latch b.req code detail

def Bag.reader (b : Bag) (r : Request) : Reader := { valley := r.valley, bnd := r.stamp.bnd, ctx := r.ctx, creek := b.creek, cmpl := 0x12 }

/-! ## Index and weight lists -/

/-- Read one list: its bytes, zeros while a peer's answer is awaited, or the code it raises. -/
def State.loadList (s : State) (b : Bag) (r : Request) (c : Context) (loc n : Nat) (use : RemoteUse) :
    State × Except (Nat × Nat) Bytes :=
  if n = 0 then (s, .ok [])
  else if b.src = 1 then
    if !c.inScratchRange loc n then (s, .error (0x11, 0))
    else if s.scratchPoisoned b.glen loc n then (s, .error (0x17, 0))
    else (s, .ok (s.scratchRead b.glen loc n))
  else match s.barred r loc n false with
    | some e => (s.recordBarred r loc e.1, .error e)
    | none =>
      if s.isRemote loc then (s.readRemote use b.req b.glen r.valley loc n, .ok (zeros n))
      else (s.fetch r.valley (localOf loc) n, .ok (s.bytes (localOf loc) n))

/-- A part of a longer read put in its place. -/
def patchAt (p : Bytes) (off : Nat) (d : Bytes) : Bytes := p.take off ++ d ++ p.drop (off + d.length)

/-- A list of this bag is still awaited from a peer. -/
def State.listsAwaited (s : State) (i : Nat) : Bool :=
  s.core.remote.any fun m => m.2.use == .indexList i || m.2.use == .weightList i

/-! ## Resolving (R220, R221) -/

/-- One position more. -/
def Bag.position (b : Bag) (i : Nat) (p : Pos) : Bag :=
  { b with positions := b.positions ++ [(b.positions.length, p)], listPos := b.listPos ++ [i] }

def Bag.fails (b : Bag) (code : Nat) : Bag := { b with err := b.err <|> some code }

/-- The default row takes a position: +0 at once, or the stored row to be fetched. -/
def Bag.default (b : Bag) (t : Table) (i : Nat) : Bag :=
  { (b.position i (if t.dfltRow then .dflt else .values (List.replicate t.width 0))) with missing := b.missing + 1 }

/-- TRACK adds 1 to a slot's temperature (R282). -/
def State.track (s : State) (b : Bag) (slot : Nat) : State :=
  match s.session b.set true with
  | some x =>
    if x.table = b.table then
      s.writeThrough (x.temp + slot) [BitVec.ofNat 8 (satAdd 255 (u8 (s.bytes (x.temp + slot) 1) 0) 1)]
    else s
  | none => s

/-- One index of a bag. -/
def State.resolveIndex (s : State) (r : Request) (t : Table) (epoch : Nat) (b : Bag) (i idx : Nat) : State × Bag :=
  if t.rows ≤ idx then
    match b.oor with
    | 0 => (s, (b.position i (.values [])).fails 0x13)
    | 1 => (s, { b with skipped := b.skipped + 1 })
    | _ => (s, b.default t i)
  else
    let slot := idx / 2 ^ t.shift
    let k := idx % 2 ^ t.shift
    let a := t.map + 16 * slot + 8 * (epoch % 2)
    let s := s.track b slot
    let lost := fun (s : State) =>
      (s.updTable b.key fun t => { t with poisoned := t.poisoned + 1 }, (b.position i (.values [])).fails 0x12)
    if s.poisoned a 8 then lost (s.recordLost (b.reader r) a 8 slot)
    else
      let s := s.fetch r.valley a 8
      let e := s.mapEntry t slot epoch
      if badEntry6 e then lost s
      else if tierOf e = 0 then (s, b.default t i)
      else if isT3 e then (s, b.position i (.remote (t3Node e) (t3Set e) (t3Table e) (t3Row e + k) false))
      else (s, b.position i (.row b.set b.table idx (baseOf e) k))

/-- Rows one LOOKUP may name: its answer stays within 8,192 bytes (R548). -/
def Table.lookupRows (t : Table) : Nat := min 8 ((8192 - 12) / (4 + t.stride + 4 * t.scales))

/-- Requests of a Creek outstanding, both directions together (Table 6.6). -/
def State.creekRemote (s : State) (k : Nat) : Nat :=
  (s.core.remote.filter fun m => match m.2.use with
    | .lookup i _ => ((look s.core.bags i).map fun b => b.creek == k).getD false
    | _ => false).length + (s.peersOn k).length

/-- Positions still to be asked of a peer: the first, and those that may share its request. -/
def Bag.nextAsk (b : Bag) (most : Nat) : Option (Nat × Nat × Nat × TMap Nat) :=
  let open_ := b.positions.filterMap fun p => match p.2 with
    | .remote n x t row false => some (p.1, n, x, t, row)
    | _ => none
  match open_ with
  | [] => none
  | (_, n, x, t, _) :: _ =>
    some (n, x, t, ((open_.filter fun p => p.2.1 = n && p.2.2.1 = x && p.2.2.2.1 = t).take most).map fun p => (p.1, p.2.2.2.2))

def lookupMsg (set table epoch : Nat) (rows : List Nat) (tag : Nat) : Bytes :=
  leBytes 2 tag ++ leBytes 1 set ++ leBytes 1 rows.length ++ leBytes 2 table ++ zeros 2 ++ leBytes 4 epoch ++ zeros 4 ++
    rows.flatMap (leBytes 8)

/-- Send the lookups of a bag (R228) while its Creek may have one more outstanding. -/
def State.askRows (i : Nat) : Nat → State → State
  | 0, s => s
  | k + 1, s =>
    match look s.core.bags i with
    | none => s
    | some b =>
      match look s.core.reqs b.req with
      | none => s
      | some r =>
        match s.bagTable r b with
        | none => s
        | some t =>
          if b.err.isSome || 256 ≤ s.creekRemote b.creek then s else
          match b.nextAsk t.lookupRows with
          | none => s
          | some (node, set, table, rows) =>
            let ps := rows.map (·.1)
            let s := s.updBag i fun b => { b with positions := b.positions.map fun p =>
              (p.1, if p.1 ∈ ps then (match p.2 with | .remote n x t row _ => .remote n x t row true | x => x) else p.2) }
            let s := s.askRemote { use := .lookup i ps, req := b.req, glen := b.glen, kind := 1, node, sent := 0, tag := 0 }
              r.valley (lookupMsg set table ((look r.stamp.epochs b.set).getD 0) (rows.map (·.2)))
            State.askRows i k s

/-- Waiting bags of a Creek send what its limit now allows. -/
def State.pumpCreek (s : State) (k : Nat) : State :=
  (s.core.bags.filter fun b => b.2.creek = k && b.2.resolved).foldl (fun s b => State.askRows b.1 b.2.positions.length s) s

/-- Resolve every index once the lists are there. -/
def State.resolveBag (s : State) (i : Nat) : State :=
  match look s.core.bags i with
  | none => s
  | some b =>
    if b.resolved || b.index.isNone || b.weights.isNone || s.listsAwaited i then s else
    match look s.core.reqs b.req with
    | none => s
    | some r =>
      match s.bagTable r b, s.ctxOf r with
      | some t, some c =>
        let epoch := (look r.stamp.epochs b.set).getD 0
        if !s.mapThere (b.reader r) t then (s.recordLost (b.reader r) t.map (16 * t.slots) 0).bagErr i b 0x12 0
        else
          let ix := (List.range b.count).map fun j => leNat (slice (b.index.getD []) (j * b.idxBytes) b.idxBytes)
          let (s, b, _) := ix.foldl (fun (acc : State × Bag × Nat) idx =>
            let (s, b) := acc.1.resolveIndex r t epoch acc.2.1 acc.2.2 idx
            (s, b, acc.2.2 + 1)) (s, b, 0)
          let n := b.positions.length
          let b := { b with resolved := true }
          let s := (s.setCore { s.core with bags := put s.core.bags i b }).count (48 + b.creek) n
          let s := s.updTable b.key fun t => { t with lookups := t.lookups + n, missing := t.missing + b.missing }
          match b.err with
          | some code => s.latch b.req code 0
          | none =>
            if b.poolOp = 0 && !c.inScratchRange b.dest (n * t.width * (elemBits b.outFmt / 8)) then s.bagErr i b 0x16 0
            else State.askRows i n s
      | _, _ => s.bagErr i b 0x16 0

/-- A Creek begins a bag: its descriptor is checked and its lists are read. -/
def State.beginBag (s : State) (i : Nat) : State :=
  let s := s.updBag i fun b => { b with running := true }
  match look s.core.bags i with
  | none => s
  | some b =>
    match look s.core.reqs b.req with
    | none => s
    | some r =>
      match s.ctxOf r with
      | none => s
      | some c =>
        if s.bagBad r c b then s.bagErr i b 0x16 0
        else if b.src = 0 then
          (s.updBag i fun b => { b with index := some (slice b.desc 48 (b.count * b.idxBytes)), weights := some [] }).resolveBag i
        else
          match s.loadList b r c (u64 b.desc 32) (b.count * b.idxBytes) (.indexList i) with
          | (s, .error e) => s.bagErr i b e.1 e.2
          | (s, .ok ix) =>
            match s.loadList b r c (u64 b.desc 40) (if b.wsum then 4 * b.count else 0) (.weightList i) with
            | (s, .error e) => s.bagErr i b e.1 e.2
            | (s, .ok ws) => (s.updBag i fun b => { b with index := some ix, weights := some ws }).resolveBag i

/-! ## The Creek's rounds (R235) -/

/-- The oldest bag queued on a Creek whose context is resident. -/
def State.nextBag (s : State) (k : Nat) : Option Nat :=
  (s.core.bags.find? fun b => b.2.creek = k && !b.2.running && !b.2.saved &&
    ((look s.core.reqs b.2.req).map s.resident).getD false).map (·.1)

def State.turn (s : State) (k : Nat) : State :=
  s.setCore { s.core with turns := upd s.core.turns k 0 fun n => (n + 1) % 16 }

/-- PEER_WEIGHT of the valley a Creek works for. -/
def State.weightOf (s : State) (k : Nat) : Nat :=
  match (List.range 8).find? fun v => ((s.profile v).map fun p => p.glens.getLsbD (k / 2)).getD false with
  | some v => (s.valley v).peerWeight
  | none => 4

/-- Turns of a round until one of its own bags is taken: the first PEER_WEIGHT of 16 go to peers. -/
def State.creekRound (k : Nat) : Nat → State → State
  | 0, s => s
  | n + 1, s =>
    match s.peersOn k, s.nextBag k with
    | p :: _, none => State.creekRound k n ((s.takePeer p).turn k)
    | p :: _, some i =>
      if lookD s.core.turns k 0 < s.weightOf k then State.creekRound k n ((s.takePeer p).turn k)
      else (s.turn k).beginBag i
    | [], some i => (s.turn k).beginBag i
    | [], none => s

def execCreekBagDispatch (creek : Nat) (s : State) : Out :=
  .next (if 64 ≤ creek || s.isRetired 2 creek || s.fenced 2 creek then s
    else State.creekRound creek ((s.peersOn creek).length + 1) s)

/-! ## Fetches -/

def State.setPos (s : State) (i p : Nat) (x : Pos) : State :=
  s.updBag i fun b => { b with positions := put b.positions p x }

/-- FP32 patterns of a row. -/
def patterns (l : List Num) : List Nat := l.map (fp32.narrow 32)

/-- The ranges a position's fetch reads: its row and scale entries, or the default row. -/
def Bag.fetchRanges (t : Table) : Pos → List (Nat × Nat)
  | .row _ _ _ base k => [(base + k * t.stride, t.stride), (base + t.scaleOff + k * t.scales * 4, t.scales * 4)]
  | .dflt => [(t.dflt, t.stride + 4 * t.scales)]
  | _ => []

/-- A row, or the default row, of position p has landed: poison and CRC are checked and it is dequantised. Where it
came from is kept until the bag ends. -/
def State.landRow (s : State) (bag pos : Nat) : State :=
  match look s.core.bags bag with
  | none => s
  | some b =>
    match look s.core.reqs b.req, look s.core.tables b.key with
    | some r, some t =>
      let kept := fun (s : State) (at_ : Nat) (w : List Nat) =>
        (s.setPos bag pos (.values w)).updBag bag fun b => { b with homes := b.homes ++ [at_] }
      (match look b.positions pos with
      | some (.row _ _ row base k) =>
        (match s.readRow (b.reader r) t base k row with
        | (s, some x) => kept s (base + k * t.stride) (patterns (t.values x))
        | (s, none) => (s.setPos bag pos (.values [])).bagErr bag b 0x12 0)
      | some .dflt =>
        (match s.readDefault (b.reader r) t with
        | (s, some x) => kept s t.dflt (patterns (t.dfltValues x))
        | (s, none) => (s.setPos bag pos (.values [])).bagErr bag b 0x12 0)
      | _ => s)
    | _, _ => s

/-- A fetch completes, with what the memory's codes found. It waits while the host holds what it reads (R148, R762). -/
def execCreekFetchComplete (bag : Nat) (pos : Nat × List Ecc) (s : State) : Out :=
  .next (match look s.core.bags bag with
    | none => s
    | some b =>
      match look s.core.reqs b.req, look s.core.tables b.key, look b.positions pos.1 with
      | some _, some t, some p =>
        let rs := Bag.fetchRanges t p
        if b.saved || rs.isEmpty || rs.any (fun x => s.hostWaits x.1) then s
        else if rs.any fun x => !(s.hostHolds x.1 x.2 false).isEmpty then rs.foldl (fun s x => s.recall x.1 x.2 false) s
        else (s.eccAll pos.2).landRow bag pos.1
      | _, _, _ => s)

/-! ## Answers from peers (R230, R547) -/

/-- The remote operation an answer of some message types matches, and its number. -/
def State.remoteOf (s : State) (node tag : Nat) (kinds : List Nat) : Option (Nat × Remote) :=
  s.core.remote.find? fun m => m.2.node = node && m.2.tag = tag && m.2.kind ∈ kinds

/-- A remote operation that a bag or a thread waits for fails with a code. -/
def State.remoteFails (s : State) (m : Remote) (code : Nat) : State :=
  match m.use with
  | .lookup i _ | .indexList i | .weightList i =>
    (match look s.core.bags i with
    | some b => (s.bagErr i b code 0).pumpCreek b.creek
    | none => s.settle m.req)
  | .weights i => (s.updPlain i fun o => { o with err := o.err <|> some code }).latch m.req code 0
  | .replay k i => s.updCtx k fun c => { c with replayData := put c.replayData i none }
  | .load _ | .store _ | .signal _ => s.fail m.req code 0

/-- One row of a LOOKUP_ANS at byte o: the state, the offset after it, and the code it raises. -/
def State.answerRow (s : State) (i p row : Nat) (b : Bag) (r : Request) (t : Table) (msg : Bytes) (o : Nat) : State × Nat :=
  let st := u8 msg o
  let n := t.stride + 4 * t.scales
  if st = stOk then
    let x : StoredRow := {
      payload := slice msg (o + 4) t.payload, crc := u32 msg (o + 4 + t.payload), scales := slice msg (o + 4 + t.stride) (4 * t.scales) }
    if msg.length < o + 4 + n then ((s.setPos i p (.values [])).bagErr i b 0x15 0, o + 4 + n)
    else if x.good row then (s.setPos i p (.values (patterns (t.values x))), o + 4 + n)
    else
      let c : UnitRef := { cls := 2, idx := b.creek }
      let s := s.error { (b.reader r).event 4 0 row with
        cls := 2, unit := b.creek, expected := x.crc, observed := (rowCrc row x.scales x.payload).toNat } [c]
      ((s.setPos i p (.values [])).bagErr i b 0x12 0, o + 4 + n)
  else if st = stMissing then
    let s := s.updTable b.key fun t => { t with missing := t.missing + 1 }
    let s := s.updBag i fun b => { b with missing := b.missing + 1 }
    (s.setPos i p (if t.dfltRow then .dflt else .values (List.replicate t.width 0)), o + 4)
  else ((s.setPos i p (.values [])).bagErr i b (if st = stGone || st = stAhead then 0x14 else 0x15) 0, o + 4)

/-- A LOOKUP_ANS from a node (R230). -/
def State.lookupAnswer (s : State) (src : Nat) (msg : Bytes) : State :=
  match s.remoteOf src (u16 msg 0) [1] with
  | none => s
  | some (k, m) =>
    let s := s.dropRemote k
    match m.use with
    | .lookup i ps =>
      match look s.core.bags i with
      | none => s.settle m.req
      | some b =>
        match look s.core.reqs b.req, look s.core.tables b.key with
        | some r, some t =>
          let s := if u8 msg 3 ≠ t.fmt || u16 msg 4 ≠ t.width || u8 msg 6 ≠ t.group
            then s.bagErr i b 0x15 0
            else (ps.foldl (fun (acc : State × Nat) p =>
              match look b.positions p with
              | some (.remote _ _ _ row _) => acc.1.answerRow i p row b r t msg acc.2
              | _ => acc) (s, 12)).1
          s.pumpCreek b.creek
        | _, _ => s
    | _ => s

def execRemoteLookupResponse (src : Nat) (msg : Bytes) (s : State) : Out := .next (s.lookupAnswer src msg)

/-- No answer within 1 ms; `op` is the number of the remote operation. -/
def execRemoteOperationTimeout (op : Nat) (s : State) : Out :=
  .next (match look s.core.remote op with
    | none => s
    | some m => if m.kind = 3 then s else ((s.advanceTo (m.sent + 1000000)).dropRemote op).remoteFails m 0x0E)

/-! ## The end of a bag (R223-R227) -/

/-- The output bytes of a bag (R226). -/
def Bag.output (b : Bag) (p w : Nat) : Bytes :=
  let rows := b.positions.map fun x => match x.2 with | .values l => l | _ => []
  let ws := b.listPos.map fun j => fp32.decode (u32 (b.weights.getD []) (4 * j))
  let z := signed 8 (u8 b.desc 28)
  let conv := fun (y : Num) => leBytes (elemBits b.outFmt / 8) (confluence p b.outFmt (u32 b.desc 24) z y)
  let col := fun (j : Nat) => rows.map fun l => fp32.decode (l.getD j 0)
  if b.poolOp = 0 then rows.flatMap fun l => (List.range w).flatMap fun j => conv (fp32.decode (l.getD j 0))
  else (List.range w).flatMap fun j => conv (pool b.poolOp p (col j) ws)

/-- A row of the bag came from storage that has been lost since: the request read it in flight (R194). -/
def State.bagLost (s : State) (b : Bag) (r : Request) : Bool := b.homes.any fun a => !s.readable (b.reader r) a 1

def Bag.done (b : Bag) : Bool :=
  b.running && !b.saved && b.resolved && (b.err.isSome || b.positions.all fun p => match p.2 with | .values _ => true | _ => false)

/-- Status word (Table 6.10). -/
def Bag.word (b : Bag) (code : Nat) : Bytes :=
  leBytes 1 code ++ leBytes 1 1 ++ leBytes 2 b.positions.length ++ leBytes 2 b.missing ++ leBytes 2 b.skipped

/-- Output, status word, SYNC; then whatever the end of the bag allows. A residue error in the Confluence
stage ends the request with poison (R677). A bag in progress when another error was latched ends with none of the three
(R387). -/
def execCreekBagComplete (bag : Nat) (residue : Bool) (s : State) : Out :=
  .next (match look s.core.bags bag with
    | none => s
    | some b =>
      if !b.done then s else
      match look s.core.reqs b.req with
      | none => s
      | some r =>
        match s.ctxOf r with
        | none => s
        | some c =>
          let s := if b.err.isNone && s.bagLost b r then s.bagErr bag b 0x12 0 else s
          let b := (look s.core.bags bag).getD b
          let still := b.err.isNone && r.latch.isSome
          let hit := residue && b.err.isNone && !still
          let s := if hit then
              (s.error { source := 3, event := 6, cls := 2, unit := b.creek, valley := r.valley, ctx := r.ctx, scope := 1, cmpl := 0x17 }
                [{ cls := 2, idx := b.creek }]).latch b.req 0x17 0
            else s
          let code := if hit then some 0x17 else b.err
          let w := ((look s.core.tables b.key).map Table.width).getD 0
          let s := if code.isNone && !still then s.scratchWrite b.glen b.dest (b.output r.stamp.personality w) else s
          let s := if !still && b.status % 8 = 0 && c.inScratchRange b.status 8 then s.scratchWrite b.glen b.status (b.word (code.getD 0)) else s
          let s := s.setCore { s.core with
            bags := del s.core.bags bag
            remote := s.core.remote.filter fun m => match m.2.use with
              | .lookup i _ | .indexList i | .weightList i => i ≠ bag
              | _ => true }
          let s := if still then s else s.engineSync b.req r b.sync
          (s.pumpCreek b.creek).settle b.req)

end Sys2Proof.Machine
end

