-- ==== Sys2Proof/Machine/Plain.lean ====
section
/-! DEFINITION. The Plain vector row (08): chains, weight loads, the weight-load log, and checked
execution (R686-R688). -/
namespace Sys2Proof.Machine
open Sys2Proof

/-! ## Descriptors (Tables 8.5, 8.6) -/

def PlainOp.isLoad (o : PlainOp) : Bool := u8 o.desc 0 = 0x11
def PlainOp.fmt (o : PlainOp) : Nat := u8 o.desc 1
def PlainOp.outFmt (o : PlainOp) : Nat := u8 o.desc 2
def PlainOp.accIn (o : PlainOp) : Bool := bit (u8 o.desc 3) 0
def PlainOp.relu (o : PlainOp) : Bool := bit (u8 o.desc 3) 1
def PlainOp.waves (o : PlainOp) : Nat := u8 o.desc 4
def PlainOp.lanes (o : PlainOp) : Nat := u8 o.desc 5
def PlainOp.last (o : PlainOp) : Nat := u16 o.desc 6
def PlainOp.wbase (o : PlainOp) : Nat := u16 o.desc 8
def PlainOp.param (o : PlainOp) : Nat := u16 o.desc 10
def PlainOp.act (o : PlainOp) : Nat := u32 o.desc 12
def PlainOp.dest (o : PlainOp) : Nat := u32 o.desc 16
def PlainOp.accSrc (o : PlainOp) : Nat := u32 o.desc 20
def PlainOp.span (o : PlainOp) : Nat := o.waves * waveSlot o.fmt
/-- SYNC, at its place in either descriptor. -/
def PlainOp.sync (o : PlainOp) : Nat := if o.isLoad then u32 o.desc 16 else u32 o.desc 24

def PlainOp.fromScratch (o : PlainOp) : Bool := bit (u8 o.desc 1) 0
def PlainOp.firstLane (o : PlainOp) : Nat := u8 o.desc 2
def PlainOp.laneCount (o : PlainOp) : Nat := u8 o.desc 3
def PlainOp.bytes (o : PlainOp) : Nat := u16 o.desc 4
def PlainOp.laneOff (o : PlainOp) : Nat := u16 o.desc 6
def PlainOp.src (o : PlainOp) : Nat := u64 o.desc 8

/-- Output bytes of a chain (R319). -/
def PlainOp.outBytes (o : PlainOp) : Nat :=
  if o.outFmt = 0xF then 4 * o.lanes else ceilDiv (o.lanes * elemBits o.outFmt) 8

/-- A chain descriptor that R322 or R334 refuses, before its parameters are read. -/
def State.chainBad (s : State) (r : Request) (c : Context) (o : PlainOp) : Bool :=
  let k := waveK o.fmt
  let p := r.stamp.personality
  k = 0 || !(o.outFmt ≤ 6 || o.outFmt = 0xF) || 4 ≤ u8 o.desc 3 || o.waves = 0 || 16 < o.waves || o.lanes = 0 || 128 < o.lanes ||
  o.last = 0 || k < o.last || o.wbase % 16 ≠ 0 || !c.inWeights o.wbase o.span ||
  (o.param ≠ 0xFFFF && (o.param % 16 ≠ 0 || !c.inWeights o.param 16)) ||
  o.act % 16 ≠ 0 || !c.inScratchRange o.act o.span ||
  (o.accIn && (o.accSrc % 16 ≠ 0 || !c.inScratchRange o.accSrc 512)) ||
  o.dest % 64 ≠ 0 || !c.inScratchRange o.dest o.outBytes ||
  ((o.outFmt = 5 || o.outFmt = 6) && !(o.fmt = 5 || o.fmt = 6)) || leNat (slice o.desc 29 3) ≠ 0 ||
  !s.syncOk r.valley r.stamp.bnd o.sync || !offersFmt p o.fmt || (o.outFmt ≠ 0xF && !offersFmt p o.outFmt)

def State.loadBad (s : State) (r : Request) (c : Context) (o : PlainOp) : Bool :=
  2 ≤ u8 o.desc 1 || o.laneCount = 0 || 128 < o.firstLane + o.laneCount || o.bytes < 16 || 16384 < o.bytes ||
  o.bytes % 16 ≠ 0 || o.laneOff % 16 ≠ 0 || !c.inWeights o.laneOff o.bytes || leNat (slice o.desc 20 12) ≠ 0 ||
  (!o.fromScratch && o.src % 64 ≠ 0) || (o.fromScratch && !c.inScratchRange o.src (o.bytes * o.laneCount)) ||
  !s.syncOk r.valley r.stamp.bnd o.sync

/-- Units of 256 lane bytes a span covers. -/
def unitsOf (off n : Nat) : List Nat :=
  (List.range (if n = 0 then 0 else (off + n - 1) / 256 - off / 256 + 1)).map (off / 256 + ·)

/-- The op writes or reads lane offsets that meet a span. -/
def PlainOp.meets (o : PlainOp) (off n : Nat) : Bool :=
  let hit := fun (a b : Nat) => a < off + n && off < a + b
  if o.isLoad then hit o.laneOff o.bytes else hit o.wbase o.span || (o.param ≠ 0xFFFF && hit o.param 16)

/-! ## Lane stores and ownership (R311) -/

def State.laneRead (s : State) (g lane off n : Nat) : Bytes := rdN s.core.lanes (laneAt g lane off) n

/-- A chunk that a span reads in some of the lanes is poisoned. -/
def State.lanesPoisoned (s : State) (g first count off n : Nat) : Bool :=
  s.core.lanePoison.any fun k =>
    let a := k * 16
    a / 2 ^ 21 = g && first ≤ a / 2 ^ 14 % 128 && a / 2 ^ 14 % 128 < first + count &&
    off ≤ a % 2 ^ 14 + 15 && a % 2 ^ 14 < off + n

/-- Zero one unit of every lane. -/
def State.zeroUnit (s : State) (g u : Nat) : State :=
  let s := (List.range 128).foldl (fun s l => s.setCore { s.core with lanes := zeroN s.core.lanes (laneAt g l (u * 256)) 256 }) s
  s.setCore { s.core with
    owner := del s.core.owner (g * 64 + u)
    lanePoison := s.core.lanePoison.filter fun x => !(x * 16 / 2 ^ 21 = g && x * 16 % 2 ^ 14 / 256 = u) }

/-- A context never reads a unit that another wrote last: what it has not reloaded there is zero. -/
def State.claimUnits (s : State) (g ctx off n : Nat) : State :=
  (unitsOf off n).foldl (fun s u =>
    if ((look s.core.owner (g * 64 + u)).map fun c => c != ctx).getD false then s.zeroUnit g u else s) s

/-- Write n bytes at a lane offset of some lanes, in full chunks, with the unit's new owner. -/
def State.writeLanes (s : State) (g ctx first off n : Nat) (src : Bytes) : State :=
  let s := s.claimUnits g ctx off n
  let s := (List.range (src.length / max 1 n)).foldl (fun s j =>
    let a := laneAt g (first + j) off
    s.setCore { s.core with
      lanes := wrN s.core.lanes a (slice src (j * n) n)
      lanePoison := s.core.lanePoison.filter fun x => !(a ≤ x * 16 && x * 16 < a + n) }) s
  (unitsOf off n).foldl (fun s u => s.setCore { s.core with owner := put s.core.owner (g * 64 + u) ctx }) s

/-! ## Errors -/

/-- An op raises a code: no output, and the request's latch. -/
def State.plainErr (s : State) (i : Nat) (o : PlainOp) (code : Nat) (detail : Nat := 0) : State :=
  (s.updPlain i fun o => { o with err := o.err <|> some code, running := true }).latch o.req code detail

/-- The record of poison that a Plain met, and the test of its glen. -/
def State.plainFault (s : State) (o : PlainOp) (r : Request) : State := s.glenFault o.glen r 3 0xFFFF 1

/-- An activation slot or a partial of the chain is poisoned (Table 8.4). -/
def State.operandPoisoned (s : State) (o : PlainOp) : Bool :=
  s.scratchPoisoned o.glen o.act o.span || (o.accIn && s.scratchPoisoned o.glen o.accSrc 512)

/-! ## Chains (R315-R319) -/

/-- The parameter block of a lane; all zero with PARAM 0xFFFF. -/
def State.paramOf (s : State) (o : PlainOp) (lane : Nat) : Bytes :=
  if o.param = 0xFFFF then zeros 16 else s.laneRead o.glen lane o.param 16

/-- The op meets a unit that the restore has not reloaded. -/
def PlainOp.meetsReload (o : PlainOp) (c : Context) : Bool :=
  c.reload.any fun k => k / 64 = o.glen && o.meets (k % 64 * 256) 256

/-- Lane l's accumulator after every wave. -/
def State.accOf (s : State) (o : PlainOp) (p lane : Nat) : Nat :=
  let k := waveK o.fmt
  let slot := waveSlot o.fmt
  let isInt := o.fmt = 5 || o.fmt = 6
  let za := signed 8 (u8 o.desc 28)
  let zw := signed 8 (u8 (s.paramOf o lane) 5)
  let acc0 := if o.accIn then u32 (s.scratchRead o.glen (o.accSrc + 4 * lane) 4) 0 else 0
  (List.range o.waves).foldl (fun acc v =>
    let kv := if v + 1 = o.waves then o.last else k
    let a := s.scratchRead o.glen (o.act + v * slot) slot
    let w := s.laneRead o.glen lane (o.wbase + v * slot) slot
    if isInt then waveInt o.fmt kv za zw acc a w else waveFloat p o.fmt kv acc a w) acc0

/-- The output of a chain, lane 0 first. -/
def State.chainOutput (s : State) (o : PlainOp) (p : Nat) : Bytes :=
  let accs := (List.range o.lanes).map fun l => (l, s.accOf o p l)
  if o.outFmt = 0xF then accs.flatMap fun a => leBytes 4 a.2
  else packElems o.outFmt (accs.map fun a => outlet p o.fmt o.outFmt o.relu a.2 (s.paramOf o a.1))

/-- SHIFT beyond -31 to 31 in a lane the chain writes. -/
def State.shiftBad (s : State) (o : PlainOp) : Bool :=
  (List.range o.lanes).any fun l => 31 < (signed 8 (u8 (s.paramOf o l) 4)).natAbs

/-- The oldest op of a glen not yet started. -/
def State.plainHead (s : State) (g : Nat) : Option (Nat × PlainOp) :=
  s.core.plain.find? fun o => o.2.glen = g && !o.2.running && !o.2.saved

def State.banksUsed (s : State) (g : Nat) : Nat :=
  (s.core.plain.filter fun o => o.2.glen = g && o.2.running && !o.2.isLoad).length

/-- The partner of a glen (R686): the next glen of the valley above it, wrapping; itself where none serves. -/
def State.partnerAt (s : State) (v b g : Nat) : Nat :=
  let l := (s.openGlens v b).filter (· ≠ g)
  match l.find? fun x => g < x with
  | some x => x
  | none => l.headD g

def State.partnerOf (s : State) (r : Request) (g : Nat) : Nat := s.partnerAt r.valley r.stamp.bnd g

/-- FRACTION codes in 1/256 (Table 18.11). -/
def fraction : Nat → Nat
  | 1 => 1 | 2 => 4 | 3 => 16 | 4 => 64 | 5 => 256 | _ => 0

/-- Add the chain's share to the wave credit; the credit left, and whether the chain is checked. -/
def State.creditFor (s : State) (r : Request) (o : PlainOp) : State × Bool :=
  let k := o.glen * 8 + r.valley
  let c := lookD s.flt.credit k 0 + o.waves * fraction r.stamp.checked
  let hit := fraction r.stamp.checked ≠ 0 && 256 * o.waves ≤ c
  ({ s with flt := { s.flt with credit := put s.flt.credit k (if hit then c - 256 * o.waves else c) } }, hit || s.fenced 1 o.glen)

/-- Start a chain: its operands are read and its result is formed. The first chain after a replay that failed ends
poisoned, and so does one that meets what it left (Table 8.4). -/
def State.startChain (s : State) (i : Nat) (o : PlainOp) (r : Request) (c : Context) : State :=
  let s := if c.replayErr then s.updCtx (ctxKey r.valley r.ctx) fun c => { c with replayErr := false } else s
  if s.chainBad r c o then s.plainErr i o 0x16
  else if c.replayErr || o.meetsReload c then s.plainErr i o 0x17
  else
    let s := s.claimUnits o.glen r.ctx o.wbase o.span
    let s := if o.param = 0xFFFF then s else s.claimUnits o.glen r.ctx o.param 16
    let s := s.count (16 + o.glen) o.waves
    let (s, hit) := s.creditFor r o
    if s.lanesPoisoned o.glen 0 128 o.wbase o.span || (o.param ≠ 0xFFFF && s.lanesPoisoned o.glen 0 128 o.param 16) ||
        s.operandPoisoned o then
      (s.plainFault o r).plainErr i o 0x17
    else if s.shiftBad o then s.plainErr i o 0x16
    else
      let d := s.chainOutput o r.stamp.personality
      let p := s.partnerOf r o.glen
      (if hit then s.ungate p else s).updPlain i fun o => { o with running := true, result := d, checked := hit, partner := p }


/-- The oldest op of a glen takes a bank if it is a chain whose weights are loaded. -/
def execPlainChainStart (glen : Nat) (s : State) : Out :=
  .next (match s.plainHead glen with
    | none => s
    | some (i, o) =>
      if o.isLoad || 32 ≤ s.banksUsed glen then s
      else if s.core.plain.any fun x => x.1 < i && x.2.glen = glen && x.2.isLoad && !x.2.saved && o.meets x.2.laneOff x.2.bytes then s
      else match look s.core.reqs o.req with
      | none => s
      | some r => match s.ctxOf r with
        | some c => if c.st = .resident then s.startChain i o r c else s
        | none => s)

/-- An op is over: SYNC where it is due, and what its request allows. -/
def State.endPlain (s : State) (i : Nat) (o : PlainOp) (r : Request) (signal : Bool) : State :=
  let s := s.setCore { s.core with plain := del s.core.plain i }
  let s := if signal then s.engineSync o.req r o.sync else s
  s.settle o.req

/-- An error that leaves no output. -/
def GlenErr.lost : GlenErr → Bool
  | .laneFixed _ | .scratchFixed _ => false
  | _ => true

/-- What the glen's codes found in a chain, an accumulator entry of bad parity among it (R330). -/
def chainErrs (parity : Bool) (errs : List GlenErr) : List GlenErr := if parity then errs ++ [.parity] else errs

/-- The chain ends, with what the glen's codes found in it (Table 8.4). A chain that an error of its own leaves without
output still adds 1 to SYNC (R331); one in progress when another error was latched does neither (R387). -/
def execPlainChainComplete (op : Nat) (parity : Bool) (errs : List GlenErr) (s : State) : Out :=
  .next (match look s.core.plain op with
    | none => s
    | some o =>
      if !o.running || o.isLoad || (o.checked && !o.compared && o.err.isNone) then s else
      match look s.core.reqs o.req with
      | none => s
      | some r =>
        let s := s.glenErrs o.glen r (chainErrs parity errs)
        let late := o.err.isNone && r.latch.isSome
        let s := if o.err.isNone && !late && (chainErrs parity errs).any GlenErr.lost then s.plainErr op o 0x17 else s
        let good := ((look s.core.plain op).map fun x => x.err.isNone).getD false
        let s := if good && !late then s.scratchWrite o.glen o.dest o.result else s
        if (look s.core.plain op).isNone then s else s.endPlain op o r (!late))

/-- The partner's run ends; `mismatch` is the lowest lane that differs (R688). A partner that became unusable is
replaced, and the check runs again (R702). -/
def execCheckedChainCompare (op : Nat) (mismatch : Option Nat) (s : State) : Out :=
  .next (match look s.core.plain op with
    | none => s
    | some o =>
      if !o.running || !o.checked || o.compared || o.err.isSome then s else
      match look s.core.reqs o.req with
      | none => s
      | some r =>
        if o.partner ≠ o.glen && o.partner ∉ s.openGlens r.valley r.stamp.bnd then
          s.updPlain op fun o => { o with partner := s.partnerOf r o.glen }
        else match mismatch with
        | none => s.updPlain op fun o => { o with compared := true }
        | some lane =>
          let us : List UnitRef := [{ cls := 1, idx := o.glen }] ++ (if o.partner = o.glen then [] else [{ cls := 1, idx := o.partner }])
          let s := s.error { source := 0x0A, event := 5, cls := 1, unit := o.glen, subunit := lane, valley := r.valley, ctx := r.ctx
                             scope := 1, flags := 4, cmpl := 0x0C, index := o.partner } us
          ((s.fenceUnits us).updPlain op fun o => { o with compared := true }).plainErr op o 0x0C)

/-! ## Weight loads (R312, R313, R326, R327) -/

/-- Another context's range covers one of the units a load writes. -/
def State.sharedUnits (s : State) (v ctx : Nat) (off n : Nat) : Bool :=
  s.core.ctxs.any fun c => c.1 / 128 = v && c.1 % 128 ≠ ctx && c.2.wUnits ≠ 0 &&
    (unitsOf off n).any fun u => c.2.wBase ≤ u && u < c.2.wBase + c.2.wUnits

/-- The source bytes of a load, zeros while a peer's are awaited, or the code it raises. -/
def State.loadSource (s : State) (i : Nat) (o : PlainOp) (r : Request) : State × Except (Nat × Nat) Bytes :=
  let n := o.bytes * o.laneCount
  if o.fromScratch then
    if s.scratchPoisoned o.glen o.src n then (s.plainFault o r, .error (0x17, 0)) else (s, .ok (s.scratchRead o.glen o.src n))
  else match s.barred r o.src n false with
    | some e => (s.recordBarred r o.src e.1, .error e)
    | none =>
      if s.isRemote o.src then (s.readRemote (.weights i) o.req o.glen r.valley o.src n, .ok (zeros n))
      else (s.fetch r.valley (localOf o.src) n, .ok (s.bytes (localOf o.src) n))

/-- Entries of a context's log on a glen. -/
def Context.logOn (c : Context) (g : Nat) : List LoadLog := c.log.filter fun l => l.glen = g && !l.scratch

/-- Loads from global sources of a context under way on a glen. -/
def State.loading (s : State) (r : Request) (g : Nat) : Nat :=
  (s.core.plain.filter fun o => o.2.glen = g && o.2.running && o.2.isLoad && !o.2.fromScratch && o.2.err.isNone &&
    ((look s.core.reqs o.2.req).map fun q => q.valley == r.valley && q.ctx == r.ctx).getD false).length

/-- The oldest op of a glen, a load, reads its source, with what the codes of memory and of the glen found. -/
def execWeightLoadStart (glen : Nat × List Ecc × List GlenErr) (s : State) : Out :=
  .next (match s.plainHead glen.1 with
    | none => s
    | some (i, o) =>
      if !o.isLoad then s
      else if s.core.plain.any fun x => x.1 < i && x.2.glen = glen.1 && !x.2.saved && x.2.meets o.laneOff o.bytes then s
      else match look s.core.reqs o.req with
      | none => s
      | some r => match s.ctxOf r with
        | none => s
        | some c =>
          if c.st ≠ .resident then s
          else if s.loadBad r c o || (o.fromScratch && s.sharedUnits r.valley r.ctx o.laneOff o.bytes) then s.plainErr i o 0x16
          else if !o.fromScratch && 256 ≤ (c.logOn o.glen).length + s.loading r o.glen then s.plainErr i o 9
          else if !o.fromScratch && !s.isRemote o.src && !(s.hostHolds (localOf o.src) (o.bytes * o.laneCount) false).isEmpty then
            s.recall (localOf o.src) (o.bytes * o.laneCount) false
          else match ((s.eccAll glen.2.1).glenErrs o.glen r glen.2.2).loadSource i o r with
          | (s, .error e) => s.plainErr i o e.1 e.2
          | (s, .ok d) => s.updPlain i fun o => { o with running := true, result := d })

/-- A log entry is rewritten in every byte by later loads. -/
def LoadLog.coveredBy (e : LoadLog) (later : List LoadLog) : Bool :=
  (List.range e.lanes).all fun j => (List.range (e.bytes / 16)).all fun k =>
    later.any fun l => l.glen = e.glen && l.firstLane ≤ e.firstLane + j && e.firstLane + j < l.firstLane + l.lanes &&
      l.laneOff ≤ e.laneOff + 16 * k && e.laneOff + 16 * k < l.laneOff + l.bytes

/-- Drop the entries that the rest of the log covers. -/
def trimLog : List LoadLog → List LoadLog
  | [] => []
  | e :: l => if e.coveredBy l then trimLog l else e :: trimLog l

def Context.addLog (c : Context) (e : LoadLog) : Context :=
  let l := trimLog (c.log ++ [e])
  { c with log := if l.all (·.scratch) then [] else l }

/-- A load's bytes are all there. -/
def State.loadReady (s : State) (i : Nat) : Bool := !(s.core.remote.any fun m => m.2.use == .weights i)

def execWeightLoadComplete (op : Nat) (s : State) : Out :=
  .next (match look s.core.plain op with
    | none => s
    | some o =>
      if !o.running || !o.isLoad || (o.err.isNone && !s.loadReady op) then s else
      match look s.core.reqs o.req with
      | none => s
      | some r =>
        let gone := o.err.isNone && !o.fromScratch && !s.isRemote o.src &&
          !rangeAll (s.populatedFor r.valley r.stamp.bnd) (localOf o.src) (o.bytes * o.laneCount)
        let s := if gone then (s.recordBarred r o.src 0x11).plainErr op o 0x11 else s
        if o.err.isSome || gone || r.latch.isSome then
          (s.setCore { s.core with remote := s.core.remote.filter fun m => m.2.use ≠ .weights op }).endPlain op o r false
        else
          let s := s.writeLanes o.glen r.ctx o.firstLane o.laneOff o.bytes o.result
          let e : LoadLog := {
            glen := o.glen, src := o.src, laneOff := o.laneOff, bytes := o.bytes, firstLane := o.firstLane, lanes := o.laneCount
            scratch := o.fromScratch }
          let s := s.updCtx (ctxKey r.valley r.ctx) fun c => { c.addLog e with
            reload := c.reload.filter fun k => !(k / 64 = o.glen && k % 64 ∈ unitsOf o.laneOff o.bytes && o.bytes % 256 = 0 && o.laneCount = 128) }
          s.endPlain op o r true)

end Sys2Proof.Machine
end

