-- ==== Sys2Proof/Machine/Contexts.lean ====
section
/-! DEFINITION. The context scheduler: triggers, and the save and restore of a context (13: R484-R489,
R498-R501; R325, R326, R386). -/
namespace Sys2Proof.Machine
open Sys2Proof

/-! ## Who waits (R484) -/

/-- A USER SQ of the context, a KERNEL ring whose head names it, or a network endpoint of it holds a command it could be
admitted to run; or it holds requests of its own, which R489 completes after restore (notes/assumptions/26.md). -/
def State.isWaiting (s : State) (v c : Nat) : Bool :=
  0 < s.ctxInflight v c ||
  (s.core.sqs.any fun q => q.1 / 512 = v && s.hasCommand q.2 && q.2.inflight < q.2.maxIn && s.cqSpare q.2 &&
    s.cynRoomSq v q.2 && q.2.ctxFor (s.command q.2) = c) ||
  s.core.eps.any fun e => e.1 / 64 = v && e.2.ctx = c && s.epHas v e.2

/-- Note since when each swapped context waits. -/
def State.noteWaiting (s : State) (v : Nat) : State :=
  let f := fun (e : Nat × Context) =>
    if e.1 / 128 = v && e.2.st = .swapped then
      (e.1, { e.2 with waiting := if s.isWaiting v (e.1 % 128) then e.2.waiting <|> some s.now else none })
    else e
  s.setCore { s.core with ctxs := s.core.ctxs.map f }

/-- Of some contexts: the highest PRIORITY, then the longest waiting. -/
def pickWaiting : List (Nat × Context) → Option (Nat × Context)
  | [] => none
  | x :: xs => some (xs.foldl (fun m y =>
    if m.2.prio < y.2.prio || (m.2.prio = y.2.prio && y.2.waiting.getD 0 < m.2.waiting.getD 0) then y else m) x)

def State.waiters (s : State) (v : Nat) : List (Nat × Context) :=
  s.core.ctxs.filter fun e => e.1 / 128 = v && e.2.st = .swapped && e.2.waiting.isSome

def State.residents (s : State) (v : Nat) : List (Nat × Context) :=
  s.core.ctxs.filter fun e => e.1 / 128 = v && e.2.st = .resident

/-- A switch runs in the valley: triggers are tested again when it is over (R500). -/
def State.switching (s : State) (v : Nat) : Bool :=
  s.core.ctxs.any fun e => e.1 / 128 = v && (e.2.st = .saving || e.2.st = .restoring)

/-- Nothing but the context leaving keeps this one out. -/
def State.fitsWithout (s : State) (v : Nat) (out : Option Nat) (c : Context) : Bool :=
  !(s.active v).any fun e => some e.1 ≠ out && c.conflicts e.2

/-! ## Triggers (R484) -/

/-- No request of the context is in flight, and none is ready in a queue or an endpoint. -/
def State.idle (s : State) (v c : Nat) : Bool :=
  s.ctxInflight v c = 0 && (!(s.readyQueues v).any fun q => q.2.ctxFor (s.command q.2) = c) &&
  !s.core.eps.any fun e => e.1 / 64 = v && e.2.ctx = c && s.readyEp e.1

def heldFor (s : State) (c : Context) (ns : Nat) : Bool := c.since + ns ≤ s.now

/-- One of triggers 1 to 3 holds for R and W. -/
def State.trigger (s : State) (v n : Nat) (r : Nat × Context) (w : Context) : Bool :=
  !r.2.pinned && w.conflicts r.2 &&
  match n with
  | 1 => r.2.prio < w.prio
  | 2 => w.prio = r.2.prio && r.2.quantum ≠ 0 && heldFor s r.2 (1000 * r.2.quantum) && heldFor s r.2 20000
  | _ => s.idle v (r.1 % 128)

/-- The pair that triggers 1 to 3 choose, the lowest number first. -/
def State.pair (s : State) (v n : Nat) : Option (Nat × Nat) :=
  let hits := fun (w : Nat × Context) => (s.residents v).filter fun r => s.trigger v n r w.2
  match pickWaiting ((s.waiters v).filter fun w => !(hits w).isEmpty) with
  | none => none
  | some w => (hits w).head?.map fun r => (r.1, w.1)

def State.slotsHeld (s : State) (k : Nat) : Nat :=
  (s.core.threads.filter fun t => !t.2.saved &&
    ((look s.core.reqs t.2.req).map fun r => ctxKey r.valley r.ctx == k).getD false).length

/-- Trigger 4: the context to switch out. -/
def State.starved (s : State) (v : Nat) : Option Nat :=
  let ps := s.core.reqs.filterMap fun r =>
    if r.2.valley = v && 0 < r.2.threads && r.2.started = 0 && s.resident r.2 && r.2.stamp.at_ + 50000 ≤ s.now &&
        (s.placement v r.2.stamp.bnd).isNone then (s.ctxOf r.2).map Context.prio
    else none
  let p := ps.foldl max 0
  let c := (s.residents v).filter fun r => !r.2.pinned && r.2.prio < p && heldFor s r.2 20000 && 0 < s.slotsHeld r.1
  match c with
  | [] => none
  | x :: xs => some (xs.foldl (fun m y =>
      if y.2.prio < m.2.prio || (y.2.prio = m.2.prio && s.slotsHeld m.1 < s.slotsHeld y.1) then y else m) x).1

/-- The context the first trigger that holds switches out, and the one it switches in. -/
def State.chooseSwitch (s : State) (v : Nat) : Option (Nat × Option Nat) :=
  match (s.pair v 1) <|> (s.pair v 2) <|> (s.pair v 3) with
  | some (r, w) => some (r, some w)
  | none => (s.starved v).map fun r =>
    (r, (pickWaiting ((s.waiters v).filter fun w => s.fitsWithout v (some r) w.2)).map (·.1))

/-- Table 13.2, step 1. W follows at once unless another resident context still keeps it out. -/
def State.startSwitch (s : State) (v r : Nat) (w : Option Nat) : State :=
  let w := w.filter fun w => ((look s.core.ctxs w).map (s.fitsWithout v (some r))).getD false
  s.updCtx r fun c => { c with st := .saving, residentNs := c.residentNs + (s.now - c.since), since := s.now, next := w }

/-- Units of a context on a glen whose contents are not its own: another context wrote them last, they were zeroed
since, or they are still to be reloaded. -/
def State.lostUnits (s : State) (ctx : Nat) (c : Context) (g : Nat) : List Nat :=
  ((List.range c.wUnits).map (c.wBase + ·)).filter fun u =>
    look s.core.owner (g * 64 + u) ≠ some ctx || g * 64 + u ∈ c.reload

/-- READs of what the replay needs from peers (R326). -/
def State.askReplay (s : State) (k : Nat) (c : Context) : State :=
  (List.range c.log.length).foldl (fun s i =>
    match c.log[i]? with
    | some l =>
      if l.scratch || !s.isRemote l.src || !((s.lostUnits (k % 128) c l.glen).any fun u => u ∈ unitsOf l.laneOff l.bytes) then s
      else
        let n := l.bytes * l.lanes
        (s.updCtx k fun c => { c with replayData := put c.replayData i (some (zeros n)) }).readRemote (.replay k i) 0 l.glen (k / 128) l.src n
    | none => s) s

/-- A swapped context begins its restore. -/
def State.startRestore (s : State) (k : Nat) : State :=
  let s := s.updCtx k fun c => { c with st := .restoring, since := s.now, waiting := none, replayData := [] }
  match look s.core.ctxs k with
  | some c => s.askReplay k c
  | none => s

/-- Every waiting context that conflicts with nothing resident is restored. -/
def State.restoreFree (s : State) (v : Nat) (next : Option Nat) : State :=
  (s.waiters v).foldl (fun s w =>
    let meets := (next.bind (look s.core.ctxs)).map fun n => w.2.conflicts n
    if s.fitsWithout v none w.2 && some w.1 ≠ next && !meets.getD false then s.startRestore w.1 else s) s

/-- What an uncorrectable error costs (Table 13.4): the one context whose state it is, or every job on the device. -/
def State.stateErr (s : State) (v : Nat) : StateErr → State
  | .context c core =>
    if (look s.core.ctxs (ctxKey v c)).isNone then s else
    s.ctxFault v c { source := 1, event := 2, cls := 0x0B, unit := core } [{ cls := 0x0B, idx := core }]
  | .shared core => s.deviceFault { source := 1, event := 2, cls := 0x0B, unit := core }
  | .frontEnd => s.deviceFault { source := 5, event := 2, cls := 0x0A }

/-- The triggers are tested at a device time (R484), while the valley runs or stops (R491). `err`: the state that the
scheduler and the front end work from reads uncorrectable. -/
def execSchedulerTick (valley : Nat) (time : Nat × Option StateErr) (s : State) : Out :=
  .next (
    let s := s.advanceTo time.1
    let s := match time.2 with
      | some e => if s.dev.st = .reset then s else s.stateErr valley e
      | none => s
    let x := s.valley valley
    if 8 ≤ valley || !(x.st = .running || x.st = .stopping) || !s.servesPeers || s.switching valley then s else
    let s := s.noteWaiting valley
    match s.chooseSwitch valley with
    | some (r, w) =>
      let s := s.startSwitch valley r w
      s.restoreFree valley ((look s.core.ctxs r).bind (·.next))
    | none => s.restoreFree valley none)

/-! ## The save (R485-R487) -/

def State.ofCtx (s : State) (k req : Nat) : Bool :=
  ((look s.core.reqs req).map fun r => ctxKey r.valley r.ctx == k).getD false

/-- Nothing the context must finish first is under way: chains and loads in progress, loads that wait for
their data, fetches from peers. -/
def State.canSave (s : State) (k : Nat) : Bool :=
  !(s.core.plain.any fun o => s.ofCtx k o.2.req && o.2.running) &&
  !(s.core.threads.any fun t => s.ofCtx k t.2.req && match t.2.wait with | .load _ _ _ => true | _ => false) &&
  !(s.core.remote.any fun m => s.ofCtx k m.2.req && match m.2.use with
    | .lookup _ _ | .indexList _ | .weightList _ => true
    | _ => false)

/-- Live threads, live Creek descriptors and pending waits of a context (R487). -/
def State.liveOf (s : State) (k : Nat) : Nat × Nat × Nat :=
  let ts := s.core.threads.filter fun t => s.ofCtx k t.2.req
  (ts.length, (s.core.bags.filter fun b => s.ofCtx k b.2.req && b.2.running).length,
    (ts.filter fun t => t.2.holdsEntry).length + (s.core.tasks.filter fun t => s.ofCtx k t.2.req && !t.2.ready).length)

/-- A waiting thread gives its entry back while it is saved. -/
def Thread.save (t : Thread) : Thread :=
  { t with saved := true, wait := match t.wait with
    | .ge o x n u d _ => .ge o x n u d false
    | .acquire o x n u d _ => .acquire o x n u d false
    | w => w }

/-- Mark everything of a context inside the glens as saved. -/
def State.setSaved (s : State) (k : Nat) : State :=
  let c := s.core
  let gone := fun (t : Nat) => ((look c.threads t).map fun x => s.ofCtx k x.req).getD false
  let s' := s.leaveLines gone
  s'.setCore { s'.core with
    threads := c.threads.map fun t => (t.1, if s.ofCtx k t.2.req then t.2.save else t.2)
    tasks := c.tasks.map fun t => (t.1, if s.ofCtx k t.2.req then { t.2 with saved := true } else t.2)
    bags := c.bags.map fun b => (b.1, if s.ofCtx k b.2.req then { b.2 with saved := true } else b.2)
    plain := c.plain.map fun o => (o.1, if s.ofCtx k o.2.req then { o.2 with saved := true } else o.2) }

/-- The save area, or the code of what is wrong with it. -/
def State.areaLost (s : State) (v : Nat) (c : Context) (read : Bool) : Bool :=
  !c.pinned && (!rangeAll (s.populatedFor v (s.valley v).bnd) c.saveAddr c.saveBytes ||
    (read && s.poisoned c.saveAddr c.saveBytes))

/-- R504: the context whose save area fails is torn down. -/
def State.areaFault (s : State) (v k : Nat) (c : Context) : State :=
  let e : FaultEv := { source := 1, event := if s.poisoned c.saveAddr c.saveBytes then 3 else 8, addr := c.saveAddr }
  match memUnit c.saveAddr with
  | some u => s.ctxFault v (k % 128) { e with cls := u.cls, unit := u.idx } [u]
  | none => s.ctxFault v (k % 128) e []

/-- Table 13.2, steps 3 and 4: the state is in the save area, whose format is the device's own. -/
def execContextSaveDone (valley ctx ns : Nat) (s : State) : Out :=
  .next (
    let k := ctxKey valley ctx
    match look s.core.ctxs k with
    | none => s
    | some c =>
      if c.st ≠ .saving || !s.canSave k then s else
      let s := s.advanceTo (c.since + ns)
      if s.areaLost valley c false then s.areaFault valley k c else
      let (t, b, w) := s.liveOf k
      let (d, s) := s.drawBytes 40 (min c.saveBytes (256 * t + 4096 * b + 64 * w))
      let s := (s.writeThrough c.saveAddr d).setSaved k
      let s := s.updCtx k fun c => { c with
        st := .swapped, next := none, since := s.now, switchesOut := c.switchesOut + 1, lastSave := ns % 2 ^ 32, waiting := none }
      let s := s.updValley valley fun x => { x with switches := x.switches + 1 }
      let s := match c.next with | some n => s.startRestore n | none => s
      s.serveAll.resume)

/-! ## The restore (R326, R386, R488, R499) -/

/-- What the logged load at place i finds at its source now; none where it cannot be read. -/
def State.reread (s : State) (v : Nat) (c : Context) (i : Nat) (l : LoadLog) : State × Option Bytes :=
  let n := l.bytes * l.lanes
  if s.isRemote l.src then (s, lookD c.replayData i none)
  else if !rangeAll (s.populatedFor v (s.valley v).bnd) (localOf l.src) n then
    (s.error { source := 5, event := 8, cls := 1, unit := l.glen, valley := v, scope := 1, cmpl := 0x17, addr := localOf l.src } [], none)
  else if s.poisoned (localOf l.src) n then
    (s.error { source := 5, event := 3, cls := 1, unit := l.glen, valley := v, scope := 1, cmpl := 0x17, addr := localOf l.src }
      (memUnit (localOf l.src)).toList, none)
  else (s.fetch v (localOf l.src) n, some (s.bytes (localOf l.src) n))

/-- Replay one load into some of its units; one that fails leaves them to be reloaded. -/
def State.replay (s : State) (v ctx : Nat) (c : Context) (i : Nat) (l : LoadLog) (us : List Nat) : State :=
  let hit := us.filter fun u => u ∈ unitsOf l.laneOff l.bytes
  if hit.isEmpty then s else
  match s.reread v c i l with
  | (s, none) => s.updCtx (ctxKey v ctx) fun c => { c with
      replayErr := true
      reload := c.reload ++ ((hit.map (l.glen * 64 + ·)).filter fun k => k ∉ c.reload) }
  | (s, some d) =>
    hit.foldl (fun s u =>
      let lo := max l.laneOff (u * 256)
      let n := min (l.laneOff + l.bytes) ((u + 1) * 256) - lo
      let src := (List.range l.lanes).flatMap fun j => slice d (j * l.bytes + (lo - l.laneOff)) n
      s.writeLanes l.glen ctx l.firstLane lo n src) s

/-- The Plain replays the logged loads of every unit that is not the context's own any more, in log order. -/
def State.replayAll (s : State) (v ctx : Nat) (c : Context) : State :=
  let glens := s.liveGlens v
  let lost := glens.map fun g => (g, s.lostUnits ctx c g)
  let s := s.updCtx (ctxKey v ctx) fun c => { c with reload := [] }
  (List.range c.log.length).foldl (fun s i => match c.log[i]? with
    | some l => if l.scratch then s else s.replay v ctx c i l (lookD lost l.glen [])
    | none => s) s

/-- Bring back what was saved. -/
def State.clearSaved (s : State) (k : Nat) : State :=
  let c := s.core
  let met := fun (t : Task) => match look c.reqs t.req with
    | some r => match s.syncIndex r.valley r.stamp.bnd (u32 t.record 8) with
      | some g => !(s.obj g).poisoned && decide (u64 t.record 16 ≤ (s.obj g).value.toNat)
      | none => false
    | none => false
  let glens := (c.threads.filter fun t => s.ofCtx k t.2.req).map (·.2.glen) ++ (c.plain.filter fun o => s.ofCtx k o.2.req).map (·.2.glen)
  glens.foldl State.ungate (s.setCore { c with
    threads := c.threads.map fun t => (t.1, if s.ofCtx k t.2.req then { t.2 with saved := false } else t.2)
    tasks := c.tasks.map fun t => (t.1, if s.ofCtx k t.2.req then { t.2 with saved := false, ready := t.2.ready || met t.2 } else t.2)
    bags := c.bags.map fun b => (b.1, if s.ofCtx k b.2.req then { b.2 with saved := false } else b.2)
    plain := c.plain.map fun o => (o.1, if s.ofCtx k o.2.req then { o.2 with saved := false } else o.2) })

/-- Requests with something saved from a glen or Creek that is retired (R499). -/
def State.orphans (s : State) (k : Nat) : List Nat :=
  ((s.core.threads.filter fun t => s.ofCtx k t.2.req && s.isRetired 1 t.2.glen).map (·.2.req) ++
    (s.core.tasks.filter fun t => s.ofCtx k t.2.req && (t.2.queue.map (s.isRetired 1)).getD false).map (·.2.req) ++
    (s.core.bags.filter fun b => s.ofCtx k b.2.req && (s.isRetired 1 b.2.glen || s.isRetired 2 b.2.creek)).map (·.2.req) ++
    (s.core.plain.filter fun o => s.ofCtx k o.2.req && s.isRetired 1 o.2.glen).map (·.2.req)).eraseDups

/-- Requests of a context with a wait or a deferred task on an object that has become POISONED (Table 10.5). -/
def State.spoiltWaits (s : State) (k : Nat) : List Nat :=
  ((s.core.threads.filter fun t => s.ofCtx k t.2.req && match t.2.wait with
      | .ge o _ _ _ _ _ | .acquire o _ _ _ _ _ => (s.obj o).poisoned
      | _ => false).map (·.2.req) ++
    (s.core.tasks.filter fun t => s.ofCtx k t.2.req && !t.2.ready && match look s.core.reqs t.2.req with
      | some r => ((s.syncIndex r.valley r.stamp.bnd (u32 t.2.record 8)).map fun g => (s.obj g).poisoned).getD false
      | none => false).map (·.2.req)).eraseDups

/-- Table 13.2, step 5. -/
def execContextRestoreDone (valley ctx ns : Nat) (s : State) : Out :=
  .next (
    let k := ctxKey valley ctx
    match look s.core.ctxs k with
    | none => s
    | some c =>
      if c.st ≠ .restoring || (s.core.remote.any fun m => match m.2.use with | .replay j _ => j == k | _ => false) then s else
      let s := s.advanceTo (c.since + ns)
      if s.areaLost valley c true then s.areaFault valley k c else
      let lost := s.orphans k
      let waits := (s.core.threads.filter fun t => s.ofCtx k t.2.req).map (·.1)
      let s := (s.replayAll valley ctx c).clearSaved k
      let s := (s.spoiltWaits k).foldl (fun s i => s.fail i 0x17 0) s
      let s := waits.foldl (fun s t => s.beginWait t) s
      let s := s.updCtx k fun c => { c with st := .resident, since := s.now, lastRestore := ns % 2 ^ 32, waiting := none }
      let s := lost.foldl (fun s i => s.fail i 0x0D 0) s
      s.releaseSyncs)

end Sys2Proof.Machine
end

