-- ==== Sys2Proof/Machine/Headwater.lean ====
section
/-! DEFINITION. Headwater (07): streams, the records they carry, and the shutdown of a stream (R269-R277,
R283-R288, R291, R292, R298-R300). -/
namespace Sys2Proof.Machine
open Sys2Proof

/-! ## The update record (Table 7.6) -/

def recOp (b : Bytes) : Nat := u8 b 0
def recMode (b : Bytes) : Nat := u8 b 1
def recAck (b : Bytes) : Bool := bit (u8 b 2) 0
def recInline (b : Bytes) : Bool := bit (u8 b 2) 1
def recSet (b : Bytes) : Nat := u32 b 4 % 256
def recTable (b : Bytes) : Nat := u32 b 4 / 256 % 1024
def recRow (b : Bytes) : Nat := u64 b 8
def recFirst (b : Bytes) : Nat := u16 b 16
def recCount (b : Bytes) : Nat := u16 b 18
def recRows (b : Bytes) : Nat := u32 b 20
def recSync (b : Bytes) : Nat := u32 b 24
def recAddr (b : Bytes) : Nat := u64 b 32

/-! ## Streams (R270, R299, R300) -/

def Stream.source (x : Stream) : Nat := u8 x.payload 1
def Stream.set (x : Stream) : Nat := u8 x.payload 2
def Stream.newTier (x : Stream) : Nat := u8 x.payload 3
def Stream.queue (x : Stream) : Nat := u16 x.payload 4
def Stream.node (x : Stream) : Nat := u8 x.payload 6

/-- Reserved bytes of the open request read as zero (R4). -/
def streamPayload (p : Bytes) : Bytes := p.take 7 ++ zeros 1 ++ slice p 8 48 ++ zeros 8

/-- Pool ranges an open request gives: tier, address, bytes. -/
def poolRanges (p : Bytes) : List Extent :=
  ((List.range 3).map fun i => ({ tier := i + 1, addr := u64 p (8 + 16 * i), bytes := u64 p (16 + 16 * i) } : Extent)).filter
    fun e => e.bytes ≠ 0

def streamField (s : State) (v : Nat) (p : Bytes) : Option Nat :=
  let bad := fun (i : Nat) => u64 p (16 + 16 * i) ≠ 0 && !s.inTier v (i + 1) (u64 p (8 + 16 * i)) (u64 p (16 + 16 * i))
  firstBad [(2 < u8 p 1, 1), (u8 p 3 = 0 || 3 < u8 p 3, 3), (bad 0, 8), (bad 1, 24), (bad 2, 40)]

/-- The source a stream names is an update queue or endpoint of the valley. -/
def State.sourceOk (s : State) (v : Nat) (p : Bytes) : Bool :=
  let q := u16 p 4
  let used := s.core.streams.any fun x => x.1 ≠ u8 p 0 && x.2.st ≠ 0 && x.2.source = u8 p 1 && x.2.queue = q
  match u8 p 1 with
  | 0 => q / 512 = v && ((look s.core.sqs q).map (·.update)).getD false && !used
  | 2 => q / 64 = v && ((look s.core.eps q).map fun e => decide (2 ≤ u8 e.create 2)).getD false && !used
  | _ => true

/-- Blocks come from the 64-byte aligned part of a range. -/
def alignExtent (e : Extent) : Extent :=
  let a := ceilDiv e.addr 64 * 64
  { e with addr := a, bytes := e.bytes - (a - e.addr) }

/-- Open a stream (R299), its fields already checked. -/
def State.openStream (s : State) (v : Nat) (p : Bytes) : Res :=
  let live := s.core.streams.filter fun x => x.2.st ≠ 0 && x.1 ≠ u8 p 0
  match s.ownSet v (u8 p 2) with
  | none => Res.fail s .conflict
  | some x =>
    let new := (poolRanges p).filter fun e => !x.pools.any fun f => f == e
    if x.destroying then Res.fail s .notReady
    else if !s.sourceOk v p then Res.fail s .conflict
    else if 63 < u8 p 0 || 16 ≤ (live.filter fun y => y.2.valley = v).length || 16 < x.pools.length + new.length then Res.fail s .noResource
    else
      let s := s.updSet (u8 p 2) fun x => { x with pools := x.pools ++ new, free := x.free ++ new.map alignExtent }
      let old := (look s.core.streams (u8 p 0)).getD { valley := v, payload := p }
      let y : Stream := { old with valley := v, payload := p, st := 1, shut := {} }
      Res.okay (s.setCore { s.core with streams := put s.core.streams (u8 p 0) y })

/-- A stream in use by another valley (R43). -/
def streamDenied : Req → State → Bool := fun r s =>
  ((look s.core.streams (u8 r.pay 0)).map fun x => x.st != 0 && x.valley != r.via.mbx).getD false

/-- The queue or endpoint that an open request names belongs to another valley (R43). -/
def sourceDenied : Req → State → Bool := fun r _ =>
  let q := u16 r.pay 4
  (u8 r.pay 1 = 0 && q / 512 ≠ r.via.mbx) || (u8 r.pay 1 = 2 && q / 64 ≠ r.via.mbx)

def hwtStreamOpen : Msg where
  op := 0x0401
  mark := .v
  cls := .o
  len := lenIs 64
  denied := fun r s => streamDenied r s || setDenied 2 r s || sourceDenied r s
  field := fun r s => streamField s r.via.mbx r.pay
  run := fun r s =>
    let p := streamPayload r.pay
    let n := u8 p 0
    match look s.core.streams n with
    | none => s.openStream r.via.mbx p
    | some x =>
      match x.st with
      | 0 => s.openStream r.via.mbx p
      | 1 => if x.payload = p then Res.okay s else Res.fail s .conflict
      | _ =>
        if x.shut.held.isSome then Res.fail s .busy
        else Res.pend (s.updStream n fun x => { x with shut := { x.shut with held := some (r.deferred, p) } })

def execHwtStreamOpen (via : Via) (s : State) : Out := serve hwtStreamOpen via s

def hwtStreamClose : Msg where
  op := 0x0402
  mark := .v
  cls := .d
  len := lenIs 4
  denied := streamDenied
  run := fun r s =>
    let n := u8 r.pay 0
    match look s.core.streams n with
    | none => if 63 < n then Res.fail s .noResource else Res.okay s
    | some x =>
      match x.st with
      | 0 => Res.okay s
      | 1 => Res.pend (s.updStream n fun x => { x with st := 2, shut := { dones := [r.deferred], held := none } })
      | _ =>
        { s := s.updStream n fun x => { x with shut := { dones := x.shut.dones ++ [r.deferred], held := none } }
          st := .pending
          after := fun s => match x.shut.held with
            | some h => s.done h.1 .conflict 0 []
            | none => s }

def execHwtStreamClose (via : Via) (s : State) : Out := serve hwtStreamClose via s

/-- Everything the stream took is staged: its shutdown ends, then a held enable runs (R68). -/
def execHwtStreamShutdownDone (stream : Nat) (s : State) : Out :=
  .next (match look s.core.streams stream with
    | none => s
    | some x =>
      if x.st ≠ 2 then s else
      let s := s.updStream stream fun x => { x with st := 0, shut := {} }
      let s := x.shut.dones.foldl (fun s d => s.done d .ok 0 []) s
      match x.shut.held with
      | none => s
      | some (d, p) =>
        match streamField s x.valley p with
        | some o => s.done d .badField (16 + o) []
        | none =>
          let r := s.openStream x.valley p
          r.s.done d r.st r.detail [])

/-! ## Taking a record (R269, R409, R416) -/

/-- The engine that serves a set (R269). -/
def State.engineOf (s : State) (set : Nat) : Option Nat :=
  ((List.range 4).map fun i => (set + i) % 4).find? fun e => !s.isRetired 7 e

/-- Slot address of the next record of an update queue. -/
def Sq.next (q : Sq) : Nat := hostBase + q.ring + q.cons.toNat % 2 ^ q.log2 * 128

/-- The ring of an update queue can be read where it shows a record. -/
def State.slotReadable (s : State) (q : Sq) : Bool := s.link.up && s.populated q.next && !s.poisoned q.next 128

/-- The record a stream would take next. -/
def State.peekRecord (s : State) (x : Stream) : Option Bytes :=
  match x.source with
  | 0 =>
    match look s.core.sqs x.queue with
    | none => none
    | some q =>
      if q.st ≠ 1 || q.prod = q.cons || s.pwr.d3hot then none
      else
        let b := s.bytes q.next 128
        if !s.slotReadable q || !recAck b || ((look s.core.cqs q.cq).map Cq.spare).getD false then some b else none
  | 1 => (x.inbox.head?).map (·.bytes)
  | _ => match look s.core.eps x.queue with
    | none => none
    | some e => (e.buf.head?).map fun m => slice m.bytes (32 + 128 * m.took) 128

/-- The stream of a set whose turn it is: round robin over those with a record (R269). -/
def State.nextStream (s : State) (set : Nat) : Option (Nat × Stream) :=
  let c := s.core.streams.filter fun x => x.2.st = 1 && x.2.set = set && (s.peekRecord x.2).isSome
  let last := ((look s.core.sets set).map (·.lastStream)).getD 0
  match c.find? fun x => last < x.1 with
  | some x => some x
  | none => c.head?

/-- Headwater takes records in READY, DEGRADED and DRAINING, on an engine not under test; in a drain to STANDBY not after
the last request (Table 20.3). -/
def State.engineTakes (s : State) (set : Nat) : Option Nat :=
  if !s.servesPeers || s.stopping then none else
  match s.engineOf set with
  | some e => if s.testing 7 e then none else some e
  | none => none

/-- A valley has records waiting that an engine would take. -/
def State.recordsWait (s : State) (e v : Nat) : Bool :=
  s.core.sets.any fun t => t.2.valley = v && s.engineTakes t.1 = some e && (s.nextStream t.1).isSome

/-- The valley that owns a turn of each 64: as many turns as its HWT_SHARE, the valleys in ascending order (R478; log 105). -/
def State.turnOwner (s : State) (k : Nat) : Option Nat :=
  (List.range 8).find? fun v => k < ((List.range (v + 1)).map fun u => ((s.profile u).map (·.hwtShare)).getD 0).sum

def State.hwTurn (s : State) (e : Nat) : Nat × Nat := lookD s.core.hwTurns e (0, 7)

/-- The valley that an engine takes the next record from: the turn's owner, or, where it has none waiting, the next valley
round robin that has (R478; log 105). -/
def State.recordTurn (s : State) (e : Nat) : Option Nat :=
  match (s.turnOwner (s.hwTurn e).1).filter (s.recordsWait e) with
  | some v => some v
  | none => ((List.range 8).map fun i => ((s.hwTurn e).2 + 1 + i) % 8).find? (s.recordsWait e)

/-- A record of a valley is taken: the turn ends, a lent one too. -/
def State.spendRecord (s : State) (e v : Nat) : State :=
  let (k, lent) := s.hwTurn e
  s.setCore { s.core with hwTurns := put s.core.hwTurns e ((k + 1) % 64, if s.turnOwner k = some v then lent else v) }

/-- The engine that takes a set's next record, in a turn of its valley. -/
def State.takesRecords (s : State) (set : Nat) : Option Nat :=
  (s.engineTakes set).filter fun e => match s.recordTurn e with
    | some v => (look s.core.sets set).map (·.valley) = some v
    | none => false

/-- Whom a record's outcome is told. -/
inductive Teller where
  | queue (sq slot cq : Nat) (ack : Bool)
  | push (node tag stream : Nat)
  | net (ep : Nat) (msg : NetMsg) (index : Nat) (ack : Bool)
deriving DecidableEq, Repr

/-- The IP datagram that answers a message of an endpoint, sent from its port. -/
def State.reply (s : State) (ep : Nat) (m : NetMsg) (msg : Bytes) : State := s.emit (.datagram ep m.addr m.port msg)

/-- Take the record off its source. -/
def State.takeRecord (s : State) (n : Nat) (x : Stream) (b : Bytes) : State × Option Teller :=
  let s := s.updSet x.set fun t => { t with lastStream := n }
  let s := match s.engineOf x.set with
    | some e => s.spendRecord e x.valley
    | none => s
  match x.source with
  | 0 =>
    match look s.core.sqs x.queue with
    | none => (s, none)
    | some q =>
      let s := s.updSq x.queue fun q => { q with cons := q.cons + 1, pending := q.cons + 1 ≠ q.prod, admitted := q.admitted + 1 }
      let s := if recAck b then s.updCq q.cq fun c => { c with reserved := c.reserved + 1 } else s
      (s, some (.queue x.queue (q.cons.toNat % 2 ^ q.log2) q.cq (recAck b)))
  | 1 =>
    (s.updStream n fun x => { x with inbox := x.inbox.tail },
      (x.inbox.head?).map fun i => .push i.node i.tag n)
  | _ =>
    match look s.core.eps x.queue with
    | none => (s, none)
    | some e =>
      match e.buf with
      | [] => (s, none)
      | m :: rest =>
        let m' := { m with took := m.took + 1 }
        let buf := if u8 m.bytes 11 ≤ m'.took then rest else m' :: rest
        (s.setCore { s.core with eps := put s.core.eps x.queue { e with buf } }, some (.net x.queue m m.took (recAck b)))

/-- Tell the source the record's code (R291, R430, R588, Table 14.4). -/
def State.tell (s : State) (b : Bytes) (code : Nat) : Teller → State
  | .queue sq slot cq ack =>
    if ack then s.setCore { s.core with due := s.core.due ++ [{
      cq, kind := 2, a := recRow b % 2 ^ 32, b := some (recRow b / 2 ^ 32), c := sq, d := slot % 65536, status := code }] }
    else s
  | .push node tag stream =>
    s.send { dest := node, src := s.dev.nodeId, tag, kind := 0x0A, msg := leBytes 1 stream ++ leBytes 1 code ++ zeros 2 }
  | .net ep m i ack =>
    if ack then s.reply ep m (leBytes 4 0x51445243 ++ leBytes 1 1 ++ leBytes 1 3 ++ zeros 2 ++ leBytes 2 ep ++ leBytes 1 i ++
      zeros 1 ++ slice m.bytes 12 12 ++ leBytes 1 code ++ zeros 7)
    else s

/-- The record ends: counts, SYNC, and its code told (R291). SYNC follows what the record wrote (R277, R381), so it waits
while the host still holds lines that Headwater has written (R148). -/
def State.endRecord (s : State) (n : Nat) (x : Stream) (b : Bytes) (t : Option Teller) (code : Nat) : State :=
  let s := s.updStream n fun x => { x with taken := x.taken + 1, refused := x.refused + b2n (code ≠ 0) }
  let s := match s.syncIndex x.valley (s.bndNow x.valley) (recSync b) with
    | some g =>
      if recSync b = 0xFFFFFFFF then s
      else if s.writesHeld x.valley 0xFFFF then
        { s with basin := { s.basin with biSyncs := s.basin.biSyncs ++ [{ valley := x.valley, ctx := 0xFFFF, req := 0, obj := g }] } }
      else (s.syncAdd g 1).1
    | none => s
  match t with
  | some t => s.tell b code t
  | none => s

/-- The set and table a record may change, on its stream (Table 7.4, R286). -/
def State.recordTable (s : State) (x : Stream) (b : Bytes) : Option (TSet × Table) :=
  match look s.core.sets x.set, look s.core.tables (tableKey x.set (recTable b)) with
  | some y, some t => if recSet b = x.set && y.valley = x.valley && !y.destroying && !t.destroying then some (y, t) else none
  | _, _ => none

/-! ## Writing a row (R272-R275) -/

/-- Formats with scales: scale entries, or MX blocks. -/
def Table.scaled (t : Table) : Bool := t.group ≠ 0 || isMx t.fmt
/-- Bytes of the scales that an update carries: entries, or E8M0 bytes. -/
def Table.givenBytes (t : Table) : Nat := if isMx t.fmt then t.width / 32 else 4 * t.scales

def State.hwReader (s : State) (v e : Nat) : Reader := { valley := v, bnd := s.bndNow v, creek := e, cls := 7, source := 4, cmpl := 0x12 }

/-- Scale entry or block scale of element i: value and zero point. -/
def Table.scaleFor (t : Table) (scales blocks : Bytes) (i : Nat) : Num × Int :=
  if isMx t.fmt then (e8m0 (u8 blocks (i / 32)), 0) else scaleEntry scales (i / max 1 (scaleGroup t.group t.width))

/-- Scales derived from a row's values (R274, R348): entries and block scales. -/
def Table.derive (t : Table) (vals : List Num) : Bytes × Bytes :=
  let part := fun (g j : Nat) => (vals.drop (g * j)).take g
  if isMx t.fmt then ([], (List.range (t.width / 32)).map fun j => BitVec.ofNat 8 (deriveBlock t.fmt (part 32 j)))
  else ((List.range t.scales).flatMap fun j => leBytes 2 (deriveScale t.fmt (part (scaleGroup t.group t.width) j)) ++ zeros 2, [])

/-- A scale that KEEP or GIVEN cannot divide by: SCALE zero or NaN (for GIVEN also infinite), E8M0 0xFF. -/
def Table.badScale (t : Table) (given : Bool) (b : Bytes) : Bool :=
  if isMx t.fmt then b.any fun e => e = 0xFF
  else (List.range (b.length / 4)).any fun j =>
    let x := fp16.decode (u16 b (4 * j))
    x.isZero || x.isNan || (given && !x.isFinite)

/-- The parts of a stored payload: patterns and block scales. -/
def Table.patternsOf (t : Table) (payload : Bytes) : List Nat := (List.range t.width).map (elemAt t.fmt payload)
def Table.blocksOf (t : Table) (payload : Bytes) : Bytes := payload.drop (t.width * elemBits t.fmt / 8)

/-- What is known of an update before storage is touched. -/
structure Update where
  add : Bool
  /-- 0 KEEP, 1 GIVEN, 2 DERIVE. -/
  mode : Nat
  first : Nat
  vals : List Num
  given : Bytes
deriving DecidableEq, Repr

/-- The new payload and scale entries of a row: every element is dequantised, updated and quantised (R275). -/
def Table.apply (t : Table) (p : Nat) (u : Update) (old : StoredRow) : Bytes × Bytes :=
  let w := t.width
  let base := t.values old
  let named := fun (i : Nat) => u.first ≤ i && i < u.first + u.vals.length
  let row := (List.range w).map fun i =>
    if named i then
      let x := u.vals.getD (i - u.first) Num.zero
      if u.add then fadd (base.getD i Num.zero) x else x
    else base.getD i Num.zero
  let (scales, blocks) := match u.mode with
    | 0 => (old.scales, t.blocksOf old.payload)
    | 1 => if isMx t.fmt then ([], u.given) else (u.given, [])
    | _ => t.derive row
  let pats := (List.range w).map fun i =>
    let (sc, z) := t.scaleFor scales blocks i
    quantise p t.fmt t.group sc z (row.getD i Num.zero)
  (packElems t.fmt pats ++ blocks, scales)

/-- Copy n bytes of a block as stored, poison included. -/
def State.copyBlock (s : State) (src dst n : Nat) : State :=
  let bad := (List.range (n / 64)).filter fun i => s.poisoned (src + 64 * i) 64
  bad.foldl (fun s i => s.poison (dst + 64 * i) 64) (s.writeThrough dst (s.bytes src n))

/-- Fill a block with the default row, each row under its own index (R275). -/
def State.fillDefault (s : State) (t : Table) (r : StoredRow) (slot dst : Nat) : State :=
  (List.range (2 ^ t.shift)).foldl (fun s k => s.putRow t dst k (slot * 2 ^ t.shift + k) r.payload r.scales)
    (s.writeThrough dst (zeros t.block))

/-- The block to write for a slot: the pending block, unless a live epoch names it (R267), or a new copy from the pool. -/
def State.pendingBlock (s : State) (x : Stream) (y : TSet) (t : Table) (key e : Nat) (dflt : Option StoredRow) :
    Option (State × Nat) :=
  match (look y.cP key).filter fun e => !s.liveNames x.set y (baseOf e) with
  | some e => some (s, baseOf e)
  | none =>
    let tier := if tierOf e = 0 then x.newTier else tierOf e
    if 2 ^ 24 ≤ y.cP.length && (look y.cP key).isNone then none else
    match y.alloc tier t.block with
    | none => none
    | some (a, y) =>
      let y := { y with
        copies := y.copies ++ [({ tier, addr := a, bytes := t.block } : Extent)]
        cP := put y.cP key (entryOf tier a) }
      let s := s.setCore { s.core with sets := put s.core.sets x.set y }
      match dflt with
      | some r => some (s.fillDefault t r (keySlot key) a, a)
      | none => some (s.copyBlock (baseOf e) a t.block, a)

/-- Values and scales of a record, or the code that refuses it (R291, R298). -/
def State.recordData (s : State) (x : Stream) (t : Table) (b : Bytes) (mode : Nat) : State × Except Nat (Bytes × Bytes) :=
  let n := 4 * recCount b + (if mode = 1 then t.givenBytes else 0)
  let cut := fun (d : Bytes) => (d.take (4 * recCount b), d.drop (4 * recCount b))
  if recInline b then
    if 88 < n then (s, .error 0x16) else (s, .ok (cut (slice b 40 n)))
  else
    let a := localOf (recAddr b)
    let lost := fun (ev : Nat) (code : Nat) =>
      let u := memUnit a
      (s.error { source := 4, event := ev, cls := (u.map (·.cls)).getD 0x0F, unit := (u.map (·.idx)).getD 0, valley := x.valley
                 scope := 1, cmpl := code, addr := a } (if code = 0x17 then u.toList else []), Except.error code)
    if s.isRemote (recAddr b) then (s, .error 0x11)
    else if !rangeAll (s.populatedFor x.valley (s.valley x.valley).bnd) a n then lost 8 0x11
    else if s.poisoned a n then lost 3 0x17
    else (s.fetch x.valley a n, .ok (cut (s.bytes a n)))

/-- An element range, a partial row or a mode that the record may not have. -/
def Table.rangeBad (t : Table) (b : Bytes) (mode : Nat) : Bool :=
  recCount b = 0 || t.width < recFirst b + recCount b ||
  (!(recFirst b = 0 && recCount b = t.width) && !(mode = 0 || (mode = 2 && recOp b = 2)))

/-- Write the row an update makes of `old` into the pending block of its slot; no old row can only be overwritten
whole (R275, R284). -/
def State.updateRow (s : State) (x : Stream) (y : TSet) (t : Table) (b : Bytes) (u : Update) (en : Nat)
    (old dflt : Option StoredRow) : State × Nat :=
  let key := slotKey (recTable b) (recRow b / 2 ^ t.shift)
  let row := fun (o : StoredRow) =>
    match s.pendingBlock x y t key en dflt with
    | none => (s, 9)
    | some (s, a) =>
      let d := t.apply (((s.profile x.valley).map (·.personality)).getD 84) u o
      (s.putRow t a (recRow b % 2 ^ t.shift) (recRow b) d.1 d.2, 0)
  match old with
  | none =>
    if !u.add && recCount b = t.width && (u.mode ≠ 0 || !t.scaled) then
      row { payload := zeros t.payload, crc := 0, scales := zeros (4 * t.scales) }
    else (s, 0x12)
  | some o =>
    if u.mode = 0 && t.scaled && t.badScale false (if isMx t.fmt then t.blocksOf o.payload else o.scales) then (s, 0x16)
    else row o

/-- Apply an update whose values are good: find the old row, in the pending copy or as the newest epoch shows it. -/
def State.applyUpdate (s : State) (x : Stream) (e : Nat) (y : TSet) (t : Table) (b : Bytes) (u : Update) : State × Nat :=
  let row := recRow b
  let slot := row / 2 ^ t.shift
  let key := slotKey (recTable b) slot
  let r := s.hwReader x.valley e
  let half := t.map + 16 * slot + 8 * (y.newest % 2)
  let listed := (look y.cP key).isSome || ((y.sealed.bind fun l => look l key).isSome)
  if !listed && (!s.mapThere r t || s.poisoned half 8) then (s.recordLost r half 8 slot, 0x12) else
  let en := s.pendingView y t key
  if isT3 en || tierOf en = 5 then (s, 0x0A)
  else if badEntry6 en then (s, 0x12)
  else if tierOf en = 0 then
    match s.readDefault r t with
    | (s, some d) => s.updateRow x y t b u en (some d) (some d)
    | (s, none) => (s, 0x12)
  else if !rangeAll s.populated (baseOf en) t.block then (s.recordLost r (baseOf en) t.block row, 0x12)
  else
    let q := s.readRow r t (baseOf en) (row % 2 ^ t.shift) row
    q.1.updateRow x y t b u en q.2 none

/-- An OVERWRITE or ADD_DELTA, its outcome as a code (R275, R284, R291). -/
def State.update (s : State) (x : Stream) (e : Nat) (b : Bytes) : State × Nat :=
  match s.recordTable x b with
  | none => (s, 0x16)
  | some (y, t) =>
    let mode := if t.scaled then recMode b else 0
    if 2 < mode || t.rangeBad b mode || !s.syncOk x.valley (s.bndNow x.valley) (recSync b) then (s, 0x16)
    else if t.rows ≤ recRow b then (s, 0x13)
    else
      let q := s.recordData x t b mode
      match q.2 with
      | .error c => (q.1, c)
      | .ok (d, given) =>
        let vals := (List.range (recCount b)).map fun i => fp32.decode (u32 d (4 * i))
        if mode = 1 && t.badScale true given then (q.1, 0x16)
        else if vals.any fun v => v.isNan || (!v.isFinite && (t.scaled || isIntFmt t.fmt)) then (q.1, 5)
        else q.1.applyUpdate x e y t b { add := recOp b = 2, mode, first := recFirst b, vals, given }

/-- Row i of an EXPORT: its bytes as R277 lays them out. -/
def State.exportRow (s : State) (v e : Nat) (y : TSet) (t : Table) (row : Nat) : State × Bytes :=
  let r := s.hwReader v e
  let slot := row / 2 ^ t.shift
  let a := t.map + 16 * slot + 8 * (y.newest % 2)
  let tailOf := fun (o : StoredRow) => if isMx t.fmt then fit (ceilDiv (t.width / 32) 4 * 4) (t.blocksOf o.payload) else o.scales
  let line := fun (st : Nat) (vals : List Num) (o : StoredRow) =>
    leBytes 1 st ++ zeros 3 ++ leBytes 4 y.newest ++ (patterns vals).flatMap (leBytes 4) ++ tailOf o
  let nothing : StoredRow := { payload := zeros t.payload, crc := 0, scales := zeros (4 * t.scales) }
  let dead := line 2 (List.replicate t.width Num.zero) nothing
  if !s.mapThere r t || s.poisoned a 8 then (s.recordLost r a 8 slot, dead)
  else
    let en := s.mapEntry t slot y.newest
    if badEntry6 en then (s, dead)
    else if tierOf en = 0 then
      match s.readDefault r t with
      | (s, some o) => (s, line 1 (t.dfltValues o) o)
      | (s, none) => (s, dead)
    else match s.readRow r t (baseOf en) (row % 2 ^ t.shift) row with
      | (s, some o) => (s, line 0 (t.values o) o)
      | (s, none) => (s, dead)

/-- Bytes of one exported row. -/
def Table.exportBytes (t : Table) : Nat :=
  8 + 4 * t.width + (if isMx t.fmt then ceilDiv (t.width / 32) 4 * 4 else 4 * t.scales)

def State.exportRows (s : State) (x : Stream) (e : Nat) (b : Bytes) : State × Nat :=
  match s.recordTable x b with
  | none => (s, 0x16)
  | some (y, t) =>
    let n := recRows b
    let a := localOf (recAddr b)
    let rows := (List.range n).map (recRow b + ·)
    if n = 0 || 65536 < n || (t.scaled && 2 < recMode b) || !s.syncOk x.valley (s.bndNow x.valley) (recSync b) then (s, 0x16)
    else if t.rows < recRow b + n then (s, 0x13)
    else if s.isRemote (recAddr b) then (s, 0x11)
    else if !rangeAll (s.populatedFor x.valley (s.valley x.valley).bnd) a (n * t.exportBytes) then
      (s.error { source := 4, event := 8, valley := x.valley, scope := 1, cmpl := 0x11, addr := a } [], 0x11)
    else if rows.any fun r => let en := s.mapEntry t (r / 2 ^ t.shift) y.newest; isT3 en || tierOf en = 5 then (s, 0x0A)
    else
      ((rows.foldl (fun (acc : State × Nat) row =>
        let (s, d) := acc.1.exportRow x.valley e y t row
        (s.writeThrough acc.2 d, acc.2 + d.length)) (s, a)).1, 0)

/-- An update queue whose slot cannot be read enters ERROR (Table 11.3). -/
def State.slotFails (s : State) (v n : Nat) (q : Sq) : State :=
  (s.updSq n fun x => { x with st := 2, err := 2 }).queueError q.cq q.prod.toNat n 2 0 v

/-- Lines that the host holds Exclusive among the data a record reads: it is taken once the host has given them up
(R148). -/
def State.dataHeld (s : State) (x : Stream) (b : Bytes) : List Nat :=
  match s.recordTable x b with
  | some (_, t) =>
    if (recOp b = 1 || recOp b = 2) && !recInline b && !s.isRemote (recAddr b) then
      s.hostHolds (localOf (recAddr b)) (4 * recCount b + (if t.scaled && recMode b = 1 then t.givenBytes else 0)) false
    else []
  | none => []

/-- Take a stream's record, if it is one the command serves, and give it its outcome. -/
def State.recordOf (s : State) (n : Nat) (x : Stream) (e : Nat) (mine : Nat → Bool)
    (f : Stream → Nat → Bytes → State → State × Nat) : State :=
  match s.peekRecord x with
  | none => s
  | some b =>
    if !mine (recOp b) then s else
    let held := s.dataHeld x b
    if !held.isEmpty then held.foldl State.backInvalidate s else
    let (s, t) := s.takeRecord n x b
    let (s, code) := f x e b s
    let s := if code = 0 && (recOp b = 1 || recOp b = 2) then s.updSet x.set fun y => { y with records := y.records + 1 } else s
    s.endRecord n x b t code

/-- The next record of a set, on the engine that serves it. -/
def State.record (s : State) (set : Nat) (mine : Nat → Bool) (f : Stream → Nat → Bytes → State → State × Nat) : State :=
  match s.takesRecords set, s.nextStream set with
  | some e, some (n, x) =>
    match (if x.source = 0 then look s.core.sqs x.queue else none) with
    | some q => if !s.slotReadable q then s.slotFails x.valley x.queue q else s.recordOf n x e mine f
    | none => s.recordOf n x e mine f
  | _, _ => s

/-- OVERWRITE; an OP that Table 7.6 does not know is refused here. -/
def execHwtRecordOverwrite (set : Nat) (s : State) : Out :=
  .next (s.record set (fun op => op = 1 || op = 0 || 4 < op) fun x e b s =>
    if recOp b = 1 then s.update x e b else (s, 0x16))

def execHwtRecordAddDelta (set : Nat) (s : State) : Out :=
  .next (s.record set (· = 2) fun x e b s => s.update x e b)

def execHwtRecordExport (set : Nat) (s : State) : Out :=
  .next (s.record set (· = 3) fun x e b s => s.exportRows x e b)

def execHwtRecordFence (set : Nat) (s : State) : Out :=
  .next (s.record set (· = 4) fun x _ b s => (s, match s.recordTable x b with
    | some (_, t) => if (t.scaled && 2 < recMode b) || !s.syncOk x.valley (s.bndNow x.valley) (recSync b) then 0x16 else 0
    | none => 0x16))

/-- The engine faults: the record it had taken of a set, if any, is refused; a test of it is asked for
(R292, R677). -/
def execHeadwaterEngineFault (engine : Nat) (set : Option Nat) (s : State) : Out :=
  .next (if 4 ≤ engine then s else
    let s := match set with
      | some n => if s.takesRecords n = some engine then s.record n (fun _ => true) fun _ _ _ s => (s, 0x0D) else s
      | none => s
    s.error { source := 4, event := 6, cls := 7, unit := engine } [{ cls := 7, idx := engine }])

end Sys2Proof.Machine
end

