-- ==== Sys2Proof/Machine/Epochs.lean ====
section
/-! DEFINITION. Epoch advances and reflow sessions (07): messages, the catch-up, the copies of a step,
journals (R278-R282, R293-R296, R301-R306). -/
namespace Sys2Proof.Machine
open Sys2Proof

/-! ## Advances (R278, R301) -/

/-- Put a sealed list back: C_P is kept (R293). An entry listed since wins, and the older copy returns. -/
def TSet.unseal (x : TSet) : TSet :=
  match x.sealed with
  | none => x
  | some l =>
    let lost := l.filter fun e => (look x.cP e.1).isSome
    let x := lost.foldl (fun x e => if (look x.cP e.1).map baseOf = some (baseOf e.2) then x else x.unuse e.2) x
    { x with cP := x.cP.foldl (fun m e => put m e.1 e.2) l, sealed := none, records := x.records + x.sealedRecords, sealedRecords := 0 }

/-- End a set's advance without a flip. -/
def State.endAdvance (s : State) (set : Nat) (st : St) : State :=
  match look s.core.sets set with
  | none => s
  | some x =>
    match x.advance with
    | none => s
    | some a =>
      let s := s.updSet set fun x => { x.unseal with advance := none }
      let s := s.updValley x.valley fun y => { y with changes := y.changes.filter fun c => c.change ≠ .flip set }
      s.doneOpt a.done st 0 []

/-- Accept an advance: its flip is armed, and it seals unless N - 1 is live. -/
def State.acceptAdvance (s : State) (set : Nat) (x : TSet) (done : Option Deferred) (retain : Nat) (own : Bool) : State :=
  let a : Advance := { phase := 1, done, target := epochNext x.newest, retainUs := retain, own }
  let s := (s.updSet set fun x => { x with advance := some a }).arm x.valley (.flip set) none false
  if x.oldLive then s.expire set else s.seal set

/-- Register a journal with a set (R301, R303); none where 16 are registered already. -/
def State.register (s : State) (set j : Nat) : Option State :=
  if j = 0 || ((look s.core.sets set).map (·.journal)).getD 0 = j then some s
  else if 16 ≤ s.core.journals.length && j ∉ s.core.journals then none
  else
    let s := s.updSet set fun x => { x with journal := j }
    some (s.setCore { s.core with journals := insertSorted j s.core.journals })

def epochAdvance : Msg where
  op := 0x0403
  mark := .v
  cls := .o
  len := lenIs 24
  denied := setDenied 0
  field := fun r s =>
    let j := u64 r.pay 16
    firstBad [(100000 < u32 r.pay 8, 8), (j ≠ 0 && (j % 64 ≠ 0 || !s.inTier r.via.mbx 2 j 128), 16)]
  run := fun r s =>
    let set := u8 r.pay 0
    let j := u64 r.pay 16
    match s.ownSet r.via.mbx set with
    | none => Res.fail s .conflict
    | some x =>
      if x.destroying then Res.fail s .notReady
      else if x.advance.isSome then Res.fail s .busy
      else if u32 r.pay 4 ≠ epochNext x.newest then
        if epochAfter (u32 r.pay 4) x.newest then Res.field s 4 else Res.fail s .stale
      else if x.journal ≠ 0 && x.journal ≠ j then Res.fail s .conflict
      else match s.register set j with
      | none => Res.fail s .noResource
      | some s =>
        { s, st := .pending, after := fun s => match look s.core.sets set with
            | some x => s.acceptAdvance set x (some r.deferred) (u32 r.pay 8) false
            | none => s }

def execEpochAdvance (via : Via) (s : State) : Out := serve epochAdvance via s

/-- Records taken before the seal are staged: the catch-up starts. -/
def execEpochSealStaged (set : Nat) (s : State) : Out :=
  .next (s.updSet set fun x => match x.advance with
    | some a => if a.phase = 2 then { x with advance := some { a with phase := 3 } } else x
    | none => x)

/-! ## The catch-up (R266, R278, R293) -/

/-- Entries that the catch-up writes to half P mod 2: the slots of C_N from half N, then those of C_P. -/
def State.catchList (s : State) (set : Nat) (x : TSet) : List (Nat × Nat × Option Nat) :=
  let mine := fun (l : TMap Nat) => l.filter fun e => (look s.core.tables (tableKey set (keyTable e.1))).isSome
  (mine x.cN).map (fun e => (tableKey set (keyTable e.1), keySlot e.1, none)) ++
  (mine (x.sealed.getD [])).map (fun e => (tableKey set (keyTable e.1), keySlot e.1, some e.2))

/-- A slot the catch-up cannot write or read. -/
def State.slotLost (s : State) (x : TSet) (key slot : Nat) (new : Option Nat) : Bool :=
  match look s.core.tables key with
  | none => false
  | some t => !s.populated (t.map + 16 * slot) || (new.isNone && s.poisoned (t.map + 16 * slot + 8 * (x.newest % 2)) 8)

/-- Moves that the sealed list publishes become FLIPPED. -/
def State.publishMoves (s : State) (set : Nat) (x : TSet) (target : Nat) : State :=
  match s.session set false with
  | none => s
  | some y => s.mapMoves set fun m =>
    if m.st = 1 && ((look (x.sealed.getD []) (slotKey y.table m.slot)).map (· == m.target)).getD false
    then { m with st := 2, flip := target } else m

def State.writeHalf (s : State) (x : TSet) (target : Nat) (e : Nat × Nat × Option Nat) : State :=
  match look s.core.tables e.1 with
  | some t => s.setMapEntry t e.2.1 target (e.2.2.getD (s.mapEntry t e.2.1 x.newest))
  | none => s

/-- The journal header of an advance: NEWEST_EPOCH = P. With no session open it keeps what the last one left (R294). -/
def State.catchHeader (s : State) (set : Nat) (x : TSet) (target : Nat) : State :=
  match s.session set false with
  | some y => s.putSession y y.state
  | none =>
    if x.journal = 0 then s else
    match s.journalHeader x.journal with
    | some h =>
      if u8 h 7 = set then
        s.putHeader x.journal (u8 h 6) set target x.oldest (u16 h 20) (u16 h 22) (u32 h 24) (u32 h 28) (u32 h 32)
      else s.putHeader x.journal 0 set target x.oldest 0 0 0 0 0
    | none => s.putHeader x.journal 0 set target x.oldest 0 0 0 0 0

/-- The catch-up ends: half P mod 2 and the header are written, or the advance ends with a fault. -/
def execEpochCatchupDone (set : Nat) (s : State) : Out :=
  .next (match look s.core.sets set with
    | none => s
    | some x =>
      match x.advance with
      | none => s
      | some a =>
        if a.phase ≠ 3 then s else
        let l := s.catchList set x
        if (l.any fun e => s.slotLost x e.1 e.2.1 e.2.2) || (x.journal ≠ 0 && !s.journalThere x.journal) then
          (s.endAdvance set .faulted).checkJournals
        else
          let s := l.foldl (fun s e => s.writeHalf x a.target e) s
          let s := s.updSet set fun x => { x with advance := some { a with phase := 4 } }
          let s := (s.publishMoves set x a.target).catchHeader set x a.target
          s.ready x.valley (.flip set))

/-! ## EPOCH_QUERY (R302) -/

/-- Until its flip, P's changes are those its advance has sealed. -/
def State.epochBytes (s : State) (set : Nat) (x : TSet) : Bytes :=
  let phase := match x.advance with | some a => (match a.phase with | 1 => 1 | 2 => 2 | 3 => 2 | _ => 3) | none => 0
  let left := if x.oldLive then ceilDiv (x.flipAt + 1000 * x.retainUs - s.now) 1000 else 0
  let named := s.core.streams.filter fun y => y.2.set = set && y.2.valley = x.valley
  let ss := if named.length ≤ 16 then named else named.filter fun y => y.2.st ≠ 0
  let list := x.sealed.getD x.cP
  let recs := if x.sealed.isSome then x.sealedRecords else x.records
  let line := fun (y : Nat × Stream) =>
    leBytes 1 y.1 ++ leBytes 1 y.2.st ++ zeros 2 ++ leBytes 4 (min y.2.refused 0xFFFFFFFF) ++ leBytes 8 y.2.taken
  leBytes 4 x.oldest ++ leBytes 4 x.newest ++ leBytes 1 phase ++ zeros 3 ++
    leBytes 4 (if x.oldLive then s.stampedWith set x.oldest else 0) ++ leBytes 4 left ++ zeros 4 ++
    leBytes 8 list.length ++ leBytes 8 recs ++ leBytes 8 (((x.pools ++ x.absorbed).map (·.bytes)).sum) ++
    leBytes 8 x.poolFree ++ leBytes 8 x.journal ++
    fit 256 (ss.flatMap line ++ (List.range (16 - ss.length)).flatMap fun _ => leBytes 1 0xFF ++ zeros 15)

def epochQuery : Msg where
  op := 0x0404
  mark := .v
  cls := .q
  len := lenIs 4
  denied := setDenied 0
  run := fun r s => match s.ownSet r.via.mbx (u8 r.pay 0) with
    | some x => Res.okay s (s.epochBytes (u8 r.pay 0) x)
    | none => Res.fail s .conflict

def execEpochQuery (via : Via) (s : State) : Out := serve epochQuery via s

/-! ## Starting a session (R280, R282, R303) -/

def State.reflowTable (s : State) (v : Nat) (p : Bytes) : Option (TSet × Table) :=
  match s.ownSet v (u8 p 0), look s.core.tables (tableKey (u8 p 0) (u16 p 4)) with
  | some x, some t => some (x, t)
  | _, _ => none

def planField (s : State) (v : Nat) (p : Bytes) : Option Nat :=
  let n := u32 p 8
  let j := u64 p 24
  let b := u64 p 32
  firstBad [(1 < u8 p 1, 1), (1023 < u16 p 4, 4), (n = 0 || 2 ^ 24 < n, 8), (u32 p 12 = 0 || 65536 < u32 p 12, 12),
    (!s.t1OrHost v (u64 p 16) (16 * n), 16), (j = 0 || j % 64 ≠ 0 || !s.inTier v 2 j (max 1 b), 24),
    (b % 64 ≠ 0 || b < 128 + 32 * n, 32)]

/-- The moves a PLAN session reads. -/
def readPlan (b : Bytes) (n : Nat) : List Move :=
  (List.range n).map fun i => { slot := u64 b (16 * i), target := u64 b (16 * i + 8) }

def reflowStart (field : Req → State → Option Nat) (run : Req → State → TSet → Table → Res) : Msg where
  op := 0x0405
  mark := .v
  cls := .o
  len := lenIs 48
  denied := setDenied 0
  field := field
  run := fun r s => match s.reflowTable r.via.mbx r.pay with
    | none => Res.fail s .conflict
    | some (x, t) => if x.destroying || t.destroying then Res.fail s .notReady else run r s x t

def startPlan (r : Req) (s : State) (x : TSet) (_ : Table) : Res :=
  let set := u8 r.pay 0
  let n := u32 r.pay 8
  let j := u64 r.pay 24
  if (s.session set false).isSome then Res.fail s .busy
  else if x.journal ≠ 0 && x.journal ≠ j then Res.fail s .conflict
  else if s.poisoned (u64 r.pay 16) (16 * n) then Res.fail s .checkFailed 0xFFFFFFFF
  else match s.register set j with
  | none => Res.fail s .noResource
  | some s =>
    let y : Session := {
      set, table := u16 r.pay 4, track := false, journal := j, journalBytes := u64 r.pay 32
      advance := bit (u8 r.pay 2) 0, stepMoves := u32 r.pay 12, moves := readPlan (s.bytes (u64 r.pay 16) (16 * n)) n
      done := some r.deferred }
    Res.pend ((s.setCore { s.core with sessions := s.core.sessions ++ [y] }).putSession y 1)

/-- MODE 0, and a MODE out of range, which the field check refuses. -/
def execReflowStartPlan (via : Via) (s : State) : Out :=
  serveIf (reflowStart (fun r s => planField s r.via.mbx r.pay) startPlan) (fun r => u8 r.pay 1 ≠ 1) via s

def trackField (s : State) (v : Nat) (p : Bytes) : Option Nat :=
  let n := ((look s.core.tables (tableKey (u8 p 0) (u16 p 4))).map Table.slots).getD 1
  firstBad [(1023 < u16 p 4, 4), (!s.inTier v 2 (u64 p 40) n, 40)]

def startTrack (r : Req) (s : State) (_ : TSet) (_ : Table) : Res :=
  if (s.session (u8 r.pay 0) true).isSome then Res.fail s .busy
  else
    let y : Session := { set := u8 r.pay 0, table := u16 r.pay 4, track := true, temp := u64 r.pay 40, done := some r.deferred }
    Res.pend (s.setCore { s.core with sessions := s.core.sessions ++ [y] })

def execReflowStartTrack (via : Via) (s : State) : Out :=
  serveIf (reflowStart (fun r s => trackField s r.via.mbx r.pay) startTrack) (fun r => u8 r.pay 1 = 1) via s

/-! ## A step (R280, R281) -/

/-- Every row of a block can be trusted; failures are recorded. -/
def State.blockGood (s : State) (r : Reader) (t : Table) (base slot : Nat) : State × Bool :=
  (List.range (2 ^ t.shift)).foldl (fun (acc : State × Bool) k =>
    let row := slot * 2 ^ t.shift + k
    if !acc.2 || t.rows ≤ row then acc else
    match acc.1.readRow r t base k row with
    | (s, some _) => (s, true)
    | (s, none) => (s, false)) (s, true)

/-- The target of a move names storage that may take the block (R281). -/
def State.targetOk (s : State) (v : Nat) (t : Table) (e : Nat) : Bool := isLocal e && s.entryOk v t e

/-- Copy one move, or fail it. -/
def State.copyMove (s : State) (v engine : Nat) (y : Session) (t : Table) (m : Move) : State × Move :=
  let fail := fun (s : State) => (s, { m with st := 4 })
  match look s.core.sets y.set with
  | none => fail s
  | some x =>
    let key := slotKey y.table m.slot
    let r := s.hwReader v engine
    if t.slots ≤ m.slot || !s.mapThere r t || s.poisoned (t.map + 16 * m.slot + 8 * (x.newest % 2)) 8 then fail s
    else
      let old := s.pendingView x t key
      if badEntry6 old || !isLocal old || !s.targetOk v t m.target || 2 ^ 24 ≤ x.cP.length then fail s
      else match s.blockGood r t (baseOf old) m.slot with
      | (s, false) => fail s
      | (s, true) =>
        let s := (s.copyBlock (baseOf old) (baseOf m.target) t.block).stageEntry y.set key m.target
        let map := ((x.sealed.bind fun l => look l key).getD (s.mapEntry t m.slot x.newest))
        (s, { m with st := 1, old := map })

/-- The moves of the next step, at most STEP_MOVES from the first PLANNED one. -/
def Session.step (y : Session) : List Nat :=
  ((List.range y.moves.length).filter fun i => ((y.moves[i]?).map (·.st)) = some 0).take y.stepMoves

def State.copyStep (s : State) (v : Nat) (y : Session) (t : Table) : State :=
  let engine := (s.engineOf y.set).getD 0
  let s := y.step.foldl (fun s i =>
    match s.session y.set false with
    | none => s
    | some z =>
      match z.moves[i]? with
      | none => s
      | some m =>
        let (s, m) := s.copyMove v engine z t m
        match s.session y.set false with
        | some z => s.setSession { z with moves := z.moves.set i m }
        | none => s) s
  match s.session y.set false with
  | none => s
  | some z =>
    let z := { z with steps := z.steps + b2n (!y.step.isEmpty) }
    ((s.setSession z).putSession z z.state).endIfDone y.set

/-- With FLAGS.ADVANCE the device advances the set itself once copies wait to be published (R280). -/
def State.ownAdvance (s : State) (set : Nat) : State :=
  match s.session set false, look s.core.sets set with
  | some y, some x =>
    if y.advance && x.advance.isNone && y.moves.any (fun m => m.st = 1) then s.acceptAdvance set x none 0 true else s
  | _, _ => s

/-- The next step's copies are made once the last step's are published. -/
def execReflowStepCopied (set : Nat) (s : State) : Out :=
  .next (match s.session set false, look s.core.sets set with
    | some y, some x =>
      if !s.serving then s
      else if !s.journalThere y.journal then s.faultSession y
      else match look s.core.tables (tableKey set y.table) with
      | none => s
      | some t =>
        let s := if y.moves.any fun m => m.st = 1 then s else s.copyStep x.valley y t
        s.ownAdvance set
    | _, _ => s)

/-! ## Resume, abandon, query (R295, R296, R304, R305) -/

def journalMoves (s : State) (j n : Nat) : List Move := (List.range n).map fun i => readMove (s.bytes (j + 128 + 32 * i) 32)

/-- State of a move when its journal is attached again (Table 7.5). -/
def resumeMove (newest : Nat) (m : Move) : Move :=
  if m.st = 2 && !epochAfter m.flip newest then { m with st := 3 }
  else if m.st = 3 || m.st = 4 then m
  else { m with st := 0 }

/-- The valley of the set that a journal is registered to. -/
def State.journalSet (s : State) (j : Nat) : Option (Nat × TSet) := s.core.sets.find? fun x => x.2.journal = j

/-- The adopted table that a journal names; a journal that no session has used names its set alone (Table 7.5). -/
def State.adoptedTable (s : State) (set : Nat) (h : Bytes) : Option Table :=
  if u32 h 24 = 0 then (s.core.tables.find? fun t => t.1 / 1024 = set && t.2.adopted).map (·.2)
  else (look s.core.tables (tableKey set (u16 h 20))).filter (·.adopted)

/-- A journal registered to a set of another valley (R43). -/
def journalDenied : Req → State → Bool := fun r s =>
  u64 r.pay 0 ≠ 0 && ((s.journalSet (u64 r.pay 0)).map fun x => x.2.valley != r.via.mbx).getD false

def reflowResume : Msg where
  op := 0x0406
  mark := .v
  cls := .o
  len := lenIs 8
  denied := journalDenied
  run := fun r s =>
    let j := u64 r.pay 0
    match s.journalHeader j with
    | none => Res.fail s .conflict
    | some h =>
      let set := u8 h 7
      match s.ownSet r.via.mbx set, s.adoptedTable set h with
      | some x, some t =>
        if x.destroying || t.destroying then Res.fail s .notReady
        else if (s.session set false).isSome then Res.fail s .busy
        else if x.newest ≠ u32 h 12 || (x.journal ≠ 0 && x.journal ≠ j) then Res.fail s .conflict
        else match s.register set j with
        | none => Res.fail s .noResource
        | some s =>
          let n := u32 h 24
          let y : Session := {
            set, table := u16 h 20, track := false, journal := j, journalBytes := 128 + 32 * n, advance := bit (u16 h 22) 0
            stepMoves := u32 h 28, moves := (journalMoves s j n).map (resumeMove x.newest), done := some r.deferred }
          let s := (s.setCore { s.core with sessions := s.core.sessions ++ [y] }).putSession y 1
          { s, st := .pending, after := fun s => s.endIfDone set }
      | _, _ => Res.fail s .conflict

def execReflowResume (via : Via) (s : State) : Out := serve reflowResume via s

/-- The TRACK session an abandon names: by SET and TABLE, or the valley's only one. -/
def State.trackOf (s : State) (v : Nat) (j : Nat) : List Session :=
  s.core.sessions.filter fun x => x.track && ((look s.core.sets x.set).map fun t => t.valley == v).getD false &&
    (j = 0 || (x.set = j % 256 && x.table = j / 65536 % 65536))

/-- The epoch before the one that published a move has expired (R280). -/
def TSet.committed (x : TSet) (m : Move) : Bool :=
  !(x.oldLive && m.flip = x.newest) && !((x.advance.map fun a => a.target == m.flip).getD false)

/-- Abandon a PLAN session: what is not flipped is discarded; FLIPPED moves are committed, at once or when the epoch
before theirs expires, and the session ends with the last (R280, R296, R304). -/
def State.abandon (s : State) (y : Session) (d : Deferred) : State :=
  let s := s.discardCopies y
  let done := fun (m : Move) => ((look s.core.sets y.set).map fun x => x.committed m).getD true
  let y := { y with
    abandoned := some d
    moves := y.moves.map fun m => if m.st = 2 && done m then { m with st := 3 } else if m.st < 2 then { m with st := 4 } else m }
  ((s.setSession y).putSession y 2).endIfDone y.set

/-- Abandon a journal that no session has open: its moves are committed or discarded where it can be read, and it leaves
the list (R296, R304). -/
def State.abandonJournal (s : State) (j : Nat) : State :=
  if j ∉ s.core.journals then s else
  let s := match s.journalHeader j with
    | none => s
    | some h =>
      let ms := (journalMoves s j (u32 h 24)).map fun m =>
        let m := resumeMove (u32 h 12) m
        if m.st = 0 then { m with st := 4 } else m
      let s := s.putHeader j 2 (u8 h 7) (u32 h 12) (u32 h 16) (u16 h 20) (u16 h 22) ms.length (u32 h 28) ms.length
      (List.range ms.length).foldl (fun s i => match ms[i]? with | some m => s.putMove j i m | none => s) s
  s.dropJournal j

def reflowAbandon : Msg where
  op := 0x0407
  mark := .v
  cls := .d
  len := lenIs 8
  denied := journalDenied
  run := fun r s =>
    let j := u64 r.pay 0
    if j = 0 || bit j 63 then
      match s.trackOf r.via.mbx j with
      | [] => Res.okay s
      | [y] => { s := s.endSession y, st := .pending
                 after := fun s => (s.doneOpt y.done .ok 0 (zeros 16)).done r.deferred .ok 0 [] }
      | _ => Res.fail s .conflict
    else match s.journalSet j with
    | none => Res.okay (s.abandonJournal j)
    | some (set, _) =>
      match s.session set false with
      | some y => { s, st := .pending, after := fun s => s.abandon y r.deferred }
      | none => Res.okay ((s.updSet set fun x => { x with journal := 0 }).abandonJournal j)

def execReflowAbandon (via : Via) (s : State) : Out := serve reflowAbandon via s

def State.reflowBytes (s : State) (j : Nat) : Bytes :=
  let l := s.core.journals
  let h := if j = 0 then none else s.journalHeader j
  let ms := match h with | some h => journalMoves s j (u32 h 24) | none => []
  let n := fun (k : Nat) => leBytes 4 (ms.filter fun m => m.st = k).length
  leBytes 4 l.length ++ zeros 4 ++ fit 128 (l.flatMap (leBytes 8)) ++ fit 64 (h.getD []) ++
    n 0 ++ n 1 ++ n 2 ++ n 3 ++ n 4 ++ zeros 4

def reflowQuery : Msg where
  op := 0x0408
  mark := .v
  cls := .q
  len := lenIs 8
  denied := journalDenied
  run := fun r s => Res.okay s (s.reflowBytes (u64 r.pay 0))

def execReflowQuery (via : Via) (s : State) : Out := serve reflowQuery via s

end Sys2Proof.Machine
end

