-- ==== Sys2Proof/Machine/Wire.lean ====
section
/-! DEFINITION. What a Pass link carries: lane maps, frames on the line, flits and packets (14: R518-R525). -/
namespace Sys2Proof.Machine
open Sys2Proof

/-! ## Lane maps (R518) -/

def laneMapId : W32 := 0x001AC688

/-- Physical lane of logical lane k; k = 6 is the spare. -/
def laneOf (m : W32) (k : Nat) : Nat := m.toNat / 8 ^ k % 8

def laneMapOk (m : W32) : Bool :=
  m.toNat / 2 ^ 21 = 0 && (List.range 7).all fun i => (List.range 7).any fun k => laneOf m k == i

/-- Move the logical lane of a physical lane that fails onto the spare. -/
def spareLane (m : W32) (lane : Nat) : W32 :=
  let l := (List.range 7).map fun k =>
    if laneOf m k = lane then laneOf m 6 else if k = 6 then lane else laneOf m k
  BitVec.ofNat 32 (l.reverse.foldl (fun a x => a * 8 + x) 0)

/-! ## The line (R520, R521) -/

def marker : Bytes := [0x1E, 0xC5, 0x7A, 0x93, 0x4F, 0xB0, 0x2D, 0xE6]

/-- One step of the scrambler x^31 + x^28 + 1: its output bit and its next state. -/
def scrambleStep (st : BitVec 31) : Bool × BitVec 31 :=
  let b := st.getLsbD 30 != st.getLsbD 27
  (b, (st <<< 1) ||| (if b then 1 else 0))

/-- Eight scrambler bits, the first in the least significant place. -/
def scrambleByte (st : BitVec 31) : Byte × BitVec 31 :=
  (List.range 8).foldl (fun (acc : Byte × BitVec 31) i =>
    let r := scrambleStep acc.2
    (acc.1 ||| (if r.1 then (1 : Byte) <<< i else 0), r.2)) (0, st)

/-- Scramble, or descramble, from a state on. -/
def scrambleFrom : BitVec 31 → Bytes → Bytes
  | _, [] => []
  | st, b :: l => (b ^^^ (scrambleByte st).1) :: scrambleFrom (scrambleByte st).2 l

/-- The marker stays; the rest is scrambled from the state of ones. -/
def scramble (frame : Bytes) : Bytes := frame.take 8 ++ scrambleFrom (BitVec.allOnes 31) (frame.drop 8)

/-- Multiply by α in GF(2^8) with x^8 + x^4 + x^3 + x^2 + 1. -/
def gfTwice (a : Byte) : Byte := (a <<< 1) ^^^ (if a.getLsbD 7 then 0x1D else 0)

def gfMul (a b : Byte) : Byte :=
  ((List.range 8).foldl (fun (acc : Byte × Byte) i =>
    (if b.getLsbD i then acc.1 ^^^ acc.2 else acc.1, gfTwice acc.2)) (0, a)).1

def gfPow : Nat → Byte
  | 0 => 1
  | n + 1 => gfTwice (gfPow n)

/-- The generator with roots α^0 to α^11, its 12 coefficients below the leading one, highest first. -/
def rsGen : Bytes :=
  ((List.range 12).foldl (fun (g : Bytes) i =>
    List.zipWith (· ^^^ ·) (g ++ [0]) (0 :: g.map (gfMul (gfPow i)))) [1]).tail

/-- Parity of one codeword: the remainder of the message times x^12. -/
def rsParity (msg : Bytes) : Bytes :=
  msg.foldl (fun (r : Bytes) b =>
    let f := b ^^^ r.headD 0
    List.zipWith (fun x g => x ^^^ gfMul f g) (r.tail ++ [0]) rsGen) (zeros 12)

/-- A frame's 4,352 line bytes: 16 codewords over the scrambled data (Table 14.1). -/
def lineBytes (frame : Bytes) : Bytes :=
  let d := scramble frame
  (List.range 16).flatMap fun i => slice d (260 * i) 260 ++ rsParity (slice d (260 * i) 260)

/-! ## Flits (R523) -/

/-- A flit: SEQ, bytes 2 to 59, CRC. -/
def sealFlit (seq : Nat) (body : Bytes) : Bytes :=
  let b := leBytes 2 seq ++ fit 58 body
  b ++ leBytes 4 (crc32c b).toNat

def nullFlit : Bytes := sealFlit 0 []
def flitOk (f : Bytes) : Bool := f.length = 64 && (crc32c (f.take 60)).toNat = u32 f 60
def flitSeq (f : Bytes) : W16 := BitVec.ofNat 16 (u16 f 0)
def flitTag (f : Bytes) : Nat := u8 f 2 % 8
def flitClass (f : Bytes) : Nat := u8 f 2 / 8 % 4
def flitKind (f : Bytes) : Nat := u8 f 2 / 32
def flitDest (f : Bytes) : Nat := u8 f 3
def flitSrc (f : Bytes) : Nat := u8 f 4
def flitHops (f : Bytes) : Nat := u8 f 5
def flitPoison (f : Bytes) : Bool := bit (u8 f 6) 0
def flitData (f : Bytes) : Bytes := slice f 8 52

/-- Channel of a tag and class (R526). -/
def channel (tag cls : Nat) : Nat := if cls = 2 then 16 else 2 * tag + cls

/-! ## Packets (R524, R525) -/

/-- Class of each message type of Table 14.4; none for a reserved type. -/
def typeClass (kind : Nat) : Option Nat :=
  if kind = 1 || kind = 3 || kind = 5 || kind = 7 || kind = 9 then some 0
  else if kind = 2 || kind = 4 || kind = 6 || kind = 8 || kind = 0x0A || kind = 0x0B then some 1
  else if kind = 0x40 || kind = 0x41 || kind = 0x42 then some 2
  else none

/-- Flits of a packet of n message bytes. -/
def flitCount (n : Nat) : Nat := if n ≤ 44 then 1 else 1 + ceilDiv (n - 44) 52

/-- Bytes 2 to 59 of flit i of a message. -/
def flitBody (dest src tag cls hops kind : Nat) (poison : Bool) (msg : Bytes) (i : Nat) : Bytes :=
  let n := flitCount msg.length
  let k := if n = 1 then 4 else if i = 0 then 1 else if i + 1 = n then 3 else 2
  let data := if i = 0 then leBytes 1 kind ++ zeros 3 ++ leBytes 4 msg.length ++ slice msg 0 44
    else slice msg (44 + 52 * (i - 1)) 52
  leBytes 1 (tag % 8 + 8 * cls + 32 * k) ++ leBytes 1 dest ++ leBytes 1 src ++ leBytes 1 hops ++ leBytes 2 (b2n poison) ++ fit 52 data

/-- The message of a whole packet's flits. -/
def messageOf (flits : List Bytes) : Bytes :=
  match flits with
  | [] => []
  | f :: rest => (slice f 16 44 ++ rest.flatMap flitData).take (u32 f 12)

end Sys2Proof.Machine
end

