-- ==== Sys2Proof/Machine/Serve.lean ====
section
/-! DEFINITION. Pass packets that end at this node (R525, R546, R547): requests served for peers and answers to
this node's own requests. -/
namespace Sys2Proof.Machine
open Sys2Proof

/-! ## Requests of peers (R546) -/

/-- One populated region, or one scratch group of the valley, holds the whole range; neither registers nor host
memory do (R137). -/
def State.peerRange (s : State) (v a n : Nat) : Bool :=
  let last := a + n - 1
  match s.profile v with
  | none => false
  | some p =>
    if inScratch a && inScratch last then
      a / scratchSize == last / scratchSize && s.populated a && (s.group (a / scratchSize)).owner == some v
    else if inHbm a && inHbm last then
      hbmRegion a == hbmRegion last && s.populated a && p.hbmRegions.getLsbD (hbmRegion a)
    else inLpd a && inLpd last && lpdRegion a == lpdRegion last && s.populated a && p.lpdRegions.getLsbD (lpdRegion a)

/-- LENGTH of a READ or WRITE is 1 to 4,096 and the packet holds it. -/
def accessShort (msg : Bytes) (data : Bool) : Bool :=
  let n := u32 msg 4
  msg.length < 16 || n = 0 || 4096 < n || (data && msg.length < 16 + n)

/-- An address that is not served: its record and ERROR ADDRESS (R136). -/
def State.peerAddress (s : State) (src tag kind : Nat) (msg : Bytes) : State :=
  (s.error { source := 6, event := 8, valley := tag, scope := 1, addr := u64 msg 8, index := src } []).sendError src tag kind 1 msg

def State.readRequest (s : State) (src tag : Nat) (msg : Bytes) : State :=
  let n := u32 msg 4
  let a := u64 msg 8
  if !s.servesPeers then s
  else if accessShort msg false then s.sendError src tag 5 4 msg
  else if !s.peerRange tag a n then s.peerAddress src tag 5 msg
  else if s.poisoned a n then
    let u := (memUnit a).toList
    let e : FaultEv := { source := 6, event := 3, valley := tag, scope := 1, addr := a, index := src }
    let e := match memUnit a with | some u => { e with cls := u.cls, unit := u.idx } | none => e
    (s.error e u).sendError src tag 5 3 msg
  else
    let s := s.fetch tag a n
    s.send { dest := src, src := s.dev.nodeId, tag, kind := 6, msg := leBytes 4 (u32 msg 0) ++ zeros 4 ++ s.bytes a n }

def execPassReadRequest (src tag : Nat) (msg : Bytes) (s : State) : Out := .next (s.readRequest src tag msg)

/-- The data of a poisoned packet is poison in memory. -/
def State.writeRequest (s : State) (src tag : Nat) (msg : Bytes) (poison : Bool) : State :=
  let n := u32 msg 4
  let a := u64 msg 8
  if !s.servesPeers then s
  else if accessShort msg true then s.sendError src tag 7 4 msg
  else if !s.peerRange tag a n then s.peerAddress src tag 7 msg
  else
    let s := if poison then s.poison a n else s.writeThrough a (slice msg 16 n)
    s.send { dest := src, src := s.dev.nodeId, tag, kind := 8, msg := leBytes 4 (u32 msg 0) ++ zeros 4 }

def execPassWriteRequest (src tag : Nat) (msg : Bytes) (poison : Bool) (s : State) : Out :=
  .next (s.writeRequest src tag msg poison)

/-- An open PASS stream of the valley that takes records of the node. -/
def State.pushOk (s : State) (src tag n : Nat) : Bool :=
  match look s.core.streams n with
  | some x => x.valley == tag && x.st == 1 && x.source == 1 && (x.node == 0xFF || x.node == src)
  | none => false

def State.pushRequest (s : State) (src tag : Nat) (msg : Bytes) : State :=
  let n := u8 msg 0
  if !s.servesPeers then s
  else if msg.length < 132 then s.sendError src tag 9 4 msg
  else if s.pushOk src tag n then
    s.updStream n fun x => { x with inbox := x.inbox ++ [{ bytes := slice msg 4 128, node := src, tag }] }
  else s.send { dest := src, src := s.dev.nodeId, tag, kind := 0x0A, msg := leBytes 1 n ++ leBytes 1 0x16 ++ zeros 2 }

def execPassPushRequest (src tag : Nat) (msg : Bytes) (s : State) : Out := .next (s.pushRequest src tag msg)

/-! ## Answers (R547) -/

/-- The data of a READ goes where its request said. -/
def State.readData (s : State) (m : Remote) (d : Bytes) : State :=
  match m.use with
  | .load t =>
    (match look s.core.threads t with
    | some x => match x.wait with
      | .load _ _ dst => s.updThread t fun y => { y with wait := .run, regs := loadRegs y.regs dst d }
      | _ => s
    | none => s.settle m.req)
  | .indexList i => (s.updBag i fun b => { b with index := b.index.map fun p => patchAt p m.off d }).resolveBag i
  | .weightList i => (s.updBag i fun b => { b with weights := b.weights.map fun p => patchAt p m.off d }).resolveBag i
  | .weights i => s.updPlain i fun o => { o with result := patchAt o.result m.off d }
  | .replay k i => s.updCtx k fun c => { c with
      replayData := put c.replayData i ((lookD c.replayData i none).map fun p => patchAt p m.off d) }
  | _ => s

/-- Completion code of an ERROR code. -/
def errorCode (code : Nat) : Nat := if code = 1 then 0x11 else if code = 3 then 0x17 else 0x15

/-- An ERROR is matched by its type and tag; UNREACHABLE may come from a node on the way (Table 14.7), the others
come from the node asked. -/
def State.errorAnswer (s : State) (src : Nat) (msg : Bytes) : State :=
  let kind := u8 msg 4
  let tag := if kind = 1 || kind = 3 then u16 msg 0 else u32 msg 0
  match s.core.remote.find? fun m => m.2.kind = kind && m.2.tag = tag && (u8 msg 5 = 2 || m.2.node = src) with
  | none => s
  | some (i, m) => (s.dropRemote i).remoteFails m (errorCode (u8 msg 5))

/-- The request an answer of a type belongs to: message type and tag. -/
def answerOf (kind : Nat) (msg : Bytes) : Nat × Nat :=
  if kind = 2 then (1, u16 msg 0) else if kind = 4 then (3, u16 msg 0)
  else if kind = 6 then (5, u32 msg 0) else (7, u32 msg 0)

def State.answer (s : State) (src kind : Nat) (msg : Bytes) (poison : Bool) : State :=
  if kind = 0x0B && !poison then s.errorAnswer src msg
  else if !(kind = 2 || kind = 4 || kind = 6 || kind = 8) then s
  else
    let k := answerOf kind msg
    match s.remoteOf src k.2 [k.1] with
    | none => s
    | some (i, m) =>
      if poison then (s.dropRemote i).remoteFails m 0x17
      else if kind = 2 then s.lookupAnswer src msg
      else if kind = 4 then s.signalAnswer src k.2 (u16 msg 2)
      else if kind = 6 then (s.dropRemote i).readData m (fit m.bytes (slice msg 8 m.bytes))
      else (s.dropRemote i).settle m.req

def execPassAnswerReceive (src kind : Nat) (msg : Bytes) (poison : Bool) (s : State) : Out :=
  .next (s.answer src kind msg poison)

/-! ## A packet ends here (R525, R534) -/

def State.dropPacket (s : State) : State := { s with fabric := { s.fabric with dropped := s.fabric.dropped + 1 } }

/-- A request in a poisoned packet, but for a WRITE's data, is not carried out (notes/assumptions/27.md). -/
def State.terminate (s : State) (p : Packet) : State :=
  if typeClass p.kind ≠ some p.cls then
    let s := s.dropPacket
    if p.cls = 0 then s.sendError p.src p.tag p.kind 4 p.msg else s
  else if p.cls = 1 then s.answer p.src p.kind p.msg p.poison
  else if p.kind = 7 then s.writeRequest p.src p.tag p.msg p.poison
  else if p.poison then s.sendError p.src p.tag p.kind 3 p.msg
  else if p.kind = 1 then s.lookupRequest p.src p.tag p.msg
  else if p.kind = 3 then s.signalRequest p.src p.tag p.msg
  else if p.kind = 5 then s.readRequest p.src p.tag p.msg
  else if p.kind = 9 then s.pushRequest p.src p.tag p.msg
  else s

/-- A packet is dropped for want of a way: a REQ gets ERROR UNREACHABLE from this node (Table 14.7). -/
def State.undeliverable (s : State) (p : Packet) : State :=
  if p.cls = 0 then s.sendError p.src p.tag p.kind 2 p.msg else s

end Sys2Proof.Machine
end

