-- ==== Sys2Proof/Machine/Fabric.lean ====
section
/-! DEFINITION. The Pass fabric as a node sees it: fabric time, topology and routes, the queues of the ports, and a
link's way down (14: R526-R534, R556, R560-R562). -/
namespace Sys2Proof.Machine
open Sys2Proof

/-! ## Fabric time (R528-R530) -/

/-- Fabric time in ps at device time t. -/
def Fabric.psAt (f : Fabric) (t : Nat) : Nat := f.ps + 1000 * (t - f.at_)
def State.fabricPs (s : State) : Nat := s.fabric.psAt s.now
def roundPs : Nat := 512000
def State.round (s : State) : Nat := s.fabricPs / roundPs

/-- Let device time run to the next multiple of n rounds. -/
def State.toRound (s : State) (n : Nat) : State :=
  let r := (s.round / n + 1) * n
  s.advanceTo (s.now + ceilDiv (r * roundPs - s.fabricPs) 1000)

def State.isRoot (s : State) : Bool := s.fabric.topology ≠ 0 && s.fabric.root = s.dev.nodeId

/-- The port towards the time root: the UP link whose partner has the fewest hops, the lowest port of those. -/
def State.parent (s : State) : Option Nat :=
  if s.isRoot then none else
  let hops := fun (p : Nat) => ((s.plink p).partner.map (·.rootHops)).getD 0xFF
  pickMin hops ((List.range 8).filter fun p => s.passUp p && hops p < 0xFF)

def State.rootHops (s : State) : Nat :=
  if s.isRoot then 0 else match s.parent with
  | some p => min 0xFF (((s.plink p).partner.map (·.rootHops)).getD 0xFF + 1)
  | none => 0xFF

def State.stepState (s : State) : Nat := if s.isRoot then 0 else s.fabric.step
def State.inStep (s : State) : Bool := s.stepState ≤ 1

/-- A link is slotted while both ends are in step with one schedule; ends may differ for 16 rounds after a
boundary that changed it (R531, R555). -/
def State.slotted (s : State) (p : Nat) : Bool :=
  let l := s.plink p
  match l.partner with
  | some q => s.inStep && q.inStep && (q.schedGen % 256 = s.fabric.schedGen % 256 || l.genRuns < 16)
  | none => false

/-! ## Topology and routes (R532, R533) -/

/-- Ports of the Y dimension of a torus. -/
def State.dimY (s : State) (p : Nat) : Bool := s.fabric.topology = 2 && p / 2 % 2 = 1

/-- Alternate of a base port: its twin, or the opposite port of its dimension. -/
def State.alternate (s : State) (p : Nat) : Nat := if s.hasPass (p + 4) then p + 4 else p ^^^ 1

/-- Port of the shortest way round a cycle of n, with ties going to +. -/
def shortWay (n me dest plus : Nat) : Option Nat :=
  let d := (dest + n - me) % n
  if d = 0 then none else some (if d ≤ n - d then plus else plus + 1)

/-- Base port of the derived route. -/
def State.basePort (s : State) (dest : Nat) : Option Nat :=
  let me := s.dev.nodeId
  let f := s.fabric
  if f.topology = 1 then
    if f.xSize < dest then none else shortWay (f.xSize + 1) me dest 0
  else if f.topology = 2 then
    if f.xSize ≤ dest / 16 || f.ySize ≤ dest % 16 then none
    else (shortWay f.xSize (me / 16) (dest / 16) 0) <|> (shortWay f.ySize (me % 16) (dest % 16) 2)
  else none

/-- Primary and alternate port for a destination. -/
def State.ports (s : State) (dest : Nat) : List Nat :=
  match s.fabric.routes with
  | some r => [u8 r dest % 16, u8 r dest / 16]
  | none => match s.basePort dest with
    | some p => [p, s.alternate p]
    | none => []

/-- The way out to a destination (R534). -/
def State.egress (s : State) (dest : Nat) : Option Nat := (s.ports dest).find? s.passUp

/-! ## Queues of a port (R526, R534) -/

/-- Give back the flits a packet held in the buffer of the port it came in by. -/
def State.giveBack (s : State) (q : Queued) (n : Nat) : State :=
  match q.input with
  | some p => s.updLink p fun l => { l with given := upd l.given q.chan 0 (· + n) }
  | none => s

/-- A packet ends here, or joins the queue of its way out; over the hop limit or with no way, it is dropped. -/
def State.routeQueued (s : State) (q : Queued) : State :=
  let n := flitCount q.packet.msg.length
  if q.packet.dest = s.dev.nodeId then (s.giveBack q n).terminate q.packet
  else if s.fabric.hopLimit < q.packet.hops + 1 then (s.giveBack q n).undeliverable q.packet
  else match s.egress q.packet.dest with
  | none => (s.giveBack q n).undeliverable q.packet
  | some p => s.updLink p fun l => { l with queue := l.queue ++ [{ q with since := s.now, sent := 0 }] }

def State.routePacket (s : State) (input : Option Nat) (p : Packet) : State :=
  s.routeQueued { chan := channel (p.tag % 8) p.cls, input, packet := p, since := s.now }

/-- Route what this node has originated. -/
def State.flushOutbox (s : State) : State :=
  let l := s.core.outbox
  l.foldl (fun s p => s.routePacket none { p with cls := (typeClass p.kind).getD 0 }) (s.setCore { s.core with outbox := [] })

def execPassPacketForward (port dest src tag cls hops kind : Nat) (poison : Bool) (msg : Bytes) (s : State) : Out :=
  .next (if s.passUp port then
    (s.routePacket (some port) { dest := dest % 256, src := src % 256, tag := tag % 8, kind, poison, hops, cls, msg }).flushOutbox
  else s)

/-- A packet has waited 10 ms at the head of a port's queue (R561). -/
def execPassPacketHoldTimeout (port : Nat) (s : State) : Out :=
  .next (match (s.plink port).queue with
    | [] => s
    | q :: _ =>
      let s := s.advanceTo (q.since + 10000000)
      let s := s.updLink port fun l => { l with queue := l.queue.tail }
      ((s.giveBack q (flitCount q.packet.msg.length)).undeliverable q.packet).flushOutbox)

/-! ## Down (R560, R562) -/

/-- The packets of a port that have not started take another way. -/
def State.reroute (s : State) (p : Nat) : State :=
  let l := (s.plink p).queue
  l.foldl State.routeQueued (s.updLink p fun x => { x with queue := [] })

/-- A notification of a Pass link (R572). -/
def State.linkEvent (s : State) (p ev : Nat) (detail : Bytes) : State := s.event 6 ev p detail none

/-- A link stops in a state, with a reason: what waited in it goes elsewhere, and what it was sending is lost. -/
def State.haltLink (s : State) (p : Nat) (st : LinkState) (reason : Nat) : State :=
  let l := s.plink p
  let s : State := match l.current with
    | some q => s.giveBack q (flitCount q.packet.msg.length)
    | none => s
  let s := s.noteEdges (s.updLink p fun l => { (l.stop st reason) with queue := l.queue })
  let s := s.reroute p
  if l.wasUp then s.linkEvent p 2 (leBytes 1 reason) else s

/-- Enter BACKOFF: a uniformly drawn 0 to 5 ms (R535). -/
def State.backoff (s : State) (p reason : Nat) : State :=
  let (n, s) := s.drawNat 43
  (s.haltLink p .backoff reason).updLink p fun l => { l with until_ := s.now + n % 5000001 }

/-- Training starts on an enabled link (R84, R567): INCARNATION is drawn. -/
def State.startLink (s : State) (p : Nat) (encrypt identity : Bool) : State :=
  let (n, s) := s.drawNat 44
  (s.updLink p fun l => { l with encrypt, identity, incarnation := n % 2 ^ 32, partner := none }).backoff p 0

/-- PASS_LINK_ENABLE takes effect. -/
def State.enableLink (s : State) (pay : Bytes) : State := s.startLink (u8 pay 0) (bit (u8 pay 1) 0) (bit (u8 pay 1) 1)

/-- A link becomes DISABLED or RETIRED: what is unacknowledged is lost and the keys go (R550, R558). A shutdown in
progress ends with it: the disables are answered, then the held enable is checked and runs (R68). -/
def State.stopLink (s : State) (p : Nat) (st : LinkState) : State :=
  let l := s.plink p
  let s := (s.haltLink p st 1).updLink p fun l => { l with txKeys := [], rxKeys := [], txPhase := 0, shut := {}, notice := false }
  let s := l.shut.dones.foldl (fun s d => s.done d .ok 0 (leBytes 4 l.unacked.length)) s
  match l.shut.held with
  | some h => if st == .retired then s.done h.1 .faulted 0 [] else (s.enableLink h.2).done h.1 .ok 0 (leBytes 1 p)
  | none => s

/-- A link goes DOWN and stays ENABLED, or DISABLED where it is shutting down; a failure of its own is an error of the
port (Table 14.7). -/
def State.linkDown (s : State) (p reason : Nat) : State :=
  let l := s.plink p
  let s := if l.st == .shuttingDown then s.stopLink p .disabled else s.backoff p reason
  if reason = 8 then s
  else (s.error { source := 6, event := 0xA, cls := 6, unit := p, scope := if reason = 4 || reason = 9 then 1 else 0
                  index := reason, syndrome := l.unacked.length } [{ cls := 6, idx := p }]).flushOutbox

end Sys2Proof.Machine
end

