-- ==== Sys2Proof/Machine/Links.lean ====
section
/-! DEFINITION. Pass links: their messages, training, alignment, LINK_INIT and ECHO (14: R535-R538, R550, R555-R559,
R567-R572). -/
namespace Sys2Proof.Machine
open Sys2Proof

/-! ## UP -/

/-- D exceeds the reach, or a key is missing (R536, R550). -/
def PassLink.hold (l : PassLink) : Option Nat :=
  if 100 < l.delay then some 7
  else if l.encrypt && (look l.txKeys 0).isNone then some 10
  else none

/-- A link in INIT enters UP once its conditions hold (Table 14.5, step 5). -/
def State.tryUp (s : State) (p : Nat) : State :=
  let l := s.plink p
  if !(l.st == .init && l.greeted && 8 ≤ l.trips.length && s.servesPeers) then s else
  match l.hold with
  | some r => s.updLink p fun l => { l with reason := r }
  | none =>
    let again := l.again
    let s := s.noteEdges (s.updLink p fun l => { l with
      st := .up, reason := 0, again := false, failed := 0, lastEcho := s.now, genRuns := 16
      replaying := l.unacked, replayAt := s.now, timerRuns := 0 })
    if again then s else s.linkEvent p 1 []

/-! ## Training (Table 14.5) -/

def laneSetting (p : Nat) : Nat := 0x10 + p

/-- The map training starts from (R537). -/
def State.laneStart (s : State) (p : Nat) (identity : Bool) : W32 :=
  match (if identity then none else s.otpValue (laneSetting p)) with
  | some b => BitVec.ofNat 32 (u32 b 0)
  | none => laneMapId

def execPassBackoffExpire (port : Nat) (s : State) : Out :=
  .next (
    let l := s.plink port
    if l.st == .backoff && s.servesPeers then
      let s := s.advanceTo l.until_
      s.updLink port fun l => { l with st := .train, since := s.now, map := s.laneStart port l.identity }
    else s)

/-- Six lanes lock; `failed` are the physical lanes that do not. -/
def execPassTrainLock (port : Nat) (failed : List Nat) (s : State) : Out :=
  .next (
    let l := s.plink port
    if !(l.st == .train || l.st == .retrain) || 1 < failed.length then s else
    let m := failed.foldl (fun m x => if laneOf m 6 = x then m else spareLane m x) l.map
    let s := s.updLink port fun l => { l with st := .align, map := m }
    if m = l.map then s else s.linkEvent port 5 (leBytes 4 m.toNat))

/-- RETRAIN: steps 2 to 4 again, with SEQ, replay and credit state kept (R541). A link that shuts down does not train
again: its 100 µs run out. -/
def State.retrain (s : State) (p : Nat) : State :=
  if (s.plink p).st == .shuttingDown then s else
  s.noteEdges (s.updLink p fun l => { l with
    st := .retrain, again := true, greeted := false, echoes := [], trips := [], since := s.now, partly := [], control := []
    replaying := []
    counts := { l.counts with retrains := l.counts.retrains + 1 } })

/-- 100 ms without a lock: back to BACKOFF; the third failed retrain in a row takes the link down. -/
def execPassTrainTimeout (port : Nat) (s : State) : Out :=
  .next (
    let l := s.plink port
    if l.st == .train then (s.advanceTo (l.since + 100000000)).backoff port 2
    else if l.st == .retrain then
      let s := s.advanceTo (l.since + 100000000)
      if 3 ≤ l.failed + 1 then s.linkDown port 4
      else s.updLink port fun l => { l with since := s.now, failed := l.failed + 1 }
    else s)

def State.linkInit (s : State) (p : Nat) : Bytes :=
  leBytes 1 s.dev.nodeId ++ leBytes 1 p ++ leBytes 1 s.rootHops ++ zeros 1 ++ leBytes 4 (s.plink p).incarnation ++
    leBytes 4 s.fabric.schedGen ++ leBytes 4 (b2n (s.plink p).encrypt + 2 * b2n (s.stepState == 2)) ++ zeros 8

/-- The marker is confirmed: INIT, or UP again for a link that lost it (R538). `candidates` were abandoned. -/
def execPassAlignLock (port candidates : Nat) (s : State) : Out :=
  .next (
    let l := s.plink port
    if l.st != .align then s else
    let s := s.updLink port fun l => { l with counts := { l.counts with falseCandidates := l.counts.falseCandidates + candidates } }
    if l.greeted then s.noteEdges (s.updLink port fun l => { l with st := .up })
    else
      let echoes : List Control := (List.range 8).map fun i => { kind := 0x41, msg := leBytes 4 i ++ zeros 4 }
      let init : Control := { kind := 0x40, msg := s.linkInit port }
      s.updLink port fun l => { l with
        st := .init, control := init :: echoes, echoes := [], trips := [] })

/-- Four frames running without the marker (R538). -/
def execPassMarkerLoss (port : Nat) (s : State) : Out :=
  .next (if (s.plink port).st == .up then
    s.noteEdges (s.updLink port fun l => { l with st := .align, since := s.now }) else s)

def execPassAlignTimeout (port : Nat) (s : State) : Out :=
  .next (
    let l := s.plink port
    if l.st == .align && l.greeted then (s.advanceTo (l.since + 1000000)).retrain port else s)

/-! ## LINK_INIT and ECHO (R536) -/

def State.linkInitReceive (s : State) (p : Nat) (msg : Bytes) : State :=
  let l := s.plink p
  if l.st != .init then s
  else if u8 msg 0 = s.dev.nodeId then
    if l.reason = 6 then s else (s.updLink p fun l => { l with reason := 6 }).linkEvent p 7 []
  else
    let same := (l.partner.map fun (q : Partner) => q.incarnation == u32 msg 4).getD false
    let q : Partner := { node := u8 msg 0, port := u8 msg 1, incarnation := u32 msg 4, rootHops := u8 msg 2, schedGen := u32 msg 8 }
    (s.updLink p fun l =>
      let l := if l.again && same then l else l.fresh
      { l with partner := some q, greeted := true, reason := if l.reason = 6 then 0 else l.reason }).tryUp p

def execPassLinkInitReceive (port : Nat) (msg : Bytes) (s : State) : Out := .next (s.linkInitReceive port msg)

/-- An ECHO is answered; TURN_NS is formed when the answer leaves. -/
def State.echoReceive (s : State) (p : Nat) (msg : Bytes) : State :=
  if (s.plink p).sends then
    s.updLink p fun l => { l with control := l.control ++ [{ kind := 0x42, msg := slice msg 0 4, arrived := some s.now }] }
  else s

def execPassEchoReceive (port : Nat) (msg : Bytes) (time : Nat) (s : State) : Out :=
  .next ((s.advanceTo time).echoReceive port msg)

def insertNat (x : Nat) : List Nat → List Nat
  | [] => [x]
  | y :: l => if x ≤ y then x :: y :: l else y :: insertNat x l

/-- Median of eight: the mean of the two in the middle. -/
def median8 (l : List Nat) : Nat :=
  let l := l.foldl (fun m x => insertNat x m) []
  (l.getD 3 0 + l.getD 4 0) / 2

def State.echoAnswer (s : State) (p : Nat) (msg : Bytes) : State :=
  let l := s.plink p
  let k := u32 msg 0
  match look l.echoes k with
  | none => s
  | some sent =>
    let half := (s.now - sent - u32 msg 4) / 2
    let s := s.updLink p fun l => { l with echoes := del l.echoes k }
    if l.st == .up then s.updLink p fun l => { l with delay := half }
    else if l.st == .init && l.trips.length < 8 then
      (s.updLink p fun l =>
        let t := l.trips ++ [half]
        { l with trips := t, delay := if t.length = 8 then median8 t else l.delay }).tryUp p
    else s

def execPassEchoAnsReceive (port : Nat) (msg : Bytes) (time : Nat) (s : State) : Out :=
  .next ((s.advanceTo time).echoAnswer port msg)

def execPassEchoTimer (port : Nat) (s : State) : Out :=
  .next (
    let l := s.plink port
    if l.st == .up then
      let s := s.advanceTo (l.lastEcho + 1000000)
      s.updLink port fun l => { l with
        lastEcho := s.now, control := l.control ++ [{ kind := 0x41, msg := leBytes 4 (s.now % 2 ^ 32) ++ zeros 4 }] }
    else s)

/-! ## PASS_LINK_ENABLE and PASS_LINK_DISABLE (R67, R558, R567, R568) -/

def linkAbsent (r : Req) (s : State) : Bool := u8 r.pay 0 < 8 && !s.hasPass (u8 r.pay 0)
def linkField (r : Req) (_ : State) : Option Nat := firstBad [(7 < u8 r.pay 0, 0)]

def passLinkEnable : Msg where
  op := 0x0601
  mark := .dm
  cls := .o
  len := lenIs 4
  absent := linkAbsent
  field := linkField
  run := fun r s =>
    let p := u8 r.pay 0
    let l := s.plink p
    match l.st with
    | .retired => Res.fail s .faulted
    | .disabled => Res.okay (s.enableLink r.pay)
    | .shuttingDown =>
      if l.shut.held.isSome then Res.fail s .busy
      else Res.pend (s.updLink p fun l => { l with shut := { l.shut with held := some (r.deferred, r.pay) } })
    | _ => if l.encrypt == bit (u8 r.pay 1) 0 && l.identity == bit (u8 r.pay 1) 1 then Res.okay s else Res.fail s .conflict

def execPassLinkEnable (via : Via) (s : State) : Out := serve passLinkEnable via s

/-- The shutdown ends, after DOWN_NOTICE unless it is forced (R558). -/
def State.endLink (s : State) (p : Nat) (force : Bool) : State := (if force then s else s.downNotice p).stopLink p .disabled

def passLinkDisable : Msg where
  op := 0x0602
  mark := .dm
  cls := .d
  len := lenIs 4
  absent := linkAbsent
  field := linkField
  run := fun r s =>
    let p := u8 r.pay 0
    let force := bit (u8 r.pay 1) 0
    let l := s.plink p
    match l.st with
    | .disabled | .retired => Res.okay s
    | .shuttingDown =>
      { s := s.updLink p fun l => { l with shut := { dones := l.shut.dones ++ [r.deferred], held := none } }
        st := .pending
        after := fun s =>
          let s := match l.shut.held with
            | some h => s.done h.1 .conflict 0 []
            | none => s
          if force then s.endLink p true else s }
    | _ =>
      let s := s.noteEdges (s.updLink p fun l => { l with
        st := .shuttingDown, since := s.now, notice := l.wasUp, shut := { dones := [r.deferred], held := none } })
      { s := s.reroute p, st := .pending, after := fun s => if force then s.endLink p true else s }

def execPassLinkDisable (via : Via) (s : State) : Out := serve passLinkDisable via s

/-- The replay buffer is empty, or 100 µs have passed. -/
def execPassDisableDrained (port : Nat) (s : State) : Out :=
  .next (
    let l := s.plink port
    if l.st != .shuttingDown then s
    else (if l.unacked.isEmpty then s else s.advanceTo (l.since + 100000)).endLink port false)

/-! ## PASS_LINK_QUERY (R569) -/

def LinkState.code : LinkState → Nat
  | .disabled => 0 | .backoff => 1 | .train => 2 | .align => 3 | .init => 4 | .up => 5 | .retrain => 6
  | .shuttingDown => 7 | .retired => 8

def PassLink.replayNs (l : PassLink) : Nat := 2 * l.delay + 128

def State.linkBytes (s : State) (p : Nat) : Bytes :=
  let l := s.plink p
  let c := l.counts
  let par := s.parent = some p
  leBytes 1 (if l.again then 6 else l.st.code) ++
  leBytes 1 (b2n l.encrypt + 2 * b2n (!s.slotted p) + 4 * b2n par + 8 * b2n l.shut.held.isSome + 16 * b2n (l.map != laneMapId)) ++
  (match l.partner with
    | some q => if l.greeted then leBytes 1 q.node ++ leBytes 1 q.port else leBytes 2 0xFFFF
    | none => leBytes 2 0xFFFF) ++
  leBytes 4 l.map.toNat ++ leBytes 4 l.delay ++ leInt 4 (if par then s.fabric.offset else 0) ++ leBytes 4 l.replayNs ++
  leBytes 1 ((l.partner.map (·.rootHops)).getD 0xFF) ++ leBytes 1 l.reason ++ zeros 2 ++
  leBytes 8 c.tx ++ leBytes 8 c.rx ++ leBytes 8 c.through ++ leBytes 8 c.fecCorrected ++ leBytes 8 c.slip ++
  leBytes 4 c.fecFailed ++ leBytes 4 c.crcDrops ++ leBytes 4 c.replays ++ leBytes 4 c.duplicates ++ leBytes 4 c.discarded ++
  leBytes 4 c.falseCandidates ++ leBytes 4 c.retrains ++ leBytes 4 c.authFails

def State.fabricBytes (s : State) : Bytes :=
  leBytes 8 (s.fabricPs / 1000) ++ leBytes 8 s.round ++ leBytes 4 s.fabric.schedGen ++ leBytes 4 s.fabric.routeGen ++
  leBytes 1 s.stepState ++ leBytes 1 (s.parent.getD 0xFF) ++ leBytes 1 s.rootHops ++ zeros 1 ++ leInt 4 s.fabric.offset ++ zeros 64

def passLinkQuery : Msg where
  op := 0x0603
  mark := .both
  cls := .q
  len := lenIs 4
  absent := linkAbsent
  field := fun r _ => firstBad [(7 < u8 r.pay 0 && u8 r.pay 0 ≠ 0xFF, 0)]
  run := fun r s => Res.okay s (if u8 r.pay 0 = 0xFF then s.fabricBytes else s.linkBytes (u8 r.pay 0))

def execPassLinkQuery (via : Via) (s : State) : Out := serve passLinkQuery via s

/-! ## Schedules and routes (R555, R556, R570) -/

/-- EFFECTIVE_ROUND: a schedule boundary at least 2,048 rounds ahead. -/
def State.effectiveBad (s : State) (r : Nat) : Bool := r % 1024 ≠ 0 || r < s.round + 2048

/-- Valleys with a profile to which a schedule gives nothing. -/
def State.unscheduled (s : State) (w : Bytes) : Bool :=
  (List.range 8).any fun v => (s.profile v).isSome && !(w.any fun b => b.toNat == v || b.toNat == 0xFF)

def passScheduleSet : Msg where
  op := 0x0604
  mark := .dm
  cls := .o
  len := lenIs 24
  field := fun r s => firstBad ([(s.effectiveBad (u64 r.pay 8), 8)] ++
    (List.range 8).map fun i => (7 < u8 r.pay (16 + i) && u8 r.pay (16 + i) ≠ 0xFF, 16 + i))
  run := fun r s =>
    if s.fabric.sched.isSome then Res.fail s .busy
    else if u32 r.pay 0 ≤ s.fabric.schedGen then Res.fail s .stale
    else if s.unscheduled (slice r.pay 16 8) then Res.fail s .conflict
    else Res.pend { s with fabric := { s.fabric with
      sched := some { gen := u32 r.pay 0, round := u64 r.pay 8, bytes := slice r.pay 16 8, done := r.deferred } } }

def execPassScheduleSet (via : Via) (s : State) : Out := serve passScheduleSet via s

/-- Ports a route table names. -/
def routePorts (r : Bytes) : List Nat := (r.flatMap fun b => [b.toNat % 16, b.toNat / 16]).filter (· ≠ 15)

/-- A table names a port that the part has not; the entry for the node's own ID is ignored (R533). -/
def State.routesAbsent (s : State) (node : Nat) (r : Bytes) : Bool :=
  (routePorts (r.take node ++ r.drop (node + 1))).any fun p => !s.hasPass p

def passRouteSet : Msg where
  op := 0x0605
  mark := .dm
  cls := .o
  len := lenIs 272
  absent := fun r s => s.routesAbsent s.dev.nodeId (slice r.pay 16 256)
  field := fun r s => firstBad [(s.effectiveBad (u64 r.pay 4), 4), (u8 r.pay 12 = 0, 12)]
  run := fun r s =>
    if s.fabric.routing.isSome then Res.fail s .busy
    else if u32 r.pay 0 ≤ s.fabric.routeGen then Res.fail s .stale
    else Res.pend { s with fabric := { s.fabric with
      routing := some { gen := u32 r.pay 0, round := u64 r.pay 4, bytes := slice r.pay 12 260, done := r.deferred } } }

def execPassRouteSet (via : Via) (s : State) : Out := serve passRouteSet via s

/-! ## Keys (R550, R559, R571, R723) -/

/-- The key of the phase that sends, while the link may use it. -/
def PassLink.inUse (l : PassLink) (phase : Nat) : Bool := l.encrypt && phase == l.txPhase && (look l.txKeys phase).isSome

def passKeySet : Msg where
  op := 0x0606
  mark := .dm
  cls := .o
  len := lenIs 48
  absent := linkAbsent
  denied := fun r _ => r.via.xport == .twoWire
  field := fun r _ => firstBad [(7 < u8 r.pay 0, 0), (1 < u8 r.pay 1, 1)]
  run := fun r s =>
    let p := u8 r.pay 0
    let ph := u8 r.pay 1
    let clear := bit (u8 r.pay 2) 1
    let switch := bit (u8 r.pay 2) 0
    let l := s.plink p
    if l.inUse ph || (clear && switch) then Res.fail s .conflict
    else
      let k : PassKey := { salt := slice r.pay 4 4, key := slice r.pay 8 32 }
      let s := s.updLink p fun l => { l with
        txKeys := if clear then del l.txKeys ph else put l.txKeys ph k
        rxKeys := if clear then del l.rxKeys ph else put l.rxKeys ph k
        txPhase := if switch then ph else l.txPhase }
      { s, after := fun s => s.tryUp p }

def execPassKeySet (via : Via) (s : State) : Out := serve passKeySet via s

end Sys2Proof.Machine
end

