-- ==== Sys2Proof/Machine/Frames.lean ====
section
/-! DEFINITION. Pass frames sent and received, replay, the slot schedule and the fabric's rounds (14: R520-R531,
R539-R545, R549, R553-R556). -/
namespace Sys2Proof.Machine
open Sys2Proof

/-! ## Encryption (R549) -/

/-- Frame bytes the tag covers: the additional data, then the flits. -/
def gcmData (f : Bytes) : Bytes := slice f 8 44 ++ f.drop 64

/-- The count nearest to the expected one whose low 32 bits are FRAME_CNT. -/
def nearestCount (expected low : Nat) : Nat :=
  let c := expected / 2 ^ 32 * 2 ^ 32 + low
  if c + 2 ^ 31 < expected then c + 2 ^ 32
  else if expected + 2 ^ 31 < c && 2 ^ 32 ≤ c then c - 2 ^ 32 else c

/-- Flits of a frame in the clear with the receiver's keys, or none where authentication fails. A link without
encryption reads them as they are; an encrypted one takes a clear frame only before it is UP. -/
def PassLink.decrypt (l : PassLink) (f : Bytes) : Option (PassLink × Bytes) :=
  if !l.encrypt then some (l, f)
  else if !bit (u16 f 16) 4 then (if l.st == .up then none else some (l, f))
  else
    let ph := b2n (bit (u16 f 16) 5)
    match look l.rxKeys ph with
    | none => none
    | some k =>
      let n := nearestCount k.count (u32 f 48)
      if Config.gcmOk k.key k.salt n (gcmData f) (slice f 52 8) then
        let plain := (List.range 4096).map (Config.gcmPlainByte k.key k.salt n (gcmData f))
        some ({ l with rxKeys := put l.rxKeys ph { k with count := n + 1 } }, f.take 64 ++ plain)
      else none

/-- Encrypt a frame: tag bytes follow the 4,096 of the cipher. -/
def PassLink.seal (l : PassLink) (hdr flits : Bytes) : Bytes × Bytes :=
  match (if l.encrypt then look l.txKeys l.txPhase else none) with
  | none => (flits, zeros 8)
  | some k =>
    let d := slice hdr 8 44 ++ flits
    ((List.range 4096).map (Config.gcmByte k.key k.salt k.count d),
     (List.range 8).map fun i => Config.gcmByte k.key k.salt k.count d (4096 + i))

/-! ## Receiving (R522, R540) -/

/-- SEQ a is at or before b, in serial arithmetic (R539). -/
def seqLe (a b : W16) : Bool := (b - a).toNat < 32768 || (a - b).toNat = 32768

/-- The oldest unacknowledged SEQ is txSeq less their number: drop those ACK_SEQ covers. -/
def PassLink.acked (l : PassLink) (ack : W16) (time : Nat) : PassLink :=
  let keep := l.unacked.filter fun f => !seqLe (flitSeq f) ack
  if keep.length = l.unacked.length then l
  else { l with unacked := keep, replaying := l.replaying.filter (fun f => !seqLe (flitSeq f) ack), timerRuns := 0, replayAt := time }

/-- Replay everything unacknowledged. -/
def PassLink.replay (l : PassLink) (time : Nat) : PassLink :=
  { l with replaying := l.unacked, replayAt := time, counts := { l.counts with replays := l.counts.replays + 1 } }

/-- A valid header (R522): acknowledgement, NAK, credits, and the partner's state. -/
def PassLink.header (l : PassLink) (f : Bytes) (time : Nat) : PassLink :=
  let fl := u16 f 16
  let l := if bit fl 0 then l.acked (BitVec.ofNat 16 (u16 f 14)) time else l
  let mayReplay := (l.lastNak.map fun t => decide (t + l.replayNs ≤ time)).getD true
  let l := if bit fl 1 && mayReplay && !l.unacked.isEmpty then { (l.replay time) with lastNak := some time } else l
  let cr := leNat (slice f 22 26)
  { l with
    credits := (List.range 17).map fun c => (c, cr / 4096 ^ c % 4096)
    partner := l.partner.map fun (q : Partner) => { q with
      rootHops := u8 f 20, schedGen := u8 f 21, inStep := bit fl 3, unslotted := bit fl 2 } }

/-- A NAK is due unless one was sent and neither a flit accepted nor REPLAY_NS passed since. -/
def PassLink.wantNak (l : PassLink) (time : Nat) : PassLink :=
  if (l.nakSent.map fun t => decide (t + l.replayNs ≤ time)).getD true then { l with nakDue := true } else l

def PassLink.badFlit (l : PassLink) (time : Nat) : PassLink :=
  ({ l with counts := { l.counts with crcDrops := l.counts.crcDrops + 1 } }).wantNak time

/-- What an accepted flit completes. -/
inductive Landed where
  | nothing
  | whole (p : Packet) (chan : Nat)
  /-- A flit without credit, or a broken KIND sequence (Table 14.7). -/
  | broken

/-- The packet of its flits. -/
def packetOf (fs : List Bytes) : Packet :=
  let h := fs.headD []
  { dest := flitDest h, src := flitSrc h, tag := flitTag h, kind := u8 h 8, poison := fs.any flitPoison
    hops := flitHops h, cls := flitClass h, msg := messageOf fs }

/-- Take an accepted flit into its channel. -/
def PassLink.land (l : PassLink) (f : Bytes) : PassLink × Landed :=
  let c := channel (flitTag f) (flitClass f)
  let l := { l with
    rxSeq := l.rxSeq + 1, accepted := true, nakSent := none
    received := upd l.received c 0 (· + 1), counts := { l.counts with rx := l.counts.rx + 1 } }
  let part := lookD l.partly c []
  let first := flitKind f = 1 || flitKind f = 4
  if lookD l.given c 0 < lookD l.received c 0 || first ≠ part.isEmpty || 4 < flitKind f then (l, .broken)
  else
    let all := part ++ [f]
    if flitKind f = 3 || flitKind f = 4 then
      if all.length = flitCount (u32 (all.headD []) 12) then ({ l with partly := del l.partly c }, .whole (packetOf all) c)
      else (l, .broken)
    else ({ l with partly := put l.partly c all }, .nothing)

/-- A CONTROL message reaches this end of the link. -/
def State.controlMessage (s : State) (port : Nat) (p : Packet) : State :=
  if p.kind = 0x40 then s.linkInitReceive port p.msg
  else if p.kind = 0x41 then s.echoReceive port p.msg
  else if p.kind = 0x42 then s.echoAnswer port p.msg
  else s.dropPacket

/-- A packet has arrived whole. -/
def State.arrive (s : State) (port chan : Nat) (p : Packet) : State :=
  let n := flitCount p.msg.length
  if p.cls = 2 then (s.updLink port fun l => { l with given := upd l.given chan 0 (· + n) }).controlMessage port p
  else if 1 < p.cls then (s.updLink port fun l => { l with given := upd l.given chan 0 (· + n) }).dropPacket
  else s.routeQueued { chan, input := some port, packet := p, since := s.now }

/-- POISON set in a flit's header. -/
def withPoison (f : Bytes) : Bytes := f.take 6 ++ [BitVec.ofNat 8 (u8 f 6) ||| 1] ++ f.drop 7

/-- One flit of a frame; `lost`: its copy in the receive buffer is in error. CONTROL flits carry no SEQ before the link is
UP. -/
def State.flit (s : State) (port : Nat) (f : Bytes) (lost : Bool) : State :=
  let l := s.plink port
  if !flitOk f then s.updLink port fun l => l.badFlit s.now
  else if flitKind f = 0 then s
  else if l.st == .init && flitClass f = 2 then s.controlMessage port (packetOf [f])
  else if flitSeq f = l.rxSeq then
    match l.land (if lost then withPoison f else f) with
    | (l, .nothing) => s.updLink port fun _ => l
    | (l, .whole p c) => (s.updLink port fun _ => l).arrive port c p
    | (l, .broken) => (s.updLink port fun _ => l).retrain port
  else if (l.rxSeq - flitSeq f).toNat ≤ 32768 then
    s.updLink port fun l => { l with accepted := true, counts := { l.counts with duplicates := l.counts.duplicates + 1 } }
  else s.updLink port fun l => l.wantNak s.now

/-- A link in these states takes frames. -/
def PassLink.receives (l : PassLink) : Bool :=
  match l.st with
  | .init | .up | .shuttingDown => true
  | _ => false

/-- A frame from the parent disciplines fabric time (R529). -/
def State.sampleTime (s : State) (port : Nat) (f : Bytes) : State :=
  if s.parent = some port then
    let here := s.fabricPs / 1000 % 2 ^ 48
    let d : Int := signed 48 ((here + 2 ^ 49 - u48 f 8 - (s.plink port).delay) % 2 ^ 48)
    { s with fabric := { s.fabric with sum := s.fabric.sum + 1000 * d, samples := s.fabric.samples + 1 } }
  else s
where u48 (f : Bytes) (o : Nat) : Nat := leNat (slice f o 6)

/-- A lane that locks but errs: RETRAIN with it spared, or DOWN where the spare is in use, as SPARE_IN_USE has it (Table
14.8). -/
def State.laneErrs (s : State) (port lane : Nat) : State :=
  let l := s.plink port
  if laneOf l.map 6 = lane then s
  else if l.map != laneMapId then s.linkDown port 3
  else
    let m := spareLane l.map lane
    ((s.updLink port fun l => { l with map := m }).retrain port).linkEvent port 5 (leBytes 4 m.toNat)

/-- Authentication failed: 16 within 1 ms take the link down. -/
def State.authFailed (s : State) (port : Nat) : State :=
  let recent := (s.plink port).authAt.filter fun t => s.now < t + 1000000
  let s := s.updLink port fun l => { (l.wantNak s.now) with
    authAt := recent ++ [s.now]
    counts := { l.counts with authFails := l.counts.authFails + 1, crcDrops := l.counts.crcDrops + 64, discarded := l.counts.discarded + 1 } }
  if 16 ≤ recent.length + 1 then s.linkDown port 5 else s

/-- Flit k lies in codewords that failed. -/
def flitFailed (failed : List Nat) (k : Nat) : Bool := failed.any fun w => (64 + 64 * k) / 260 ≤ w && w ≤ (127 + 64 * k) / 260

def headerValid (f : Bytes) (failed : List Nat) : Bool :=
  0 ∉ failed && f.take 8 = marker && (crc32c (slice f 8 52)).toNat = u32 f 60

/-- The flits of a frame, in order. -/
def State.flits (s : State) (port : Nat) (f : Bytes) (failed : List Nat) (lost : Option Nat) : State :=
  (List.range 64).foldl (fun s k =>
    if !(s.plink port).receives then s
    else if flitFailed failed k then s.updLink port fun l => l.badFlit s.now
    else s.flit port (slice f (64 + 64 * k) 64) (lost == some k)) s

/-- A frame as decoded and descrambled, at a device time: codewords corrected and failed, a physical lane that has had
more than 1,024 corrections in 1 ms, and a flit whose copy in the receive buffer has an uncorrectable error (Table 14.7). -/
def execPassFrameReceive (port time : Nat) (data : Bytes) (corrected : Nat) (failed : List Nat)
    (lane : Option Nat × Option Nat) (s : State) : Out :=
  .next (
    let s := s.advanceTo time
    if !(s.plink port).receives then s else
    let taken := (s.plink port).counts.rx
    let f := fit 4160 data
    let s := s.updLink port fun l => { l with counts := { l.counts with
      fecCorrected := l.counts.fecCorrected + corrected, fecFailed := l.counts.fecFailed + failed.length } }
    let s : State := match (s.plink port).decrypt f with
      | none => s.authFailed port
      | some (l, f) =>
        let s := s.updLink port fun _ => l
        if !headerValid f failed then
          (s.updLink port fun l => { l with counts := { l.counts with discarded := l.counts.discarded + 1 } }).flits port f failed lane.2
        else if bit (u16 f 16) 6 then
          if (s.plink port).st == .shuttingDown then s else s.linkDown port 8
        else
          let s := s.updLink port fun l => l.header f s.now
          (s.sampleTime port f).flits port f failed lane.2
    let s : State := match lane.2 with
      | some k => s.error { source := 6, event := 2, cls := 6, unit := port, scope := 1, index := k, cmpl := 0x17 } [{ cls := 6, idx := port }]
      | none => s
    let s : State := match lane.1 with
      | some x => if (s.plink port).st == .up then s.laneErrs port x else s
      | none => s
    (s.count (156 + port) ((s.plink port).counts.rx - taken)).flushOutbox)

/-! ## Sending (R543-R545) -/

/-- Tag that owns the open part at a fabric time in ps: none in a guard, 0xFF for FREE. -/
def Fabric.owner (f : Fabric) (ps : Nat) : Option Nat :=
  let ns := ps / 1000
  if ns % 64 < 8 then none else some (u8 f.windows (ns / 64 % 8))

/-- Flits of credit a packet must have before it starts (R527). -/
def State.creditNeed (s : State) (port : Nat) (q : Queued) : Nat :=
  let n := flitCount q.packet.msg.length
  match q.input with
  | some i => if s.dimY i == s.dimY port then n else 2 * n
  | none => 2 * n

/-- Input of a packet as a turn number: 0 this node, then the ports. -/
def Queued.turn (q : Queued) : Nat := match q.input with | some i => i + 1 | none => 0

/-- First packet of each input in one channel of a port. -/
def PassLink.heads (l : PassLink) (c : Nat) : List Queued :=
  (List.range 9).filterMap fun t => l.queue.find? fun q => q.chan = c && q.turn = t

/-- The packet of a channel whose turn it is (R544). -/
def PassLink.turnOf (l : PassLink) (c : Nat) : Option Queued :=
  let last := lookD l.turnIn c 8
  let h := l.heads c
  (h.find? fun q => last < q.turn) <|> h.head?

/-- The next packet that may start in a flit at this fabric time. -/
def State.nextPacket (s : State) (port ps : Nat) : Option Queued :=
  let l := s.plink port
  let own := s.fabric.owner ps
  let fits := fun (q : Queued) =>
    s.creditNeed port q ≤ (lookD l.credits q.chan 0 + 4096 - lookD l.sent q.chan 0 % 4096) % 4096 &&
    (!s.slotted port || own == some 0xFF || own == some (q.packet.tag % 8))
  ((List.range 16).filterMap fun i => (l.turnOf ((l.turnChan + 1 + i) % 16)).filter fits).head?

/-- Count heads held for their window, once each (R545). -/
def State.noteSlips (s : State) (port ps : Nat) : State :=
  if !s.slotted port then s else
  let own := s.fabric.owner ps
  if own.isNone || own == some 0xFF then s else
  let l := s.plink port
  let late := fun (q : Queued) => !q.slipped && own != some (q.packet.tag % 8) && (l.turnOf q.chan == some q)
  let n := (l.queue.filter late).length
  s.updLink port fun l => { l with
    queue := l.queue.map fun q => if late q then { q with slipped := true } else q
    counts := { l.counts with slip := l.counts.slip + n } }

/-- Send one new data flit: it gets the next SEQ and enters the replay buffer. -/
def PassLink.newFlit (l : PassLink) (body : Bytes) (time : Nat) : PassLink × Bytes :=
  let f := sealFlit l.txSeq.toNat body
  ({ l with
    txSeq := l.txSeq + 1, unacked := l.unacked ++ [f], replayAt := if l.unacked.isEmpty then time else l.replayAt
    counts := { l.counts with tx := l.counts.tx + 1 } }, f)

/-- The next flit of the packet being sent. -/
def State.dataFlit (s : State) (port : Nat) (q : Queued) : State × Bytes :=
  let p := q.packet
  let n := flitCount p.msg.length
  let (l, f) := (s.plink port).newFlit (flitBody p.dest p.src (p.tag % 8) p.cls (p.hops + 1) p.kind p.poison p.msg q.sent) s.now
  let q := { q with sent := q.sent + 1 }
  let l := { l with
    sent := upd l.sent q.chan 0 (· + 1), current := if q.sent < n then some q else none
    counts := { l.counts with through := l.counts.through + b2n q.input.isSome } }
  let s := s.updLink port fun _ => l
  (if q.sent < n then s else s.giveBack q n, f)

/-- A CONTROL flit; before UP it carries no SEQ. -/
def State.controlFlit (s : State) (port : Nat) (c : Control) : State × Bytes :=
  let l := s.plink port
  let msg := match c.arrived with
    | some t => c.msg ++ leBytes 4 (s.now - t)
    | none => c.msg
  let l := { l with
    control := l.control.tail
    echoes := if c.kind = 0x41 then put l.echoes (u32 c.msg 0) s.now else l.echoes }
  let dest := (l.partner.map (·.node)).getD 0xFF
  let body := flitBody dest s.dev.nodeId 0 2 1 c.kind false msg 0
  if l.st == .init then (s.updLink port fun _ => l, sealFlit 0 body)
  else
    let (l, f) := l.newFlit body s.now
    (s.updLink port fun _ => { l with sent := upd l.sent 16 0 (· + 1) }, f)

/-- CONTROL flits have credit. -/
def PassLink.controlCredit (l : PassLink) : Bool :=
  0 < (lookD l.credits 16 0 + 4096 - lookD l.sent 16 0 % 4096) % 4096

/-- The flit that leaves at this fabric time (R543); in INIT only LINK_INIT and ECHOs do. -/
def State.chooseFlit (s : State) (port ps : Nat) : State × Bytes :=
  let l := s.plink port
  if l.st == .init then (match l.control with
    | c :: _ => s.controlFlit port c
    | [] => (s, nullFlit)) else
  match l.replaying, l.control, l.current with
  | f :: rest, _, _ => (s.updLink port fun l => { l with replaying := rest }, f)
  | [], c, q =>
    if 1024 ≤ l.unacked.length then (s, nullFlit) else
    match (if l.controlCredit then c.head? else none), q with
    | some c, _ => s.controlFlit port c
    | none, some q => s.dataFlit port q
    | none, none =>
      if l.st != .up then (s, nullFlit) else
      let s := s.noteSlips port ps
      match s.nextPacket port ps with
      | none => (s, nullFlit)
      | some q =>
        let s := s.updLink port fun l => { l with
          queue := l.queue.erase q, turnChan := q.chan, turnIn := put l.turnIn q.chan q.turn }
        s.dataFlit port q

/-- The 64 flits of a frame that starts at a fabric time; the header takes the first of 65 equal parts. -/
def State.frameFlits (s : State) (port ps : Nat) : State × Bytes :=
  (List.range 64).foldl (fun (acc : State × Bytes) k =>
    let (s, f) := acc.1.chooseFlit port (ps + 420 * (k + 1))
    (s, acc.2 ++ f)) (s, [])

/-- FLAGS of a header. -/
def State.frameFlags (s : State) (port : Nat) : Nat :=
  let l := s.plink port
  let enc := l.encrypt && (look l.txKeys l.txPhase).isSome
  b2n l.accepted + 2 * b2n l.nakDue + 4 * b2n (!s.slotted port) + 8 * b2n s.inStep + 16 * b2n enc + 32 * (if enc then l.txPhase else 0)

/-- Header bytes 0 to 51. -/
def State.frameHeader (s : State) (port ps : Nat) : Bytes :=
  let l := s.plink port
  let cnt := match (if l.encrypt then look l.txKeys l.txPhase else none) with
    | some k => k.count
    | none => l.frames
  let cr := (List.range 17).foldl (fun n c => n + lookD l.given c 0 % 4096 * 4096 ^ c) 0
  marker ++ leBytes 6 (ps / 1000) ++ leBytes 2 (l.rxSeq - 1).toNat ++ leBytes 2 (s.frameFlags port) ++
    leBytes 1 s.dev.nodeId ++ leBytes 1 port ++ leBytes 1 s.rootHops ++ leBytes 1 s.fabric.schedGen ++ leBytes 26 cr ++ leBytes 4 cnt

/-- Count the frame, and note a NAK that it carries. -/
def PassLink.frameSent (l : PassLink) (time : Nat) : PassLink :=
  { l with
    frames := l.frames + 1, nakDue := false, nakSent := if l.nakDue then some time else l.nakSent
    txKeys := if l.encrypt then (match look l.txKeys l.txPhase with
      | some k => put l.txKeys l.txPhase { k with count := k.count + 1 }
      | none => l.txKeys) else l.txKeys }

def State.transmit (s : State) (port : Nat) : State :=
  let ps := s.fabricPs
  let sent := (s.plink port).counts.tx
  let (s, flits) := if (s.plink port).st == .align then (s, (List.range 64).flatMap fun _ => nullFlit) else s.frameFlits port ps
  let hdr := s.frameHeader port ps
  let (body, tag) := (s.plink port).seal hdr flits
  let h := hdr ++ tag
  let f := h ++ leBytes 4 (crc32c (h.drop 8)).toNat ++ body
  ((s.updLink port fun l => l.frameSent s.now).emit (.frame port f (lineBytes f))).count (156 + port) ((s.plink port).counts.tx - sent)

/-- What the hardware finds in a port as it sends: an uncorrectable error in a replay-buffer flit, or in the routing
state of the node. -/
def execPassFrameTransmit (port time : Nat) (bufferError routingError : Bool) (s : State) : Out :=
  .next (
    let s := (s.advanceTo time).flushOutbox
    if !(s.plink port).sends then s
    else if routingError then s.deviceFault { source := 6, event := 2, cls := 6, unit := port }
    else if bufferError then s.linkDown port 9
    else s.transmit port)

/-! ## The replay timer (R541) -/

def execPassReplayTimer (port : Nat) (s : State) : Out :=
  .next (
    let l := s.plink port
    if !(l.st == .up || l.st == .shuttingDown) || l.unacked.isEmpty then s else
    let s := s.advanceTo (l.replayAt + l.replayNs)
    if 4 ≤ l.timerRuns && l.st == .up then s.retrain port
    else s.updLink port fun l => { (l.replay s.now) with timerRuns := l.timerRuns + 1 })

/-! ## Rounds (R529-R531, R554, R555) -/

/-- Correct the clock by the round's mean offset: by a rate of at most 200 ppm, or by one step. -/
def Fabric.correct (f : Fabric) (inSchedule : Bool) (mean : Int) : Fabric :=
  let c : Int := if !inSchedule && 1000000 < mean.natAbs then mean else max (-102) (min 102 mean)
  { f with ps := ((f.ps : Int) - c).toNat, offset := mean, sum := 0, samples := 0 }

/-- Runs of rounds within and beyond 8 ns; 16 beyond leave the schedule. -/
def Fabric.runs (f : Fabric) : Fabric :=
  if 8000 < f.offset.natAbs then { f with outRun := f.outRun + 1, inRun := 0 } else { f with inRun := f.inRun + 1, outRun := 0 }

/-- Links whose ends still differ 16 rounds after a boundary (R555). -/
def State.ageSchedules (s : State) : State :=
  (List.range 8).foldl (fun s p =>
    let l := s.plink p
    if 16 ≤ l.genRuns then s else
    let s := s.updLink p fun l => { l with genRuns := l.genRuns + 1 }
    let differs := (l.partner.map fun (q : Partner) => q.schedGen % 256 != s.fabric.schedGen % 256).getD false
    if l.genRuns = 15 && l.st == .up && differs then s.linkEvent p 6 [] else s) s

def State.endRound (s : State) : State :=
  if s.isRoot then s
  else match s.parent with
  | none => { s with fabric := { s.fabric with step := 3, inRun := 0, outRun := 0, sum := 0, samples := 0 } }
  | some _ =>
    if s.fabric.samples = 0 then s else
    let mean := s.fabric.sum / s.fabric.samples
    let s := { s with fabric := (s.fabric.correct s.inStep mean).runs }
    if s.fabric.step = 1 && 16 ≤ s.fabric.outRun then
      ({ s with fabric := { s.fabric with step := 2 } }).event 6 3 0xFFFF [] none
    else s

def execPassRoundTick (s : State) : Out :=
  .next (if s.fabric.topology = 0 then s else (s.toRound 1).endRound.ageSchedules)

/-- The waiting schedule takes effect at its round. -/
def State.takeSchedule (s : State) : State :=
  match s.fabric.sched with
  | some c =>
    if c.round ≤ s.round then
      let s := { s with
        fabric := { s.fabric with schedGen := c.gen, windows := c.bytes, sched := none }
        links := s.links.map fun (e : Nat × PassLink) => (e.1, { e.2 with genRuns := 0 }) }
      s.done c.done .ok 0 []
    else s
  | none => s

/-- A node steady for 16 rounds enters the schedule. -/
def State.enterSchedule (s : State) : State :=
  if !s.isRoot && 2 ≤ s.fabric.step && s.parent.isSome && 16 ≤ s.fabric.inRun then
    ({ s with fabric := { s.fabric with step := 1 } }).event 6 4 0xFFFF [] none
  else s

/-- Let device time run to the first schedule boundary that has not been taken; one that other events have passed is
taken at once. -/
def State.toBoundary (s : State) : State :=
  let here := s.round / 1024
  let b := if s.fabric.boundary ≤ here then s.fabric.boundary + 1 else here + 1
  let s := if b ≤ here then s else s.advanceTo (s.now + ceilDiv (b * 1024 * roundPs - s.fabricPs) 1000)
  { s with fabric := { s.fabric with boundary := s.round / 1024 } }

/-- An armed schedule takes effect; a steady node enters the schedule. -/
def execPassScheduleBoundary (s : State) : Out := .next s.toBoundary.takeSchedule.enterSchedule

/-- EFFECTIVE_ROUND comes: packets routed from now on follow the new table. -/
def execPassRouteEffective (s : State) : Out :=
  .next (match s.fabric.routing with
    | none => s
    | some c =>
      let s := s.advanceTo (s.now + ceilDiv (c.round * roundPs - s.fabricPs) 1000)
      let s := { s with fabric := { s.fabric with
        routeGen := c.gen, hopLimit := u8 c.bytes 0, routes := some (c.bytes.drop 4), routing := none } }
      s.done c.done .ok 0 [])

end Sys2Proof.Machine
end

