-- ==== Sys2Proof/Machine/Layout.lean ====
section
/-! DEFINITION. Changing the Basin's layout, flushing it, and the window the host maps (04: R145-R172). -/
namespace Sys2Proof.Machine
open Sys2Proof

/-! ## What keeps a scratch group where it is (R157) -/

def inGroup (g a n : Nat) : Bool := overlaps a n (g * scratchSize) scratchSize

/-- DETAIL of the first thing that lies in the group. -/
def State.groupHeld (s : State) (g : Nat) : Option Nat :=
  let never := fun (_ _ : Nat) => false
  let vs := List.range 8
  if vs.any fun v => s.rowsMeet v (inGroup g) never then some 1
  else if vs.any fun v => s.rowsMeet v never (inGroup g) then some 2
  else if vs.any fun v => (s.claims v).any fun c => c.1 = 2 && inGroup g c.2.1 c.2.2 then some 3
  else if vs.any fun v => (s.claims v).any fun c => c.1 = 0 && inGroup g c.2.1 c.2.2 then some 4
  else if s.core.sessions.any fun x =>
    let n := ((look s.core.tables (tableKey x.set x.table)).map Table.block).getD 64
    x.moves.any fun m => hasBlock m.target && inGroup g (baseOf m.target) n
  then some 5
  else none

/-! ## BSN_GROUP_MODE_SET (R149-R152, R156, R167) -/

def State.setChange (s : State) (g : Nat) (c : Option GroupChange) : State := s.updGroup g fun x => { x with change := c }

/-- Arm a group's change in some valleys. -/
def State.armBasin (s : State) (g : Nat) (vs : List Nat) : State := vs.foldl (fun s v => s.arm v (.basin g) none) s
def State.fireAll (s : State) (vs : List Nat) : State := vs.foldl (fun s v => s.boundaryIfStopped v) s

/-- Valleys holding ways in a group. -/
def Group.holders (g : Group) : List Nat := (g.ways.filter fun w => w.2 ≠ 0).map (·.1)

def bsnGroupModeSet : Msg where
  op := 0x0201
  mark := .dm
  cls := .o
  len := lenIs 4
  field := fun r _ => firstBad [(15 < u8 r.pay 0, 0), (1 < u8 r.pay 1, 1),
    ((u8 r.pay 1 = 1 && 7 < u8 r.pay 2) || (u8 r.pay 1 = 0 && u8 r.pay 2 ≠ 0xFF), 2)]
  run := fun r s =>
    let g := u8 r.pay 0
    let x := s.group g
    let want := u8 r.pay 1 = 1
    let owner := if want then some (u8 r.pay 2) else none
    if x.retired then Res.fail s .faulted
    else if x.change.isSome then Res.fail s .busy
    else if x.scratch = want && x.owner = owner then Res.okay s
    else match (if x.scratch then s.groupHeld g else none) with
    | some d => Res.fail s .conflict d
    | none =>
      let vs := if x.scratch then x.owner.toList else x.holders
      let c : GroupChange := { toScratch := want, owner, waiting := vs, done := r.deferred, old := x.owner }
      let s := (s.setChange g (some c)).armBasin g vs
      { s, st := .pending
        after := fun s =>
          if vs.isEmpty then (s.setChange g (some { c with phase := 1 })).leaveCache g else s.fireAll vs }

def execBsnGroupModeSet (via : Via) (s : State) : Out := serve bsnGroupModeSet via s

/-- Lines of a group. -/
def State.groupLines (s : State) (g : Nat) : List Nat := (s.basin.lines.filter fun l => l.2.group = g).map (·.1)

/-- Dirty lines among some that cannot reach their home (R163). -/
def State.unreachable (s : State) (ls : List Nat) : List Nat :=
  ls.filter fun l => ((look s.basin.lines l).map (·.dirty)).getD false &&
    (if inHost (l * 256) then !s.link.cxlEnabled else !s.populated (l * 256))

/-- Write some lines back and drop them; those that cannot reach a local home leave poison there. -/
def State.emptyLines (s : State) (ls : List Nat) : State :=
  let lost := s.unreachable ls
  ls.foldl (fun s l =>
    if l ∈ lost then
      let s := s.loseLine l
      if inHost (l * 256) then { s with link := { s.link with linesLost := s.link.linesLost + 1 } } else s.poison (l * 256) 256
    else (s.writeBack l).dropLine l) s

/-- Flip every bucket that can flip. -/
def State.flipAll (s : State) : State := (s.basin.moving.map (·.1)).foldl State.flipBucket s

/-- Step 3 of Table 4.4: every line is written back and the buckets flip; a write-back that fails leaves the group, with
its buckets, in CACHE mode (R163). -/
def State.drainGroup (s : State) (g : Nat) (c : GroupChange) : State :=
  let ls := s.groupLines g
  let bad := !(s.unreachable ls).isEmpty
  let s := s.emptyLines ls
  if bad then ((s.keepBuckets g).setChange g none).done c.done .faulted 0 []
  else s.flipAll.updGroup g fun x => { x with ways := [], change := some { c with phase := 2 } }

/-- The write-backs of step 5 of Table 4.5: the buckets' lines leave their old groups and the buckets flip; a write-back
that fails leaves the group in SCRATCH mode with its owner (R163). -/
def State.fillGroup (s : State) (g : Nat) (c : GroupChange) : State :=
  let ls := (s.basin.lines.filter fun l => (look s.basin.moving (lineBucket l.1)) = some g).map (·.1)
  let bad := !(s.unreachable ls).isEmpty
  let s := s.emptyLines ls
  if bad then
    let s : State := { s with basin := { s.basin with moving := s.basin.moving.filter fun e => e.2 ≠ g, bucket := s.basin.bucket.filter fun e => e.2 ≠ g } }
    (s.updGroup g fun x => { x with scratch := true, owner := c.old, ways := [], change := none }).done c.done .faulted 0 []
  else (s.flipAll.setChange g none).done c.done .ok 0 []

/-- Step 3 of Table 4.4, or the write-backs of step 5 of Table 4.5. -/
def execBasinWritebackDone (group : Nat × List Ecc) (s : State) : Out :=
  .next (match (s.group group.1).change with
    | none => s
    | some c =>
      if !c.ways.isEmpty then s
      else if c.toScratch && !(s.group group.1).scratch && c.phase = 1 then (s.eccAll group.2).drainGroup group.1 c
      else if !c.toScratch && c.phase = 2 then (s.eccAll group.2).fillGroup group.1 c
      else s)

/-- A group's range holds zero, with no poison. -/
def State.zeroGroup (s : State) (g : Nat) : State :=
  { s with
    mem := zeroN s.mem (g * scratchSize) scratchSize
    basin := { s.basin with poisonChunks := s.basin.poisonChunks.filter fun c => !(c * 16 / scratchSize = g) } }

/-- The group waits for the boundary of the valley that will own it. -/
def State.awaitOwner (s : State) (g : Nat) (c : GroupChange) : State :=
  match c.owner with
  | some v => ((s.setChange g (some { c with phase := 3, waiting := [v] })).armBasin g [v]).boundaryIfStopped v
  | none => s

/-- Step 4 of Table 4.5: the zeroed group is a CACHE group with every way mask zero, and takes its buckets. -/
def State.openCache (s : State) (g : Nat) (c : GroupChange) : State :=
  (s.updGroup g fun x => { x with
    scratch := false, owner := none, ways := [], grant := 0, revoke := none
    change := some { c with phase := 2 } }).enterCache g

/-- Step 4 of Tables 4.4 and 4.5. -/
def execBasinGroupZeroed (group : Nat) (s : State) : Out :=
  .next (match (s.group group).change with
    | none => s
    | some c =>
      if !c.ways.isEmpty then s
      else if (s.group group).scratch && c.phase = 1 then
        let s := s.zeroGroup group
        if c.toScratch then (s.updGroup group fun x => { x with owner := none }).awaitOwner group c
        else s.openCache group c
      else if !(s.group group).scratch && c.toScratch && c.phase = 2 then (s.zeroGroup group).awaitOwner group c
      else s)

/-- The rest of a change to SCRATCH mode: drained and zeroed where it is not yet, then the new owner's. -/
def State.finishScratch (s : State) (g : Nat) (c : GroupChange) : State :=
  let was := (s.group g).scratch
  let s := if was || 2 ≤ c.phase then s
    else (if c.phase = 0 then (s.setChange g (some { c with phase := 1 })).leaveCache g else s).drainGroup g c
  if (s.group g).change.isNone then s else
  let s := if (if was then c.phase < 2 else c.phase < 3) then s.zeroGroup g else s
  (s.updGroup g fun x => { x with scratch := true, owner := c.owner, ways := [], grant := 0, revoke := none, change := none }).done
    c.done .ok 0 []

/-- The rest of a change to CACHE mode. -/
def State.finishCache (s : State) (g : Nat) (c : GroupChange) : State :=
  let s := if c.phase < 2 then (s.zeroGroup g).openCache g c else s
  s.fillGroup g { c with phase := 2 }

/-- R160: a change in progress is completed before the device enters AWAIT_CONFIG. -/
def State.finishChange (s : State) (g : Nat) : State :=
  match (s.group g).change with
  | none => s
  | some c =>
    if !c.ways.isEmpty then (s.updGroup g fun x => { x with ways := c.ways, change := none }).done c.done .ok 0 []
    else if c.toScratch then s.finishScratch g c
    else s.finishCache g c

/-! ## BSN_WAYS_SET (R153, R154, R156, R168) -/

def waysOf (p : Bytes) (o : Nat) : TMap Nat := (List.range 8).map fun v => (v, u16 p (o + 2 * v))

/-- A SEPARATE valley would hold ways beside another. -/
def State.waysMixed (s : State) (w : TMap Nat) : Bool :=
  let hold := (w.filter fun e => e.2 ≠ 0).map (·.1)
  1 < hold.length && hold.any fun v => ((s.profile v).map (·.separate)).getD false

def bsnWaysSet : Msg where
  op := 0x0202
  mark := .dm
  cls := .o
  len := lenIs 20
  field := fun r _ => firstBad [(15 < u8 r.pay 0, 0)]
  run := fun r s =>
    let g := u8 r.pay 0
    let x := s.group g
    let w := waysOf r.pay 4
    let vs := (w.filter fun e => lookD x.ways e.1 0 ≠ e.2).map (·.1)
    if x.change.isSome then Res.fail s .busy
    else if x.scratch || s.waysMixed w then Res.fail s .conflict
    else if vs.isEmpty then Res.okay s
    else
      let c : GroupChange := { toScratch := false, owner := none, waiting := vs, done := r.deferred, ways := w }
      { s := (s.setChange g (some c)).armBasin g vs, st := .pending, after := fun s => s.fireAll vs }

def execBsnWaysSet (via : Via) (s : State) : Out := serve bsnWaysSet via s

/-! ## BSN_QUERY (R169) -/

def Group.state (g : Group) : Nat :=
  if g.retired then 4 else
  match g.change with
  | none => 0
  | some c => if !c.ways.isEmpty then 3 else if !c.toScratch || (g.scratch && c.phase < 3) then 2 else 1

def State.groupBytes (s : State) (mbx g : Nat) : Bytes :=
  let x := s.group g
  leBytes 1 (b2n x.scratch) ++ leBytes 1 x.state ++ leBytes 1 (if x.scratch then x.owner.getD 0xFF else 0xFF) ++ zeros 1 ++
  leBytes 2 (s.bucketsOf g).length ++ zeros 2 ++
  ((List.range 8).flatMap fun v => leBytes 2 (if mbx = 8 || mbx = v then lookD x.ways v 0 else 0)) ++
  leBytes 4 (s.basin.lines.filter fun l => l.2.group = g && l.2.dirty).length

def bsnQuery : Msg where
  op := 0x0203
  mark := .both
  cls := .q
  len := lenIs 0
  run := fun r s => Res.okay s (leBytes 4 s.basin.ceCount ++ leBytes 4 s.basin.ueCount ++
    leBytes 4 s.basin.tracker.length ++ zeros 4 ++ (List.range 16).flatMap (s.groupBytes r.via.mbx))

def execBsnQuery (via : Via) (s : State) : Out := serve bsnQuery via s

/-! ## BSN_FLUSH (R158, R170) -/

/-- Memory that a valley may flush. -/
def State.flushable (s : State) (v a : Nat) : Bool :=
  match s.profile v with
  | none => false
  | some p =>
    if inHbm a then p.hbmRegions.getLsbD (hbmRegion a)
    else if inLpd a then p.lpdRegions.getLsbD (lpdRegion a)
    else if inScratch a then (s.group (a / scratchSize)).owner == some v
    else inHost a

/-- Every region a range touches. -/
def State.flushRange (s : State) (v a n : Nat) : Bool := rangeAll (s.flushable v) a n

def State.flushLines (s : State) (f : Flush) : State :=
  let ls := (s.basin.lines.filter fun l => f.base < l.1 * 256 + 256 && l.1 * 256 < f.base + f.length).map (·.1)
  ls.foldl (fun s l => if f.invalidate then (s.writeBack l).dropLine l else s.writeBack l) s

/-- Whether the flush ends within the bound of R55 is open: a free value decides where lines are dirty. -/
def bsnFlush : Msg where
  op := 0x0204
  mark := .v
  cls := .o
  len := lenIs 24
  denied := fun r s => !s.flushRange r.via.mbx (u64 r.pay 0) (u64 r.pay 8)
  field := fun r _ => firstBad [(u64 r.pay 0 % 256 ≠ 0, 0), (u64 r.pay 8 % 256 ≠ 0 || u64 r.pay 8 = 0 || 2 ^ 40 < u64 r.pay 8, 8)]
  run := fun r s =>
    let v := r.via.mbx
    let f : Flush := { base := u64 r.pay 0, length := u64 r.pay 8, invalidate := bit (u32 r.pay 16) 0, done := r.deferred }
    if (look s.basin.flushes v).isSome then Res.fail s .busy
    else
      let dirty := s.basin.lines.any fun l => l.2.dirty && f.base < l.1 * 256 + 256 && l.1 * 256 < f.base + f.length
      let (k, s) := s.drawNat 42
      if dirty && k % 2 = 1 then Res.pend { s with basin := { s.basin with flushes := put s.basin.flushes v f } }
      else Res.okay (s.flushLines f)

def execBsnFlush (via : Via) (s : State) : Out := serve bsnFlush via s

def execBsnFlushDone (valley : Nat) (s : State) : Out :=
  .next (match look s.basin.flushes valley with
    | none => s
    | some f => (({ s with basin := { s.basin with flushes := del s.basin.flushes valley } }).flushLines f).done f.done .ok 0 [])

/-! ## The host window (R148, R154, R171) -/

def windowUnit : Nat := 0x10000000

def State.windowFits (s : State) (o n : Nat) : Bool := o + n ≤ 16 * hbmRegionSize && rangeAll s.populated (hbmBase + o) n

/-- Fields of a window, from an offset of the bytes. -/
def State.windowField (s : State) (p : Bytes) : Option Nat :=
  let o := u64 p 0
  let n := u64 p 8
  firstBad [(o % windowUnit ≠ 0 || (n ≠ 0 && !s.windowFits o (min n windowUnit)), 0),
    (n % windowUnit ≠ 0 || (n ≠ 0 && !s.windowFits o n), 8), (7 < u8 p 16, 16)]

def memHostWindowSet : Msg where
  op := 0x0205
  mark := .dm
  cls := .o
  len := lenIs 20
  absent := fun _ s => !s.hasCxl
  field := fun r s => s.windowField r.pay
  run := fun r s =>
    let o := u64 r.pay 0
    let n := u64 r.pay 8
    let v := u8 r.pay 16
    if s.link.standalone || !s.link.cxlActive || (n ≠ 0 && !s.inTier v 2 (hbmBase + o) n) then Res.fail s .conflict
    else if s.link.decoder then Res.fail s .busy
    else
      let s := s.forgetHost.releaseSyncs
      Res.okay { s with basin := { s.basin with winOffset := if n = 0 then 0 else o, winSize := n, winValley := v } }

def execMemHostWindowSet (via : Via) (s : State) : Out := serve memHostWindowSet via s

/-! ## CXL (R147, R148, R159) -/

/-- CXL.cache and CXL.mem serve. -/
def State.cxlServes (s : State) : Bool := s.link.cxlEnabled && s.link.up && !s.link.standalone

/-- A host snoop of a 64-byte sector: kind 0 leaves the states, 1 shares, 2 invalidates. A Modified sector gives
its data to the host. -/
def State.snoop (s : State) (addr kind : Nat) : State :=
  let l := addr / 256
  let k := addr / 64 % 4
  match look s.basin.lines l with
  | none => s.emit (.cxlSnoop addr [.invalid])
  | some x =>
    let st := x.sectors.getD k .invalid
    let s := s.emit (.cxlSnoop addr [st])
    let d := s.bytes (addr / 64 * 64) 64
    let s := if st = .modified then s.emit (.cxlData addr d (s.poisoned (addr / 64 * 64) 64)) else s
    if kind = 0 then s else
    let sectors := x.sectors.set k (if kind = 1 && st ≠ .invalid then .shared else .invalid)
    let still := sectors.any (· == .modified)
    let x := { x with
      sectors, dirty := x.dirty && still
      writer := if still then x.writer else none
      backing := if !(x.dirty && still) then [] else if st = .modified then wrN x.backing (addr / 64 * 64) d else x.backing }
    if sectors.all (· == .invalid) then s.dropLine l else s.setLine l x

/-- A snoop, and the host's own store to the sector that an invalidating snoop lets follow: the one way host
memory changes under the device (notes/assumptions/28.md). -/
def execCxlSnoop (addr kind : Nat) (store : Option Bytes) (s : State) : Out :=
  .next (if !s.cxlServes || !inHost addr then s else
    let s := s.snoop addr kind
    match store with
    | some d =>
      if kind = 2 then
        s.putThrough (addr / 64 * 64) (fit 64 d)
      else s
    | none => s)

def State.inWindow (s : State) (a : Nat) : Bool :=
  hbmBase + s.basin.winOffset ≤ a && a < hbmBase + s.basin.winOffset + s.basin.winSize

/-- Lines the tracker holds. -/
def trackerSize : Nat := 1048576

/-- A line of the window is in the host's hands. -/
def State.hostTrack (s : State) (line : Nat) (exclusive : Bool) : State :=
  let t := s.basin.tracker
  let t := if t.any (fun e => e.line = line) then
      t.map fun e => if e.line = line then { e with exclusive := e.exclusive || exclusive } else e
    else t ++ [{ line := line, exclusive := exclusive }]
  { s with basin := { s.basin with tracker := t } }

/-- A line's data go to the host, which holds it from now on. What the Basin holds dirty is served (R148). -/
def State.hostTakes (s : State) (line : Nat) (exclusive : Bool) : State :=
  (s.hostTrack line exclusive).emit (.cxlData (line * 64) (rdN s.mem (line * 64) 64) (s.poisoned (line * 64) 64))

/-- The fault record of an access that no open window covers (R136, R596). -/
def State.windowClosed (s : State) (a : Nat) : State := s.error { source := 7, event := 8, cls := 0x0C, addr := a } []

/-- The host reads a 64-byte line of the window, to hold it Shared or Exclusive. A full tracker first takes back its
oldest line, and the read waits (R148); what no window covers reads as poison (R596). -/
def execCxlMemRead (addr : Nat × List Ecc) (exclusive : Bool) (s : State) : Out :=
  .next (if !s.cxlServes then s else
    let line := addr.1 / 64
    if !s.inWindow addr.1 then (s.windowClosed addr.1).emit (.cxlData (line * 64) (zeros 64) true) else
    let s := s.eccAll addr.2
    if s.basin.hostReads.isEmpty && (s.basin.tracker.length < trackerSize || s.basin.tracker.any (fun e => e.line = line)) then
      s.hostTakes line exclusive
    else
      let s := match s.basin.tracker.find? fun e => e.line ∉ s.basin.biPending with
        | some e => s.backInvalidate e.line
        | none => s
      { s with basin := { s.basin with hostReads := s.basin.hostReads ++ [(line, exclusive)] } })

/-- The host writes a 64-byte line of the window; a write outside it is discarded (R596). -/
def execCxlMemWrite (addr : Nat) (data : Bytes) (poison : Bool) (s : State) : Out :=
  .next (if !s.cxlServes then s
    else if !s.inWindow addr then s.windowClosed addr
    else
      let a := addr / 64 * 64
      if poison then s.poison a 64 else s.putThrough a (fit 64 data))

/-- Device writes that no line in the host's hands holds up any more take effect, oldest first. -/
def State.releaseWrites (s : State) : State :=
  let free := fun (w : HeldWrite) => (s.hostHolds w.addr w.data.length true).isEmpty
  let go := s.basin.biWrites.takeWhile free
  go.foldl State.putHeld { s with basin := { s.basin with biWrites := s.basin.biWrites.dropWhile free } }

/-- The host gives a line up, with its data where it held it Modified; the device write or host read that waited
follows. -/
def execCxlBiResponse (addr : Nat) (data : Option Bytes) (s : State) : Out :=
  .next (if addr / 64 ∉ s.basin.biPending then s else
    let l := addr / 64
    let s := match data with
      | some d => s.putThrough (l * 64) (fit 64 d)
      | none => s
    let s : State := { s with basin := { s.basin with
      biPending := s.basin.biPending.erase l, tracker := s.basin.tracker.filter fun e => e.line ≠ l } }
    let s := s.releaseWrites.releaseSyncs
    match s.basin.hostReads with
    | (line, ex) :: rest =>
      if s.basin.tracker.length < trackerSize then
        ({ s with basin := { s.basin with hostReads := rest } }).hostTakes line ex
      else s
    | [] => s)

end Sys2Proof.Machine
end

