-- ==== Sys2Proof/Machine/Memory.lean ====
section
/-! DEFINITION. External memory: queries, requested retirements, row repairs, refresh, scrub and corrections
(05: R182-R207). -/
namespace Sys2Proof.Machine
open Sys2Proof

/-! ## MEM_QUERY (R204) -/

def State.hbmLive (s : State) : List Nat := (List.range 16).filter fun r => s.hasHbmRegion r && r ∉ s.ext.hbmGone
def State.lpdLive (s : State) : List Nat := (List.range 8).filter fun r => s.hasLpdRegion r && r ∉ s.ext.lpdGone

def State.stackBytes (s : State) (i : Nat) : Bytes :=
  let x := s.stack i
  leInt 1 x.temp ++ leBytes 1 x.lanesSpared ++ leBytes 1 (s.ext.soft.filter fun r => r.1 = i).length ++
  leBytes 1 x.hardPending.length ++ leBytes 2 x.hardUsed ++ zeros 2 ++ leBytes 4 x.corrected ++ leBytes 4 x.uncorrected

def memQuery : Msg where
  op := 0x0210
  mark := .both
  cls := .q
  len := lenIs 0
  run := fun _ s =>
    let e := s.ext
    let stranded := (List.range 32).filter fun c => c % 8 ∈ e.lpdGone && c ∉ e.chRetired
    Res.okay s (leBytes 8 (s.hbmLive.length * hbmRegionSize) ++ leBytes 8 (s.lpdLive.length * lpdRegionSize) ++
      leBytes 16 (maskOf e.pcRetired) ++ leBytes 2 (maskOf s.hbmLive) ++ leBytes 1 (maskOf s.lpdLive) ++ zeros 1 ++
      leBytes 4 (maskOf e.chRetired) ++ leBytes 4 (maskOf stranded) ++ leBytes 4 s.lpdPoison ++
      (List.range 4).flatMap s.stackBytes ++ ((List.range 8).flatMap fun i => leInt 1 (lookD e.packages i {}).temp) ++
      leBytes 4 e.lpdCorrected ++ leBytes 4 e.scrubPasses)

def execMemQuery (via : Via) (s : State) : Out := serve memQuery via s

/-! ## MEM_CHANNEL_RETIRE (R190, R192, R195, R205) -/

/-- What R190 names lies in a region. -/
def State.regionInUse (s : State) (lpddr : Bool) (r : Nat) : Bool :=
  let lo := if lpddr then lpdBase + r * lpdRegionSize else hbmBase + r * hbmRegionSize
  let n := if lpddr then lpdRegionSize else hbmRegionSize
  let meets := fun (a m : Nat) => overlaps a m lo n
  (List.range 8).any (fun v => s.rowsMeet v meets meets ||
    (s.claims v).any fun c => 2 ≤ c.1 && meets c.2.1 c.2.2) ||
  (s.core.sessions.any fun x => !x.track && meets x.journal x.journalBytes) || (s.core.journals.any fun j => meets j 64) ||
  (0 < s.basin.winSize && meets (hbmBase + s.basin.winOffset) s.basin.winSize)

def memChannelRetire : Msg where
  op := 0x0211
  mark := .dm
  cls := .o
  len := lenIs 4
  absent := fun r s => if u8 r.pay 0 = 1 then u8 r.pay 1 < 32 && !s.hasLpdCh (u8 r.pay 1)
    else u8 r.pay 0 = 0 && u8 r.pay 1 < 128 && !s.hasStack (u8 r.pay 1 / 32)
  field := fun r _ => firstBad [(1 < u8 r.pay 0, 0), (u8 r.pay 1 > (if u8 r.pay 0 = 0 then 127 else 31), 1)]
  run := fun r s =>
    let l := u8 r.pay 0 = 1
    let ch := u8 r.pay 1
    let reg := if l then ch % 8 else ch % 16
    let vs := (List.range 8).filter fun v => ((s.profile v).map fun p =>
      if l then p.lpdRegions.getLsbD reg else p.hbmRegions.getLsbD reg).getD false
    if reg ∈ (if l then s.ext.lpdGone else s.ext.hbmGone) then Res.okay s
    else if s.ext.retires.any fun x => x.lpddr = l && x.channel = ch then Res.fail s .busy
    else if !bit (u8 r.pay 2) 0 && s.regionInUse l reg then Res.fail s .conflict
    else
      let q : RetireReq := { lpddr := l, channel := ch, waiting := vs, done := r.deferred }
      let s := { s with ext := { s.ext with retires := s.ext.retires ++ [q] } }
      let s := vs.foldl (fun s v => s.arm v (.channel l ch) none) s
      { s, st := .pending
        after := fun s => if vs.isEmpty then s.channelFree 8 l ch else s.fireAll vs }

def execMemChannelRetire (via : Via) (s : State) : Out := serve memChannelRetire via s

/-! ## MEM_HBM_REPAIR (R184, R185, R187, R189, R192, R206) -/

/-- Stack, local pseudo-channel, bank and row of a request. -/
structure RepairAt where
  stack : Nat
  pc : Nat
  bank : Nat
  row : Nat
deriving DecidableEq, Repr

def repairAt (p : Bytes) : RepairAt := { stack := u8 p 0, pc := u8 p 1, bank := u8 p 2, row := u32 p 4 }
def RepairAt.channel (a : RepairAt) : Nat := a.stack * 32 + a.pc
def RepairAt.pending (a : RepairAt) (s : State) : Bool := (a.pc, a.bank, a.row) ∈ (s.stack a.stack).hardPending
def RepairAt.softRow (a : RepairAt) (s : State) : Option Nat :=
  (s.ext.soft.find? fun x => x.1 = a.stack && x.2.1 = a.pc && x.2.2.1 = a.bank).map (·.2.2.2)

/-- A pseudo-channel that is retired, or in a retired region. -/
def RepairAt.gone (a : RepairAt) (s : State) : Bool := a.channel ∈ s.ext.pcRetired || a.channel % 16 ∈ s.ext.hbmGone

def State.startSoft (s : State) (a : RepairAt) (done : Deferred) : State :=
  { s with ext := { s.ext with softBusy := some { stack := a.stack, pc := a.pc, bank := a.bank, row := a.row, done } } }

def softRun (r : Req) (s : State) : Res :=
  let a := repairAt r.pay
  if a.gone s then Res.fail s .conflict
  else if a.pending s && (a.softRow s).isSome then Res.okay s
  else if (a.softRow s).isSome then Res.fail s .limitReached
  else if s.ext.softBusy.isSome then Res.fail s .busy
  else Res.pend (s.startSoft a r.deferred)

/-- Hard repair resources of a bank that are neither used nor promised. -/
def RepairAt.spares (a : RepairAt) (s : State) : Nat :=
  let x := s.stack a.stack
  let here := fun (l : List (Nat × Nat × Nat)) => (l.filter fun e => e.1 = a.pc && e.2.1 = a.bank).length
  Config.hardResources a.stack a.pc a.bank - here x.hardDone - here x.hardPending

def State.pendHard (s : State) (a : RepairAt) : State :=
  s.updStack a.stack fun x => { x with hardPending := x.hardPending ++ [(a.pc, a.bank, a.row)] }

def hardRun (r : Req) (s : State) : Res :=
  let a := repairAt r.pay
  if a.gone s then Res.fail s .conflict
  else if a.pending s then Res.okay s
  else if 2 ≤ (s.stack a.stack).hardPending.length then Res.fail s .noResource
  else if a.spares s = 0 then Res.fail s .limitReached
  else if (a.softRow s).isSome then Res.okay (s.pendHard a)
  else if s.ext.softBusy.isSome then Res.fail s .busy
  else Res.pend ((s.startSoft a r.deferred).pendHard a)

def cancelHardRun (r : Req) (s : State) : Res :=
  let a := repairAt r.pay
  if a.gone s then Res.fail s .conflict
  else Res.okay (s.updStack a.stack fun x => { x with hardPending := x.hardPending.erase (a.pc, a.bank, a.row) })

/-- The frame of the three modes. -/
def repairMsg (run : Req → State → Res) : Msg where
  op := 0x0212
  mark := .dm
  cls := .o
  len := lenIs 12
  absent := fun r s => u8 r.pay 0 < 4 && !s.hasStack (u8 r.pay 0)
  field := fun r _ => firstBad [(3 < u8 r.pay 0, 0), (31 < u8 r.pay 1, 1), (63 < u8 r.pay 2, 2), (2 < u8 r.pay 3, 3),
    (Config.hbmLastRow < u32 r.pay 4, 4)]
  run := run

def execMemHbmRepairSoft (via : Via) (s : State) : Out :=
  serveIf (repairMsg softRun) (fun r => u8 r.pay 3 ≠ 1 && u8 r.pay 3 ≠ 2) via s
def execMemHbmRepairHard (via : Via) (s : State) : Out := serveIf (repairMsg hardRun) (fun r => u8 r.pay 3 = 1) via s
def execMemHbmRepairCancelHard (via : Via) (s : State) : Out := serveIf (repairMsg cancelHardRun) (fun r => u8 r.pay 3 = 2) via s

/-- A sector of HBM reads uncorrectable to scrub or repair: it is counted, written with poison and recorded, and its
channel is tested (R181, R193). -/
def State.badSector (s : State) (pc a : Nat) : State :=
  let s := (s.updStack (pc / 32) fun x => { x with uncorrected := satAdd 0xFFFFFFFF x.uncorrected 1 }).poison a 64
  s.error { source := 2, event := 2, cls := 4, unit := pc, addr := a } [{ cls := 4, idx := pc }]

/-- Table 5.3, steps 3 to 6: `bad` are the sectors of the row that read uncorrectable, `waits` the accesses that
waited for the bank (R188). -/
def execSoftRepairDone (bad : List Nat) (waits : Nat) (s : State) : Out :=
  .next (match s.ext.softBusy with
    | none => s
    | some x =>
      let s := bad.foldl (fun s i => s.badSector (x.stack * 32 + x.pc) (Config.hbmRowSector x.stack x.pc x.bank x.row i)) s
      let s := { s with ext := { s.ext with softBusy := none, soft := s.ext.soft ++ [(x.stack, x.pc, x.bank, x.row)] } }
      let e : FaultEv := {
        kind := 6, source := 2, event := 1, cls := 4, unit := x.stack * 32 + x.pc, subunit := x.bank, index := x.row
        syndrome := waits }
      ((s.stage e).1).done x.done .ok 0 [])

/-! ## Refresh, scrub, corrections (R182, R183, R186, R193) -/

/-- Memory operates: trained, powered, not in self-refresh. -/
def State.memoryOn (s : State) : Bool :=
  s.dev.memTrained && s.dev.st != .reset && s.dev.st != .standby && !s.ext.selfRefresh

/-- A refresh of a stack at a temperature its sensor gives, or of an LPDDR package. -/
def execMemoryRefreshTick (lpddr : Bool) (unit : Nat) (temp : Int) (s : State) : Out :=
  .next (if !s.memoryOn then s
    else if lpddr then
      if s.hasPkg unit then
        { s with ext := { s.ext with packages := upd s.ext.packages unit {} fun p => { p with refreshes := p.refreshes + 1 } } }
      else s
    else if s.hasStack unit then s.updStack unit fun x => { x with temp, refreshes := x.refreshes + 1, halvedRefresh := 85 ≤ temp }
    else s)

def execLpddrMr4Poll (pkg : Nat) (temp : Int) (rate : Nat) (s : State) : Out :=
  .next (if s.memoryOn && s.hasPkg pkg then
    { s with ext := { s.ext with packages := upd s.ext.packages pkg {} fun p => { p with temp, rate } } }
  else s)

/-- Local address of scrub position n: HBM sector by sector. -/
def scrubAt (n : Nat) : Nat := hbmBase + n * 64
def scrubEnd : Nat := 16 * hbmRegionSize / 64

/-- What patrol scrub finds in the next sector: 0 clean, 1 correctable, 2 uncorrectable. A bank under repair, and
what is not populated, is skipped. -/
def execPatrolScrubStep (found : Nat) (s : State) : Out :=
  .next (if !s.memoryOn || s.ext.scrubHours = 0 then s else
    let a := scrubAt s.ext.scrubPos
    let pc := hbmPc a
    let next := s.ext.scrubPos + 1
    let s := { s with ext := { s.ext with
      scrubPos := next % scrubEnd, scrubPasses := if next = scrubEnd then (s.ext.scrubPasses + 1) % 2 ^ 32 else s.ext.scrubPasses } }
    let blocked := (s.ext.softBusy.map fun r =>
      r.stack * 32 + r.pc == pc && Config.hbmBank r.stack r.pc (hbmPcAddr a) == r.bank).getD false
    if !s.populated a || blocked then s
    else if found = 1 then s.updStack (pc / 32) fun x => { x with corrected := satAdd 0xFFFFFFFF x.corrected 1 }
    else if found = 2 then s.badSector pc a
    else s)

/-- A lane of HBM with repeated errors is marked, once. -/
def Stack.mark (x : Stack) (pc : Nat) (lane : Option Nat) : Stack :=
  match lane with
  | some l => if (pc, l) ∈ x.lanesMarked then x else { x with lanesMarked := x.lanesMarked ++ [(pc, l)] }
  | none => x

/-- Corrections on one channel, or on one lane of it, in 1 ms: more than 1,024 ask for the targeted self-test, and
a lane of HBM is marked. -/
def execEccCorrectionBurst (lpddr : Bool) (channel : Nat) (lane : Option Nat) (count : Nat) (s : State) : Out :=
  .next (if !s.memoryOn || !(if lpddr then s.hasLpdCh channel else s.hasStack (channel / 32)) then s else
    let s := if lpddr then { s with ext := { s.ext with lpdCorrected := satAdd 0xFFFFFFFF s.ext.lpdCorrected count } }
      else s.updStack (channel / 32) fun x =>
        { (if 1024 < count then x.mark (channel % 32) lane else x) with corrected := satAdd 0xFFFFFFFF x.corrected count }
    if count ≤ 1024 then s else
    let cls := if lpddr then 5 else 4
    s.error { source := 2, event := 1, cls, unit := channel, subunit := lane.getD 0xFFFF } [{ cls, idx := channel }])

/-- A channel idle for 1 µs in DORMANT. -/
def execChannelPowerDown (lpddr : Bool) (channel : Nat) (s : State) : Out :=
  .next (if s.memoryOn && s.pwr.st = .dormant && (lpddr, channel) ∉ s.ext.poweredDown &&
      (if lpddr then s.hasLpdCh channel else s.hasStack (channel / 32)) then
    let s := s.advanceTo (s.now + 1000)
    { s with ext := { s.ext with poweredDown := s.ext.poweredDown ++ [(lpddr, channel)] } }
  else s)

end Sys2Proof.Machine
end

