-- ==== Sys2Proof/Machine/Cipher.lean ====
section
/-! DEFINITION. Canyon's layouts and arithmetic (17: R640-R645, R651-R656): headers, polynomials as lists of
residues, shares as 64-bit words, and the core time of an operation. -/
namespace Sys2Proof.Machine
open Sys2Proof

/-! ## Chains (R640) -/

/-- No divisor of q from d on, while d x d is at most q. -/
def noDivisor (q : Nat) : Nat → Nat → Bool
  | 0, _ => true
  | k + 1, d => if q < d * d then true else if q % d = 0 then false else noDivisor q k (d + 1)

/-- A prime below 2^60. -/
def primeLimb (q : Nat) : Bool := 2 ≤ q && q < 2 ^ 60 && noDivisor q (2 ^ 30) 2

/-- The first limb of a chain that R640 does not allow. -/
def badLimb (n : Nat) (chain : List Nat) : Option Nat :=
  (List.range chain.length).find? fun i =>
    let q := chain.getD i 0
    !primeLimb q || q % (2 * n) ≠ 1 || (chain.take i).any (· = q)

def chainCrc (chain : List Nat) : Nat := (crc32c (chain.flatMap (leBytes 8))).toNat

/-- Bytes of a key slot (R644). -/
def keyBytes (log2 limbs : Nat) : Nat := 64 + 2 * limbs * limbs * 2 ^ log2 * 8

/-! ## Headers (Table 17.1) -/

def hdrKind (h : Bytes) : Nat := u8 h 5
def hdrParts (h : Bytes) : Nat := u8 h 6
def hdrLog2 (h : Bytes) : Nat := u8 h 7
def hdrLimbs (h : Bytes) : Nat := u8 h 8
def hdrLevel (h : Bytes) : Nat := u8 h 9
def hdrRescale (h : Bytes) : Bool := bit (u8 h 10) 0
def hdrCrc (h : Bytes) : Nat := u32 h 12
def hdrCount (h : Bytes) : Nat := u64 h 16
def hdrFirst (h : Bytes) : Nat := u64 h 24
def hdrBytes (h : Bytes) : Nat := u64 h 32

/-- An RLWE or PLAIN header. -/
def hdrPoly (h : Bytes) : Bool := hdrKind h < 2

/-- Bytes of an operand (Table 17.2). -/
def operandBytes (kind parts log2 limbs count : Nat) : Nat :=
  if kind < 2 then 64 + parts * limbs * 2 ^ log2 * 8 else if kind = 2 then 64 + 8 * count else 64 + 16 * count

/-- The header's own form: MAGIC, VERSION, KIND, HDR_CRC, BYTES. -/
def hdrSound (h : Bytes) : Bool :=
  u32 h 0 = 0x54435943 && u8 h 4 = 1 && hdrKind h ≤ 4 && (crc32c (h.take 60)).toNat = u32 h 60 && hdrLog2 h < 64 &&
  hdrBytes h = operandBytes (hdrKind h) (hdrParts h) (hdrLog2 h) (hdrLimbs h) (hdrCount h)

def header (kind parts log2 limbs level flags crc count first : Nat) : Bytes :=
  let b := leBytes 4 0x54435943 ++ leBytes 1 1 ++ leBytes 1 kind ++ leBytes 1 parts ++ leBytes 1 log2 ++ leBytes 1 limbs ++
    leBytes 1 level ++ leBytes 1 flags ++ zeros 1 ++ leBytes 4 crc ++ leBytes 8 count ++ leBytes 8 first ++
    leBytes 8 (operandBytes kind parts log2 limbs count) ++ zeros 20
  b ++ leBytes 4 (crc32c b).toNat

/-! ## Polynomials modulo q (R640, R651) -/

/-- Part t, limb j of an operand's data (its header included), as residues modulo q. -/
def residues (d : Bytes) (limbs n t j q : Nat) : List Nat :=
  (List.range n).map fun k => u64 d (64 + ((t * limbs + j) * n + k) * 8) % q

def addMod (q : Nat) (a b : List Nat) : List Nat := a.zipWith (fun x y => (x + y) % q) b
def negMod (q : Nat) (a : List Nat) : List Nat := a.map fun x => (q - x % q) % q
def subMod (q : Nat) (a b : List Nat) : List Nat := addMod q a (negMod q b)
def scaleMod (q c : Nat) (a : List Nat) : List Nat := a.map fun x => x * c % q

/-- The negacyclic product: X^N is -1. -/
def mulMod (q : Nat) (a b : List Nat) : List Nat :=
  let n := a.length
  (List.range n).map fun k =>
    let s := (List.range n).foldl (fun (s : Int) i =>
      let p : Int := (a.getD i 0 * b.getD ((k + n - i) % n) 0 : Nat)
      if i ≤ k then s + p else s - p) 0
    (s % (q : Int)).toNat

/-- x^e modulo q, for an exponent below 2^64. -/
def powMod (q x e : Nat) : Nat :=
  (List.range 64).foldl (fun (a : Nat) i => a * a % q * (if bit e (63 - i) then x else 1) % q) (1 % q)

/-- Inverse of x modulo a prime. -/
def invMod (q x : Nat) : Nat := powMod q (x % q) (q - 2)

/-- A residue of the dropped limb, centred (R653). -/
def centred (q r : Nat) : Int := if r ≤ (q - 1) / 2 then r else (r : Int) - q

/-- A limb q after the limb `last` with residues r is dropped. -/
def rescaleLimb (q last : Nat) (c r : List Nat) : List Nat :=
  c.zipWith (fun (x y : Nat) => (((x : Int) - centred last y) % (q : Int)).toNat * invMod q last % q) r

/-- A signed 64-bit scalar modulo q. -/
def scalarMod (q scalar : Nat) : Nat := (signed 64 scalar % (q : Int)).toNat

/-- The plaintext polynomial of SCORE (R654): rows of W elements, in order. -/
def scorePoly (n w : Nat) (v : List Int) : List Int :=
  (List.range n).map fun c => (List.range v.length).foldl (fun (s : Int) j =>
    let e := j / w * (2 * w)
    let i := j % w
    if i ≤ e then (if e - i = c then s + v.getD j 0 else s) else (if e + n - i = c then s - v.getD j 0 else s)) 0

def intsMod (q : Nat) (p : List Int) : List Nat := p.map fun x => (x % (q : Int)).toNat

def wordsOf (l : List Nat) : Bytes := l.flatMap (leBytes 8)

/-! ## Shares (R641, R656) -/

def shareAt (d : Bytes) (i : Nat) : W64 := BitVec.ofNat 64 (u64 d (64 + 8 * i))
def sharesOf (d : Bytes) (from_ n : Nat) : List W64 := (List.range n).map fun i => shareAt d (from_ + i)
def shareBytes (l : List W64) : Bytes := l.flatMap fun x => leBytes 8 x.toNat

/-- One triple entry: a, b, c. -/
structure Triple where
  a : W64
  b : W64
  c : W64
deriving DecidableEq, Repr

def tripleOf (d : Bytes) : Triple := { a := BitVec.ofNat 64 (u64 d 0), b := BitVec.ofNat 64 (u64 d 8), c := BitVec.ofNat 64 (u64 d 16) }

/-- z = c + d b + e a, and d e too for party 0. -/
def combineWord (party0 : Bool) (t : Triple) (d e : W64) : W64 := t.c + d * t.b + e * t.a + (if party0 then d * e else 0)

/-! ## Core time (Table 17.5) -/

/-- T_op at nominal pace, in 1/64 ns. -/
def coreTime (op sub log2 limbs parts count : Nat) : Nat :=
  let tau := 2 ^ log2 * limbs / 256
  let nu := log2 * tau
  if op = 0x28 || op = 0x2B then 64 * (200 + parts * tau)
  else if op = 0x29 && sub = 1 then 64 * (400 + (2 * parts + 1) * nu + parts * tau)
  else if op = 0x29 then 64 * (400 + 7 * nu + 4 * tau)
  else if op = 0x2A then 64 * (400 + (limbs + 2) * nu + (2 * limbs + 2) * tau)
  else if op = 0x2C then 64 * (400 + 5 * nu + 3 * tau)
  else if op = 0x2D then 64 * 200 + count
  else if op = 0x2E then 64 * 300 + 2 * count
  else 64 * 300 + 4 * count

/-- The same at device pace p, in ns, rounded up (R657). -/
def opTime (t64 pace : Nat) : Nat := ceilDiv (t64 * 512) (64 * pace)

end Sys2Proof.Machine
end

