-- ==== Sys2Proof/Machine/Bridge.lean ====
section
/-! DEFINITION. The layouts of the older generations and the exact conversions between them and layout 84 (16:
R607, R611, R612). -/
namespace Sys2Proof.Machine
open Sys2Proof

/-! ## Element order -/

/-- Swap the bytes of each pair. -/
def swapPairs : Bytes → Bytes
  | a :: b :: l => b :: a :: swapPairs l
  | l => l

def swapNibbles (l : Bytes) : Bytes := l.map fun (b : Byte) => ((b <<< 4) ||| (b >>> 4) : Byte)

/-- Elements of a format between layout 84 and a generation; each step undoes itself (Table 16.2). -/
def reorder (gen fmt : Nat) (l : Bytes) : Bytes :=
  if gen ≠ 21 then l else if fmt = 2 then swapPairs l else if fmt = 6 then swapNibbles l else l

/-! ## Rows -/

/-- One step of CRC-16 with polynomial 0x1021, most significant bit first. -/
def crc16Byte (c : W16) (b : Byte) : W16 :=
  (List.range 8).foldl (fun (c : W16) _ => if c.getLsbD 15 then (c <<< 1) ^^^ 0x1021 else c <<< 1) (c ^^^ (b.setWidth 16 <<< 8))

def crc16 (l : Bytes) : W16 := l.foldl crc16Byte 0xFFFF

/-- Row stride of a generation for a payload of n bytes and s scale entries. -/
def foreignStride (gen n s : Nat) : Nat := if gen = 21 then ceilDiv (8 + n) 32 * 32 else ceilDiv (n + 4 * s + 4) 64 * 64

/-- Limits of a generation's rows. -/
def foreignFits (gen w n : Nat) : Bool := if gen = 21 then w ≤ 1024 && n ≤ 2048 else n ≤ 4096

/-- An FP32 pattern as the FP16 pattern of the same value; none where there is none. -/
def fp16Exact (w : Nat) : Option Nat :=
  let x := fp32.decode w
  let h := fp16.narrow 84 x
  if !x.isNan && fp32.narrow 84 (fp16.decode h) = w % 2 ^ 32 then some h else none

/-- A stored row in a generation's layout: payload and scale entries of layout 84. -/
def toForeign (gen fmt : Nat) (payload scales : Bytes) : Bytes :=
  let p := reorder gen fmt payload
  let n := foreignStride gen payload.length (scales.length / 4)
  if gen = 21 then
    let scale := if scales.isEmpty then 0x3F800000 else fp32.narrow 84 (fp16.decode (u16 scales 0))
    let hdr := leBytes 4 scale ++ leBytes 1 (u8 scales 2) ++ zeros 1
    fit n (hdr ++ leBytes 2 (crc16 (hdr ++ p)).toNat ++ p)
  else fit n (p ++ scales ++ leBytes 4 (crc32c (p ++ scales)).toNat)

/-- A generation's row of n payload bytes and s scale entries: payload and scales of layout 84, or the status
(Table 16.6) POISONED or INEXACT. -/
def fromForeign (gen fmt n s : Nat) (row : Bytes) : Except Nat (Bytes × Bytes) :=
  if gen = 21 then
    let p := slice row 8 n
    if (crc16 (row.take 6 ++ p)).toNat ≠ u16 row 6 then .error 4
    else match (if s = 0 then some 0 else fp16Exact (u32 row 0)) with
    | none => .error 9
    | some h => .ok (reorder gen fmt p, if s = 0 then [] else leBytes 2 h ++ leBytes 1 (u8 row 4) ++ zeros 1)
  else
    let p := row.take n
    let sc := slice row n (4 * s)
    if (crc32c (p ++ sc)).toNat ≠ u32 row (n + 4 * s) then .error 4 else .ok (p, sc)

/-! ## Vectors -/

def vecBytes (fmt w : Nat) : Nat := ceilDiv (w * elemBits fmt) 8
def vecStride (gen fmt w : Nat) : Nat := let a := if gen = 21 then 32 else 64; ceilDiv (vecBytes fmt w) a * a

def toVector (gen fmt w : Nat) (l : Bytes) : Bytes := fit (vecStride gen fmt w) (reorder gen fmt (fit (vecBytes fmt w) l))
def fromVector (gen fmt w : Nat) (l : Bytes) : Bytes := reorder gen fmt (fit (vecBytes fmt w) l)

end Sys2Proof.Machine
end

