-- ==== Sys2Proof/Machine/Ford.lean ====
section
/-! DEFINITION. Ford: exchange rings, shards, messages and commands (16: R613-R618, R621, R623-R631, R633-R637). -/
namespace Sys2Proof.Machine
open Sys2Proof

/-! ## Rings in memory (R614, R591) -/

def Ring.gen (x : Ring) : Nat := u8 x.create 1
def Ring.log2 (x : Ring) : Nat := u8 x.create 2
def Ring.size (x : Ring) : Nat := 2 ^ x.log2
def Ring.pollNs (x : Ring) : Nat := if u32 x.create 4 = 0 then 1000 else u32 x.create 4
def Ring.timeoutUs (x : Ring) : Nat := if u32 x.create 8 = 0 then 2000 else u32 x.create 8
def Ring.base (x : Ring) : Nat := u64 x.create 16
def Ring.bytes (x : Ring) : Nat := u64 x.create 24
def Ring.outAt (x : Ring) (i : W32) : Nat := x.base + 4096 + i.toNat % x.size * 64
def Ring.inAt (x : Ring) (i : W32) : Nat := x.base + 4096 + 64 * x.size + i.toNat % x.size * 64
def Ring.bufAt (x : Ring) : Nat := 4096 + 128 * x.size
def phaseOf (i : W32) (size : Nat) : Nat := 1 - i.toNat / size % 2

def State.ring (s : State) (r : Nat) : Option Ring := look s.ford.rings r
def State.setRing (s : State) (r : Nat) (x : Ring) : State := { s with ford := { s.ford with rings := put s.ford.rings r x } }
def State.updRing (s : State) (r : Nat) (f : Ring → Ring) : State :=
  match s.ring r with
  | some x => s.setRing r (f x)
  | none => s

/-- Bytes of the memory that rings lie in: the host's, or the pool region as last seen. -/
def State.ringRead (s : State) (a n : Nat) : Bytes := if s.link.standalone then rdN s.pool.mem a n else s.bytes (hostBase + a) n

def State.ringWrite (s : State) (r a : Nat) (d : Bytes) : State :=
  if s.link.standalone then
    { s with pool := { s.pool with mem := wrN s.pool.mem a d, ops := s.pool.ops ++ [{ write := true, ring := r, off := a, bytes := d.length }] } }
  else s.writeThrough (hostBase + a) d

/-- An access to a ring fails (R630). -/
def State.ringLost (s : State) (a n : Nat) : Bool :=
  if s.link.standalone then s.pool.cfg.isNone || s.pool.qpErr else !s.link.up || s.poisoned (hostBase + a) n

/-- A READ that has not come back covers some of these bytes. -/
def State.reading (s : State) (a n : Nat) : Bool :=
  s.link.standalone && s.pool.ops.any fun o => !o.write && overlaps o.off o.bytes a n

/-! ## Entries (Table 16.8) -/

def entOp (e : Bytes) : Nat := u8 e 0
def entStatus (e : Bytes) : Nat := u8 e 2
def entGen (e : Bytes) : Nat := u8 e 3
def entXid (e : Bytes) : Nat := u32 e 4
def entTable (e : Bytes) : Nat := u32 e 8
def entCount (e : Bytes) : Nat := u32 e 12
def entRow (e : Bytes) : Nat := u64 e 16
def entEpoch (e : Bytes) : Nat := u32 e 24
def entFmt (e : Bytes) : Nat := u8 e 28
def entPool (e : Bytes) : Nat := u8 e 29
def entW (e : Bytes) : Nat := u16 e 30
def entData (e : Bytes) : Nat := u64 e 32
def entLen (e : Bytes) : Nat := u32 e 40
def entRspLen (e : Bytes) : Nat := u32 e 44
def entRsp (e : Bytes) : Nat := u64 e 48
def entIdx64 (e : Bytes) : Bool := bit (u8 e 1) 1

def entryOkCrc (e : Bytes) : Bool := (crc32c (e.take 60)).toNat = u32 e 60

/-- Bytes 4 to 59 of an entry and its first four, with the phase of its place. -/
def sealEntry (phase op flags status gen : Nat) (rest : Bytes) : Bytes :=
  let b := leBytes 1 op ++ leBytes 1 (phase + flags) ++ leBytes 1 status ++ leBytes 1 gen ++ fit 56 rest
  b ++ leBytes 4 (crc32c b).toNat

/-! ## Posting (R615) -/

def Ring.full (x : Ring) : Bool := (x.outProd - x.outCons).toNat = x.size

/-- The lowest free place of n bytes in the buffer area. -/
def Ring.place (x : Ring) (n : Nat) : Option Nat :=
  let len := max 64 (ceilDiv n 64 * 64)
  let spots := x.bufAt :: x.used.map fun u => u.2.1 + u.2.2
  let ok := spots.filter fun o => o + len ≤ x.bytes && !x.used.any fun u => overlaps u.2.1 u.2.2 o len
  pickMin id ok

def Ring.take (x : Ring) (owner : Option W32) (off n : Nat) : Ring :=
  { x with used := x.used ++ [(owner, off, max 64 (ceilDiv n 64 * 64))] }

/-- Write an OUT entry and advance OUT_PROD. -/
def State.outEntry (s : State) (r : Nat) (x : Ring) (op flags status gen : Nat) (rest : Bytes) : State :=
  let i := x.outProd
  let s := s.ringWrite r (x.outAt i) (sealEntry (phaseOf i x.size) op flags status gen rest)
  let s := s.ringWrite r (x.base + 64) (leBytes 4 (i + 1).toNat)
  s.updRing r fun y => { y with outProd := i + 1, sent := y.sent + 1 }

/-! ## The end of a command -/

/-- SYNC, then the completion (R616). -/
def State.fordEnd (s : State) (i code : Nat) : State :=
  match look s.ford.jobs i, look s.core.reqs i with
  | some j, some r =>
    let s := { s with ford := { s.ford with jobs := del s.ford.jobs i } }
    (s.engineSync i r (u32 j.desc 4)).finishWith i code 0
  | _, _ => s

/-- The ring's exchange is over: its response area is free. -/
def State.dropExchange (s : State) (r xid : Nat) : State :=
  s.updRing r fun x => match look x.exch xid with
    | some e => { x with
        exch := del x.exch xid, used := x.used.filter fun u => !(u.1.isNone && u.2.1 + x.base = e.rspAt) }
    | none => x

/-- Shards on a ring go with it. -/
def State.dropShards (s : State) (r : Nat) : State :=
  { s with ford := { s.ford with shards := s.ford.shards.filter fun x => !(x.1 / 256 = r / 16 && u8 x.2 2 = r) } }

/-- STATE CLOSED once nothing is outstanding on a closing ring (R625). -/
def State.closeRing (s : State) (r : Nat) : State :=
  match s.ring r with
  | some x =>
    if x.st = 2 && x.exch.isEmpty then
      let s := if s.ringLost x.base 64 then s else s.ringWrite r (x.base + 5) [0]
      let s := { s with ford := { s.ford with rings := del s.ford.rings r } }
      (s.dropShards r).doneOpt x.done .ok 0 []
    else s
  | none => s

/-- Commands of a ring, in order of admission. -/
def State.fordJobs (s : State) (r : Nat) : TMap FordJob := s.ford.jobs.filter fun j => j.2.ring = r

/-- The ring enters ERROR (R630). -/
def State.ringError (s : State) (r : Nat) : State :=
  match s.ring r with
  | none => s
  | some x =>
    if x.st = 3 then s else
    let s := s.setRing r { x with st := if x.st = 2 then 2 else 3, exch := [], used := [], held := [] }
    let s := (s.fordJobs r).foldl (fun s j => s.fordEnd j.1 0x15) s
    (s.event 8 1 r [] (some (r / 16))).closeRing r

/-! ## Commands (R616-R618) -/

def fordAt (n : Nat) : Nat := ceilDiv (4 * n) 8 * 8
def Request.fordDesc (r : Request) (nhandle : Nat) : Bytes := slice r.inline (fordAt nhandle) 48

/-- A descriptor that is malformed for an OP (Table 16.5), with h handles. -/
def fordBad (op h : Nat) (s : State) (r : Request) : Bool :=
  let v := r.valley
  let d := r.fordDesc h
  let n := u32 d 8
  r.inline.length ≠ fordAt h + 48 || 2 ≤ u8 d 2 || u8 d 0 / 16 ≠ v || (s.ring (u8 d 0)).isNone ||
  ((s.ring (u8 d 0)).map fun x => x.st == 2).getD false ||
  u16 d 14 ≠ 0 || leNat (slice d 17 3) ≠ 0 || leNat (slice d 25 3) ≠ 0 || !s.syncOk v r.stamp.bnd (u32 d 4) ||
  (op ≠ 0x22 && h ≤ u8 d 16) || (op ≠ 0x21 && op ≠ 0x23 && h ≤ u8 d 24) ||
  (if op = 0x20 then 8192 < n || 5 < u8 d 13 || u8 d 12 = 0 || 3 < u8 d 12
    else if op = 0x21 then n = 0 || 8192 < n || 9 < u8 d 3
    else if op = 0x22 then n = 0 || 8192 < n
    else n = 0 || 4096 < n)

def State.fordShard (s : State) (v : Nat) (d : Bytes) : Option Shard :=
  (look s.ford.shards (v * 256 + u8 d 1)).filter fun x => u8 x 1 = 0 && u8 x 2 = u8 d 0

/-- Ford is retired, the personality differs, the ring is in ERROR, or the shard is not there. -/
def fordRefuse (op n : Nat) (s : State) (r : Request) : Option (Nat × Nat) :=
  let d := r.fordDesc n
  match s.ring (u8 d 0) with
  | none => some (0x16, 0)
  | some x =>
    if s.isRetired 8 0 then some (0x0D, 0)
    else if op ≤ 0x22 && x.gen ≠ r.stamp.personality then some (0x0A, 0)
    else if (op = 0x20 && !offersFmt r.stamp.personality (u8 d 13)) || (op = 0x21 && !offersFmt r.stamp.personality (u8 d 3)) then some (0x16, 0)
    else if op ≠ 0x21 && op ≠ 0x22 && (s.fordShard r.valley d).isNone then some (0x16, 0)
    else if x.st = 3 then some (0x15, 0) else none

/-- A range of a relocated handle, checked as R442: its local address, or the code. -/
def State.fordRange (s : State) (r : Request) (hs : List Bytes) (pos off n : Nat) (write : Bool) : Except Nat Nat :=
  let e := handleOf (hs.getD pos [])
  if !e.ok || !(if write then e.write else e.read) || e.len < off + n then .error 0x19
  else
    let a := e.base + off
    if s.isRemote a || !rangeAll (s.populatedFor r.valley r.stamp.bnd) (localOf a) n then .error 0x11
    else if !write && s.poisoned (localOf a) n then .error 0x17 else .ok (localOf a)

/-- The fault record of a range that Ford may not access, where the address is the device's own (R136, R181). -/
def State.recordFord (s : State) (r : Request) (hs : List Bytes) (pos off code : Nat) : State :=
  let a := (handleOf (hs.getD pos [])).base + off
  if s.isRemote a then s else s.recordAccess 8 r a code

def shFmt (x : Shard) : Nat := u8 x 3
def shW (x : Shard) : Nat := u16 x 8
def shGroup (x : Shard) : Nat := u8 x 10
def shPayload (x : Shard) : Nat := payloadBytes (shFmt x) (shW x)
def shScales (x : Shard) : Nat := scaleCount (shGroup x) (shW x)
/-- Layout of COUNT rows as a block (R617): stride, offset of the scale entries, bytes. -/
def shStride (x : Shard) : Nat := rowStride (shFmt x) (shW x)
def shScaleOff (x : Shard) (n : Nat) : Nat := ceilDiv (n * shStride x) 64 * 64
def shBlock (x : Shard) (n : Nat) : Nat := shScaleOff x n + ceilDiv (n * shScales x * 4) 64 * 64

/-- Bytes read at SRC and written at DST. -/
def fordSizes (op : Nat) (d : Bytes) (x : Shard) : Nat × Nat :=
  let n := u32 d 8
  if op = 0x20 then (n * (if bit (u8 d 2) 0 then 8 else 4), vecBytes (u8 d 13) (shW x))
  else if op = 0x21 then (vecBytes (u8 d 3) n, 0)
  else if op = 0x22 then (0, n)
  else if op = 0x23 then (shBlock x n, 0)
  else (0, shBlock x n)

/-- The rows of a FORD_ROW_PUT in the shard's layout, or the first row whose CRC fails. -/
def State.putRows (s : State) (gen : Nat) (x : Shard) (a row n : Nat) : Except Nat Bytes :=
  (List.range n).foldl (fun (acc : Except Nat Bytes) k =>
    match acc with
    | .error e => .error e
    | .ok b =>
      let p := s.bytes (a + k * shStride x) (shPayload x)
      let sc := s.bytes (a + shScaleOff x n + 4 * k * shScales x) (4 * shScales x)
      if (rowCrc (row + k) sc p).toNat ≠ u32 (s.bytes (a + k * shStride x + shPayload x) 4) 0 then .error k
      else .ok (b ++ toForeign gen (shFmt x) p sc)) (.ok [])

/-- Bytes an answer may write. -/
def fordRspLen (gen op : Nat) (d : Bytes) (x : Shard) : Nat :=
  if op = 0x20 then vecStride gen (u8 d 13) (shW x)
  else if op = 0x24 then u32 d 8 * (1 + foreignStride gen (shPayload x) (shScales x)) else 0

/-- Bytes 4 to 55 of a request's entry. -/
def fordEntry (op xid : Nat) (d : Bytes) (x : Shard) (data len rspLen rsp : Nat) : Bytes :=
  let vec := op = 0x21
  leBytes 4 xid ++ leBytes 4 (if vec then u32 d 44 else u32 x 4) ++ leBytes 4 (u32 d 8) ++
  leBytes 8 (if op = 0x23 || op = 0x24 then u64 d 32 else 0) ++ leBytes 4 (if vec then 0 else u32 d 40) ++
  leBytes 1 (if op = 0x20 then u8 d 13 else if vec then u8 d 3 else shFmt x) ++ leBytes 1 (if op = 0x20 then u8 d 12 else 0) ++
  leBytes 2 (if vec then u32 d 8 else shW x) ++ leBytes 8 data ++ leBytes 4 len ++ leBytes 4 rspLen ++ leBytes 8 rsp

def fordOut : Nat → Nat
  | 0x20 => 1 | 0x21 => 7 | 0x23 => 5 | _ => 3

/-- Post a command's exchange, where the ring has an entry and room for its data and answer. -/
def State.fordPost (s : State) (i : Nat) (j : FordJob) : State :=
  match s.ring j.ring, look s.core.reqs i with
  | some x, some r =>
    let op := r.op
    let len := j.data.length
    let rspLen := fordRspLen x.gen op j.desc j.shard
    if x.st ≠ 1 || x.full || 1024 ≤ x.exch.length || s.hostWaits (hostBase + x.base) then s
    else match x.place len with
    | none => s
    | some o =>
      let y := if len = 0 then x else x.take (some x.outProd) o len
      match y.place rspLen with
      | none => s
      | some q =>
        let y := if rspLen = 0 then y else y.take none q rspLen
        if s.ringLost x.base x.bytes then s.ringError j.ring else
        let xid := s.ford.nextXid
        let job := { j with posted := true }
        let e : Exchange := { req := i, job, op := fordOut op, sent := s.now, rspAt := x.base + q, rspLen }
        let s := s.setRing j.ring { y with exch := put y.exch xid e, converted := y.converted + len }
        let s := { s with ford := { s.ford with nextXid := (xid + 1) % 2 ^ 32, jobs := put s.ford.jobs i job, turn := j.ring / 16 } }
        let s := if len = 0 then s else s.ringWrite j.ring (x.base + o) j.data
        let rest := fordEntry op xid j.desc j.shard (if len = 0 then 0 else x.base + o) len rspLen (if rspLen = 0 then 0 else x.base + q)
        match s.ring j.ring with
        | some z => s.outEntry j.ring z (fordOut op) (if op = 0x20 && bit (u8 j.desc 2) 0 then 2 else 0) 0 x.gen rest
        | none => s
  | _, _ => s

/-- Answer a VEC: matched OK, or refused (R620). -/
def State.vecAck (s : State) (r : Nat) (e : Bytes) (status : Nat) : State :=
  match s.ring r with
  | some x => s.outEntry r x 8 0 status x.gen (slice e 4 12 ++ zeros 8)
  | none => s

/-- Write a result at DST, with its completion code: the handle has no room for this much (R442), or the memory has gone
since the command was admitted (R136, R194). -/
def State.fordStore (s : State) (q : Request) (i : Nat) (j : FordJob) (d : Bytes) : State × Nat :=
  if d.isEmpty then (s, 0)
  else if j.room < d.length then (s, 0x19)
  else if !rangeAll (s.populatedFor q.valley q.stamp.bnd) j.dst d.length then (s.recordAccess 8 q j.dst 0x11, 0x11)
  else ((s.writeFor q.valley q.ctx j.dst d).updReq i fun r => { r with wrote := true }, 0)

/-- Give a VEC to a FORD_VEC_RECV: its elements in layout 84 at DST. -/
def State.vecGive (s : State) (i : Nat) (j : FordJob) (e : Bytes) : State :=
  match look s.core.reqs i with
  | none => s
  | some r =>
    let n := entCount e
    let f := entFmt e
    let len := vecBytes f n
    if n ≠ u32 j.desc 8 || entLen e < len || !offersFmt r.stamp.personality f then
      (s.vecAck j.ring e 6).fordEnd i 0x15
    else
      let d := fromVector (entGen e) f n (s.ringRead (entData e) len)
      let (s, code) := s.fordStore r i j d
      let s := s.updRing j.ring fun x => { x with converted := x.converted + len }
      (s.vecAck j.ring e 0).fordEnd i code

/-- Try a waiting command: a receive takes the oldest held VEC of its XTAG. -/
def State.fordTry (s : State) (i : Nat) : State :=
  match look s.ford.jobs i, look s.core.reqs i with
  | some j, some q =>
    if j.posted then s
    else if q.op = 0x22 then
      match s.ring j.ring with
      | none => s
      | some x => match x.held.find? fun h => entTable h = u32 j.desc 44 with
        | some h => if x.full then s else (s.setRing j.ring { x with held := x.held.erase h }).vecGive i j h
        | none => s
    else s.fordPost i j
  | _, _ => s

/-- Try every waiting command of a ring, in order. Ford takes no command while it is tested (Table 18.3). -/
def State.fordPump (s : State) (r : Nat) : State :=
  if s.testing 8 0 then s else (s.fordJobs r).foldl (fun s e => s.fordTry e.1) s

/-- The waiting commands of all rings in Ford's order: the valleys round robin, one command a turn (R622). -/
def State.fordOrder (s : State) : List Nat :=
  let mine := fun v => (s.ford.jobs.filter fun j => j.2.ring / 16 = v && !j.2.posted).map (·.1)
  (List.range s.ford.jobs.length).flatMap fun k => (List.range 8).filterMap fun i => (mine ((s.ford.turn + 1 + i) % 8))[k]?

/-- Try them all. -/
def State.fordTurns (s : State) : State :=
  if s.testing 8 0 then s else s.fordOrder.foldl State.fordTry s

def fordKind (op n : Nat) : CmdKind where
  op := op
  bad := fun _ _ c => c.arg ≠ 0
  absent := fun s => !s.hasFord
  check := fun s r => if fordBad op n s r then some (0x16, 0) else fordRefuse op n s r
  handles := true
  reads := fun s v c =>
    let d := slice c.inline (fordAt c.nhandle) 48
    if op = 0x22 || op = 0x24 then [] else [(u8 d 16, u32 d 20, (fordSizes op d ((s.fordShard v d).getD [])).1)]
  run := fun i r hs s =>
    let d := r.fordDesc n
    let x := (s.fordShard r.valley d).getD []
    let gen := ((s.ring (u8 d 0)).map Ring.gen).getD 84
    let (a, b) := fordSizes op d x
    match (if op = 0x22 || op = 0x24 then .ok 0 else s.fordRange r hs (u8 d 16) (u32 d 20) a false),
        (if op = 0x21 || op = 0x23 then .ok 0 else s.fordRange r hs (u8 d 24) (u32 d 28) b true) with
    | .error c, _ => (s.recordFord r hs (u8 d 16) (u32 d 20) c).finishWith i c 0xFFFF
    | _, .error c => (s.recordFord r hs (u8 d 24) (u32 d 28) c).finishWith i c 0xFFFF
    | .ok src, .ok dst =>
      let s := if a = 0 then s else s.fetch r.valley src a
      let data := if op = 0x20 then .ok (s.bytes src a)
        else if op = 0x21 then .ok (toVector gen (u8 d 3) (u32 d 8) (s.bytes src a))
        else if op = 0x23 then s.putRows gen x src (u64 d 32) (u32 d 8) else .ok []
      let j : FordJob := { ring := u8 d 0, desc := d, src, dst, shard := x, room := (handleOf (hs.getD (u8 d 24) [])).len - u32 d 28 }
      match data with
      | .error k =>
        let s := s.error { source := 8, event := 4, cls := 8, valley := r.valley, ctx := r.ctx, scope := 1, cmpl := 0x12, addr := src
                           index := u64 d 32 + k } [{ cls := 8, idx := 0 }]
        ({ s with ford := { s.ford with jobs := put s.ford.jobs i j } }).fordEnd i 0x12
      | .ok data => ({ s with ford := { s.ford with jobs := put s.ford.jobs i { j with data } } }).fordPump j.ring

/-- Handles of the command at the head of an SQ. -/
def State.headHandles (s : State) (sq : Nat) : Nat := ((look s.core.sqs sq).map fun q => (s.command q).nhandle).getD 0

def execFordLookup (sq : Nat) (s : State) : Out := s.admitOp (fordKind 0x20 (s.headHandles sq)) sq
def execFordVecSend (sq : Nat) (s : State) : Out := s.admitOp (fordKind 0x21 (s.headHandles sq)) sq
def execFordVecRecv (sq : Nat) (s : State) : Out := s.admitOp (fordKind 0x22 (s.headHandles sq)) sq
def execFordRowPut (sq : Nat) (s : State) : Out := s.admitOp (fordKind 0x23 (s.headHandles sq)) sq
def execFordRowGet (sq : Nat) (s : State) : Out := s.admitOp (fordKind 0x24 (s.headHandles sq)) sq

/-! ## Messages -/

def noFord (_ : Req) (s : State) : Bool := !s.hasFord

def fordPersonalitySet : Msg where
  op := 0x0801
  mark := .dm
  cls := .o
  len := lenIs 4
  absent := noFord
  field := fun r _ => firstBad [(7 < u8 r.pay 0, 0), (!(u8 r.pay 1 = 21 || u8 r.pay 1 = 32 || u8 r.pay 1 = 84), 1)]
  run := fun r s =>
    let v := u8 r.pay 0
    let new := u8 r.pay 1
    match s.profile v with
    | none => Res.fail s .conflict
    | some p =>
      let unfit := s.core.tables.any fun t =>
        ((look s.core.sets (t.1 / 1024)).map fun x => x.valley == v).getD false && !offers new t.2.fmt t.2.group
      if s.nextPersonality v p = new then Res.okay s
      else if (new ≠ 84 && p.cynPipes ≠ 0) || unfit then Res.fail s .conflict
      else { s := s.arm v (.personality new) (some r.deferred), st := .pending, after := fun s => s.boundaryIfStopped v }

def execFordPersonalitySet (via : Via) (s : State) : Out := serve fordPersonalitySet via s

/-- A ring number of another valley (Table 16.5). -/
def ringDenied (r : Req) (_ : State) : Bool := u8 r.pay 0 ≤ 127 && u8 r.pay 0 / 16 ≠ r.via.mbx

def State.poolBytes (s : State) : Nat := (s.pool.cfg.map fun c => u64 c 40).getD 0

def ringField (r : Req) (s : State) : Option Nat :=
  let p := r.pay
  let top := if s.link.standalone then s.poolBytes else hostTop - hostBase
  firstBad [(127 < u8 p 0, 0), (!(u8 p 1 = 21 || u8 p 1 = 32), 1), (u8 p 2 < 6 || 16 < u8 p 2, 2),
    (u32 p 4 ≠ 0 && (u32 p 4 < 100 || 100000 < u32 p 4), 4), (u32 p 8 ≠ 0 && (u32 p 8 < 10 || 100000 < u32 p 8), 8),
    ((!s.link.standalone || s.pool.cfg.isSome) && top < u64 p 16 + u64 p 24, 16),
    (u64 p 24 % 4096 ≠ 0 || u64 p 24 < 4096 + 128 * 2 ^ u8 p 2 + 1048576, 24)]

/-- Ring header with STATE OPEN (Table 16.7). -/
def State.ringHeader (s : State) (r : Nat) (x : Ring) : Bytes :=
  leBytes 4 0x44524F46 ++ leBytes 1 1 ++ leBytes 1 1 ++ leBytes 1 x.gen ++ leBytes 1 x.log2 ++ leBytes 1 s.dev.nodeId ++ leBytes 1 r ++ zeros 4086

def fordRingCreate : Msg where
  op := 0x0802
  mark := .v
  cls := .o
  len := lenIs 32
  absent := noFord
  denied := ringDenied
  field := ringField
  run := fun r s =>
    let n := u8 r.pay 0
    let x : Ring := { create := r.pay, polledAt := s.now }
    let h := s.ringRead x.base 16
    let taken := u32 h 0 = 0x44524F46 && u8 h 5 = 1 && u8 h 8 ≠ s.dev.nodeId && !bit (u8 r.pay 3) 0
    if (s.ring n).isSome || s.ringLost x.base x.bytes || (!s.link.standalone && !s.link.cxlEnabled) || taken then Res.fail s .conflict
    else if 64 ≤ s.ford.rings.length then Res.fail s .noResource
    else
      let s := s.setRing n x
      (Res.okay ((s.ringWrite n x.base (s.ringHeader n x)).ringWrite n (x.base + 4096) (zeros (128 * x.size)))).work r

def execFordRingCreate (via : Via) (s : State) : Out := serve fordRingCreate via s

def fordRingDestroy : Msg where
  op := 0x0803
  mark := .v
  cls := .d
  len := lenIs 4
  absent := noFord
  denied := ringDenied
  field := fun r _ => firstBad [(127 < u8 r.pay 0, 0)]
  run := fun r s =>
    let n := u8 r.pay 0
    match s.ring n with
    | none => Res.okay s
    | some x =>
      if x.st = 2 then Res.fail s .busy
      else
        let lost := s.ringLost x.base 64
        let s := s.setRing n { x with st := 2, held := [], done := some r.deferred }
        let s := if lost then s else s.ringWrite n (x.base + 5) [2]
        { s, st := .pending
          after := fun s =>
            let s := ((s.fordJobs n).filter fun j => !j.2.posted).foldl (fun s j => s.fordEnd j.1 0x0E) s
            s.closeRing n }

def execFordRingDestroy (via : Via) (s : State) : Out := serve fordRingDestroy via s

/-- The shards of a ring, the one numbered k apart. -/
def State.shardsOn (s : State) (r k : Nat) : TMap Shard := s.ford.shards.filter fun x => x.1 ≠ k && x.1 / 256 = r / 16 && u8 x.2 2 = r

/-- A shard whose rows the ring's generation cannot hold, a FOREIGN_TABLE in use, a table that is not there (R636). -/
def State.shardConflict (s : State) (v : Nat) (x : Ring) (p : Bytes) : Bool :=
  let t := look s.core.tables (tableKey (u8 p 11) (u16 p 12))
  let t := t.filter fun _ => (s.ownSet v (u8 p 11)).isSome
  let (f, g, w) := if u8 p 1 = 0 then (u8 p 3, u8 p 10, u16 p 8) else (t.map fun t => (t.fmt, t.group, t.width)).getD (0, 0, 1)
  (s.shardsOn (u8 p 2) (v * 256 + u8 p 0)).any (fun y => u32 y.2 4 = u32 p 4) || (u8 p 1 = 1 && t.isNone) ||
  !offers x.gen f g || !foreignFits x.gen w (payloadBytes f w) || w * elemBits f % 8 ≠ 0 || w % max 1 (scaleGroup g w) ≠ 0

def fordShardSet : Msg where
  op := 0x0804
  mark := .v
  cls := .o
  len := lenIs 32
  absent := noFord
  denied := fun r _ => u8 r.pay 1 ≠ 0xFF && u8 r.pay 2 ≤ 127 && u8 r.pay 2 / 16 ≠ r.via.mbx
  field := fun r _ => firstBad [(1 < u8 r.pay 1 && u8 r.pay 1 ≠ 0xFF, 1), (u8 r.pay 1 ≠ 0xFF && 127 < u8 r.pay 2, 2),
    (u8 r.pay 1 = 0 && 9 < u8 r.pay 3, 3), (u8 r.pay 1 = 0 && (u16 r.pay 8 = 0 || 8192 < u16 r.pay 8), 8), (u8 r.pay 1 = 0 && 4 < u8 r.pay 10, 10),
    (u8 r.pay 1 = 1 && 1023 < u16 r.pay 12, 12)]
  run := fun r s =>
    let v := r.via.mbx
    let k := v * 256 + u8 r.pay 0
    if u8 r.pay 1 = 0xFF then Res.okay { s with ford := { s.ford with shards := del s.ford.shards k } }
    else match s.ring (u8 r.pay 2) with
    | none => Res.fail s .conflict
    | some x =>
      if x.st ≠ 1 || s.shardConflict v x r.pay then Res.fail s .conflict
      else Res.okay { s with ford := { s.ford with shards := put s.ford.shards k r.pay } }

def execFordShardSet (via : Via) (s : State) : Out := serve fordShardSet via s

def ringBytes (st gen shards : Nat) (l : List Ring) : Bytes :=
  let sum := fun (f : Ring → Nat) => (l.map f).sum
  leBytes 1 st ++ leBytes 1 gen ++ leBytes 2 shards ++ leBytes 4 (sum fun x => x.exch.length) ++ leBytes 4 (sum fun x => x.held.length) ++
  leBytes 4 (sum (·.errors)) ++ leBytes 4 (sum (·.late)) ++ leBytes 4 (sum (·.inexact)) ++ zeros 8 ++ leBytes 8 (sum (·.sent)) ++
  leBytes 8 (sum (·.received)) ++ leBytes 8 (sum (·.served)) ++ leBytes 8 (sum (·.converted))

def fordQuery : Msg where
  op := 0x0805
  mark := .both
  cls := .q
  len := lenIs 4
  absent := noFord
  denied := fun r _ => r.via.mbx ≠ 8 && u8 r.pay 0 ≤ 127 && u8 r.pay 0 / 16 ≠ r.via.mbx
  field := fun r _ => firstBad [(127 < u8 r.pay 0 && u8 r.pay 0 ≠ 0xFF, 0)]
  run := fun r s =>
    let n := u8 r.pay 0
    if n = 0xFF then
      let seen := s.ford.rings.filter fun x => r.via.mbx = 8 || x.1 / 16 = r.via.mbx
      Res.okay s (ringBytes 0 0 ((seen.map fun x => (s.shardsOn x.1 (2 ^ 16)).length).sum) (seen.map (·.2)))
    else match s.ring n with
    | some x => Res.okay s (ringBytes x.st x.gen (s.shardsOn n (2 ^ 16)).length [x])
    | none => Res.okay s (zeros 64)

def execFordQuery (via : Via) (s : State) : Out := serve fordQuery via s

end Sys2Proof.Machine
end

