-- ==== Sys2Proof/Machine/FordIn.lean ====
section
/-! DEFINITION. What Ford reads from its rings: polls, the older device's requests, answers, timeouts, and the pool
node's operations (16: R612, R615, R619, R620, R627-R630; 15: R591, R598). -/
namespace Sys2Proof.Machine
open Sys2Proof

/-! ## Polls (R615) -/

/-- Ford polls a ring with work outstanding, a LOCAL shard, or a receive that waits. -/
def State.polls (s : State) (r : Nat) (x : Ring) : Bool :=
  x.st ≠ 3 && (!x.exch.isEmpty || !(s.fordJobs r).isEmpty || (s.shardsOn r (2 ^ 16)).any fun y => u8 y.2 1 = 1)

/-- OUT entries that OUT_CONS has passed are free, with their data. -/
def Ring.release (x : Ring) (cons : W32) : Ring :=
  { x with outCons := cons, used := x.used.filter fun u => match u.1 with
    | some i => (i - cons).toNat < 2 ^ 31
    | none => true }

/-- READs of the entries that came in, in standalone mode. -/
def State.readEntries (s : State) (r : Nat) (x : Ring) (prod : W32) : State :=
  if !s.link.standalone then s else
  let ops : List RdmaOp := (List.range (min x.size (prod - x.inProd).toNat)).map fun k =>
    { write := false, ring := r, what := 1, off := x.inAt (x.inProd + BitVec.ofNat 32 k), bytes := 64 }
  { s with pool := { s.pool with ops := s.pool.ops ++ ops } }

/-- Take the indices a poll found. -/
def State.pollDone (s : State) (r : Nat) : State :=
  match s.ring r with
  | none => s
  | some x =>
    if s.ringLost x.base 512 then s.ringError r else
    let cons := BitVec.ofNat 32 (u32 (s.ringRead (x.base + 128) 4) 0)
    let prod := BitVec.ofNat 32 (u32 (s.ringRead (x.base + 192) 4) 0)
    let s := s.readEntries r x prod
    (s.updRing r fun x => { x.release cons with inProd := prod }).fordPump r

def execFordRingPoll (ring : Nat) (s : State) : Out :=
  .next (match s.ring ring with
    | none => s
    | some x =>
      if !s.polls ring x || (!s.link.standalone && s.pwr.d3hot) then s else
      let s := s.advanceTo (x.polledAt + x.pollNs)
      let s := s.updRing ring fun x => { x with polledAt := s.now }
      if s.link.standalone then
        if s.ringLost x.base 512 then s.ringError ring
        else { s with pool := { s.pool with ops := s.pool.ops ++ [{ write := false, ring, off := x.base, bytes := 256 }] } }
      else s.pollDone ring)

/-! ## The pool node (R591, R598) -/

/-- The data an entry points at: a request's indices, rows or vector, or the answer it announces. -/
def State.readData2 (s : State) (r : Nat) (e : Bytes) : State :=
  let op := entOp e
  let want := fun (s : State) (a n : Nat) =>
    if n = 0 then s else { s with pool := { s.pool with ops := s.pool.ops ++ [{ write := false, ring := r, what := 2, off := a, bytes := n }] } }
  if op = 1 || op = 3 || op = 5 || op = 7 then want s (entData e) (entLen e)
  else match (s.ring r).bind fun x => look x.exch (entXid e) with
  | some x => want s x.rspAt x.rspLen
  | none => s

/-- The oldest operation completes; a READ's data is what the region holds. -/
def execPoolRdmaCompletion (data : Bytes) (s : State) : Out :=
  .next (match s.pool.ops with
    | [] => s
    | o :: rest =>
      let s := { s with pool := { s.pool with ops := rest } }
      if o.write || s.pool.qpErr then s else
      let s := { s with pool := { s.pool with mem := wrN s.pool.mem o.off (fit o.bytes data) } }
      if o.what = 0 then s.pollDone o.ring
      else if o.what = 1 then
        let e := s.ringRead o.off 64
        if entryOkCrc e then s.readData2 o.ring e else s
      else s)

/-- The queue pair's retries are exhausted: every ring enters ERROR, and POOL_DOWN is posted. -/
def State.poolFails (s : State) : State :=
  if s.pool.cfg.isNone || s.pool.qpErr then s else
  let s := { s with pool := { s.pool with qpErr := true, ops := [] } }
  let s := s.event 7 4 0xFFFF [] none
  (s.ford.rings.map (·.1)).foldl State.ringError s

def execPoolQpError (s : State) : Out := .next s.poolFails

/-! ## IN entries -/

/-- Pass entries whose PHASE matches and whose CRC does not (R630). -/
def State.skipBad (r : Nat) : Nat → State → State
  | 0, s => s
  | k + 1, s =>
    match s.ring r with
    | none => s
    | some x =>
      let e := s.ringRead (x.inAt x.inCons) 64
      if x.inCons ≠ x.inProd && !s.reading (x.inAt x.inCons) 64 && u8 e 1 % 2 = phaseOf x.inCons x.size && !entryOkCrc e then
        let s := s.setRing r { x with inCons := x.inCons + 1, errors := x.errors + 1 }
        State.skipBad r k (s.ringWrite r (x.base + 256) (leBytes 4 (x.inCons + 1).toNat))
      else s

/-- The next IN entry, if it and its data are there. A closing ring takes answers alone (R625). -/
def State.inEntry (s : State) (r : Nat) : Option Bytes :=
  (s.ring r).bind fun x =>
    let a := x.inAt x.inCons
    let e := s.ringRead a 64
    let answer := entOp e = 2 || entOp e = 4 || entOp e = 6 || entOp e = 8
    let rsp := (look x.exch (entXid e)).map fun (y : Exchange) => s.reading y.rspAt y.rspLen
    if x.st = 3 || x.inCons = x.inProd || s.reading a 64 || u8 e 1 % 2 ≠ phaseOf x.inCons x.size || !entryOkCrc e then none
    else if (if answer then rsp.getD false else s.reading (entData e) (entLen e)) then none
    else if x.st = 2 && !answer then none else some e

/-- Take it: IN_CONS moves on. -/
def State.takeIn (s : State) (r : Nat) : State :=
  match s.ring r with
  | none => s
  | some x =>
    (s.setRing r { x with inCons := x.inCons + 1, received := x.received + 1 }).ringWrite r (x.base + 256) (leBytes 4 (x.inCons + 1).toNat)

/-- One step over the head entry: skip bad entries, then act on one of these OPs. A ring that cannot be read
enters ERROR; without room for an answer the entry stays. -/
def State.onEntry (s : State) (r : Nat) (ops : Nat → Bool) (f : Ring → Bytes → State → State) : State :=
  if (!s.link.standalone && s.pwr.d3hot) || s.stopping then s else
  let s := State.skipBad r 65536 s
  match s.ring r, s.inEntry r with
  | some x, some e =>
    if s.ringLost (x.inAt x.inCons) 64 then s.ringError r
    else if ops (entOp e) then f x e s else s
  | _, _ => s

/-- Post an answer with data at the entry's RSP_ADDR; RSP_LEN says how much. -/
def State.fordAnswer (s : State) (r : Nat) (e : Bytes) (op status : Nat) (data : Bytes) : State :=
  let s := if data.isEmpty then s else s.ringWrite r (entRsp e) data
  match s.ring r with
  | none => s
  | some x =>
    let s := s.setRing r { x with served := x.served + 1, converted := x.converted + data.length, inexact := x.inexact + b2n (status == 9) }
    match s.ring r with
    | some x => s.outEntry r x op 0 status (entGen e) (slice e 4 32 ++ leBytes 8 (if data.isEmpty then 0 else entRsp e) ++ leBytes 4 data.length)
    | none => s

/-- The LOCAL shard's set, its table's key and the table that an entry names (R619). -/
def State.localTable (s : State) (r : Nat) (e : Bytes) : Option (TSet × Nat × Table) :=
  match (s.shardsOn r (2 ^ 16)).find? fun x => u8 x.2 1 = 1 && u32 x.2 4 = entTable e with
  | none => none
  | some (_, p) =>
    match look s.core.sets (u8 p 11), look s.core.tables (tableKey (u8 p 11) (u16 p 12)) with
    | some x, some t => if x.valley = r / 16 && t.live (s.valley x.valley).bnd then some (x, tableKey (u8 p 11) (u16 p 12), t) else none
    | _, _ => none

/-- Status of an entry's epoch as R229 checks it: none where it is live. -/
def epochStatus (x : TSet) (epoch : Nat) : Option Nat :=
  if epoch = 0 then none else if epochAfter x.oldest epoch then some 2 else if epochAfter epoch x.newest then some 3 else none

/-- A row of a LOCAL table: payload and scales, or a status; a default row used is counted (R257). -/
def State.localRow (s : State) (rd : Reader) (key : Nat) (t : Table) (epoch row : Nat) : State × Except Nat StoredRow :=
  if !s.mapThere rd t then (s.recordLost rd t.map (16 * t.slots) (row / 2 ^ t.shift), .error 4)
  else if t.rows ≤ row then (s, .error 5)
  else
    let slot := row / 2 ^ t.shift
    let a := t.map + 16 * slot + 8 * (epoch % 2)
    if s.poisoned a 8 then (s.recordLost rd a 8 slot, .error 4)
    else
      let s := s.fetch rd.valley a 8
      let e := s.mapEntry t slot epoch
      if badEntry6 e then (s, .error 4)
      else if isT3 e then (s, .error 1)
      else if tierOf e = 0 then
        let s := s.updTable key fun t => { t with missing := t.missing + 1 }
        match s.readDefault rd t with
        | (s, some x) => (s, .ok x)
        | (s, none) => (s, .error 4)
      else match s.readRow rd t (baseOf e) (row % 2 ^ t.shift) row with
      | (s, some x) => (s, .ok x)
      | (s, none) => (s, .error 4)

/-- Rows in order, until the first that fails. -/
def State.localRows (s : State) (rd : Reader) (key : Nat) (t : Table) (epoch : Nat) (rows : List Nat) : State × List (Except Nat StoredRow) :=
  rows.foldl (fun (acc : State × List (Except Nat StoredRow)) row =>
    let (s, x) := acc.1.localRow rd key t epoch row
    (s, acc.2 ++ [x])) (s, [])

def firstError (l : List (Except Nat StoredRow)) : Option Nat :=
  l.findSome? fun x => match x with | .error c => some c | .ok _ => none

def State.fordReader (s : State) (r : Nat) : Reader :=
  { valley := r / 16, bnd := s.bndNow (r / 16), creek := (s.valleyCreeks (r / 16)).headD 0, source := 8 }

/-- Bad GEN, length or format of a request entry. -/
def entBad (x : Ring) (e : Bytes) : Bool := entGen e ≠ x.gen

/-- Serve a request of the older device on a LOCAL shard. `waited`: the epoch wait of R229 has run out. -/
def State.serveLocal (s : State) (r ans : Nat) (x : Ring) (e : Bytes) (waited : Bool)
    (f : Nat → Table → Nat → State → State × Nat × Bytes) : State :=
  if x.full then s
  else if entBad x e then (s.takeIn r).fordAnswer r e ans 6 []
  else match s.localTable r e with
  | none => (s.takeIn r).fordAnswer r e ans 1 []
  | some (y, key, t) =>
    match epochStatus y (entEpoch e) with
    | some 3 => if waited then (s.takeIn r).fordAnswer r e ans 3 [] else s
    | some st => (s.takeIn r).fordAnswer r e ans st []
    | none =>
      let epoch := if entEpoch e = 0 then y.newest else entEpoch e
      if !offers (entGen e) t.fmt t.group then (s.takeIn r).fordAnswer r e ans 8 []
      else
        let (s, st, d) := f key t epoch (s.takeIn r)
        s.fordAnswer r e ans st d

/-- Pool the rows of a LOOKUP under the entry's generation: a bag of the valley's, and counted as one (R257). -/
def State.localLookup (s : State) (r : Nat) (e : Bytes) (key : Nat) (t : Table) (epoch : Nat) : State × Nat × Bytes :=
  let ib := if entIdx64 e then 8 else 4
  let f := entFmt e
  let gen := entGen e
  if 8192 < entCount e || entLen e < entCount e * ib || entPool e = 0 || 3 < entPool e || entW e ≠ t.width || 5 < f ||
      entRspLen e < vecStride gen f t.width then (s, 6, [])
  else if !offersFmt gen f then (s, 8, [])
  else
    let b := s.ringRead (entData e) (entCount e * ib)
    let rows := (List.range (entCount e)).map fun i => leNat (slice b (i * ib) ib)
    let s := s.updTable key fun t => { t with lookups := t.lookups + rows.length }
    let (s, l) := s.localRows (s.fordReader r) key t epoch rows
    match firstError l with
    | some c => (s.updTable key fun t => { t with poisoned := t.poisoned + b2n (c == 4) }, c, [])
    | none =>
      let vals := l.map fun x => match x with | .ok y => t.values y | .error _ => []
      let out := (List.range t.width).flatMap fun j =>
        leBytes (elemBits f / 8) (confluence gen f 0x3F800000 0 (Sys2Proof.Machine.pool (entPool e) gen (vals.map fun v => v.getD j Num.zero) []))
      (s, 0, toVector gen f t.width out)

def execFordInLookup (ring : Nat) (waited : Bool) (s : State) : Out :=
  .next (s.onEntry ring (· = 1) fun x e s =>
    s.serveLocal ring 2 x e waited fun key t epoch s => s.localLookup ring e key t epoch)

/-- Rows of a ROW_GET: a status byte each, then the rows in the older layout. -/
def State.localGet (s : State) (r : Nat) (e : Bytes) (key : Nat) (t : Table) (epoch : Nat) : State × Nat × Bytes :=
  let n := entCount e
  let gen := entGen e
  let stride := foreignStride gen t.payload t.scales
  if n = 0 || 4096 < n || entRspLen e < n * (1 + stride) then (s, 6, [])
  else
    let (s, l) := s.localRows (s.fordReader r) key t epoch ((List.range n).map (entRow e + ·))
    let sts := l.flatMap fun x => match x with | .ok _ => leBytes 1 0 | .error c => leBytes 1 c
    let rows := l.flatMap fun x => match x with
      | .ok y => toForeign gen t.fmt y.payload y.scales
      | .error _ => zeros stride
    (s, 0, sts ++ rows)

def execFordInRowGet (ring : Nat) (waited : Bool) (s : State) : Out :=
  .next (s.onEntry ring (· = 3) fun x e s =>
    s.serveLocal ring 4 x e waited fun key t epoch s => s.localGet ring e key t epoch)

/-- A VEC: to the oldest receive that waits for its XTAG, or held, or NO_ROOM (R620). -/
def execFordInVec (ring : Nat) (s : State) : Out :=
  .next (s.onEntry ring (· = 7) fun x e s =>
    if x.full then s
    else if entBad x e then (s.takeIn ring).vecAck ring e 6
    else
      let s := s.takeIn ring
      let waits := (s.fordJobs ring).find? fun j =>
        u32 j.2.desc 44 = entTable e && ((look s.core.reqs j.1).map fun q => q.op == 0x22).getD false
      match waits with
      | some (i, j) => s.vecGive i j e
      | none =>
        if 256 ≤ x.held.length then s.vecAck ring e 7
        else s.updRing ring fun y => { y with held := y.held ++ [e] })

/-- A ROW_PUT is refused, and an OP that Table 16.8 does not list is malformed. -/
def execFordInRowPut (ring : Nat) (s : State) : Out :=
  .next (s.onEntry ring (fun op => op = 5 || op = 0 || 8 < op) fun x e s =>
    if x.full then s
    else if entOp e = 5 then (s.takeIn ring).fordAnswer ring e 6 8 []
    else (s.takeIn ring).fordAnswer ring e (entOp e) 6 [])

/-! ## Answers (R629) -/

/-- Completion code of a ring status. -/
def ringCode : Nat → Nat
  | 0 => 0 | 2 => 0x14 | 3 => 0x14 | 4 => 0x12 | 5 => 0x13 | 9 => 0x0A | _ => 0x15

/-- Rows of a ROW_DATA in layout 84, or the status of the first that fails. -/
def rowsIn (gen : Nat) (x : Shard) (n : Nat) (d : Bytes) : Except Nat (List (Bytes × Bytes)) :=
  let stride := foreignStride gen (shPayload x) (shScales x)
  (List.range n).foldl (fun (acc : Except Nat (List (Bytes × Bytes))) k =>
    match acc with
    | .error c => .error c
    | .ok l =>
      if u8 d k ≠ 0 then .error (u8 d k)
      else match fromForeign gen (shFmt x) (shPayload x) (shScales x) (slice d (n + k * stride) stride) with
      | .error c => .error c
      | .ok p => .ok (l ++ [p])) (.ok [])

/-- A block of rows from index ROW on (R617). -/
def rowBlock (x : Shard) (row n : Nat) (l : List (Bytes × Bytes)) : Bytes :=
  let slots := (l.zipIdx).flatMap fun p =>
    fit (shStride x) (p.1.1 ++ leBytes 4 (rowCrc (row + p.2) p.1.2 p.1.1).toNat)
  fit (shScaleOff x n) slots ++ fit (shBlock x n - shScaleOff x n) (l.flatMap fun p => p.2)

/-- The data of a successful answer in layout 84, or the status it turns out to have. -/
def Exchange.result (x : Exchange) (gen : Nat) (d : Bytes) : Except Nat Bytes :=
  if x.op = 1 then .ok (fromVector gen (u8 x.job.desc 13) (shW x.job.shard) d)
  else if x.op = 3 then
    match rowsIn gen x.job.shard (u32 x.job.desc 8) d with
    | .ok l => .ok (rowBlock x.job.shard (u64 x.job.desc 32) (u32 x.job.desc 8) l)
    | .error c => .error c
  else .ok []

/-- An answer's exchange ends; `datapath`: Ford's own datapath erred on it. -/
def State.fordFinish (s : State) (r : Nat) (ring : Ring) (x : Exchange) (e : Bytes) (datapath : Bool) : State :=
  let s := s.dropExchange r (entXid e)
  match look s.core.reqs x.req with
  | none => s
  | some q =>
    if datapath then
      let s := s.error { source := 8, event := 6, cls := 8, valley := q.valley, ctx := q.ctx, scope := 1, cmpl := 0x17 } [{ cls := 8, idx := 0 }]
      s.fordEnd x.req 0x17
    else if entStatus e ≠ 0 then s.fordEnd x.req (ringCode (entStatus e))
    else match x.result ring.gen (s.ringRead x.rspAt x.rspLen) with
    | .error c => (s.updRing r fun y => { y with inexact := y.inexact + b2n (c == 9) }).fordEnd x.req (ringCode c)
    | .ok d =>
      let (s, code) := s.fordStore q x.req x.job d
      (s.updRing r fun y => { y with converted := y.converted + x.rspLen }).fordEnd x.req code

def execFordInAnswer (ring : Nat) (datapath : Bool) (s : State) : Out :=
  .next (s.onEntry ring (fun op => op = 2 || op = 4 || op = 6 || op = 8) fun x e s =>
    let s := s.takeIn ring
    match look x.exch (entXid e) with
    | some y =>
      if entOp e ≠ y.op + 1 then s
      else if s.ringLost y.rspAt (max 1 y.rspLen) then s.ringError ring
      else ((s.fordFinish ring x y e datapath).fordPump ring).closeRing ring
    | none => s.updRing ring fun y => { y with late := y.late + 1 })

/-- RESP_TIMEOUT_US passes for an exchange. -/
def execFordExchangeTimeout (ring xid : Nat) (s : State) : Out :=
  .next (match s.ring ring with
    | none => s
    | some x => match look x.exch xid with
      | none => s
      | some e =>
        let s := s.advanceTo (e.sent + 1000 * x.timeoutUs)
        ((((s.dropExchange ring xid).fordEnd e.req 0x0E).fordPump ring).closeRing ring))

end Sys2Proof.Machine
end

