-- ==== Sys2Proof/Machine/Canyon.lean ====
section
/-! DEFINITION. Canyon (17): contexts, keys and triples, the eight commands with their checks, and the operations
on the pipelines. -/
namespace Sys2Proof.Machine
open Sys2Proof

/-! ## Contexts (R639, R644, R645) -/

def CynCtx.mode (x : CynCtx) : Nat := u8 x.pay 1
def CynCtx.ctx (x : CynCtx) : Nat := u16 x.pay 2
def CynCtx.log2 (x : CynCtx) : Nat := u8 x.pay 4
def CynCtx.limbs (x : CynCtx) : Nat := u8 x.pay 5
def CynCtx.party0 (x : CynCtx) : Bool := u8 x.pay 6 = 0
def CynCtx.keyAt (x : CynCtx) (slot : Nat) : Nat := u64 x.pay 16 + slot * keyBytes x.log2 x.limbs
def CynCtx.pool (x : CynCtx) : Nat := u64 x.pay 32
def CynCtx.cap (x : CynCtx) : Nat := u32 x.pay 40
def CynCtx.lowWater (x : CynCtx) : Nat := u32 x.pay 44
def CynCtx.tripleAt (x : CynCtx) (i : Nat) : Nat := x.pool + 24 * (i % x.cap)
def CynCtx.stateAt (x : CynCtx) (i : Nat) : Nat := x.pool + 24 * x.cap + i % x.cap

/-- Key area and pool of an enable message: address and bytes. -/
def cynAreas (p : Bytes) : List (Nat × Nat) :=
  (if u8 p 1 = 2 || u64 p 24 = 0 then [] else [(u64 p 16, u64 p 24)]) ++ (if u8 p 1 = 2 then [(u64 p 32, 25 * u32 p 40)] else [])

def State.cynCtx (s : State) (c : Nat) : Option CynCtx := look s.cyn.ctxs c
def State.setCyn (s : State) (c : Nat) (x : CynCtx) : State := { s with cyn := { s.cyn with ctxs := put s.cyn.ctxs c x } }
def State.updCyn (s : State) (c : Nat) (f : CynCtx → CynCtx) : State :=
  match s.cynCtx c with
  | some x => s.setCyn c (f x)
  | none => s

/-- Pipelines of a valley that are not retired. -/
def State.cynPipes (s : State) (v : Nat) : List Nat :=
  match s.profile v with
  | some p => (bitsOf p.cynPipes.toNat 8).filter fun k => !s.isRetired 9 k
  | none => []

/-- The pipelines that serve a request's stamp (R25): those of the profile at its boundary. -/
def State.cynPipesFor (s : State) (r : Request) : List Nat :=
  match s.profileAt r.valley r.stamp.bnd with
  | some p => (bitsOf p.cynPipes.toNat 8).filter fun k => !s.isRetired 9 k
  | none => []

/-- State of a triple: 0 FREE, 1 LOADED, 2 MASKED. -/
def State.triple (s : State) (x : CynCtx) (i : Nat) : Nat := (rd s.mem (x.stateAt i)).toNat
def State.triples (s : State) (x : CynCtx) (st : Nat) : Nat := ((List.range x.cap).filter fun i => s.triple x i = st).length

/-- Commands of a Canyon context queued or running. -/
def State.cynJobs (s : State) (c : Nat) : TMap CynJob := s.cyn.jobs.filter fun j => j.2.ctx = c

/-- TRIPLES_LOW, once each time LOADED falls below LOW_WATER (R675). -/
def State.tripleLevel (s : State) (c : Nat) : State :=
  match s.cynCtx c with
  | none => s
  | some x =>
    let n := s.triples x 1
    if x.lowWater ≤ n then s.setCyn c { x with low := false }
    else if x.low then s
    else (s.setCyn c { x with low := true }).event 9 1 c (leBytes 4 n) (some (c / 8))

/-! ## Messages (R670-R674) -/

def noCyn (_ : Req) (s : State) : Bool := !s.hasCyn
def cynDenied (r : Req) (_ : State) : Bool := u8 r.pay 0 ≤ 63 && u8 r.pay 0 / 8 ≠ r.via.mbx

/-- A range in one HBM region of the valley. -/
def State.inRegion (s : State) (v a n : Nat) : Bool := s.inTier v 2 a n && hbmRegion a = hbmRegion (a + n - 1)

def cynField (p : Bytes) : Option Nat :=
  let rlwe := u8 p 1 ≠ 2
  firstBad [(63 < u8 p 0, 0), (2 < u8 p 1, 1), (127 < u16 p 2, 2), (rlwe && (u8 p 4 < 12 || 17 < u8 p 4), 4),
    (rlwe && (u8 p 5 = 0 || 64 < u8 p 5), 5), (rlwe && u64 p 24 < 2 * keyBytes (u8 p 4) (u8 p 5), 24),
    (!rlwe && (u32 p 40 = 0 || 2 ^ 28 < u32 p 40), 40)]

/-- Enable a Canyon context, its fields checked. -/
def State.enableCyn (s : State) (p : Bytes) : Res :=
  let c := u8 p 0
  let v := c / 8
  let share := u8 p 1 = 2
  let mine := cynAreas p
  let others := (s.cyn.ctxs.filter fun x => x.1 / 8 = v).flatMap fun x => cynAreas x.2.pay
  let chain := if share then [] else (List.range (u8 p 5)).map fun i => u64 (s.bytes (u64 p 8) (8 * u8 p 5)) (8 * i)
  if ((s.profile v).map fun q => q.cynPipes.toNat).getD 0 = 0 || (look s.core.ctxs (ctxKey v (u16 p 2))).isNone ||
      (share && u64 p 24 ≠ 0) || (!share && !s.t1OrHost v (u64 p 8) (8 * u8 p 5)) ||
      mine.any (fun a => !s.inRegion v a.1 a.2 || s.claimed v a.1 a.2 || others.any fun b => overlaps a.1 a.2 b.1 b.2)
  then Res.fail s .conflict
  else if s.poisoned (u64 p 8) (8 * chain.length) then Res.fail s .checkFailed 0xFFFFFFFF
  else match badLimb (2 ^ u8 p 4) chain with
  | some i => Res.fail s .checkFailed i
  | none =>
    let crc := if share then 0 else chainCrc chain
    let s := mine.foldl (fun s a => s.zeroFill a.1 a.2) s
    let s : State := { s with cyn := { s.cyn with areas := s.cyn.areas ++ mine } }
    Res.okay (s.setCyn c { pay := p, chain, crc, low := share }) (leBytes 4 crc ++ zeros 4)

/-- The enable message without its reserved byte. -/
def cynPay (p : Bytes) : Bytes := p.take 7 ++ zeros 1 ++ slice p 8 40

def cynCtxEnable : Msg where
  op := 0x0901
  mark := .v
  cls := .o
  len := lenIs 48
  absent := noCyn
  denied := cynDenied
  field := fun r _ => cynField r.pay
  run := fun r s =>
    let p := cynPay r.pay
    match s.cynCtx (u8 p 0) with
    | none => s.enableCyn p
    | some x =>
      if x.st = 1 then (if x.pay = p then Res.okay s (leBytes 4 x.crc ++ zeros 4) else Res.fail s .conflict)
      else if x.shut.held.isSome then Res.fail s .busy
      else Res.pend (s.setCyn (u8 p 0) { x with shut := { x.shut with held := some (r.deferred, p) } })

def execCynCtxEnable (via : Via) (s : State) : Out := serve cynCtxEnable via s

def cynCtxDisable : Msg where
  op := 0x0902
  mark := .v
  cls := .d
  len := lenIs 4
  absent := noCyn
  denied := cynDenied
  field := fun r _ => firstBad [(63 < u8 r.pay 0, 0)]
  run := fun r s =>
    let c := u8 r.pay 0
    match s.cynCtx c with
    | none => Res.okay s
    | some x =>
      if x.st = 1 then Res.pend (s.setCyn c { x with st := 2, shut := { dones := [r.deferred] } })
      else
        { s := s.setCyn c { x with shut := { dones := x.shut.dones ++ [r.deferred] } }
          st := .pending
          after := fun s => match x.shut.held with
            | some h => s.done h.1 .conflict 0 []
            | none => s }

def execCynCtxDisable (via : Via) (s : State) : Out := serve cynCtxDisable via s

/-- Nothing of the context is queued or running: its areas are zeroed, and a held enable runs (R665, R68). -/
def execCynCtxShutdownDone (ctx : Nat) (s : State) : Out :=
  .next (match s.cynCtx ctx with
    | none => s
    | some x =>
      if x.st ≠ 2 || !(s.cynJobs ctx).isEmpty then s else
      let s := (cynAreas x.pay).foldl (fun s a => s.zeroFill a.1 a.2) s
      let s : State := { s with cyn := { s.cyn with ctxs := del s.cyn.ctxs ctx } }
      let s := x.shut.dones.foldl (fun s d => s.done d .ok 0 []) s
      match x.shut.held with
      | none => s
      | some (d, p) =>
        let r := s.enableCyn p
        r.s.done d r.st r.detail r.pay)

/-- A RELIN of the context, queued or running, names this slot (R663). -/
def State.keyBusy (s : State) (c slot : Nat) : Bool :=
  (s.cynJobs c).any fun j => j.2.op = 0x2A && b2n (bit (u8 j.2.desc 2) 0) = slot

/-- The header of a copied key is that of the context (R644). -/
def keyGood (x : CynCtx) (h : Bytes) : Bool :=
  u32 h 0 = 0x594B5943 && u8 h 4 = 1 && u8 h 5 = 0 && u8 h 6 = x.log2 && u8 h 7 = x.limbs && u32 h 8 = x.crc &&
  (crc32c (h.take 60)).toNat = u32 h 60

/-- Copy and check a key, or clear its slot. -/
def State.loadKey (s : State) (c : Nat) (x : CynCtx) (p : Bytes) : State × St × Nat :=
  let slot := u8 p 1
  let k := keyBytes x.log2 x.limbs
  let empty := s.setCyn c { x with slots := x.slots.erase slot }
  if bit (u8 p 2) 0 then (empty.zeroFill (x.keyAt slot) k, .ok, 0)
  else if u64 p 16 ≠ k then (empty, .checkFailed, 0)
  else if s.poisoned (u64 p 8) k then (empty, .checkFailed, 0xFFFFFFFF)
  else
    let t := empty.writeThrough (x.keyAt slot) (s.bytes (u64 p 8) k)
    if keyGood x (s.bytes (u64 p 8) 64) then (t.updCyn c fun y => { y with slots := insertSorted slot y.slots }, .ok, 0)
    else (t, .checkFailed, 0)

def cynKeyLoad : Msg where
  op := 0x0903
  mark := .v
  cls := .o
  len := lenIs 24
  absent := noCyn
  denied := cynDenied
  field := fun r _ => firstBad [(63 < u8 r.pay 0, 0), (1 < u8 r.pay 1, 1)]
  run := fun r s =>
    let c := u8 r.pay 0
    match s.cynCtx c with
    | none => Res.fail s .conflict
    | some x =>
      if x.st ≠ 1 || x.mode = 2 || (!bit (u8 r.pay 2) 0 && !s.t1OrHost r.via.mbx (u64 r.pay 8) (u64 r.pay 16)) then Res.fail s .conflict
      else if s.keyBusy c (u8 r.pay 1) then Res.fail s .busy
      else { s, st := .pending
             after := fun s =>
               let (s, st, d) := s.loadKey c x r.pay
               s.done r.deferred st d [] }

def execCynKeyLoad (via : Via) (s : State) : Out := serve cynKeyLoad via s

def cynTriplesLoad : Msg where
  op := 0x0904
  mark := .v
  cls := .o
  len := lenIs 16
  absent := noCyn
  denied := cynDenied
  field := fun r _ => firstBad [(63 < u8 r.pay 0, 0)]
  run := fun r s =>
    let c := u8 r.pay 0
    let n := u32 r.pay 4
    match s.cynCtx c with
    | none => Res.fail s .conflict
    | some x =>
      if x.st ≠ 1 || x.mode ≠ 2 || (n ≠ 0 && !s.t1OrHost r.via.mbx (u64 r.pay 8) (24 * n)) then Res.fail s .conflict
      else if x.cap < n || (List.range n).any fun i => s.triple x (x.loadIdx + i) ≠ 0 then Res.fail s .noResource
      else if s.poisoned (u64 r.pay 8) (24 * n) then Res.fail s .checkFailed 0xFFFFFFFF
      else
        let t := (List.range n).foldl (fun t i =>
          (t.writeThrough (x.tripleAt (x.loadIdx + i)) (s.bytes (u64 r.pay 8 + 24 * i) 24)).writeThrough (x.stateAt (x.loadIdx + i)) [1]) s
        Res.okay ((t.setCyn c { x with loadIdx := (x.loadIdx + n) % x.cap }).tripleLevel c)

def execCynTriplesLoad (via : Via) (s : State) : Out := serve cynTriplesLoad via s

def cynQuery : Msg where
  op := 0x0905
  mark := .v
  cls := .q
  len := lenIs 4
  absent := noCyn
  denied := cynDenied
  field := fun r _ => firstBad [(63 < u8 r.pay 0, 0)]
  run := fun r s =>
    let c := u8 r.pay 0
    let x := s.cynCtx c
    let y := x.getD { pay := [] }
    let share := x.isSome && y.mode = 2
    Res.okay s (leBytes 1 ((x.map (·.st)).getD 0) ++ leBytes 1 y.mode ++ leBytes 1 y.log2 ++ leBytes 1 y.limbs ++ leBytes 4 y.crc ++
      leBytes 1 (maskOf y.slots) ++ leBytes 1 (maskOf (s.cynPipes (c / 8))) ++ zeros 2 ++ leBytes 4 (s.cynJobs c).length ++
      leBytes 4 (if share then s.triples y 1 else 0) ++ leBytes 4 (if share then s.triples y 2 else 0) ++
      leBytes 4 (if share then s.triples y 0 else 0) ++ leBytes 8 y.ops ++ leBytes 8 y.levelRefused ++ leBytes 8 y.poisoned ++ zeros 12)

def execCynQuery (via : Via) (s : State) : Out := serve cynQuery via s

/-! ## Commands: form and ownership (R649, R650 steps 1 and 2) -/

def cynDesc (inline : Bytes) (nhandle : Nat) : Bytes := slice inline (ceilDiv (4 * nhandle) 8 * 8) 64
def Request.cynDesc (r : Request) (nhandle : Nat) : Bytes := Sys2Proof.Machine.cynDesc r.inline nhandle

def subMax : Nat → Nat
  | 0x28 => 3 | 0x29 => 1 | 0x2D => 3 | _ => 0

/-- Operations that take IN1, and that take SCALAR. -/
def takesIn1 (op sub : Nat) : Bool := ((op = 0x28 || op = 0x2D) && sub ≤ 1) || op = 0x29 || op = 0x2E
def takesScalar (op sub : Nat) : Bool := (op = 0x28 && sub = 3) || (op = 0x2D && 2 ≤ sub)

/-- An operand word is wrong where it is used, or not zero where it is not. -/
def badOperand (d : Bytes) (o nhandle : Nat) (used : Bool) : Bool :=
  if used then u64 d o / 256 % 2 ^ 24 ≠ 0 || u64 d o / 2 ^ 32 % 64 ≠ 0 || nhandle ≤ u8 d o else u64 d o ≠ 0

def cynBad (op n : Nat) (s : State) (r : Request) : Bool :=
  let d := r.cynDesc n
  let sub := u8 d 1
  let score := op = 0x2C
  r.inline.length ≠ ceilDiv (4 * n) 8 * 8 + 64 || subMax op < sub ||
  (if op = 0x2A then 1 < u8 d 2 else u8 d 2 ≠ 0) || u8 d 3 ≠ 0 || u16 d 54 ≠ 0 || !s.syncOk r.valley r.stamp.bnd (u32 d 4) ||
  badOperand d 8 n true || badOperand d 16 n (takesIn1 op sub) || badOperand d 24 n true ||
  badOperand d 32 n score || badOperand d 56 n score || (!takesScalar op sub && u64 d 40 ≠ 0) ||
  (if score then 2 ^ 18 ≤ u32 d 48 || u16 d 52 = 0 else u32 d 48 ≠ 0 || u16 d 52 ≠ 0)

/-- Step 2: the Canyon context is the command's, and the valley has a pipeline. -/
def cynRefuse (n : Nat) (s : State) (r : Request) : Option (Nat × Nat) :=
  let c := u8 (r.cynDesc n) 0
  match s.cynCtx c with
  | some x => if c / 8 ≠ r.valley || x.st ≠ 1 || x.ctx ≠ r.ctx || (s.cynPipes r.valley).isEmpty then some (0x0A, 0) else none
  | none => some (0x0A, 0)

/-! ## Operands (R648, R650 step 3) -/

/-- One scratch group or one HBM region of the valley holds the range. -/
def State.cynPlace (s : State) (r : Request) (a n : Nat) : Bool :=
  let last := a + n - 1
  if inScratch a && inScratch last then a / scratchSize == last / scratchSize && (s.group (a / scratchSize)).owner == some r.valley
  else inHbm a && inHbm last && hbmRegion a == hbmRegion last &&
    ((s.profileAt r.valley r.stamp.bnd).map fun p => p.hbmRegions.getLsbD (hbmRegion a)).getD false

/-- The local address of n bytes of an operand, or the code. -/
def State.cynRange (s : State) (r : Request) (hs : List Bytes) (w n : Nat) (write : Bool) : Except Nat Nat :=
  let e := handleOf (hs.getD (w % 256) [])
  let off := w / 2 ^ 32
  if !e.ok || !(if write then e.write else e.read) || e.len < off + n then .error 0x19
  else if s.isRemote (e.base + off) || !s.cynPlace r (localOf (e.base + off)) n then .error 0x16
  else if !rangeAll (s.populatedFor r.valley r.stamp.bnd) (localOf (e.base + off)) n then .error 0x11
  else .ok (localOf (e.base + off))

/-- An input: its address and header, its whole range checked where the header says how long it is. -/
def State.cynInput (s : State) (r : Request) (hs : List Bytes) (w : Nat) : Except Nat (Nat × Bytes) :=
  match s.cynRange r hs w 64 false with
  | .error c => .error c
  | .ok a =>
    let h := s.bytes a 64
    if s.poisoned a 64 then .error 0x17
    else if !hdrSound h then .ok (a, h)
    else match s.cynRange r hs w (hdrBytes h) false with
    | .error c => .error c
    | .ok a => .ok (a, h)

/-- Bytes of OUT0. -/
def outBytes (op sub : Nat) (h : Bytes) : Nat :=
  let n := hdrLog2 h
  let l := hdrLimbs h
  if !hdrSound h then 64
  else if op = 0x29 && sub = 0 then operandBytes 0 3 n l 0
  else if op = 0x2A then operandBytes 0 2 n l 0
  else if op = 0x2B then operandBytes 0 (hdrParts h) n (l - 1) 0
  else if op = 0x2E then operandBytes 3 0 0 0 (hdrCount h)
  else if op = 0x2F then operandBytes 2 0 0 0 (hdrCount h)
  else hdrBytes h

/-- What the checks of step 3 find: the operands' addresses and headers. -/
structure CynArgs where
  in0 : Nat
  in1 : Nat := 0
  out0 : Nat
  out1 : Nat := 0
  idx : Nat := 0
  hdr0 : Bytes
  hdr1 : Bytes := []
deriving DecidableEq, Repr

/-- OUT0 may be IN0 for these (R662). -/
def inPlace (op : Nat) : Bool := op = 0x28 || op = 0x2B || op = 0x2D

/-- An output overlaps an input. -/
def CynArgs.clash (a : CynArgs) (op sub m : Nat) : Bool :=
  let size := fun (h : Bytes) => if hdrSound h then hdrBytes h else 64
  let outs := [(a.out0, outBytes op sub a.hdr0)] ++ (if op = 0x2C then [(a.out1, 4 * m)] else [])
  outs.any (fun o => (takesIn1 op sub && overlaps o.1 o.2 a.in1 (size a.hdr1)) || (op = 0x2C && overlaps o.1 o.2 a.idx (4 * m))) ||
  (overlaps a.out0 (outBytes op sub a.hdr0) a.in0 (size a.hdr0) && !(inPlace op && a.out0 = a.in0)) ||
  (op = 0x2C && overlaps a.out1 (4 * m) a.in0 (size a.hdr0))

def State.cynArgs (s : State) (op : Nat) (r : Request) (hs : List Bytes) (d : Bytes) : Except Nat CynArgs :=
  let sub := u8 d 1
  let m := u16 d 52
  match s.cynInput r hs (u64 d 8), (if takesIn1 op sub then s.cynInput r hs (u64 d 16) else .ok (0, [])) with
  | .error c, _ => .error c
  | _, .error c => .error c
  | .ok (in0, hdr0), .ok (in1, hdr1) =>
    match s.cynRange r hs (u64 d 24) (outBytes op sub hdr0) true,
        (if op = 0x2C then s.cynRange r hs (u64 d 32) (4 * m) true else .ok 0),
        (if op = 0x2C then s.cynRange r hs (u64 d 56) (4 * m) false else .ok 0) with
    | .ok out0, .ok out1, .ok idx =>
      let a : CynArgs := { in0, in1, out0, out1, idx, hdr0, hdr1 }
      if a.clash op sub m then .error 0x16 else .ok a
    | .error c, _, _ => .error c
    | _, .error c, _ => .error c
    | _, _, .error c => .error c

/-! ## Headers, kinds and levels (R650 steps 4 to 6) -/

/-- Step 4 for one header. -/
def CynCtx.hdrRefuse (x : CynCtx) (h : Bytes) : Option Nat :=
  if !hdrSound h then some 0x16
  else if hdrPoly h && (hdrLog2 h ≠ x.log2 || hdrLimbs h = 0 || x.limbs < hdrLimbs h) then some 0x16
  else if x.mode = 0 && hdrKind h = 0 && hdrLimbs h ≤ hdrLevel h then some 0x16
  else if !hdrPoly h && (hdrCount h = 0 || 2 ^ 24 < hdrCount h) then some 0x16
  else if hdrPoly h && hdrCrc h ≠ x.crc then some 0x0A else none

/-- Step 5: the operation fits the MODE, the operands fit the operation (Table 17.4). -/
def CynCtx.fits (x : CynCtx) (op sub slot : Nat) (h0 h1 : Bytes) : Bool :=
  let p := hdrParts h0
  let l := hdrLimbs h0
  let ct := hdrKind h0 = 0 && (p = 2 || p = 3)
  if op ≤ 0x2C then
    x.mode < 2 && ct &&
    (if op = 0x28 then sub ≥ 2 || (hdrKind h1 = 0 && hdrParts h1 = p && hdrLimbs h1 = l)
      else if op = 0x29 && sub = 0 then p = 2 && hdrKind h1 = 0 && hdrParts h1 = 2 && hdrLimbs h1 = l
      else if op = 0x29 then hdrKind h1 = 1 && hdrParts h1 = 1 && hdrLimbs h1 = l
      else if op = 0x2A then p = 3 && decide (slot ∈ x.slots)
      else if op = 0x2B then decide (2 ≤ l)
      else p = 2)
  else
    x.mode = 2 &&
    (if op = 0x2D then hdrKind h0 = 2 && (sub ≥ 2 || (hdrKind h1 = 2 && hdrCount h1 = hdrCount h0))
      else if op = 0x2E then hdrKind h0 = 2 && hdrKind h1 = 2 && hdrCount h1 = hdrCount h0
      else hdrKind h0 = 4)

/-- Step 6 (Table 17.6), in TAGGED mode. -/
def levelRefuse (op sub : Nat) (h0 h1 : Bytes) : Option Nat :=
  let ready := fun (h : Bytes) => 1 ≤ hdrLevel h && !hdrRescale h
  if op = 0x28 && sub ≤ 1 then
    if hdrLevel h0 = hdrLevel h1 && hdrRescale h0 = hdrRescale h1 then none else some 0x0A
  else if op = 0x29 && sub = 0 then
    if ready h0 && ready h1 && hdrLevel h0 = hdrLevel h1 then none else some 0x0B
  else if op = 0x29 || op = 0x2C then (if ready h0 then none else some 0x0B)
  else if op = 0x2B then (if 1 ≤ hdrLevel h0 then none else some 0x0B)
  else none

/-- Triples that masks not yet finished will take. -/
def State.maskPending (s : State) (c : Nat) : Nat :=
  (((s.cynJobs c).filter fun j => j.2.op = 0x2E).map fun j => hdrCount j.2.hdr0).sum

/-- The triples an operation needs (R656, R664). -/
def State.tripleRefuse (s : State) (c : Nat) (x : CynCtx) (op : Nat) (h0 : Bytes) : Option Nat :=
  let n := hdrCount h0
  if op = 0x2E then
    if x.cap < n + s.maskPending c || (List.range n).any fun i => s.triple x (x.maskIdx + i) ≠ 1 then some 0x0B else none
  else if op = 0x2F then
    if x.cap < n || x.cap ≤ hdrFirst h0 || (List.range n).any fun i => s.triple x (hdrFirst h0 + i) ≠ 2 then some 0x0A else none
  else none

/-! ## The rows of SCORE (R654) -/

/-- A row as SCORE takes it: payload and scale entries. What a row of another node holds is not the device's to
read as integers: free (notes/assumptions/29.md). -/
def State.scoreRow (s : State) (rd : Reader) (key : Nat) (t : Table) (epoch row : Nat) : State × Except Nat (Bytes × Bytes) :=
  match s.localRow rd key t epoch row with
  | (s, .ok x) => (s, .ok (x.payload, x.scales))
  | (s, .error 1) =>
    let (p, s) := s.drawBytes 5 t.payload
    let (z, s) := s.drawBytes 5 4
    (s, .ok (p, z))
  | (s, .error 5) => (s, .error 0x13)
  | (s, .error _) => (s, .error 0x12)

/-- Elements of a row less its ZERO, and its scale entry. -/
def scoreElems (t : Table) (p z : Bytes) : List Int :=
  (List.range t.width).map fun i => signed (elemBits t.fmt) (elemAt t.fmt p i) - (scaleEntry z 0).2

def State.scoreGather (s : State) (r : Request) (d : Bytes) (log2 idx : Nat) : State × Except Nat (List Int × Nat × Bytes) :=
  let m := u16 d 52
  let set := u32 d 48 % 256
  match (s.ownSet r.valley set).bind fun y =>
      ((look s.core.tables (tableKey set (u32 d 48 / 256))).filter fun t => t.live r.stamp.bnd).map fun t => (y, t) with
  | none => (s, .error 0x16)
  | some (y, t) =>
    if !isIntFmt t.fmt || t.group ≠ 1 || 2 ^ log2 < 2 * t.width || (2 ^ log2 + 1) / (2 * t.width) < m then (s, .error 0x16)
    else if s.poisoned idx (4 * m) then (s.recordAccess 9 r idx 0x17, .error 0x17)
    else
      let s := s.fetch r.valley idx (4 * m)
      let rd : Reader := { valley := r.valley, bnd := r.stamp.bnd, ctx := r.ctx, creek := (s.valleyCreeks r.valley).headD 0, source := 9, cmpl := 0x12 }
      let epoch := lookD r.stamp.epochs set y.newest
      let key := tableKey set (u32 d 48 / 256)
      let s := s.updTable key fun t => { t with lookups := t.lookups + m }
      (List.range m).foldl (fun (acc : State × Except Nat (List Int × Nat × Bytes)) i =>
        match acc with
        | (s, .error c) => (s, .error c)
        | (s, .ok (v, w, z)) =>
          match s.scoreRow rd key t epoch (u32 (s.bytes idx (4 * m)) (4 * i)) with
          | (s, .error c) => (s.updTable key fun t => { t with poisoned := t.poisoned + b2n (c == 0x12) }, .error c)
          | (s, .ok (p, q)) => (s, .ok (v ++ scoreElems t p q, w, z ++ fit 4 q))) (s, .ok ([], t.width, []))

/-! ## Admission (R651-R658) -/

/-- End a command that its checks refuse. -/
def State.cynRefused (s : State) (i c code : Nat) (level : Bool) : State :=
  let s := s.updCyn c fun x => { x with
    levelRefused := x.levelRefused + b2n level, poisoned := x.poisoned + b2n (code == 0x17) }
  s.finishWith i code (if code = 0x19 then 0xFFFF else 0)

/-- The input operand whose header or range reads poison. -/
def State.cynHeaderPoison (s : State) (r : Request) (hs : List Bytes) (d : Bytes) : Nat :=
  match s.cynRange r hs (u64 d 8) 64 false, s.cynRange r hs (u64 d 16) 64 false with
  | .ok a, .ok b => if s.poisoned a 64 then a else b
  | .ok a, .error _ => a
  | .error _, .ok b => b
  | .error _, .error _ => 0

/-- The operand that lies in memory that is not populated (R136): the first of the command's words that does. -/
def State.cynLost (s : State) (r : Request) (hs : List Bytes) (op : Nat) (d : Bytes) : Nat :=
  let at_ := fun (o : Nat) => localOf ((handleOf (hs.getD (u8 d o) [])).base + u32 d (o + 4))
  let used := [8] ++ (if takesIn1 op (u8 d 1) then [16] else []) ++ [24] ++ (if op = 0x2C then [32, 56] else [])
  ((used.map at_).find? fun a => !s.populatedFor r.valley r.stamp.bnd a).getD (at_ 8)

def State.cynAdmit (s : State) (op n i : Nat) (r : Request) (hs : List Bytes) : State :=
  let d := r.cynDesc n
  let c := u8 d 0
  match s.cynCtx c, s.cynArgs op r hs d with
  | none, _ => s.finishWith i 0x0A 0
  | _, .error code =>
    let s := if code = 0x17 then s.recordAccess 9 r (s.cynHeaderPoison r hs d) 0x17
      else if code = 0x11 then s.recordAccess 9 r (s.cynLost r hs op d) 0x11 else s
    s.cynRefused i c code false
  | some x, .ok a =>
    let sub := u8 d 1
    let one := if takesIn1 op sub then x.hdrRefuse a.hdr1 else none
    match x.hdrRefuse a.hdr0 <|> one with
    | some code => s.cynRefused i c code false
    | none =>
      if !x.fits op sub (b2n (bit (u8 d 2) 0)) a.hdr0 a.hdr1 then s.cynRefused i c 0x0A false
      else match (if x.mode = 0 then levelRefuse op sub a.hdr0 a.hdr1 else none), s.tripleRefuse c x op a.hdr0 with
      | some code, _ => s.cynRefused i c code true
      | none, some code => s.cynRefused i c code false
      | none, none =>
        let j : CynJob := { valley := r.valley, ctx := c, op, desc := d, in0 := a.in0, in1 := a.in1, out0 := a.out0, out1 := a.out1
                            hdr0 := a.hdr0, hdr1 := a.hdr1, first := if op = 0x2E then x.maskIdx else hdrFirst a.hdr0 }
        if op = 0x2C then
          match s.scoreGather r d x.log2 a.idx with
          | (s, .error code) => s.cynRefused i c code false
          | (s, .ok (elems, width, scales)) => { s with cyn := { s.cyn with jobs := put s.cyn.jobs i { j with elems, width, scales } } }
        else
          let s := if op = 0x2E then s.setCyn c { x with maskIdx := (x.maskIdx + hdrCount a.hdr0) % x.cap } else s
          { s with cyn := { s.cyn with jobs := put s.cyn.jobs i j } }

def cynKind (op n : Nat) : CmdKind where
  op := op
  bad := fun _ _ c => c.arg ≠ 0
  absent := fun s => !s.hasCyn
  check := fun s r => if cynBad op n s r then some (0x16, 0) else cynRefuse n s r
  handles := true
  reads := fun _ _ c =>
    let d := cynDesc c.inline c.nhandle
    let one := fun (o bytes : Nat) => (u8 d o, u32 d (o + 4), bytes)
    [one 8 64] ++ (if takesIn1 op (u8 d 1) then [one 16 64] else []) ++ (if op = 0x2C then [one 56 (4 * u16 d 52)] else [])
  run := fun i r hs s => s.cynAdmit op n i r hs

def execCynLinear (sq : Nat) (s : State) : Out := s.admitOp (cynKind 0x28 (s.headHandles sq)) sq
def execCynMul (sq : Nat) (s : State) : Out := s.admitOp (cynKind 0x29 (s.headHandles sq)) sq
def execCynRelin (sq : Nat) (s : State) : Out := s.admitOp (cynKind 0x2A (s.headHandles sq)) sq
def execCynRescale (sq : Nat) (s : State) : Out := s.admitOp (cynKind 0x2B (s.headHandles sq)) sq
def execCynScore (sq : Nat) (s : State) : Out := s.admitOp (cynKind 0x2C (s.headHandles sq)) sq
def execCynSsLinear (sq : Nat) (s : State) : Out := s.admitOp (cynKind 0x2D (s.headHandles sq)) sq
def execCynSsMask (sq : Nat) (s : State) : Out := s.admitOp (cynKind 0x2E (s.headHandles sq)) sq
def execCynSsCombine (sq : Nat) (s : State) : Out := s.admitOp (cynKind 0x2F (s.headHandles sq)) sq

/-! ## Operations (R647, R651-R658) -/

/-- One limb of the result's parts, for an RLWE operation on d0 and d1 and the key bytes k. -/
def CynJob.limb (j : CynJob) (x : CynCtx) (d0 d1 k : Bytes) (i : Nat) : List (List Nat) :=
  let q := x.chain.getD i 2
  let n := 2 ^ x.log2
  let l := hdrLimbs j.hdr0
  let p := hdrParts j.hdr0
  let sub := u8 j.desc 1
  let a := fun t => residues d0 l n t i q
  let b := fun t => residues d1 l n t i q
  let parts := fun (f : Nat → List Nat) => (List.range p).map f
  if j.op = 0x28 then
    if sub = 0 then parts fun t => addMod q (a t) (b t)
    else if sub = 1 then parts fun t => subMod q (a t) (b t)
    else if sub = 2 then parts fun t => negMod q (a t)
    else parts fun t => scaleMod q (scalarMod q (u64 j.desc 40)) (a t)
  else if j.op = 0x29 && sub = 0 then
    [mulMod q (a 0) (b 0), addMod q (mulMod q (a 0) (b 1)) (mulMod q (a 1) (b 0)), mulMod q (a 1) (b 1)]
  else if j.op = 0x29 then parts fun t => mulMod q (a t) (b 0)
  else if j.op = 0x2A then
    let part := fun (t : Nat) => (List.range l).foldl (fun acc c =>
      let dc := (residues d0 l n 2 c (x.chain.getD c 2)).map (· % q)
      let key := (List.range n).map fun e => u64 k (64 + (((2 * c + t) * x.limbs + i) * n + e) * 8) % q
      addMod q acc (mulMod q dc key)) (a t)
    [part 0, part 1]
  else if j.op = 0x2B then
    let last := x.chain.getD (l - 1) 2
    parts fun t => rescaleLimb q last (a t) (residues d0 l n t (l - 1) last)
  else parts fun t => mulMod q (a t) (intsMod q (scorePoly n j.width j.elems))

/-- OUT0 of an RLWE operation, header and data. -/
def CynJob.rlwe (j : CynJob) (x : CynCtx) (d0 d1 k : Bytes) : Bytes :=
  let l := if j.op = 0x2B then hdrLimbs j.hdr0 - 1 else hdrLimbs j.hdr0
  let limbs := (List.range l).map fun i => j.limb x d0 d1 k i
  let p := if j.op = 0x29 && u8 j.desc 1 = 0 then 3 else if j.op = 0x2A then 2 else hdrParts j.hdr0
  let level := if x.mode = 1 then 0xFF else if j.op = 0x2B then hdrLevel j.hdr0 - 1 else hdrLevel j.hdr0
  let flag := if x.mode = 1 || j.op = 0x2B then 0 else if j.op = 0x29 || j.op = 0x2C then 1 else b2n (hdrRescale j.hdr0)
  header 0 p x.log2 l level flag x.crc 0 0 ++ (List.range p).flatMap fun t => limbs.flatMap fun y => wordsOf (y.getD t [])

/-- OUT0 of a share operation; the triples' entries follow each other in tr. -/
def CynJob.share (j : CynJob) (x : CynCtx) (d0 d1 tr : Bytes) : Bytes :=
  let n := hdrCount j.hdr0
  let sub := u8 j.desc 1
  let c : W64 := BitVec.ofNat 64 (u64 j.desc 40)
  let a := sharesOf d0 0 n
  let t := (List.range n).map fun i => tripleOf (slice tr (24 * i) 24)
  if j.op = 0x2D then
    let z := if sub = 0 then a.zipWith (· + ·) (sharesOf d1 0 n)
      else if sub = 1 then a.zipWith (· - ·) (sharesOf d1 0 n)
      else if sub = 2 then a.map (· * c) else a.map fun y => if x.party0 then y + c else y
    header 2 0 0 0 0 0 0 n 0 ++ shareBytes z
  else if j.op = 0x2E then
    header 3 0 0 0 0 0 0 n j.first ++ shareBytes (a.zipWith (fun y k => y - k.a) t) ++
      shareBytes ((sharesOf d1 0 n).zipWith (fun y k => y - k.b) t)
  else
    header 2 0 0 0 0 0 0 n 0 ++ shareBytes ((List.range n).map fun i =>
      combineWord x.party0 (t.getD i { a := 0, b := 0, c := 0 }) (shareAt d0 i) (shareAt d0 (n + i)))

/-- A read of poison: its record and the test of the memory (Table 17.9). -/
def State.cynPoison (s : State) (j : CynJob) (a : Nat) : State :=
  let u := (memUnit a).toList
  let e : FaultEv := { source := 9, event := 3, valley := j.valley, scope := 1, cmpl := 0x17, addr := a }
  let e := match memUnit a with | some u => { e with cls := u.cls, unit := u.idx } | none => e
  s.error e u

def CynJob.bytes0 (j : CynJob) : Nat := hdrBytes j.hdr0
def CynJob.bytes1 (j : CynJob) : Nat := if takesIn1 j.op (u8 j.desc 1) then hdrBytes j.hdr1 else 0

/-- Where an operation reads and writes: addresses and bytes. -/
def CynJob.places (j : CynJob) : List (Nat × Nat) :=
  [(j.in0, j.bytes0), (j.in1, j.bytes1), (j.out0, outBytes j.op (u8 j.desc 1) j.hdr0), (j.out1, j.scales.length)]

/-- An entry of the operation's triples, or its state byte, reads poison. -/
def State.triplePoison (s : State) (j : CynJob) (x : CynCtx) : Bool :=
  0x2E ≤ j.op && (List.range (hdrCount j.hdr0)).any fun i =>
    s.poisoned (x.tripleAt (j.first + i)) 24 || s.poisoned (x.stateAt (j.first + i)) 1

/-- The key slot or the chain of a Canyon context is lost: the bound context is torn down (Table 17.9). -/
def State.cynLoses (s : State) (j : CynJob) (x : CynCtx) (e : FaultEv) (units : List UnitRef) : State :=
  s.ctxFault j.valley x.ctx { e with source := 9 } units

/-- Inputs of a queued command that the host still holds (R148). -/
def State.cynHeld (s : State) (j : CynJob) (x : CynCtx) : List (Nat × Nat) :=
  ([(j.in0, j.bytes0), (j.in1, j.bytes1)] ++
    (if j.op = 0x2A then [(x.keyAt (b2n (bit (u8 j.desc 2) 0)), keyBytes x.log2 x.limbs)] else [])).filter
      fun a => !(s.hostHolds a.1 a.2 false).isEmpty

/-- Start a queued command on a pipeline: its data is read now (R661). -/
def State.cynStart (s : State) (i : Nat) (j : CynJob) (x : CynCtx) (pipe : Nat) : State :=
  let slot := b2n (bit (u8 j.desc 2) 0)
  let k := keyBytes x.log2 x.limbs
  if j.op = 0x2A && s.poisoned (x.keyAt slot) k then
    let u := (memUnit (x.keyAt slot)).toList
    let e : FaultEv := { source := 9, event := 3, addr := x.keyAt slot }
    let e := match memUnit (x.keyAt slot) with | some u => { e with cls := u.cls, unit := u.idx } | none => e
    s.cynLoses j x e u
  else
    let s := (s.fetch j.valley j.in0 j.bytes0).fetch j.valley j.in1 j.bytes1
    let bad0 := s.poisoned j.in0 j.bytes0
    let bad1 := s.poisoned j.in1 j.bytes1
    let bad2 := s.triplePoison j x
    let lost := (j.places.find? fun a => a.2 ≠ 0 && !rangeAll s.populated a.1 a.2).map (·.1)
    let s := if bad0 then s.cynPoison j j.in0 else if bad1 then s.cynPoison j j.in1 else if bad2 then s.cynPoison j (x.tripleAt j.first) else s
    let s := match lost, look s.core.reqs i with
      | some a, some r => s.recordAccess 9 r a 0x11
      | _, _ => s
    let d0 := s.bytes j.in0 j.bytes0
    let d1 := s.bytes j.in1 j.bytes1
    let tr := if 0x2E ≤ j.op then (List.range (hdrCount j.hdr0)).flatMap fun n => s.bytes (x.tripleAt (j.first + n)) 24 else []
    let result := if j.op ≤ 0x2C then j.rlwe x d0 d1 (if j.op = 0x2A then s.bytes (x.keyAt slot) k else []) else j.share x d0 d1 tr
    let j := { j with pipe := some pipe, start := s.now, result, err := if bad0 || bad1 || bad2 then some 0x17 else lost.map fun _ => 0x11 }
    { s with cyn := { s.cyn with jobs := put s.cyn.jobs i j } }

/-- The pipeline the oldest queued command of a valley starts on: the lowest free one its stamp serves (R658, R684). -/
def State.cynFree (s : State) (i : Nat) : Option Nat :=
  (look s.core.reqs i).bind fun r =>
    (s.cynPipesFor r).find? fun p => !s.fenced 9 p && !s.cyn.jobs.any fun j => j.2.pipe = some p

/-- The oldest queued command of a valley starts, once the host holds none of its inputs. With `valley`: the chain state on
the chip reads uncorrectable (Table 17.9). -/
def execCynOperationStart (valley : Nat × Bool) (s : State) : Out :=
  .next (match s.cyn.jobs.find? fun j => j.2.valley = valley.1 && j.2.pipe.isNone with
    | none => s
    | some (i, j) =>
      match s.cynCtx j.ctx, s.cynFree i with
      | some x, some p =>
        if valley.2 then s.cynLoses j x { event := 2, cls := 9, unit := p } [{ cls := 9, idx := p }]
        else match s.cynHeld j x with
        | [] => s.cynStart i j x p
        | l => l.foldl (fun s a => s.recall a.1 a.2 false) s
      | _, _ => s)

/-- Set the states of an operation's triples; freed ones are zeroed (R656). -/
def State.setTriples (s : State) (j : CynJob) (x : CynCtx) (st : Nat) : State :=
  (List.range (hdrCount j.hdr0)).foldl (fun s i =>
    let s := if st = 0 then s.writeThrough (x.tripleAt (j.first + i)) (zeros 24) else s
    s.writeThrough (x.stateAt (j.first + i)) [BitVec.ofNat 8 st]) s

/-- Outputs written through, and what the operation does to its triples. -/
def State.cynWrite (s : State) (j : CynJob) (x : CynCtx) : State :=
  let s := s.throughFor j.valley x.ctx j.out0 j.result
  let s := if j.op = 0x2C then s.throughFor j.valley x.ctx j.out1 j.scales else s
  let s := if j.op = 0x2E then s.setTriples j x 2 else if j.op = 0x2F then s.setTriples j x 0 else s
  if 0x2E ≤ j.op then s.tripleLevel j.ctx else s

/-- The operation on a pipeline ends at its fixed time (R657, R666, R667). `residue`: its codes found an error. -/
def execCynOperationComplete (pipe : Nat) (residue : Bool) (s : State) : Out :=
  .next (match s.cyn.jobs.find? fun j => j.2.pipe = some pipe with
    | none => s
    | some (i, j) =>
      let s := s.advanceTo (j.start + opTime
        (coreTime j.op (u8 j.desc 1) (hdrLog2 j.hdr0) (hdrLimbs j.hdr0) (hdrParts j.hdr0) (hdrCount j.hdr0)) s.pace.device)
      let s : State := { s with cyn := { s.cyn with jobs := del s.cyn.jobs i } }
      let s := if residue then s.error { source := 9, event := 6, cls := 9, unit := pipe, valley := j.valley, scope := 1, cmpl := 0x17 } [{ cls := 9, idx := pipe }] else s
      match s.cynCtx j.ctx, look s.core.reqs i with
      | some x, some r =>
        if j.dead then s else
        let err := j.err <|> (if residue then some 0x17 else none) <|>
          (if j.places.any fun a => a.2 ≠ 0 && !rangeAll s.populated a.1 a.2 then some 0x11 else none)
        let s := s.updCyn j.ctx fun y => { y with ops := y.ops + 1, poisoned := y.poisoned + b2n (err == some 0x17) }
        let s := match err with
          | none => s.cynWrite j x
          | some _ => if s.triplePoison j x then (s.setTriples j x 0).tripleLevel j.ctx else s
        let s := s.updReq i fun y => { y with wrote := err.isNone }
        (s.engineSync i r (u32 j.desc 4)).finishWith i (err.getD 0) 0
      | _, _ => s)

end Sys2Proof.Machine
end

