-- ==== Sys2Proof/Machine/Net.lean ====
section
/-! DEFINITION. The host link, the Ethernet ports, network endpoints and their datagrams, the management endpoint
and the pool node (15). -/
namespace Sys2Proof.Machine
open Sys2Proof

/-! ## The host link (R575, R576, R595, R762) -/

/-- Lose every host line; the number of Modified sectors lost (R163, R595). -/
def State.loseHost (s : State) : State × Nat :=
  let ls := s.basin.lines.filter fun l => inHost (l.1 * 256)
  let n := (ls.map fun l => (l.2.sectors.filter (· == .modified)).length).sum
  let s := (ls.map (·.1)).foldl State.loseLine s
  ({ s with link := { s.link with linesLost := s.link.linesLost + n } }, n)

/-- Host lines are lost, and the loss announced. -/
def State.hostLost (s : State) : State :=
  match s.loseHost with
  | (s, 0) => s
  | (s, n) => s.event 7 2 0xFFFF (leBytes 4 n) none

/-- Every queue's ring is out of reach (Table 11.3). -/
def State.queuesFail (s : State) : State :=
  let s := (s.core.sqs.filter fun q => q.2.st = 1).foldl (fun s q =>
    (s.updSq q.1 fun x => { x with st := 2, err := 2 }).queueError q.2.cq q.2.prod.toNat q.1 2 0 (q.1 / 512)) s
  ((s.core.cqs.filter fun q => q.2.st = 1).map (·.1)).foldl State.cqFails s

/-- The Data Link Layer goes down with no reset: the link's and the function's configuration state is reset, the
core runs on (R595). -/
def execHostLinkDlDown (s : State) : Out :=
  .next (if s.link.standalone || !s.link.up then s else
    let s := { s with
      link := { s.link with
        up := false, gts := 0, lanes := 0, cxlActive := false, cxlEnabled := false, decoder := false
        unmasked := [], pendingVec := [], dlDowns := s.link.dlDowns + 1 }
      pwr := { s.pwr with d3hot := false } }
    (s.forgetHost.releaseSyncs.hostLost.event 7 6 0xFFFF [] none).queuesFail)

/-- The link trains or retrains; CXL.cache and CXL.mem need alternate-protocol negotiation, 256-byte flits, 64 GT/s,
x8 or x16, and a first entry into READY or DEGRADED (R575, R83). -/
def execHostLinkUp (gts lanes : Nat) (cxl flit256 : Bool) (s : State) : Out :=
  .next (if s.link.standalone then s else
    let active := cxl && flit256 && gts = 64 && (lanes = 8 || lanes = 16)
    let lost := s.link.cxlEnabled && !active
    let s := { s with link := { s.link with up := true, gts, lanes, cxlActive := active, cxlEnabled := active && s.dev.everReady && s.dev.st != .configRejected } }
    if lost then s.forgetHost.releaseSyncs.hostLost else s)

/-- Send what is pending and may be sent (R576, R762). -/
def State.sendPending (s : State) : State :=
  let go := s.link.pendingVec.filter fun v => v ∈ s.link.unmasked
  let s := { s with link := { s.link with pendingVec := s.link.pendingVec.filter fun v => !(v ∈ s.link.unmasked) } }
  go.foldl (fun s v => s.emit (.msix v)) s

def execMsixVectorUnmask (vector : Nat) (s : State) : Out :=
  .next (if !s.bar0 || !s.link.up || 2048 ≤ vector then s
    else { s with link := { s.link with unmasked := insertSorted vector s.link.unmasked } }.sendPending)

/-- D3hot holds the host's traffic back; D0 lets it go on. -/
def execPcieDStateChange (d3hot : Bool) (s : State) : Out :=
  .next (if s.link.standalone || !s.fwRun || !s.link.up then s
    else
      let s := { s with pwr := { s.pwr with d3hot } }
      if d3hot then s else s.sendPending)

def hostLinkQuery : Msg where
  op := 0x0704
  mark := .both
  cls := .q
  len := lenIs 0
  run := fun _ s =>
    let l := s.link
    let port := fun (p : Nat) =>
      let e := lookD s.eth p {}
      leBytes 1 (b2n e.up) ++ leBytes 1 (u8 e.cfg 1) ++ zeros 2 ++ leBytes 8 e.rxDropped ++ leBytes 8 e.fullRefusals ++ leBytes 8 e.respDiscarded
    Res.okay s (leBytes 1 (b2n l.standalone) ++
      leBytes 1 (b2n l.up + 2 * b2n l.cxlActive + 4 * b2n l.decoder + 8 * b2n (s.pool.cfg.isSome && !s.pool.qpErr)) ++
      leBytes 1 l.gts ++ leBytes 1 l.lanes ++ leBytes 4 l.dlDowns ++ leBytes 8 s.basin.winOffset ++ leBytes 8 s.basin.winSize ++
      leBytes 4 l.aerCorr ++ leBytes 4 l.aerUncorr ++ leBytes 4 l.linesLost ++ zeros 4 ++ port 0 ++ port 1)

def execHostLinkQuery (via : Via) (s : State) : Out := serve hostLinkQuery via s

/-! ## Ethernet ports (R581, R593, R601) -/

def State.ethPort (s : State) (p : Nat) : EthPort := lookD s.eth p {}

/-- A port changes, and with it the pads of its LEDs (R788, R798). -/
def State.updEth (s : State) (p : Nat) (f : EthPort → EthPort) : State :=
  s.noteEdges { s with eth := put s.eth p (f (s.ethPort p)) }

def State.ethDrop (s : State) (p : Nat) : State := s.updEth p fun e => { e with rxDropped := e.rxDropped + 1 }
def Endpoint.port (e : Endpoint) : Nat := u8 e.create 3
def Endpoint.rdma (e : Endpoint) : Bool := e.kind % 2 = 1

/-- A queue pair in error drops its buffered messages (R598). -/
def State.qpFails (s : State) (n : Nat) : State := s.updEp n fun e => { e with err := true, buf := [], readySince := none }

/-- The port's link goes down, and with it its queue pairs (R593, R598). -/
def State.ethDown (s : State) (p : Nat) : State :=
  if !(s.ethPort p).up then s else
  let s := (s.updEth p fun e => { e with up := false }).event 7 5 p [] none
  let s := ((s.core.eps.filter fun e => e.2.port = p && e.2.rdma).map (·.1)).foldl State.qpFails s
  if ((s.pool.cfg.map fun c => u8 c 0 == p).getD false) then s.poolFails else s

def execEthPortDown (port : Nat) (s : State) : Out := .next (s.ethDown port)

/-- The network is served: READY or DEGRADED has been entered under the configuration in force (R64, R80, R84). -/
def State.networkServes (s : State) : Bool :=
  s.dev.everReady && !(s.dev.st == .reset || s.dev.st == .selftest || s.dev.st == .fwLoad || s.dev.st == .awaitConfig ||
    s.dev.st == .configCheck || s.dev.st == .configRejected)

/-- A port of the part comes up under its settings, once the device has served (R84, R600). -/
def execEthPortUp (port : Nat) (s : State) : Out :=
  .next (let e := s.ethPort port
    if 2 ≤ port || !s.hasEth || e.up || u8 e.cfg 1 = 0 || !s.networkServes then s else s.updEth port fun e => { e with up := true })

def portField (p : Bytes) : Option Nat :=
  firstBad [(1 < u8 p 0, 0), (2 < u8 p 1, 1), (bit (u8 p 2) 0 && (u16 p 4 = 0 || 4094 < u16 p 4), 4), (7 < u8 p 6, 6),
    (u16 p 8 < 1500 || 9216 < u16 p 8, 8), (32 < u8 p 16, 16), (128 < u8 p 40, 40)]

/-- Set a port; a new SPEED or MTU takes it down until it links again. -/
def State.setPort (s : State) (p : Bytes) : State :=
  let e := s.ethPort (u8 p 0)
  let s := if u8 e.cfg 1 ≠ u8 p 1 || u16 e.cfg 8 ≠ u16 p 8 then s.ethDown (u8 p 0) else s
  s.updEth (u8 p 0) fun e => { e with cfg := p }

def netPortSet : Msg where
  op := 0x0701
  mark := .dm
  cls := .o
  len := lenIs 72
  absent := fun _ s => !s.hasEth
  field := fun r _ => portField r.pay
  run := fun r s => Res.okay (s.setPort r.pay)

def execNetPortSet (via : Via) (s : State) : Out := serve netPortSet via s

/-- The MAC of a port: the one set, or the fused one. -/
def State.mac (s : State) (p : Nat) : Bytes :=
  let m := slice (s.ethPort p).cfg 64 6
  if leNat m = 0 then (List.range 6).map (Config.portMac s.fuse.serial p) else m

/-- ARP (0), IPv6 neighbour discovery (1) and ICMP echo of either IP (2, 3) to the port's own address are answered;
other packets that are not supported, or with a bad checksum, are dropped and counted. -/
def execEthControlPacket (port kind : Nat) (target data : Bytes) (s : State) : Out :=
  .next (let e := s.ethPort port
    if !e.up || !s.firmwareRuns then s else
    let own := if kind % 2 = 0 then slice e.cfg 12 4 else slice e.cfg 24 16
    if 4 ≤ kind then s.ethDrop port
    else if leNat own = 0 || target ≠ own then s
    else s.emit (.ethReply port kind (if kind < 2 then s.mac port else data)))

/-! ## Endpoints (R583, R594, R602, R603) -/

/-- Endpoints and the management endpoint that use a UDP port of an Ethernet port. -/
def State.udpUsed (s : State) (eth udp : Nat) : Bool :=
  (s.core.eps.any fun e => !e.2.rdma && e.2.port = eth && u16 e.2.create 6 = udp) ||
  (s.mgmt.port = some udp && bit (u8 s.mgmt.cfg 0) eth)

def udpBad (p : Nat) : Bool := p = 0 || p = 4791 || p = 319 || p = 320

def epField (p : Bytes) : Option Nat :=
  let rdma := u8 p 2 % 2 = 1
  firstBad [(511 < u16 p 0, 0), (3 < u8 p 2, 2), (1 < u8 p 3, 3), (127 < u16 p 4, 4), (u16 p 8 < 16 || 4096 < u16 p 8, 8),
    (u8 p 2 < 2 && 3 < u8 p 10, 10), (u8 p 2 < 2 && (u8 p 11 = 0 || 16 < u8 p 11), 11), (128 < u8 p 32, 32),
    (rdma && (u8 p 44 = 0 || 3 < u8 p 44), 44), (rdma && 7 < u8 p 45, 45), (rdma && 31 < u8 p 46, 46)]

def epDenied (r : Req) (_ : State) : Bool := u16 r.pay 0 ≤ 511 && u16 r.pay 0 / 64 ≠ r.via.mbx

/-- The local end of a queue pair: its number and first sequence number are the device's (free). -/
def State.localQp (s : State) : Bytes × State :=
  let (q, s) := s.drawNat 6
  let (p, s) := s.drawNat 6
  (leBytes 4 (q % 2 ^ 24) ++ leBytes 4 (p % 2 ^ 24), s)

def netEndpointCreate : Msg where
  op := 0x0702
  mark := .v
  cls := .o
  len := lenIs 48
  absent := fun _ s => !s.hasEth
  denied := epDenied
  field := fun r _ => epField r.pay
  run := fun r s =>
    let p := r.pay
    let rdma := u8 p 2 % 2 = 1
    match look s.core.ctxs (ctxKey r.via.mbx (u16 p 4)) with
    | none => Res.fail s .conflict
    | some c =>
      if (look s.core.eps (u16 p 0)).isSome || !(s.ethPort (u8 p 3)).up || (u8 p 2 < 2 && c.raCount = 0) ||
          (!rdma && (udpBad (u16 p 6) || s.udpUsed (u8 p 3) (u16 p 6))) then Res.fail s .conflict
      else
        let s := s.setCore { s.core with eps := put s.core.eps (u16 p 0) { create := p } }
        if rdma then
          let (q, s) := s.localQp
          Res.okay s q
        else Res.okay s (zeros 8)

def execNetEndpointCreate (via : Via) (s : State) : Out := serve netEndpointCreate via s

/-- An endpoint that closes goes with its last response. -/
def State.closeEp (s : State) (n : Nat) : State :=
  match look s.core.eps n with
  | some e =>
    match e.closing with
    | some d => if e.inflight = 0 then (s.setCore { s.core with eps := del s.core.eps n }).done d .ok 0 [] else s
    | none => s
  | none => s

def netEndpointDestroy : Msg where
  op := 0x0703
  mark := .v
  cls := .d
  len := lenIs 4
  absent := fun _ s => !s.hasEth
  denied := epDenied
  field := fun r _ => firstBad [(511 < u16 r.pay 0, 0)]
  run := fun r s =>
    let n := u16 r.pay 0
    match look s.core.eps n with
    | none => Res.okay s
    | some e =>
      if s.core.streams.any fun x => x.2.st ≠ 0 && x.2.source = 2 && x.2.queue = n then Res.fail s .conflict
      else if e.closing.isSome then Res.fail s .busy
      else { s := s.updEp n fun e => { e with buf := [], readySince := none, closing := some r.deferred }
             st := .pending
             after := fun s => s.closeEp n }

def execNetEndpointDestroy (via : Via) (s : State) : Out := serve netEndpointDestroy via s

/-- A request endpoint's queue pair exhausts its retries. -/
def execQueuePairError (endpoint : Nat) (s : State) : Out :=
  .next (match look s.core.eps endpoint with
    | some e => if e.rdma && !e.err then s.qpFails endpoint else s
    | none => s)

/-- A congestion notification halves a queue pair's rate: an endpoint's, or the pool node's. -/
def execRoceCnpReceive (endpoint : Option Nat) (s : State) : Out :=
  .next (match endpoint with
    | some n => s.updEp n fun e => if e.rdma then { e with rate := e.rate / 2, rateAt := s.now } else e
    | none => { s with pool := { s.pool with rate := s.pool.rate / 2, rateAt := s.now } })

/-- 55 µs later it has recovered by 5 % of the line rate. -/
def execRoceRateRecover (endpoint : Option Nat) (s : State) : Out :=
  .next (match endpoint with
    | some n =>
      match look s.core.eps n with
      | some e =>
        if e.rdma && e.rate < 1000000 then
          let s := s.advanceTo (e.rateAt + 55000)
          s.updEp n fun e => { e with rate := min 1000000 (e.rate + 50000), rateAt := s.now }
        else s
      | none => s
    | none =>
      if s.pool.rate < 1000000 then
        let s := s.advanceTo (s.pool.rateAt + 55000)
        { s with pool := { s.pool with rate := min 1000000 (s.pool.rate + 50000), rateAt := s.now } }
      else s)

/-! ## Datagrams (R584-R588) -/

def netMagic : Nat := 0x51445243

/-- A number of bytes in network order. -/
def beNat (b : Bytes) : Nat := b.foldl (fun n x => n * 256 + x.toNat) 0

/-- An address within a prefix of another. -/
def inPrefix (prefix_ : Nat) (a b : Bytes) : Bool := beNat a / 2 ^ (128 - prefix_) = beNat b / 2 ^ (128 - prefix_)

/-- The endpoint accepts messages of this source. -/
def Endpoint.accepts (e : Endpoint) (addr : Bytes) : Bool := inPrefix (u8 e.create 32) (fit 16 addr) (slice e.create 16 16)

def netHeader (b : Bytes) (kind : Nat) : Bool := 32 ≤ b.length && u32 b 0 = netMagic && u8 b 4 = 1 && u8 b 5 = kind

/-- One segment of a response (Table 15.3): FLAGS, SEG, COUNT, STATUS, its bytes and their offset. -/
def segment (m : NetMsg) (flags seg count status off : Nat) (d : Bytes) : Bytes :=
  leBytes 4 netMagic ++ leBytes 1 1 ++ leBytes 1 1 ++ leBytes 1 flags ++ slice m.bytes 7 3 ++ leBytes 1 seg ++ leBytes 1 count ++
  slice m.bytes 12 12 ++ leBytes 1 status ++ zeros 1 ++ leBytes 2 d.length ++ leBytes 4 off ++ d

def State.dropAt (s : State) (n : Nat) (e : Endpoint) : State := (s.updEp n fun e => { e with dropped := e.dropped + 1 }).ethDrop e.port

/-- A message enters an endpoint's receive buffer (Table 15.5). -/
def State.buffer (s : State) (n : Nat) (m : NetMsg) (update : Bool) : State :=
  match look s.core.eps n with
  | none => s
  | some e =>
    if !(s.ethPort e.port).up || e.closing.isSome || e.err then s
    else if !e.accepts m.addr || !netHeader m.bytes (if update then 2 else 0) ||
        (update && (u8 m.bytes 11 = 0 || 8 < u8 m.bytes 11 || m.bytes.length ≠ 32 + 128 * u8 m.bytes 11)) then s.dropAt n e
    else if u16 e.create 8 ≤ e.buf.length then
      if update then s.dropAt n e
      else (s.updEth e.port fun p => { p with fullRefusals := p.fullRefusals + 1 }).reply n m (segment m 4 0 1 9 0 [])
    else s.updEp n fun e => { e with buf := e.buf ++ [m], readySince := e.readySince <|> some s.now }

/-- The kind of a command that came in a datagram. -/
def kindOf (c : Cmd) (queue : Nat) : CmdKind :=
  if c.op = 1 then launchKind queue
  else if c.op = 2 then boundaryKind
  else if c.op = 3 then signalKind c.set
  else if c.op = 4 then nopKind
  else if 0x20 ≤ c.op && c.op ≤ 0x24 then fordKind c.op c.nhandle
  else if 0x28 ≤ c.op && c.op ≤ 0x2F then cynKind c.op c.nhandle
  else invalidKind

/-- R585: the payload's length, RESP_HANDLE and BYTES. -/
def netBad (m : Bytes) (c : Cmd) : Bool :=
  m.length ≠ 48 + c.inlineLen || (u8 m 7 ≠ 0xFF && c.nhandle ≤ u8 m 7) || 8192 < u16 m 26

/-- The handle a response returns: READ permission and LENGTH. -/
def respRefuse (m : Bytes) (hs : List Bytes) : Option Nat :=
  if u8 m 7 = 0xFF then none
  else
    let h := handleOf (hs.getD (u8 m 7) [])
    if h.len < u16 m 26 then some 0x16 else if !h.read then some 0x19 else none

/-- Admit the oldest message of a request endpoint, if it is the valley's next (R413, R583, R586). The SQ field of
its request area names no queue: free. -/
def State.admitNet (s : State) (n : Nat) : State :=
  let v := n / 64
  match look s.core.eps n with
  | none => s
  | some e =>
    match e.buf with
    | [] => s
    | m :: rest =>
      if !s.admits v || !s.isNext v (4096 + n) then s else
      match s.heldInputs (kindOf (netCmd m.bytes) 0) v e.ctx (netCmd m.bytes) with
      | x :: l => ((x :: l).foldl (fun s x => s.recall x.1 x.2 false) s).spendTurn v
      | [] =>
      let s := if bit (u8 m.bytes 6) 0 then s.boundary v else s
      let c := netCmd m.bytes
      let (sq, s) := s.drawNat 7
      let k := kindOf c (sq % 65536)
      let (i, s) := s.fresh
      let s := s.updEp n fun e => { e with
        buf := rest, inflight := e.inflight + 1, admitted := e.admitted + 1
        readySince := if rest.isEmpty then none else some s.now }
      let s := ((s.passTurn v (4096 + n) (u8 e.create 11)).updValley v fun x => { x with admitted := x.admitted + 1 }).count v 1
      let r : Request := {
        valley := v, ctx := e.ctx, origin := .net n i, tag := c.tag, op := k.op, arg := c.arg, inline := c.inline
        stamp := s.stampFor v e.ctx }
      let hs := (s.relocate r.stamp r.inline c.nhandle).1
      let kept : NetMsg := { m with handle := hs.getD (u8 m.bytes 7) [] }
      let s := s.setCore { s.core with reqs := put s.core.reqs i r, netReqs := put s.core.netReqs i kept }
      let k := { k with bad := fun s v c => netBad m.bytes c || k.bad s v c }
      let q : Sq := { update := false, kernel := true, ctx := e.ctx, cq := 0, ring := 0, log2 := 0, prio := 0, weight := 1, maxIn := 0 }
      match s.checkCommand k q c r with
      | some (code, d) => s.refuseCommand i r code d
      | none =>
        match respRefuse m.bytes hs with
        | some code => s.finishWith i code 0
        | none => k.run i r hs s

/-- A request message arrives, or one that waits is admitted. -/
def execRequestDatagramReceive (endpoint : Nat) (addr : Bytes) (port : Nat) (arrived : Option Bytes) (s : State) : Out :=
  .next (if !((look s.core.eps endpoint).map fun e => decide (e.kind < 2)).getD false then s else
    let s := match arrived with
      | some b => s.buffer endpoint { addr, port, bytes := b } false
      | none => s
    s.admitNet endpoint)

def execUpdateDatagramReceive (endpoint : Nat) (addr : Bytes) (port : Nat) (data : Bytes) (s : State) : Out :=
  .next (if ((look s.core.eps endpoint).map fun e => decide (2 ≤ e.kind)).getD false then
    s.buffer endpoint { addr, port, bytes := data } true
  else s)

/-- What a request's response returns: its code and data (R587). Data that cannot be read makes it an error. -/
def State.netResult (s : State) (r : Request) (m : NetMsg) : Nat × Bytes :=
  let n := u16 m.bytes 26
  let h := handleOf m.handle
  match r.latch with
  | some (code, _) => (code, [])
  | none =>
    if n = 0 || u8 m.bytes 7 = 0xFF then (0, [])
    else if s.isRemote h.base || !rangeAll (s.populatedFor r.valley r.stamp.bnd) (localOf h.base) n then (0x11, [])
    else if s.poisoned (localOf h.base) n then (0x17, []) else (0, s.bytes (localOf h.base) n)

/-- The messages of a response. -/
def responses (e : Endpoint) (m : NetMsg) (code : Nat) (part : Bool) (d : Bytes) : List Bytes :=
  let n := if e.rdma || d.isEmpty then 1 else ceilDiv d.length 1024
  (List.range n).map fun i =>
    segment m (2 * b2n part + 4 * b2n (i + 1 = n)) i n code (if e.rdma then 0 else i * 1024) (if e.rdma then d else slice d (i * 1024) 1024)

/-- The response of the endpoint's oldest ended request leaves, or is discarded; the request is over. -/
def execDatagramResponseSend (endpoint : Nat) (s : State) : Out :=
  .next (match s.core.reqs.find? fun r => r.2.ended && (match r.2.origin with | .net e _ => e = endpoint | .sq _ => false) with
    | none => s.closeEp endpoint
    | some (i, r) =>
      match look s.core.eps endpoint, look s.core.netReqs i with
      | some e, some m =>
        let (code, d) := s.netResult r m
        let a := (handleOf m.handle).base
        let s := if r.latch.isNone && !s.isRemote a then s.recordAccess 7 r a code else s
        let s := if d.isEmpty then s else s.fetch r.valley (localOf (handleOf m.handle).base) d.length
        let s := if !(s.ethPort e.port).up || e.err then s.updEth e.port fun p => { p with respDiscarded := p.respDiscarded + 1 }
          else (responses e m code (r.wrote && code ≠ 0) d).foldl (fun s b => s.reply endpoint m b) s
        let s := s.setCore { s.core with netReqs := del s.core.netReqs i }
        ((s.release i).sweep r.valley).closeEp endpoint
      | _, _ => (s.release i).sweep r.valley)

/-! ## The management endpoint (R590) -/

/-- Requests that wait in a mailbox's ring for the network's managers. -/
def State.mgmtWaiting (s : State) (n : Nat) : Nat := (s.mgmt.queue.filter fun q => q.mbx = n).length

def State.mgmtDrop (s : State) : State := { s with mgmt := { s.mgmt with dropped := s.mgmt.dropped + 1 } }

def execMgmtDatagramReceive (eth : Nat) (addr : Bytes) (port : Nat) (data : Bytes) (s : State) : Out :=
  .next (
    let cfg := s.mgmt.cfg
    if !s.link.standalone || s.mgmt.port.isNone || !s.networkServes || !(s.ethPort eth).up || !bit (u8 cfg 0) eth then s
    else if !inPrefix (u8 cfg 6) (fit 16 addr) (slice cfg 8 16) then s.mgmtDrop
    else if data.length < 32 || u32 data 0 ≠ 0x54474D4F || u8 data 4 ≠ 1 || u8 data 5 ≠ 0 || 8 < u8 data 6 then s.mgmtDrop
    else
      let n := u8 data 6
      let seq := u32 data 8
      let src := beNat (fit 16 addr) * 65536 + port
      match s.mgmt.kept.find? fun k => k.1 = n && k.2.1 = src && k.2.2.1 = seq with
      | some k => s.emit (.mgmt 1 n seq src k.2.2.2)
      | none =>
        if 8 ≤ s.mgmtWaiting n then s.mgmtDrop
        else
          let s : State := { s with mgmt := { s.mgmt with queue := s.mgmt.queue ++ [{ mbx := n, src, seq, msg := data.drop 16 }] } }
          if n = 8 then s.arrived (.network src) else s)

/-! ## The pool node (R597, R605) -/

def poolField (p : Bytes) : Option Nat :=
  if bit (u8 p 1) 0 then none
  else firstBad [(1 < u8 p 0, 0), (u8 p 12 = 0 || 3 < u8 p 12, 12), (7 < u8 p 13, 13), (31 < u8 p 14, 14),
    (u64 p 40 < 4096 || 2 ^ 48 < u64 p 40, 40)]

def State.setPool (s : State) (p : Bytes) : State :=
  { s with pool := if bit (u8 p 1) 0 then {} else { cfg := some p } }

def poolNodeSet : Msg where
  op := 0x0705
  mark := .dm
  cls := .o
  len := lenIs 56
  absent := fun _ s => !s.hasEth
  field := fun r _ => poolField r.pay
  run := fun r s =>
    if !s.link.standalone || !s.ford.rings.isEmpty then Res.fail s .conflict
    else if bit (u8 r.pay 1) 0 then Res.okay (s.setPool r.pay) (zeros 8)
    else
      let (q, s) := (s.setPool r.pay).localQp
      Res.okay s q

def execPoolNodeSet (via : Via) (s : State) : Out := serve poolNodeSet via s

end Sys2Proof.Machine
end

