-- ==== Sys2Proof/Machine/Faults.lean ====
section
/-! DEFINITION. Targeted tests, retirement, readmission, test windows and packs, and their messages (18). -/
namespace Sys2Proof.Machine
open Sys2Proof

/-! ## Units (Table 18.1) -/

/-- Units of a class; 0 for a code that names none. -/
def classSize : Nat → Nat
  | 1 => 32 | 2 => 64 | 3 => 64 | 4 => 128 | 5 => 32 | 6 => 8 | 7 => 4 | 8 => 1 | 9 => 8
  | 0x0A => 1 | 0x0B => 4 | 0x0C => 1 | 0x0D => 2 | 0x0E => 9 | 0x0F => 1 | _ => 0

/-- The part has the unit. -/
def State.hasUnit (s : State) (u : UnitRef) : Bool :=
  match u.cls with
  | 1 => s.hasGlen u.idx
  | 2 => s.hasGlen (u.idx / 2)
  | 4 => s.hasStack (u.idx / 32)
  | 5 => s.hasLpdCh u.idx
  | 6 => s.hasPass u.idx
  | 8 => s.hasFord
  | 9 => s.hasCyn
  | _ => true

def unitCode (u : UnitRef) : Nat := (u.cls * 256 + u.idx) % 65536

/-- Requests with something of theirs on a glen or Creek, not switched out (Table 13.4). -/
def State.reqsOn (s : State) (u : UnitRef) : List Nat :=
  let c := s.core
  if u.cls = 1 then
    ((c.threads.filter fun t => t.2.glen = u.idx && !t.2.saved).map (·.2.req) ++
      (c.tasks.filter fun t => t.2.queue = some u.idx && !t.2.saved).map (·.2.req) ++
      (c.bags.filter fun b => b.2.glen = u.idx && !b.2.saved).map (·.2.req) ++
      (c.plain.filter fun o => o.2.glen = u.idx && !o.2.saved).map (·.2.req)).eraseDups
  else ((c.bags.filter fun b => b.2.creek = u.idx && !b.2.saved).map (·.2.req)).eraseDups

/-- Chains on a glen of requests that no error has latched. -/
def State.chainsOn (s : State) (g : Nat) : List PlainOp :=
  (s.core.plain.map (·.2)).filter fun o => o.glen = g && !o.saved && !o.isLoad &&
    ((look s.core.reqs o.req).map fun r => r.latch.isNone).getD false

/-- A glen or Creek goes: what runs on it writes nothing, its chains still add to their SYNC (R331), and its requests
end with CMPL_FAULTED. -/
def State.loseWork (s : State) (u : UnitRef) : State :=
  let rs := s.reqsOn u
  let chains := if u.cls = 1 then s.chainsOn u.idx else []
  let s := rs.foldl (fun s i => s.latch i 0x0D 0) s
  let c := s.core
  let s := if u.cls = 1 then s.setCore { c with
      bags := c.bags.filter fun b => b.2.saved || b.2.glen ≠ u.idx
      plain := c.plain.filter fun o => o.2.saved || o.2.glen ≠ u.idx
      remote := c.remote.filter fun m => m.2.glen ≠ u.idx }
    else s.setCore { c with bags := c.bags.filter fun b => b.2.saved || b.2.creek ≠ u.idx }
  let s := chains.foldl (fun s o => s.jobSync o.req o.sync) s
  let s := rs.foldl State.settle s
  if u.cls = 2 then (s.peersOn u.idx).foldl (fun s p =>
    (s.setCore { s.core with peers := s.core.peers.erase p }).refusePeer p stUnavailable) s else s

/-- A slice's group goes (R161): its dirty lines leave poison at home, its buckets move, its scratch is unpopulated,
and a change of it in progress fails. -/
def State.loseGroup (s : State) (g : Nat) : State :=
  let x := s.group g
  if x.retired then s else
  let ls := s.basin.lines.filter fun l => l.2.group = g
  let s := ls.foldl (fun s (l : Nat × Line) =>
    if !l.2.dirty then s.dropLine l.1
    else
      let s := s.loseLine l.1
      if inHost (l.1 * 256) then { s with link := { s.link with linesLost := s.link.linesLost + 1 } } else s.poison (l.1 * 256) 256) s
  let s := s.updGroup g fun y => { y with retired := true, change := none }
  let s := if x.scratch then s else (s.leaveCache g).flipAll
  s.doneOpt (x.change.map (·.done)) .faulted 0 []

/-- Ford goes (R630). -/
def State.loseFord (s : State) : State :=
  let s := (s.ford.jobs.map (·.1)).foldl (fun s i => s.fordEnd i 0x0D) s
  (s.ford.rings.map (·.1)).foldl State.ringError s

/-- A pipeline goes: its operation ends faulted at its time; a valley left without one refuses what it has queued
(Table 17.9). -/
def State.losePipe (s : State) (p : Nat) : State :=
  let jobs := s.cyn.jobs.map fun (j : Nat × CynJob) => if j.2.pipe = some p then (j.1, { j.2 with err := some 0x0D }) else j
  let s : State := { s with cyn := { s.cyn with jobs } }
  let out := s.cyn.jobs.filter fun j => j.2.pipe.isNone && (s.cynPipes j.2.valley).isEmpty
  out.foldl (fun s (j : Nat × CynJob) =>
    let s : State := { s with cyn := { s.cyn with jobs := del s.cyn.jobs j.1 } }
    (s.jobSync j.1 (u32 j.2.desc 4)).finishWith j.1 0x0A 0) s

/-- What a retirement takes out, by class. -/
def State.loseUnit (s : State) (u : UnitRef) : State :=
  match u.cls with
  | 1 | 2 => s.loseWork u
  | 3 => s.loseGroup (u.idx / 4)
  | 6 => (s.stopLink u.idx .retired).flushOutbox
  | 8 => s.loseFord
  | 9 => s.losePipe u.idx
  | _ => s

/-- The partner a candidate shadows (R689). -/
def State.shadowed (s : State) (u : UnitRef) : Nat :=
  match s.unitValley u with
  | none => u.idx
  | some v =>
    if u.cls = 1 then s.partnerAt v (s.bndNow v) u.idx
    else if !s.isRetired 2 (u.idx ^^^ 1) && !s.fenced 2 (u.idx ^^^ 1) then u.idx ^^^ 1
    else 2 * s.partnerAt v (s.bndNow v) (u.idx / 2)

/-- A partner that can serve no more is replaced; the candidate keeps what it has counted (R702). -/
def State.repartner (s : State) (u : UnitRef) : State :=
  { s with flt := { s.flt with readmits := s.flt.readmits.map fun r =>
      if r.phase = 1 && r.unit.cls = u.cls && r.partner = u.idx then { r with partner := s.shadowed r.unit } else r } }

/-- Retirement when a test fails (R685): RETIRE record, DEGRADED, UNIT_RETIRED. -/
def State.retireUnit (s : State) (u : UnitRef) (related : Nat) : State :=
  if s.isRetired u.cls u.idx then s
  else if u.cls = 4 || u.cls = 5 then (s.retireChannel (u.cls = 5) u.idx related).checkJournals
  else
    let v := s.unitValley u
    let (s, seq) := s.stage { kind := 2, source := 0x0A, cls := u.cls, unit := u.idx, valley := v.getD 0xFF, related }
    let s := { s with flt := { s.flt with retired := s.flt.retired ++ [u] } }
    let s := if s.dev.st = .ready then s.enter .degraded seq else s
    ((s.event 0x0A 2 (unitCode u) (leBytes 8 seq) v).loseUnit u).repartner u

/-! ## Targeted tests (R679, R680, R683) -/

/-- Tests run while firmware does, outside STANDBY. -/
def State.canTest (s : State) : Bool := s.fwRun && s.dev.st != .faultHold && s.dev.st != .standby

/-- The unit whose turn it is in its class (R698). -/
def State.packTurn (s : State) (cls : Nat) : Option Nat :=
  (List.range (classSize cls)).find? fun i =>
    let u : UnitRef := { cls, idx := i }
    s.hasUnit u && !s.isRetired cls i && !s.testing cls i && !s.fenced cls i && !(s.flt.readmits.any fun r => r.unit = u) && u ∉ s.flt.packDone

/-- Pack work on a unit pauses while its test runs, and resumes in the next window (R704). -/
def State.pausePack (s : State) (u : UnitRef) : State :=
  if s.flt.windowOpen && s.packTurn u.cls = some u.idx then s.setFlt { s.flt with packDone := s.flt.packDone ++ [u] } else s

/-- A test asked for starts, no sooner than 10 ms after the last one passed; that of a Pass port is a RETRAIN. -/
def execTargetedTestStart (unit : UnitRef) (s : State) : Out :=
  .next (match s.flt.tests.find? fun t => t.unit = unit && !t.running with
    | none => s
    | some _ =>
      if !s.canTest then s else
      let s := match look s.flt.lastPass (unit.cls * 65536 + unit.idx) with
        | some t => s.advanceTo (t + 10000000)
        | none => s
      let s := s.pausePack unit
      let s := { s with flt := { s.flt with tests := s.flt.tests.map fun (t : UnitTest) => if t.unit = unit then { t with running := true } else t } }
      let s := s.repartner unit
      if unit.cls = 6 && (s.plink unit.idx).st == .up then s.retrain unit.idx else s)

/-- The valleys whose boundary a readmitted unit waits for (Table 18.4, step 5). -/
def State.joinValleys (s : State) (u : UnitRef) : List Nat :=
  if u.cls = 7 || u.cls = 8 || u.cls = 3 then (List.range 8).filter fun v => (s.profile v).isSome
  else (s.unitValley u).toList

/-- The unit waits for its boundaries, or joins at once. -/
def State.awaitJoin (s : State) (r : Readmit) : State :=
  let vs := s.joinValleys r.unit
  let r := { r with phase := 2, valleys := vs }
  let s := { s with flt := { s.flt with readmits := s.flt.readmits.map fun x => if x.unit = r.unit then r else x } }
  if vs.isEmpty then s.join r
  else vs.foldl (fun s v => (s.arm v (.readmit r.unit) none).boundaryIfStopped v) s

/-- Step 2 of Table 18.4 is over. -/
def State.readmitTested (s : State) (r : Readmit) (pass : Bool) (seq : Nat) : State :=
  let u := r.unit
  if !pass then
    let s := { s with flt := { s.flt with readmits := s.flt.readmits.filter fun x => x.unit ≠ u } }
    s.done r.done .faulted 0 (leBytes 1 5 ++ zeros 7 ++ leBytes 8 seq)
  else if u.cls = 1 || u.cls = 2 then
    let v := (s.unitValley u).getD 0xFF
    let (s, start) := s.stage { kind := 3, source := 0x0A, cls := u.cls, unit := u.idx, valley := v, flags := 8, related := seq }
    let r := { r with phase := 1, partner := s.shadowed u, valley := v, startSeq := start }
    { s with flt := { s.flt with readmits := s.flt.readmits.map fun x => if x.unit = u then r else x } }
  else s.awaitJoin { r with startSeq := seq }

/-- A test ends: its record, the verdict, and what waited for it. A unit that stops responding fails (R708). -/
def execTargetedTestDone (unit : UnitRef) (pass : Bool) (s : State) : Out :=
  .next (match s.flt.tests.find? fun t => t.unit = unit && t.running with
    | none => s
    | some t =>
      let s := { s with flt := { s.flt with tests := s.flt.tests.filter fun x => x.unit ≠ unit } }
      let (s, seq) := s.stage {
        kind := 1, source := 0x0A, cls := unit.cls, unit := unit.idx, valley := (s.unitValley unit).getD 0xFF
        outcome := if pass then 2 else 3, related := t.firstSeq, count := t.covered }
      let f := s.flt
      let s : State := { s with flt := { f with
        transient := f.transient + b2n (pass && decide (0 < t.covered)), lasting := f.lasting + b2n (!pass)
        lastPass := if pass then put f.lastPass (unit.cls * 65536 + unit.idx) s.now else f.lastPass } }
      let s := t.waiters.foldl (fun s d => s.done d .ok 0 (leBytes 1 (if pass then 2 else 3) ++ zeros 7 ++ leBytes 8 seq)) s
      let s := match s.flt.readmits.find? fun r => r.unit = unit && r.phase = 0 with
        | some r => s.readmitTested r pass seq
        | none => s
      if pass then (if unit.cls = 8 then s.fordTurns else s)
      else if 0x0A ≤ unit.cls then s.deviceFault { source := 0x0A, event := 2, cls := unit.cls, unit := unit.idx }
      else s.retireUnit unit seq)

/-- A probation ends: every wave or position matched, or one did not (R689). -/
def execProbationDone (unit : UnitRef) (match_ : Bool) (s : State) : Out :=
  .next (match s.flt.readmits.find? fun r => r.unit = unit && r.phase = 1 with
    | none => s
    | some r =>
      if !match_ then s.failProbation unit
      else
        let (s, seq) := s.stage {
          kind := 4, source := 0x0A, cls := unit.cls, unit := unit.idx, valley := (s.unitValley unit).getD 0xFF, flags := 8
          related := r.startSeq }
        s.awaitJoin { r with startSeq := seq })

/-! ## Test windows and packs (R697-R699, R704) -/

/-- The first device time from t on at which a window is open (R698). -/
def Window.from_ (w : Window) (t : Nat) : Nat :=
  let ms := t / 1000000
  let p := max 1 w.periodMs
  let at_ := (ms + p - w.offsetMs % p) % p
  if at_ < w.lengthMs then t else (ms + (p - at_)) * 1000000

/-- When the window open at t ends. -/
def Window.until_ (w : Window) (t : Nat) : Nat :=
  let ms := t / 1000000
  let p := max 1 w.periodMs
  (ms - (ms + p - w.offsetMs % p) % p + w.lengthMs) * 1000000

/-- The next window starts: new settings and a new pack hold from here. -/
def execTestWindowOpen (s : State) : Out :=
  .next (match s.flt.windowNext <|> s.flt.window with
    | none => s
    | some w =>
      if s.flt.windowOpen || !s.canTest then s else
      let s := s.advanceTo (w.from_ s.now)
      let f := s.flt
      { s with flt := { f with
        window := some w, windowNext := none, windowOpen := w.classes != 0
        pack := if f.packGone then none else f.packNext <|> f.pack, packNext := none, packGone := false, packDone := [] } })

def execTestWindowClose (s : State) : Out :=
  .next (match s.flt.window with
    | none => s
    | some w =>
      if !s.flt.windowOpen then s else
      let s := s.advanceTo (w.until_ s.now)
      { s with flt := { s.flt with windowOpen := false, packDone := [] } })

/-- One test of the pack has run on a unit (R699). -/
def execPackTestComplete (unit : UnitRef) (test : Nat) (match_ last : Bool) (s : State) : Out :=
  .next (match s.flt.pack, s.flt.window with
    | some p, some w =>
      if !s.flt.windowOpen || !s.canTest || !w.classes.getLsbD unit.cls || !p.classes.getLsbD unit.cls || p.tests ≤ test ||
          s.packTurn unit.cls ≠ some unit.idx then s
      else
        let f := s.flt
        let s : State := { s with flt := { f with
          packRuns := f.packRuns + 1, packFails := f.packFails + b2n (!match_)
          packDone := if last then f.packDone ++ [unit] else f.packDone } }
        if match_ then s
        else
          let v := s.unitValley unit
          let (s, seq) := s.errorSeq { source := 0x0A, event := 0xC, cls := unit.cls, unit := unit.idx, valley := v.getD 0xFF, flags := 2, index := test } [unit]
          s.event 0x0A 4 (unitCode unit) (leBytes 8 seq) v
    | _, _ => s)

/-- The entries of a pack fill it exactly to its signature. -/
def packEntries : Nat → Bytes → Bool
  | 0, b => b.isEmpty
  | k + 1, b => 8 ≤ b.length && 8 + u32 b 4 ≤ b.length && packEntries k (b.drop (8 + u32 b 4))

def packFramed (b : Bytes) : Bool :=
  u32 b 0 = 0x4B434150 && u16 b 4 = 1 && u32 b 16 = b.length && 160 ≤ b.length &&
  packEntries (u32 b 12) ((b.take (b.length - 96)).drop 64)

/-- A signature under the pack-signing key: the owner key when one is fused, which fails where its hash does (R721, R743). -/
def State.packSigned (s : State) (msg sig : Bytes) : Bool :=
  match s.sec.ownerKeyHash with
  | some _ => (s.ownerKey.map fun h => Config.sigOk h msg sig).getD false
  | none => Config.sigOk vendorKeyHash msg sig

/-- Check a pack and take it (R716): status, DETAIL. -/
def State.loadPack (s : State) (a n : Nat) : State × St × Nat :=
  let b := s.bytes a n
  let signed_ := s.packSigned (b.take (n - 96)) (b.drop (n - 96))
  let p : Pack := { id := u16 b 6, version := u32 b 8, tests := u32 b 12, classes := BitVec.ofNat 16 (u16 b 20) }
  if u32 b 0 = 0x4B434150 && u16 b 4 = 1 && (p.tests = 0 || 65536 < p.tests) then (s, .badField, 0)
  else if s.poisoned a n || !packFramed b then (s, .checkFailed, 1)
  else if !signed_ then (s, .checkFailed, 2)
  else if ((s.flt.pack.map fun q => q.id == p.id && decide (p.version ≤ q.version)).getD false) then (s, .stale, 0)
  else if s.flt.windowOpen then ({ s with flt := { s.flt with packNext := some p, packGone := false } }, .ok, 0)
  else ({ s with flt := { s.flt with pack := some p, packNext := none, packGone := false } }, .ok, 0)

def fltPackLoad : Msg where
  op := 0x0A06
  mark := .dm
  cls := .o
  len := lenIs 16
  field := fun r _ => if bit (u8 r.pay 12) 0 then none else firstBad [(u32 r.pay 8 < 64 || 16777216 < u32 r.pay 8, 8)]
  run := fun r s =>
    let a := u64 r.pay 0
    let n := u32 r.pay 8
    let f := s.flt
    if bit (u8 r.pay 12) 0 then
      Res.okay { s with flt := if f.windowOpen then { f with packGone := true, packNext := none } else { f with pack := none, packNext := none } }
    else if !((inHbm a && inHbm (a + n - 1)) || (inHost a && inHost (a + n - 1))) || !rangeAll s.populated a n then Res.fail s .conflict
    else { s, st := .pending
           after := fun s =>
             let (s, st, d) := s.loadPack a n
             s.done r.deferred st d [] }

def execFltPackLoad (via : Via) (s : State) : Out := serve fltPackLoad via s

/-! ## Messages (R714, R715, R717) -/

/-- The fraction a valley will have after every change armed. -/
def State.nextFraction (s : State) (v : Nat) : Nat :=
  (s.valley v).changes.foldl (fun x a => match a.change with | .checked c => c | _ => x) (lookD s.flt.checked v 0)

def fltCheckedSet : Msg where
  op := 0x0A03
  mark := .dm
  cls := .o
  len := lenIs 4
  field := fun r _ => firstBad [(7 < u8 r.pay 0, 0), (5 < u8 r.pay 1, 1)]
  run := fun r s =>
    let v := u8 r.pay 0
    if (s.profile v).isNone then Res.fail s .conflict
    else if s.nextFraction v = u8 r.pay 1 then Res.okay s
    else { s := s.arm v (.checked (u8 r.pay 1)) (some r.deferred), st := .pending, after := fun s => s.boundaryIfStopped v }

def execFltCheckedSet (via : Via) (s : State) : Out := serve fltCheckedSet via s

def unitOf (p : Bytes) : UnitRef := { cls := u8 p 0, idx := u16 p 2 }

def unitAbsent (r : Req) (s : State) : Bool :=
  let u := unitOf r.pay
  u.cls ≤ 9 && u.idx < classSize u.cls && !s.hasUnit u

def unitField (r : Req) (_ : State) : Option Nat :=
  let u := unitOf r.pay
  firstBad [(u.cls = 0 || 9 < u.cls, 0), (classSize u.cls ≤ u.idx, 2)]

def fltSelftestRun : Msg where
  op := 0x0A04
  mark := .dm
  cls := .o
  len := lenIs 4
  absent := unitAbsent
  field := unitField
  run := fun r s =>
    let u := unitOf r.pay
    let ts := if s.flt.tests.any fun t => t.unit = u then s.flt.tests else s.flt.tests ++ [{ unit := u }]
    Res.pend { s with flt := { s.flt with tests := ts.map fun t => if t.unit = u then { t with waiters := t.waiters ++ [r.deferred] } else t } }

def execFltSelftestRun (via : Via) (s : State) : Out := serve fltSelftestRun via s

def fltUnitReadmit : Msg where
  op := 0x0A05
  mark := .dm
  cls := .o
  len := lenIs 4
  absent := unitAbsent
  field := unitField
  run := fun r s =>
    let u := unitOf r.pay
    if u.cls = 4 || u.cls = 5 then Res.fail s .conflict
    else if !s.isRetired u.cls u.idx then Res.okay s
    else if s.flt.readmits.any fun x => x.unit = u then Res.fail s .busy
    else if 4 ≤ s.flt.readmits.length then Res.fail s .noResource
    else
      let ts := if s.flt.tests.any fun t => t.unit = u then s.flt.tests else s.flt.tests ++ [{ unit := u }]
      Res.pend { s with flt := { s.flt with tests := ts, readmits := s.flt.readmits ++ [{ unit := u, done := r.deferred }] } }

def execFltUnitReadmit (via : Via) (s : State) : Out := serve fltUnitReadmit via s

def windowField (p : Bytes) : Option Nat :=
  firstBad [(u32 p 0 < 1000 || 86400000 < u32 p 0, 0), (u32 p 0 ≤ u32 p 4, 4), (u32 p 8 = 0 || u32 p 0 / 4 < u32 p 8, 8),
    (u8 p 14 = 0 || 8 < u8 p 14, 14)]

def windowOf (p : Bytes) : Window :=
  { periodMs := u32 p 0, offsetMs := u32 p 4, lengthMs := u32 p 8, classes := BitVec.ofNat 16 (u16 p 12), share := u8 p 14 }

def fltWindowSet : Msg where
  op := 0x0A07
  mark := .dm
  cls := .o
  len := lenIs 16
  field := fun r _ => windowField r.pay
  run := fun r s => Res.okay { s with flt := { s.flt with windowNext := some (windowOf r.pay) } }

def execFltWindowSet (via : Via) (s : State) : Out := serve fltWindowSet via s

end Sys2Proof.Machine
end

