-- ==== Sys2Proof/Machine/Power.lean ====
section
/-! DEFINITION. Power states and limits, debug levels and telemetry (20). Entry into STANDBY and the
wake from it are in Drain.lean. -/
namespace Sys2Proof.Machine
open Sys2Proof

def State.setPwr (s : State) (x : Pwr) : State := { s with pwr := x }

/-! ## Power state and limits (R750-R752, R758, R761, R776-R778) -/

/-- Limit in force, in W. -/
def State.limitW (s : State) : Nat := if s.pwr.st = .paced then s.pwr.limits.pacedLimitW else s.pwr.limits.limitW

def pwrStateOf (n : Nat) : PwrState := if n = 1 then .paced else if n = 2 then .dormant else .active

def pwrStateSet : Msg where
  op := 0x0C01
  mark := .dm
  cls := .x
  len := lenIs 4
  field := fun r _ => firstBad [(2 < u8 r.pay 0, 0)]
  run := fun r s =>
    let t := pwrStateOf (u8 r.pay 0)
    if s.dev.st = .standby then
      if s.pwr.wake.isSome then Res.fail s .busy
      else Res.pend (s.setPwr { s.pwr with wake := some { target := t, done := r.deferred, start := s.now } })
    else Res.okay (s.setPwr { s.pwr with pendingSt := some t })

def execPwrStateSet (via : Via) (s : State) : Out := serve pwrStateSet via s

def limitBytes (l : PwrLimits) : Bytes :=
  leBytes 2 l.limitW ++ leBytes 2 l.pacedLimitW ++ leBytes 2 l.pacedMv ++ leBytes 2 l.throttleMv ++
  leBytes 1 l.tjWarn ++ zeros 1 ++ leBytes 2 l.gateUs ++ zeros 4

/-- CAUSES of Table 20.9. -/
def State.pwrCauses (s : State) : Nat :=
  b2n s.pwr.throttle + 2 * b2n s.pwr.tjWarn + 4 * b2n s.pwr.powerLimit + 8 * b2n s.pwr.sensorFail

def State.hbmTempMax (s : State) : Int :=
  [1, 2, 3].foldl (fun m i => max m (s.hbmTemp i)) (s.hbmTemp 0)

def pwrQuery : Msg where
  op := 0x0C02
  mark := .both
  cls := .q
  len := lenIs 0
  run := fun _ s =>
    let left := (s.pwr.dbgDeadline.map fun d => ceilDiv (d - s.now) 1000000000).getD 0
    Res.okay s
      (leBytes 1 s.pwrCode ++ leBytes 1 s.pwrCauses ++ leBytes 1 s.pwr.dbgLevel ++
       leBytes 1 (if s.pwr.d3hot && !s.link.standalone then 3 else 0) ++ leBytes 4 left ++
       leBytes 4 s.pwr.powerMw ++ leBytes 4 (s.limitW * 1000) ++ leInt 2 s.pace.tj ++
       leInt 1 s.hbmTempMax ++ leInt 1 s.lpdTempMax ++ leBytes 2 s.pace.target ++ leBytes 2 s.vcoreCap ++
       leBytes 4 s.pwr.gatedGlens.toNat ++ leBytes 4 s.pwr.standbyEntries ++
       leBytes 4 s.pwr.throttleEvents ++ zeros 4 ++ limitBytes s.pwr.limits)

def execPwrQuery (via : Via) (s : State) : Out := serve pwrQuery via s

/-- First field outside Table 20.7. -/
def limitField (p : Bytes) : Option Nat :=
  firstBad [(u16 p 0 < 100 || 700 < u16 p 0, 0),
    (u16 p 2 < 100 || 700 < u16 p 2 || u16 p 0 < u16 p 2, 2),
    (u16 p 4 < 600 || 900 < u16 p 4, 4), (u16 p 6 < 600 || 900 < u16 p 6, 6),
    (u8 p 8 < 80 || 100 < u8 p 8, 8), (u16 p 10 = 0 || 10000 < u16 p 10, 10)]

def limitsOf (p : Bytes) : PwrLimits :=
  { limitW := u16 p 0, pacedLimitW := u16 p 2, pacedMv := u16 p 4, throttleMv := u16 p 6
    tjWarn := u8 p 8, gateUs := u16 p 10 }

def pwrLimitSet : Msg where
  op := 0x0C03
  mark := .dm
  cls := .o
  len := lenIs 16
  field := fun r _ => limitField r.pay
  run := fun r s => Res.okay (s.setPwr { s.pwr with pendingLimits := some (limitsOf r.pay) })

def execPwrLimitSet (via : Via) (s : State) : Out := serve pwrLimitSet via s

/-- A 1 ms power window (R752), or one whose measurement fails its own check (R773). -/
def execPowerWindow (milliwatts : Nat) (sensorOk : Bool) (s : State) : Out :=
  .next (if s.dev.st = .reset then s else
    let s := s.advanceTo (s.pwr.windowAt + 1000000)
    let s := s.setPwr { s.pwr with windowAt := s.now }
    if !sensorOk then
      if s.pwr.sensorFail then s
      else
        let s := s.setPwr { s.pwr with sensorFail := true, powerOver := false }
        if s.fwRun then s.pwrEvent 4 [1] else s
    else
      let above := s.governed && s.limitW * 1000 < milliwatts
      let was := s.pwr.powerLimit
      let s := s.setPwr { s.pwr with
        powerMw := milliwatts, powerLimit := above
        powerOver := s.governed && (s.limitW * 1020 < milliwatts || (s.pwr.powerOver && above)) }
      if above && !was then s.pwrEvent 4 [0] else s)

/-- THROTTLE_IN asserted: the cap falls, and the target with it, within 2 µs (R751, R769, R782). -/
def execThrottleInAssert (s : State) : Out :=
  .next (if s.input 5 && !s.pwr.throttle && s.governed then
    let s := s.setPwr { s.pwr with throttle := true, throttleEvents := s.pwr.throttleEvents + 1 }
    let s := { s with pace := { s.pace with target := min s.pace.target s.vcoreCap, easyRun := if s.vcoreCap < s.pace.target then 0 else s.pace.easyRun } }
    s.pwrEvent 2 [1]
  else s)

def execThrottleInRelease (s : State) : Out :=
  .next (if !s.input 5 && s.pwr.throttle && s.governed then
    (s.setPwr { s.pwr with throttle := false }).pwrEvent 2 [0]
  else s)

/-- Measured VCORE off target by more than 25 mV for 1 ms (R773). -/
def execVcoreDeviation (s : State) : Out :=
  .next (if s.governed && !s.pwr.holdTarget && (s.pace.meas + 25 < s.pace.target || s.pace.target + 25 < s.pace.meas) then
    (s.setPwr { s.pwr with holdTarget := true }).error { source := 0x0C, event := 0x0D } []
  else s)

/-! ## Debug levels (R755-R757, R770, R771, R779, R780) -/

/-- Change the level, resuming halted pairs before it falls below 2 (R764), and announce it. -/
def State.setDebug (s : State) (level : Nat) (deadline : Option Nat) : State :=
  let s := if level < 2 then s.tap.halted.foldl (fun s p => s.resumePair p) s else s
  let old := s.pwr.dbgLevel
  let s := s.setPwr { s.pwr with dbgLevel := level, dbgDeadline := deadline }
  if old ≠ level then s.pwrEvent 5 (leBytes 1 old ++ leBytes 1 level) else s

/-- Key a token must verify under; none where no token is needed (R756). -/
def State.tokenKey (s : State) (level : Nat) : Option (Option Bytes) :=
  if level = 1 || (level = 2 && s.sec.life.code = 0) then none
  else if level = 3 || s.sec.life.code = 3 then some (if s.sec.ownerKeyOk then some returnKeyHash else none)
  else some s.ownerKey

def dbgUnlock : Msg where
  op := 0x0C20
  mark := .dm
  cls := .o
  len := lenIs 136
  field := fun r _ => firstBad [(u8 r.pay 0 = 0 || 3 < u8 r.pay 0, 0), (604800 < u32 r.pay 4, 4)]
  run := fun r s =>
    let l := u8 r.pay 0
    if l = 3 && s.sec.life.code ≠ 3 then Res.fail s .denied else
    let (s, bad) := match s.tokenKey l with
      | some k => s.authorise r 8 k
      | none => (s, none)
    match bad with
    | some d => Res.fail s .checkFailed d
    | none =>
      if l < s.pwr.dbgLevel then Res.fail s .conflict
      else
        let d := if u32 r.pay 4 = 0 then none else some (s.now + u32 r.pay 4 * 1000000000)
        { s, after := fun s => s.setDebug l d }

def execDbgUnlock (via : Via) (s : State) : Out := serve dbgUnlock via s

def dbgLock : Msg where
  op := 0x0C21
  mark := .dm
  cls := .x
  len := lenIs 4
  run := fun r s =>
    if s.pwr.dbgLevel ≤ u8 r.pay 0 then Res.okay s
    else { s, after := fun s => s.setDebug (u8 r.pay 0) (if u8 r.pay 0 = 0 then none else s.pwr.dbgDeadline) }

def execDbgLock (via : Via) (s : State) : Out := serve dbgLock via s

def execDebugDurationExpire (s : State) : Out :=
  .next (match s.pwr.dbgDeadline with
    | none => s
    | some d => (s.advanceTo d).setDebug 0 none)

/-! ## Telemetry (R781) -/

/-- The counter array from a byte offset. -/
def State.counterBytes (s : State) (o n : Nat) : Bytes :=
  let first := o / 8
  slice ((List.range (n / 8 + 2)).flatMap fun i =>
    leBytes 8 (if first + i ≤ 163 then lookD s.pwr.counters (first + i) 0 else 0)) (o % 8) n

/-- The trace ring from a byte offset. -/
def State.traceBytes (s : State) (o n : Nat) : Bytes :=
  let first := o / 32
  slice ((List.range (n / 32 + 2)).flatMap fun i =>
    fit 32 (lookD s.pwr.trace ((first + i) % 4096) [])) (o % 32) n

/-- Level a selector needs. -/
def selectLevel (n : Nat) : Nat := if n ≤ 1 then 1 else n

def dbgTelemetryRead : Msg where
  op := 0x0C22
  mark := .dm
  cls := .q
  len := lenIs 16
  notReady := fun r s => s.dev.st = .standby && 2 ≤ u8 r.pay 0
  field := fun r _ => firstBad [(3 < u8 r.pay 0, 0),
    (448 < u32 r.pay 12 || (u8 r.pay 0 = 2 && (u32 r.pay 12 < 4 || u32 r.pay 12 % 4 ≠ 0)), 12)]
  run := fun r s =>
    let k := u8 r.pay 0
    let o := u64 r.pay 4
    let n := u32 r.pay 12
    let ans := fun (s : State) (next : Nat) (d : Bytes) =>
      Res.okay s (leBytes 1 k ++ zeros 3 ++ leBytes 4 n ++ leBytes 8 next ++ d)
    if s.pwr.dbgLevel < selectLevel k then Res.fail s .denied
    else match k with
    | 0 => ans s (o + n) (s.counterBytes o n)
    | 1 => ans s ((o + n) % 131072) (s.traceBytes o n)
    | 2 =>
      if !rangeAll s.populated o n then Res.field s 4
      else if s.poisoned o n then Res.fail s .checkFailed
      else ans s (o + n) (s.bytes o n)
    | _ =>
      let (d, s) := s.drawBytes 3 n
      ans s (o + n) d

def execDbgTelemetryRead (via : Via) (s : State) : Out := serve dbgTelemetryRead via s

/-- One entry of the trace ring every 1 ms of device time. -/
def execTraceTick (s : State) : Out :=
  .next (if s.dev.st = .reset then s else
    let s := s.advanceTo ((s.now / 1000000 + 1) * 1000000)
    let e := leBytes 8 s.now ++ leBytes 2 s.pace.device ++ leBytes 2 s.pace.meas ++ leBytes 4 s.pwr.powerMw ++
      leInt 2 s.pace.tj ++ leBytes 1 s.pwrCode ++ leBytes 1 s.pwrCauses ++ zeros 12
    s.setPwr { s.pwr with
      trace := put s.pwr.trace (s.pwr.traceCount % 4096) e, traceCount := s.pwr.traceCount + 1 })

end Sys2Proof.Machine
end

