-- ==== Sys2Proof/Machine/Check.lean ====
section
/-! DEFINITION. The check of a committed configuration: framing, then every record under the rules of the chapter that
owns its type (R14, R61, R62, R92, R93, Tables 2.13 and 2.15). -/
namespace Sys2Proof.Machine
open Sys2Proof

/-! ## Reasons and framing (R92, R93) -/

inductive Reason where
  | gap | mismatch | imageCrc | format | unknownRecord | recordField | unitAbsent | resource | missingRecord
deriving DecidableEq, Repr

def Reason.code : Reason → Nat
  | .gap => 1 | .mismatch => 2 | .imageCrc => 3 | .format => 4 | .unknownRecord => 5 | .recordField => 6
  | .unitAbsent => 7 | .resource => 8 | .missingRecord => 9

/-- DETAIL of a rejection: its reason and the index it names. -/
def Reason.at_ (r : Reason) (i : Nat) : Nat := rejectCode r.code i

/-- One record: TYPE and its value. -/
abbrev Rec := Nat × Bytes

/-- The `n` records from index `i` on; the index of the first whose framing fails. -/
def parseRecords : Nat → Nat → Bytes → Except Nat (List Rec)
  | 0, i, b => if b.isEmpty then .ok [] else .error i
  | n + 1, i, b =>
    let len := u16 b 2
    if b.length < 4 || len % 4 ≠ 0 || 4092 < len || b.length < 4 + len then .error i
    else match parseRecords n (i + 1) (b.drop (4 + len)) with
      | .ok rs => .ok ((u16 b 0, slice b 4 len) :: rs)
      | .error k => .error k

/-- An image of a generation: its records, or the DETAIL of its framing. -/
def parseImage (b : Bytes) (generation : Nat) : Except Nat (List Rec) :=
  if b.length < 16 || u32 b 0 ≠ 0x4746434F || u16 b 4 ≠ 1 || u32 b 8 ≠ generation then .error (Reason.format.at_ 0xFFFF)
  else match parseRecords (u16 b 6) 0 (b.drop 16) with
    | .ok rs => .ok rs
    | .error i => .error (Reason.format.at_ i)

/-- Length of each record type's value. -/
def recordLen : Nat → Option Nat
  | 0x0001 => some 4 | 0x0101 => some 32 | 0x0105 => some 20 | 0x0201 => some 64 | 0x0202 => some 256 | 0x0205 => some 20
  | 0x0210 => some 4 | 0x0300 => some 8 | 0x0400 => some 16 | 0x0600 => some 16 | 0x0604 => some 8 | 0x0605 => some 272
  | 0x0701 => some 72 | 0x0705 => some 56 | 0x0706 => some 40 | 0x0710 => some 24 | 0x0A03 => some 8 | 0x0A07 => some 16
  | 0x0B07 => some 8 | 0x0C03 => some 16 | 0x0C11 => some 72 | 0x0D01 => some 132 | 0x0D04 => some 8
  | _ => none

/-- What a type may appear once for: its valley or port, or the image. -/
def recordKey (x : Rec) : Nat := if x.1 = 0x0101 || x.1 = 0x0105 || x.1 = 0x0701 then u8 x.2 0 else 0

/-- The value of the first record of a type. -/
def recValue (rs : List Rec) (t : Nat) : Option Bytes := (rs.find? fun x => x.1 = t).map (·.2)

/-! ## The configuration as its records give it -/

/-- Records of the default profiles, used when an image carries no profile (R507). -/
def State.defaultRecords (s : State) : List Rec :=
  (List.range 8).filterMap fun v => (s.defaultProfile v).map fun b => (0x0101, b)

/-- The records of an image with the default profiles it falls back on. -/
def State.withDefaults (s : State) (rs : List Rec) : List Rec :=
  if rs.any fun x => x.1 = 0x0101 then rs else rs ++ s.defaultRecords

/-- A profile with its personality resolved (R476). -/
def State.profileRec (s : State) (b : Bytes) : Profile :=
  let p := profileOf b
  { p with personality := s.resolvePersonality p.personality }

/-- The profiles, by valley; the first of a valley counts. -/
def State.recProfiles (s : State) (rs : List Rec) : List (Nat × Profile) :=
  (rs.filter fun x => x.1 = 0x0101).map fun x => (u8 x.2 0, s.profileRec x.2)

def State.recProfile (s : State) (rs : List Rec) (v : Nat) : Option Profile :=
  ((s.recProfiles rs).find? fun e => e.1 = v).map (·.2)

/-- Narrows the records give a valley. -/
def recNarrows (rs : List Rec) (v : Nat) : Bytes :=
  ((rs.find? fun x => x.1 = 0x0105 && u8 x.2 0 = v).map fun x => x.2.drop 4).getD ({} : Valley).narrows

/-- MODE and OWNER of a group; CACHE where no record sets it (R165). -/
def recGroup (rs : List Rec) (g : Nat) : Nat × Nat :=
  match recValue rs 0x0201 with
  | some b => (u8 b (4 * g), u8 b (4 * g + 1))
  | none => (0, 0xFF)

/-! ## UNIT_ABSENT -/

def State.recAbsent (s : State) (rs : List Rec) (x : Rec) : Bool :=
  let b := x.2
  match x.1 with
  | 0x0101 => s.profileAbsent (profileOf b)
  | 0x0205 => !s.hasCxl
  | 0x0600 => (List.range 8).any fun p => (bit (u8 b 4) p || bit (u8 b 5) p) && !s.hasPass p
  | 0x0605 => s.routesAbsent (((recValue rs 0x0001).map fun d => u8 d 0).getD 0xFFFF) (slice b 16 256)
  | 0x0701 | 0x0705 | 0x0706 => !s.hasEth
  | 0x0710 => u8 b 0 = 1 && !s.hasPtp
  | _ => false

/-! ## RECORD_FIELD -/

/-- A node ID inside a topology (R532). -/
def inTopology (topology x y id : Nat) : Bool :=
  match topology with
  | 1 => id ≤ x
  | 2 => id / 16 < x && id % 16 < y
  | _ => true

def fabricBad (rs : List Rec) (b : Bytes) : Bool :=
  let t := u8 b 0
  let x := u8 b 1
  let y := u8 b 2
  2 < t || (t = 1 && (x = 0 || y ≠ 0)) || (t = 2 && (x = 0 || 16 < x || y = 0 || 16 < y)) ||
  !inTopology t x y (u8 b 3) || !((recValue rs 0x0001).map fun d => inTopology t x y (u8 d 0)).getD true

/-- BASIN_GROUPS: MODE, and an OWNER with a profile for SCRATCH, 0xFF for CACHE. -/
def State.groupsBad (s : State) (rs : List Rec) (b : Bytes) : Bool :=
  (List.range 16).any fun g =>
    let m := u8 b (4 * g)
    let o := u8 b (4 * g + 1)
    1 < m || (m = 1 && (7 < o || (s.recProfile rs o).isNone)) || (m = 0 && o ≠ 0xFF)

/-- BASIN_WAYS: no way in a SCRATCH group, none to a valley without a profile, none beside a SEPARATE valley's (Table
4.6). -/
def State.waysBad (s : State) (rs : List Rec) (b : Bytes) : Bool :=
  (List.range 16).any fun g =>
    let hold := ((waysOf b (16 * g)).filter fun e => e.2 ≠ 0).map (·.1)
    ((recGroup rs g).1 = 1 && !hold.isEmpty) || hold.any (fun v => (s.recProfile rs v).isNone) ||
    (1 < hold.length && hold.any fun v => ((s.recProfile rs v).map (·.separate)).getD false)

/-- HOST_WINDOW: with CXL active, in HBM that the valley's profile gives it (R171, R172, R575). -/
def State.hostWindowBad (s : State) (rs : List Rec) (b : Bytes) : Bool :=
  let o := u64 b 0
  let n := u64 b 8
  s.link.standalone || !s.link.cxlActive || (s.windowField b).isSome ||
  (n ≠ 0 && !(match s.recProfile rs (u8 b 16) with
    | none => false
    | some p => (List.range 16).all fun r => !overlaps o n (r * hbmRegionSize) hbmRegionSize || p.hbmRegions.getLsbD r))

/-- NARROWS: only of a REGULATED valley that has a profile (R510). -/
def State.narrowsBad (s : State) (rs : List Rec) (b : Bytes) : Bool :=
  (narrowsField b).isSome || ((s.recProfile rs (u8 b 0)).map (·.separate)).getD true

def mgmtBad (b : Bytes) : Bool := 3 < u8 b 0 || udpBad (u16 b 2) || 128 < u8 b 6

/-- ACCESS: some existing transport keeps bit 11 (R741). -/
def State.accessBad (s : State) (b : Bytes) : Bool := !(s.transports.any fun t => bit (u16 b (2 * t)) 11)

/-- GPIO: every entry good, in pin order. -/
def gpioBad (b : Bytes) : Bool := (badEntry b 4 32).isSome || (List.range 32).any fun i => u8 b (4 + 4 * i) ≠ i

def State.recBad (s : State) (rs : List Rec) (x : Rec) : Bool :=
  let b := x.2
  recordLen x.1 ≠ some b.length ||
  match x.1 with
  | 0x0101 => (profileField b).isSome || (u8 b 11 ≠ 0 && (s.profileRec b).personality ≠ 84)
  | 0x0105 => s.narrowsBad rs b
  | 0x0201 => s.groupsBad rs b
  | 0x0202 => s.waysBad rs b
  | 0x0205 => s.hostWindowBad rs b
  | 0x0210 => 168 < u16 b 0
  | 0x0300 => (List.range 8).any fun v => u8 b v = 0 || 15 < u8 b v
  | 0x0400 => (List.range 8).any fun v => u16 b (2 * v) ≠ 0 && (u16 b (2 * v) < 10 || 10000 < u16 b (2 * v))
  | 0x0600 => fabricBad rs b
  | 0x0604 => (List.range 8).any fun i => 7 < u8 b i && u8 b i ≠ 0xFF
  | 0x0605 => u8 b 12 = 0
  | 0x0701 => (portField b).isSome
  | 0x0705 => !s.link.standalone || (poolField b).isSome
  | 0x0706 => !s.link.standalone || mgmtBad b
  | 0x0710 => (timeField b).isSome
  | 0x0A03 => (List.range 8).any fun v => 5 < u8 b v
  | 0x0A07 => (Sys2Proof.Machine.windowField b).isSome
  | 0x0B07 => s.accessBad b
  | 0x0C03 => (limitField b).isSome
  | 0x0C11 => (govField b).isSome
  | 0x0D01 => gpioBad b
  | 0x0D04 => (smbField b).isSome
  | _ => false

/-! ## RESOURCE -/

/-- Two valleys are given the same way of a group. -/
def waysTwice (b : Bytes) : Bool :=
  (List.range 16).any fun g =>
    let w := waysOf b (16 * g)
    (List.range 16).any fun k => 1 < (w.filter fun e => bit e.2 k).length

/-- A unit, object, region, share or rate that the records before have taken, or a copy too many. -/
def State.recTaken (s : State) (rs earlier : List Rec) (x : Rec) : Bool :=
  (earlier.any fun y => y.1 = x.1 && recordKey y = recordKey x) ||
  match x.1 with
  | 0x0101 =>
    let p := s.profileRec x.2
    let others := s.recProfiles earlier
    (others.any fun e => p.clashes e.2) || 64 < p.hwtShare + (others.map fun e => e.2.hwtShare).sum
  | 0x0105 => !ratesOk (s.recProfiles rs) (recNarrows (earlier ++ [x]))
  | 0x0202 => waysTwice x.2
  | _ => false

/-! ## The check (R61, R93) -/

/-- Why one record fails, in the order of R93. -/
def State.recFails (s : State) (rs earlier : List Rec) (x : Rec) : Option Reason :=
  if (recordLen x.1).isNone then some .unknownRecord
  else if recordLen x.1 = some x.2.length && s.recAbsent rs x then some .unitAbsent
  else if s.recBad rs x then some .recordField
  else if s.recTaken rs earlier x then some .resource
  else none

/-- The first record that fails: the records before it, and those still to check. -/
def State.firstFail (s : State) (rs : List Rec) : List Rec → List Rec → Option Nat
  | _, [] => none
  | earlier, x :: more =>
    match s.recFails rs earlier x with
    | some r => some (r.at_ earlier.length)
    | none => s.firstFail rs (earlier ++ [x]) more

/-- The outcome of CONFIG_CHECK: the records, or the DETAIL of the rejection. -/
def State.checkImage (s : State) (image : Bytes) (generation : Nat) : Except Nat (List Rec) :=
  match parseImage image generation with
  | .error d => .error d
  | .ok rs =>
    let all := s.withDefaults rs
    match s.firstFail all [] all with
    | some d => .error d
    | none =>
      if (recValue all 0x0001).isNone then .error (Reason.missingRecord.at_ 0x0001)
      else if (recValue all 0x0101).isNone then .error (Reason.missingRecord.at_ 0x0101)
      else .ok all

end Sys2Proof.Machine
end

