-- ==== Sys2Proof/Machine/Reset.lean ====
section
/-! DEFINITION. Resets: their sources, what each kind keeps, release and straps (R73, R164, R166, R196, R200, R201, R295,
R573, R599, R709, R744, R786, R787, R812, R817, R818). -/
namespace Sys2Proof.Machine
open Sys2Proof

/-! ## What a reset keeps -/

/-- State before RESET, as PREV_STATE shows it. -/
def State.prevOfReset (s : State) : DevState := if s.dev.st = .reset then s.dev.prev else s.dev.st

/-- What every reset keeps of chapter 19 (R744). -/
def Sec.kept (x : Sec) : Sec :=
  { life := x.life, ownerKeyHash := x.ownerKeyHash, ownerKeyOk := x.ownerKeyOk, voteCorrected := x.voteCorrected
    otp := x.otp, svnFloor := x.svnFloor, flash := x.flash }

/-- A cold reset: fuses, pins, hard repairs and the pending list stay; everything else is as at power-up. -/
def State.coldReset (s : State) : State :=
  let s := s.stopFlashCommit.stopOtp
  { ({} : State) with
    fuse := s.fuse
    rst := { s.rst with cold := true, lost := 0, strapsDue := false }
    dev := { prev := s.prevOfReset }
    gpio := { ext := s.gpio.ext, forced := s.gpio.forced }
    sec := s.sec.kept
    ext := { hstacks := s.ext.hstacks.map fun (x : Nat × Stack) =>
      (x.1, { lanesMarked := x.2.lanesMarked, hardUsed := x.2.hardUsed, hardPending := x.2.hardPending, hardDone := x.2.hardDone }) }
    free := s.free, out := s.out, pending := s.pending }

/-- Events a reset loses: staged, or begun and not written. -/
def Flt.unwritten (f : Flt) : Nat := ((f.writing.toList ++ f.staged).filter fun e => !e.marker).foldl (fun n e => n + e.count) 0

/-- A soft repair that a reset meets: between its steps 3 and 6 its row is poisoned at the next training (R201); before
them nothing was done. Which of the two it is, is free. -/
def State.tearSoft (s : State) : State :=
  match s.ext.softBusy with
  | none => s
  | some x =>
    let (n, s) := s.drawNat 63
    { s with ext := { s.ext with softTorn := if n % 2 = 1 then some (x.stack, x.pc, x.bank, x.row) else s.ext.softTorn } }

/-- A warm reset: besides that, external memory with its poison, soft repairs and retirements, the fault ring and its
counters, device time, telemetry and the list of journals stay. Dirty lines are lost. -/
def State.warmReset (s : State) : State :=
  let s := s.stopFlashCommit.stopOtp.stopReturn.loseAll.tearSoft
  let lost := s.flt.unwritten
  let e := s.ext
  let f := s.flt
  { ({} : State) with
    fuse := s.fuse
    rst := { s.rst with cold := false, lost := s.rst.lost + lost, strapsDue := false }
    dev := { prev := s.prevOfReset, since := s.now, lastGen := s.dev.lastGen, acceptedImage := s.dev.acceptedImage }
    ram := s.ram.filter fun c => fltBase ≤ c.1
    gpio := { ext := s.gpio.ext, forced := s.gpio.forced, straps := s.gpio.straps }
    smb := { addrPins := s.smb.addrPins }
    sec := s.sec.kept
    pwr := {
      counters := s.pwr.counters, trace := s.pwr.trace, traceCount := s.pwr.traceCount
      standbyEntries := s.pwr.standbyEntries, throttleEvents := s.pwr.throttleEvents }
    flt := {
      nextSeq := f.nextSeq, ringCons := f.ringCons, lost := satAdd 0xFFFFFFFF f.lost lost, transient := f.transient
      lasting := f.lasting, packRuns := f.packRuns, packFails := f.packFails
      retired := f.retired.filter fun u => u.cls = 4 || u.cls = 5 }
    time := {
      now := s.time.now, cfg := s.time.cfg, ratePpb := s.time.ratePpb, refLost := s.time.refLost, steps := s.time.steps
      settled := s.time.settled, ref := s.time.ref
      sync := if s.time.cfg.mode = 1 || s.time.cfg.mode = 3 then 1 else 0 }
    mem := s.mem.filter fun c => !inScratch c.1
    ext := {
      poison := e.poison, hbmGone := e.hbmGone, lpdGone := e.lpdGone, pcRetired := e.pcRetired, chRetired := e.chRetired
      hstacks := e.hstacks, soft := e.soft, lpdCorrected := e.lpdCorrected, scrubPasses := e.scrubPasses
      softTorn := e.softTorn
      cold := false, selfRefresh := true }
    core := { journals := s.core.journals }
    link := { standalone := s.link.standalone, dlDowns := s.link.dlDowns }
    cyn := { areas := s.cyn.areas }
    free := s.free, out := s.out, pending := s.pending }

/-- A reset of a kind begins, or extends the one in progress; a cold source makes it cold (R786). -/
def State.toReset (s : State) (cold : Bool) : State :=
  if cold || (s.dev.st = .reset && s.rst.cold) then s.coldReset else s.warmReset

/-! ## Release -/

/-- Some source of Table 21.4 is asserted. PERST_N counts in coherent mode, once the mode is known (R817). -/
def State.heldInReset (s : State) : Bool :=
  !s.rst.pwrok || !s.rst.resetN || (!s.rst.perstN && !s.rst.first && !s.link.standalone) || s.rst.internal.isSome

/-- Enter FAULT_HOLD with no record: a failed fuse check, self-test or firmware load (R81). -/
def State.holdAtStart (s : State) : State := s.zeroRings.enter .faultHold 0

/-- The last source is released: the capability fuses are read and checked once while power lasts (R16, R18), the RESET record is staged first, and SELFTEST begins; the
straps follow 5 µs later. -/
def State.unreset (s : State) (f : FuseRead) : State :=
  if s.heldInReset || s.dev.st ≠ .reset then s else
  let lost := s.rst.lost
  let ok := if s.rst.fused then s.fuse.checkOk else f.capsOk
  let s := { s with
    fuse := { s.fuse with checkOk := ok }
    sec := { s.sec with voteCorrected := s.sec.voteCorrected || f.voteSplit, ownerKeyOk := f.keyOk }
    dev := { s.dev with warmLast := !s.rst.cold }
    pace := { s.pace with at_ := s.now }
    rst := { s.rst with strapsDue := true, lost := 0, fused := true } }
  let s := (s.stage { kind := 8, source := 0x0A, count := lost, syndrome := if s.rst.cold then 2 else 1 }).1
  if ok then s.enter .selftest 0 else s.holdAtStart

/-! ## Sources -/

def execPwrokFall (s : State) : Out :=
  .next (if s.rst.pwrok then { s with rst := { s.rst with pwrok := false } }.toReset true else s)

def execPwrokRise (fuses : FuseRead) (s : State) : Out :=
  .next ({ s with rst := { s.rst with pwrok := true, off := false } }.unreset fuses)

def execResetNAssert (s : State) : Out :=
  .next (if s.rst.resetN then
    let s := { s with rst := { s.rst with resetN := false } }
    if s.rst.off then s else s.toReset false
  else s)

def execResetNDeassert (fuses : FuseRead) (s : State) : Out :=
  .next ({ s with rst := { s.rst with resetN := true } }.unreset fuses)

/-- In standalone mode, and before the first mode is known, only the level is noted. -/
def execPerstNAssert (s : State) : Out :=
  .next (if s.rst.perstN then
    let s := { s with rst := { s.rst with perstN := false } }
    if s.rst.off || s.rst.first || s.link.standalone then s else s.toReset false
  else s)

def execPerstNDeassert (fuses : FuseRead) (s : State) : Out :=
  .next ({ s with rst := { s.rst with perstN := true } }.unreset fuses)

/-- An internal source acts and holds the device in reset. -/
def State.internalReset (s : State) (cold : Bool) : State :=
  let kind := cold || s.rst.internal.getD false
  { s with rst := { s.rst with internal := some kind } }.toReset cold

def execPcieHotReset (s : State) : Out :=
  .next (if s.link.standalone || !s.link.up then s else s.internalReset false)

/-- It comes as a configuration request, which must be answered (R83). -/
def execFunctionLevelReset (s : State) : Out :=
  .next (if s.link.standalone || !s.link.up || !s.fwRun then s else s.internalReset false)

/-- 5 µs of a warm internal reset, during which device time runs. -/
def execInternalResetHoldExpire (fuses : FuseRead) (s : State) : Out :=
  .next (match s.rst.internal with
    | none => s
    | some _ =>
      let s := if s.rst.cold then s else s.advanceTo (s.dev.since + 5000)
      { s with rst := { s.rst with internal := none } }.unreset fuses)

/-- Every rail falls. A hard repair being programmed is programmed or not; the pending list is lost (R185, R201). -/
def execPowerLoss (s : State) : Out :=
  .next (
    let torn : List Nat := if s.ext.training then [0, 1, 2, 3] else []
    let s := torn.foldl (fun (s : State) i => (s.stack i).hardPending.foldl (fun (s : State) p =>
      let (n, s) := s.drawNat 62
      if n % 2 = 1 then s.updStack i fun x => { x with hardDone := x.hardDone ++ [p], hardUsed := x.hardUsed + 1 } else s) s) s
    let s := s.coldReset
    { s with
      rst := { s.rst with pwrok := false, internal := none, first := true, off := true, fused := false }
      ext := { s.ext with hstacks := s.ext.hstacks.map fun (x : Nat × Stack) => (x.1, { x.2 with hardPending := [], lanesMarked := [] }) } })

/-! ## Straps (R13, R573, R787, R817) -/

/-- The part is the CDL-S8400N, by its fused variant: DEV_CAPS may read zero (R16). -/
def State.isModule (s : State) : Bool := s.fuse.variant = 0x04

/-- The attach mode: by DEV_CAPS.CXL and the part, then by the setting, then by the strap (R13, R573). -/
def State.attachStandalone (s : State) (strap : Bool) : Bool :=
  if s.isModule || !s.hasCxl then true else match s.otpValue 1 with
  | some b => u8 b 0 = 1
  | none => strap

/-- A strap or setting that asks for coherent mode a part that has none. -/
def State.attachClash (s : State) (strap : Bool) : Bool :=
  (s.isModule || !s.hasCxl) && (!strap || ((s.otpValue 1).map fun b => u8 b 0 == 0).getD false)

/-- The straps are sampled, the attach mode and the two-wire address resolved. At the first release PERST_N may take
the device back into reset. -/
def execStrapSample (s : State) : Out :=
  .next (if !s.rst.strapsDue || s.dev.st = .reset then s else
    let s := s.advanceTo (s.dev.since + 5000)
    let pin := maskOf ((List.range 4).filter fun i => s.padAt (24 + i))
    let strap := bit pin 0
    let otp := (s.otpValue 3).map fun b => u8 b 0
    let pins := pin / 2
    let first := s.rst.first
    let s := { s with
      rst := { s.rst with strapsDue := false, first := false }
      gpio := { s.gpio with straps := BitVec.ofNat 4 pin }
      link := { s.link with standalone := s.attachStandalone strap }
      dev := { s.dev with attachConflict := s.attachClash strap }
      smb := { s.smb with
        addrPins := BitVec.ofNat 3 pins, fromOtp := otp.isSome, addr := BitVec.ofNat 7 (0x58 + otp.getD pins) } }
    if first && !s.link.standalone && !s.rst.perstN then s.toReset false else s)

/-! ## DEV_RESET and the two-wire RESET (R95, R166, R812) -/

def devReset : Msg where
  op := 0x0021
  mark := .dm
  cls := .x
  len := lenIs 8
  field := fun r _ => firstBad [(u8 r.pay 0 = 0 || 2 < u8 r.pay 0, 0), (u32 r.pay 4 ≠ 0xC0DA, 4)]
  run := fun r s => Res.okay { s with dev := { s.dev with resetPending := some (max (u8 r.pay 0) (s.dev.resetPending.getD 0)) } }

def execDevReset (via : Via) (s : State) : Out := serve devReset via s

/-- The reset begins, 100 µs after the response or later; a warm one after every dirty line is written back. -/
def execDevResetStart (s : State) : Out :=
  .next (match s.dev.resetPending with
    | none => s
    | some k =>
      let s := s.advanceTo (s.now + 100000)
      if k = 1 then s.writeBackAll.internalReset false else s.internalReset true)

/-- Command 0x04: KIND 1 or 2 with its CONFIRM value; the PEC is required. During a reset only a cold one over a warm
one has effect. -/
def execSmbReset (kind confirm : Nat) (pec : Pec) (s : State) : Out :=
  .next (if s.rst.off then s.emit .smbNack
    else if s.pecFails true pec then s.nackPec
    else if !(kind = 1 || kind = 2) || confirm ≠ 0xC0DA then s
    else if s.dev.st = .reset && !(kind = 2 && !s.rst.cold) then s
    else s.internalReset (kind = 2))

end Sys2Proof.Machine
end

