-- ==== Sys2Proof/Machine/Accept.lean ====
section
/-! DEFINITION. What an accepted configuration sets, and the outcome of CONFIG_CHECK (R61, R64, R80, R84, R165, R207, R259,
R307, R507, R564, R580, R600). -/
namespace Sys2Proof.Machine
open Sys2Proof

/-- Change the state by the value of a record, where the configuration carries it. -/
def State.withRec (s : State) (rs : List Rec) (t : Nat) (f : State → Bytes → State) : State :=
  match recValue rs t with
  | some b => f s b
  | none => s

/-- Change it by each record of a type. -/
def State.withEach (s : State) (rs : List Rec) (t : Nat) (f : State → Bytes → State) : State :=
  (rs.filter fun x => x.1 = t).foldl (fun s x => f s x.2) s

/-! ## Basin, memory and valleys -/

/-- A slice of a group is retired: the group stays out (R161). -/
def State.sliceGone (s : State) (g : Nat) : Bool := s.flt.retired.any fun u => u.cls = 3 && u.idx / 4 = g

/-- The layout of R165: groups, ways (none without record 0x0201), buckets and host window, with every scratch group zeroed. -/
def State.setLayout (s : State) (rs : List Rec) : State :=
  let ways := fun g => match recValue rs 0x0202 with
    | some b => if (recValue rs 0x0201).isNone then [] else (waysOf b (16 * g)).filter fun e => e.2 ≠ 0
    | none => []
  let group := fun (g : Nat) =>
    let m := recGroup rs g
    let x : Group := { scratch := m.1 = 1, owner := if m.1 = 1 then some m.2 else none, ways := ways g, retired := s.sliceGone g }
    (g, x)
  let s := s.forgetHost
  let s := { s with
    mem := s.mem.filter fun c => !inScratch c.1
    basin := {
      groups := (List.range 16).map group
      clock := s.basin.clock, ceCount := s.basin.ceCount, ueCount := s.basin.ueCount } }
  let s := s.assignBuckets
  s.withRec rs 0x0205 fun s b => { s with basin := { s.basin with
    winSize := u64 b 8, winOffset := if u64 b 8 = 0 then 0 else u64 b 0, winValley := u8 b 16 } }

/-- Each valley has its profile, policies, narrows and checked fraction, and starts unless HOLD is set (R507). -/
def State.setValleys (s : State) (rs : List Rec) : State :=
  let policy := recValue rs 0x0300
  let auto := recValue rs 0x0400
  let s := { s with valleys := (List.range 8).map fun v =>
    let x : Valley := {
      profile := s.recProfile rs v
      st := if (s.recProfile rs v).isSome then .stopped else .noProfile
      narrows := recNarrows rs v
      autoUs := (auto.map fun b => u16 b (2 * v)).getD 100
      peerWeight := (policy.map fun b => u8 b v).getD 4 }
    (v, x) }
  let s := s.withRec rs 0x0A03 fun s b => { s with flt := { s.flt with
    checked := ((List.range 8).map fun v => (v, u8 b v)).filter fun e => e.2 ≠ 0 } }
  (s.recProfiles rs).foldl (fun s e => if e.2.hold then s else s.startValley e.1) s

/-! ## Fabric and networks -/

/-- PASS_FABRIC, PASS_SCHEDULE and PASS_ROUTES; the schedule has GEN 1 and is in force at once (R564, R566). On the first
entry into READY fabric time starts from device time (R528; DESIGN CHOICE for a node that is not the root, log 55). -/
def State.setFabric (s : State) (first : Bool) (rs : List Rec) : State :=
  let d : Fabric := {}
  let ps := if first then 1000 * s.now else s.fabric.ps
  let start := if first then s.now else s.fabric.at_
  let s := { s with fabric := {
    ps, at_ := start, dropped := s.fabric.dropped, schedGen := 1
    boundary := (ps + 1000 * (s.now - start)) / (1024 * roundPs)
    windows := (recValue rs 0x0604).getD d.windows } }
  let s := s.withRec rs 0x0600 fun s b => { s with fabric := { s.fabric with
    topology := u8 b 0, xSize := u8 b 1, ySize := u8 b 2, root := u8 b 3
    enabled := BitVec.ofNat 8 (u8 b 4), encrypt := BitVec.ofNat 8 (u8 b 5)
    hopLimit := if u8 b 6 = 0 then 255 else u8 b 6 } }
  s.withRec rs 0x0605 fun s b => { s with fabric := { s.fabric with
    routeGen := 1, hopLimit := u8 b 12, routes := some (b.drop 16) } }

/-- Links of LINKS_ENABLED begin their delay; the others are disabled (R84, R564). -/
def State.setLinks (s : State) : State :=
  (List.range 8).foldl (fun s p =>
    if !s.hasPass p || s.isRetired 6 p then s
    else if s.fabric.enabled.getLsbD p then s.startLink p (s.fabric.encrypt.getLsbD p) false
    else s.updLink p fun l => { (l.stop .disabled 0) with shut := {} }) s

/-- NET_PORT, POOL_NODE and NET_MGMT; a port without a record stays down (R600). -/
def State.setNets (s : State) (rs : List Rec) : State :=
  let s := s.noteEdges { s with eth := s.eth.map fun (e : Nat × EthPort) => (e.1, { e.2 with cfg := [], up := false }) }
  let s := s.withEach rs 0x0701 fun s b => s.updEth (u8 b 0) fun e => { e with cfg := b }
  let s := { s with pool := {}, mgmt := { s.mgmt with port := none, cfg := [], notifyDest := 0 } }
  let s := s.withRec rs 0x0705 State.setPool
  s.withRec rs 0x0706 fun s b => { s with mgmt := { s.mgmt with
    port := some (u16 b 2), cfg := b, notifyDest := beNat (slice b 24 16) * 65536 + u16 b 4 } }

/-! ## Pace, time, power, security, board -/

/-- DESIGN CHOICE: the TIME record acts as TIME_PTP_SET does, at the next pace sample, after the entry into READY, so that
its HOST offset is slewed (log 93). -/
def State.setOthers (s : State) (rs : List Rec) : State :=
  let s := s.withRec rs 0x0C11 fun s b => { s with pace := { s.pace with gov := govOf b, govPending := none } }
  let s := s.withRec rs 0x0710 fun s b => { s with time := { s.time with pending := some (timeOf b) } }
  let s := s.withRec rs 0x0C03 fun s b => s.setPwr { s.pwr with limits := limitsOf b, pendingLimits := none }
  let s := s.withRec rs 0x0A07 fun s b => { s with flt := { s.flt with windowNext := some (windowOf b) } }
  let s := s.withRec rs 0x0B07 fun s b => ((s.setMask 0 (u16 b 0)).setMask 1 (u16 b 2)).setMask 2 (u16 b 4)
  let s := s.withRec rs 0x0D01 fun s b => s.mapPins (pinEntries b 4 32) (BitVec.ofNat 32 (u32 b 0))
  let s := s.withRec rs 0x0D04 State.setSmb
  { s with ext := { s.ext with scrubHours := ((recValue rs 0x0210).map fun b => u16 b 0).getD 24 } }

/-! ## Outcomes of CONFIG_CHECK -/

/-- The configuration is accepted: everything it sets, then the notification, then READY or DEGRADED. -/
def State.accept (s : State) (c : Commit) (rs : List Rec) : State :=
  let first := !s.dev.everReady
  let s := { s with
    dev := { s.dev with
      commit := none, lastGen := c.generation, acceptedImage := c.image
      nodeId := ((recValue rs 0x0001).map fun b => u8 b 0).getD 0xFFFF, everReady := true }
    time := { s.time with settled := true }
    link := { s.link with cxlEnabled := s.link.cxlActive && s.link.up && !s.link.standalone } }
  let s := ((((s.setLayout rs).setValleys rs).setFabric first rs).setNets rs).setOthers rs
  (s.setLinks.doneOpt c.done .ok 0 []).enter s.servingState 0

/-- The configuration is rejected: the notification, then CONFIG_REJECTED, with links down and CXL.cache and CXL.mem
disabled (R80). -/
def State.refuse (s : State) (c : Commit) (detail : Nat) : State :=
  let s := { s with
    dev := { s.dev with commit := none }
    link := { s.link with cxlEnabled := false } }
  (s.linksDown.doneOpt c.done .checkFailed detail []).reject detail

/-- The check ends, not before memory training does (Table 2.7). -/
def execConfigCheckDone (s : State) : Out :=
  .next (match s.dev.commit with
    | none => s
    | some c =>
      if s.dev.st ≠ .configCheck || !s.dev.memTrained then s
      else match s.checkImage c.image c.generation with
      | .ok rs => s.accept c rs
      | .error d => s.refuse c d)

/-! ## Entry into AWAIT_CONFIG -/

/-- Standalone, the CONFIG entry of the flash is committed at once (R64, R580). -/
def State.autoCommit (s : State) : State :=
  if !s.link.standalone then s else
  match look s.sec.flash 3 with
  | none => s.reject (Reason.format.at_ 0xFFFF)
  | some e =>
    let n := e.bytes.length
    if !e.crcOk then s.reject (Reason.imageCrc.at_ 0)
    else if e.generation = 0 || e.generation < s.dev.lastGen || n < 16 || 1048576 < n || n % 4 ≠ 0 then
      s.reject (Reason.format.at_ 0xFFFF)
    else
      let c : Commit := { image := e.bytes, generation := e.generation, done := none }
      { s with dev := { s.dev with commit := some c } }.enter .configCheck 0

end Sys2Proof.Machine
end

