-- ==== Sys2Proof/Machine/Start.lean ====
section
/-! DEFINITION. Start-up: power-on self-test, firmware load, memory training, configuration requests and the device-level
status (R75, R81, R83, R89, R126, R184, R185, R199-R201, R683, R709, R729, R730, R772). -/
namespace Sys2Proof.Machine
open Sys2Proof

/-! ## Self-test (R81, R161, R709) -/

/-- A slice of every Basin group failed. -/
def allGroupsFail (failed : List UnitRef) : Bool :=
  (List.range 16).all fun g => failed.any fun u => u.cls = 3 && u.idx / 4 = g

/-- A unit that SELFTEST can retire. -/
def State.retirable (s : State) (u : UnitRef) : Bool := u.cls ≤ 9 && u.idx < classSize u.cls && s.hasUnit u

/-- A failing unit: TEST_RESULT and RETIRE records. -/
def State.failSelftest (s : State) (u : UnitRef) : State :=
  if s.isRetired u.cls u.idx then s else
  let (s, seq) := s.stage { kind := 1, source := 0x0A, cls := u.cls, unit := u.idx, outcome := 3 }
  { s with flt := { s.flt with lasting := s.flt.lasting + 1 } }.retireUnit u seq

def execSelftestDone (coresOk frontEndOk : Bool) (failed : List UnitRef) (s : State) : Out :=
  .next (if s.dev.st ≠ .selftest || s.rst.strapsDue then s
    else if !coresOk || !frontEndOk || allGroupsFail failed then s.holdAtStart
    else ((failed.filter s.retirable).foldl State.failSelftest s).enter .fwLoad 0)

/-! ## Firmware load (R729, R730) -/

/-- An image is valid under R729. -/
def State.fwValid (s : State) (b : Bytes) : Bool := fwFormat b && fwKey b && fwSigned b && s.sec.svnFloor ≤ u32 b 12

/-- FW_A and FW_B with a matching CRC, by descending generation. -/
def State.fwEntries (s : State) : List (Nat × FlashImage) :=
  let ok := (s.sec.flash.filter fun e => (e.1 = 1 || e.1 = 2) && e.2.crcOk)
  match ok with
  | [a, b] => if a.2.generation < b.2.generation then [b, a] else [a, b]
  | l => l

/-- The flash directory as a programmer outside the device left it while the device was held in reset (R743, R819). -/
def flashEntries (w : FlashWrite) : TMap FlashImage :=
  (w.fwA.map fun e => (1, e)).toList ++ (w.fwB.map fun e => (2, e)).toList ++ (w.cfg.map fun e => (3, e)).toList

/-- AWAIT_CONFIG after a reset: rings are zeroed, memory training and the governor start, VCORE standing where the
regulator powers on (R126). -/
def State.startFirmware (s : State) (region : Nat) (image : Bytes) : State :=
  let (n, s) := s.drawNat 60
  let s := { s with
    dev := { s.dev with fwVersion := u32 image 8, fwImage := image, heartbeatAt := s.now }
    sec := { s.sec with bootImage := region }
    ext := { s.ext with training := true, cold := s.rst.cold }
    pace := { s.pace with target := 750 + n % 51 } }
  (s.zeroRings.enter .awaitConfig 0).autoCommit

def execFwLoadDone (written : Option FlashWrite) (s : State) : Out :=
  .next (if s.dev.st ≠ .fwLoad then s else
    let s := match written with
      | some w => { s with sec := { s.sec with flash := flashEntries w } }
      | none => s
    let tried := s.fwEntries
    let good := tried.find? fun e => s.fwValid e.2.bytes
    let failed := (tried.takeWhile fun e => !s.fwValid e.2.bytes).map fun e => e.1 - 1
    let s := { s with sec := { s.sec with bootFails := BitVec.ofNat 2 (maskOf failed) } }
    match good with
    | some e => s.startFirmware e.1 e.2.bytes
    | none => s.holdAtStart)

/-! ## Memory training (R185, R199-R201) -/

/-- A stack's pending hard repairs are programmed and recorded. -/
def State.programHard (s : State) (i : Nat) : State :=
  let l := (s.stack i).hardPending
  let s := l.foldl (fun (s : State) p => (s.stage {
    kind := 6, source := 2, event := 2, cls := 4, unit := i * 32 + p.1, subunit := p.2.1, index := p.2.2 }).1) s
  s.updStack i fun x => { x with hardDone := x.hardDone ++ l, hardPending := [] }

/-- A soft repair that a reset interrupted is completed: the whole row is poisoned (R201). -/
def State.completeTorn (s : State) : State :=
  match s.ext.softTorn with
  | none => s
  | some (k, pc, bank, row) =>
    let s := (List.range 16).foldl (fun s i => s.poison (Config.hbmRowSector k pc bank row i) 64) s
    { s with ext := { s.ext with softTorn := none, soft := s.ext.soft ++ [(k, pc, bank, row)] } }

/-- Training ends: the lanes of each stack that failed it, to which the marked ones come, and the hard repairs the stack
holds; then the channels that failed. -/
def execMemTrainingDone (spared hardUsed : List Nat) (failedPc failedCh : List Nat) (s : State) : Out :=
  .next (if !s.ext.training then s else
    let s := (List.range 4).foldl State.programHard s
    let s := (List.range 4).foldl (fun (s : State) i => s.updStack i fun x => { x with
      lanesSpared := min (Config.hbmSpareLanes i) (spared.getD i 0 + x.lanesMarked.length), lanesMarked := []
      hardUsed := hardUsed.getD i x.hardDone.length }) s
    let s := { s with ext := { s.ext with training := false, selfRefresh := false } }.completeTorn
    let s := (failedPc.filter (· < 128)).foldl (fun s c => s.retireChannel false c 0) s
    let s := if s.hasLpd then (failedCh.filter (· < 32)).foldl (fun s c => s.retireChannel true c 0) s else s
    let s := s.cyn.areas.foldl (fun (s : State) a => { s with mem := zeroN s.mem a.1 a.2 }.clearPoison a.1 a.2) s
    { s with cyn := { s.cyn with areas := [] }, dev := { s.dev with memTrained := true } })

/-! ## Configuration requests (R83, R599) -/

def execPcieConfigRequest (s : State) : Out :=
  .next (if s.link.standalone || s.dev.st = .reset then s else s.emit (.pcieConfig s.fwRun))

/-! ## Faults of the device (R75, R683, R772) -/

/-- 5 ms without an advance of MBX_HEARTBEAT. -/
def execHeartbeatWatchdogExpire (s : State) : Out :=
  .next (if s.firmwareRuns then
    (s.advanceTo (s.dev.heartbeatAt + 5000000)).deviceFault { source := 0, event := 9, cls := 0x0F }
  else s)

def execLockstepMismatch (core : Nat) (s : State) : Out :=
  .next (if s.dev.st = .reset || 4 ≤ core then s
    else s.deviceFault { source := 0x0A, event := 7, cls := 0x0B, unit := core })

/-- Glens of the part, as a mask. -/
def State.glenMask (s : State) : W32 := BitVec.ofNat 32 (Sys2Proof.Machine.maskOf ((List.range 32).filter s.hasGlen))

/-- Its record, FAULT_HOLD, then units gated, memory in self-refresh and VCORE at 600 mV (R772). -/
def execThermalSupplyFault (s : State) : Out :=
  .next (if s.dev.st = .reset then s else
    let s := s.deviceFault { source := 0x0C, event := 0xB, cls := 0x0F }
    let s := s.setPwr { s.pwr with gatedGlens := s.glenMask }
    { s with ext := { s.ext with selfRefresh := true }, pace := { s.pace with target := 600 } })

/-- DORMANT: a glen idle for GATE_US (R754). -/
def execGlenGate (glen : Nat) (s : State) : Out :=
  .next (
    let c := s.core
    let busy := (c.threads.any fun t => t.2.glen = glen && !t.2.saved) || (c.bags.any fun b => b.2.glen = glen && !b.2.saved) ||
      (c.plain.any fun o => o.2.glen = glen && !o.2.saved)
    if s.pwr.st = .dormant && s.governed && s.hasGlen glen && !busy then
      s.setPwr { s.pwr with gatedGlens := s.pwr.gatedGlens ||| ((1 : W32) <<< glen) }
    else s)

/-! ## DEV_STATUS (R89) -/

/-- Retired units of a class, as a mask. -/
def State.retiredMask (s : State) (cls : Nat) : Nat := Sys2Proof.Machine.maskOf ((s.flt.retired.filter fun u => u.cls = cls).map (·.idx))

/-- DEV_STATUS. JOURNAL shows that a journal is there: one a warm reset left (R295), or DESIGN CHOICE one registered in this
run (log 94). -/
def devStatus : Msg where
  op := 0x0002
  mark := .both
  cls := .q
  len := lenIs 0
  run := fun _ s =>
    let d := s.dev
    let flags := b2n d.attachConflict + 2 * b2n d.warmLast + 4 * b2n (!s.core.journals.isEmpty) + 8 * b2n d.staging.isSome +
      16 * b2n d.memTrained
    Res.okay s
      (leBytes 1 d.st.code ++ leBytes 1 d.prev.code ++ leBytes 2 flags ++ leBytes 4 d.lastGen ++ leBytes 4 d.rejectDetail ++
       leBytes 4 ((d.staging.map (·.generation)).getD 0) ++ leBytes 4 ((d.staging.map fun g => g.chunks.length).getD 0) ++
       leBytes 4 (s.retiredMask 1) ++ leBytes 1 (s.retiredMask 6) ++ leBytes 1 (s.retiredMask 7) ++ zeros 2 ++
       leBytes 4 (s.retiredMask 5) ++ leBytes 8 (s.retiredMask 2) ++ leBytes 8 s.now ++ leBytes 8 d.since)

def execDevStatus (via : Via) (s : State) : Out := serve devStatus via s

end Sys2Proof.Machine
end

