-- ==== Sys2Proof/Machine/Drain.lean ====
section
/-! DEFINITION. Draining, entry into AWAIT_CONFIG from it, STANDBY and the wake from it, and the change of lifecycle (R65,
R72, R85, R94, R160, R289, R507, R560, R720, R738, R745, R759-R761, R766, R767, R776). -/
namespace Sys2Proof.Machine
open Sys2Proof

def State.setDrain (s : State) (d : Option Drain) : State := { s with dev := { s.dev with drain := d } }

/-! ## DEV_DRAIN (R72, R94, R289, R766) -/

/-- Advances that are deferred or catching up end without a flip. -/
def State.endAdvances (s : State) : State :=
  (s.core.sets.filter fun x => (x.2.advance.map fun a => decide (a.phase < 4)).getD false).foldl
    (fun s x => s.endAdvance x.1 .notReady) s

def devDrain : Msg where
  op := 0x0020
  mark := .dm
  cls := .x
  len := lenIs 8
  field := fun r _ => firstBad [(1 < u8 r.pay 0, 0), (60000 < u32 r.pay 4, 4)]
  run := fun r s =>
    let standby := u8 r.pay 0 = 1
    if standby && s.link.decoder then Res.fail s .conflict
    else if standby && !s.tap.halted.isEmpty then Res.fail s .busy
    else
      let d : Drain := {
        standby, done := r.deferred, deadline := if u32 r.pay 4 = 0 then none else some (s.now + 1000000 * u32 r.pay 4) }
      { s := { s.setDrain (some d) with drainSt := s.valleys.map fun (v : Nat × Valley) => (v.1, v.2.st) }
        st := .pending
        after := fun s => s.endAdvances.enter .draining 0 }

def execDevDrain (via : Via) (s : State) : Out := serve devDrain via s

/-- LIMIT_MS runs out: contexts that hold a request are torn down with reason LIMIT. -/
def execDrainLimitExpire (s : State) : Out :=
  .next (match s.dev.drain with
    | none => s
    | some d =>
      match d.deadline with
      | none => s
      | some t =>
        if s.dev.st ≠ .draining || d.phase ≠ 0 then s else
        let s := s.advanceTo t
        let cs := (List.range 8).flatMap fun v => (s.holders v).map fun c => (v, c)
        let ended := (cs.map fun c => s.ctxInflight c.1 c.2).sum
        let s := cs.foldl (fun s c => s.teardown c.1 c.2 1 0) s
        s.setDrain (some { d with deadline := none, torn := d.torn + cs.length, ended := d.ended + ended }))

/-! ## Arrival in AWAIT_CONFIG (R65, R72, R85, R160) -/

/-- What R65, R428, R600 and R709 discard; external memory, hardware settings and the current layout stay. -/
def State.discardJobs (s : State) : State :=
  let d : Fabric := {}
  s.noteEdges { s with
    core := { journals := s.core.journals }
    valleys := [], ford := {}, cyn := { areas := s.cyn.areas }, pool := {}, drainSt := []
    basin := { s.basin with lines := [], flushes := [], poisonChunks := s.basin.poisonChunks }
    ext := { s.ext with retires := [], leaving := [], softBusy := none }
    flt := { s.flt with
      checked := [], credit := [], tests := [], readmits := [], pack := none, packNext := none, packGone := false
      window := none, windowNext := none, windowOpen := false, packDone := [] }
    pace := { s.pace with gov := {}, govPending := none, valley := [] }
    sec := { s.sec with otpProg := none }
    fabric := { s.fabric with windows := d.windows, sched := none, routing := none }
    links := s.links.map fun (l : Nat × PassLink) => (l.1, { l.2 with shut := {} })
    eth := s.eth.map fun (e : Nat × EthPort) => (e.1, { e.2 with up := false }) }

/-- RESULT of DEV_DRAIN. -/
def Drain.result (d : Drain) : Bytes := leBytes 4 d.torn ++ leBytes 4 d.ended

/-- Deferred operations that a drain's arrival does not end (R72). -/
def State.drainKeeps (s : State) (d : Drain) (x : Deferred) : Bool :=
  x == d.done || (s.sec.flashCommit.map fun c => c.done == x).getD false

/-- The drain arrives in AWAIT_CONFIG: rings are zeroed; Basin changes complete; other operations end NOT_READY;
DEV_DRAIN completes; the state is announced. -/
def State.arriveReconfig (s : State) (d : Drain) : State :=
  let s := s.zeroRings
  let s := (List.range 16).foldl State.finishChange s
  let s := s.endDeferred .notReady (s.drainKeeps d)
  let s := s.done d.done .ok 0 d.result
  let s := (s.writeBackAll.linksDown.setDrain none).discardJobs
  (s.enter .awaitConfig 0).autoCommit

/-- The last admitted request completes. Towards STANDBY, Headwater, Ford and Canyon take no more work (Table 20.3 step 1). -/
def execDrainComplete (s : State) : Out :=
  .next (match s.dev.drain with
    | none => s
    | some d =>
      if s.dev.st ≠ .draining || d.phase ≠ 0 || !s.core.reqs.isEmpty then s
      else if d.standby then s.setDrain (some { d with phase := 1 })
      else s.arriveReconfig d)

/-! ## Entry into STANDBY (R759, Table 20.3) -/

def execStandbyWritebackDone (s : State) : Out :=
  .next (match s.dev.drain with
    | some d =>
      if s.dev.st ≠ .draining || d.phase ≠ 1 then s
      else ((s.emptyLines (s.basin.lines.map (·.1))).linksDown).setDrain (some { d with phase := 2 })
    | none => s)

def execStandbySelfRefreshDone (s : State) : Out :=
  .next (match s.dev.drain with
    | some d =>
      if s.dev.st ≠ .draining || d.phase ≠ 2 then s
      else
        let s := s.advanceTo (s.now + 10000)
        { s with ext := { s.ext with selfRefresh := true } }.setDrain (some { d with phase := 3 })
    | none => s)

/-- A deferred operation that ends NOT_READY leaves no effect (R54): what it had armed is disarmed. -/
def State.disarm (s : State) : State :=
  let s := (s.core.sets.filter fun x => x.2.advance.isSome).foldl (fun s x => s.endAdvance x.1 .notReady) s
  let keep := fun (a : Armed) => a.done.isNone && (match a.change with | .basin _ | .channel _ _ | .readmit _ => false | _ => true)
  let c := s.core
  let s := { s with
    valleys := s.valleys.map fun (v : Nat × Valley) => (v.1, { v.2 with
      changes := v.2.changes.filter keep
      retiring := v.2.retiring.map fun (r : Retiring) => { r with done := none }
      shut := {}, limit := none })
    core := { c with
      sessions := c.sessions.filter fun x => x.done.isNone
      ctxs := c.ctxs.map fun (x : Nat × Context) => (x.1, { x.2 with
        graphs := (x.2.graphs.filter fun g => g.2.current.isSome).map fun (g : Nat × Graph) =>
          (g.1, { g.2 with armed := false, retiring := false }) })
      sqs := c.sqs.map fun (q : Nat × Sq) => (q.1, { q.2 with done := none, st := if q.2.st = 3 then 1 else q.2.st })
      streams := c.streams.map fun (x : Nat × Stream) => (x.1, { x.2 with shut := {}, st := if x.2.st = 2 then 1 else x.2.st })
      eps := c.eps.map fun (e : Nat × Endpoint) => (e.1, { e.2 with closing := none }) }
    ford := { s.ford with rings := s.ford.rings.map fun (r : Nat × Ring) =>
      (r.1, { r.2 with done := none, st := if r.2.st = 2 then 1 else r.2.st }) }
    cyn := { s.cyn with ctxs := s.cyn.ctxs.map fun (x : Nat × CynCtx) =>
      (x.1, { x.2 with shut := {}, st := if x.2.st = 2 then 1 else x.2.st }) }
    basin := { s.basin with flushes := [] }
    ext := { s.ext with retires := [], leaving := [], softBusy := none }
    flt := { s.flt with readmits := [], tests := s.flt.tests.map fun (t : UnitTest) => { t with waiters := [] } }
    sec := { s.sec with otpProg := none }
    fabric := { s.fabric with sched := none, routing := none }
    links := s.links.map fun (l : Nat × PassLink) => (l.1, { l.2 with
      shut := {}, st := if l.2.st == .shuttingDown then .backoff else l.2.st }) }
  (List.range 16).foldl (fun s g =>
    match (s.group g).change with
    | none => s
    | some ch =>
      let s := s.setChange g none
      if ch.toScratch && !(s.group g).scratch && ch.phase ≠ 0 && ch.ways.isEmpty then (s.enterCache g).flipAll else s) s

/-- Units are gated, VCORE falls to 600 mV, and the device is in STANDBY. -/
def execStandbyEntryDone (s : State) : Out :=
  .next (match s.dev.drain with
    | some d =>
      if s.dev.st ≠ .draining || d.phase ≠ 3 then s
      else
        let s := s.disarm.endDeferred .notReady (s.drainKeeps d)
        let s := s.setPwr { s.pwr with
          heldVcore := s.pace.target, gatedGlens := s.glenMask, standbyEntries := s.pwr.standbyEntries + 1, pendingSt := none }
        let s := { s with pace := { s.pace with target := 600 } }
        ((s.done d.done .ok 0 d.result).setDrain none).enter .standby 0
    | none => s)

/-! ## Wake (R761, Table 20.5) -/

/-- The VCORE target held before entry, under the cap of the power state that is the wake's target. -/
def execStandbyWakeVcore (s : State) : Out :=
  .next (match s.pwr.wake with
    | some w =>
      if s.dev.st ≠ .standby || w.phase ≠ 0 then s
      else
        let s := s.advanceTo (w.start + 20000)
        let s := s.setPwr { s.pwr with wake := some { w with phase := 1 }, throttle := s.input 5 }
        let cap := ({ s with dev := { s.dev with st := .ready }, pwr := { s.pwr with st := w.target } } : State).vcoreCap
        { s with pace := { s.pace with target := min s.pwr.heldVcore cap } }
    | none => s)

def execStandbyWakeMemoryDone (s : State) : Out :=
  .next (match s.pwr.wake with
    | some w =>
      if s.dev.st ≠ .standby || w.phase ≠ 1 then s
      else { s with ext := { s.ext with selfRefresh := false, poweredDown := [] } }.setPwr { s.pwr with wake := some { w with phase := 2 } }
    | none => s)

/-- Every valley is as it was when the device entered DRAINING (R507). -/
def State.restoreValleys (s : State) : State :=
  { s with
    valleys := s.valleys.map fun (v : Nat × Valley) => (v.1, { v.2 with st := lookD s.drainSt v.1 v.2.st })
    drainSt := [] }

/-- Each link of LINKS_ENABLED draws a new backoff. -/
def State.redrawBackoff (s : State) : State :=
  (List.range 8).foldl (fun s p =>
    if (s.plink p).st != .backoff then s else
    let (n, s) := s.drawNat 43
    s.updLink p fun l => { l with until_ := s.now + n % 5000001 }) s

def execStandbyWakeDone (s : State) : Out :=
  .next (match s.pwr.wake with
    | some w =>
      if s.dev.st ≠ .standby || w.phase ≠ 2 then s
      else
        let s := s.advanceTo (s.now + 50000)
        let s := s.setPwr { s.pwr with wake := none, st := w.target, gatedGlens := 0 }
        let s := s.restoreValleys.redrawBackoff
        (s.done w.done .ok 0 (leBytes 4 ((s.now - w.start) / 1000))).enter s.servingState 0
    | none => s)

/-! ## SEC_LIFECYCLE_SET (R719, R720, R738, R740, R745) -/

/-- Table 19.1: a transition from one state, by code, to another. -/
def lifecycleAllowed (from_ next : Nat) : Bool := (from_ = 0 && next = 1) || (from_ = 1 && next = 2) || (from_ ≤ 2 && next = 3)

/-- The transition to RETURNED begins: every job on the device ends. -/
def State.beginReturn (s : State) (d : Deferred) : State :=
  { s with
    sec := { s.sec with returning := some d }
    core := { journals := s.core.journals }, ford := {}, cyn := { areas := s.cyn.areas } }

def secLifecycleSet : Msg where
  op := 0x0B01
  mark := .dm
  cls := .o
  len := lenIs 228
  field := fun r _ => firstBad [(u8 r.pay 0 = 0 || 3 < u8 r.pay 0, 0)]
  run := fun r s =>
    let goal := u8 r.pay 0
    let now := s.sec.life.code
    let key := slice r.pay 4 96
    if s.sec.otpProg.isSome || (goal = 3 && s.sec.flashCommit.isSome) then Res.fail s .busy
    else if goal = now then Res.okay s
    else if !lifecycleAllowed now goal then Res.fail s .conflict
    else if goal = 1 then
      if !Config.p384Point key then Res.field s 4
      else Res.okay (s.setSec { s.sec with
        ownerKeyHash := some (sha384 key), ownerKeyOk := true, life := { s.sec.life with provisioned := true } })
    else
      let (s, bad) := if now = 0 then (s, none) else s.authorise r 100 s.ownerKey
      match bad with
      | some d => Res.fail s .checkFailed d
      | none =>
        if goal = 2 then Res.okay (s.setSec { s.sec with life := { s.sec.life with deployed := true } })
        else Res.pend (s.beginReturn r.deferred)

def execSecLifecycleSet (via : Via) (s : State) : Out := serve secLifecycleSet via s

/-- Memory and the flash CONFIG entry are zeroed, RETURNED is fused, and a cold reset follows. -/
def execLifecycleReturnDone (s : State) : Out :=
  .next (match s.sec.returning with
    | none => s
    | some _ =>
      let s := s.setSec { s.sec with
        returning := none, flash := del s.sec.flash 3, life := { s.sec.life with returned := true } }
      { s with mem := s.mem.filter fun c => inHost c.1, basin := { s.basin with lines := [] } }.internalReset true)

end Sys2Proof.Machine
end

