-- ==== Sys2Proof/Machine/Regs.lean ====
section
/-! DEFINITION. Host reads of BAR0: the value of every aligned 4-byte unit, the side effects of reading it, and reads of any
size and alignment (R4, R5, R7, R121, R391, R395, R428, R826, R829-R832, R834, R835, R840; Tables 2.9, 3.6, 10.6, 11.4a,
18.10, 21.14, 22.1-22.8). -/
namespace Sys2Proof.Machine
open Sys2Proof

/-! ## Values -/

/-- The two halves of a 64-bit register. -/
def lo32 (x : W64) : Nat := x.toNat % 2 ^ 32
def hi32 (x : W64) : Nat := x.toNat / 2 ^ 32

/-- Identity (Table 22.2). -/
def State.readIdentity (s : State) (r : Nat) : Nat :=
  match r with
  | 0x0 => s.devId.toNat
  | 0x8 => lo32 s.devCaps
  | 0xC => hi32 s.devCaps
  | _ => 0

/-- MBX_STATUS (Table 2.9). -/
def State.mbxStatus (s : State) (b : Mbx) : Nat :=
  s.dev.st.code + 16 * b2n s.fwRun + 32 * b2n b.reqIdxErr + 64 * b2n b.rspIdxErr + 128 * b2n b.ntfIdxErr +
  256 * min 8 b.deferred.length + 65536 * b.ntfLost

/-- A register of mailbox pair `n` (Table 22.3). -/
def State.readMbx (s : State) (n r : Nat) : Nat :=
  let b := s.box n
  match r with
  | 0x3000 => b.doorbell.toNat
  | 0x3004 => b.reqCons.toNat
  | 0x3008 => b.rspProd.toNat
  | 0x300C => b.rspCons.toNat
  | 0x3010 => b.ntfProd.toNat
  | 0x3014 => b.ntfCons.toNat
  | 0x3018 => s.mbxStatus b
  | 0x301C => b.irqEn.toNat
  | 0x3020 => b.irqStat.toNat
  | 0x3024 => s.dev.heartbeat.toNat
  | _ => 0

/-- PACE_VALLEYv and PACE_GLENn; those of an absent glen read as zero (R834). -/
def State.readPaceValley (s : State) (v : Nat) : Nat :=
  (s.paceValley v).index + 65536 * (s.govValley v).cls + 262144 * b2n (s.heldBack v) + 524288 * b2n (s.paceValley v).below
def State.readPaceGlen (s : State) (g : Nat) : Nat :=
  if s.hasGlen g then
    lookD s.pace.glen g 0 + 65536 * b2n (decide (g ∈ s.pace.faulty)) + 131072 * b2n (s.isRetired 1 g)
  else 0

/-- A register of the pace window (Table 22.4). A low read serves one read of the high half (R121). -/
def State.readPace (s : State) (r : Nat) : Nat :=
  match r with
  | 0x000 => s.pace.device
  | 0x004 => s.pace.minRead
  | 0x008 => s.pace.seq.toNat
  | 0x00C => s.pace.cc
  | 0x010 => s.pace.basin
  | 0x014 => s.pace.target + 65536 * s.pace.meas
  | 0x018 => (BitVec.ofInt 12 s.pace.tj).toNat
  | 0x01C => s.paceFlags
  | 0x100 => s.now % 2 ^ 32
  | 0x104 => if s.time.hiValid then s.time.hi.toNat else s.now / 2 ^ 32 % 2 ^ 32
  | 0x108 => s.syncState + 4 * s.time.cfg.mode + 16 * b2n s.time.stepped
  | _ =>
    if 0x20 ≤ r && r < 0x40 then s.readPaceValley ((r - 0x20) / 4)
    else if 0x80 ≤ r && r < 0x100 then s.readPaceGlen ((r - 0x80) / 4)
    else 0

/-- A register of the GPIO and two-wire block (Table 22.5); SET and CLR are aliases of the latch. -/
def State.readGpio (s : State) (r : Nat) : Nat :=
  match r with
  | 0x00 => s.padLevel
  | 0x04 => s.gpio.latch.toNat
  | 0x08 => s.gpio.latch.toNat
  | 0x0C => s.gpio.latch.toNat
  | 0x10 => s.gpioConflict
  | 0x14 => s.gpio.straps.toNat
  | 0x18 => s.gpio.edge.toNat
  | 0x20 => lo32 s.gpio.trigTime
  | 0x24 => if s.gpio.trigHiValid then s.gpio.trigHi.toNat else hi32 s.gpio.trigTime
  | 0x28 => s.gpio.trigCount.toNat
  | 0x100 => s.smb.addrPins.toNat
  | 0x104 => s.smb.addr.toNat + 256 * b2n s.smb.fromOtp
  | 0x108 => s.smb.pecErrors + 65536 * s.smb.timeouts
  | 0x10C => s.smbFlags
  | _ => if 0x80 ≤ r && r < 0x100 then (s.fn ((r - 0x80) / 4)).word else 0

/-- FLT_CHECKED: the code of each valley's fraction in force. -/
def State.fltChecked (s : State) : Nat :=
  (List.range 8).foldl (fun n v => n + 16 ^ v * lookD s.flt.checked v 0) 0

/-- A register of the fault window (Table 22.6). -/
def State.readFlt (s : State) (r : Nat) : Nat :=
  let f := s.flt
  match r with
  | 0x8000 => f.prod % 2 ^ 32
  | 0x8004 => f.ringCons.toNat
  | 0x8008 => b2n (256 ≤ f.unread) + 2 * b2n f.consErr + 4 * b2n f.writing.isSome + 256 * f.staged.length
  | 0x800C => f.lost
  | 0x8010 => s.fltChecked
  | 0x8014 => f.transient
  | 0x8018 => f.lasting
  | 0x801C => (f.pack.map (·.id)).getD 0
  | 0x8020 => f.packRuns
  | 0x8024 => f.packFails
  | _ => 0

/-- An object's value as the host reads it: zero while POISONED (R393). -/
def SyncObj.seen (o : SyncObj) : W64 := if o.poisoned then 0 else o.value

/-- An object's registers read: in FAULT_HOLD, and outside all ranges, as zero (R395). -/
def State.syncReadable (s : State) (g : Nat) : Bool :=
  s.bar0 && s.dev.st != .faultHold && (s.syncValley g).isSome

/-- SYN_STATUS (Table 10.6). -/
def State.synStatus (s : State) (g : Nat) : Nat :=
  let o := s.obj g
  b2n o.armed + 2 * b2n o.fired + 4 * b2n o.poisoned + 8 * b2n o.notifyErr + 16 * b2n o.sizeErr +
  256 * ((s.syncValley g).getD 0xFF) + 65536 * o.refused

/-- A register of a sync object (Table 22.7). -/
def State.readSync (s : State) (g r : Nat) : Nat :=
  let o := s.obj g
  if !s.syncReadable g then 0 else
  match r with
  | 0x00 => lo32 o.seen
  | 0x04 => if o.hiValid then o.hi.toNat else hi32 o.seen
  | 0x18 => lo32 o.notifyAt
  | 0x1C => hi32 o.notifyAt
  | 0x20 => o.ctrl.toNat
  | 0x30 => s.synStatus g
  | _ => 0

/-- A register of a doorbell page; that of a queue that does not exist, and in FAULT_HOLD, reads as zero (R428, R840). -/
def State.readBell (s : State) (q r : Nat) : Nat :=
  if s.dev.st = .faultHold then 0 else
  match r, look s.core.sqs q, look s.core.cqs q with
  | 0x00, some x, _ => x.prod.toNat
  | 0x08, some x, _ => x.cons.toNat
  | 0x10, some x, _ => x.st + 4 * b2n x.pending + 16 * x.err + 65536 * min 65535 x.inflight
  | 0x40, _, some c => c.head.toNat
  | 0x48, _, some c => c.tail.toNat
  | 0x58, _, some c => c.st + 4 * b2n c.armed + 16 * c.err
  | _, _, _ => 0

/-- A ring area reads as memory (R832). -/
def inRing (o : Nat) : Bool :=
  (0x100000 ≤ o && o < 0x124000 && (o - 0x100000) % 0x4000 < 0x2400) || (0x150000 ≤ o && o < 0x158000)

/-- The value of the aligned 4-byte unit at an offset of BAR0 (Table 22.1); everything that is reserved reads as zero. -/
def State.unitAt (s : State) (o : Nat) : Nat :=
  if inRing o then u32 (rdN s.ram o 4) 0
  else if o < 0x100000 then s.readIdentity o
  else if o < 0x124000 then s.readMbx ((o - 0x100000) / 0x4000) ((o - 0x100000) % 0x4000)
  else if 0x130000 ≤ o && o < 0x131000 then s.readPace (o - 0x130000)
  else if 0x140000 ≤ o && o < 0x141000 then s.readGpio (o - 0x140000)
  else if 0x158000 ≤ o && o < 0x160000 then s.readFlt (o - 0x150000)
  else if 0x800000 ≤ o && o < 0x1000000 then s.readSync ((o - 0x800000) / 64) (o % 64)
  else if 0x1000000 ≤ o && o < 0x2000000 then s.readBell ((o - 0x1000000) / 4096) (o % 4096)
  else 0

/-! ## Side effects -/

/-- What a 4-byte read of an object leaves: the low half of SYN_VALUE latches the high half for the following read (R391), and
REFUSED clears. -/
def State.afterSync (s : State) (g r : Nat) : State :=
  let o := s.obj g
  if !s.syncReadable g then s else
  match r with
  | 0x00 => s.setObj g { o with hi := (o.seen >>> 32).setWidth 32, hiValid := true }
  | 0x04 => s.setObj g { o with hiValid := false }
  | 0x30 => s.setObj g { o with refused := 0 }
  | _ => s

/-- What a 4-byte read leaves: RC fields cleared, PACE_MIN restarted, high halves latched and used up (R5, R121, R391). -/
def State.afterRead (s : State) (o : Nat) : State :=
  match o with
  | 0x130004 => { s with pace := { s.pace with minRead := 0x3FF } }
  | 0x130100 => { s with time := { s.time with hi := BitVec.ofNat 32 (s.now / 2 ^ 32), hiValid := true } }
  | 0x130104 => { s with time := { s.time with hiValid := false } }
  | 0x130108 => { s with time := { s.time with stepped := false } }
  | 0x140020 => { s with gpio := { s.gpio with trigHi := (s.gpio.trigTime >>> 32).setWidth 32, trigHiValid := true } }
  | 0x140024 => { s with gpio := { s.gpio with trigHiValid := false } }
  | 0x140108 => { s with smb := { s.smb with pecErrors := 0, timeouts := 0 } }
  | _ => if 0x800000 ≤ o && o < 0x1000000 then s.afterSync ((o - 0x800000) / 64) (o % 64) else s

/-- One 64-bit register, or PACE_TIME or GPIO_TRIG_TIME, read whole: consistent, and latching nothing (R121, R830). -/
def State.wideAt (s : State) (o : Nat) : Option W64 :=
  if o = 0x8 then some s.devCaps
  else if o = 0x130100 then some (BitVec.ofNat 64 s.now)
  else if o = 0x140020 then some s.gpio.trigTime
  else if 0x800000 ≤ o && o < 0x1000000 && o % 8 = 0 && o % 64 < 0x20 then
    let g := (o - 0x800000) / 64
    some (if !s.syncReadable g then 0 else
      match o % 64 with
      | 0x00 => (s.obj g).seen
      | 0x18 => (s.obj g).notifyAt
      | _ => 0)
  else none

/-- The bytes of the units from `o` on, lowest address first, each with its own side effects (R831). -/
def State.readUnits (s : State) (o : Nat) : Nat → Bytes × State
  | 0 => ([], s)
  | n + 1 =>
    let rest := (s.afterRead o).readUnits (o + 4) n
    (leBytes 4 (s.unitAt o) ++ rest.1, rest.2)

/-- A host read of `n` bytes at an offset of BAR0, and the state it leaves (R830-R832). -/
def State.hostRead (s : State) (o n : Nat) : Bytes × State :=
  if n = 8 && o % 8 = 0 && (s.wideAt o).isSome then (leBytes 8 ((s.wideAt o).getD 0).toNat, s)
  else
    let r := s.readUnits (o / 4 * 4) ((o + n + 3) / 4 - o / 4)
    ((r.1.drop (o % 4)).take n, r.2)

/-! ## The reads the table names -/

/-- The host reads the 4-byte unit at `o`: nothing answers without BAR0 (R829, R840). -/
def State.readReg (s : State) (o : Nat) : State :=
  if s.bar0 then (s.afterRead o).emit (.read (s.unitAt o)) else s

def execPaceMinRead (s : State) : Out := .next (s.readReg 0x130004)
def execPaceTimeLoRead (s : State) : Out := .next (s.readReg 0x130100)
def execPaceTimeStatusRead (s : State) : Out := .next (s.readReg 0x130108)
def execGpioTrigTimeLoRead (s : State) : Out := .next (s.readReg 0x140020)
def execSmbErrorsRead (s : State) : Out := .next (s.readReg 0x140108)

/-- `bad`: the object is found in error and marked POISONED (Table 10.5). -/
def execSynValueRead (obj : Nat × Bool) (s : State) : Out :=
  .next ((if obj.2 && s.syncReadable obj.1 then s.poisonObj obj.1 else s).readReg (0x800000 + 64 * obj.1))

def execSynStatusRead (obj : Nat) (s : State) : Out := .next (s.readReg (0x800030 + 64 * obj))

end Sys2Proof.Machine
end

