-- ==== Sys2Proof/Machine/Window.lean ====
section
/-! DEFINITION. Host writes to BAR0 of any size and alignment (R4, R57, R391, R430, R821, R826, R830-R835, Tables 22.1-22.8). -/
namespace Sys2Proof.Machine
open Sys2Proof

/-- The state a register's own operation leads to. -/
def stateOf (s : State) : Out → State
  | .next t => t
  | _ => s

/-- MBX_IRQ_EN and MBX_IRQ_STAT (Table 2.9). -/
def State.writeIrqEn (s : State) (n : Nat) (v : W32) : State := s.updBox n fun b => { b with irqEn := v.setWidth 3 }
def State.writeIrqStat (s : State) (n : Nat) (v : W32) : State :=
  s.updBox n fun b => { b with irqStat := b.irqStat &&& ~~~(v.setWidth 3) }

/-- A 4-byte write to a register of a mailbox pair. -/
def State.writeMbx (s : State) (n r : Nat) (v : W32) : State :=
  match r with
  | 0x3000 => stateOf s (execMbxDoorbellWrite n v s)
  | 0x300C => stateOf s (execMbxRspConsWrite n v s)
  | 0x3014 => stateOf s (execMbxNtfConsWrite n v s)
  | 0x301C => s.writeIrqEn n v
  | 0x3020 => s.writeIrqStat n v
  | _ => s

/-- A 4-byte write to the GPIO block. -/
def State.writeGpio (s : State) (r : Nat) (v : W32) : State :=
  match r with
  | 0x04 => stateOf s (execGpioOutLatchWrite v s)
  | 0x08 => stateOf s (execGpioOutSetWrite v s)
  | 0x0C => stateOf s (execGpioOutClrWrite v s)
  | 0x18 => { s with gpio := { s.gpio with edge := s.gpio.edge &&& ~~~v } }
  | _ => s

/-- A 4-byte write to the fault window's registers. -/
def State.writeFlt (s : State) (r : Nat) (v : W32) : State :=
  match r with
  | 0x8004 => stateOf s (execFltRingConsWrite v s)
  | 0x8008 => if v.getLsbD 1 then s.setFlt { s.flt with consErr := false } else s
  | _ => s

/-- SYN_CTRL and the W1C bits of SYN_STATUS (Table 10.6). -/
def State.writeSynCtrl (s : State) (g : Nat) (v : W32) : State :=
  if s.syncWritable g then s.setObj g { s.obj g with ctrl := v &&& 0xFF010FFF } else s

def State.writeSynStatus (s : State) (g : Nat) (v : W32) : State :=
  if s.syncWritable g then
    let o := s.obj g
    s.setObj g { o with
      fired := o.fired && !v.getLsbD 1, notifyErr := o.notifyErr && !v.getLsbD 3, sizeErr := o.sizeErr && !v.getLsbD 4 }
  else s

/-- A write of 8 bytes (`wide`), or of 4 to a low half zero-extended or to a high half, to an object's registers. -/
def State.writeSync (s : State) (g r : Nat) (v : W64) : State :=
  match r with
  | 0x08 => stateOf s (execSynAddWrite g v false s)
  | 0x0C => stateOf s (execSynAddWrite g v true s)
  | 0x10 => stateOf s (execSynSetWrite g v false s)
  | 0x14 => stateOf s (execSynSetWrite g v true s)
  | 0x18 => stateOf s (execSynNotifyAtWrite g v false s)
  | 0x1C => stateOf s (execSynNotifyAtWrite g v true s)
  | 0x20 => s.writeSynCtrl g (v.setWidth 32)
  | 0x28 => stateOf s (execSynArmWrite g (v.setWidth 32) s)
  | 0x30 => s.writeSynStatus g (v.setWidth 32)
  | _ => s

/-- A 4-byte write to a doorbell page. -/
def State.writeBell (s : State) (q r : Nat) (v : W32) : State :=
  match r with
  | 0x00 => stateOf s (execCfeSqDoorbellWrite q v s)
  | 0x40 => stateOf s (execCfeCqHeadWrite q v s)
  | 0x50 => stateOf s (execCfeCqArmWrite q v s)
  | _ => s

/-- A 4-byte unit written whole. -/
def State.write4 (s : State) (o : Nat) (v : W32) : State :=
  if 0x100000 ≤ o && o < 0x124000 then s.writeMbx ((o - 0x100000) / 0x4000) ((o - 0x100000) % 0x4000) v
  else if 0x140000 ≤ o && o < 0x141000 then s.writeGpio (o - 0x140000) v
  else if 0x150000 ≤ o && o < 0x160000 then s.writeFlt (o - 0x150000) v
  else if 0x800000 ≤ o && o < 0x1000000 then s.writeSync ((o - 0x800000) / 64) (o % 64) (v.setWidth 64)
  else if 0x1000000 ≤ o && o < 0x2000000 then s.writeBell ((o - 0x1000000) / 4096) (o % 4096) v
  else s

/-- Offset in a request ring (R832). -/
def inRequestRing (o : Nat) : Bool := 0x100000 ≤ o && o < 0x124000 && (o - 0x100000) % 0x4000 < 0x1000

/-- Bytes that fall in a request ring are stored; the rest of the write touches no ring. -/
def State.writeRing (s : State) : Nat → Bytes → State
  | _, [] => s
  | o, b :: l => (if inRequestRing o then { s with ram := wr s.ram o b } else s).writeRing (o + 1) l

/-- The aligned 4-byte units of a write, in ascending order; a unit not covered whole is left alone. -/
def writeUnits (o : Nat) (d : Bytes) : List (Nat × W32) :=
  let first := ceilDiv o 4 * 4
  (List.range ((o + d.length - first) / 4)).map fun i =>
    (first + 4 * i, BitVec.ofNat 32 (u32 d (first - o + 4 * i)))

/-- An aligned 8-byte write to one 64-bit register acts once (R830). -/
def isWide (o : Nat) (d : Bytes) : Bool :=
  d.length = 8 && o % 8 = 0 && 0x800000 ≤ o && o < 0x1000000 && (o % 64 = 0x08 || o % 64 = 0x10 || o % 64 = 0x18)

/-- A poisoned TLP is dropped and reported through AER as an uncorrectable error (R839). -/
def execRegisterWrite (offset : Nat) (data : Bytes × Bool) (s : State) : Out :=
  .next (if !s.bar0 || 0x4000000 < offset + data.1.length then s
    else if data.2 then { s with link := { s.link with aerUncorr := satAdd 0xFFFFFFFF s.link.aerUncorr 1 } }
    else if isWide offset data.1 then s.writeSync ((offset - 0x800000) / 64) (offset % 64) (BitVec.ofNat 64 (u64 data.1 0))
    else (writeUnits offset data.1).foldl (fun s u => s.write4 u.1 u.2) (s.writeRing offset data.1))

end Sys2Proof.Machine
end

