-- ==== Sys2Proof/Machine/Dispatch.lean ====
section
/-! DEFINITION. One arm per command: a direct call of its meaning. -/
namespace Sys2Proof.Machine
open Sys2Proof

def exec (i : Instr) (s : State) : Host.Outcome State Fault Refusal :=
  match i with
  | .pwrokFall => Sys2Proof.Machine.execPwrokFall s
  | .pwrokRise fuses => Sys2Proof.Machine.execPwrokRise fuses s
  | .resetNAssert => Sys2Proof.Machine.execResetNAssert s
  | .resetNDeassert fuses => Sys2Proof.Machine.execResetNDeassert fuses s
  | .perstNAssert => Sys2Proof.Machine.execPerstNAssert s
  | .perstNDeassert fuses => Sys2Proof.Machine.execPerstNDeassert fuses s
  | .pcieHotReset => Sys2Proof.Machine.execPcieHotReset s
  | .functionLevelReset => Sys2Proof.Machine.execFunctionLevelReset s
  | .internalResetHoldExpire fuses => Sys2Proof.Machine.execInternalResetHoldExpire fuses s
  | .strapSample => Sys2Proof.Machine.execStrapSample s
  | .powerLoss => Sys2Proof.Machine.execPowerLoss s
  | .selftestDone coresOk frontEndOk failed => Sys2Proof.Machine.execSelftestDone coresOk frontEndOk failed s
  | .fwLoadDone written => Sys2Proof.Machine.execFwLoadDone written s
  | .memTrainingDone spared hardUsed failedPc failedCh => Sys2Proof.Machine.execMemTrainingDone spared hardUsed failedPc failedCh s
  | .pcieConfigRequest => Sys2Proof.Machine.execPcieConfigRequest s
  | .mbxDoorbellWrite n value => Sys2Proof.Machine.execMbxDoorbellWrite n value s
  | .mbxRspConsWrite n value => Sys2Proof.Machine.execMbxRspConsWrite n value s
  | .mbxNtfConsWrite n value => Sys2Proof.Machine.execMbxNtfConsWrite n value s
  | .mbxRequestSlotError n inHeader => Sys2Proof.Machine.execMbxRequestSlotError n inHeader s
  | .badOpcodeRequest via => Sys2Proof.Machine.execBadOpcodeRequest via s
  | .mbxHeartbeatAdvance => Sys2Proof.Machine.execMbxHeartbeatAdvance s
  | .heartbeatWatchdogExpire => Sys2Proof.Machine.execHeartbeatWatchdogExpire s
  | .lockstepMismatch core => Sys2Proof.Machine.execLockstepMismatch core s
  | .devIdentify via => Sys2Proof.Machine.execDevIdentify via s
  | .devStatus via => Sys2Proof.Machine.execDevStatus via s
  | .devPing via => Sys2Proof.Machine.execDevPing via s
  | .configBegin via => Sys2Proof.Machine.execConfigBegin via s
  | .configChunk via => Sys2Proof.Machine.execConfigChunk via s
  | .configCommit via => Sys2Proof.Machine.execConfigCommit via s
  | .configAbort via => Sys2Proof.Machine.execConfigAbort via s
  | .configRead via => Sys2Proof.Machine.execConfigRead via s
  | .configStagingTimeout => Sys2Proof.Machine.execConfigStagingTimeout s
  | .configCheckDone => Sys2Proof.Machine.execConfigCheckDone s
  | .devDrain via => Sys2Proof.Machine.execDevDrain via s
  | .drainComplete => Sys2Proof.Machine.execDrainComplete s
  | .drainLimitExpire => Sys2Proof.Machine.execDrainLimitExpire s
  | .devReset via => Sys2Proof.Machine.execDevReset via s
  | .devResetStart => Sys2Proof.Machine.execDevResetStart s
  | .paceSample glens cc basin meas tj => Sys2Proof.Machine.execPaceSample glens cc basin meas tj s
  | .vcoreTargetLower => Sys2Proof.Machine.execVcoreTargetLower s
  | .ownAdmissionHoldback valley => Sys2Proof.Machine.execOwnAdmissionHoldback valley s
  | .holdbackRelease valley => Sys2Proof.Machine.execHoldbackRelease valley s
  | .replicaFault replica => Sys2Proof.Machine.execReplicaFault replica s
  | .paceLowSet => Sys2Proof.Machine.execPaceLowSet s
  | .paceLowClear => Sys2Proof.Machine.execPaceLowClear s
  | .referenceLost => Sys2Proof.Machine.execReferenceLost s
  | .referenceReturn => Sys2Proof.Machine.execReferenceReturn s
  | .ptpAnnounceReceive port domain transport priority1 clockClass accuracy variance priority2 identity stepsRemoved => Sys2Proof.Machine.execPtpAnnounceReceive port domain transport priority1 clockClass accuracy variance priority2 identity stepsRemoved s
  | .ptpSyncReceive port domain transport source origin receipt => Sys2Proof.Machine.execPtpSyncReceive port domain transport source origin receipt s
  | .ptpDelayRespReceive port domain source sent received => Sys2Proof.Machine.execPtpDelayRespReceive port domain source sent received s
  | .ptpSyncTimeout => Sys2Proof.Machine.execPtpSyncTimeout s
  | .ppsInEdge pin stamp => Sys2Proof.Machine.execPpsInEdge pin stamp s
  | .ppsOutPulse => Sys2Proof.Machine.execPpsOutPulse s
  | .paceQuery via => Sys2Proof.Machine.execPaceQuery via s
  | .governorSet via => Sys2Proof.Machine.execGovernorSet via s
  | .timePtpSet via => Sys2Proof.Machine.execTimePtpSet via s
  | .timeQuery via => Sys2Proof.Machine.execTimeQuery via s
  | .paceMinRead => Sys2Proof.Machine.execPaceMinRead s
  | .paceTimeLoRead => Sys2Proof.Machine.execPaceTimeLoRead s
  | .paceTimeStatusRead => Sys2Proof.Machine.execPaceTimeStatusRead s
  | .batchBoundary valley => Sys2Proof.Machine.execBatchBoundary valley s
  | .boundaryAutoTimer valley => Sys2Proof.Machine.execBoundaryAutoTimer valley s
  | .epochRetainExpire set => Sys2Proof.Machine.execEpochRetainExpire set s
  | .bsnGroupModeSet via => Sys2Proof.Machine.execBsnGroupModeSet via s
  | .bsnWaysSet via => Sys2Proof.Machine.execBsnWaysSet via s
  | .bsnQuery via => Sys2Proof.Machine.execBsnQuery via s
  | .bsnFlush via => Sys2Proof.Machine.execBsnFlush via s
  | .bsnFlushDone valley => Sys2Proof.Machine.execBsnFlushDone valley s
  | .basinWritebackDone group => Sys2Proof.Machine.execBasinWritebackDone group s
  | .basinGroupZeroed group => Sys2Proof.Machine.execBasinGroupZeroed group s
  | .basinBucketFlip bucket => Sys2Proof.Machine.execBasinBucketFlip bucket s
  | .memHostWindowSet via => Sys2Proof.Machine.execMemHostWindowSet via s
  | .cxlSnoop addr kind store => Sys2Proof.Machine.execCxlSnoop addr kind store s
  | .cxlMemRead addr exclusive => Sys2Proof.Machine.execCxlMemRead addr exclusive s
  | .cxlMemWrite addr data poison => Sys2Proof.Machine.execCxlMemWrite addr data poison s
  | .cxlBiResponse addr data => Sys2Proof.Machine.execCxlBiResponse addr data s
  | .memQuery via => Sys2Proof.Machine.execMemQuery via s
  | .memChannelRetire via => Sys2Proof.Machine.execMemChannelRetire via s
  | .memHbmRepairSoft via => Sys2Proof.Machine.execMemHbmRepairSoft via s
  | .memHbmRepairHard via => Sys2Proof.Machine.execMemHbmRepairHard via s
  | .memHbmRepairCancelHard via => Sys2Proof.Machine.execMemHbmRepairCancelHard via s
  | .softRepairDone bad waits => Sys2Proof.Machine.execSoftRepairDone bad waits s
  | .memoryRefreshTick lpddr unit temp => Sys2Proof.Machine.execMemoryRefreshTick lpddr unit temp s
  | .lpddrMr4Poll pkg temp rate => Sys2Proof.Machine.execLpddrMr4Poll pkg temp rate s
  | .patrolScrubStep found => Sys2Proof.Machine.execPatrolScrubStep found s
  | .eccCorrectionBurst lpddr channel lane count => Sys2Proof.Machine.execEccCorrectionBurst lpddr channel lane count s
  | .tblSetCreate via => Sys2Proof.Machine.execTblSetCreate via s
  | .tblSetDestroy via => Sys2Proof.Machine.execTblSetDestroy via s
  | .tblCreate via => Sys2Proof.Machine.execTblCreate via s
  | .tblDestroy via => Sys2Proof.Machine.execTblDestroy via s
  | .tblQuery via => Sys2Proof.Machine.execTblQuery via s
  | .tblRowmapLoad via => Sys2Proof.Machine.execTblRowmapLoad via s
  | .creekBagDispatch creek => Sys2Proof.Machine.execCreekBagDispatch creek s
  | .creekFetchComplete bag pos => Sys2Proof.Machine.execCreekFetchComplete bag pos s
  | .creekBagComplete bag residue => Sys2Proof.Machine.execCreekBagComplete bag residue s
  | .remoteLookupRequest src tag msg => Sys2Proof.Machine.execRemoteLookupRequest src tag msg s
  | .epochWaitExpire node reqTag => Sys2Proof.Machine.execEpochWaitExpire node reqTag s
  | .remoteLookupResponse src msg => Sys2Proof.Machine.execRemoteLookupResponse src msg s
  | .remoteOperationTimeout op => Sys2Proof.Machine.execRemoteOperationTimeout op s
  | .hwtStreamOpen via => Sys2Proof.Machine.execHwtStreamOpen via s
  | .hwtStreamClose via => Sys2Proof.Machine.execHwtStreamClose via s
  | .hwtStreamShutdownDone stream => Sys2Proof.Machine.execHwtStreamShutdownDone stream s
  | .hwtRecordOverwrite set => Sys2Proof.Machine.execHwtRecordOverwrite set s
  | .hwtRecordAddDelta set => Sys2Proof.Machine.execHwtRecordAddDelta set s
  | .hwtRecordExport set => Sys2Proof.Machine.execHwtRecordExport set s
  | .hwtRecordFence set => Sys2Proof.Machine.execHwtRecordFence set s
  | .headwaterEngineFault engine set => Sys2Proof.Machine.execHeadwaterEngineFault engine set s
  | .epochAdvance via => Sys2Proof.Machine.execEpochAdvance via s
  | .epochSealStaged set => Sys2Proof.Machine.execEpochSealStaged set s
  | .epochCatchupDone set => Sys2Proof.Machine.execEpochCatchupDone set s
  | .epochQuery via => Sys2Proof.Machine.execEpochQuery via s
  | .reflowStartPlan via => Sys2Proof.Machine.execReflowStartPlan via s
  | .reflowStartTrack via => Sys2Proof.Machine.execReflowStartTrack via s
  | .reflowStepCopied set => Sys2Proof.Machine.execReflowStepCopied set s
  | .reflowResume via => Sys2Proof.Machine.execReflowResume via s
  | .reflowAbandon via => Sys2Proof.Machine.execReflowAbandon via s
  | .reflowQuery via => Sys2Proof.Machine.execReflowQuery via s
  | .plainChainStart glen => Sys2Proof.Machine.execPlainChainStart glen s
  | .plainChainComplete op parity errs => Sys2Proof.Machine.execPlainChainComplete op parity errs s
  | .checkedChainCompare op mismatch => Sys2Proof.Machine.execCheckedChainCompare op mismatch s
  | .weightLoadStart glen => Sys2Proof.Machine.execWeightLoadStart glen s
  | .weightLoadComplete op => Sys2Proof.Machine.execWeightLoadComplete op s
  | .threadLoadScratch t off size dst next => Sys2Proof.Machine.execThreadLoadScratch t off size dst next s
  | .threadStoreScratch t off size src next => Sys2Proof.Machine.execThreadStoreScratch t off size src next s
  | .threadLoadGlobal t addr size dst next => Sys2Proof.Machine.execThreadLoadGlobal t addr size dst next s
  | .globalLoadDataReturn t => Sys2Proof.Machine.execGlobalLoadDataReturn t s
  | .threadStoreGlobal t addr size src next => Sys2Proof.Machine.execThreadStoreGlobal t addr size src next s
  | .threadIssue t desc next => Sys2Proof.Machine.execThreadIssue t desc next s
  | .issueQueueSpace t => Sys2Proof.Machine.execIssueQueueSpace t s
  | .syncRead t ref dst next => Sys2Proof.Machine.execSyncRead t ref dst next s
  | .syncAdd t ref n next => Sys2Proof.Machine.execSyncAdd t ref n next s
  | .syncSet t ref value next => Sys2Proof.Machine.execSyncSet t ref value next s
  | .syncWaitGe t ref target us dst next => Sys2Proof.Machine.execSyncWaitGe t ref target us dst next s
  | .syncAcquire t ref n us dst next => Sys2Proof.Machine.execSyncAcquire t ref n us dst next s
  | .syncWaitTimeout waiter => Sys2Proof.Machine.execSyncWaitTimeout waiter s
  | .threadEnqueue t record next => Sys2Proof.Machine.execThreadEnqueue t record next s
  | .fenceLocal t next => Sys2Proof.Machine.execFenceLocal t next s
  | .fenceGlobal t next => Sys2Proof.Machine.execFenceGlobal t next s
  | .fenceComplete t => Sys2Proof.Machine.execFenceComplete t s
  | .threadExit t => Sys2Proof.Machine.execThreadExit t s
  | .threadArithmetic t dst value next => Sys2Proof.Machine.execThreadArithmetic t dst value next s
  | .remoteSignalReceive src tag msg => Sys2Proof.Machine.execRemoteSignalReceive src tag msg s
  | .remoteSignalAnswer node tag status => Sys2Proof.Machine.execRemoteSignalAnswer node tag status s
  | .remoteSignalTimeout tag => Sys2Proof.Machine.execRemoteSignalTimeout tag s
  | .synAddWrite obj value high => Sys2Proof.Machine.execSynAddWrite obj value high s
  | .synSetWrite obj value high => Sys2Proof.Machine.execSynSetWrite obj value high s
  | .synNotifyAtWrite obj value high => Sys2Proof.Machine.execSynNotifyAtWrite obj value high s
  | .synArmWrite obj value => Sys2Proof.Machine.execSynArmWrite obj value s
  | .syncNotifyPost q => Sys2Proof.Machine.execSyncNotifyPost q s
  | .synValueRead obj => Sys2Proof.Machine.execSynValueRead obj s
  | .synStatusRead obj => Sys2Proof.Machine.execSynStatusRead obj s
  | .sqCreate via => Sys2Proof.Machine.execSqCreate via s
  | .sqDestroy via => Sys2Proof.Machine.execSqDestroy via s
  | .cqCreate via => Sys2Proof.Machine.execCqCreate via s
  | .cqDestroy via => Sys2Proof.Machine.execCqDestroy via s
  | .handleTableSet via => Sys2Proof.Machine.execHandleTableSet via s
  | .queueQuery via => Sys2Proof.Machine.execQueueQuery via s
  | .cfeSqDoorbellWrite q value => Sys2Proof.Machine.execCfeSqDoorbellWrite q value s
  | .cfeCqHeadWrite q value => Sys2Proof.Machine.execCfeCqHeadWrite q value s
  | .cfeCqArmWrite q value => Sys2Proof.Machine.execCfeCqArmWrite q value s
  | .cqCoalesceTimer q => Sys2Proof.Machine.execCqCoalesceTimer q s
  | .cqEntryPost q => Sys2Proof.Machine.execCqEntryPost q s
  | .launch sq => Sys2Proof.Machine.execLaunch sq s
  | .boundary sq => Sys2Proof.Machine.execBoundary sq s
  | .signal sq => Sys2Proof.Machine.execSignal sq s
  | .nop sq => Sys2Proof.Machine.execNop sq s
  | .invalidCommand sq => Sys2Proof.Machine.execInvalidCommand sq s
  | .graphStore via => Sys2Proof.Machine.execGraphStore via s
  | .graphPatchStructural via => Sys2Proof.Machine.execGraphPatchStructural via s
  | .graphPatchIndirect via => Sys2Proof.Machine.execGraphPatchIndirect via s
  | .graphPatchSetEntry via => Sys2Proof.Machine.execGraphPatchSetEntry via s
  | .graphPatchActivate via => Sys2Proof.Machine.execGraphPatchActivate via s
  | .graphPatchDiscard via => Sys2Proof.Machine.execGraphPatchDiscard via s
  | .graphRetire via => Sys2Proof.Machine.execGraphRetire via s
  | .valleyStart via => Sys2Proof.Machine.execValleyStart via s
  | .valleyStop via => Sys2Proof.Machine.execValleyStop via s
  | .valleyStopDone valley => Sys2Proof.Machine.execValleyStopDone valley s
  | .valleyStopLimitExpire valley => Sys2Proof.Machine.execValleyStopLimitExpire valley s
  | .valleyQuery via => Sys2Proof.Machine.execValleyQuery via s
  | .valleyProfileSet via => Sys2Proof.Machine.execValleyProfileSet via s
  | .narrowsSet via => Sys2Proof.Machine.execNarrowsSet via s
  | .ctxCreate via => Sys2Proof.Machine.execCtxCreate via s
  | .ctxDestroy via => Sys2Proof.Machine.execCtxDestroy via s
  | .ctxQuery via => Sys2Proof.Machine.execCtxQuery via s
  | .schedulerTick valley time => Sys2Proof.Machine.execSchedulerTick valley time s
  | .contextSaveDone valley ctx ns => Sys2Proof.Machine.execContextSaveDone valley ctx ns s
  | .contextRestoreDone valley ctx ns => Sys2Proof.Machine.execContextRestoreDone valley ctx ns s
  | .passLinkEnable via => Sys2Proof.Machine.execPassLinkEnable via s
  | .passLinkDisable via => Sys2Proof.Machine.execPassLinkDisable via s
  | .passDisableDrained port => Sys2Proof.Machine.execPassDisableDrained port s
  | .passLinkQuery via => Sys2Proof.Machine.execPassLinkQuery via s
  | .passScheduleSet via => Sys2Proof.Machine.execPassScheduleSet via s
  | .passRouteSet via => Sys2Proof.Machine.execPassRouteSet via s
  | .passKeySet via => Sys2Proof.Machine.execPassKeySet via s
  | .passBackoffExpire port => Sys2Proof.Machine.execPassBackoffExpire port s
  | .passTrainLock port failed => Sys2Proof.Machine.execPassTrainLock port failed s
  | .passTrainTimeout port => Sys2Proof.Machine.execPassTrainTimeout port s
  | .passAlignLock port candidates => Sys2Proof.Machine.execPassAlignLock port candidates s
  | .passLinkInitReceive port msg => Sys2Proof.Machine.execPassLinkInitReceive port msg s
  | .passEchoReceive port msg time => Sys2Proof.Machine.execPassEchoReceive port msg time s
  | .passEchoAnsReceive port msg time => Sys2Proof.Machine.execPassEchoAnsReceive port msg time s
  | .passEchoTimer port => Sys2Proof.Machine.execPassEchoTimer port s
  | .passFrameReceive port time data corrected failed lane => Sys2Proof.Machine.execPassFrameReceive port time data corrected failed lane s
  | .passMarkerLoss port => Sys2Proof.Machine.execPassMarkerLoss port s
  | .passFrameTransmit port time bufferError routingError => Sys2Proof.Machine.execPassFrameTransmit port time bufferError routingError s
  | .passReplayTimer port => Sys2Proof.Machine.execPassReplayTimer port s
  | .passRoundTick => Sys2Proof.Machine.execPassRoundTick s
  | .passScheduleBoundary => Sys2Proof.Machine.execPassScheduleBoundary s
  | .passRouteEffective => Sys2Proof.Machine.execPassRouteEffective s
  | .passPacketForward port dest src tag cls hops kind poison msg => Sys2Proof.Machine.execPassPacketForward port dest src tag cls hops kind poison msg s
  | .passPacketHoldTimeout port => Sys2Proof.Machine.execPassPacketHoldTimeout port s
  | .passReadRequest src tag msg => Sys2Proof.Machine.execPassReadRequest src tag msg s
  | .passWriteRequest src tag msg poison => Sys2Proof.Machine.execPassWriteRequest src tag msg poison s
  | .passPushRequest src tag msg => Sys2Proof.Machine.execPassPushRequest src tag msg s
  | .passAnswerReceive src kind msg poison => Sys2Proof.Machine.execPassAnswerReceive src kind msg poison s
  | .requestDatagramReceive endpoint addr port arrived => Sys2Proof.Machine.execRequestDatagramReceive endpoint addr port arrived s
  | .datagramResponseSend endpoint => Sys2Proof.Machine.execDatagramResponseSend endpoint s
  | .updateDatagramReceive endpoint addr port data => Sys2Proof.Machine.execUpdateDatagramReceive endpoint addr port data s
  | .mgmtDatagramReceive eth addr port data => Sys2Proof.Machine.execMgmtDatagramReceive eth addr port data s
  | .ethControlPacket port kind target data => Sys2Proof.Machine.execEthControlPacket port kind target data s
  | .roceCnpReceive endpoint => Sys2Proof.Machine.execRoceCnpReceive endpoint s
  | .roceRateRecover endpoint => Sys2Proof.Machine.execRoceRateRecover endpoint s
  | .poolRdmaCompletion data => Sys2Proof.Machine.execPoolRdmaCompletion data s
  | .poolQpError => Sys2Proof.Machine.execPoolQpError s
  | .ethPortDown port => Sys2Proof.Machine.execEthPortDown port s
  | .ethPortUp port => Sys2Proof.Machine.execEthPortUp port s
  | .hostLinkDlDown => Sys2Proof.Machine.execHostLinkDlDown s
  | .hostLinkUp gts lanes cxl flit256 => Sys2Proof.Machine.execHostLinkUp gts lanes cxl flit256 s
  | .msixVectorUnmask vector => Sys2Proof.Machine.execMsixVectorUnmask vector s
  | .pcieDStateChange d3hot => Sys2Proof.Machine.execPcieDStateChange d3hot s
  | .netPortSet via => Sys2Proof.Machine.execNetPortSet via s
  | .netEndpointCreate via => Sys2Proof.Machine.execNetEndpointCreate via s
  | .netEndpointDestroy via => Sys2Proof.Machine.execNetEndpointDestroy via s
  | .hostLinkQuery via => Sys2Proof.Machine.execHostLinkQuery via s
  | .poolNodeSet via => Sys2Proof.Machine.execPoolNodeSet via s
  | .fordPersonalitySet via => Sys2Proof.Machine.execFordPersonalitySet via s
  | .fordRingCreate via => Sys2Proof.Machine.execFordRingCreate via s
  | .fordRingDestroy via => Sys2Proof.Machine.execFordRingDestroy via s
  | .fordShardSet via => Sys2Proof.Machine.execFordShardSet via s
  | .fordQuery via => Sys2Proof.Machine.execFordQuery via s
  | .fordLookup sq => Sys2Proof.Machine.execFordLookup sq s
  | .fordVecSend sq => Sys2Proof.Machine.execFordVecSend sq s
  | .fordVecRecv sq => Sys2Proof.Machine.execFordVecRecv sq s
  | .fordRowPut sq => Sys2Proof.Machine.execFordRowPut sq s
  | .fordRowGet sq => Sys2Proof.Machine.execFordRowGet sq s
  | .fordRingPoll ring => Sys2Proof.Machine.execFordRingPoll ring s
  | .fordInLookup ring waited => Sys2Proof.Machine.execFordInLookup ring waited s
  | .fordInRowGet ring waited => Sys2Proof.Machine.execFordInRowGet ring waited s
  | .fordInVec ring => Sys2Proof.Machine.execFordInVec ring s
  | .fordInRowPut ring => Sys2Proof.Machine.execFordInRowPut ring s
  | .fordInAnswer ring datapath => Sys2Proof.Machine.execFordInAnswer ring datapath s
  | .fordExchangeTimeout ring xid => Sys2Proof.Machine.execFordExchangeTimeout ring xid s
  | .cynCtxEnable via => Sys2Proof.Machine.execCynCtxEnable via s
  | .cynCtxDisable via => Sys2Proof.Machine.execCynCtxDisable via s
  | .cynCtxShutdownDone ctx => Sys2Proof.Machine.execCynCtxShutdownDone ctx s
  | .cynKeyLoad via => Sys2Proof.Machine.execCynKeyLoad via s
  | .cynTriplesLoad via => Sys2Proof.Machine.execCynTriplesLoad via s
  | .cynQuery via => Sys2Proof.Machine.execCynQuery via s
  | .cynLinear sq => Sys2Proof.Machine.execCynLinear sq s
  | .cynMul sq => Sys2Proof.Machine.execCynMul sq s
  | .cynRelin sq => Sys2Proof.Machine.execCynRelin sq s
  | .cynRescale sq => Sys2Proof.Machine.execCynRescale sq s
  | .cynScore sq => Sys2Proof.Machine.execCynScore sq s
  | .cynSsLinear sq => Sys2Proof.Machine.execCynSsLinear sq s
  | .cynSsMask sq => Sys2Proof.Machine.execCynSsMask sq s
  | .cynSsCombine sq => Sys2Proof.Machine.execCynSsCombine sq s
  | .cynOperationStart valley => Sys2Proof.Machine.execCynOperationStart valley s
  | .cynOperationComplete pipe residue => Sys2Proof.Machine.execCynOperationComplete pipe residue s
  | .faultRecordWrite commit => Sys2Proof.Machine.execFaultRecordWrite commit s
  | .targetedTestStart unit => Sys2Proof.Machine.execTargetedTestStart unit s
  | .targetedTestDone unit pass => Sys2Proof.Machine.execTargetedTestDone unit pass s
  | .probationDone unit match_ => Sys2Proof.Machine.execProbationDone unit match_ s
  | .testWindowOpen => Sys2Proof.Machine.execTestWindowOpen s
  | .testWindowClose => Sys2Proof.Machine.execTestWindowClose s
  | .packTestComplete unit test match_ last => Sys2Proof.Machine.execPackTestComplete unit test match_ last s
  | .fltRingConsWrite value => Sys2Proof.Machine.execFltRingConsWrite value s
  | .fltRecordRead via => Sys2Proof.Machine.execFltRecordRead via s
  | .fltRecordRelease via => Sys2Proof.Machine.execFltRecordRelease via s
  | .fltCheckedSet via => Sys2Proof.Machine.execFltCheckedSet via s
  | .fltSelftestRun via => Sys2Proof.Machine.execFltSelftestRun via s
  | .fltUnitReadmit via => Sys2Proof.Machine.execFltUnitReadmit via s
  | .fltPackLoad via => Sys2Proof.Machine.execFltPackLoad via s
  | .fltWindowSet via => Sys2Proof.Machine.execFltWindowSet via s
  | .fltCperRead via => Sys2Proof.Machine.execFltCperRead via s
  | .secLifecycleSet via => Sys2Proof.Machine.execSecLifecycleSet via s
  | .lifecycleReturnDone => Sys2Proof.Machine.execLifecycleReturnDone s
  | .secOtpRead via => Sys2Proof.Machine.execSecOtpRead via s
  | .secOtpProgram via => Sys2Proof.Machine.execSecOtpProgram via s
  | .otpProgramDone ok => Sys2Proof.Machine.execOtpProgramDone ok s
  | .secFwUpdateBegin via => Sys2Proof.Machine.execSecFwUpdateBegin via s
  | .secFwUpdateChunk via => Sys2Proof.Machine.execSecFwUpdateChunk via s
  | .secFwUpdateCommit via => Sys2Proof.Machine.execSecFwUpdateCommit via s
  | .flashCommitDone => Sys2Proof.Machine.execFlashCommitDone s
  | .fwUpdateSessionTimeout => Sys2Proof.Machine.execFwUpdateSessionTimeout s
  | .secAccessSet via => Sys2Proof.Machine.execSecAccessSet via s
  | .spdmGetVersion => Sys2Proof.Machine.execSpdmGetVersion s
  | .spdmGetCapabilities => Sys2Proof.Machine.execSpdmGetCapabilities s
  | .spdmNegotiateAlgorithms => Sys2Proof.Machine.execSpdmNegotiateAlgorithms s
  | .spdmGetDigests => Sys2Proof.Machine.execSpdmGetDigests s
  | .spdmGetCertificate => Sys2Proof.Machine.execSpdmGetCertificate s
  | .spdmChallenge => Sys2Proof.Machine.execSpdmChallenge s
  | .spdmGetMeasurements => Sys2Proof.Machine.execSpdmGetMeasurements s
  | .pwrStateSet via => Sys2Proof.Machine.execPwrStateSet via s
  | .pwrQuery via => Sys2Proof.Machine.execPwrQuery via s
  | .pwrLimitSet via => Sys2Proof.Machine.execPwrLimitSet via s
  | .powerWindow milliwatts sensorOk => Sys2Proof.Machine.execPowerWindow milliwatts sensorOk s
  | .throttleInAssert => Sys2Proof.Machine.execThrottleInAssert s
  | .throttleInRelease => Sys2Proof.Machine.execThrottleInRelease s
  | .glenGate glen => Sys2Proof.Machine.execGlenGate glen s
  | .thermalSupplyFault => Sys2Proof.Machine.execThermalSupplyFault s
  | .vcoreDeviation => Sys2Proof.Machine.execVcoreDeviation s
  | .standbyWritebackDone => Sys2Proof.Machine.execStandbyWritebackDone s
  | .standbySelfRefreshDone => Sys2Proof.Machine.execStandbySelfRefreshDone s
  | .standbyEntryDone => Sys2Proof.Machine.execStandbyEntryDone s
  | .standbyWakeVcore => Sys2Proof.Machine.execStandbyWakeVcore s
  | .standbyWakeMemoryDone => Sys2Proof.Machine.execStandbyWakeMemoryDone s
  | .standbyWakeDone => Sys2Proof.Machine.execStandbyWakeDone s
  | .dbgUnlock via => Sys2Proof.Machine.execDbgUnlock via s
  | .dbgLock via => Sys2Proof.Machine.execDbgLock via s
  | .dbgTelemetryRead via => Sys2Proof.Machine.execDbgTelemetryRead via s
  | .debugDurationExpire => Sys2Proof.Machine.execDebugDurationExpire s
  | .traceTick => Sys2Proof.Machine.execTraceTick s
  | .tapBypass => Sys2Proof.Machine.execTapBypass s
  | .tapIdcode => Sys2Proof.Machine.execTapIdcode s
  | .tapSamplePreload chain => Sys2Proof.Machine.execTapSamplePreload chain s
  | .tapExtest chain => Sys2Proof.Machine.execTapExtest chain s
  | .tapClamp => Sys2Proof.Machine.execTapClamp s
  | .tapHighz => Sys2Proof.Machine.execTapHighz s
  | .dapCoreHalt pair => Sys2Proof.Machine.execDapCoreHalt pair s
  | .dapCoreResume pair => Sys2Proof.Machine.execDapCoreResume pair s
  | .dapMemoryAccess addr len data => Sys2Proof.Machine.execDapMemoryAccess addr len data s
  | .gpioOutLatchWrite value => Sys2Proof.Machine.execGpioOutLatchWrite value s
  | .gpioOutSetWrite value => Sys2Proof.Machine.execGpioOutSetWrite value s
  | .gpioOutClrWrite value => Sys2Proof.Machine.execGpioOutClrWrite value s
  | .gpioPadEdge pin rising => Sys2Proof.Machine.execGpioPadEdge pin rising s
  | .triggerInEdge pin edges stamp => Sys2Proof.Machine.execTriggerInEdge pin edges stamp s
  | .gpioTrigTimeLoRead => Sys2Proof.Machine.execGpioTrigTimeLoRead s
  | .ledBlinkTimer source => Sys2Proof.Machine.execLedBlinkTimer source s
  | .brdGpioSet via => Sys2Proof.Machine.execBrdGpioSet via s
  | .brdGpioQuery via => Sys2Proof.Machine.execBrdGpioQuery via s
  | .brdSensorRead via => Sys2Proof.Machine.execBrdSensorRead via s
  | .brdSmbSet via => Sys2Proof.Machine.execBrdSmbSet via s
  | .smbDevId => Sys2Proof.Machine.execSmbDevId s
  | .smbDevCaps => Sys2Proof.Machine.execSmbDevCaps s
  | .smbStatus => Sys2Proof.Machine.execSmbStatus s
  | .smbReset kind confirm pec => Sys2Proof.Machine.execSmbReset kind confirm pec s
  | .smbMctp source req pec => Sys2Proof.Machine.execSmbMctp source req pec s
  | .mctpArbitrationLost => Sys2Proof.Machine.execMctpArbitrationLost s
  | .smbMbxWrite flags data pec => Sys2Proof.Machine.execSmbMbxWrite flags data pec s
  | .smbMbxRead => Sys2Proof.Machine.execSmbMbxRead s
  | .smbMbxAdvance seq pec => Sys2Proof.Machine.execSmbMbxAdvance seq pec s
  | .smbAlertResponse => Sys2Proof.Machine.execSmbAlertResponse s
  | .smbBusTimeout => Sys2Proof.Machine.execSmbBusTimeout s
  | .smbErrorsRead => Sys2Proof.Machine.execSmbErrorsRead s
  | .registerWrite offset data => Sys2Proof.Machine.execRegisterWrite offset data s
  | .passAlignTimeout port => Sys2Proof.Machine.execPassAlignTimeout port s
  | .channelPowerDown lpddr channel => Sys2Proof.Machine.execChannelPowerDown lpddr channel s
  | .queuePairError endpoint => Sys2Proof.Machine.execQueuePairError endpoint s

end Sys2Proof.Machine
end

