-- ==== Sys2Proof/Safety.lean ====
section
/-! DEFINITION. What a safe state and a safe step are, in the terms the claims use: the memories stay in
their canonical form, and no command changes the part's fused identity or the commands that wait. -/
namespace Sys2Proof.Machine
open Sys2Proof

/-- Every byte memory of the state is in canonical form: device memory, the ring area of BAR0, glen scratch, lane
stores, the pool region, and what each dirty Basin line would write back over. -/
structure State.Canonical (s : State) : Prop where
  mem : Memory.wf s.mem
  ram : Memory.wf s.ram
  scratch : Memory.wf s.core.scratch
  lanes : Memory.wf s.core.lanes
  pool : Memory.wf s.pool.mem
  lines : ∀ l ∈ s.basin.lines, Memory.wf l.2.backing

/-- The fused identity of a part: its stepping, variant, capabilities and serial number (R16); whether the check code
matched is read at the first release of reset after power is applied (R18). -/
def Fuse.ident (f : Fuse) : Fuse := { f with checkOk := true }

/-- What every command leaves: the fused identity and the waiting commands as they were, and canonical memories
canonical. -/
structure Keeps (s t : State) : Prop where
  ident : t.fuse.ident = s.fuse.ident
  pending : t.pending = s.pending
  canonical : s.Canonical → t.Canonical

/-! ## Frames -/

/-- `t` is `s` but for what posting changes: mailboxes and their rings, the two-wire and management queues, pending
vectors and outputs. -/
structure Posts (s t : State) : Prop where
  fuse : t.fuse = s.fuse
  rst : t.rst = s.rst
  dev : t.dev = s.dev
  svc : t.svc = s.svc
  gpio : t.gpio = s.gpio
  tap : t.tap = s.tap
  sec : t.sec = s.sec
  pwr : t.pwr = s.pwr
  flt : t.flt = s.flt
  time : t.time = s.time
  pace : t.pace = s.pace
  mem : t.mem = s.mem
  basin : t.basin = s.basin
  ext : t.ext = s.ext
  valleys : t.valleys = s.valleys
  drainSt : t.drainSt = s.drainSt
  core : t.core = s.core
  links : t.links = s.links
  fabric : t.fabric = s.fabric
  eth : t.eth = s.eth
  pool : t.pool = s.pool
  ford : t.ford = s.ford
  cyn : t.cyn = s.cyn
  free : t.free = s.free
  pending : t.pending = s.pending
  link : { t.link with pendingVec := s.link.pendingVec } = s.link

/-- `t` is `s` but for what recording a fault event and posting change. -/
structure Recorded (s t : State) : Prop where
  fuse : t.fuse = s.fuse
  rst : t.rst = s.rst
  dev : t.dev = s.dev
  svc : t.svc = s.svc
  gpio : t.gpio = s.gpio
  tap : t.tap = s.tap
  sec : t.sec = s.sec
  pwr : t.pwr = s.pwr
  time : t.time = s.time
  pace : t.pace = s.pace
  mem : t.mem = s.mem
  basin : t.basin = s.basin
  ext : t.ext = s.ext
  valleys : t.valleys = s.valleys
  drainSt : t.drainSt = s.drainSt
  core : t.core = s.core
  links : t.links = s.links
  fabric : t.fabric = s.fabric
  eth : t.eth = s.eth
  pool : t.pool = s.pool
  ford : t.ford = s.ford
  cyn : t.cyn = s.cyn
  free : t.free = s.free
  pending : t.pending = s.pending
  link : { t.link with pendingVec := s.link.pendingVec } = s.link

/-! ## Requests -/

/-- The next request of a mailbox and transport is `r`, it is a request for message `m`, every check of R47 accepts it, and
a deferred operation may be listed for it. -/
structure Accepted (m : Msg) (r : Req) (s : State) : Prop where
  waits : (s.nextRaw r.via).map (parseReq r.via) = some r
  op : r.op = m.op
  checks : m.check r (s.consume r.via) = none
  free : s.sec.returning = none
  room : ((s.consume r.via).box r.via.mbx).deferred.length < 8

/-- State `t`, with the response to request `r` of state `s` posted. -/
def State.respond (t s : State) (r : Req) (st : St) (detail : Nat := 0) (pay : Bytes := []) : State :=
  t.postRsp r.via (s.netSeq r.via) (message r.op r.tag st.code detail pay)

/-- The deferred operation of a request is listed (R54). -/
def State.deferring (s : State) (r : Req) : State :=
  s.updBox r.via.mbx fun b => { b with deferred := b.deferred ++ [r.deferred] }

/-- SQ `n`, which is `q`, is the one its valley admits from, and carries an OP the row serves, in a slot that can be read
(R413, R414, R419, R439). -/
structure Admits (ok : Nat → Prop) (n : Nat) (q : Sq) (s : State) : Prop where
  queue : look s.core.sqs n = some q
  admits : s.admits (n / 512)
  spare : s.cqSpare q
  turn : s.isNext (n / 512) n
  link : s.link.up
  whole : s.poisoned (hostBase + q.ring + q.cons.toNat % 2 ^ q.log2 * 128) 128 = false
  op : ok (s.command q).op

/-- Thread `t`, which is `x`, has the next operation turn of its glen, for request `r` in context `c`, and the code of its
operation can be read (R358, R365). -/
structure Runs (t : Nat) (x : Thread) (r : Request) (c : Context) (s : State) : Prop where
  thread : look s.core.threads t = some x
  request : look s.core.reqs x.req = some r
  context : s.ctxOf r = some c
  turn : s.nextTurn x.glen = some t
  code : s.codeLost r x.pc = none

/-- `s` with the turn of glen `g` taken by thread `t`, which is at its next operation, `next`. -/
def State.took (s : State) (g t next : Nat) : State :=
  (s.setCore { s.core with opTurn := put s.core.opTurn g t }).updThread t fun y => { y with pc := next }

/-- Record `b` of stream `n`, which is `x`, is the next that engine `e` takes for the set, and the host holds none of its
data (R148, R269). -/
structure Taking (set n : Nat) (x : Stream) (e : Nat) (b : Bytes) (s : State) : Prop where
  engine : s.takesRecords set = some e
  stream : s.nextStream set = some (n, x)
  record : s.peekRecord x = some b
  slot : ∀ q, x.source = 0 → look s.core.sqs x.queue = some q → s.slotReadable q
  data : s.dataHeld x b = []

/-- Entry `e` is the next that ring `r`, which is `x`, takes, once entries with a wrong CRC are passed: the state is then
`t` (R615, R630). -/
structure Incoming (r : Nat) (x : Ring) (e : Bytes) (t s : State) : Prop where
  awake : s.link.standalone ∨ s.pwr.d3hot = false
  running : s.stopping = false
  passed : t = State.skipBad r 65536 s
  ring : t.ring r = some x
  entry : t.inEntry r = some e
  readable : t.ringLost (x.inAt x.inCons) 64 = false

/-! ## Runs -/

/-- `n` steps, stopping where one stops. -/
def steps : Nat → State → Host.Outcome State Fault Refusal
  | 0, s => .next s
  | n + 1, s => match step s with
    | .next t => steps n t
    | x => x

end Sys2Proof.Machine
end

