-- ==== Sys2Proof/Certificates/Slice0/Obligations.lean ====
section
/-! DEFINITION. The statements for the provers. Each clause names the command it is about; "the request of message m is
accepted" is `Accepted m r s` (Sys2Proof/Safety.lean), and rules are cited by their numbers in spec/. -/
open Sys2Proof Sys2Proof.Machine

/-- A host write of a ring index while BAR0 answers (R77): MBX_DOORBELL, MBX_RSP_CONS and MBX_NTF_CONS keep the low 16 bits
written, whatever the value before, and set their index error exactly where the difference to the paired index modulo 2^16 is
above 8, 8 and 16. Nothing else changes, but that a valid doorbell of DM sets how many BAR0 requests the order of arrival
counts, and that what a notification ring can then post is posted. While a request or response index error stands no BAR0
request of the mailbox is next; while a notification index error stands an NTF_DEFERRED_DONE is kept back and another
notification counted as lost. -/
def Obligations.MailboxIndexWrites : Prop :=
  (∀ (n : Nat) (v : W32) (s : State), s.bar0 → n < 9 →
    let k := (v.setWidth 16 - (s.box n).reqCons).toNat
    let t := s.setBox n { s.box n with doorbell := v.setWidth 16, reqIdxErr := decide (8 < k) }
    exec (.mbxDoorbellWrite n v) s =
      .next (if n = 8 ∧ k ≤ 8 then { t with svc := { s.svc with order := Service.keep k s.svc.order } } else t)) ∧
  (∀ (n : Nat) (v : W32) (s : State), s.bar0 → n < 9 →
    exec (.mbxRspConsWrite n v) s = .next (s.setBox n { s.box n with
      rspCons := v.setWidth 16, rspIdxErr := decide (8 < ((s.box n).rspProd - v.setWidth 16).toNat) })) ∧
  (∀ (n : Nat) (v : W32) (s : State), s.bar0 → n < 9 →
    exec (.mbxNtfConsWrite n v) s = .next ((s.setBox n { s.box n with
      ntfCons := v.setWidth 16, ntfIdxErr := decide (16 < ((s.box n).ntfProd - v.setWidth 16).toNat) }).flushNtf n)) ∧
  (∀ (n : Nat) (s : State), (s.box n).reqIdxErr ∨ (s.box n).rspIdxErr → s.nextRaw ⟨n, .bar0⟩ = none) ∧
  (∀ (n : Nat) (m : Bytes) (s : State), (s.box n).ntfIdxErr →
    s.ntfRing n true m = s.updBox n (fun b => { b with heldNtf := b.heldNtf ++ [m] }) ∧
    s.ntfRing n false m = s.updBox n (fun b => { b with ntfLost := satAdd 255 b.ntfLost 1 }))

/-- An uncorrectable error in the request slot that Oananos reads next: the request is consumed and answered with
ST_CHECK_FAILED, DETAIL 0xFFFF_FFFF and LENGTH 0, with OPCODE and TAG as read where bytes 0 to 15 were clean and 0 where they
were not, and nothing else happens but that the error is recorded (R78). Of a request that is next: an opcode that no request
may carry is answered with ST_BAD_OPCODE, and a notification opcode of good LENGTH with ST_DENIED; nothing else happens but
that the request is consumed. -/
def Obligations.RequestsWithoutAMessage : Prop :=
  (∀ (n : Nat) (inHeader : Bool) (s : State) (raw : Bytes), s.nextRaw ⟨n, .bar0⟩ = some raw →
    exec (.mbxRequestSlotError n inHeader) s = .next
      (((s.error { source := 0, event := 2, cls := 0x0E, unit := n } [{ cls := 0x0E, idx := n }]).consume ⟨n, .bar0⟩).postRsp
        ⟨n, .bar0⟩ 0 (message (if inHeader then 0 else u16 raw 0) (if inHeader then 0 else u16 raw 2) 0x0C 0xFFFFFFFF []))) ∧
  (∀ (r : Req) (s : State), (s.nextRaw r.via).map (parseReq r.via) = some r → r.op ∉ requestOpcodes →
    (r.op < 0x0081 ∨ 0x0084 < r.op) →
    exec (.badOpcodeRequest r.via) s = .next ((s.consume r.via).respond s r .badOpcode)) ∧
  (∀ (r : Req) (s : State), (s.nextRaw r.via).map (parseReq r.via) = some r → 0x0081 ≤ r.op → r.op ≤ 0x0084 →
    r.len % 4 = 0 → r.len ≤ 496 → r.pay.length = r.len →
    exec (.badOpcodeRequest r.via) s = .next ((s.consume r.via).respond s r .denied))

/-- Four accepted queries answer ST_OK and change nothing but that the request is consumed and the response posted:
DEV_IDENTIFY with DEV_ID, DEV_CAPS, the serial number, the firmware and ROM versions, the protocol version and payload limit,
NODE_ID, the mailbox and the attach mode; DEV_PING with the payload it was sent; CONFIG_READ of the accepted generation, inside
the image, with up to 448 bytes of it; DEV_STATUS with the state before and the state, the generation and reject detail, device
time and the time the state was entered at their places. -/
def Obligations.DeviceQueries : Prop :=
  (∀ (r : Req) (s : State), Accepted devIdentify r s →
    exec (.devIdentify r.via) s = .next ((s.consume r.via).respond s r .ok 0
      (leBytes 4 s.devId.toNat ++ zeros 4 ++ leBytes 8 s.devCaps.toNat ++ leBytes 8 s.fuse.serial.toNat ++
        leBytes 4 (if s.dev.st = .faultHold then 0 else s.dev.fwVersion) ++ leBytes 4 Config.romVersion.toNat ++
        leBytes 2 1 ++ leBytes 2 496 ++ leBytes 2 s.dev.nodeId ++ leBytes 1 r.via.mbx ++
        leBytes 1 (b2n s.link.standalone) ++ zeros 4))) ∧
  (∀ (r : Req) (s : State), Accepted devPing r s →
    exec (.devPing r.via) s = .next ((s.consume r.via).respond s r .ok 0 r.pay)) ∧
  (∀ (r : Req) (s : State), Accepted configRead r s → u32 r.pay 0 = s.dev.lastGen →
    448 * u32 r.pay 4 < s.dev.acceptedImage.length →
    exec (.configRead r.via) s = .next ((s.consume r.via).respond s r .ok 0
      (leBytes 2 (min 448 (s.dev.acceptedImage.length - 448 * u32 r.pay 4)) ++ zeros 2 ++
        slice s.dev.acceptedImage (448 * u32 r.pay 4) 448))) ∧
  (∀ (r : Req) (s : State), Accepted devStatus r s → ∃ p, exec (.devStatus r.via) s =
    .next ((s.consume r.via).respond s r .ok 0 p) ∧ p.take 2 = leBytes 1 s.dev.st.code ++ leBytes 1 s.dev.prev.code ∧
    slice p 4 8 = leBytes 4 s.dev.lastGen ++ leBytes 4 s.dev.rejectDetail ∧ p.drop 40 = leBytes 8 s.now ++ leBytes 8 s.dev.since)

/-- The staging session. An accepted CONFIG_BEGIN for a generation above the last accepted one, with no session of another
transport and the right chunk count, opens an empty session with the idle time from now. An accepted CONFIG_CHUNK of the session's
transport and generation, with an INDEX below its count, the right length and a good CRC, for a chunk not stored yet, stores it
and restarts the idle time. An accepted CONFIG_COMMIT of the session's transport and generation closes the session: where its
checks pass it answers ST_PENDING and enters CONFIG_CHECK; where one fails it answers ST_CHECK_FAILED with the reason and rejects.
An accepted CONFIG_ABORT of the session closes it. Ten seconds after the idle time began the timeout closes it. In
CONFIG_CHECK, with memory trained, the end of the check accepts an image that passes and refuses one that fails. Refusing ends
in CONFIG_REJECTED with the reason, CXL disabled and the last accepted generation as it was; accepting makes the image's
generation the last accepted one and ends in READY or DEGRADED. -/
def Obligations.Configuration : Prop :=
  (∀ (r : Req) (s : State), Accepted configBegin r s → s.dev.lastGen < u32 r.pay 0 →
    (∀ g, s.dev.staging = some g → g.xport = r.via.xport) → u32 r.pay 8 = ceilDiv (u32 r.pay 4) 448 →
    exec (.configBegin r.via) s = .next (((s.consume r.via).setStaging (some
      { xport := r.via.xport, generation := u32 r.pay 0, length := u32 r.pay 4, count := u32 r.pay 8
        crc := BitVec.ofNat 32 (u32 r.pay 12), idleFrom := s.now })).respond s r .ok)) ∧
  (∀ (r : Req) (s : State) (g : Staging), Accepted configChunk r s → s.dev.staging = some g → g.xport = r.via.xport →
    g.generation = u32 r.pay 0 → u32 r.pay 4 < g.count → u16 r.pay 8 = g.chunkLen (u32 r.pay 4) →
    (crc32c (r.pay.drop 16)).toNat = u32 r.pay 12 → look g.chunks (u32 r.pay 4) = none →
    exec (.configChunk r.via) s = .next (((s.consume r.via).setStaging (some
      { g with chunks := put g.chunks (u32 r.pay 4) (r.pay.drop 16), idleFrom := s.now })).respond s r .ok)) ∧
  (∀ (r : Req) (s : State) (g : Staging), Accepted configCommit r s → s.dev.staging = some g → g.xport = r.via.xport →
    g.generation = u32 r.pay 0 → g.fails (u32 r.pay 4) = none →
    let c : Commit := { image := g.image, generation := g.generation, done := some r.deferred }
    let t : State := { s.consume r.via with dev := { s.dev with staging := none, commit := some c } }
    exec (.configCommit r.via) s = .next (((t.deferring r).respond s r .pending).enter .configCheck 0)) ∧
  (∀ (r : Req) (s : State) (g : Staging) (d : Nat), Accepted configCommit r s → s.dev.staging = some g →
    g.xport = r.via.xport → g.generation = u32 r.pay 0 → g.fails (u32 r.pay 4) = some d →
    exec (.configCommit r.via) s = .next ((((s.consume r.via).setStaging none).respond s r .checkFailed d).reject d)) ∧
  (∀ (r : Req) (s : State) (g : Staging), Accepted configAbort r s → s.dev.staging = some g → g.xport = r.via.xport →
    g.generation = u32 r.pay 0 →
    exec (.configAbort r.via) s = .next (((s.consume r.via).setStaging none).respond s r .ok)) ∧
  (∀ (s : State) (g : Staging), s.dev.staging = some g →
    exec .configStagingTimeout s = .next ((s.advanceTo (g.idleFrom + 10000000000)).setStaging none)) ∧
  (∀ (s : State) (c : Commit) (rs : List Rec), s.dev.commit = some c → s.dev.st = .configCheck → s.dev.memTrained →
    s.checkImage c.image c.generation = .ok rs → exec .configCheckDone s = .next (s.accept c rs)) ∧
  (∀ (s : State) (c : Commit) (d : Nat), s.dev.commit = some c → s.dev.st = .configCheck → s.dev.memTrained →
    s.checkImage c.image c.generation = .error d → exec .configCheckDone s = .next (s.refuse c d) ∧
      (s.refuse c d).dev.lastGen = s.dev.lastGen ∧ (s.refuse c d).dev.st = .configRejected ∧
      (s.refuse c d).dev.rejectDetail = d ∧ (s.refuse c d).link.cxlEnabled = false) ∧
  (∀ (s : State) (c : Commit) (rs : List Rec), (s.accept c rs).dev.lastGen = c.generation ∧
    (s.accept c rs).dev.commit = none ∧ ((s.accept c rs).dev.st = .ready ∨ (s.accept c rs).dev.st = .degraded))

/-- Resets. A cold reset leaves RESET, device memory, the rings, mailboxes, jobs, fault ring, power, time and Basin as at
power-up, no nonce and no flash update, and keeps the fuses, the lifecycle, the anti-rollback floor, what the board gives the
pins, the waiting commands, and the settings unless one is being programmed. A warm reset, where no cold one runs, ends in RESET and keeps
device time, SEQ, FLT_RING_CONS and the transient and lasting counts, the fuses, the poison list, soft repairs, the stacks' own
state, retired memory channels, the lifecycle, the list of journals, the sampled straps, the waiting commands, and the settings unless
one is being programmed; the Basin, mailboxes and staged events are gone, and the unwritten events are added to FLT_LOST. PWROK falling begins a cold reset; RESET_N falling
with the rails up a warm one; PERST_N falling in coherent mode, with the rails up and the mode known, a warm one; in standalone
mode, without rails or before the mode is known it is only noted, and so is RESET_N without rails; a hot reset on the link, a Function Level Reset once firmware
answers, and the two-wire RESET with its confirmation an internal one of their kind, which holds the device in RESET. An
accepted DEV_RESET is answered ST_OK and notes the stronger of its kind and one already noted; 100 µs later the reset begins, a
warm one after every dirty line has been written back. -/
def Obligations.Resets : Prop :=
  (∀ s : State, let t := s.toReset true
    t.dev.st = .reset ∧ t.rst.cold ∧ t.fuse = s.fuse ∧ t.mem = [] ∧ t.ram = [] ∧ t.mbx = [] ∧ t.core = {} ∧ t.flt = {} ∧
    t.pwr = {} ∧ t.time = {} ∧ t.basin = {} ∧ t.sec.life = s.sec.life ∧ (s.sec.otpProg = none → t.sec.otp = s.sec.otp) ∧
    t.sec.svnFloor = s.sec.svnFloor ∧ t.sec.nonces = [] ∧ t.sec.update = none ∧ t.gpio.ext = s.gpio.ext ∧
    t.pending = s.pending) ∧
  (∀ s : State, ¬ (s.dev.st = .reset ∧ s.rst.cold) → let t := s.toReset false
    t.dev.st = .reset ∧ t.rst.cold = false ∧ t.time.now = s.time.now ∧ t.flt.nextSeq = s.flt.nextSeq ∧
    t.flt.ringCons = s.flt.ringCons ∧ t.flt.transient = s.flt.transient ∧ t.flt.lasting = s.flt.lasting ∧ t.flt.staged = [] ∧
    t.flt.lost = satAdd 0xFFFFFFFF s.flt.lost s.flt.unwritten ∧ t.ext.poison = s.ext.poison ∧ t.ext.soft = s.ext.soft ∧
    t.ext.hstacks = s.ext.hstacks ∧ t.ext.pcRetired = s.ext.pcRetired ∧ t.ext.chRetired = s.ext.chRetired ∧
    t.sec.life = s.sec.life ∧ (s.sec.otpProg = none → t.sec.otp = s.sec.otp) ∧ t.core = { journals := s.core.journals } ∧
    t.basin = {} ∧ t.mbx = [] ∧ t.fuse = s.fuse ∧ t.gpio.straps = s.gpio.straps ∧ t.smb.addrPins = s.smb.addrPins ∧
    t.pending = s.pending) ∧
  (∀ s : State, s.rst.pwrok → exec .pwrokFall s = .next ({ s with rst := { s.rst with pwrok := false } }.toReset true)) ∧
  (∀ s : State, s.rst.resetN → s.rst.off = false →
    exec .resetNAssert s = .next ({ s with rst := { s.rst with resetN := false } }.toReset false)) ∧
  (∀ s : State, s.rst.resetN → s.rst.off →
    exec .resetNAssert s = .next { s with rst := { s.rst with resetN := false } }) ∧
  (∀ s : State, s.rst.perstN → s.rst.off = false → s.rst.first = false → s.link.standalone = false →
    exec .perstNAssert s = .next ({ s with rst := { s.rst with perstN := false } }.toReset false)) ∧
  (∀ s : State, s.rst.perstN → s.rst.off ∨ s.rst.first ∨ s.link.standalone →
    exec .perstNAssert s = .next { s with rst := { s.rst with perstN := false } }) ∧
  (∀ s : State, s.link.standalone = false → s.link.up → exec .pcieHotReset s = .next (s.internalReset false)) ∧
  (∀ s : State, s.link.standalone = false → s.link.up → s.fwRun →
    exec .functionLevelReset s = .next (s.internalReset false)) ∧
  (∀ (kind : Nat) (pec : Pec) (s : State), s.rst.off = false → s.pecFails true pec = false → kind = 1 ∨ kind = 2 →
    s.dev.st ≠ .reset ∨ (kind = 2 ∧ s.rst.cold = false) →
    exec (.smbReset kind 0xC0DA pec) s = .next (s.internalReset (kind = 2))) ∧
  (∀ (cold : Bool) (s : State), (s.internalReset cold).rst.internal.isSome ∧ (s.internalReset cold).dev.st = .reset) ∧
  (∀ (r : Req) (s : State), Accepted devReset r s →
    exec (.devReset r.via) s = .next (({ s.consume r.via with dev := { s.dev with
      resetPending := some (max (u8 r.pay 0) (s.dev.resetPending.getD 0)) } }).respond s r .ok)) ∧
  (∀ s : State, s.dev.resetPending = some 1 →
    exec .devResetStart s = .next ((s.advanceTo (s.now + 100000)).writeBackAll.internalReset false)) ∧
  (∀ s : State, s.dev.resetPending = some 2 →
    exec .devResetStart s = .next ((s.advanceTo (s.now + 100000)).internalReset true))

/-- Release of reset. While some source still holds the device, releasing another changes only that source. When the last is released
in RESET, with no event staged, the RESET record is staged with the events lost at the reset and the kind of reset as its DETAIL, the straps are
due, and the device enters SELFTEST where the check code of the capability fuses matches and FAULT_HOLD where it does not,
with DEV_CAPS zero; the code is read at the first release after power was applied and kept from then on. PWROK, RESET_N and PERST_N rising, and the end of an internal source's hold
(5 µs of a warm one), release their source. A power loss ends in RESET with PWROK low, no rail, no attach mode, device memory
empty, no pending hard repair and no capability fuses read, and leaves the waiting commands. Straps due are sampled 5 µs after the
release where that does not take the device back into reset: they settle the two-wire address, by the setting where there is
one and else by the pins, and the attach mode, which on a CDL-S8400N and on a part without CXL is standalone whatever the strap
says; memory and jobs stay as they were. -/
def Obligations.ReleaseOfReset : Prop :=
  (∀ (f : FuseRead) (s : State), s.heldInReset → s.unreset f = s) ∧
  (∀ (f : FuseRead) (s : State), s.heldInReset = false → s.dev.st = .reset → s.flt.staged = [] →
    let ok := if s.rst.fused then s.fuse.checkOk else f.capsOk
    let t := s.unreset f
    t.rst.strapsDue ∧ t.rst.fused ∧ t.fuse.checkOk = ok ∧ t.mem = s.mem ∧ t.dev.warmLast = !s.rst.cold ∧
    t.dev.st = (if ok then .selftest else .faultHold) ∧ (ok = false → t.devCaps = 0) ∧
    (∃ e ∈ t.flt.staged, e.kind = 8 ∧ e.count = s.rst.lost ∧ e.syndrome = if s.rst.cold then 2 else 1)) ∧
  (∀ (f : FuseRead) (s : State),
    exec (.pwrokRise f) s = .next ({ s with rst := { s.rst with pwrok := true, off := false } }.unreset f)) ∧
  (∀ (f : FuseRead) (s : State),
    exec (.resetNDeassert f) s = .next ({ s with rst := { s.rst with resetN := true } }.unreset f)) ∧
  (∀ (f : FuseRead) (s : State),
    exec (.perstNDeassert f) s = .next ({ s with rst := { s.rst with perstN := true } }.unreset f)) ∧
  (∀ (f : FuseRead) (s : State), s.rst.internal.isSome → s.rst.cold →
    exec (.internalResetHoldExpire f) s = .next ({ s with rst := { s.rst with internal := none } }.unreset f)) ∧
  (∀ (f : FuseRead) (s : State), s.rst.internal.isSome → s.rst.cold = false →
    let t := s.advanceTo (s.dev.since + 5000)
    exec (.internalResetHoldExpire f) s = .next ({ t with rst := { t.rst with internal := none } }.unreset f)) ∧
  (∀ s : State, ∃ t, exec .powerLoss s = .next t ∧ t.rst.pwrok = false ∧ t.rst.off ∧ t.rst.first ∧ t.rst.fused = false ∧
    t.dev.st = .reset ∧ t.mem = [] ∧ (∀ x ∈ t.ext.hstacks, x.2.hardPending = []) ∧ t.pending = s.pending) ∧
  (∀ s : State, s.rst.strapsDue → s.dev.st ≠ .reset → (s.rst.first = false ∨ s.isModule ∨ s.hasCxl = false ∨ s.rst.perstN) →
    let u := s.advanceTo (s.dev.since + 5000)
    let pin := maskOf ((List.range 4).filter fun i => u.padAt (24 + i))
    exec .strapSample s = .next { u with
      rst := { u.rst with strapsDue := false, first := false }
      gpio := { u.gpio with straps := BitVec.ofNat 4 pin }
      link := { u.link with standalone := u.attachStandalone (bit pin 0) }
      dev := { u.dev with attachConflict := u.attachClash (bit pin 0) }
      smb := { u.smb with
        addrPins := BitVec.ofNat 3 (pin / 2), fromOtp := (u.otpValue 3).isSome
        addr := BitVec.ofNat 7 (0x58 + ((u.otpValue 3).map fun b => u8 b 0).getD (pin / 2)) } }) ∧
  (∀ (strap : Bool) (s : State), s.isModule ∨ s.hasCxl = false → s.attachStandalone strap)

/-- The steps of bringing the device up. Self-test with the straps sampled ends in FW_LOAD with each retirable failed unit
taken through its retirement where the cores, the front end and at least one Basin group passed, and otherwise in FAULT_HOLD
(R81, R161). Firmware load starts the first valid image in the order the images are tried, in AWAIT_CONFIG in coherent mode
with memory training begun; with no valid image it ends in FAULT_HOLD (R730). Memory training under way ends, out of
self-refresh, with no Canyon areas left to zero (R199). In coherent mode out of RESET a configuration request is answered
according to whether firmware runs (R83). While firmware runs, the heartbeat advances by one, 1 ms after the last or at once
where that is past, and the watchdog's expiry ends in FAULT_HOLD. Out of RESET a lockstep mismatch of one of the four core pairs
ends in FAULT_HOLD, and so does a thermal or supply fault, with VCORE at 600 mV, memory in self-refresh and every glen gated
(R75, R683, R772). -/
def Obligations.BringUp : Prop :=
  (∀ (failed : List UnitRef) (s : State), s.dev.st = .selftest → s.rst.strapsDue = false → allGroupsFail failed = false →
    exec (.selftestDone true true failed) s = .next
      (((failed.filter s.retirable).foldl State.failSelftest s).enter .fwLoad 0)) ∧
  (∀ (c f : Bool) (failed : List UnitRef) (s : State), s.dev.st = .selftest → s.rst.strapsDue = false →
    (c = false ∨ f = false ∨ allGroupsFail failed) →
    exec (.selftestDone c f failed) s = .next s.holdAtStart ∧ s.holdAtStart.dev.st = .faultHold) ∧
  (∀ (s : State) (e : Nat × FlashImage), s.dev.st = .fwLoad → (s.fwEntries.find? fun x => s.fwValid x.2.bytes) = some e →
    s.link.standalone = false →
    ∃ t, exec (.fwLoadDone none) s = .next t ∧ t.dev.st = .awaitConfig ∧ t.sec.bootImage = e.1 ∧
      t.dev.fwVersion = u32 e.2.bytes 8 ∧ t.dev.fwImage = e.2.bytes ∧ t.ext.training) ∧
  (∀ s : State, s.dev.st = .fwLoad → (∀ x ∈ s.fwEntries, s.fwValid x.2.bytes = false) →
    ∃ t, exec (.fwLoadDone none) s = .next t ∧ t.dev.st = .faultHold) ∧
  (∀ (spared used pc ch : List Nat) (s : State), s.ext.training →
    ∃ t, exec (.memTrainingDone spared used pc ch) s = .next t ∧ t.dev.memTrained ∧ t.ext.training = false ∧
      t.ext.selfRefresh = false ∧ t.cyn.areas = [] ∧ t.fuse = s.fuse) ∧
  (∀ s : State, s.link.standalone = false → s.dev.st ≠ .reset →
    exec .pcieConfigRequest s = .next (s.emit (.pcieConfig s.fwRun))) ∧
  (∀ s : State, s.firmwareRuns → let t := s.advanceTo (s.dev.heartbeatAt + 1000000)
    exec .mbxHeartbeatAdvance s = .next { t with dev := { s.dev with heartbeat := s.dev.heartbeat + 1, heartbeatAt := t.now } }) ∧
  (∀ s : State, s.firmwareRuns → ∃ t, exec .heartbeatWatchdogExpire s = .next t ∧ t.dev.st = .faultHold) ∧
  (∀ (core : Nat) (s : State), core < 4 → s.dev.st ≠ .reset →
    ∃ t, exec (.lockstepMismatch core) s = .next t ∧ t.dev.st = .faultHold) ∧
  (∀ s : State, s.dev.st ≠ .reset → ∃ t, exec .thermalSupplyFault s = .next t ∧ t.dev.st = .faultHold ∧
    t.pace.target = 600 ∧ t.ext.selfRefresh ∧ t.pwr.gatedGlens = s.glenMask)

/-- Draining and standby (R72, R94, R507, R759, R761, R766). An accepted DEV_DRAIN, which for standby needs the CXL decoder off
and no halted core pair, is answered ST_PENDING and enters DRAINING with the open advances ended and its limit from now. The
limit, where one was set and the drain is in its first phase, is gone once it expires, the drain's request and kind stay and its
count of torn-down contexts does not fall. With no request left, a drain for standby goes to its second phase, and one for
reconfiguration in coherent mode ends in AWAIT_CONFIG with no jobs but the journals, no valleys and an empty Basin. Entry into
STANDBY: the write-back empties the Basin and takes the links down, then external memory is in self-refresh, then STANDBY is entered
with VCORE at 600 mV, the entry counted and the drain ended. The wake: VCORE at most what it was, memory out of self-refresh and
power-down, then READY or DEGRADED in the power state of the wake, with no glen gated. -/
def Obligations.DrainingAndStandby : Prop :=
  (∀ (r : Req) (s : State), Accepted devDrain r s → (u8 r.pay 0 = 1 → s.link.decoder = false ∧ s.tap.halted = []) →
    let d : Drain := { standby := u8 r.pay 0 = 1, done := r.deferred,
                       deadline := if u32 r.pay 4 = 0 then none else some (s.now + 1000000 * u32 r.pay 4) }
    let t := (s.consume r.via).setDrain (some d)
    let t := { t with drainSt := s.valleys.map fun (v : Nat × Valley) => (v.1, v.2.st) }
    exec (.devDrain r.via) s = .next (((t.deferring r).respond s r .pending).endAdvances.enter .draining 0)) ∧
  (∀ (s : State) (d : Drain) (t : Nat), s.dev.drain = some d → d.deadline = some t → s.dev.st = .draining → d.phase = 0 →
    ∃ u, exec .drainLimitExpire s = .next u ∧ ∃ e, u.dev.drain = some e ∧ e.deadline = none ∧ d.torn ≤ e.torn ∧
      e.done = d.done ∧ e.standby = d.standby) ∧
  (∀ (s : State) (d : Drain), s.dev.drain = some d → s.dev.st = .draining → d.phase = 0 → s.core.reqs = [] → d.standby →
    exec .drainComplete s = .next (s.setDrain (some { d with phase := 1 }))) ∧
  (∀ (s : State) (d : Drain), s.dev.drain = some d → s.dev.st = .draining → d.phase = 0 → s.core.reqs = [] →
    d.standby = false → s.link.standalone = false → ∃ t, exec .drainComplete s = .next t ∧ t.dev.st = .awaitConfig ∧
      t.dev.drain = none ∧ t.core = { journals := s.core.journals } ∧ t.valleys = [] ∧ t.basin.lines = []) ∧
  (∀ (s : State) (d : Drain), s.dev.drain = some d → s.dev.st = .draining → d.phase = 1 → exec .standbyWritebackDone s =
    .next (((s.emptyLines (s.basin.lines.map (·.1))).linksDown).setDrain (some { d with phase := 2 }))) ∧
  (∀ (s : State) (d : Drain), s.dev.drain = some d → s.dev.st = .draining → d.phase = 2 →
    ∃ t, exec .standbySelfRefreshDone s = .next t ∧ t.ext = { s.ext with selfRefresh := true } ∧
      t.dev = { s.dev with drain := some { d with phase := 3 } } ∧ t = { s with time := t.time, ext := t.ext, dev := t.dev }) ∧
  (∀ (s : State) (d : Drain), s.dev.drain = some d → s.dev.st = .draining → d.phase = 3 →
    ∃ t, exec .standbyEntryDone s = .next t ∧ t.dev.st = .standby ∧ t.dev.drain = none ∧ t.pace.target = 600 ∧
      t.pwr.standbyEntries = s.pwr.standbyEntries + 1) ∧
  (∀ (s : State) (w : Wake), s.pwr.wake = some w → s.dev.st = .standby → w.phase = 0 →
    ∃ t, exec .standbyWakeVcore s = .next t ∧ t.pwr.wake = some { w with phase := 1 } ∧ t.pace.target ≤ s.pwr.heldVcore ∧
      t = { s with time := t.time, pwr := t.pwr, pace := t.pace }) ∧
  (∀ (s : State) (w : Wake), s.pwr.wake = some w → s.dev.st = .standby → w.phase = 1 →
    exec .standbyWakeMemoryDone s = .next { s with
      ext := { s.ext with selfRefresh := false, poweredDown := [] }, pwr := { s.pwr with wake := some { w with phase := 2 } } }) ∧
  (∀ (s : State) (w : Wake), s.pwr.wake = some w → s.dev.st = .standby → w.phase = 2 →
    ∃ t, exec .standbyWakeDone s = .next t ∧ (t.dev.st = .ready ∨ t.dev.st = .degraded) ∧ t.pwr.wake = none ∧
      t.pwr.st = w.target ∧ t.pwr.gatedGlens = 0)

/-- The governor. A pace sample out of RESET counts itself, keeps the VCORE and junction measured, and leaves the VCORE target at
or below the cap where the governor then runs; beside time, pace, power, memory channels powered down, the heartbeat's and the
staging session's times and what posting changes, everything is as before (R100, R751). A lowering that is due while the governor
runs and the target is not held moves the target down by the step, to the floor at most or not at all below it (R107). A valley's
own holdback, when due, makes INFLIGHT_MAX times pace over target, at least INFLIGHT_MIN, its limit where nothing else holds it
back; the release, when due, clears it (R108). A replica of a fitted glen, of the control cores or of the Basin that reads 0 or
1,023 or deviated for 16 samples is dropped once and recorded (R123). PACE_LOW, when due, is set with its event while the governor
runs and cleared without one (R124). -/
def Obligations.Governor : Prop :=
  (∀ (glens : List Nat) (cc basin meas : Nat) (tj : Int) (s : State), s.dev.st ≠ .reset →
    ∃ t, exec (.paceSample glens cc basin meas tj) s = .next t ∧ t.pace.seq = s.pace.seq + 1 ∧ t.pace.meas = meas ∧
      t.pace.tj = tj ∧ (s.governed → t.pace.target ≤ t.vcoreCap) ∧
      Posts { s with time := t.time, pace := t.pace, pwr := t.pwr, ext := { s.ext with poweredDown := t.ext.poweredDown }
                     dev := { s.dev with heartbeatAt := t.dev.heartbeatAt, staging := t.dev.staging } } t) ∧
  (∀ s : State, s.pace.lowerDue → s.governed → s.pwr.holdTarget = false →
    exec .vcoreTargetLower s = .next { s with pace := { s.pace with
      target := max (min s.pace.target s.pace.gov.vmin) (s.pace.target - s.pace.gov.step), lowerDue := false } }) ∧
  (∀ (v : Nat) (s : State), (s.paceValley v).ownDue → (s.paceValley v).own = false →
    let t := s.setPaceValley v { s.paceValley v with own := true }
    exec (.ownAdmissionHoldback v) s = .next t ∧
    (s.pace.low = false → (∀ u, u < 8 → (s.paceValley u).holdsLower = false) → t.inflightLimit v =
      max (s.govValley v).inflMin ((s.govValley v).inflMax * (s.paceValley v).index / (s.govValley v).target))) ∧
  (∀ (v : Nat) (s : State), (s.paceValley v).releaseDue →
    exec (.holdbackRelease v) s = .next (s.setPaceValley v { s.paceValley v with
      holdsLower := false, own := false, shortRun := 0, releaseDue := false })) ∧
  (∀ (i : Nat) (s : State), i < 32 → s.hasGlen i → i ∉ s.pace.faulty → s.dev.st ≠ .reset →
    (lookD s.pace.raw i 512 = 0 ∨ lookD s.pace.raw i 512 = 1023 ∨ 16 ≤ lookD s.pace.devRun i 0) →
    exec (.replicaFault i) s = .next ({ s with pace := { s.pace with faulty := s.pace.faulty ++ [i] } }.error
      { source := 0x0C, event := 0x0D, cls := 1, unit := i, valley := (s.glenValley i).getD 0xFF } [{ cls := 1, idx := i }])) ∧
  (∀ (i : Nat) (s : State), i = 32 ∨ i = 33 → i ∉ s.pace.faulty → s.dev.st ≠ .reset →
    (lookD s.pace.raw i 512 = 0 ∨ lookD s.pace.raw i 512 = 1023 ∨ 16 ≤ lookD s.pace.devRun i 0) →
    exec (.replicaFault i) s = .next ({ s with pace := { s.pace with faulty := s.pace.faulty ++ [i] } }.error
      { source := 0x0C, event := 0x0D, cls := 0x0F, subunit := i - 32 } [])) ∧
  (∀ s : State, s.pace.lowDue → s.pace.low = false → s.governed →
    exec .paceLowSet s = .next ({ s with pace := { s.pace with low := true } }.event 0x0C 1 0xFFFF [] none)) ∧
  (∀ s : State, s.pace.clearDue → s.pace.low →
    exec .paceLowClear s = .next { s with pace := { s.pace with low := false } })

/-- The messages and clearing reads of pace and time. An accepted GOVERNOR_SET, and an accepted TIME_PTP_SET, which for PPS needs
a PPS_IN pin, hold their settings for the next sample (R119). Accepted PACE_QUERY and TIME_QUERY answer and change nothing but
that the request is consumed and the response posted: PACE_QUERY begins with the paces of the device, the control cores and the
Basin, the least of the last samples, the measured VCORE and the target, and TIME_QUERY's response is given whole. While BAR0
answers, a read of PACE_MIN gives it and restarts it at 0x3FF, a read of PACE_TIME_LO gives the low half of device time and
latches the high half, and a read of the time status gives sync, mode and STEPPED and clears STEPPED; nothing else changes (R121,
R129). -/
def Obligations.PaceMessages : Prop :=
  (∀ (r : Req) (s : State), Accepted governorSet r s → exec (.governorSet r.via) s =
    .next ({ s.consume r.via with pace := { s.pace with govPending := some (govOf r.pay) } }.respond s r .ok)) ∧
  (∀ (r : Req) (s : State), Accepted timePtpSet r s → (u8 r.pay 0 = 3 → s.pinsOf 3 ≠ []) → exec (.timePtpSet r.via) s =
    .next ({ s.consume r.via with time := { s.time with pending := some (timeOf r.pay) } }.respond s r .ok)) ∧
  (∀ (r : Req) (s : State), Accepted paceQuery r s → ∃ p, exec (.paceQuery r.via) s =
    .next ((s.consume r.via).respond s r .ok 0 p) ∧ p.take 12 = leBytes 2 s.pace.device ++ leBytes 2 s.pace.cc ++
      leBytes 2 s.pace.basin ++ leBytes 2 (s.pace.recent.foldl min 1023) ++ leBytes 2 s.pace.meas ++ leBytes 2 s.pace.target) ∧
  (∀ (r : Req) (s : State), Accepted timeQuery r s → exec (.timeQuery r.via) s =
    .next ((s.consume r.via).respond s r .ok 0 (leBytes 8 s.now ++ leBytes 1 s.time.cfg.mode ++ leBytes 1 s.syncState ++
      zeros 2 ++ leInt 8 s.time.offset ++ leInt 4 s.time.ratePpb ++ leBytes 4 s.time.meanPath ++
      leBytes 8 ((s.time.master.map (·.identity)).getD 0) ++ leBytes 4 s.time.steps))) ∧
  (∀ s : State, s.bar0 →
    exec .paceMinRead s = .next ({ s with pace := { s.pace with minRead := 0x3FF } }.emit (.read s.pace.minRead))) ∧
  (∀ s : State, s.bar0 → exec .paceTimeLoRead s =
    .next ({ s with time := { s.time with hi := BitVec.ofNat 32 (s.now / 2 ^ 32), hiValid := true } }.emit
      (.read (s.now % 2 ^ 32)))) ∧
  (∀ s : State, s.bar0 → exec .paceTimeStatusRead s =
    .next ({ s with time := { s.time with stepped := false } }.emit
      (.read (s.syncState + 4 * s.time.cfg.mode + 16 * b2n s.time.stepped))))

/-- The discipline of device time (R110, R112, R113, R114, R125). An announce of the domain, port and transport in use becomes the
master where there is none, where it is from the master's sender, or where it ranks better; another is dropped. A Sync of the
master with a log interval of -7 to 1 disciplines time by its offset against the mean path and has a delay request sent; the
response to that request gives the mean path. Eight intervals without a Sync put PTP that was LOCKED or ACQUIRING into HOLDOVER. A PPS edge on
the one PPS_IN pin disciplines time against the whole second named, or the nearest where none is. At a whole second every PPS_OUT
pin pulses and shows its rising edge. A reference that is lost while firmware runs is noted with its event, and its return resumes in ACQUIRING; both
change nothing else. Once READY was entered, an offset moves device time by no step and becomes the slew (that a PPS edge before
READY steps at any offset is the model's choice, log 93, and no part of this). -/
def Obligations.TimeDiscipline : Prop :=
  (∀ (port dom tr p1 cc acc var p2 id steps snd : Nat) (s : State), s.ptpFor port dom tr →
    let m : PtpMaster := { priority1 := p1, clockClass := cc, accuracy := acc, variance := var, priority2 := p2,
                           identity := id, stepsRemoved := steps, sender := snd }
    exec (.ptpAnnounceReceive port dom tr p1 cc acc var p2 (id, snd) steps) s =
      .next (if ∀ o, s.time.master = some o → o.sender = snd ∨ lexLt m.rank o.rank
        then { s with time := { s.time with master := some m } } else s)) ∧
  (∀ (port dom tr src origin receipt : Nat) (log : Int) (m : PtpMaster) (s : State), s.ptpFor port dom tr →
    s.time.master = some m → m.sender = src → -7 ≤ log → log ≤ 1 →
    exec (.ptpSyncReceive port dom tr (src, log) origin receipt) s =
      .next (({ s with time := { s.time with
        lastSync := some (origin, receipt), syncLog := log, delayReq := true } }.discipline
          ((receipt : Int) - origin - s.time.meanPath) (s.time.cfg.stepUs * 1000)).emit (.ptpDelayReq port dom tr))) ∧
  (∀ (port dom src sent received t1 t2 : Nat) (m : PtpMaster) (s : State), s.ptpFor port dom s.time.cfg.transport →
    s.time.master = some m → m.sender = src → s.time.delayReq → s.time.lastSync = some (t1, t2) →
    exec (.ptpDelayRespReceive port dom src sent received) s =
      .next { s with time := { s.time with meanPath := ((((t2 : Int) - t1) + ((received : Int) - sent)) / 2).toNat, delayReq := false } }) ∧
  (∀ s : State, s.time.cfg.mode = 1 → s.time.sync = 1 ∨ s.time.sync = 2 → s.time.lastSync.isSome → s.time.refLost = false →
    exec .ptpSyncTimeout s = .next { s with time := { s.time with sync := 3, goodRun := 0 } }) ∧
  (∀ (pin stamp : Nat) (s : State), s.time.cfg.mode = 3 → s.pinsOf 3 = [pin] → s.time.refLost = false →
    exec (.ppsInEdge pin stamp) s = .next ({ s with time := { s.time with ppsNext := none } }.discipline
      ((stamp : Int) - s.time.ppsNext.getD ((stamp + 500000000) / 1000000000) * 1000000000) 0)) ∧
  (∀ s : State, s.dev.st ≠ .reset → ∃ t, exec .ppsOutPulse s = .next t ∧
    t = { s with time := t.time, out := t.out, gpio := { s.gpio with
      edge := s.gpio.edge ||| BitVec.ofNat 32 (maskOf (s.pulsing.filter fun n => !s.gpio.forced.getLsbD n)) } } ∧
    t.out.length = s.out.length + s.pulsing.length) ∧
  (∀ s : State, s.time.refLost = false → s.dev.st ≠ .reset → s.fwRun → exec .referenceLost s =
    .next ({ s with time := { s.time with refLost := true } }.event 7 1 0xFFFF [] none)) ∧
  (∀ s : State, s.time.refLost → exec .referenceReturn s =
    .next { s with time := { s.time with refLost := false, goodRun := 0, sync := 1 } }) ∧
  (∀ (offset : Int) (ns : Nat) (s : State), s.time.settled → (s.discipline offset ns).time.now = s.time.now ∧
    (s.discipline offset ns).time.slew = -offset)

/-- GPIO and the board messages (R789, R798, R801, R809, R822 to R825). While BAR0 answers, the three output registers write, set
and clear bits of the latch; setting the latch changes only GPIO state, and not the board's levels. The board moving a pad gives
the pad that level and leaves the latch, and a rise out of RESET is latched as an edge. Edges of the one TRIGGER_IN pin while firmware
runs are counted, the last one stamped, and the event posted. A read of the low half of the trigger time gives it and latches the
high half. The three blinking LED sources change phase. An accepted BRD_GPIO_SET merges the pin map and the masked latch bits and
answers with the conflicts that remain; BRD_GPIO_QUERY begins with the pads and the latch, and BRD_SENSOR_READ with the device and power
states and the junction, and both change nothing but that the request is consumed and the response posted; BRD_SMB_SET sets the
two-wire speed, PEC, timeout and alert settings and nothing else. -/
def Obligations.PinsAndBoard : Prop :=
  (∀ (v : W32) (s : State), s.bar0 → exec (.gpioOutLatchWrite v) s = .next (s.setLatch v)) ∧
  (∀ (v : W32) (s : State), s.bar0 → exec (.gpioOutSetWrite v) s = .next (s.setLatch (s.gpio.latch ||| v))) ∧
  (∀ (v : W32) (s : State), s.bar0 → exec (.gpioOutClrWrite v) s = .next (s.setLatch (s.gpio.latch &&& ~~~v))) ∧
  (∀ (v : W32) (s : State), (s.setLatch v).gpio.latch = v ∧ (s.setLatch v).gpio.ext = s.gpio.ext ∧
    s.setLatch v = { s with gpio := (s.setLatch v).gpio }) ∧
  (∀ (pin : Nat) (rising : Bool) (s : State), pin < 32 → ∃ t, exec (.gpioPadEdge pin rising) s = .next t ∧
    t = { s with gpio := t.gpio } ∧ t.gpio.ext.getLsbD pin = rising ∧ t.gpio.latch = s.gpio.latch ∧ t.padAt pin = rising ∧
    (rising → s.dev.st ≠ .reset → t.gpio.edge.getLsbD pin)) ∧
  (∀ (pin edges stamp : Nat) (s : State), s.pinsOf 8 = [pin] → edges ≠ 0 → s.dev.st ≠ .reset → s.fwRun →
    let g := { s.gpio with trigTime := BitVec.ofNat 64 stamp, trigCount := s.gpio.trigCount + BitVec.ofNat 32 edges }
    exec (.triggerInEdge pin edges stamp) s = .next ({ s with gpio := g }.event 0x0D 1 pin (leBytes 8 stamp) none)) ∧
  (∀ s : State, s.bar0 → exec .gpioTrigTimeLoRead s =
    .next ({ s with gpio := { s.gpio with trigHi := (s.gpio.trigTime >>> 32).setWidth 32, trigHiValid := true } }.emit
      (.read (s.gpio.trigTime.toNat % 2 ^ 32)))) ∧
  (∀ (n : Nat) (s : State), n = 3 ∨ n = 4 ∨ n = 13 → exec (.ledBlinkTimer n) s =
    .next (s.setGpio { s.gpio with ledPhase := s.gpio.ledPhase ^^^ ((1 : W32) <<< n) })) ∧
  (∀ (r : Req) (s : State), Accepted brdGpioSet r s → ∃ t : State, exec (.brdGpioSet r.via) s =
    .next (t.respond s r .ok 0 (leBytes 4 t.gpioConflict)) ∧ t = { s.consume r.via with gpio := t.gpio } ∧
    t.gpio.map = (pinEntries r.pay 12 (u8 r.pay 0)).foldl (fun m e => put m (pinEntry e).1 (pinEntry e).2) s.gpio.map ∧
    t.gpio.latch = (s.gpio.latch &&& ~~~(BitVec.ofNat 32 (u32 r.pay 4))) |||
      (BitVec.ofNat 32 (u32 r.pay 8) &&& BitVec.ofNat 32 (u32 r.pay 4))) ∧
  (∀ (r : Req) (s : State), Accepted brdGpioQuery r s → ∃ p, exec (.brdGpioQuery r.via) s =
    .next ((s.consume r.via).respond s r .ok 0 p) ∧ p.take 8 = leBytes 4 s.padLevel ++ leBytes 4 s.gpio.latch.toNat) ∧
  (∀ (r : Req) (s : State), Accepted brdSensorRead r s → ∃ p, exec (.brdSensorRead r.via) s =
    .next ((s.consume r.via).respond s r .ok 0 p) ∧
    p.take 4 = leBytes 1 s.dev.st.code ++ leBytes 1 s.pwrCode ++ leInt 2 s.pace.tj) ∧
  (∀ (r : Req) (s : State), Accepted brdSmbSet r s → ∃ t : State, exec (.brdSmbSet r.via) s = .next (t.respond s r .ok) ∧
    t = { s.consume r.via with smb := t.smb } ∧ t.smb.speed = u8 r.pay 0 ∧ t.smb.pecAll = bit (u8 r.pay 1) 0 ∧
    t.smb.timeoutDis = bit (u8 r.pay 1) 1 ∧ t.smb.alertEn = bit (u8 r.pay 1) 2)

/-- The two-wire bus (R79, R795, R796, R802 to R805, R811, R814). Reads change nothing but what they emit: identity, capabilities
and status while the bus serves, none of them otherwise; the item in front of the transport while firmware runs; the answer to the
alert gives the address and ends the alert. A bus timeout is counted unless timeouts are off, and the read of the error register
gives both counters and clears them. Of a MBX_WRITE while firmware runs and fewer than 8 requests wait: a good fragment starts or
continues a message of at most 512 bytes, and the last one hands the message over as the next to arrive; a fragment with no message
begun, or past 512 bytes, is discarded and counted; one whose PEC fails is not acknowledged and counted. An advance of the right
sequence number moves on by a fragment, or to the next item. An MCTP request with good PEC waits for its answer while firmware runs;
one of another code is answered as unsupported, and before firmware runs every one is answered as busy. A packet loses arbitration up
to seven times and is sent again, and the eighth loss drops it. -/
def Obligations.TwoWireBus : Prop :=
  (∀ s : State, s.smbLive → exec .smbDevId s = .next (s.emit (.smbRead (leBytes 4 s.devId.toNat)))) ∧
  (∀ s : State, s.smbLive → exec .smbDevCaps s = .next (s.emit (.smbRead (leBytes 8 s.devCaps.toNat)))) ∧
  (∀ s : State, s.smbLive → exec .smbStatus s = .next (s.emit (.smbRead
    [BitVec.ofNat 8 (s.dev.st.code + 16 * b2n s.fwRun), BitVec.ofNat 8 s.smbFlags, s.smb.addr.setWidth 8, 0]))) ∧
  (∀ s : State, s.smbLive = false → exec .smbDevId s = .next (s.emit .smbNack) ∧ exec .smbDevCaps s = .next (s.emit .smbNack) ∧
    exec .smbStatus s = .next (s.emit .smbNack)) ∧
  (∀ s : State, s.fwRun → exec .smbMbxRead s =
    .next (s.emit (.smbRead (BitVec.ofNat 8 s.smb.fragment.1 :: s.smb.seq :: s.smb.fragment.2)))) ∧
  (∀ s : State, s.smb.alert → s.pinsOf 10 ≠ [] → exec .smbAlertResponse s =
    .next ((s.noteEdges { s with smb := { s.smb with alert := false } }).emit (.smbRead [s.smb.addr.setWidth 8 <<< 1]))) ∧
  (∀ s : State, s.smb.timeoutDis = false → s.smbLive → exec .smbBusTimeout s =
    .next { s with smb := { s.smb with timeouts := satAdd 65535 s.smb.timeouts 1 } }) ∧
  (∀ s : State, s.bar0 → exec .smbErrorsRead s =
    .next ({ s with smb := { s.smb with pecErrors := 0, timeouts := 0 } }.emit
      (.read (s.smb.pecErrors + 65536 * s.smb.timeouts)))) ∧
  (∀ (flags : Nat) (data : Bytes) (pec : Pec) (a : Bytes) (s : State), s.fwRun → s.smb.requests.length < 8 →
    s.pecFails false pec = false → (if bit flags 0 then some [] else s.smb.assembling) = some a →
    (a ++ data).length ≤ 512 → exec (.smbMbxWrite flags data pec) s = .next (if bit flags 1
      then { s with smb := { s.smb with assembling := none, requests := s.smb.requests ++ [a ++ data] }
                    svc := { s.svc with order := s.svc.order ++ [.twoWire] } }
      else { s with smb := { s.smb with assembling := some (a ++ data) } })) ∧
  (∀ (flags : Nat) (data : Bytes) (pec : Pec) (s : State), s.fwRun → s.smb.requests.length < 8 →
    s.pecFails false pec = false → (∀ a, (if bit flags 0 then some [] else s.smb.assembling) = some a →
      512 < (a ++ data).length) → exec (.smbMbxWrite flags data pec) s = .next { s with smb := { s.smb with
        assembling := none, discarded := s.smb.discarded + 1 } }) ∧
  (∀ (flags : Nat) (data : Bytes) (pec : Pec) (s : State), s.fwRun → s.smb.requests.length < 8 → s.pecFails false pec →
    exec (.smbMbxWrite flags data pec) s = .next ({ s with
      smb := { s.smb with pecErrors := satAdd 65535 s.smb.pecErrors 1 } }.emit .smbNack)) ∧
  (∀ (seq : Nat) (pec : Pec) (i : SmbItem) (rest : List SmbItem) (s : State), s.smbLive → s.pecFails false pec = false →
    s.smb.items = i :: rest → s.smb.seq.toNat = seq → s.smb.pos + 253 < i.bytes.length →
    exec (.smbMbxAdvance seq pec) s = .next { s with smb := { s.smb with pos := s.smb.pos + 253, seq := s.smb.seq + 1 } }) ∧
  (∀ (seq : Nat) (pec : Pec) (i : SmbItem) (rest : List SmbItem) (s : State), s.smbLive → s.pecFails false pec = false →
    s.smb.items = i :: rest → s.smb.seq.toNat = seq → i.bytes.length ≤ s.smb.pos + 253 →
    exec (.smbMbxAdvance seq pec) s = .next ((s.noteEdges { s with smb := { s.smb with
      items := rest, pos := 0, seq := s.smb.seq + 1, alert := s.smb.alert && !rest.isEmpty } }).flushSmb)) ∧
  (∀ (source : Nat) (q : SpdmReq) (pec : Pec) (s : State), s.smbLive → s.pecFails true pec = false → s.fwRun →
    (∀ c, q ≠ .other c) → exec (.smbMctp source q pec) s = .next { s with
      smb := { s.smb with mctpIn := s.smb.mctpIn ++ [(source, q)] } }) ∧
  (∀ (source c : Nat) (pec : Pec) (s : State), s.smbLive → s.pecFails true pec = false → s.fwRun →
    exec (.smbMctp source (.other c) pec) s = .next (s.sendMctp source .errorUnsupported)) ∧
  (∀ (source : Nat) (q : SpdmReq) (pec : Pec) (s : State), s.smbLive → s.pecFails true pec = false → s.fwRun = false →
    exec (.smbMctp source q pec) s = .next (s.sendMctp source .errorBusy)) ∧
  (∀ (d : Nat) (x : SpdmRsp) (rest : List (Nat × SpdmRsp)) (s : State), s.smb.mctpOut = (d, x) :: rest →
    s.smb.mctpLosses < 7 → exec .mctpArbitrationLost s = .next ({ s with
      smb := { s.smb with mctpLosses := s.smb.mctpLosses + 1 } }.emit (.mctp d x))) ∧
  (∀ (d : Nat) (x : SpdmRsp) (rest : List (Nat × SpdmRsp)) (s : State), s.smb.mctpOut = (d, x) :: rest →
    s.smb.mctpLosses = 7 → exec .mctpArbitrationLost s = .next { s with
      smb := { s.smb with mctpOut := [], mctpLosses := 0, mctpDropped := s.smb.mctpDropped + 1 } })

/-- The debug port and the debug levels (R755 to R757, R764, R770, R779 to R781, R806). BYPASS is selected in every state but RESET,
where it changes nothing. Out of RESET, IDCODE is selected and read, SAMPLE takes the pads and the reset pins and gives them, and
PRELOAD keeps the chain given; EXTEST, CLAMP and HIGHZ are selected in BLANK or at level 2, and are BYPASS elsewhere. At level 2 and
out of RESET a running core pair is halted and a halted one resumed, each with a record, and out of STANDBY populated memory is
written, and read where it is not poisoned; below level 2 a memory access changes nothing. An accepted DBG_UNLOCK of a level not below
the one in force, level 3 only once returned, sets it with its deadline where it needs no token or the token is good; a bad token is
answered with its reason. DBG_LOCK lowers the level to the one asked and leaves a level at or below it. The deadline ends at level
0. A change of level leaves memory. Telemetry below its level is denied; at its level counters, trace and populated, clean memory are
given with the next offset, and another selector gives the bytes of the design's own telemetry (free values, log 4). -/
def Obligations.DebugPort : Prop :=
  (∀ s : State, exec .tapBypass s = .next (s.setTap .bypass)) ∧
  (∀ s : State, s.dev.st ≠ .reset → exec .tapIdcode s = .next ((s.setTap .idcode).emit (.tap s.idcode))) ∧
  (∀ (c : Bytes) (s : State), s.dev.st ≠ .reset →
    exec (.tapSamplePreload (some c)) s = .next { s.setTap .sample with tap := { s.tap with instr := .sample, chain := c } }) ∧
  (∀ s : State, s.dev.st ≠ .reset →
    let v := s.padLevel + 2 ^ 32 * (b2n s.rst.pwrok + 2 * b2n s.rst.resetN + 4 * b2n s.rst.perstN)
    exec (.tapSamplePreload none) s = .next ({ s.setTap .sample with
      tap := { (s.setTap .sample).tap with chain := leBytes 5 v } }.emit (.tap v))) ∧
  (∀ (c : Bytes) (s : State), s.dev.st ≠ .reset → s.tapOpen →
    exec (.tapExtest c) s = .next (s.noteEdges { s with tap := { s.tap with instr := .extest, chain := c } })) ∧
  (∀ s : State, s.tapOpen → exec .tapClamp s = .next (s.setTap .clamp) ∧ exec .tapHighz s = .next (s.setTap .highz)) ∧
  (∀ (c : Bytes) (s : State), s.dev.st ≠ .reset → s.tapOpen = false → exec (.tapExtest c) s = .next (s.setTap .bypass) ∧
    exec .tapClamp s = .next (s.setTap .bypass) ∧ exec .tapHighz s = .next (s.setTap .bypass)) ∧
  (∀ (pair : Nat) (s : State), 2 ≤ s.pwr.dbgLevel → pair < 2 → pair ∉ s.tap.halted → s.dev.st ≠ .reset →
    exec (.dapCoreHalt pair) s = .next ({ s with tap := { s.tap with halted := s.tap.halted ++ [pair] } }.haltRecord pair)) ∧
  (∀ (pair : Nat) (s : State), 2 ≤ s.pwr.dbgLevel → s.dev.st ≠ .reset → pair ∈ s.tap.halted →
    exec (.dapCoreResume pair) s = .next ({ s with
      tap := { s.tap with halted := s.tap.halted.erase pair }
      dev := { s.dev with heartbeatAt := s.now } }.haltRecord pair)) ∧
  (∀ (a : Nat) (n : Nat) (d : Bytes) (s : State), 2 ≤ s.pwr.dbgLevel → s.dev.st ≠ .reset → s.dev.st ≠ .standby →
    rangeAll s.populated a d.length → exec (.dapMemoryAccess a n (some d)) s = .next (s.writeThrough a d)) ∧
  (∀ (a n : Nat) (s : State), 2 ≤ s.pwr.dbgLevel → s.dev.st ≠ .reset → s.dev.st ≠ .standby → rangeAll s.populated a n →
    s.poisoned a n = false → exec (.dapMemoryAccess a n none) s = .next (s.emit (.dapRead (s.bytes a n)))) ∧
  (∀ (a n : Nat) (d : Option Bytes) (s : State), s.pwr.dbgLevel < 2 → exec (.dapMemoryAccess a n d) s = .next s) ∧
  (∀ (r : Req) (s : State), Accepted dbgUnlock r s → (u8 r.pay 0 = 3 → s.sec.life.code = 3) →
    (s.consume r.via).tokenKey (u8 r.pay 0) = none → s.pwr.dbgLevel ≤ u8 r.pay 0 →
    let d := if u32 r.pay 4 = 0 then none else some (s.now + u32 r.pay 4 * 1000000000)
    exec (.dbgUnlock r.via) s = .next (((s.consume r.via).respond s r .ok).setDebug (u8 r.pay 0) d)) ∧
  (∀ (r : Req) (k : Option Bytes) (s : State), Accepted dbgUnlock r s → (u8 r.pay 0 = 3 → s.sec.life.code = 3) →
    (s.consume r.via).tokenKey (u8 r.pay 0) = some k → ((s.consume r.via).authorise r 8 k).2 = none →
    s.pwr.dbgLevel ≤ u8 r.pay 0 →
    let d := if u32 r.pay 4 = 0 then none else some (s.now + u32 r.pay 4 * 1000000000)
    exec (.dbgUnlock r.via) s = .next ((((s.consume r.via).authorise r 8 k).1.respond s r .ok).setDebug (u8 r.pay 0) d)) ∧
  (∀ (r : Req) (k : Option Bytes) (d : Nat) (s : State), Accepted dbgUnlock r s → (u8 r.pay 0 = 3 → s.sec.life.code = 3) →
    (s.consume r.via).tokenKey (u8 r.pay 0) = some k → ((s.consume r.via).authorise r 8 k).2 = some d →
    exec (.dbgUnlock r.via) s = .next (((s.consume r.via).authorise r 8 k).1.respond s r .checkFailed d)) ∧
  (∀ (r : Req) (s : State), Accepted dbgLock r s → exec (.dbgLock r.via) s =
    .next (let t := (s.consume r.via).respond s r .ok
      if s.pwr.dbgLevel ≤ u8 r.pay 0 then t
      else t.setDebug (u8 r.pay 0) (if u8 r.pay 0 = 0 then none else s.pwr.dbgDeadline))) ∧
  (∀ (d : Nat) (s : State), s.pwr.dbgDeadline = some d →
    exec .debugDurationExpire s = .next ((s.advanceTo d).setDebug 0 none)) ∧
  (∀ (l : Nat) (d : Option Nat) (s : State), (s.setDebug l d).pwr.dbgLevel = l ∧ (s.setDebug l d).pwr.dbgDeadline = d ∧
    (s.setDebug l d).mem = s.mem) ∧
  (∀ (r : Req) (s : State), Accepted dbgTelemetryRead r s → s.pwr.dbgLevel < selectLevel (u8 r.pay 0) →
    exec (.dbgTelemetryRead r.via) s = .next ((s.consume r.via).respond s r .denied)) ∧
  (∀ (r : Req) (s : State), Accepted dbgTelemetryRead r s → u8 r.pay 0 = 0 → 1 ≤ s.pwr.dbgLevel →
    exec (.dbgTelemetryRead r.via) s = .next ((s.consume r.via).respond s r .ok 0 (leBytes 1 0 ++ zeros 3 ++
      leBytes 4 (u32 r.pay 12) ++ leBytes 8 (u64 r.pay 4 + u32 r.pay 12) ++ s.counterBytes (u64 r.pay 4) (u32 r.pay 12)))) ∧
  (∀ (r : Req) (s : State), Accepted dbgTelemetryRead r s → u8 r.pay 0 = 1 → 1 ≤ s.pwr.dbgLevel →
    exec (.dbgTelemetryRead r.via) s = .next ((s.consume r.via).respond s r .ok 0 (leBytes 1 1 ++ zeros 3 ++
      leBytes 4 (u32 r.pay 12) ++ leBytes 8 ((u64 r.pay 4 + u32 r.pay 12) % 131072) ++
      s.traceBytes (u64 r.pay 4) (u32 r.pay 12)))) ∧
  (∀ (r : Req) (s : State), Accepted dbgTelemetryRead r s → u8 r.pay 0 = 2 → 2 ≤ s.pwr.dbgLevel →
    rangeAll s.populated (u64 r.pay 4) (u32 r.pay 12) → s.poisoned (u64 r.pay 4) (u32 r.pay 12) = false →
    exec (.dbgTelemetryRead r.via) s = .next ((s.consume r.via).respond s r .ok 0 (leBytes 1 2 ++ zeros 3 ++
      leBytes 4 (u32 r.pay 12) ++ leBytes 8 (u64 r.pay 4 + u32 r.pay 12) ++ s.bytes (u64 r.pay 4) (u32 r.pay 12)))) ∧
  (∀ (r : Req) (s : State), Accepted dbgTelemetryRead r s → u8 r.pay 0 = 3 → 3 ≤ s.pwr.dbgLevel →
    let d := (s.consume r.via).drawBytes 3 (u32 r.pay 12)
    exec (.dbgTelemetryRead r.via) s = .next (d.2.respond s r .ok 0 (leBytes 1 3 ++ zeros 3 ++
      leBytes 4 (u32 r.pay 12) ++ leBytes 8 (u64 r.pay 4 + u32 r.pay 12) ++ d.1)))

/-- Changing the Basin's layout, BSN_FLUSH, BSN_QUERY and the host window (R149 to R154, R158, R163, R167 to R171). An accepted
BSN_GROUP_MODE_SET of a group that is neither retired nor changing, and of nothing that still lies in a scratch group, answers ST_OK
where the group is as asked, and otherwise ST_PENDING, arming the change in every valley it waits for, or starting it at once where it
waits for none. An accepted BSN_WAYS_SET of a cache group that is not changing, with no SEPARATE valley beside another, answers ST_OK
where the masks are as asked, and otherwise ST_PENDING, arming the valleys whose masks change. The write-back of a group that leaves
CACHE mode empties it and flips its buckets, and that of one that enters it empties the lines of its buckets, flips them and completes
the request; where a line cannot reach its home either ends the request with ST_FAULTED, and the group that was entering stays a
scratch group. Zeroing makes every byte of the group's range zero and leaves every other, and goes on to the group's
new owner or to CACHE mode. A moving bucket none of whose lines are left in its old group moves to the new one, or to none. An accepted BSN_FLUSH with none
under way in the valley writes the range's lines back with ST_OK, or waits with ST_PENDING (which one is a free value of the
model, log 30); its completion writes them back. BSN_QUERY begins with the error counts and the tracked lines and changes nothing but
that the request is consumed and the response posted. An accepted MEM_HOST_WINDOW_SET in coherent mode with CXL active, a window
of size zero or inside the valley's tier, and the decoder off, sets the window after ending all that waited for the host. -/
def Obligations.Basin : Prop :=
  (∀ (r : Req) (s : State), Accepted bsnGroupModeSet r s → (s.group (u8 r.pay 0)).retired = false →
    (s.group (u8 r.pay 0)).change = none →
    let g := u8 r.pay 0
    let x := s.group g
    let want := decide (u8 r.pay 1 = 1)
    let owner := if want then some (u8 r.pay 2) else none
    let vs := if x.scratch then x.owner.toList else x.holders
    let c : GroupChange := { toScratch := want, owner, waiting := vs, done := r.deferred, old := x.owner }
    (x.scratch = want ∧ x.owner = owner → exec (.bsnGroupModeSet r.via) s = .next ((s.consume r.via).respond s r .ok)) ∧
    (¬ (x.scratch = want ∧ x.owner = owner) → (x.scratch → s.groupHeld g = none) →
      let t := ((((s.consume r.via).setChange g (some c)).armBasin g vs).deferring r).respond s r .pending
      exec (.bsnGroupModeSet r.via) s = .next (if vs = [] then (t.setChange g (some { c with phase := 1 })).leaveCache g
        else t.fireAll vs))) ∧
  (∀ (r : Req) (s : State), Accepted bsnWaysSet r s → (s.group (u8 r.pay 0)).change = none →
    (s.group (u8 r.pay 0)).scratch = false → s.waysMixed (waysOf r.pay 4) = false →
    let vs := ((waysOf r.pay 4).filter fun e => lookD (s.group (u8 r.pay 0)).ways e.1 0 ≠ e.2).map (·.1)
    let c : GroupChange := { toScratch := false, owner := none, waiting := vs, done := r.deferred, ways := waysOf r.pay 4 }
    exec (.bsnWaysSet r.via) s = .next (if vs = [] then (s.consume r.via).respond s r .ok else
      (((((s.consume r.via).setChange (u8 r.pay 0) (some c)).armBasin (u8 r.pay 0) vs).deferring r).respond
        s r .pending).fireAll vs)) ∧
  (∀ (g : Nat) (ecc : List Ecc) (c : GroupChange) (s : State), (s.group g).change = some c → c.ways = [] → c.toScratch →
    (s.group g).scratch = false → c.phase = 1 → let t := s.eccAll ecc
    (t.unreachable (t.groupLines g) = [] → exec (.basinWritebackDone (g, ecc)) s = .next
      ((t.emptyLines (t.groupLines g)).flipAll.updGroup g fun x => { x with ways := [], change := some { c with phase := 2 } })) ∧
    (t.unreachable (t.groupLines g) ≠ [] → exec (.basinWritebackDone (g, ecc)) s = .next
      ((((t.emptyLines (t.groupLines g)).keepBuckets g).setChange g none).done c.done .faulted 0 []))) ∧
  (∀ (g : Nat) (ecc : List Ecc) (c : GroupChange) (s : State), (s.group g).change = some c → c.ways = [] →
    c.toScratch = false → c.phase = 2 → let t := s.eccAll ecc
    let ls := (t.basin.lines.filter fun l => (look t.basin.moving (lineBucket l.1)) = some g).map (·.1)
    (t.unreachable ls = [] → exec (.basinWritebackDone (g, ecc)) s =
      .next ((((t.emptyLines ls).flipAll).setChange g none).done c.done .ok 0 [])) ∧
    (t.unreachable ls ≠ [] → ∃ u : State, exec (.basinWritebackDone (g, ecc)) s = .next (u.done c.done .faulted 0 []) ∧
      (u.group g).scratch ∧ (u.group g).owner = c.old ∧ (u.group g).change = none)) ∧
  (∀ (g : Nat) (c : GroupChange) (s : State), (s.group g).change = some c → c.ways = [] → (s.group g).scratch → c.phase = 1 →
    exec (.basinGroupZeroed g) s = .next (if c.toScratch
      then ((s.zeroGroup g).updGroup g fun x => { x with owner := none }).awaitOwner g c
      else (s.zeroGroup g).openCache g c)) ∧
  (∀ (g : Nat) (c : GroupChange) (s : State), (s.group g).change = some c → c.ways = [] → c.toScratch →
    (s.group g).scratch = false → c.phase = 2 → exec (.basinGroupZeroed g) s = .next ((s.zeroGroup g).awaitOwner g c)) ∧
  (∀ (g a : Nat) (s : State), rd (s.zeroGroup g).mem a =
    if g * scratchSize ≤ a ∧ a < g * scratchSize + scratchSize then 0 else rd s.mem a) ∧
  (∀ (b t old : Nat) (s : State), look s.basin.moving b = some t → look s.basin.bucket b = some old →
    (∀ l ∈ s.basin.lines, ¬ (l.2.group = old ∧ lineBucket l.1 = b)) →
    exec (.basinBucketFlip b) s = .next { s with basin := { s.basin with
      bucket := if t = noGroup then del s.basin.bucket b else put s.basin.bucket b t, moving := del s.basin.moving b } }) ∧
  (∀ (r : Req) (s : State), Accepted bsnFlush r s → look s.basin.flushes r.via.mbx = none →
    let f : Flush := { base := u64 r.pay 0, length := u64 r.pay 8, invalidate := bit (u32 r.pay 16) 0, done := r.deferred }
    let t : State := { s.consume r.via with free := s.free + 1 }
    exec (.bsnFlush r.via) s = .next ((t.flushLines f).respond s r .ok) ∨
    exec (.bsnFlush r.via) s = .next ((({ t with basin := { s.basin with
      flushes := put s.basin.flushes r.via.mbx f } } : State).deferring r).respond s r .pending)) ∧
  (∀ (v : Nat) (f : Flush) (s : State), look s.basin.flushes v = some f → exec (.bsnFlushDone v) s =
    .next ((({ s with basin := { s.basin with flushes := del s.basin.flushes v } }).flushLines f).done f.done .ok 0 [])) ∧
  (∀ (r : Req) (s : State), Accepted bsnQuery r s → ∃ p, exec (.bsnQuery r.via) s =
    .next ((s.consume r.via).respond s r .ok 0 p) ∧ p.take 12 =
      leBytes 4 s.basin.ceCount ++ leBytes 4 s.basin.ueCount ++ leBytes 4 s.basin.tracker.length) ∧
  (∀ (r : Req) (s : State), Accepted memHostWindowSet r s → s.link.standalone = false → s.link.cxlActive →
    (u64 r.pay 8 ≠ 0 → s.inTier (u8 r.pay 16) 2 (hbmBase + u64 r.pay 0) (u64 r.pay 8)) → s.link.decoder = false →
    let t := (s.consume r.via).forgetHost.releaseSyncs
    exec (.memHostWindowSet r.via) s = .next (({ t with basin := { t.basin with
      winOffset := if u64 r.pay 8 = 0 then 0 else u64 r.pay 0, winSize := u64 r.pay 8
      winValley := u8 r.pay 16 } }).respond s r .ok))

/-- The host's accesses over CXL while CXL serves (R136, R147, R148, R159, R596). A snoop of host memory that leaves the states answers
the sector's state, Invalid where the line is not held, and gives a Modified sector's data; any snoop without a store leaves memory, and with
or without one changes nothing but memory, Basin, external memory and what is emitted. A read of the window is given its data and is tracked
where no read waits and the tracker has room or holds the line, and waits otherwise; a write of the window puts its 64 bytes
into memory, or poisons them where it carries poison. Outside the window a read gives poisoned zeros and a write is discarded, each
with its fault record. A response to a back-invalidation puts the data it carries
into memory and ends the wait and the tracking of its line; the writes and sync changes that waited go on, and the oldest waiting
read is served where the tracker then has room. -/
def Obligations.HostAccess : Prop :=
  (∀ (a : Nat) (s : State), s.cxlServes → inHost a → look s.basin.lines (a / 256) = none →
    exec (.cxlSnoop a 0 none) s = .next (s.emit (.cxlSnoop a [.invalid]))) ∧
  (∀ (a : Nat) (l : Line) (s : State), s.cxlServes → inHost a → look s.basin.lines (a / 256) = some l →
    let st := l.sectors.getD (a / 64 % 4) .invalid
    let t := s.emit (.cxlSnoop a [st])
    exec (.cxlSnoop a 0 none) s = .next (if st = .modified
      then t.emit (.cxlData a (t.bytes (a / 64 * 64) 64) (t.poisoned (a / 64 * 64) 64)) else t)) ∧
  (∀ (a k : Nat) (d : Option Bytes) (s : State), s.cxlServes → inHost a → ∃ t, exec (.cxlSnoop a k d) s = .next t ∧
    (d = none → t.mem = s.mem) ∧ t = { s with mem := t.mem, basin := t.basin, ext := t.ext, out := t.out }) ∧
  (∀ (a : Nat) (x : Bool) (ecc : List Ecc) (s : State), s.cxlServes → s.inWindow a → let u := s.eccAll ecc
    u.basin.hostReads = [] → (u.basin.tracker.length < trackerSize ∨ ∃ e ∈ u.basin.tracker, e.line = a / 64) →
    ∃ t, exec (.cxlMemRead (a, ecc) x) s = .next t ∧
    t = { u with basin := { u.basin with tracker := t.basin.tracker }, out := t.out } ∧
    (∃ e ∈ t.basin.tracker, e.line = a / 64 ∧ (x → e.exclusive)) ∧
    t.out.getLast? = some (.cxlData (a / 64 * 64) (rdN u.mem (a / 64 * 64) 64) (u.poisoned (a / 64 * 64) 64))) ∧
  (∀ (a : Nat) (x : Bool) (ecc : List Ecc) (s : State), s.cxlServes → s.inWindow a → let u := s.eccAll ecc
    (u.basin.hostReads ≠ [] ∨ trackerSize ≤ u.basin.tracker.length ∧ ∀ e ∈ u.basin.tracker, e.line ≠ a / 64) →
    ∃ t, exec (.cxlMemRead (a, ecc) x) s = .next t ∧ t.basin.hostReads = u.basin.hostReads ++ [(a / 64, x)] ∧ t.mem = u.mem ∧
      t.basin.tracker = u.basin.tracker) ∧
  (∀ (a : Nat) (x p : Bool) (ecc : List Ecc) (d : Bytes) (s : State), s.cxlServes → s.inWindow a = false →
    exec (.cxlMemRead (a, ecc) x) s = .next ((s.windowClosed a).emit (.cxlData (a / 64 * 64) (zeros 64) true)) ∧
    exec (.cxlMemWrite a d p) s = .next (s.windowClosed a)) ∧
  (∀ (a : Nat) (d : Bytes) (s : State), s.cxlServes → s.inWindow a → ∃ t, exec (.cxlMemWrite a d false) s = .next t ∧
    t.mem = wrN s.mem (a / 64 * 64) (fit 64 d) ∧ t.basin.tracker = s.basin.tracker) ∧
  (∀ (a : Nat) (d : Bytes) (s : State), s.cxlServes → s.inWindow a →
    exec (.cxlMemWrite a d true) s = .next (s.poison (a / 64 * 64) 64)) ∧
  (∀ (a : Nat) (d : Option Bytes) (s : State), a / 64 ∈ s.basin.biPending →
    let u := match d with
      | some b => s.putThrough (a / 64 * 64) (fit 64 b)
      | none => s
    let w := ({ u with basin := { u.basin with biPending := u.basin.biPending.erase (a / 64)
                                               tracker := u.basin.tracker.filter fun e => e.line ≠ a / 64 } } : State)
    let w := w.releaseWrites.releaseSyncs
    (w.basin.hostReads = [] ∨ trackerSize ≤ w.basin.tracker.length → exec (.cxlBiResponse a d) s = .next w) ∧
    (∀ l x rest, w.basin.hostReads = (l, x) :: rest → w.basin.tracker.length < trackerSize →
      exec (.cxlBiResponse a d) s = .next ({ w with basin := { w.basin with hostReads := rest } }.hostTakes l x)))

/-- External memory (R182 to R187, R189, R190, R193, R204 to R206, R754). An accepted MEM_QUERY begins with the capacities of HBM and
LPDDR and changes nothing but that the request is consumed and the response posted. An accepted MEM_CHANNEL_RETIRE of a region not
retired yet, not asked for yet, and allowed or not in use, is listed with ST_PENDING and waits for the boundary of each valley of the
region, or retires the channel where none has it; of a retired region it answers ST_OK. Of a row whose channel is not retired, in a
bank with no soft repair: a soft repair waits for its completion where none is under way, and a hard repair, below two promised and with a spare row, is promised too; where the row or
its bank is repaired already a soft repair of a promised row, and a hard repair, answer ST_OK, and a cancelled hard repair is no
longer promised. The end of a soft repair poisons and records the sectors given as bad, lists the repair, records it and completes
the request. While memory operates: a refresh is counted, with the temperature of a stack; a temperature poll of a package is kept; a
scrub step moves on by one sector and takes what it finds into account where the sector is populated and its bank not under repair; corrections
are counted and more than 1,024 in 1 ms are recorded and mark the lane of HBM named; in DORMANT a channel idle for 1 µs powers down.
In DORMANT a glen with no thread, bag or chain in place is gated. -/
def Obligations.ExternalMemory : Prop :=
  (∀ (r : Req) (s : State), Accepted memQuery r s → ∃ p, exec (.memQuery r.via) s =
    .next ((s.consume r.via).respond s r .ok 0 p) ∧ p.take 16 =
      leBytes 8 (s.hbmLive.length * hbmRegionSize) ++ leBytes 8 (s.lpdLive.length * lpdRegionSize)) ∧
  (∀ (r : Req) (s : State), Accepted memChannelRetire r s →
    let l := decide (u8 r.pay 0 = 1)
    let ch := u8 r.pay 1
    let reg := if l then ch % 8 else ch % 16
    let vs := (List.range 8).filter fun v => ((s.profile v).map fun p =>
      if l then p.lpdRegions.getLsbD reg else p.hbmRegions.getLsbD reg).getD false
    let q : RetireReq := { lpddr := l, channel := ch, waiting := vs, done := r.deferred }
    (reg ∈ (if l then s.ext.lpdGone else s.ext.hbmGone) →
      exec (.memChannelRetire r.via) s = .next ((s.consume r.via).respond s r .ok)) ∧
    (reg ∉ (if l then s.ext.lpdGone else s.ext.hbmGone) → (∀ x ∈ s.ext.retires, ¬ (x.lpddr = l ∧ x.channel = ch)) →
      (bit (u8 r.pay 2) 0 ∨ s.regionInUse l reg = false) →
      let t := s.consume r.via
      let t := { t with ext := { t.ext with retires := t.ext.retires ++ [q] } }
      let t := ((vs.foldl (fun t v => t.arm v (.channel l ch) none) t).deferring r).respond s r .pending
      exec (.memChannelRetire r.via) s = .next (if vs = [] then t.channelFree 8 l ch else t.fireAll vs))) ∧
  (∀ (r : Req) (s : State), Accepted (repairMsg softRun) r s → u8 r.pay 3 = 0 → (repairAt r.pay).gone s = false →
    (repairAt r.pay).softRow s = none → s.ext.softBusy = none → exec (.memHbmRepairSoft r.via) s =
      .next ((((s.consume r.via).startSoft (repairAt r.pay) r.deferred).deferring r).respond s r .pending)) ∧
  (∀ (r : Req) (s : State), Accepted (repairMsg softRun) r s → u8 r.pay 3 = 0 → (repairAt r.pay).gone s = false →
    (repairAt r.pay).pending s → (repairAt r.pay).softRow s ≠ none →
    exec (.memHbmRepairSoft r.via) s = .next ((s.consume r.via).respond s r .ok)) ∧
  (∀ (r : Req) (s : State), Accepted (repairMsg hardRun) r s → u8 r.pay 3 = 1 → (repairAt r.pay).gone s = false →
    (repairAt r.pay).pending s = false → (s.stack (u8 r.pay 0)).hardPending.length < 2 → (repairAt r.pay).spares s ≠ 0 →
    ((repairAt r.pay).softRow s = none → s.ext.softBusy = none → exec (.memHbmRepairHard r.via) s =
      .next (((((s.consume r.via).startSoft (repairAt r.pay) r.deferred).pendHard (repairAt r.pay)).deferring r).respond
        s r .pending)) ∧
    ((repairAt r.pay).softRow s ≠ none → exec (.memHbmRepairHard r.via) s =
      .next (((s.consume r.via).pendHard (repairAt r.pay)).respond s r .ok))) ∧
  (∀ (r : Req) (s : State), Accepted (repairMsg hardRun) r s → u8 r.pay 3 = 1 → (repairAt r.pay).gone s = false →
    (repairAt r.pay).pending s → exec (.memHbmRepairHard r.via) s = .next ((s.consume r.via).respond s r .ok)) ∧
  (∀ (r : Req) (s : State), Accepted (repairMsg cancelHardRun) r s → u8 r.pay 3 = 2 → (repairAt r.pay).gone s = false →
    exec (.memHbmRepairCancelHard r.via) s = .next (((s.consume r.via).updStack (u8 r.pay 0) fun x => { x with
      hardPending := x.hardPending.erase (u8 r.pay 1, u8 r.pay 2, u32 r.pay 4) }).respond s r .ok)) ∧
  (∀ (bad : List Nat) (waits : Nat) (x : SoftRepair) (s : State), s.ext.softBusy = some x →
    let t := bad.foldl (fun s i =>
      s.badSector (x.stack * 32 + x.pc) (Config.hbmRowSector x.stack x.pc x.bank x.row i)) s
    let t := { t with ext := { t.ext with softBusy := none, soft := t.ext.soft ++ [(x.stack, x.pc, x.bank, x.row)] } }
    exec (.softRepairDone bad waits) s = .next ((t.stage {
      kind := 6, source := 2, event := 1, cls := 4, unit := x.stack * 32 + x.pc, subunit := x.bank, index := x.row
      syndrome := waits }).1.done x.done .ok 0 [])) ∧
  (∀ (i : Nat) (temp : Int) (s : State), s.memoryOn → s.hasStack i → exec (.memoryRefreshTick false i temp) s =
    .next (s.updStack i fun x => { x with temp, refreshes := x.refreshes + 1, halvedRefresh := decide (85 ≤ temp) })) ∧
  (∀ (i : Nat) (temp : Int) (s : State), s.memoryOn → s.hasPkg i → exec (.memoryRefreshTick true i temp) s =
    .next { s with ext := { s.ext with packages := upd s.ext.packages i {} fun p => { p with refreshes := p.refreshes + 1 } } }) ∧
  (∀ (i : Nat) (temp : Int) (rate : Nat) (s : State), s.memoryOn → s.hasPkg i → exec (.lpddrMr4Poll i temp rate) s =
    .next { s with ext := { s.ext with packages := upd s.ext.packages i {} fun p => { p with temp, rate } } }) ∧
  (∀ (found : Nat) (s : State), s.memoryOn → s.ext.scrubHours ≠ 0 →
    let a := scrubAt s.ext.scrubPos
    let next := s.ext.scrubPos + 1
    let t := { s with ext := { s.ext with
      scrubPos := next % scrubEnd
      scrubPasses := if next = scrubEnd then (s.ext.scrubPasses + 1) % 2 ^ 32 else s.ext.scrubPasses } }
    (found = 0 ∨ s.populated a = false → exec (.patrolScrubStep found) s = .next t) ∧
    (s.populated a → s.ext.softBusy = none → found = 1 → exec (.patrolScrubStep found) s =
      .next (t.updStack (hbmPc a / 32) fun x => { x with corrected := satAdd 0xFFFFFFFF x.corrected 1 })) ∧
    (s.populated a → s.ext.softBusy = none → found = 2 →
      exec (.patrolScrubStep found) s = .next (t.badSector (hbmPc a) a))) ∧
  (∀ (c n : Nat) (lane : Option Nat) (s : State), s.memoryOn → s.hasStack (c / 32) →
    let t := s.updStack (c / 32) fun x => { (if 1024 < n then x.mark (c % 32) lane else x) with
      corrected := satAdd 0xFFFFFFFF x.corrected n }
    exec (.eccCorrectionBurst false c lane n) s = .next (if n ≤ 1024 then t else t.error
      { source := 2, event := 1, cls := 4, unit := c, subunit := lane.getD 0xFFFF } [{ cls := 4, idx := c }])) ∧
  (∀ (c n : Nat) (lane : Option Nat) (s : State), s.memoryOn → s.hasLpdCh c →
    let t := { s with ext := { s.ext with lpdCorrected := satAdd 0xFFFFFFFF s.ext.lpdCorrected n } }
    exec (.eccCorrectionBurst true c lane n) s = .next (if n ≤ 1024 then t else t.error
      { source := 2, event := 1, cls := 5, unit := c, subunit := lane.getD 0xFFFF } [{ cls := 5, idx := c }])) ∧
  (∀ (l : Bool) (c : Nat) (s : State), s.memoryOn → s.pwr.st = .dormant → (l, c) ∉ s.ext.poweredDown →
    (if l then s.hasLpdCh c else s.hasStack (c / 32)) → let t := s.advanceTo (s.now + 1000)
    exec (.channelPowerDown l c) s = .next { t with ext := { s.ext with poweredDown := s.ext.poweredDown ++ [(l, c)] } }) ∧
  (∀ (g : Nat) (s : State), s.pwr.st = .dormant → s.governed → s.hasGlen g → (∀ t ∈ s.core.threads, t.2.glen ≠ g ∨ t.2.saved) →
    (∀ b ∈ s.core.bags, b.2.glen ≠ g ∨ b.2.saved) → (∀ o ∈ s.core.plain, o.2.glen ≠ g ∨ o.2.saved) →
    exec (.glenGate g) s = .next { s with pwr := { s.pwr with gatedGlens := s.pwr.gatedGlens ||| ((1 : W32) <<< g) } })

/-- Owner settings and flash updates (R724 to R726, R730 to R734, R740). An accepted SEC_OTP_READ of the summary hands out a fresh nonce
for its transport and holds it, and in FAULT_HOLD gives zeros for it; of a setting it gives its slots, 12 at most, and changes
nothing but that the request is consumed and the response posted. An accepted SEC_OTP_PROGRAM, not once returned and with no programming
under way, takes the first unused slot with ST_PENDING, or answers ST_OK where the value is in force already; in DEPLOYED it does either
only where the AUTH block is good, and answers its reason where it is not. The end of a programming makes the slot valid, completes
the request and is announced, or leaves the slot consumed and completes with ST_CHECK_FAILED. An accepted
SEC_FW_UPDATE_BEGIN with no session of another transport opens a session and names the region. A chunk of the session's transport and
generation, inside it, of the right length and CRC and not stored yet, is stored and restarts the idle time. A commit of the session
with none under way closes it, and answers the reason of the first check that fails, or ST_PENDING with the new image for the region named;
its end writes the region and the floor and completes the request. Ten seconds after the idle time began the timeout
closes the session. -/
def Obligations.OwnersAndFlash : Prop :=
  (∀ (r : Req) (s : State), Accepted secOtpRead r s → u8 r.pay 0 = 0 → s.dev.st ≠ .faultHold →
    let d := (s.consume r.via).drawBytes 2 32
    exec (.secOtpRead r.via) s = .next ((d.2.setSec { s.sec with
      nonces := (s.sec.nonces.filter fun x => x.1 ≠ r.via.xport) ++ [(r.via.xport, d.1, s.now)] }).respond s r .ok 0
        (s.secSummary d.1))) ∧
  (∀ (r : Req) (s : State), Accepted secOtpRead r s → u8 r.pay 0 = 0 → s.dev.st = .faultHold →
    exec (.secOtpRead r.via) s = .next ((s.consume r.via).respond s r .ok 0 (s.secSummary (zeros 32)))) ∧
  (∀ (r : Req) (s : State), Accepted secOtpRead r s → u8 r.pay 0 ≠ 0 → ∃ p, exec (.secOtpRead r.via) s =
    .next ((s.consume r.via).respond s r .ok 0 p) ∧ p.length = 4 + 40 * min 12 (otpSlots (u8 r.pay 0) - u8 r.pay 1)) ∧
  (∀ (r : Req) (i : Nat) (s : State), Accepted secOtpProgram r s → s.sec.life.code < 2 → s.sec.otpProg = none →
    s.sec.life.returned = false → s.otpSame (u8 r.pay 0) (slice r.pay 4 32) = false →
    (List.range (otpSlots (u8 r.pay 0))).find? (fun i => (s.otpSlot (u8 r.pay 0) i).isNone) = some i →
    exec (.secOtpProgram r.via) s =
      .next ((((s.consume r.via).beginSlot r (u8 r.pay 0) i).deferring r).respond s r .pending)) ∧
  (∀ (r : Req) (s : State), Accepted secOtpProgram r s → s.sec.life.code < 2 → s.sec.otpProg = none →
    s.sec.life.returned = false → s.otpSame (u8 r.pay 0) (slice r.pay 4 32) →
    exec (.secOtpProgram r.via) s = .next ((s.consume r.via).respond s r .ok)) ∧
  (∀ (r : Req) (s : State), Accepted secOtpProgram r s → s.sec.life.code = 2 → s.sec.life.returned = false →
    s.sec.otpProg = none → let a := (s.consume r.via).authorise r 36 s.ownerKey
    a.2 = none →
    (s.otpSame (u8 r.pay 0) (slice r.pay 4 32) → exec (.secOtpProgram r.via) s = .next (a.1.respond s r .ok)) ∧
    (s.otpSame (u8 r.pay 0) (slice r.pay 4 32) = false → ∀ i,
      (List.range (otpSlots (u8 r.pay 0))).find? (fun i => (s.otpSlot (u8 r.pay 0) i).isNone) = some i →
      exec (.secOtpProgram r.via) s =
        .next (((a.1.beginSlot r (u8 r.pay 0) i).deferring r).respond s r .pending))) ∧
  (∀ (r : Req) (d : Nat) (s : State), Accepted secOtpProgram r s → s.sec.life.code = 2 → s.sec.life.returned = false →
    s.sec.otpProg = none → let a := (s.consume r.via).authorise r 36 s.ownerKey
    a.2 = some d → exec (.secOtpProgram r.via) s = .next (a.1.respond s r .checkFailed d)) ∧
  (∀ (p : OtpProg) (s : State), s.sec.otpProg = some p →
    let t := fun b => s.setSec { s.sec with
      otpProg := none, otp := put s.sec.otp (p.setting * 256 + p.slot) { p.entry with valid := b } }
    exec (.otpProgramDone true) s = .next (((t true).done p.done .ok 0 (leBytes 1 p.slot ++ leBytes 1 1)).event 0x0B 1
      (p.setting * 256 + p.slot) [] none) ∧
    exec (.otpProgramDone false) s = .next ((t false).done p.done .checkFailed 0 (leBytes 1 p.slot ++ leBytes 1 2))) ∧
  (∀ (r : Req) (s : State), Accepted secFwUpdateBegin r s → (∀ g ∈ s.sec.update, g.xport = r.via.xport) →
    let g : Staging := {
      xport := r.via.xport, generation := u32 r.pay 4, length := u32 r.pay 8, count := u32 r.pay 12
      crc := BitVec.ofNat 32 (u32 r.pay 16), idleFrom := s.now, target := u8 r.pay 0, raiseFloor := bit (u8 r.pay 1) 0 }
    exec (.secFwUpdateBegin r.via) s = .next (((s.consume r.via).setSec { s.sec with update := some g }).respond s r .ok 0
      (leBytes 1 (s.updateRegion (u8 r.pay 0)) ++ zeros 3))) ∧
  (∀ (r : Req) (g : Staging) (s : State), Accepted secFwUpdateChunk r s → s.sec.update = some g → g.xport = r.via.xport →
    u32 r.pay 0 = g.generation → u32 r.pay 4 < g.count → u16 r.pay 8 = g.chunkLen (u32 r.pay 4) →
    (crc32c (r.pay.drop 16)).toNat = u32 r.pay 12 → look g.chunks (u32 r.pay 4) = none →
    let g' := { g with chunks := put g.chunks (u32 r.pay 4) (r.pay.drop 16), idleFrom := s.now }
    exec (.secFwUpdateChunk r.via) s =
      .next (((s.consume r.via).setSec { s.sec with update := some g' }).respond s r .ok)) ∧
  (∀ (r : Req) (g : Staging) (s : State), Accepted secFwUpdateCommit r s → s.sec.update = some g → g.xport = r.via.xport →
    s.sec.flashCommit = none → g.generation = u32 r.pay 0 →
    (∀ d, g.fails (u32 r.pay 4) = some d → exec (.secFwUpdateCommit r.via) s =
      .next (((s.consume r.via).setSec { s.sec with update := none }).respond s r .checkFailed (d % 65536))) ∧
    (∀ d, g.fails (u32 r.pay 4) = none → s.imageFails g g.image = some d → exec (.secFwUpdateCommit r.via) s =
      .next (((s.consume r.via).setSec { s.sec with update := none }).respond s r .checkFailed d)) ∧
    (g.fails (u32 r.pay 4) = none → s.imageFails g g.image = none → ∃ c : FlashCommit, exec (.secFwUpdateCommit r.via) s =
      .next ((((s.consume r.via).setSec { s.sec with update := none, flashCommit := some c }).deferring r).respond s r
        .pending) ∧ c.target = s.updateRegion g.target ∧ c.image.bytes = g.image ∧ c.image.generation = s.nextFlashGen g)) ∧
  (∀ (c : FlashCommit) (s : State), s.sec.flashCommit = some c →
    let x := { s.sec with
      flashCommit := none, flash := put s.sec.flash c.target c.image, svnFloor := c.raiseTo.getD s.sec.svnFloor }
    exec .flashCommitDone s = .next ((s.setSec x).done c.done .ok 0 (leBytes 1 c.target ++ zeros 3 ++
      leBytes 4 c.image.generation ++ leBytes 4 x.svnFloor))) ∧
  (∀ (g : Staging) (s : State), s.sec.update = some g → exec .fwUpdateSessionTimeout s =
    .next ((s.advanceTo (g.idleFrom + 10000000000)).setSec { s.sec with update := none }))

/-- Access masks, the lifecycle and attestation (R718, R720, R722, R724, R735, R736, R741, R805). An accepted SEC_ACCESS_SET of a transport
of the attach mode sets its mask where some transport then keeps class SEC, and answers ST_CONFLICT for another transport. An accepted
SEC_LIFECYCLE_SET with no programming under way answers ST_OK for the state the part is in; takes a BLANK part with a key on the
curve to PROVISIONED; takes a PROVISIONED part with good authorisation to DEPLOYED, and answers the reason where it is not good;
with no flash commit under way begins the return of a BLANK part, and of a PROVISIONED or DEPLOYED one with good authorisation. The
end of a return deletes the configuration image, empties device memory and the Basin and resets the device cold. An SPDM request in
front of MCTP is answered by its own command: version, capabilities, algorithms, digests, certificate, challenge and measurements,
with the error for a slot, offset or index that does not exist; the two that sign draw free values (log 5). -/
def Obligations.AccessAndLifecycle : Prop :=
  (∀ (r : Req) (s : State), Accepted secAccessSet r s → u8 r.pay 0 ∈ s.transports →
    (s.setMask (u8 r.pay 0) (u16 r.pay 2)).keepsSecurity → exec (.secAccessSet r.via) s =
      .next (((s.consume r.via).setMask (u8 r.pay 0) (u16 r.pay 2)).respond s r .ok)) ∧
  (∀ (r : Req) (s : State), Accepted secAccessSet r s → u8 r.pay 0 ∉ s.transports → exec (.secAccessSet r.via) s =
      .next ((s.consume r.via).respond s r .conflict)) ∧
  (∀ (r : Req) (s : State), Accepted secLifecycleSet r s → u8 r.pay 0 = 1 → s.sec.life.code = 0 → s.sec.otpProg = none →
    Config.p384Point (slice r.pay 4 96) → exec (.secLifecycleSet r.via) s =
      .next (((s.consume r.via).setSec { s.sec with
        ownerKeyHash := some (sha384 (slice r.pay 4 96)), ownerKeyOk := true
        life := { s.sec.life with provisioned := true } }).respond s r .ok)) ∧
  (∀ (r : Req) (s : State), Accepted secLifecycleSet r s → u8 r.pay 0 = 2 → s.sec.life.code = 1 → s.sec.otpProg = none →
    let a := (s.consume r.via).authorise r 100 s.ownerKey
    exec (.secLifecycleSet r.via) s = .next (match a.2 with
      | some d => a.1.respond s r .checkFailed d
      | none => (a.1.setSec { a.1.sec with life := { s.sec.life with deployed := true } }).respond s r .ok)) ∧
  (∀ (r : Req) (s : State), Accepted secLifecycleSet r s → s.sec.otpProg = none →
    (u8 r.pay 0 = 3 → s.sec.flashCommit = none) → u8 r.pay 0 = s.sec.life.code →
    exec (.secLifecycleSet r.via) s = .next ((s.consume r.via).respond s r .ok)) ∧
  (∀ (r : Req) (s : State), Accepted secLifecycleSet r s → u8 r.pay 0 = 3 → s.sec.life.code < 3 → s.sec.otpProg = none →
    s.sec.flashCommit = none →
    let a := if s.sec.life.code = 0 then (s.consume r.via, none) else (s.consume r.via).authorise r 100 s.ownerKey
    exec (.secLifecycleSet r.via) s = .next (match a.2 with
      | some d => a.1.respond s r .checkFailed d
      | none => ((a.1.beginReturn r.deferred).deferring r).respond s r .pending)) ∧
  (∀ (d : Deferred) (s : State), s.sec.returning = some d →
    let x := { s.sec with returning := none, flash := del s.sec.flash 3, life := { s.sec.life with returned := true } }
    exec .lifecycleReturnDone s = .next ({ s with
      sec := x, mem := s.mem.filter (fun c => inHost c.1), basin := { s.basin with lines := [] } }.internalReset true)) ∧
  (∀ (src : Nat) (rest : List (Nat × SpdmReq)) (q : SpdmReq) (s : State), s.smb.mctpIn = (src, q) :: rest →
    let ans := fun (s : State) x => { s with smb := { s.smb with mctpIn := rest } }.sendMctp src x
    (q = .getVersion → exec .spdmGetVersion s = .next (ans s (.version [0x11, 0x12]))) ∧
    (q = .getCapabilities → exec .spdmGetCapabilities s = .next (ans s (.capabilities true true true))) ∧
    (∀ p h, q = .negotiateAlgorithms p h → exec .spdmNegotiateAlgorithms s = .next (ans s (.algorithms p h))) ∧
    (q = .getDigests → exec .spdmGetDigests s = .next (ans s (.digests (sha384 s.certChain)))) ∧
    (∀ o n, q = .getCertificate 0 o n → o ≤ s.certChain.length → exec .spdmGetCertificate s =
      .next (ans s (.certificate 0 (slice s.certChain o n) (s.certChain.length - o - (slice s.certChain o n).length)))) ∧
    (∀ k o n, q = .getCertificate k o n → k ≠ 0 ∨ s.certChain.length < o →
      exec .spdmGetCertificate s = .next (ans s .errorInvalid)) ∧
    (∀ k nonce, q = .challenge k nonce → k ≠ 0 → exec .spdmChallenge s = .next (ans s .errorInvalid)) ∧
    (∀ nonce, q = .challenge 0 nonce → exec .spdmChallenge s =
      .next (let m := sha384 (([1, 2, 3, 4, 5].map s.measurement).flatMap fun m => m.2.2)
        ans { s with free := s.free + 1 } (.challengeAuth m (s.deviceSign (nonce ++ m)).1))) ∧
    (∀ i signed nonce, q = .getMeasurements i signed nonce → i ≤ 5 ∨ i = 0xFF →
      let bs := if i = 0xFF then [1, 2, 3, 4, 5].map s.measurement else if i = 0 then [] else [s.measurement i]
      exec .spdmGetMeasurements s = .next (if signed
        then ans { s with free := s.free + 1 } (.measurements bs (s.deviceSign (nonce ++ bs.flatMap fun m => m.2.2)).1)
        else ans s (.measurements bs []))) ∧
    (∀ i signed nonce, q = .getMeasurements i signed nonce → 5 < i → i ≠ 0xFF →
      exec .spdmGetMeasurements s = .next (ans s .errorInvalid)))

/-- Power (R750 to R752, R758, R769, R773, R776 to R778). An accepted PWR_STATE_SET out of STANDBY, and an accepted PWR_LIMIT_SET, wait for the
next sample; in STANDBY with no wake under way the state asked for starts the wake with ST_PENDING. PWR_QUERY begins with the state, causes and
debug level and changes nothing but that the request is consumed and the response posted. Out of RESET a power window measured keeps
the power, says that the limit is passed where the governor runs and it is, and says that power is over where it passes the limit by
2 percent, until it is back within it; one that could not be measured keeps the last power and says so; beside time and power they
change nothing but what posting changes. THROTTLE_IN asserted while the governor runs is counted once and brings the target to the
cap; its release ends it with its event. VCORE off its target by more than 25 mV holds the target with an ERROR. Out of RESET the
trace takes one entry at the next whole millisecond. -/
def Obligations.Power : Prop :=
  (∀ (r : Req) (s : State), Accepted pwrStateSet r s → s.dev.st ≠ .standby → exec (.pwrStateSet r.via) s =
    .next (((s.consume r.via).setPwr { s.pwr with pendingSt := some (pwrStateOf (u8 r.pay 0)) }).respond s r .ok)) ∧
  (∀ (r : Req) (s : State), Accepted pwrStateSet r s → s.dev.st = .standby → s.pwr.wake = none →
    let w : Wake := { target := pwrStateOf (u8 r.pay 0), done := r.deferred, start := s.now }
    exec (.pwrStateSet r.via) s =
      .next ((((s.consume r.via).setPwr { s.pwr with wake := some w }).deferring r).respond s r .pending)) ∧
  (∀ (r : Req) (s : State), Accepted pwrQuery r s → ∃ p, exec (.pwrQuery r.via) s =
    .next ((s.consume r.via).respond s r .ok 0 p) ∧
    p.take 3 = leBytes 1 s.pwrCode ++ leBytes 1 s.pwrCauses ++ leBytes 1 s.pwr.dbgLevel) ∧
  (∀ (r : Req) (s : State), Accepted pwrLimitSet r s → exec (.pwrLimitSet r.via) s =
    .next (((s.consume r.via).setPwr { s.pwr with pendingLimits := some (limitsOf r.pay) }).respond s r .ok)) ∧
  (∀ (mw : Nat) (s : State), s.dev.st ≠ .reset → ∃ t, exec (.powerWindow mw true) s = .next t ∧ t.pwr.powerMw = mw ∧
    (t.pwr.powerLimit ↔ s.governed ∧ s.limitW * 1000 < mw) ∧ (t.pwr.powerOver ↔ s.governed ∧ (s.limitW * 1020 < mw ∨ s.pwr.powerOver ∧ s.limitW * 1000 < mw)) ∧
    Posts { s with time := t.time, pwr := t.pwr } t) ∧
  (∀ (mw : Nat) (s : State), s.dev.st ≠ .reset → ∃ t, exec (.powerWindow mw false) s = .next t ∧
    t.pwr.sensorFail ∧ (s.pwr.sensorFail = false → t.pwr.powerOver = false) ∧ t.pwr.powerMw = s.pwr.powerMw ∧
    Posts { s with time := t.time, pwr := t.pwr } t) ∧
  (∀ s : State, s.input 5 → s.pwr.throttle = false → s.governed → ∃ t, exec .throttleInAssert s = .next t ∧
    t.pwr = { s.pwr with throttle := true, throttleEvents := s.pwr.throttleEvents + 1 } ∧ t.pace.target ≤ t.vcoreCap ∧
    Posts { s with pwr := t.pwr, pace := { s.pace with target := t.pace.target, easyRun := t.pace.easyRun } } t) ∧
  (∀ s : State, s.input 5 = false → s.pwr.throttle → s.governed → exec .throttleInRelease s =
    .next ((s.setPwr { s.pwr with throttle := false }).pwrEvent 2 [0])) ∧
  (∀ s : State, s.governed → s.pwr.holdTarget = false → (s.pace.meas + 25 < s.pace.target ∨ s.pace.target + 25 < s.pace.meas) →
    exec .vcoreDeviation s =
      .next ((s.setPwr { s.pwr with holdTarget := true }).error { source := 0x0C, event := 0x0D } [])) ∧
  (∀ s : State, s.dev.st ≠ .reset → ∃ t, exec .traceTick s = .next t ∧ t.pwr.traceCount = s.pwr.traceCount + 1 ∧
    s.now < t.now ∧ t.now % 1000000 = 0 ∧ t = { s with time := t.time, pwr := t.pwr })

/-- The fault ring (R690, R693 to R695, R705, R707, R712, R713). Out of RESET, with no error in its own state: the writer takes the
oldest staged entry, a marker with the count of what was lost, where the ring is not full or an entry of scope DEVICE waits, and
clears its slot's COMMIT; it commits a record to a ring that is not full, with the events of the ring's fill and of lost records; of a full
ring it does nothing unless an entry of scope DEVICE waits, which writes over the oldest record, counted as lost. With an error in
its indices the device faults; any other error loses what it hit, counted in FLT_LOST and stated by one
EVENTS_LOST entry where one is free, and the writer goes on. While BAR0 answers, the consumer index moves within the records written, and a write
outside them only sets the error bit; FLT_RECORD_RELEASE moves it alike. FLT_RECORD_READ gives both indices and FLT_CPER_READ the record
of a SEQ as a CPER, or ST_CONFLICT where the ring does not hold it; both change nothing but that the request is consumed and
the response posted. -/
def Obligations.FaultRing : Prop :=
  (∀ (e : FaultEv) (rest : List FaultEv) (s : State), s.dev.st ≠ .reset → s.flt.writing = none → s.flt.staged = e :: rest →
    s.flt.unread ≠ 256 ∨ s.flt.urgent → exec (.faultRecordWrite (false, [])) s = .next ({ s with
      flt := { s.flt with
        writing := some (if e.marker then { e with count := s.flt.overflow } else e), staged := rest
        overflow := if e.marker then 0 else s.flt.overflow }
      ram := wrN s.ram (recAt s.flt.nextSeq + 120) (zeros 8) }.raiseMarker)) ∧
  (∀ (e : FaultEv) (s : State), s.dev.st ≠ .reset → s.flt.writing = some e → s.flt.unread < 256 →
    exec (.faultRecordWrite (true, [])) s = .next (
      let t : State := { s with flt := { s.flt with writing := none, nextSeq := s.flt.nextSeq + 1 }
                                ram := wrN s.ram (recAt s.flt.nextSeq) (e.record s.flt.nextSeq) }
      let t := if s.flt.unread = 0 ∨ t.flt.unread = 192 then t.faultNtf 1 e s.flt.nextSeq else t
      let t := if e.kind = 7 then t.faultNtf 5 e s.flt.nextSeq else t
      t.raiseMarker)) ∧
  (∀ (commit : Bool) (s : State), s.dev.st ≠ .reset → s.flt.unread = 256 → s.flt.urgent = false →
    exec (.faultRecordWrite (commit, [])) s = .next s) ∧
  (∀ (e : FaultEv) (s : State), s.dev.st ≠ .reset → s.flt.unread = 256 → s.flt.urgent → s.flt.writing = some e →
    let t : State := { s with flt := { s.flt with
      ringCons := s.flt.ringCons + 1, overflow := s.flt.overflow + 1, lost := satAdd 0xFFFFFFFF s.flt.lost 1 } }
    t.flt.unread = 255 ∧ exec (.faultRecordWrite (true, [])) s = exec (.faultRecordWrite (true, [])) t) ∧
  (∀ (commit : Bool) (found : List RecordLoss) (s : State), s.dev.st ≠ .reset → RecordLoss.indices ∈ found →
    exec (.faultRecordWrite (commit, found)) s = .next (s.deviceFault { source := 0x0A, event := 2, cls := 0x0F })) ∧
  (∀ (commit : Bool) (found : List RecordLoss) (s : State), s.dev.st ≠ .reset → RecordLoss.indices ∉ found →
    exec (.faultRecordWrite (commit, found)) s = exec (.faultRecordWrite (commit, [])) (s.loseRecords found)) ∧
  (∀ (i : Nat) (s : State), i < s.flt.staged.length → s.flt.staged.length ≤ 63 →
    (s.loseRecords [.staged i]).flt = { s.flt with
      lost := satAdd 0xFFFFFFFF s.flt.lost 1
      staged := s.flt.staged.eraseIdx i ++ [{ kind := 7, source := 0x0A, count := 1, first := s.now, last := s.now }] }) ∧
  (∀ (v : W32) (s : State), s.bar0 → (v - s.flt.ringCons).toNat ≤ s.flt.unread →
    exec (.fltRingConsWrite v) s = .next { s with flt := { s.flt with ringCons := v } }) ∧
  (∀ (v : W32) (s : State), s.bar0 → s.flt.unread < (v - s.flt.ringCons).toNat →
    exec (.fltRingConsWrite v) s = .next { s with flt := { s.flt with consErr := true } }) ∧
  (∀ (r : Req) (s : State), Accepted fltRecordRead r s → ∃ p, exec (.fltRecordRead r.via) s =
    .next ((s.consume r.via).respond s r .ok 0 p) ∧ slice p 8 8 = leBytes 4 s.flt.prod ++ leBytes 4 s.flt.ringCons.toNat) ∧
  (∀ (r : Req) (s : State), Accepted fltRecordRelease r s → exec (.fltRecordRelease r.via) s =
    .next ({ s.consume r.via with flt := { s.flt with ringCons := BitVec.ofNat 32 (u32 r.pay 0) } }.respond s r .ok)) ∧
  (∀ (r : Req) (s : State), Accepted fltCperRead r s → exec (.fltCperRead r.via) s =
    .next (match s.recordSeq (u64 r.pay 0) with
      | some x => (s.consume r.via).respond s r .ok 0 (s.cper x)
      | none => (s.consume r.via).respond s r .conflict))

/-- Targeted tests and readmission (R679, R680, R683, R685, R689, R704, R714, R715, R717). A test asked for starts where firmware runs
outside FAULT_HOLD and STANDBY, no sooner than 10 ms after the last one passed, with pack work on the unit paused; that of a Pass
link that is up is a RETRAIN. A test that passes leaves the list and is counted as transient where it covered an error, and changes
beside that only what recording changes, but that Ford goes on with its rings; one that fails is counted as lasting, and retires a
unit of classes 1 to 3 and 6 to 9, which takes READY to DEGRADED, or the memory channel, and of any other class faults the device. A test that a readmission waited for goes on with the readmission. A
probation that fails ends the readmission, and one that matches waits for its boundary. An accepted FLT_SELFTEST_RUN asks for the test, or
joins one asked for; FLT_UNIT_READMIT of a retired unit of no memory class, not being readmitted, below four readmissions, asks
for it with its test, and of a unit not retired answers ST_OK; FLT_CHECKED_SET of a valley with a profile arms the fraction, or
answers ST_OK where it is the one to come. -/
def Obligations.UnitTests : Prop :=
  (∀ (u : UnitRef) (x : UnitTest) (s : State), s.canTest → s.flt.tests.find? (fun t => t.unit = u && !t.running) = some x →
    let t := match look s.flt.lastPass (u.cls * 65536 + u.idx) with
      | some n => s.advanceTo (n + 10000000)
      | none => s
    let t := t.pausePack u
    let t := ({ t with flt := { t.flt with
      tests := s.flt.tests.map fun t => if t.unit = u then { t with running := true } else t } } : State).repartner u
    exec (.targetedTestStart u) s = .next (if u.cls = 6 ∧ (t.plink u.idx).st = .up then t.retrain u.idx else t)) ∧
  (∀ (u : UnitRef) (x : UnitTest) (s : State), s.flt.tests.find? (fun t => t.unit = u && t.running) = some x →
    (∀ r ∈ s.flt.readmits, r.unit = u → r.phase ≠ 0) → ∃ t : State, exec (.targetedTestDone u true) s =
      .next (if u.cls = 8 then t.fordTurns else t) ∧
      t.flt.tests = s.flt.tests.filter (fun y => y.unit ≠ u) ∧ t.flt.retired = s.flt.retired ∧
      t.flt.transient = s.flt.transient + b2n (decide (0 < x.covered)) ∧
      t.flt.lastPass = put s.flt.lastPass (u.cls * 65536 + u.idx) s.now ∧ Recorded s t) ∧
  (∀ (u : UnitRef) (x : UnitTest) (s : State), s.flt.tests.find? (fun t => t.unit = u && t.running) = some x →
    (∀ r ∈ s.flt.readmits, r.unit = u → r.phase ≠ 0) → u.cls < 10 → u.cls ≠ 4 → u.cls ≠ 5 →
    s.isRetired u.cls u.idx = false → ∃ t : State, exec (.targetedTestDone u false) s =
      .next ((t.loseUnit u).repartner u) ∧
      t.flt.tests = s.flt.tests.filter (fun y => y.unit ≠ u) ∧ t.flt.retired = s.flt.retired ++ [u] ∧
      t.flt.lasting = s.flt.lasting + 1 ∧
      t.dev.st = (if s.dev.st = .ready then .degraded else s.dev.st)) ∧
  (∀ (u : UnitRef) (x : UnitTest) (s : State), s.flt.tests.find? (fun t => t.unit = u && t.running) = some x →
    (∀ r ∈ s.flt.readmits, r.unit = u → r.phase ≠ 0) → ∃ (t : State) (q : Nat), Recorded s t ∧
      (u.cls = 4 ∨ u.cls = 5 → s.isRetired u.cls u.idx = false → exec (.targetedTestDone u false) s =
        .next (t.retireChannel (u.cls = 5) u.idx q).checkJournals) ∧
      (10 ≤ u.cls → exec (.targetedTestDone u false) s =
        .next (t.deviceFault { source := 0x0A, event := 2, cls := u.cls, unit := u.idx }))) ∧
  (∀ (u : UnitRef) (x : UnitTest) (w : Readmit) (s : State), s.flt.tests.find? (fun t => t.unit = u && t.running) = some x →
    s.flt.readmits.find? (fun r => r.unit = u && r.phase = 0) = some w → u.cls < 10 → s.isRetired u.cls u.idx →
    ∀ pass, ∃ (t : State) (q : Nat), exec (.targetedTestDone u pass) s = .next (
      let v := t.readmitTested w pass q
      if pass ∧ u.cls = 8 then v.fordTurns else v) ∧
      t.flt.readmits = s.flt.readmits ∧ Recorded s t) ∧
  (∀ (u : UnitRef) (x : Readmit) (s : State), s.flt.readmits.find? (fun r => r.unit = u && r.phase = 1) = some x →
    exec (.probationDone u false) s = .next (s.failProbation u) ∧ ∃ (t : State) (q : Nat), exec (.probationDone u true) s =
      .next (t.awaitJoin { x with startSeq := q }) ∧ t.flt.readmits = s.flt.readmits ∧ Recorded s t) ∧
  (∀ (r : Req) (s : State), Accepted fltSelftestRun r s →
    let u := unitOf r.pay
    let ts := if s.flt.tests.any (fun t => t.unit = u) then s.flt.tests else s.flt.tests ++ [{ unit := u }]
    let t : State := { s.consume r.via with flt := { s.flt with
      tests := ts.map fun t => if t.unit = u then { t with waiters := t.waiters ++ [r.deferred] } else t } }
    exec (.fltSelftestRun r.via) s = .next ((t.deferring r).respond s r .pending)) ∧
  (∀ (r : Req) (s : State), Accepted fltUnitReadmit r s → u8 r.pay 0 ≠ 4 → u8 r.pay 0 ≠ 5 →
    s.isRetired (u8 r.pay 0) (u16 r.pay 2) → (∀ x ∈ s.flt.readmits, x.unit ≠ unitOf r.pay) → s.flt.readmits.length < 4 →
    let u := unitOf r.pay
    let ts := if s.flt.tests.any (fun t => t.unit = u) then s.flt.tests else s.flt.tests ++ [{ unit := u }]
    let t : State := { s.consume r.via with flt := { s.flt with
      tests := ts, readmits := s.flt.readmits ++ [{ unit := u, done := r.deferred }] } }
    exec (.fltUnitReadmit r.via) s = .next ((t.deferring r).respond s r .pending)) ∧
  (∀ (r : Req) (s : State), Accepted fltUnitReadmit r s → u8 r.pay 0 ≠ 4 → u8 r.pay 0 ≠ 5 →
    s.isRetired (u8 r.pay 0) (u16 r.pay 2) = false →
    exec (.fltUnitReadmit r.via) s = .next ((s.consume r.via).respond s r .ok)) ∧
  (∀ (r : Req) (s : State), Accepted fltCheckedSet r s → (s.profile (u8 r.pay 0)).isSome →
    s.nextFraction (u8 r.pay 0) = u8 r.pay 1 →
    exec (.fltCheckedSet r.via) s = .next ((s.consume r.via).respond s r .ok)) ∧
  (∀ (r : Req) (s : State), Accepted fltCheckedSet r s → (s.profile (u8 r.pay 0)).isSome →
    s.nextFraction (u8 r.pay 0) ≠ u8 r.pay 1 → exec (.fltCheckedSet r.via) s =
      .next (((((s.consume r.via).arm (u8 r.pay 0) (.checked (u8 r.pay 1)) (some r.deferred)).deferring r).respond s r
        .pending).boundaryIfStopped (u8 r.pay 0)))

/-- Test windows and packs (R697 to R699, R704, R716). While firmware runs outside FAULT_HOLD and STANDBY a window that is set opens with the
settings and the pack that wait; an open one closes; each changes nothing else but time. A test of the pack that runs in an open
window on the unit whose turn it is, in classes of both, is counted; one that does not match is counted as failed, and changes beside
that only what recording changes. An accepted FLT_PACK_LOAD with the unload flag unloads at once outside a window and at the next one inside it; of
populated HBM or host memory it is answered ST_PENDING and completed with the outcome of the pack's checks. An accepted
FLT_WINDOW_SET holds its settings for the next window. -/
def Obligations.TestWindows : Prop :=
  (∀ (w : Window) (s : State), (s.flt.windowNext <|> s.flt.window) = some w → s.flt.windowOpen = false → s.canTest →
    ∃ t, exec .testWindowOpen s = .next t ∧ t = { s with flt := t.flt, time := t.time } ∧ t.flt = { s.flt with
      window := some w, windowNext := none, windowOpen := w.classes != 0
      pack := if s.flt.packGone then none else s.flt.packNext <|> s.flt.pack, packNext := none, packGone := false
      packDone := [] }) ∧
  (∀ (w : Window) (s : State), s.flt.window = some w → s.flt.windowOpen → ∃ t, exec .testWindowClose s = .next t ∧
    t = { s with flt := t.flt, time := t.time } ∧ t.flt = { s.flt with windowOpen := false, packDone := [] }) ∧
  (∀ (u : UnitRef) (n : Nat) (last : Bool) (p : Pack) (w : Window) (s : State), s.flt.pack = some p → s.flt.window = some w →
    s.flt.windowOpen → s.canTest → w.classes.getLsbD u.cls → p.classes.getLsbD u.cls → n < p.tests →
    s.packTurn u.cls = some u.idx → exec (.packTestComplete u n true last) s = .next { s with flt := { s.flt with
      packRuns := s.flt.packRuns + 1, packDone := if last then s.flt.packDone ++ [u] else s.flt.packDone } }) ∧
  (∀ (u : UnitRef) (n : Nat) (last : Bool) (p : Pack) (w : Window) (s : State), s.flt.pack = some p → s.flt.window = some w →
    s.flt.windowOpen → s.canTest → w.classes.getLsbD u.cls → p.classes.getLsbD u.cls → n < p.tests →
    s.packTurn u.cls = some u.idx → ∃ t, exec (.packTestComplete u n false last) s = .next t ∧
      t.flt.packRuns = s.flt.packRuns + 1 ∧ t.flt.packFails = s.flt.packFails + 1 ∧ Recorded s t) ∧
  (∀ (r : Req) (s : State), Accepted fltPackLoad r s → bit (u8 r.pay 12) 0 → exec (.fltPackLoad r.via) s =
    .next ({ s.consume r.via with flt := if s.flt.windowOpen then { s.flt with packGone := true, packNext := none }
      else { s.flt with pack := none, packNext := none } }.respond s r .ok)) ∧
  (∀ (r : Req) (s : State), Accepted fltPackLoad r s → bit (u8 r.pay 12) 0 = false →
    (inHbm (u64 r.pay 0) ∧ inHbm (u64 r.pay 0 + u32 r.pay 8 - 1)) ∨
      (inHost (u64 r.pay 0) ∧ inHost (u64 r.pay 0 + u32 r.pay 8 - 1)) → rangeAll s.populated (u64 r.pay 0) (u32 r.pay 8) →
    exec (.fltPackLoad r.via) s = .next (
      let x := (((s.consume r.via).deferring r).respond s r .pending).loadPack (u64 r.pay 0) (u32 r.pay 8)
      x.1.done r.deferred x.2.1 x.2.2 [])) ∧
  (∀ (r : Req) (s : State), Accepted fltWindowSet r s → exec (.fltWindowSet r.via) s =
    .next ({ s.consume r.via with flt := { s.flt with windowNext := some (windowOf r.pay) } }.respond s r .ok))

/-- Contexts (R482, R486, R505, R511 to R513). An accepted CTX_CREATE without conflict, below the profile's and the device's limits and with
a free run of scratch, takes the lowest one, zeroed on every glen of the valley, is resident where its lane weights meet no
active context's and swapped where they do, and answers its scratch base at once or (a free value of the model, log 30) through
ST_PENDING. An accepted CTX_DESTROY of no context answers ST_OK; of one that no USER SQ names it is answered ST_PENDING, tears the context
down and completes. CTX_QUERY changes nothing but that the request is consumed and the response posted. Valleys (R490 to R495, R509). An
accepted VALLEY_START runs a stopped valley with its counts at zero, answers ST_OK for a running one and ST_CONFLICT for one without a profile,
and waits for the stop of a stopping one that none waits for. VALLEY_STOP of a running valley waits with its limit from now, joins the stop of
a stopping one, ending a start that waits with ST_CONFLICT, and answers ST_OK of another. The end of a stop with nothing in flight
stops the valley, answers every stop and then runs the start that waits; the limit tears down the contexts that hold a request. An accepted
VALLEY_PROFILE_SET with none outstanding and within the rules of R494 and R495 arms the profile, which stops a valley that had none; NARROWS_SET of a
valley that is not SEPARATE and within the rates arms the narrows; VALLEY_QUERY changes nothing but that the request is consumed and
the response posted. -/
def Obligations.ContextsAndValleys : Prop :=
  (∀ (r : Req) (p : Profile) (u : Nat) (s : State), Accepted ctxCreate r s →
    let v := r.via.mbx
    let c : Context := { create := r.pay, since := s.now }
    s.ctxConflict v c (ctxKey v (u16 r.pay 0)) = false → s.profile v = some p → s.ctxCount v < p.ctxMax →
    s.core.ctxs.length < 1024 → s.scratchRun v c.scrUnits = some u →
    let base := if c.scrUnits = 0 then 0xFFFFFFFF else u * 65536
    let st := if (s.active v).any (fun x => c.conflicts x.2) then CtxState.swapped else .resident
    let z := p.glenList.foldl (fun s g => s.zeroScratch g base (c.scrUnits * 65536)) (s.consume r.via)
    let t : State := { z with free := s.free + 1, core := { z.core with
      ctxs := put s.core.ctxs (ctxKey v (u16 r.pay 0)) { c with scrBase := base, st } } }
    exec (.ctxCreate r.via) s = .next (t.respond s r .ok 0 (leBytes 4 base ++ zeros 4)) ∨ exec (.ctxCreate r.via) s =
      .next (((t.deferring r).respond s r .pending).done r.deferred .ok 0 (leBytes 4 base ++ zeros 4))) ∧
  (∀ (r : Req) (s : State), Accepted ctxDestroy r s → look s.core.ctxs (ctxKey r.via.mbx (u16 r.pay 0)) = none →
    exec (.ctxDestroy r.via) s = .next ((s.consume r.via).respond s r .ok)) ∧
  (∀ (r : Req) (x : Context) (s : State), Accepted ctxDestroy r s →
    look s.core.ctxs (ctxKey r.via.mbx (u16 r.pay 0)) = some x →
    (∀ q ∈ s.core.sqs, q.1 / 512 = r.via.mbx → q.2.update = false → q.2.kernel = false → q.2.ctx ≠ u16 r.pay 0) →
    exec (.ctxDestroy r.via) s = .next (((((s.consume r.via).deferring r).respond s r .pending).teardown r.via.mbx
      (u16 r.pay 0) 2 0).done r.deferred .ok 0 [])) ∧
  (∀ (r : Req) (s : State), Accepted ctxQuery r s → exec (.ctxQuery r.via) s =
    .next ((s.consume r.via).respond s r .ok 0 (s.ctxBytes r.via.mbx (u16 r.pay 0)))) ∧
  (∀ (r : Req) (s : State), Accepted valleyStart r s → (s.valley (u8 r.pay 0)).st = .stopped →
    exec (.valleyStart r.via) s = .next (((s.consume r.via).startValley (u8 r.pay 0)).respond s r .ok)) ∧
  (∀ (r : Req) (s : State), Accepted valleyStart r s → (s.valley (u8 r.pay 0)).st = .running →
    exec (.valleyStart r.via) s = .next ((s.consume r.via).respond s r .ok)) ∧
  (∀ (r : Req) (s : State), Accepted valleyStart r s → (s.valley (u8 r.pay 0)).st = .stopping →
    (s.valley (u8 r.pay 0)).shut.held = none →
    exec (.valleyStart r.via) s = .next ((((s.consume r.via).updValley (u8 r.pay 0) fun x => { x with
      shut := { x.shut with held := some (r.deferred, r.pay) } }).deferring r).respond s r .pending)) ∧
  (∀ (r : Req) (s : State), Accepted valleyStart r s → (s.valley (u8 r.pay 0)).st = .noProfile →
    exec (.valleyStart r.via) s = .next ((s.consume r.via).respond s r .conflict)) ∧
  (∀ (r : Req) (s : State), Accepted valleyStop r s → (s.valley (u8 r.pay 0)).st = .running →
    exec (.valleyStop r.via) s = .next ((((s.consume r.via).updValley (u8 r.pay 0) fun x => { x with
        st := .stopping, torn := 0, completed := 0, shut := { dones := [r.deferred], held := none }
        limit := if u32 r.pay 4 = 0 then none else some (s.now + 1000000 * u32 r.pay 4) }).deferring r).respond s r .pending)) ∧
  (∀ (r : Req) (s : State), Accepted valleyStop r s →
    (s.valley (u8 r.pay 0)).st = .stopped ∨ (s.valley (u8 r.pay 0)).st = .noProfile →
    exec (.valleyStop r.via) s = .next ((s.consume r.via).respond s r .ok)) ∧
  (∀ (r : Req) (s : State), Accepted valleyStop r s → (s.valley (u8 r.pay 0)).st = .stopping →
    let t := (((s.consume r.via).updValley (u8 r.pay 0) fun x => { x with
      shut := { dones := x.shut.dones ++ [r.deferred], held := none } }).deferring r).respond s r .pending
    exec (.valleyStop r.via) s = .next (match (s.valley (u8 r.pay 0)).shut.held with
      | some h => t.done h.1 .conflict 0 []
      | none => t)) ∧
  (∀ (v : Nat) (s : State), (s.valley v).st = .stopping → s.inflight v = 0 →
    let t := (s.valley v).shut.dones.foldl (fun t d => t.done d .ok 0
        (leBytes 4 (s.valley v).torn ++ zeros 4 ++ leBytes 8 (s.valley v).completed))
      ((s.updValley v fun x => { x with st := .stopped, limit := none, shut := {} }).boundaryIfStopped v)
    exec (.valleyStopDone v) s = .next (match (s.valley v).shut.held with
      | some h => (t.startValley v).done h.1 .ok 0 []
      | none => t)) ∧
  (∀ (v n : Nat) (s : State), (s.valley v).st = .stopping → (s.valley v).limit = some n →
    exec (.valleyStopLimitExpire v) s = .next (((s.holders v).foldl (fun t c => t.teardown v c 1 0) (s.advanceTo n)).updValley
      v fun x => { x with torn := x.torn + (s.holders v).length, limit := none })) ∧
  (∀ (r : Req) (s : State), Accepted valleyProfileSet r s →
    let v := u8 r.pay 0
    let p := { profileOf r.pay with personality := s.resolvePersonality (profileOf r.pay).personality }
    (∀ a ∈ (s.valley v).changes, ∀ q, a.change ≠ .profile q) →
    (∀ a ∈ (s.valley v).retiring, ∀ o q, a.what ≠ .profile o q) →
    (p.cynPipes = 0 ∨ p.personality = 84) → (∀ e ∈ s.profiles, e.1 ≠ v → p.clashes e.2 = false) →
    p.hwtShare + (((List.range 8).filter (· ≠ v)).map fun u =>
      max (((s.profile u).map (·.hwtShare)).getD 0) (((s.nextProfile u).map (·.hwtShare)).getD 0)).sum ≤ 64 →
    ratesOk ((v, p) :: (List.range 8).filterMap fun u =>
      if u = v then none else (s.nextProfile u).map fun q => (u, q)) s.narrowsOf →
    (s.profile v = none → exec (.valleyProfileSet r.via) s = .next ((((((s.consume r.via).updValley v fun x => { x with
      profile := some p, st := .stopped }).arm v (.profile p) (some r.deferred)).deferring r).respond s r
        .pending).boundaryIfStopped v)) ∧
    (∀ old, s.profile v = some old → p.personality = s.nextPersonality v old → s.ctxCount v ≤ p.ctxMax →
      (∀ c ∈ s.core.ctxs, c.1 / 128 = v → c.2.pinned ∨ saveMin p.glenList.length ≤ c.2.saveBytes) →
      s.regionHeld v old p = false → exec (.valleyProfileSet r.via) s = .next (((((s.consume r.via).arm v
        (.profile { p with personality := old.personality }) (some r.deferred)).deferring r).respond s r
          .pending).boundaryIfStopped v))) ∧
  (∀ (r : Req) (p : Profile) (s : State), Accepted narrowsSet r s → s.profile (u8 r.pay 0) = some p → p.separate = false →
    ratesOk ((List.range 8).filterMap fun u => (s.nextProfile u).map fun p => (u, p))
      (fun u => if u = u8 r.pay 0 then r.pay.drop 4 else s.narrowsOf u) →
    exec (.narrowsSet r.via) s = .next (((((s.consume r.via).arm (u8 r.pay 0) (.narrows (r.pay.drop 4))
      (some r.deferred)).deferring r).respond s r .pending).boundaryIfStopped (u8 r.pay 0))) ∧
  (∀ (r : Req) (s : State), Accepted valleyQuery r s → exec (.valleyQuery r.via) s =
    .next ((s.consume r.via).respond s r .ok 0 (s.valleyBytes (u8 r.pay 0))))

/-- Batch boundaries (R260 to R263, R268). A boundary of a valley with a profile counts one, keeps the changes that are not ready, applies
every ready one in order and then retires what nothing needs; applying narrows sets them and completes their request. The automatic
boundary, where AUTO_US is not 0, comes AUTO_US after the oldest ready change. The retention time of a set's old epoch passing moves time there
and, where nobody is stamped with it, frees the epoch, moves what its session had flipped and seals an advance that waited for it. The
context scheduler (R326, R484 to R489, R498 to R500, R504). A tick out of RESET moves time, takes the error given into account, and
where the valley then runs or stops, peers are served and no switch runs, notes who waits, begins the switch of the first trigger
that holds and restores what conflicts with nobody; elsewhere it does no more. Beginning a switch puts its context into SAVING from now. The end of a save leaves
the context swapped, with its counts and its creation kept, and serves what waited; the end of a restore with no replay outstanding
replays the lost loads, ends waits on poisoned objects, resumes the threads, makes the context resident and ends the requests whose
glen or Creek has been retired; either one whose save area is lost faults instead, and of no context changes nothing. -/
def Obligations.BoundariesAndSwitches : Prop :=
  (∀ (v : Nat) (s : State), (s.profile v).isSome →
    let t := s.updValley v fun x => { x with bseq := x.bseq + 1, bnd := x.bnd + 1, changes := x.changes.filter fun a => !a.ready }
    exec (.batchBoundary v) s = .next ((((s.valley v).changes.filter (·.ready)).foldl
      (fun t a => t.applyChange v ((s.valley v).bnd + 1) a) t).sweep v)) ∧
  (∀ (v bnd : Nat) (b : Bytes) (d : Option Deferred) (r : Bool) (n : Nat) (s : State),
    s.applyChange v bnd { change := .narrows b, ready := r, since := n, done := d } =
      (s.updValley v fun x => { x with narrows := b }).doneOpt d .ok 0 []) ∧
  (∀ (v : Nat) (t : Nat) (ts : List Nat) (s : State), ((s.valley v).changes.filter (·.ready)).map (·.since) = t :: ts →
    (s.valley v).autoUs ≠ 0 → exec (.boundaryAutoTimer v) s =
      .next ((s.advanceTo (ts.foldl min t + 1000 * (s.valley v).autoUs)).boundary v)) ∧
  (∀ (k : Nat) (x : TSet) (s : State), look s.core.sets k = some x → x.oldLive →
    let t := s.advanceTo (x.flipAt + 1000 * x.retainUs)
    let u := ((t.updSet k TSet.freeOld).mapMoves k fun m => if m.st = 2 ∧ m.flip = x.newest then { m with st := 3 } else m).endIfDone k
    (t.stampedWith k x.oldest = 0 → exec (.epochRetainExpire k) s =
      .next (if (x.advance.map fun a => a.phase == 1).getD false then u.seal k else u)) ∧
    (t.stampedWith k x.oldest ≠ 0 → exec (.epochRetainExpire k) s = .next t)) ∧
  (∀ (v n : Nat) (e : Option StateErr) (s : State), v < 8 → s.dev.st ≠ .reset →
    let t := match e with
      | some e => (s.advanceTo n).stateErr v e
      | none => s.advanceTo n
    let runs := ((t.valley v).st = .running ∨ (t.valley v).st = .stopping) ∧ t.servesPeers ∧ t.switching v = false
    (¬ runs → exec (.schedulerTick v (n, e)) s = .next t) ∧
    (runs → let u := t.noteWaiting v
      exec (.schedulerTick v (n, e)) s = .next (match u.chooseSwitch v with
        | some (r, w) => (u.startSwitch v r w).restoreFree v ((look (u.startSwitch v r w).core.ctxs r).bind (·.next))
        | none => u.restoreFree v none))) ∧
  (∀ (v r : Nat) (w : Option Nat) (c : Context) (s : State), look s.core.ctxs r = some c → ∃ x,
    look (s.startSwitch v r w).core.ctxs r = some x ∧ x.st = .saving ∧ x.since = s.now) ∧
  (∀ (v c n : Nat) (x : Context) (s : State), look s.core.ctxs (ctxKey v c) = some x → x.st = .saving →
    s.canSave (ctxKey v c) → let u := s.advanceTo (x.since + n)
    (u.areaLost v x false → exec (.contextSaveDone v c n) s = .next (u.areaFault v (ctxKey v c) x)) ∧
    (u.areaLost v x false = false → x.next ≠ some (ctxKey v c) → ∃ t : State, ∃ y,
      exec (.contextSaveDone v c n) s = .next t.serveAll.resume ∧ look t.core.ctxs (ctxKey v c) = some y ∧
      y.st = .swapped ∧ y.switchesOut = x.switchesOut + 1 ∧ y.lastSave = n % 2 ^ 32 ∧ y.create = x.create)) ∧
  (∀ (v c n : Nat) (x : Context) (s : State), look s.core.ctxs (ctxKey v c) = some x → x.st = .restoring →
    (∀ m ∈ s.core.remote, ∀ i, m.2.use ≠ .replay (ctxKey v c) i) →
    let k := ctxKey v c
    let u := s.advanceTo (x.since + n)
    (u.areaLost v x true → exec (.contextRestoreDone v c n) s = .next (u.areaFault v k x)) ∧
    (u.areaLost v x true = false →
      let t := (u.replayAll v c x).clearSaved k
      let t := (t.spoiltWaits k).foldl (fun t i => t.fail i 0x17 0) t
      let t := ((u.core.threads.filter fun t => u.ofCtx k t.2.req).map (·.1)).foldl (fun t i => t.beginWait i) t
      let t := t.updCtx k fun c => { c with st := .resident, since := t.now, lastRestore := n % 2 ^ 32, waiting := none }
      exec (.contextRestoreDone v c n) s = .next ((u.orphans k).foldl (fun t i => t.fail i 0x0D 0) t).releaseSyncs)) ∧
  (∀ (v c n : Nat) (s : State), look s.core.ctxs (ctxKey v c) = none → exec (.contextSaveDone v c n) s = .next s ∧
    exec (.contextRestoreDone v c n) s = .next s)

/-- Queues (R401 to R403, R422 to R424, R441). Accepted SQ_CREATE and CQ_CREATE with CXL active, of a queue that is not there, put it there: the
SQ where its CQ and, for a USER command SQ, its context exist, the CQ with its ring zeroed, at once or (a free value of the
model, log 30) through ST_PENDING. SQ_DESTROY discards what is not admitted and goes once nothing is in flight; CQ_DESTROY of a CQ that
no SQ names goes with its notifies; either of no queue answers ST_OK. HANDLE_TABLE_SET of a context that exists waits for a boundary. QUEUE_QUERY
changes nothing but that the request is consumed and the response posted. The registers of queues while BAR0 answers (R405, R407, R409 to R412,
R418 to R420, R425, R427). A doorbell within the ring of a queue not being destroyed sets PROD, and one beyond it stops the queue with error 1,
reported where it was running; a head within what is posted frees it and lets the CQ run, and one beyond it stops the CQ with error 5, reported alike; arming
fires at once where enough is unread. The coalescing time of an armed CQ with unread entries fires it. The first entry due on a running
CQ, a SYNC notify or another, is written at the tail with its phase, and then what it held goes and the CQ counts; where its place cannot be written the
CQ fails, and on a CQ that failed so the entry is dropped and what it held goes. -/
def Obligations.Queues : Prop :=
  (∀ (r : Req) (s : State), Accepted sqCreate r s → s.link.standalone = false → s.link.cxlActive →
    look s.core.sqs (u16 r.pay 0) = none → (look s.core.cqs (sqOf r.pay).cq).isSome →
    ((sqOf r.pay).update ∨ (sqOf r.pay).kernel ∨ (look s.core.ctxs (ctxKey r.via.mbx (sqOf r.pay).ctx)).isSome) →
    exec (.sqCreate r.via) s = .next (((s.consume r.via).setCore
      { s.core with sqs := put s.core.sqs (u16 r.pay 0) (sqOf r.pay) }).respond s r .ok)) ∧
  (∀ (r : Req) (q : Sq) (s : State), Accepted sqDestroy r s → look s.core.sqs (u16 r.pay 0) = some q → q.st ≠ 3 →
    let t := (s.consume r.via).updValley r.via.mbx fun v => { v with chainDue := v.chainDue.erase (u16 r.pay 0) }
    exec (.sqDestroy r.via) s = .next ((((t.updSq (u16 r.pay 0) fun x => { x with
      st := 3, cons := x.prod, done := some r.deferred }).deferring r).respond s r .pending).endSq (u16 r.pay 0))) ∧
  (∀ (r : Req) (s : State), Accepted sqDestroy r s → look s.core.sqs (u16 r.pay 0) = none →
    exec (.sqDestroy r.via) s = .next ((s.consume r.via).respond s r .ok)) ∧
  (∀ (r : Req) (s : State), Accepted cqDestroy r s → look s.core.cqs (u16 r.pay 0) = none →
    exec (.cqDestroy r.via) s = .next ((s.consume r.via).respond s r .ok)) ∧
  (∀ (r : Req) (s : State), Accepted cqCreate r s → s.link.standalone = false → s.link.cxlActive →
    look s.core.cqs (u16 r.pay 0) = none → let q := cqOf r.pay
    let t : State := { s.consume r.via with
      free := s.free + 1, mem := zeroN s.mem (hostBase + q.ring) (2 ^ q.log2 * 16)
      core := { s.core with cqs := put s.core.cqs (u16 r.pay 0) q } }
    exec (.cqCreate r.via) s = .next (t.respond s r .ok) ∨ exec (.cqCreate r.via) s =
      .next (((t.deferring r).respond s r .pending).done r.deferred .ok 0 [])) ∧
  (∀ (r : Req) (x : Cq) (s : State), Accepted cqDestroy r s → look s.core.cqs (u16 r.pay 0) = some x →
    (∀ y ∈ s.core.sqs, y.2.cq ≠ u16 r.pay 0) → exec (.cqDestroy r.via) s =
      .next ((let t := (s.consume r.via).dropNotifies (u16 r.pay 0)
        t.setCore { t.core with cqs := del s.core.cqs (u16 r.pay 0) }).respond s r .ok)) ∧
  (∀ (r : Req) (x : Context) (s : State), Accepted handleTableSet r s →
    look s.core.ctxs (ctxKey r.via.mbx (u16 r.pay 0)) = some x → exec (.handleTableSet r.via) s =
      .next (((((s.consume r.via).arm r.via.mbx (.handles (u16 r.pay 0) (u64 r.pay 8) (u32 r.pay 4))
        (some r.deferred)).deferring r).respond s r .pending).boundaryIfStopped r.via.mbx)) ∧
  (∀ (r : Req) (s : State), Accepted queueQuery r s → exec (.queueQuery r.via) s =
    .next ((s.consume r.via).respond s r .ok 0 (s.queueBytes (u16 r.pay 0) (u8 r.pay 2)))) ∧
  (∀ (n : Nat) (v : W32) (q : Sq) (s : State), look s.core.sqs n = some q → s.bar0 → q.st ≠ 3 →
    (v - q.cons).toNat ≤ 2 ^ q.log2 → ∃ t x, exec (.cfeSqDoorbellWrite n v) s = .next t ∧ t = s.updSq n (fun _ => x) ∧
      x.prod = v ∧ x.cons = q.cons ∧ x.pending = !((q.st = 1 || q.err = 1) && v = q.cons) ∧ (q.err ≠ 1 → x.st = q.st ∧ x.err = q.err) ∧ (q.err = 1 → x.st = 1 ∧ x.err = 0)) ∧
  (∀ (n : Nat) (v : W32) (q : Sq) (s : State), look s.core.sqs n = some q → s.bar0 → q.st ≠ 3 →
    2 ^ q.log2 < (v - q.cons).toNat →
    let t := s.updSq n fun x => { x with prod := v, pending := true, st := 2, err := if x.err = 0 then 1 else x.err }
    exec (.cfeSqDoorbellWrite n v) s = .next (if q.st = 1 then t.queueError q.cq v.toNat n 1 0 (n / 512) else t)) ∧
  (∀ (n : Nat) (v : W32) (q : Cq) (s : State), look s.core.cqs n = some q → s.bar0 → q.err ≠ 3 →
    (v - q.head).toNat ≤ q.unread → exec (.cfeCqHeadWrite n v) s =
      .next (s.updCq n fun x => { x with head := v, st := 1, err := 0 })) ∧
  (∀ (n : Nat) (v : W32) (q : Cq) (s : State), look s.core.cqs n = some q → s.bar0 → q.err ≠ 3 →
    q.unread < (v - q.head).toNat → let t := s.updCq n fun x => { x with st := 2, err := 5 }
    exec (.cfeCqHeadWrite n v) s = .next (if q.st = 1 then t.queueError n v.toNat 0xFFFF 5 0 (n / 512) else t)) ∧
  (∀ (n : Nat) (v : W32) (q : Cq) (s : State), look s.core.cqs n = some q → s.bar0 → v.getLsbD 0 →
    let t := s.updCq n fun x => { x with armed := true, firstAt := none }
    exec (.cfeCqArmWrite n v) s = .next (if q.count ≤ q.unread then t.fireCq n else t)) ∧
  (∀ (n t : Nat) (q : Cq) (s : State), look s.core.cqs n = some q → q.armed → q.firstAt = some t → q.unread ≠ 0 →
    exec (.cqCoalesceTimer n) s = .next ((s.advanceTo (t + q.ns)).fireCq n)) ∧
  (∀ (n : Nat) (sync : Bool) (q : Cq) (d : Due) (s : State), look s.core.cqs n = some q → q.corrupt = false → q.st = 1 →
    s.pwr.d3hot = false → s.dev.st ≠ .standby → s.nextDue n q sync = some d → s.populated (hostBase + q.ring + q.tail.toNat % q.size * 16) →
    s.link.up →
    let t := s.writeThrough (hostBase + q.ring + q.tail.toNat % q.size * 16) (s.entryBytes q d)
    let t := (t.setCore { t.core with due := t.core.due.erase d }).updCq n fun x => { x with
      tail := x.tail + 1, posted := x.posted + 1, reserved := x.reserved - b2n d.held
      firstAt := if x.armed then x.firstAt <|> some t.now else none }
    (sync = false → d.kind ≠ 1 → exec (.cqEntryPost n) s = .next ((t.posted d).countFire n)) ∧
    (sync = true → d.kind = 1 → exec (.syncNotifyPost n) s = .next (((t.setObj (d.c + 65536 * d.d)
      { t.obj (d.c + 65536 * d.d) with fired := true }).posted d).countFire n))) ∧
  (∀ (n : Nat) (sync : Bool) (q : Cq) (d : Due) (s : State), look s.core.cqs n = some q → q.corrupt = false → q.st = 1 →
    s.pwr.d3hot = false → s.dev.st ≠ .standby → s.nextDue n q sync = some d →
    s.populated (hostBase + q.ring + q.tail.toNat % q.size * 16) = false ∨ s.link.up = false →
    exec (if sync then .syncNotifyPost n else .cqEntryPost n) s = .next (s.cqFails n)) ∧
  (∀ (n : Nat) (sync : Bool) (q : Cq) (d : Due) (s : State), look s.core.cqs n = some q → q.corrupt →
    s.core.due.find? (fun d => d.cq = n && d.kind ≠ 1) = some d →
    exec (if sync then .syncNotifyPost n else .cqEntryPost n) s =
      .next ((s.setCore { s.core with due := s.core.due.erase d }).posted d))

/-- The sync objects and the signals between nodes (R364, R380, R382, R383, R391, R393 to R395). While an object is writable, an ADD adds
to it unless it is POISONED, a SET sets it and ends its poison, and both do what a change of the object does; SYN_NOTIFY_AT sets the
threshold, which may be reached; a write that an upper half makes alone sets its size error instead; ARM arms the object where its
SYN_CTRL names a CQ of its valley that exists, and else leaves it disarmed with a notify error; a 0 in ARM, and every write to an object
that is not writable, changes nothing. The read of a readable object's value gives the low half, zero while it is POISONED, and latches
the high half for the read that follows; one that finds the object in error poisons it first; the read of its status gives SYN_STATUS and
clears REFUSED; an object that is not readable reads as zero. A SIGNAL from a peer is answered 0 and added where the object allows the
node and is not POISONED, 3 where it is POISONED, 1 and counted in REFUSED where it does not allow the node, 2 where the valley has no
such object or it is in transit, and with an ERROR where it is too short. The answer to this node's signal ends the wait for it: 0
settles its request and another latches CMPL_REMOTE_REFUSED; none within 1 ms latches code 0x0E. -/
def Obligations.SyncObjects : Prop :=
  (∀ (g : Nat) (v : W64) (s : State), s.syncWritable g →
    exec (.synAddWrite g v false) s = .next (if (s.obj g).poisoned then s
      else (s.setObj g { s.obj g with value := (s.obj g).value + v }).changed g) ∧
    exec (.synSetWrite g v false) s = .next ((s.setObj g { s.obj g with value := v, poisoned := false }).changed g) ∧
    exec (.synNotifyAtWrite g v false) s = .next ((s.setObj g { s.obj g with notifyAt := v }).fireNotify g) ∧
    exec (.synAddWrite g v true) s = .next (s.setObj g { s.obj g with sizeErr := true }) ∧
    exec (.synSetWrite g v true) s = .next (s.setObj g { s.obj g with sizeErr := true }) ∧
    exec (.synNotifyAtWrite g v true) s = .next (s.setObj g { s.obj g with sizeErr := true })) ∧
  (∀ (g : Nat) (v : W32) (s : State), s.syncWritable g → v.getLsbD 0 → let cq := (s.obj g).ctrl.toNat % 4096
    exec (.synArmWrite g v) s = .next (if s.syncValley g = some (cq / 512) ∧ (look s.core.cqs cq).isSome
      then (s.setObj g { s.obj g with armed := true }).fireNotify g
      else s.setObj g { s.obj g with armed := false, notifyErr := true })) ∧
  (∀ (g : Nat) (v : W32) (s : State), v.getLsbD 0 = false → exec (.synArmWrite g v) s = .next s) ∧
  (∀ (g : Nat) (v : W64) (w : W32) (high : Bool) (s : State), s.syncWritable g = false →
    exec (.synAddWrite g v high) s = .next s ∧ exec (.synSetWrite g v high) s = .next s ∧
    exec (.synNotifyAtWrite g v high) s = .next s ∧ exec (.synArmWrite g w) s = .next s) ∧
  (∀ (g : Nat) (s : State), g < 131072 → s.syncReadable g → let v := if (s.obj g).poisoned then 0 else (s.obj g).value
    exec (.synValueRead (g, false)) s = .next ((s.setObj g { s.obj g with hi := (v >>> 32).setWidth 32, hiValid := true }).emit
      (.read (v.toNat % 2 ^ 32))) ∧
    exec (.synValueRead (g, true)) s = exec (.synValueRead (g, false)) (s.poisonObj g) ∧
    exec (.synStatusRead g) s = .next ((s.setObj g { s.obj g with refused := 0 }).emit (.read (s.synStatus g)))) ∧
  (∀ (g : Nat) (bad : Bool) (s : State), g < 131072 → s.bar0 → s.syncReadable g = false →
    exec (.synValueRead (g, bad)) s = .next (s.emit (.read 0)) ∧ exec (.synStatusRead g) s = .next (s.emit (.read 0))) ∧
  (∀ (src tag : Nat) (m : Bytes) (s : State), s.servesPeers → m.length < 16 →
    exec (.remoteSignalReceive src tag m) s = .next (s.sendError src tag 3 4 m)) ∧
  (∀ (src tag : Nat) (m : Bytes) (s : State), s.servesPeers → 16 ≤ m.length →
    let g := if u8 m 4 < 8 then s.syncIndex (u8 m 4) (s.bndNow (u8 m 4)) (u16 m 2) else none
    let answer := fun (t : State) (st : Nat) => t.send { dest := src, src := t.dev.nodeId, tag, kind := 4
                                                         msg := leBytes 2 (u16 m 0) ++ leBytes 2 st ++ leBytes 1 (u8 m 4) ++ zeros 3 }
    let allows := fun (o : SyncObj) => o.ctrl.getLsbD 16 && decide (tag < 8) && o.ctrl.getLsbD (24 + tag)
    (g = none → exec (.remoteSignalReceive src tag m) s = .next (answer s 2)) ∧
    (∀ k, g = some k → s.inTransit k → exec (.remoteSignalReceive src tag m) s = .next (answer s 2)) ∧
    (∀ k, g = some k → s.inTransit k = false → allows (s.obj k) = false → exec (.remoteSignalReceive src tag m) s =
      .next (answer (s.setObj k { s.obj k with refused := satAdd 0xFFFF (s.obj k).refused 1 }) 1)) ∧
    (∀ k, g = some k → s.inTransit k = false → allows (s.obj k) → (s.obj k).poisoned →
      exec (.remoteSignalReceive src tag m) s = .next (answer s 3)) ∧
    (∀ k, g = some k → s.inTransit k = false → allows (s.obj k) → (s.obj k).poisoned = false →
      exec (.remoteSignalReceive src tag m) s = .next
        (answer ((s.setObj k { s.obj k with value := (s.obj k).value + BitVec.ofNat 64 (u64 m 8) }).changed k) 0))) ∧
  (∀ (node tag st i : Nat) (m : Remote) (s : State),
    s.core.remote.find? (fun m => m.2.kind = 3 && m.2.tag = tag && m.2.node = node) = some (i, m) →
    exec (.remoteSignalAnswer node tag st) s = .next (if st = 0 then (s.dropRemote i).settle m.req
      else (s.dropRemote i).fail m.req 0x15 0)) ∧
  (∀ (tag i : Nat) (m : Remote) (s : State), s.core.remote.find? (fun m => m.2.kind = 3 && m.2.tag = tag) = some (i, m) →
    exec (.remoteSignalTimeout tag) s = .next (((s.advanceTo (m.sent + 1000000)).dropRemote i).fail m.req 0x0E 0))

/-- The front end (R413, R414, R419, R439, R448, R450 to R453). The command that its valley admits next is taken off its queue into a
request of its own, its slots passed, one CQ entry reserved and the turns moved on. A LAUNCH and a NOP, a BOUNDARY and a SIGNAL that no
check of R448 refuses act: the launch fills its areas and starts its threads, the boundary passes and completes with its number, the
signal adds to its object, or sets it, and completes, with code 0x17 where an ADD finds it POISONED, and the NOP completes. A LAUNCH
that names handle entries the host holds spends the turn on having them back (R148). Where a check
refuses the command, and where its OP is not known and no chain cancels it, it completes with that code (0x16 for the OP). A head of a
queue without a spare CQ entry counts one stall; a slot that cannot be read stops the queue with error 2; and a queue whose turn it is
not, or whose valley admits nothing, stays as it is. -/
def Obligations.FrontEnd : Prop :=
  (∀ (n : Nat) (q : Sq) (s : State), Admits (· = 1) n q s → s.heldEntries (n / 512) (q.ctxFor (s.command q)) (s.command q) ≠ [] →
    exec (.launch n) s = .next (((s.heldEntries (n / 512) (q.ctxFor (s.command q)) (s.command q)).foldl
      (fun s x => s.recall x.1 x.2 false) s).spendTurn (n / 512))) ∧
  (∀ (n : Nat) (q : Sq) (s : State), Admits (· = 1) n q s → s.heldEntries (n / 512) (q.ctxFor (s.command q)) (s.command q) = [] →
    let x := s.takeCommand (launchKind n) n q
    let c := s.command q
    (x.2.2.checkCommand (launchKind n) q c x.2.1 = none → exec (.launch n) s = .next (State.launch x.1 x.2.1 n
      (x.2.2.relocate x.2.1.stamp x.2.1.inline c.nhandle).1 x.2.2)) ∧
    (∀ e, x.2.2.checkCommand (launchKind n) q c x.2.1 = some e →
      exec (.launch n) s = .next (x.2.2.refuseCommand x.1 x.2.1 e.1 e.2))) ∧
  (∀ (n : Nat) (q : Sq) (s : State), Admits (· = 2) n q s → let x := s.takeCommand boundaryKind n q
    (x.2.2.checkCommand boundaryKind q (s.command q) x.2.1 = none → exec (.boundary n) s =
      .next ((x.2.2.boundary (n / 512)).finishWith x.1 0 (((x.2.2.boundary (n / 512)).valley (n / 512)).bseq.toNat % 65536))) ∧
    (∀ e, x.2.2.checkCommand boundaryKind q (s.command q) x.2.1 = some e →
      exec (.boundary n) s = .next (x.2.2.refuseCommand x.1 x.2.1 e.1 e.2))) ∧
  (∀ (n : Nat) (q : Sq) (s : State), Admits (· = 3) n q s →
    let k := signalKind (s.command q).set
    let x := s.takeCommand k n q
    let v := BitVec.ofNat 64 (u64 (s.command q).inline 0)
    (∀ g, x.2.2.checkCommand k q (s.command q) x.2.1 = none →
      x.2.2.syncIndex (n / 512) x.2.1.stamp.bnd (s.command q).arg = some g →
      exec (.signal n) s = .next (if (s.command q).set then (x.2.2.syncSet g v).finishWith x.1 0 0
        else (x.2.2.syncAdd g v).1.finishWith x.1 (if (x.2.2.obj g).poisoned then 0x17 else 0) 0)) ∧
    (∀ e, x.2.2.checkCommand k q (s.command q) x.2.1 = some e →
      exec (.signal n) s = .next (x.2.2.refuseCommand x.1 x.2.1 e.1 e.2))) ∧
  (∀ (n : Nat) (q : Sq) (s : State), Admits (· = 4) n q s → let x := s.takeCommand nopKind n q
    (x.2.2.checkCommand nopKind q (s.command q) x.2.1 = none → exec (.nop n) s = .next (x.2.2.finishWith x.1 0 0)) ∧
    (∀ e, x.2.2.checkCommand nopKind q (s.command q) x.2.1 = some e →
      exec (.nop n) s = .next (x.2.2.refuseCommand x.1 x.2.1 e.1 e.2))) ∧
  (∀ (n : Nat) (q : Sq) (s : State), Admits (fun o => knownOp o = false) n q s → (q.chainOk ≠ some false ∨ (s.command q).always) →
    let x := s.takeCommand invalidKind n q
    exec (.invalidCommand n) s = .next (x.2.2.refuseCommand x.1 x.2.1 0x16 0)) ∧
  (∀ (n : Nat) (q : Sq) (s : State), Admits (fun o => knownOp o = false) n q s → q.chainOk = some false → (s.command q).always = false →
    let x := s.takeCommand invalidKind n q
    exec (.invalidCommand n) s = .next (x.2.2.refuseCommand x.1 x.2.1 0x1A 0)) ∧
  (∀ (k : CmdKind) (n : Nat) (q : Sq) (s : State), look s.core.sqs n = some q → let x := s.takeCommand k n q
    look x.2.2.core.reqs x.1 = some x.2.1 ∧ x.2.2.core.turnValley = n / 512 ∧ ∃ y, look x.2.2.core.sqs n = some y ∧
      y.inflight = q.inflight + 1 ∧ y.cons = q.cons + BitVec.ofNat 32 (slotsOf (s.slot q q.cons.toNat))) ∧
  (∀ (n : Nat) (s : State) (i : Instr),
    i = .launch n ∨ i = .boundary n ∨ i = .signal n ∨ i = .nop n ∨ i = .invalidCommand n →
    (∀ q, look s.core.sqs n = some q → s.admits (n / 512) → s.hasCommand q → s.cqSpare q = false →
      exec i s = .next (s.updSq n fun x => if x.stalled then x else { x with stalls := x.stalls + 1, stalled := true })) ∧
    (∀ q, look s.core.sqs n = some q → s.admits (n / 512) → s.cqSpare q → s.isNext (n / 512) n →
      (s.link.up = false ∨ s.poisoned (hostBase + q.ring + q.cons.toNat % 2 ^ q.log2 * 128) 128) →
      exec i s = .next ((s.updSq n fun x => { x with st := 2, err := 2 }).queueError q.cq q.prod.toNat n 2 0 (n / 512))) ∧
    (s.admits (n / 512) = false → exec i s = .next s) ∧
    (∀ q, look s.core.sqs n = some q → s.cqSpare q → s.isNext (n / 512) n = false → exec i s = .next s))

/-- Stored graphs (R454 to R457, R460 to R462, R469 to R472). Of an accepted request: GRAPH_STORE of a clean image, in a context that is
there with its number free and an arena that nothing claims, stores it as version 1 and arms its activation for a boundary. A
structural patch inside the code writes its bytes into blocks of the pending version alone; an indirect one writes through; SET_ENTRY
sets the pending version's entry point and thread count; each answers with the graph's sizes. ACTIVATE of a graph with a pending version
arms it for a boundary. DISCARD drops the pending version and completes an armed ACTIVATE with ST_CONFLICT. GRAPH_RETIRE of a graph arms
its retirement for a boundary, and of none answers ST_OK. A graph that is not retiring is the target of a patch: unarmed, where the patch
is structural, SET_ENTRY or ACTIVATE; and with no POISONED version, where it is structural or ACTIVATE. -/
def Obligations.GraphMessages : Prop :=
  (∀ (r : Req) (c : Context) (s : State), Accepted graphStore r s → let v := r.via.mbx
    let img := s.bytes (u64 r.pay 8) (u32 r.pay 4)
    look s.core.ctxs (ctxKey v (u16 r.pay 0)) = some c → look c.graphs (u8 r.pay 2) = none →
    s.arenaMeets v (u64 r.pay 16) (u64 r.pay 24) = false →
    (s.core.ctxs.filter fun x => x.1 / 128 = v).foldl (fun n x => n + x.2.graphs.length) 0 < 1024 →
    s.imageBad v r.pay img = none → exec (.graphStore r.via) s =
      .next ((((((s.consume r.via).storeGraph (ctxKey v (u16 r.pay 0)) (u8 r.pay 2) r.pay img).arm v
        (.graphStore (u16 r.pay 0) (u8 r.pay 2)) (some r.deferred)).deferring r).respond s r .pending).boundaryIfStopped v)) ∧
  (∀ (r : Req) (x y : Graph) (s t : State), Accepted (graphPatch patchStructural) r s → u8 r.pay 3 = 0 →
    (s.consume r.via).patchTarget r true true = .ok x → u32 r.pay 4 + u16 r.pay 8 ≤ x.codeBytes →
    (x.withPending).bind (patchBlocks (u32 r.pay 4) (r.pay.drop 16) (s.consume r.via)) = some (t, y) →
    exec (.graphPatchStructural r.via) s = .next ((t.patched r y 0).respond s r .ok 0 y.patchRsp)) ∧
  (∀ (r : Req) (x : Graph) (s : State), Accepted (graphPatch patchIndirect) r s → u8 r.pay 3 = 1 →
    (s.consume r.via).patchTarget r false false = .ok x → u32 r.pay 4 + u16 r.pay 8 / 8 ≤ x.indirCount →
    exec (.graphPatchIndirect r.via) s = .next (((s.consume r.via).writeThrough (x.indir + 8 * u32 r.pay 4)
      (r.pay.drop 16)).respond s r .ok 0 x.patchRsp)) ∧
  (∀ (r : Req) (x y : Graph) (v : GraphVer) (s : State), Accepted (graphPatch patchEntry) r s → u8 r.pay 3 = 2 →
    (s.consume r.via).patchTarget r true false = .ok x → u32 r.pay 16 < x.codeBytes → u32 r.pay 16 % 4 = 0 →
    u32 r.pay 20 ≠ 0 → u32 r.pay 20 ≤ 65536 → x.withPending = some y → y.pendingVer.bind y.ver = some v →
    let z := y.setVer { v with entry := u32 r.pay 16, threads := u32 r.pay 20 }
    exec (.graphPatchSetEntry r.via) s = .next (((s.consume r.via).patched r z 0).respond s r .ok 0 z.patchRsp)) ∧
  (∀ (r : Req) (x : Graph) (s : State), Accepted (graphPatch patchActivate) r s → u8 r.pay 3 = 3 →
    (s.consume r.via).patchTarget r true true = .ok x → x.pendingVer.isSome → exec (.graphPatchActivate r.via) s =
      .next ((((((s.consume r.via).patched r { x with armed := true } 1).arm r.via.mbx (.graphActivate (u16 r.pay 0)
        (u8 r.pay 2)) (some r.deferred)).deferring r).respond s r .pending).boundaryIfStopped r.via.mbx)) ∧
  (∀ (r : Req) (x : Graph) (s : State), Accepted (graphPatch patchDiscard) r s → u8 r.pay 3 = 4 →
    (s.consume r.via).patchTarget r false false = .ok x →
    let mine := fun (a : Armed) => a.change == .graphActivate (u16 r.pay 0) (u8 r.pay 2)
    let y := { x with vers := x.vers.filter fun y => x.pendingVer ≠ some y.num, pendingVer := none, armed := false }
    exec (.graphPatchDiscard r.via) s = .next ((((s.consume r.via).setGraph (ctxKey r.via.mbx (u16 r.pay 0)) (u8 r.pay 2)
      y).updValley r.via.mbx fun z => { z with changes := z.changes.filter fun a => !mine a }).respond s r .ok 0 y.patchRsp |>
        fun t => ((((s.consume r.via).valley r.via.mbx).changes.filter mine).filterMap (·.done)).foldl
          (fun t d => t.done d .conflict 0 []) t)) ∧
  (∀ (r : Req) (x : Graph) (s : State), Accepted graphRetire r s → x.retiring = false →
    s.graph (ctxKey r.via.mbx (u16 r.pay 0)) (u8 r.pay 2) = some x → exec (.graphRetire r.via) s =
      .next ((((((s.consume r.via).setGraph (ctxKey r.via.mbx (u16 r.pay 0)) (u8 r.pay 2) { x with retiring := true }).arm
        r.via.mbx (.graphRetire (u16 r.pay 0) (u8 r.pay 2)) (some r.deferred)).deferring r).respond s r
          .pending).boundaryIfStopped r.via.mbx)) ∧
  (∀ (r : Req) (s : State), Accepted graphRetire r s → s.graph (ctxKey r.via.mbx (u16 r.pay 0)) (u8 r.pay 2) = none →
    exec (.graphRetire r.via) s = .next ((s.consume r.via).respond s r .ok)) ∧
  (∀ (r : Req) (x : Graph) (busy faulted : Bool) (s : State), s.graph (ctxKey r.via.mbx (u16 r.pay 0)) (u8 r.pay 2) = some x →
    x.retiring = false → (busy → x.armed = false) → (faulted → ∀ v ∈ x.vers, v.lost = false ∧ s.poisoned v.record 4096 = false) →
    s.patchTarget r busy faulted = .ok x)

/-- Loads, stores and arithmetic of the thread whose turn it is on its glen, its code readable (R359, R365, R367, R547, R677): each takes
the turn and moves the thread to its next operation. An aligned access within the context's scratch writes exactly its bytes there, or
reads them into its registers once what the glen's codes found is dealt with, where no chunk it meets is poisoned, and ends the request
with code 0x17 where one is; any other access to scratch ends it with 0x11. An aligned global load that is not barred waits for its data,
which a remote address is asked for; an aligned global store that is not barred is written through, or sent to a remote address; a barred
one is recorded and ends the request with its code, and an unaligned one ends it with 0x11. The data of a local load that nothing waits
for on the host reads as memory holds it once what its codes found is dealt with; a line that the host holds is recalled first. An
arithmetic result goes to its register alone; an operation the glen does not know ends the request with 0x16, and a thread state in error
is recorded and ends it with 0x17. -/
def Obligations.ThreadAccess : Prop :=
  (∀ (t off size dst next : Nat) (errs : List GlenErr) (x : Thread) (r : Request) (c : Context) (s : State), Runs t x r c s →
    let u := s.took x.glen t next
    let w := u.glenErrs x.glen r errs
    (accessOk off size → c.inScratchRange off size → w.scratchPoisoned x.glen off size = false →
      exec (.threadLoadScratch t (off, errs) size dst next) s = .next
        (w.updThread t fun y => { y with regs := loadRegs y.regs dst (w.scratchRead x.glen off size) })) ∧
    (accessOk off size → c.inScratchRange off size → w.scratchPoisoned x.glen off size →
      exec (.threadLoadScratch t (off, errs) size dst next) s = .next (w.fail x.req 0x17 0)) ∧
    (accessOk off size → c.inScratchRange off size → exec (.threadStoreScratch t off size dst next) s =
      .next (u.scratchWrite x.glen off (x.regBytes dst size))) ∧
    ((accessOk off size && c.inScratchRange off size) = false →
      exec (.threadLoadScratch t (off, errs) size dst next) s = .next (u.fail x.req 0x11 0) ∧
      exec (.threadStoreScratch t off size dst next) s = .next (u.fail x.req 0x11 0))) ∧
  (∀ (t a size dst next : Nat) (x : Thread) (r : Request) (c : Context) (s : State), Runs t x r c s →
    let u := s.took x.glen t next
    let w := u.updThread t fun y => { y with wait := .load a size dst }
    let d := x.regBytes dst size
    let v := u.updReq x.req fun r => { r with wrote := true }
    (accessOk a size → u.barred r a size false = none → exec (.threadLoadGlobal t a size dst next) s =
      .next (if u.isRemote a then w.readRemote (.load t) x.req x.glen r.valley a size else w)) ∧
    (∀ e, accessOk a size → u.barred r a size false = some e → exec (.threadLoadGlobal t a size dst next) s =
      .next (u.bar x.req r a e)) ∧
    (accessOk a size = false → exec (.threadLoadGlobal t a size dst next) s = .next (u.fail x.req 0x11 0)) ∧
    ((s.isRemote a ∨ s.hostWaits (localOf a) = false) →
      (accessOk a size → u.barred r a size true = none → s.isRemote a = false →
        exec (.threadStoreGlobal t a size dst next) s = .next (v.writeFor r.valley r.ctx (localOf a) d)) ∧
      (accessOk a size → u.barred r a size true = none → s.isRemote a → exec (.threadStoreGlobal t a size dst next) s =
        .next (v.askRemote { use := .store t, req := x.req, glen := x.glen, kind := 7, node := nodeOf a, sent := 0, tag := 0 }
          r.valley fun tag => readMsg size (localOf a) tag ++ d)) ∧
      (∀ e, accessOk a size → u.barred r a size true = some e → exec (.threadStoreGlobal t a size dst next) s =
        .next (u.bar x.req r a e)) ∧
      (accessOk a size = false → exec (.threadStoreGlobal t a size dst next) s = .next (u.fail x.req 0x11 0)))) ∧
  (∀ (t a n d : Nat) (ecc : List Ecc) (x : Thread) (r : Request) (s : State), look s.core.threads t = some x →
    x.wait = .load a n d → look s.core.reqs x.req = some r → s.isRemote a = false → s.hostWaits (localOf a) = false →
    let e := s.eccAll ecc
    let u := e.fetch r.valley (localOf a) n
    (s.hostHolds (localOf a) n false = [] → e.barred r a n false = none → exec (.globalLoadDataReturn (t, ecc)) s =
      .next (u.updThread t fun y => { y with wait := .run, regs := loadRegs y.regs d (u.bytes (localOf a) n) })) ∧
    (∀ b, s.hostHolds (localOf a) n false = [] → e.barred r a n false = some b → exec (.globalLoadDataReturn (t, ecc)) s =
      .next (e.bar x.req r a b)) ∧
    (s.hostHolds (localOf a) n false ≠ [] →
      exec (.globalLoadDataReturn (t, ecc)) s = .next (s.recall (localOf a) n false))) ∧
  (∀ (t d v next : Nat) (x : Thread) (r : Request) (c : Context) (s : State), Runs t x r c s →
    let u := s.took x.glen t next
    exec (.threadArithmetic t d (v, none) next) s =
      .next (u.updThread t fun y => { y with regs := put y.regs (d % 32) (BitVec.ofNat 64 v) }) ∧
    exec (.threadArithmetic t d (v, (some .code)) next) s = .next (u.fail x.req 0x16 0) ∧
    exec (.threadArithmetic t d (v, (some .state)) next) s = .next ((u.glenFault x.glen r 2 0xFFFF 1).fail x.req 0x17 0))

/-- Sync operations of the thread whose turn it is on its glen, its code readable (R364, R368, R370 to R374, R376, R380, R384, R385). On an
object of its valley a READ gives the value, and the status POISONED where the object is, one found in error being poisoned first; an ADD
and a SET change the object and give their status where no write of the context waits for the host, and wait for those writes else; a
WAIT_GE and an ACQUIRE of 1 to 2^32, with a timeout up to 1,000,000 us, 0 for 10,000, begin to wait, or end the request with 0x17 where
the object is POISONED, and one outside those limits ends it with 0x16. A reference with a reserved bit set, or to an object the valley
lacks, and a remote one of any operation but ADD, ends the request with 0x16. A remote ADD is sent once the thread's earlier writes to the
node are acknowledged and the glen has fewer than 256 outstanding, and waits else. At its timeout a wait of a thread returns TIMEOUT with
the object's value, an ACQUIRE leaving its line, and a deferred task becomes ready with TIMEOUT; what this frees goes on. A wait entry found
in error is recorded and ends its request with 0x17. -/
def Obligations.ThreadSync : Prop :=
  (∀ (t next g : Nat) (ref : W64) (x : Thread) (r : Request) (c : Context) (s : State), Runs t x r c s →
    refBad ref.toNat = false → bit ref.toNat 32 = false →
    let u := s.took x.glen t next
    u.syncIndex r.valley r.stamp.bnd (ref.toNat % 2 ^ 14) = some g →
    let run := u.updThread t fun y => { y with wait := .run }
    (∀ dst, exec (.syncRead t (ref, false) dst next) s = .next (if (u.obj g).poisoned then u.setStatus t 2
      else (u.updThread t fun y => { y with regs := setReg y.regs dst (u.obj g).value.toNat }).setStatus t 0)) ∧
    (∀ dst, let p := u.poisonObj g
      exec (.syncRead t (ref, true) dst next) s = .next (if (p.obj g).poisoned then p.setStatus t 2
        else (p.updThread t fun y => { y with regs := setReg y.regs dst (p.obj g).value.toNat }).setStatus t 0)) ∧
    (∀ n, u.writesPend x.req = false → exec (.syncAdd t ref n next) s =
      .next ((run.syncAdd g n).1.setStatus t (if (run.obj g).poisoned then 2 else 0))) ∧
    (∀ v, u.writesPend x.req = false → exec (.syncSet t ref v next) s = .next ((run.syncSet g v).setStatus t 0)) ∧
    (∀ n, u.writesPend x.req → exec (.syncAdd t ref n next) s =
        .next (u.updThread t fun y => { y with wait := .release false g n.toNat }) ∧
      exec (.syncSet t ref n next) s = .next (u.updThread t fun y => { y with wait := .release true g n.toNat })) ∧
    (∀ (n : W64) us dst, us ≤ 1000000 → (u.obj g).poisoned = false → exec (.syncWaitGe t ref n us dst next) s =
      .next ((u.updThread t fun y => { y with
        wait := .ge g n.toNat u.now (if us = 0 then 10000 else us) dst false }).beginWait t)) ∧
    (∀ (n : W64) us dst, us ≤ 1000000 → (u.obj g).poisoned → exec (.syncWaitGe t ref n us dst next) s =
      .next ((u.setStatus t 2).fail x.req 0x17 0)) ∧
    (∀ (n : W64) us dst, 1000000 < us → exec (.syncWaitGe t ref n us dst next) s = .next (u.fail x.req 0x16 0)) ∧
    (∀ n us dst, n ≠ 0 → n ≤ 2 ^ 32 → us ≤ 1000000 → (u.obj g).poisoned = false →
      exec (.syncAcquire t ref n us dst next) s = .next ((u.updThread t fun y => { y with
        wait := .acquire g n u.now (if us = 0 then 10000 else us) dst false }).beginWait t)) ∧
    (∀ n us dst, n ≠ 0 → n ≤ 2 ^ 32 → us ≤ 1000000 → (u.obj g).poisoned →
      exec (.syncAcquire t ref n us dst next) s = .next ((u.setStatus t 2).fail x.req 0x17 0)) ∧
    (∀ n us dst, n = 0 ∨ 2 ^ 32 < n ∨ 1000000 < us →
      exec (.syncAcquire t ref n us dst next) s = .next (u.fail x.req 0x16 0))) ∧
  (∀ (t next dst n us : Nat) (bad : Bool) (ref v : W64) (x : Thread) (r : Request) (c : Context) (s : State), Runs t x r c s →
    let u := s.took x.glen t next
    (refBad ref.toNat ∨ bit ref.toNat 32 ∨ u.syncIndex r.valley r.stamp.bnd (ref.toNat % 2 ^ 14) = none) →
    exec (.syncRead t (ref, bad) dst next) s = .next (u.fail x.req 0x16 0) ∧
    exec (.syncSet t ref v next) s = .next (u.fail x.req 0x16 0) ∧
    exec (.syncWaitGe t ref v us dst next) s = .next (u.fail x.req 0x16 0) ∧
    exec (.syncAcquire t ref n us dst next) s = .next (u.fail x.req 0x16 0) ∧
    (bit ref.toNat 32 = false → exec (.syncAdd t ref v next) s = .next (u.fail x.req 0x16 0))) ∧
  (∀ (t next : Nat) (ref n : W64) (x : Thread) (r : Request) (c : Context) (s : State), Runs t x r c s → bit ref.toNat 32 →
    let node := ref.toNat / 2 ^ 24 % 256
    let u := s.took x.glen t next
    ((refBad ref.toNat ∨ node = s.dev.nodeId) → exec (.syncAdd t ref n next) s = .next (u.fail x.req 0x16 0)) ∧
    (refBad ref.toNat = false → node ≠ s.dev.nodeId → (u.unacked t (some node) ∨ 256 ≤ u.signalsOut x.glen) →
      exec (.syncAdd t ref n next) s = .next (u.updThread t fun y => { y with
        wait := .signal node (ref.toNat / 2 ^ 16 % 8) (ref.toNat % 2 ^ 14) n.toNat })) ∧
    (refBad ref.toNat = false → node ≠ s.dev.nodeId → u.unacked t (some node) = false → u.signalsOut x.glen < 256 →
      exec (.syncAdd t ref n next) s = .next ((u.updThread t fun y => { y with
        wait := .run, regs := setReg y.regs 0 0 }).askRemote
          { use := .signal t, req := x.req, glen := x.glen, kind := 3, node, sent := 0, tag := 0 }
          r.valley (signalMsg (ref.toNat % 2 ^ 14) (ref.toNat / 2 ^ 16 % 8) n.toNat)))) ∧
  (∀ (t g n since us d : Nat) (b : Bool) (x : Thread) (s : State), look s.core.threads t = some x → x.saved = false →
    let u := (s.advanceTo (since + 1000 * us)).wake t 1 (some (s.obj g).value)
    (x.wait = .ge g n since us d b → exec (.syncWaitTimeout (t, false)) s = .next u.resume) ∧
    (x.wait = .acquire g n since us d b → let l := u.leaveLines (· = t)
      exec (.syncWaitTimeout (t, false)) s = .next (State.serveLine g (l.obj g).line.length l).resume)) ∧
  (∀ (k : Nat) (x : Task) (s : State), look s.core.threads k = none → look s.core.tasks k = some x →
    x.ready = false → x.saved = false → let u := s.advanceTo (x.since + 1000 * if u32 x.record 12 = 0 then 10000 else u32 x.record 12)
    exec (.syncWaitTimeout (k, false)) s = .next
      (u.setCore { u.core with tasks := put u.core.tasks k { x with ready := true, status := 1 } }).resume) ∧
  (∀ (t : Nat) (x : Thread) (r : Request) (s : State), look s.core.threads t = some x → x.holdsEntry →
    look s.core.reqs x.req = some r → exec (.syncWaitTimeout (t, true)) s = .next ((s.glenFault x.glen r 2 0xFFFF 1).fail x.req 0x17 0)) ∧
  (∀ (k : Nat) (x : Task) (r : Request) (s : State), look s.core.threads k = none → look s.core.tasks k = some x →
    x.ready = false → x.saved = false → look s.core.reqs x.req = some r →
    exec (.syncWaitTimeout (k, true)) s = .next ((s.glenFault x.glen r 2 0xFFFF 1).fail x.req 0x17 0))

/-- Issuing, tasks, fences and the end of the thread whose turn it is on its glen, its code readable (R219, R360, R366, R368, R369, R375,
R378, R398), and the code that is lost. A descriptor goes to its unit's queue, or waits for space there: a bag to the Creek of its glen
with the fewest queued, below 128, the request ending with 0x0D where the glen has none; a chain or load to the Plain, below 256; another operation ends the request with 0x16. Space in the
queue lets a waiting one go. A sound task joins its queue, ready where it has no dependence or its object meets it, where the queue has
room and, where it must wait, the glen a wait entry; else it gives the status FULL, a POISONED object POISONED and the request's end, and
an unsound task the request's end with 0x16. A fence waits; it completes once no write of the context waits for the host and, for a
global one, no remote write of the thread is unacknowledged, and waits on else. An exit frees the slot and settles the request. Code that
cannot be read is recorded and ends the request with its code, whatever the operation. -/
def Obligations.ThreadFlow : Prop :=
  (∀ (t next : Nat) (d : Bytes) (x : Thread) (r : Request) (c : Context) (s : State), Runs t x r c s →
    let u := s.took x.glen t next
    exec (.threadIssue t d next) s = .next (match u.issue x r d with
      | some v => v
      | none => u.updThread t fun y => { y with wait := .issue d })) ∧
  (∀ (d : Bytes) (x : Thread) (r : Request) (s : State), let f := s.fresh
    (u8 d 0 = 0x10 ∨ u8 d 0 = 0x11 → s.queuedPlain x.glen < 256 → s.issue x r d = some (f.2.setCore { f.2.core with
      plain := put f.2.core.plain f.1 { req := x.req, ctx := r.ctx, glen := x.glen, desc := d } })) ∧
    (u8 d 0 = 0x10 ∨ u8 d 0 = 0x11 → 256 ≤ s.queuedPlain x.glen → s.issue x r d = none) ∧
    (∀ k, u8 d 0 = 1 → pickMin s.queuedBags (s.creeksOf x.glen) = some k → s.queuedBags k < 128 → s.issue x r d = some
      (f.2.setCore { f.2.core with bags := put f.2.core.bags f.1 { req := x.req, glen := x.glen, creek := k, desc := d } })) ∧
    (∀ k, u8 d 0 = 1 → pickMin s.queuedBags (s.creeksOf x.glen) = some k → 128 ≤ s.queuedBags k → s.issue x r d = none) ∧
    (u8 d 0 = 1 → pickMin s.queuedBags (s.creeksOf x.glen) = none → s.issue x r d = some (s.fail x.req 0x0D 0)) ∧
    (u8 d 0 ≠ 1 → u8 d 0 ≠ 0x10 → u8 d 0 ≠ 0x11 → s.issue x r d = some (s.fail x.req 0x16 0))) ∧
  (∀ (t : Nat) (d : Bytes) (x : Thread) (r : Request) (v : State) (s : State), look s.core.threads t = some x →
    x.wait = .issue d → look s.core.reqs x.req = some r → x.saved = false → s.resident r →
    s.issue { x with wait := .run } r d = some v → exec (.issueQueueSpace t) s =
      .next (v.updThread t fun y => { y with wait := .run })) ∧
  (∀ (t next : Nat) (rec : Bytes) (x : Thread) (r : Request) (c : Context) (s : State), Runs t x r c s →
    let u := s.took x.glen t next
    let w := fit 64 rec
    let queue := if u8 w 4 = 0xFF then none else some (u8 w 4)
    let o := (u.syncIndex r.valley r.stamp.bnd (u32 w 8)).map u.obj
    let met := (o.map fun o => decide (u64 w 16 ≤ o.value.toNat)).getD true
    let lost := (o.map (·.poisoned)).getD false
    let full := decide ((if queue.isSome then 512 else 4096) ≤ (u.core.tasks.filter fun k => match queue with
      | some g => k.2.queue = some g
      | none => k.2.queue = none && ((look u.core.reqs k.2.req).map fun q => q.valley == r.valley).getD false).length)
    let f := u.fresh
    (u.taskBad r.valley r.stamp.bnd w → exec (.threadEnqueue t rec next) s = .next (u.fail x.req 0x16 0)) ∧
    (u.taskBad r.valley r.stamp.bnd w = false → full → exec (.threadEnqueue t rec next) s = .next (u.setStatus t 3)) ∧
    (u.taskBad r.valley r.stamp.bnd w = false → full = false → bit (u8 w 5) 0 → lost →
      exec (.threadEnqueue t rec next) s = .next ((u.setStatus t 2).fail x.req 0x17 0)) ∧
    (u.taskBad r.valley r.stamp.bnd w = false → full = false → bit (u8 w 5) 0 → lost = false → met = false →
      4096 ≤ u.entries (queue.getD x.glen) → exec (.threadEnqueue t rec next) s = .next (u.setStatus t 3)) ∧
    (u.taskBad r.valley r.stamp.bnd w = false → full = false →
      (bit (u8 w 5) 0 → lost = false ∧ (met ∨ u.entries (queue.getD x.glen) < 4096)) →
      exec (.threadEnqueue t rec next) s = .next (((f.2.setCore { f.2.core with tasks := put f.2.core.tasks f.1 {
        req := x.req, queue, glen := queue.getD x.glen, record := w, ready := !bit (u8 w 5) 0 || met
        since := f.2.now } }).setStatus t 0).fill r.valley))) ∧
  (∀ (t next : Nat) (x : Thread) (r : Request) (c : Context) (s : State), Runs t x r c s → let u := s.took x.glen t next
    exec (.fenceLocal t next) s = .next (u.updThread t fun y => { y with wait := .fence false }) ∧
    exec (.fenceGlobal t next) s = .next (u.updThread t fun y => { y with wait := .fence true })) ∧
  (∀ (t : Nat) (all : Bool) (x : Thread) (s : State), look s.core.threads t = some x → x.wait = .fence all →
    (s.writesPend x.req = false → (all → s.unacked t none = false) →
      exec (.fenceComplete t) s = .next (s.updThread t fun y => { y with wait := .run })) ∧
    ((s.writesPend x.req ∨ (all ∧ s.unacked t none)) → exec (.fenceComplete t) s = .next s)) ∧
  (∀ (t : Nat) (x : Thread) (r : Request) (c : Context) (s : State), Runs t x r c s → let u := s.took x.glen t 0
    exec (.threadExit t) s = .next ((u.setCore { u.core with threads := del u.core.threads t }).settle x.req)) ∧
  (∀ (t a code : Nat) (x : Thread) (r : Request) (c : Context) (s : State) (i : Instr), look s.core.threads t = some x →
    look s.core.reqs x.req = some r → s.ctxOf r = some c → s.nextTurn x.glen = some t → s.codeLost r x.pc = some (a, code) →
    (i = .threadExit t ∨ (∃ n, i = .fenceLocal t n ∨ i = .fenceGlobal t n) ∨ (∃ d n, i = .threadIssue t d n ∨ i = .threadEnqueue t d n) ∨
      ∃ d v n, i = .threadArithmetic t d v n) →
    exec i s = .next (((s.setCore { s.core with opTurn := put s.core.opTurn x.glen t }).recordBarred r a code).fail x.req code 0))

/-- Tables (R232, R233, R236, R248, R253 to R258, R279). Of an accepted request: TBL_SET_CREATE of a number that is free, of fewer than 32
sets of the valley, puts the set there at its first epoch. TBL_CREATE of a free number in a set of the valley that is not being destroyed,
in a format and grouping that the personality offers, below 8,192 tables, zeroes the row map, or takes it over where it adopts one whose
every entry it can take, arms the table's use for a boundary, and answers its sizes at once or (a free value of the model, log 30) through
ST_PENDING. TBL_SET_DESTROY and TBL_DESTROY of what is there mark it and arm its end for a boundary, and of what is not there answer ST_OK.
TBL_QUERY answers the creation fields and counters of a table, or of a set with the totals of its tables, and changes nothing but that the
request is consumed and the response posted. TBL_ROWMAP_LOAD into the slots of a table whose row map is there makes its entries pending,
where every one is right and the pending epoch has room, from its payload at once and from a buffer without poison at once or through
ST_PENDING as above. -/
def Obligations.TableMessages : Prop :=
  (∀ (r : Req) (s : State), Accepted tblSetCreate r s → look s.core.sets (u8 r.pay 0) = none →
    (s.core.sets.filter fun x => x.2.valley = r.via.mbx).length < 32 →
    let x : TSet := { valley := r.via.mbx, create := r.pay, newest := u32 r.pay 4 }
    exec (.tblSetCreate r.via) s =
      .next (((s.consume r.via).setCore { s.core with sets := put s.core.sets (u8 r.pay 0) x }).respond s r .ok)) ∧
  (∀ (r : Req) (x : TSet) (s : State), Accepted tblSetDestroy r s → look s.core.sets (u8 r.pay 0) = some x →
    x.destroying = false → exec (.tblSetDestroy r.via) s =
      .next ((((((s.consume r.via).updSet (u8 r.pay 0) fun x => { x with destroying := true }).arm r.via.mbx
        (.setGone (u8 r.pay 0)) (some r.deferred)).deferring r).respond s r .pending).boundaryIfStopped r.via.mbx)) ∧
  (∀ (r : Req) (s : State), Accepted tblSetDestroy r s → look s.core.sets (u8 r.pay 0) = none →
    exec (.tblSetDestroy r.via) s = .next ((s.consume r.via).respond s r .ok)) ∧
  (∀ (r : Req) (x : TSet) (p : Profile) (t : Table) (s : State), Accepted tblCreate r s →
    s.ownSet r.via.mbx (u8 r.pay 0) = some x → s.profile r.via.mbx = some p → x.destroying = false →
    look s.core.tables (tableKey (u8 r.pay 0) (u16 r.pay 2)) = none → t = { create := r.pay, adopted := bit (u8 r.pay 1) 0 } →
    offers p.personality t.fmt t.group → s.core.tables.length < 8192 →
    (t.adopted → (s.consume r.via).adoptFails r.via.mbx (u32 x.create 4) t = none) →
    let u := if t.adopted then (s.consume r.via).adopt (u32 x.create 4) t else (s.consume r.via).zeroFill t.map (16 * t.slots)
    let u := (u.setCore { u.core with tables := put u.core.tables (tableKey (u8 r.pay 0) (u16 r.pay 2)) t }).arm r.via.mbx
      (.tableUsable (tableKey (u8 r.pay 0) (u16 r.pay 2))) none
    let w := { u with free := u.free + 1 }
    exec (.tblCreate r.via) s = .next ((w.respond s r .ok 0 t.sizes).boundaryIfStopped r.via.mbx) ∨
    exec (.tblCreate r.via) s = .next ((((w.deferring r).respond s r .pending).boundaryIfStopped r.via.mbx).done r.deferred
      .ok 0 t.sizes)) ∧
  (∀ (r : Req) (x : TSet) (t : Table) (s : State), Accepted tblDestroy r s → s.ownSet r.via.mbx (u8 r.pay 0) = some x →
    x.destroying = false → look s.core.tables (tableKey (u8 r.pay 0) (u16 r.pay 2)) = some t → t.destroying = false →
    exec (.tblDestroy r.via) s =
      .next ((((((s.consume r.via).updTable (tableKey (u8 r.pay 0) (u16 r.pay 2)) fun t => { t with destroying := true }).arm
        r.via.mbx (.tableGone (tableKey (u8 r.pay 0) (u16 r.pay 2))) (some r.deferred)).deferring r).respond s r
          .pending).boundaryIfStopped r.via.mbx)) ∧
  (∀ (r : Req) (s : State), Accepted tblDestroy r s →
    (s.ownSet r.via.mbx (u8 r.pay 0) = none ∨ look s.core.tables (tableKey (u8 r.pay 0) (u16 r.pay 2)) = none) →
    exec (.tblDestroy r.via) s = .next ((s.consume r.via).respond s r .ok)) ∧
  (∀ (r : Req) (x : TSet) (s : State), Accepted tblQuery r s → s.ownSet r.via.mbx (u8 r.pay 0) = some x →
    (∀ t, u16 r.pay 2 ≠ 0xFFFF → look s.core.tables (tableKey (u8 r.pay 0) (u16 r.pay 2)) = some t → exec (.tblQuery r.via) s =
      .next ((s.consume r.via).respond s r .ok 0 (fit 40 t.create ++ countersOf [t]))) ∧
    (u16 r.pay 2 = 0xFFFF → exec (.tblQuery r.via) s = .next ((s.consume r.via).respond s r .ok 0 (fit 40 x.create ++
      countersOf ((s.core.tables.filter fun t => t.1 / 1024 = u8 r.pay 0).map (·.2)))))) ∧
  (∀ (r : Req) (x : TSet) (t : Table) (s : State), Accepted tblRowmapLoad r s → s.ownSet r.via.mbx (u8 r.pay 0) = some x →
    look s.core.tables (tableKey (u8 r.pay 0) (u16 r.pay 2)) = some t → x.destroying = false → t.destroying = false →
    let c := s.consume r.via
    let n := u32 r.pay 4
    rangeAll c.populated t.map (16 * t.slots) → u64 r.pay 8 + n ≤ t.slots →
    (u8 r.pay 1 = 1 → c.poisoned (u64 r.pay 16) (8 * n) = false) →
    let src := if u8 r.pay 1 = 1 then c.bytes (u64 r.pay 16) (8 * n) else r.pay.drop 24
    let es := (List.range n).map fun i => u64 src (8 * i)
    (∀ e ∈ es, c.entryOk r.via.mbx t e) →
    x.cP.length + ((List.range n).filter fun i => (look x.cP (slotKey (u16 r.pay 2) (u64 r.pay 8 + i))).isNone).length ≤ 2 ^ 24 →
    let u := c.loadEntries (u8 r.pay 0) (u16 r.pay 2) (u64 r.pay 8) es
    let w := { u with free := u.free + 1 }
    (u8 r.pay 1 ≠ 1 → exec (.tblRowmapLoad r.via) s = .next ((u.respond s r .ok).endIfDone (u8 r.pay 0))) ∧
    (u8 r.pay 1 = 1 → exec (.tblRowmapLoad r.via) s = .next ((w.respond s r .ok).endIfDone (u8 r.pay 0)) ∨
      exec (.tblRowmapLoad r.via) s = .next ((((w.deferring r).respond s r .pending).endIfDone (u8 r.pay 0)).done r.deferred
        .ok 0 [])))

/-- Creeks and peers (R219 to R231, R235, R242 to R246). A Creek in use takes a waiting peer where it has no bag to take or the turn is one of the
first PEER_WEIGHT of 16, and begins its oldest bag else; with neither it does nothing. The row of a fetch that nothing waits for on the
host, once what its codes found is dealt with, lands at its position, or raises 0x12 where it cannot be trusted; a line that the host holds
is recalled first. A finished bag without an error, whose rows' storage is still there, of a request not latched, writes its output, then
its status word, and signals and settles its request; one with a residue error ends the request with 0x17 instead of its output; one with
an error of its own, or a row whose storage has gone (0x12), writes the status word with it and signals; a bag in progress when another error was latched ends with none of the three, and an
unfinished one stays. A lookup of 1 to 8 rows from a peer is admitted, and one that cannot be parsed is answered with an ERROR; admission
answers NO_SET for no set or table, GONE for an epoch that has passed, holds one for an epoch to come, and queues any other
at the Creek of its valley that its first row gives, UNAVAILABLE where the valley has none. The answer to a lookup goes to its bag's positions row by row, raises 0x15 where its format, width or grouping is
not the table's, and settles the request where the bag is gone. A remote operation that is no signal fails after 1 ms with code 0x0E; a
lookup held for an epoch is refused when its wait ends. -/
def Obligations.CreekBags : Prop :=
  (∀ (k : Nat) (s : State), k < 64 → s.isRetired 2 k = false → s.fenced 2 k = false →
    exec (.creekBagDispatch k) s = .next (State.creekRound k ((s.peersOn k).length + 1) s)) ∧
  (∀ (k n : Nat) (s : State),
    (∀ i, s.peersOn k = [] → s.nextBag k = some i → State.creekRound k (n + 1) s = (s.turn k).beginBag i) ∧
    (∀ p ps i, s.peersOn k = p :: ps → s.nextBag k = some i → State.creekRound k (n + 1) s =
      if lookD s.core.turns k 0 < s.weightOf k then State.creekRound k n ((s.takePeer p).turn k) else (s.turn k).beginBag i) ∧
    (∀ p ps, s.peersOn k = p :: ps → s.nextBag k = none →
      State.creekRound k (n + 1) s = State.creekRound k n ((s.takePeer p).turn k)) ∧
    (s.peersOn k = [] → s.nextBag k = none → State.creekRound k (n + 1) s = s)) ∧
  (∀ (i p : Nat) (ecc : List Ecc) (x : Bag) (r : Request) (t : Table) (q : Pos) (s : State), look s.core.bags i = some x →
    look s.core.reqs x.req = some r → look s.core.tables x.key = some t → x.saved = false →
    look x.positions p = some q → Bag.fetchRanges t q ≠ [] →
    (∀ a ∈ Bag.fetchRanges t q, s.hostWaits a.1 = false) →
    ((∀ a ∈ Bag.fetchRanges t q, s.hostHolds a.1 a.2 false = []) →
      exec (.creekFetchComplete i (p, ecc)) s = .next ((s.eccAll ecc).landRow i p)) ∧
    ((∃ a ∈ Bag.fetchRanges t q, s.hostHolds a.1 a.2 false ≠ []) → exec (.creekFetchComplete i (p, ecc)) s =
      .next ((Bag.fetchRanges t q).foldl (fun s a => s.recall a.1 a.2 false) s))) ∧
  (∀ (i p a b row base k : Nat) (x : Bag) (r : Request) (t : Table) (s : State), look s.core.bags i = some x →
    look s.core.reqs x.req = some r → look s.core.tables x.key = some t →
    let keep := fun (u : State) (at_ : Nat) (w : List Nat) =>
      (u.setPos i p (.values w)).updBag i fun y => { y with homes := y.homes ++ [at_] }
    (look x.positions p = some (.row a b row base k) → let f := s.readRow (x.reader r) t base k row
      s.landRow i p = match f.2 with
      | some v => keep f.1 (base + k * t.stride) (patterns (t.values v))
      | none => (f.1.setPos i p (.values [])).bagErr i x 0x12 0) ∧
    (look x.positions p = some .dflt → let f := s.readDefault (x.reader r) t
      s.landRow i p = match f.2 with
      | some v => keep f.1 t.dflt (patterns (t.dfltValues v))
      | none => (f.1.setPos i p (.values [])).bagErr i x 0x12 0)) ∧
  (∀ (i : Nat) (residue : Bool) (x : Bag) (r : Request) (c : Context) (s : State), look s.core.bags i = some x → x.done →
    look s.core.reqs x.req = some r → s.ctxOf r = some c → x.status % 8 = 0 → c.inScratchRange x.status 8 →
    let w := ((look s.core.tables x.key).map Table.width).getD 0
    let close := fun (t : State) => t.setCore { t.core with
      bags := del t.core.bags i
      remote := t.core.remote.filter fun m => match m.2.use with
        | .lookup j _ | .indexList j | .weightList j => j ≠ i
        | _ => true }
    (x.err = none → s.bagLost x r → exec (.creekBagComplete i residue) s = .next ((((close ((s.bagErr i x 0x12 0).scratchWrite x.glen
      x.status (x.word 0x12))).engineSync x.req r x.sync).pumpCreek x.creek).settle x.req)) ∧
    (x.err = none → s.bagLost x r = false → r.latch = none → residue = false →
      let t := (s.scratchWrite x.glen x.dest (x.output r.stamp.personality w)).scratchWrite x.glen x.status (x.word 0)
      exec (.creekBagComplete i residue) s = .next ((((close t).engineSync x.req r x.sync).pumpCreek x.creek).settle x.req)) ∧
    (x.err = none → s.bagLost x r = false → r.latch = none → residue →
      let t := (s.error { source := 3, event := 6, cls := 2, unit := x.creek, valley := r.valley, ctx := r.ctx, scope := 1, cmpl := 0x17 }
        [{ cls := 2, idx := x.creek }]).latch x.req 0x17 0
      exec (.creekBagComplete i residue) s =
        .next ((((close (t.scratchWrite x.glen x.status (x.word 0x17))).engineSync x.req r x.sync).pumpCreek x.creek).settle x.req)) ∧
    (∀ e, x.err = some e → exec (.creekBagComplete i residue) s =
      .next ((((close (s.scratchWrite x.glen x.status (x.word e))).engineSync x.req r x.sync).pumpCreek x.creek).settle x.req)) ∧
    (x.err = none → s.bagLost x r = false → r.latch.isSome →
      exec (.creekBagComplete i residue) s = .next (((close s).pumpCreek x.creek).settle x.req))) ∧
  (∀ (i : Nat) (b : Bool) (x : Bag) (s : State), look s.core.bags i = some x → x.done = false →
    exec (.creekBagComplete i b) s = .next s) ∧
  (∀ (src tag : Nat) (m : Bytes) (s : State), s.servesPeers →
    (1 ≤ u8 m 3 → u8 m 3 ≤ 8 → 16 + 8 * u8 m 3 ≤ m.length →
      exec (.remoteLookupRequest src tag m) s = .next (s.admitPeer {
        node := src, tag, reqTag := u16 m 0, set := u8 m 2, table := u16 m 4, epoch := u32 m 8
        rows := (List.range (u8 m 3)).map fun i => u64 m (16 + 8 * i) })) ∧
    ((u8 m 3 = 0 ∨ 8 < u8 m 3 ∨ m.length < 16 + 8 * u8 m 3) →
      exec (.remoteLookupRequest src tag m) s = .next (s.sendError src tag 1 4 m))) ∧
  (∀ (p : PeerLookup) (x : TSet) (t : Table) (s : State),
    (s.peerTable p = none → s.admitPeer p = s.refusePeer p stNoSet) ∧
    (s.peerTable p = some (x, t) → epochAfter x.oldest p.epoch → s.admitPeer p = s.refusePeer p stGone) ∧
    (s.peerTable p = some (x, t) → epochAfter x.oldest p.epoch = false → epochAfter p.epoch x.newest →
      s.admitPeer p = s.setCore { s.core with peers := s.core.peers ++ [{ p with creek := none, since := s.now }] }) ∧
    (s.peerTable p = some (x, t) → epochAfter x.oldest p.epoch = false → epochAfter p.epoch x.newest = false →
      s.valleyCreeks x.valley = [] → s.admitPeer p = s.refusePeer p stUnavailable) ∧
    (∀ k, s.peerTable p = some (x, t) → epochAfter x.oldest p.epoch = false → epochAfter p.epoch x.newest = false →
      (s.valleyCreeks x.valley)[p.rows.headD 0 % (s.valleyCreeks x.valley).length]? = some k →
      s.admitPeer p = (s.setCore { s.core with peers := s.core.peers ++ [{ p with creek := some k }] }).drainPeers k)) ∧
  (∀ (src k i : Nat) (ps : List Nat) (m : Bytes) (x : Remote) (s : State),
    s.remoteOf src (u16 m 0) [1] = some (k, x) → x.use = .lookup i ps →
    (look s.core.bags i = none → exec (.remoteLookupResponse src m) s = .next ((s.dropRemote k).settle x.req)) ∧
    (∀ b r t, look s.core.bags i = some b → look s.core.reqs b.req = some r → look s.core.tables b.key = some t →
      ((u8 m 3 ≠ t.fmt ∨ u16 m 4 ≠ t.width ∨ u8 m 6 ≠ t.group) →
        exec (.remoteLookupResponse src m) s = .next (((s.dropRemote k).bagErr i b 0x15 0).pumpCreek b.creek)) ∧
      (u8 m 3 = t.fmt → u16 m 4 = t.width → u8 m 6 = t.group → exec (.remoteLookupResponse src m) s =
        .next ((ps.foldl (fun (acc : State × Nat) p => match look b.positions p with
          | some (.remote _ _ _ row _) => acc.1.answerRow i p row b r t m acc.2
          | _ => acc) (s.dropRemote k, 12)).1.pumpCreek b.creek)))) ∧
  (∀ (i : Nat) (m : Remote) (s : State), look s.core.remote i = some m → m.kind ≠ 3 → exec (.remoteOperationTimeout i) s =
    .next (((s.advanceTo (m.sent + 1000000)).dropRemote i).remoteFails m 0x0E)) ∧
  (∀ (node tag : Nat) (p : PeerLookup) (x : TSet) (s : State),
    s.core.peers.find? (fun p => p.node = node && p.reqTag = tag && p.creek.isNone) = some p → look s.core.sets p.set = some x →
    let t := s.advanceTo (p.since + 1000 * u16 x.create 8)
    let t := t.setCore { t.core with peers := t.core.peers.erase p }
    exec (.epochWaitExpire node tag) s = .next (if (t.peerTable p).isSome then t.refusePeer p stAhead
      else t.refusePeer p stNoSet))

/-- The Plain (R310 to R319, R322, R326, R327, R330, R331, R686 to R688). A chain at the head of its glen starts when a bank is free, no
earlier load meets it and its context is resident: a wrong descriptor ends it with 0x16; a failed replay, or a unit still to be reloaded,
with 0x17; poison of what it reads is recorded and ends it with 0x17; a wrong shift ends it with 0x16; and else its result is formed, and it
is checked where the wave credit says so. A running chain, compared where it is checked, ends: a good one whose request has no error writes
its output and signals; one in which data was lost ends the request with 0x17 and signals, as does one with an error of its own, neither
with output; one in progress when its request was latched does neither. A checked chain waits until it is compared; the comparison passes
it, or names the lane of a mismatch, fences both glens and ends it with 0x0C, and a partner no longer in use is replaced. A load at the head
of its glen that no earlier op meets starts: a wrong descriptor, or a unit that another context shares, ends it with 0x16, a full log with
9, what the source raises with its code; a line that the host holds is recalled first; and else its bytes are there. A running load whose
bytes are there fills its lanes, which then belong to its context, is logged and signals; one with an error, without its source, or of a
latched request, ends without any of them. -/
def Obligations.PlainRow : Prop :=
  (∀ (g i : Nat) (o : PlainOp) (r : Request) (c : Context) (s : State), s.plainHead g = some (i, o) → o.isLoad = false →
    s.banksUsed g < 32 →
    (∀ x ∈ s.core.plain, x.1 < i → x.2.glen = g → x.2.isLoad → x.2.saved = false → o.meets x.2.laneOff x.2.bytes = false) →
    look s.core.reqs o.req = some r → s.ctxOf r = some c → c.st = .resident →
    exec (.plainChainStart g) s = .next (s.startChain i o r c)) ∧
  (∀ (i : Nat) (o : PlainOp) (r : Request) (c : Context) (s : State),
    let u := if c.replayErr then s.updCtx (ctxKey r.valley r.ctx) fun c => { c with replayErr := false } else s
    let w := u.claimUnits o.glen r.ctx o.wbase o.span
    let w := ((if o.param = 0xFFFF then w else w.claimUnits o.glen r.ctx o.param 16).count (16 + o.glen) o.waves).creditFor r o
    let lost := w.1.lanesPoisoned o.glen 0 128 o.wbase o.span || (o.param ≠ 0xFFFF && w.1.lanesPoisoned o.glen 0 128 o.param 16) ||
      w.1.operandPoisoned o
    let p := w.1.partnerOf r o.glen
    (u.chainBad r c o → s.startChain i o r c = u.plainErr i o 0x16) ∧
    (u.chainBad r c o = false → (c.replayErr || o.meetsReload c) → s.startChain i o r c = u.plainErr i o 0x17) ∧
    (u.chainBad r c o = false → (c.replayErr || o.meetsReload c) = false →
      (lost → s.startChain i o r c = (w.1.plainFault o r).plainErr i o 0x17) ∧
      (lost = false → w.1.shiftBad o → s.startChain i o r c = w.1.plainErr i o 0x16) ∧
      (lost = false → w.1.shiftBad o = false → s.startChain i o r c = (if w.2 then w.1.ungate p else w.1).updPlain i fun y => { y with
        running := true, result := w.1.chainOutput o r.stamp.personality, checked := w.2, partner := p }))) ∧
  (∀ (i : Nat) (parity : Bool) (errs : List GlenErr) (o : PlainOp) (r : Request) (s : State), look s.core.plain i = some o → o.running →
    o.isLoad = false → (o.checked → o.compared ∨ o.err.isSome) → look s.core.reqs o.req = some r →
    let all := chainErrs parity errs
    let w := s.glenErrs o.glen r all
    look w.core.plain i = some o →
    (o.err = none → r.latch = none → all.any GlenErr.lost = false →
      exec (.plainChainComplete i parity errs) s = .next ((w.scratchWrite o.glen o.dest o.result).endPlain i o r true)) ∧
    (o.err = none → r.latch = none → all.any GlenErr.lost →
      exec (.plainChainComplete i parity errs) s = .next ((w.plainErr i o 0x17).endPlain i o r true)) ∧
    (o.err.isSome → exec (.plainChainComplete i parity errs) s = .next (w.endPlain i o r true)) ∧
    (o.err = none → r.latch.isSome → exec (.plainChainComplete i parity errs) s = .next (w.endPlain i o r false))) ∧
  (∀ (i : Nat) (parity : Bool) (errs : List GlenErr) (o : PlainOp) (s : State), look s.core.plain i = some o → o.checked →
    o.compared = false → o.err = none → exec (.plainChainComplete i parity errs) s = .next s) ∧
  (∀ (i : Nat) (o : PlainOp) (r : Request) (s : State), look s.core.plain i = some o → o.running → o.checked →
    o.compared = false → o.err = none → look s.core.reqs o.req = some r →
    let here := o.partner = o.glen ∨ o.partner ∈ s.openGlens r.valley r.stamp.bnd
    (here → exec (.checkedChainCompare i none) s = .next (s.updPlain i fun o => { o with compared := true })) ∧
    (∀ lane, here →
      let us : List UnitRef := [{ cls := 1, idx := o.glen }] ++ if o.partner = o.glen then [] else [{ cls := 1, idx := o.partner }]
      let e : FaultEv := {
        source := 0x0A, event := 5, cls := 1, unit := o.glen, subunit := lane, valley := r.valley, ctx := r.ctx
        scope := 1, flags := 4, cmpl := 0x0C, index := o.partner }
      exec (.checkedChainCompare i (some lane)) s =
        .next ((((s.error e us).fenceUnits us).updPlain i fun o => { o with compared := true }).plainErr i o 0x0C)) ∧
    (∀ m, ¬here → exec (.checkedChainCompare i m) s = .next (s.updPlain i fun y => { y with partner := s.partnerOf r o.glen }))) ∧
  (∀ (g i : Nat) (ecc : List Ecc) (errs : List GlenErr) (o : PlainOp) (r : Request) (c : Context) (s : State),
    s.plainHead g = some (i, o) → o.isLoad →
    (∀ x ∈ s.core.plain, x.1 < i → x.2.glen = g → x.2.saved = false → x.2.meets o.laneOff o.bytes = false) →
    look s.core.reqs o.req = some r → s.ctxOf r = some c → c.st = .resident →
    let bad := s.loadBad r c o || (o.fromScratch && s.sharedUnits r.valley r.ctx o.laneOff o.bytes)
    let full := !o.fromScratch && decide (256 ≤ (c.logOn o.glen).length + s.loading r o.glen)
    let held := !o.fromScratch && !s.isRemote o.src && !(s.hostHolds (localOf o.src) (o.bytes * o.laneCount) false).isEmpty
    let f := ((s.eccAll ecc).glenErrs o.glen r errs).loadSource i o r
    (bad → exec (.weightLoadStart (g, ecc, errs)) s = .next (s.plainErr i o 0x16)) ∧
    (bad = false → full → exec (.weightLoadStart (g, ecc, errs)) s = .next (s.plainErr i o 9)) ∧
    (bad = false → full = false → held →
      exec (.weightLoadStart (g, ecc, errs)) s = .next (s.recall (localOf o.src) (o.bytes * o.laneCount) false)) ∧
    (∀ e, bad = false → full = false → held = false → f.2 = .error e →
      exec (.weightLoadStart (g, ecc, errs)) s = .next (f.1.plainErr i o e.1 e.2)) ∧
    (∀ d, bad = false → full = false → held = false → f.2 = .ok d →
      exec (.weightLoadStart (g, ecc, errs)) s = .next (f.1.updPlain i fun o => { o with running := true, result := d }))) ∧
  (∀ (i : Nat) (o : PlainOp) (r : Request) (s : State), look s.core.plain i = some o → o.running → o.isLoad →
    (o.err = none → s.loadReady i) → look s.core.reqs o.req = some r →
    let gone := !o.fromScratch && !s.isRemote o.src &&
      !rangeAll (s.populatedFor r.valley r.stamp.bnd) (localOf o.src) (o.bytes * o.laneCount)
    let drop := fun (t : State) => t.setCore { t.core with remote := t.core.remote.filter fun m => m.2.use ≠ .weights i }
    let t := s.writeLanes o.glen r.ctx o.firstLane o.laneOff o.bytes o.result
    let e : LoadLog := {
      glen := o.glen, src := o.src, laneOff := o.laneOff, bytes := o.bytes, firstLane := o.firstLane, lanes := o.laneCount
      scratch := o.fromScratch }
    (o.err = none → gone = false → r.latch = none →
      exec (.weightLoadComplete i) s = .next ((t.updCtx (ctxKey r.valley r.ctx) fun c => { c.addLog e with
        reload := c.reload.filter fun k => !(k / 64 = o.glen && k % 64 ∈ unitsOf o.laneOff o.bytes && o.bytes % 256 = 0 &&
          o.laneCount = 128) }).endPlain i o r true)) ∧
    (o.err = none → gone → exec (.weightLoadComplete i) s =
      .next ((drop ((s.recordBarred r o.src 0x11).plainErr i o 0x11)).endPlain i o r false)) ∧
    ((o.err.isSome ∨ (gone = false ∧ r.latch.isSome)) →
      exec (.weightLoadComplete i) s = .next ((drop s).endPlain i o r false)))

/-- Streams (R68, R269, R270, R299, R300). Of an accepted request: HWT_STREAM_OPEN of a closed stream below 64, in a set of the valley that is
not being destroyed and from a source that is right, below 16 streams of the valley and 16 pool ranges of the set, adds the ranges that the
set lacks and puts the stream in service; of an open one it answers ST_OK where nothing differs and ST_CONFLICT else; of one that is
closing it waits for the end, one at a time, another being answered ST_BUSY. HWT_STREAM_CLOSE of an open stream waits until all is staged,
of a closing one waits with it and turns a waiting open away with ST_CONFLICT, of a closed one answers ST_OK, and above 63 ST_NO_RESOURCE.
The end of a shutdown answers every close, and then runs the open that waits. Records (R269, R271 to R277, R284, R288, R291, R292). The
record in front of a set, whose slot can be read and whose data the host does not hold, is taken off its source, applied by its operation,
and its code told; a successful overwrite or add is counted; an unknown operation is told 0x16; data that the host holds is recalled first,
and a slot that cannot be read stops its queue. An update that names no table of its stream is 0x16, and one of a row beyond the table
0x13; a fence is 0x16 where it names no table of its stream, an unknown scale mode or no sync object, and else only orders. An engine's
fault refuses the record that it would take of the set with 0x0D, and is recorded with a test. A set's record is taken in a turn of its
valley alone (R478): the turn of a valley with records waiting is its own, another goes to a valley that has some, where any has, and of
each 64 turns a valley owns as many as its HWT_SHARE (which ones, and who is lent the next, is the model's choice, log 105). -/
def Obligations.StreamsAndUpdates : Prop :=
  (∀ (e v : Nat) (s : State), (s.turnOwner (s.hwTurn e).1 = some v → s.recordsWait e v → s.recordTurn e = some v) ∧
    (s.recordTurn e = some v → s.recordsWait e v) ∧ (v < 8 → s.recordsWait e v → s.recordTurn e ≠ none)) ∧
  (∀ (k v : Nat) (s : State), let owned := fun n => ((List.range n).map fun u => ((s.profile u).map (·.hwtShare)).getD 0).sum
    v < 8 → (s.turnOwner k = some v ↔ owned v ≤ k ∧ k < owned (v + 1))) ∧
  (∀ (set : Nat) (s : State) (i : Instr), s.takesRecords set = none →
    i = .hwtRecordOverwrite set ∨ i = .hwtRecordAddDelta set ∨ i = .hwtRecordExport set ∨ i = .hwtRecordFence set →
    exec i s = .next s) ∧
  (∀ (r : Req) (x : TSet) (s : State), Accepted hwtStreamOpen r s → let p := streamPayload r.pay
    (∀ y, look s.core.streams (u8 p 0) = some y → y.st = 0) → s.ownSet r.via.mbx (u8 p 2) = some x →
    x.destroying = false → s.sourceOk r.via.mbx p → let new := (poolRanges p).filter fun e => !x.pools.any fun f => f == e
    u8 p 0 < 64 →
    ((s.core.streams.filter fun y => y.2.st ≠ 0 && y.1 ≠ u8 p 0).filter fun y => y.2.valley = r.via.mbx).length < 16 →
    x.pools.length + new.length ≤ 16 →
    let old := (look s.core.streams (u8 p 0)).getD { valley := r.via.mbx, payload := p }
    let t := (s.consume r.via).updSet (u8 p 2) fun x => { x with pools := x.pools ++ new, free := x.free ++ new.map alignExtent }
    let y : Stream := { old with valley := r.via.mbx, payload := p, st := 1, shut := {} }
    exec (.hwtStreamOpen r.via) s =
      .next ((t.setCore { t.core with streams := put s.core.streams (u8 p 0) y }).respond s r .ok)) ∧
  (∀ (r : Req) (x : Stream) (s : State), Accepted hwtStreamOpen r s → let p := streamPayload r.pay
    look s.core.streams (u8 p 0) = some x →
    (x.st = 1 → exec (.hwtStreamOpen r.via) s = .next ((s.consume r.via).respond s r (if x.payload = p then .ok else .conflict))) ∧
    (2 ≤ x.st → x.shut.held = none → exec (.hwtStreamOpen r.via) s = .next ((((s.consume r.via).updStream (u8 p 0) fun x =>
      { x with shut := { x.shut with held := some (r.deferred, p) } }).deferring r).respond s r .pending)) ∧
    (2 ≤ x.st → x.shut.held.isSome → exec (.hwtStreamOpen r.via) s = .next ((s.consume r.via).respond s r .busy))) ∧
  (∀ (r : Req) (s : State), Accepted hwtStreamClose r s → look s.core.streams (u8 r.pay 0) = none → exec (.hwtStreamClose r.via) s =
    .next ((s.consume r.via).respond s r (if 63 < u8 r.pay 0 then .noResource else .ok))) ∧
  (∀ (r : Req) (x : Stream) (s : State), Accepted hwtStreamClose r s → look s.core.streams (u8 r.pay 0) = some x →
    (x.st = 0 → exec (.hwtStreamClose r.via) s = .next ((s.consume r.via).respond s r .ok)) ∧
    (x.st = 1 → exec (.hwtStreamClose r.via) s = .next ((((s.consume r.via).updStream (u8 r.pay 0) fun x => { x with
      st := 2, shut := { dones := [r.deferred], held := none } }).deferring r).respond s r .pending)) ∧
    (2 ≤ x.st → let t := (((s.consume r.via).updStream (u8 r.pay 0) fun x => { x with
        shut := { dones := x.shut.dones ++ [r.deferred], held := none } }).deferring r).respond s r .pending
      exec (.hwtStreamClose r.via) s = .next (match x.shut.held with
        | some h => t.done h.1 .conflict 0 []
        | none => t))) ∧
  (∀ (n : Nat) (x : Stream) (s : State), look s.core.streams n = some x → x.st = 2 →
    let t := x.shut.dones.foldl (fun t d => t.done d .ok 0 []) (s.updStream n fun x => { x with st := 0, shut := {} })
    (x.shut.held = none → exec (.hwtStreamShutdownDone n) s = .next t) ∧
    (∀ d p o, x.shut.held = some (d, p) → streamField t x.valley p = some o →
      exec (.hwtStreamShutdownDone n) s = .next (t.done d .badField (16 + o) [])) ∧
    (∀ d p, x.shut.held = some (d, p) → streamField t x.valley p = none → let y := t.openStream x.valley p
      exec (.hwtStreamShutdownDone n) s = .next (y.s.done d y.st y.detail []))) ∧
  (∀ (set n e : Nat) (x : Stream) (b : Bytes) (s : State), Taking set n x e b s → let q := s.takeRecord n x b
    let told := fun (v : State × Nat) => (if v.2 = 0 ∧ (recOp b = 1 ∨ recOp b = 2)
      then v.1.updSet x.set fun y => { y with records := y.records + 1 } else v.1).endRecord n x b q.2 v.2
    (recOp b = 1 → exec (.hwtRecordOverwrite set) s = .next (told (q.1.update x e b))) ∧
    (recOp b = 2 → exec (.hwtRecordAddDelta set) s = .next (told (q.1.update x e b))) ∧
    (recOp b = 3 → exec (.hwtRecordExport set) s = .next (told (q.1.exportRows x e b))) ∧
    (recOp b = 4 → q.1.recordTable x b = none → exec (.hwtRecordFence set) s = .next (told (q.1, 0x16))) ∧
    (∀ y t, recOp b = 4 → q.1.recordTable x b = some (y, t) → exec (.hwtRecordFence set) s = .next (told (q.1,
      if (t.scaled ∧ 2 < recMode b) ∨ q.1.syncOk x.valley (q.1.bndNow x.valley) (recSync b) = false then 0x16 else 0))) ∧
    (recOp b = 0 ∨ 4 < recOp b → exec (.hwtRecordOverwrite set) s = .next (told (q.1, 0x16))) ∧
    (e < 4 → exec (.headwaterEngineFault e (some set)) s = .next ((q.1.endRecord n x b q.2 0x0D).error
      { source := 4, event := 6, cls := 7, unit := e } [{ cls := 7, idx := e }]))) ∧
  (∀ (set n e : Nat) (x : Stream) (b : Bytes) (s : State) (i : Instr), s.takesRecords set = some e → s.nextStream set = some (n, x) →
    s.peekRecord x = some b → (i = .hwtRecordOverwrite set ∧ recOp b ∉ [2, 3, 4] ∨ i = .hwtRecordAddDelta set ∧ recOp b = 2 ∨
      i = .hwtRecordExport set ∧ recOp b = 3 ∨ i = .hwtRecordFence set ∧ recOp b = 4) →
    (∀ q, x.source = 0 → look s.core.sqs x.queue = some q → s.slotReadable q = false →
      exec i s = .next (s.slotFails x.valley x.queue q)) ∧
    ((∀ q, x.source = 0 → look s.core.sqs x.queue = some q → s.slotReadable q) → s.dataHeld x b ≠ [] →
      exec i s = .next ((s.dataHeld x b).foldl State.backInvalidate s))) ∧
  (∀ (x : Stream) (e : Nat) (b : Bytes) (s : State), s.recordTable x b = none → s.update x e b = (s, 0x16)) ∧
  (∀ (x : Stream) (e : Nat) (b : Bytes) (y : TSet) (t : Table) (s : State), s.recordTable x b = some (y, t) →
    t.rangeBad b (if t.scaled then recMode b else 0) = false → (t.scaled → recMode b ≤ 2) →
    s.syncOk x.valley (s.bndNow x.valley) (recSync b) → t.rows ≤ recRow b → s.update x e b = (s, 0x13)) ∧
  (∀ (e : Nat) (set : Option Nat) (s : State), e < 4 → (∀ n, set = some n → s.takesRecords n ≠ some e) →
    exec (.headwaterEngineFault e set) s = .next (s.error { source := 4, event := 6, cls := 7, unit := e } [{ cls := 7, idx := e }]))

/-- Epochs (R265, R266, R278, R293, R301, R302). An accepted EPOCH_ADVANCE of a set of the valley that is not being destroyed, to the epoch
after its newest, with no advance under way and the journal it has, where there is room to register it, is answered ST_PENDING, arms its
flip and seals, or first waits for the old epoch to end; with one under way it is answered ST_BUSY. Once everything sealed is staged the
catch-up begins. At its end, where no slot was lost and the journal is there, the entries are written, the moves published, the header
written and the flip made ready; else the advance ends with ST_FAULTED. EPOCH_QUERY answers the set's epochs and changes nothing but that
the request is consumed and the response posted. -/
def Obligations.EpochAdvances : Prop :=
  (∀ (r : Req) (x y : TSet) (t : State) (s : State), Accepted epochAdvance r s →
    s.ownSet r.via.mbx (u8 r.pay 0) = some x → x.destroying = false → x.advance = none →
    u32 r.pay 4 = epochNext x.newest → (x.journal = 0 ∨ x.journal = u64 r.pay 16) →
    (s.consume r.via).register (u8 r.pay 0) (u64 r.pay 16) = some t → look t.core.sets (u8 r.pay 0) = some y →
    exec (.epochAdvance r.via) s = .next (((t.deferring r).respond s r .pending).acceptAdvance (u8 r.pay 0) y
      (some r.deferred) (u32 r.pay 8) false)) ∧
  (∀ (k : Nat) (x : TSet) (d : Option Deferred) (retain : Nat) (own : Bool) (s : State),
    let a : Advance := { phase := 1, done := d, target := epochNext x.newest, retainUs := retain, own }
    let t := (s.updSet k fun x => { x with advance := some a }).arm x.valley (.flip k) none false
    s.acceptAdvance k x d retain own = if x.oldLive then t.expire k else t.seal k) ∧
  (∀ (r : Req) (x : TSet) (s : State), Accepted epochAdvance r s → s.ownSet r.via.mbx (u8 r.pay 0) = some x →
    x.destroying = false → x.advance.isSome → exec (.epochAdvance r.via) s =
      .next ((s.consume r.via).respond s r .busy)) ∧
  (∀ (k : Nat) (x : TSet) (a : Advance) (s : State), look s.core.sets k = some x → x.advance = some a → a.phase = 2 →
    exec (.epochSealStaged k) s = .next (s.updSet k fun x => { x with advance := some { a with phase := 3 } })) ∧
  (∀ (k : Nat) (x : TSet) (a : Advance) (s : State), look s.core.sets k = some x → x.advance = some a → a.phase = 3 →
    let l := s.catchList k x
    ((∀ e ∈ l, s.slotLost x e.1 e.2.1 e.2.2 = false) → (x.journal = 0 ∨ s.journalThere x.journal) →
      let t := (l.foldl (fun t e => t.writeHalf x a.target e) s).updSet k fun x => { x with advance := some { a with phase := 4 } }
      exec (.epochCatchupDone k) s =
        .next (((t.publishMoves k x a.target).catchHeader k x a.target).ready x.valley (.flip k))) ∧
    (((∃ e ∈ l, s.slotLost x e.1 e.2.1 e.2.2) ∨ (x.journal ≠ 0 ∧ s.journalThere x.journal = false)) →
      exec (.epochCatchupDone k) s = .next ((s.endAdvance k .faulted).checkJournals))) ∧
  (∀ (r : Req) (x : TSet) (s : State), Accepted epochQuery r s → s.ownSet r.via.mbx (u8 r.pay 0) = some x →
    exec (.epochQuery r.via) s = .next ((s.consume r.via).respond s r .ok 0 (s.epochBytes (u8 r.pay 0) x)))

/-- Reflow (R280 to R282, R295, R296, R303 to R306). Of an accepted request: REFLOW_START of a table of the valley, neither it nor its set
being destroyed and no session of its kind open, starts a PLAN session with the moves of a clean plan, the journal the set has or room to
register one and its journal written, or a TRACK session, each answered ST_PENDING; with such a session open it is answered ST_BUSY. While
the device serves, the next step copies once the last is published, and asks for the advance it may; a journal that is gone faults the
session. REFLOW_RESUME of a journal whose table is adopted at its epoch, with no session open and the journal the set has or room for it,
opens the session of its moves. REFLOW_ABANDON of a journal abandons its open session, drops one that none has open, freed from its set
where it is registered, with ST_OK; of the valley's one TRACK session that it names ends it, of none answers ST_OK and of several
ST_CONFLICT. REFLOW_QUERY answers the journals and changes nothing but that the request is consumed and the response posted. -/
def Obligations.ReflowSessions : Prop :=
  (∀ (r : Req) (x : TSet) (t : Table) (s : State),
    Accepted (reflowStart (fun r s => planField s r.via.mbx r.pay) startPlan) r s → u8 r.pay 1 ≠ 1 →
    s.reflowTable r.via.mbx r.pay = some (x, t) → x.destroying = false → t.destroying = false →
    (∀ u, s.session (u8 r.pay 0) false = none → (x.journal = 0 ∨ x.journal = u64 r.pay 24) →
      (s.consume r.via).poisoned (u64 r.pay 16) (16 * u32 r.pay 8) = false →
      (s.consume r.via).register (u8 r.pay 0) (u64 r.pay 24) = some u →
      let y : Session := {
        set := u8 r.pay 0, table := u16 r.pay 4, track := false, journal := u64 r.pay 24, journalBytes := u64 r.pay 32
        advance := bit (u8 r.pay 2) 0, stepMoves := u32 r.pay 12
        moves := readPlan (u.bytes (u64 r.pay 16) (16 * u32 r.pay 8)) (u32 r.pay 8), done := some r.deferred }
      exec (.reflowStartPlan r.via) s =
        .next ((((u.setCore { u.core with sessions := u.core.sessions ++ [y] }).putSession y 1).deferring r).respond s r .pending)) ∧
    ((s.session (u8 r.pay 0) false).isSome →
      exec (.reflowStartPlan r.via) s = .next ((s.consume r.via).respond s r .busy))) ∧
  (∀ (r : Req) (x : TSet) (t : Table) (s : State),
    Accepted (reflowStart (fun r s => trackField s r.via.mbx r.pay) startTrack) r s → u8 r.pay 1 = 1 →
    s.reflowTable r.via.mbx r.pay = some (x, t) → x.destroying = false → t.destroying = false →
    let y : Session := {
      set := u8 r.pay 0, table := u16 r.pay 4, track := true, temp := u64 r.pay 40, done := some r.deferred }
    (s.session (u8 r.pay 0) true = none → exec (.reflowStartTrack r.via) s = .next ((((s.consume r.via).setCore
      { s.core with sessions := s.core.sessions ++ [y] }).deferring r).respond s r .pending)) ∧
    ((s.session (u8 r.pay 0) true).isSome →
      exec (.reflowStartTrack r.via) s = .next ((s.consume r.via).respond s r .busy))) ∧
  (∀ (k : Nat) (y : Session) (x : TSet) (t : Table) (s : State), s.session k false = some y → look s.core.sets k = some x →
    s.serving → look s.core.tables (tableKey k y.table) = some t →
    (s.journalThere y.journal → exec (.reflowStepCopied k) s =
      .next ((if y.moves.any fun m => m.st = 1 then s else s.copyStep x.valley y t).ownAdvance k)) ∧
    (s.journalThere y.journal = false → exec (.reflowStepCopied k) s = .next (s.faultSession y))) ∧
  (∀ (r : Req) (h : Bytes) (x : TSet) (t : Table) (u : State) (s : State), Accepted reflowResume r s → let j := u64 r.pay 0
    (s.consume r.via).journalHeader j = some h → s.ownSet r.via.mbx (u8 h 7) = some x →
    s.adoptedTable (u8 h 7) h = some t → x.destroying = false → t.destroying = false →
    s.session (u8 h 7) false = none → x.newest = u32 h 12 → (x.journal = 0 ∨ x.journal = j) →
    (s.consume r.via).register (u8 h 7) j = some u →
    let y : Session := {
      set := u8 h 7, table := u16 h 20, track := false, journal := j, journalBytes := 128 + 32 * u32 h 24, advance := bit (u16 h 22) 0
      stepMoves := u32 h 28, moves := (journalMoves u j (u32 h 24)).map (resumeMove x.newest), done := some r.deferred }
    exec (.reflowResume r.via) s = .next (((((u.setCore { u.core with sessions := u.core.sessions ++ [y] }).putSession y
      1).deferring r).respond s r .pending).endIfDone (u8 h 7))) ∧
  (∀ (r : Req) (s : State), Accepted reflowAbandon r s → let j := u64 r.pay 0
    (j ≠ 0 → bit j 63 = false →
      (∀ n x y, s.journalSet j = some (n, x) → s.session n false = some y →
        exec (.reflowAbandon r.via) s = .next ((((s.consume r.via).deferring r).respond s r .pending).abandon y r.deferred)) ∧
      (∀ n x, s.journalSet j = some (n, x) → s.session n false = none → exec (.reflowAbandon r.via) s =
        .next ((((s.consume r.via).updSet n fun x => { x with journal := 0 }).abandonJournal j).respond s r .ok)) ∧
      (s.journalSet j = none →
        exec (.reflowAbandon r.via) s = .next (((s.consume r.via).abandonJournal j).respond s r .ok))) ∧
    (j = 0 ∨ bit j 63 →
      (s.trackOf r.via.mbx j = [] → exec (.reflowAbandon r.via) s = .next ((s.consume r.via).respond s r .ok)) ∧
      (∀ y, s.trackOf r.via.mbx j = [y] → exec (.reflowAbandon r.via) s =
        .next ((((((s.consume r.via).endSession y).deferring r).respond s r .pending).doneOpt y.done .ok 0 (zeros 16)).done
          r.deferred .ok 0 [])) ∧
      (2 ≤ (s.trackOf r.via.mbx j).length →
        exec (.reflowAbandon r.via) s = .next ((s.consume r.via).respond s r .conflict)))) ∧
  (∀ (r : Req) (s : State), Accepted reflowQuery r s → exec (.reflowQuery r.via) s =
    .next ((s.consume r.via).respond s r .ok 0 (s.reflowBytes (u64 r.pay 0))))

/-- Bringing a Pass link up (R535 to R538, R541, R558). While the device serves peers a backoff ends in training, under the map that the
link starts from. In training or retraining a lock of all lanes but at most one leads to alignment, with a lane that does not lock spared
and announced where that changes the map. 100 ms without a lock end training in a backoff and retraining in the next try, or after three in
the port's failure. The confirmed marker leads to INIT with LINK_INIT and eight ECHOs, or back to UP where the link has been greeted, the
candidates abandoned being counted. A running link that loses the marker aligns again, and 1 ms without it retrains. In INIT a LINK_INIT of
this node's own number gives reason 6, announced once; one of another greets the partner, with the link layer kept where a retraining link
meets the same incarnation and new else. While the port sends, an ECHO is answered. The answer to a known ECHO gives the delay of a running
link and a trip of one in INIT, of which the eighth gives the median. In INIT, greeted, with eight trips, the link comes up where its delay
and its keys allow, else for the reason it waits. A running link sends an ECHO after 1 ms. A shutdown ends when the replay buffer is empty
or 100 us have passed. -/
def Obligations.PassBringUp : Prop :=
  (∀ (p : Nat) (s : State), (s.plink p).st = .backoff → s.servesPeers → let t := s.advanceTo (s.plink p).until_
    exec (.passBackoffExpire p) s = .next (t.updLink p fun l => { l with
      st := .train, since := t.now, map := t.laneStart p l.identity })) ∧
  (∀ (p : Nat) (failed : List Nat) (s : State), (s.plink p).st = .train ∨ (s.plink p).st = .retrain → failed.length ≤ 1 →
    let m := failed.foldl (fun m x => if laneOf m 6 = x then m else spareLane m x) (s.plink p).map
    let t := s.updLink p fun l => { l with st := .align, map := m }
    exec (.passTrainLock p failed) s = .next (if m = (s.plink p).map then t else t.linkEvent p 5 (leBytes 4 m.toNat))) ∧
  (∀ (p : Nat) (s : State), (s.plink p).st = .train → exec (.passTrainTimeout p) s =
    .next ((s.advanceTo ((s.plink p).since + 100000000)).backoff p 2)) ∧
  (∀ (p : Nat) (s : State), (s.plink p).st = .retrain → let t := s.advanceTo ((s.plink p).since + 100000000)
    exec (.passTrainTimeout p) s = .next (if 3 ≤ (s.plink p).failed + 1 then t.linkDown p 4
      else t.updLink p fun l => { l with since := t.now, failed := l.failed + 1 })) ∧
  (∀ (p n : Nat) (s : State), (s.plink p).st = .align →
    let t := s.updLink p fun l => { l with counts := { l.counts with falseCandidates := l.counts.falseCandidates + n } }
    exec (.passAlignLock p n) s = .next (if (s.plink p).greeted then t.noteEdges (t.updLink p fun l => { l with st := .up })
      else t.updLink p fun l => { l with
        st := .init, echoes := [], trips := []
        control := { kind := 0x40, msg := t.linkInit p } ::
          (List.range 8).map fun i => { kind := 0x41, msg := leBytes 4 i ++ zeros 4 } })) ∧
  (∀ (p : Nat) (s : State), (s.plink p).st = .up → exec (.passMarkerLoss p) s =
    .next (s.noteEdges (s.updLink p fun l => { l with st := .align, since := s.now }))) ∧
  (∀ (p : Nat) (s : State), (s.plink p).st = .align → (s.plink p).greeted → exec (.passAlignTimeout p) s =
    .next ((s.advanceTo ((s.plink p).since + 1000000)).retrain p)) ∧
  (∀ (p : Nat) (m : Bytes) (s : State), (s.plink p).st = .init → u8 m 0 = s.dev.nodeId → exec (.passLinkInitReceive p m) s =
    .next (if (s.plink p).reason = 6 then s else (s.updLink p fun l => { l with reason := 6 }).linkEvent p 7 [])) ∧
  (∀ (p : Nat) (m : Bytes) (s : State), (s.plink p).st = .init → u8 m 0 ≠ s.dev.nodeId →
    let same := ((s.plink p).partner.map fun (q : Partner) => q.incarnation == u32 m 4).getD false
    let l := if (s.plink p).again && same then s.plink p else (s.plink p).fresh
    exec (.passLinkInitReceive p m) s = .next ((s.updLink p fun _ => { l with
      partner := some { node := u8 m 0, port := u8 m 1, incarnation := u32 m 4, rootHops := u8 m 2, schedGen := u32 m 8 }
      greeted := true, reason := if l.reason = 6 then 0 else l.reason }).tryUp p)) ∧
  (∀ (p n : Nat) (m : Bytes) (s : State), let t := s.advanceTo n
    (t.plink p).sends → exec (.passEchoReceive p m n) s = .next (t.updLink p fun l => { l with
      control := l.control ++ [{ kind := 0x42, msg := slice m 0 4, arrived := some t.now }] })) ∧
  (∀ (p n sent : Nat) (m : Bytes) (s : State), let t := s.advanceTo n
    let u := t.updLink p fun l => { l with echoes := del l.echoes (u32 m 0) }
    let half := (t.now - sent - u32 m 4) / 2
    look (t.plink p).echoes (u32 m 0) = some sent →
    ((t.plink p).st = .up → exec (.passEchoAnsReceive p m n) s = .next (u.updLink p fun l => { l with delay := half })) ∧
    ((t.plink p).st = .init → (t.plink p).trips.length < 8 → exec (.passEchoAnsReceive p m n) s =
      .next ((u.updLink p fun l => { l with
        trips := l.trips ++ [half]
        delay := if (l.trips ++ [half]).length = 8 then median8 (l.trips ++ [half]) else l.delay }).tryUp p))) ∧
  (∀ (p : Nat) (s : State), (s.plink p).st = .init → (s.plink p).greeted → 8 ≤ (s.plink p).trips.length → s.servesPeers →
    let t := s.noteEdges (s.updLink p fun l => { l with
      st := .up, reason := 0, again := false, failed := 0, lastEcho := s.now, genRuns := 16
      replaying := l.unacked, replayAt := s.now, timerRuns := 0 })
    ((s.plink p).hold = none → s.tryUp p = if (s.plink p).again then t else t.linkEvent p 1 []) ∧
    (∀ x, (s.plink p).hold = some x → s.tryUp p = s.updLink p fun l => { l with reason := x })) ∧
  (∀ (p : Nat) (s : State), (s.plink p).st = .up → let t := s.advanceTo ((s.plink p).lastEcho + 1000000)
    exec (.passEchoTimer p) s = .next (t.updLink p fun l => { l with lastEcho := t.now, control := l.control ++
      [{ kind := 0x41, msg := leBytes 4 (t.now % 2 ^ 32) ++ zeros 4 }] })) ∧
  (∀ (p : Nat) (s : State), (s.plink p).st = .shuttingDown → exec (.passDisableDrained p) s =
    .next ((if (s.plink p).unacked.isEmpty then s else s.advanceTo ((s.plink p).since + 100000)).endLink p false))

/-- The Pass messages, of an accepted request (R67, R68, R555, R556, R558, R559, R567 to R571). PASS_LINK_ENABLE starts a disabled link with
ST_OK; of a running or starting one it answers ST_OK where its flags are the same and ST_CONFLICT else, of a retired one ST_FAULTED, and of
one that is shutting down it waits for the end, one at a time, another being answered ST_BUSY. PASS_LINK_DISABLE of a running or starting
link shuts it down, its packets taking another way, at once where it is forced; of one that is shutting down it waits too, turning a
waiting enable away with ST_CONFLICT, and of a disabled or retired one it answers ST_OK. A schedule and a route table of a newer generation
wait for their round with ST_PENDING, the schedule where it serves every valley in use; a second one meanwhile is answered ST_BUSY, and an
older generation ST_STALE. PASS_KEY_SET puts a key in both directions of a phase that is not in use, or clears it there, and may turn the
sender to it. PASS_LINK_QUERY answers a link, or the fabric, and changes nothing but that the request is consumed and the response
posted. -/
def Obligations.PassMessages : Prop :=
  (∀ (r : Req) (s : State), Accepted passLinkEnable r s → let l := s.plink (u8 r.pay 0)
    (l.st = .disabled → exec (.passLinkEnable r.via) s = .next (((s.consume r.via).enableLink r.pay).respond s r .ok)) ∧
    (l.st = .retired → exec (.passLinkEnable r.via) s = .next ((s.consume r.via).respond s r .faulted)) ∧
    (l.st = .shuttingDown → l.shut.held = none → exec (.passLinkEnable r.via) s =
      .next ((((s.consume r.via).updLink (u8 r.pay 0) fun l => { l with
        shut := { l.shut with held := some (r.deferred, r.pay) } }).deferring r).respond s r .pending)) ∧
    (l.st = .shuttingDown → l.shut.held.isSome →
      exec (.passLinkEnable r.via) s = .next ((s.consume r.via).respond s r .busy)) ∧
    (l.st ∉ [.disabled, .retired, .shuttingDown] → exec (.passLinkEnable r.via) s = .next ((s.consume r.via).respond s r
      (if l.encrypt = bit (u8 r.pay 1) 0 ∧ l.identity = bit (u8 r.pay 1) 1 then .ok else .conflict)))) ∧
  (∀ (r : Req) (s : State), Accepted passLinkDisable r s → let p := u8 r.pay 0
    (s.plink p).st ∉ [.disabled, .retired, .shuttingDown] →
    let t := s.consume r.via
    let t := (t.noteEdges (t.updLink p fun l => { l with
      st := .shuttingDown, since := s.now, notice := (s.plink p).wasUp
      shut := { dones := [r.deferred], held := none } })).reroute p
    let t := (t.deferring r).respond s r .pending
    exec (.passLinkDisable r.via) s = .next (if bit (u8 r.pay 1) 0 then t.endLink p true else t)) ∧
  (∀ (r : Req) (s : State), Accepted passLinkDisable r s → let p := u8 r.pay 0
    let l := s.plink p
    l.st = .shuttingDown →
    let t := (s.consume r.via).updLink p fun l => { l with shut := { dones := l.shut.dones ++ [r.deferred], held := none } }
    let t := (t.deferring r).respond s r .pending
    let t := match l.shut.held with
      | some h => t.done h.1 .conflict 0 []
      | none => t
    exec (.passLinkDisable r.via) s = .next (if bit (u8 r.pay 1) 0 then t.endLink p true else t)) ∧
  (∀ (r : Req) (s : State), Accepted passLinkDisable r s → (s.plink (u8 r.pay 0)).st ∈ [LinkState.disabled, .retired] →
    exec (.passLinkDisable r.via) s = .next ((s.consume r.via).respond s r .ok)) ∧
  (∀ (r : Req) (s : State), Accepted passLinkQuery r s → exec (.passLinkQuery r.via) s =
    .next ((s.consume r.via).respond s r .ok 0 (if u8 r.pay 0 = 0xFF then s.fabricBytes else s.linkBytes (u8 r.pay 0)))) ∧
  (∀ (r : Req) (s : State), Accepted passScheduleSet r s →
    let c : FabricChange := { gen := u32 r.pay 0, round := u64 r.pay 8, bytes := slice r.pay 16 8, done := r.deferred }
    (s.fabric.sched = none → s.fabric.schedGen < u32 r.pay 0 → s.unscheduled (slice r.pay 16 8) = false →
      exec (.passScheduleSet r.via) s = .next (({ s.consume r.via with
        fabric := { s.fabric with sched := some c } }.deferring r).respond s r .pending)) ∧
    (s.fabric.sched.isSome → exec (.passScheduleSet r.via) s = .next ((s.consume r.via).respond s r .busy)) ∧
    (s.fabric.sched = none → u32 r.pay 0 ≤ s.fabric.schedGen →
      exec (.passScheduleSet r.via) s = .next ((s.consume r.via).respond s r .stale))) ∧
  (∀ (r : Req) (s : State), Accepted passRouteSet r s →
    let c : FabricChange := { gen := u32 r.pay 0, round := u64 r.pay 4, bytes := slice r.pay 12 260, done := r.deferred }
    (s.fabric.routing = none → s.fabric.routeGen < u32 r.pay 0 → exec (.passRouteSet r.via) s = .next (({ s.consume r.via with
      fabric := { s.fabric with routing := some c } }.deferring r).respond s r .pending)) ∧
    (s.fabric.routing.isSome → exec (.passRouteSet r.via) s = .next ((s.consume r.via).respond s r .busy)) ∧
    (s.fabric.routing = none → u32 r.pay 0 ≤ s.fabric.routeGen →
      exec (.passRouteSet r.via) s = .next ((s.consume r.via).respond s r .stale))) ∧
  (∀ (r : Req) (s : State), Accepted passKeySet r s → (s.plink (u8 r.pay 0)).inUse (u8 r.pay 1) = false →
    (bit (u8 r.pay 2) 1 = false ∨ bit (u8 r.pay 2) 0 = false) → let k : PassKey := { salt := slice r.pay 4 4, key := slice r.pay 8 32 }
    let set := fun (m : TMap PassKey) => if bit (u8 r.pay 2) 1 then del m (u8 r.pay 1) else put m (u8 r.pay 1) k
    exec (.passKeySet r.via) s = .next ((((s.consume r.via).updLink (u8 r.pay 0) fun l => { l with
      txKeys := set l.txKeys, rxKeys := set l.rxKeys
      txPhase := if bit (u8 r.pay 2) 0 then u8 r.pay 1 else l.txPhase }).respond s r .ok).tryUp (u8 r.pay 0)))

/-- Frames, routes and rounds (R522, R529 to R531, R534, R539 to R545, R549, R554 to R556, R561). A packet that comes in by a running port
goes on: it ends here, is undeliverable over the hop limit or without a way, and else joins the queue of its way out; one held 10 ms at the
head of a queue is undeliverable. A frame that a receiving port takes is counted: one that does not authenticate counts as failed; one
without a valid header gives the flits of its sound codewords only; DOWN_NOTICE takes the link down, but for one that is shutting down; and
else the header acknowledges, the frame disciplines time and gives its flits. An error in the receive buffer is recorded with a test, and on
a running link a lane that errs is spared. A port that sends makes its next frame; an error in the replay buffer takes it down and one in
the routing state is the device's. The replay timer of a running or ending link with something unacknowledged replays, and on a running one
retrains at the fifth in a row. A round of a fabric ends with the correction of time by the mean of its samples, or out of step without a
parent, and ages the schedules; at the next schedule boundary, or at once where one has been passed, a waiting schedule whose round has come takes effect and a steady node enters the
schedule; a waiting route table takes effect at its round. -/
def Obligations.PassFrames : Prop :=
  (∀ (p dest src tag cls hops kind : Nat) (poison : Bool) (m : Bytes) (s : State), s.passUp p →
    exec (.passPacketForward p dest src tag cls hops kind poison m) s = .next ((s.routePacket (some p)
      { dest := dest % 256, src := src % 256, tag := tag % 8, kind, poison, hops, cls, msg := m }).flushOutbox)) ∧
  (∀ (p : Nat) (q : Queued) (qs : List Queued) (s : State), (s.plink p).queue = q :: qs →
    exec (.passPacketHoldTimeout p) s = .next (((((s.advanceTo (q.since + 10000000)).updLink p fun l => { l with
      queue := l.queue.tail }).giveBack q (flitCount q.packet.msg.length)).undeliverable q.packet).flushOutbox)) ∧
  (∀ (q : Queued) (s : State), let back := s.giveBack q (flitCount q.packet.msg.length)
    (q.packet.dest = s.dev.nodeId → s.routeQueued q = back.terminate q.packet) ∧
    (q.packet.dest ≠ s.dev.nodeId → (s.fabric.hopLimit < q.packet.hops + 1 ∨ s.egress q.packet.dest = none) →
      s.routeQueued q = back.undeliverable q.packet) ∧
    (∀ p, q.packet.dest ≠ s.dev.nodeId → q.packet.hops + 1 ≤ s.fabric.hopLimit → s.egress q.packet.dest = some p →
      s.routeQueued q = s.updLink p fun l => { l with queue := l.queue ++ [{ q with since := s.now, sent := 0 }] })) ∧
  (∀ (p n c : Nat) (d : Bytes) (failed : List Nat) (lane buffer : Option Nat) (s : State), let t := s.advanceTo n
    let u := t.updLink p fun l => { l with counts := { l.counts with
      fecCorrected := l.counts.fecCorrected + c, fecFailed := l.counts.fecFailed + failed.length } }
    let fin := fun (v : State) =>
      let v : State := match buffer with
        | some k => v.error { source := 6, event := 2, cls := 6, unit := p, scope := 1, index := k, cmpl := 0x17 } [{ cls := 6, idx := p }]
        | none => v
      let v : State := match lane with
        | some x => if (v.plink p).st = .up then v.laneErrs p x else v
        | none => v
      (v.count (156 + p) ((v.plink p).counts.rx - (t.plink p).counts.rx)).flushOutbox
    (t.plink p).receives →
    ((u.plink p).decrypt (fit 4160 d) = none →
      exec (.passFrameReceive p n d c failed (lane, buffer)) s = .next (fin (u.authFailed p))) ∧
    (∀ l f, (u.plink p).decrypt (fit 4160 d) = some (l, f) → let w := u.updLink p fun _ => l
      (headerValid f failed = false → exec (.passFrameReceive p n d c failed (lane, buffer)) s = .next (fin ((w.updLink p fun l =>
        { l with counts := { l.counts with discarded := l.counts.discarded + 1 } }).flits p f failed buffer))) ∧
      (headerValid f failed → bit (u16 f 16) 6 → exec (.passFrameReceive p n d c failed (lane, buffer)) s =
        .next (fin (if (w.plink p).st = .shuttingDown then w else w.linkDown p 8))) ∧
      (headerValid f failed → bit (u16 f 16) 6 = false → exec (.passFrameReceive p n d c failed (lane, buffer)) s =
        .next (fin (((w.updLink p fun l => l.header f w.now).sampleTime p f).flits p f failed buffer))))) ∧
  (∀ (p n c : Nat) (d : Bytes) (failed : List Nat) (lane buffer : Option Nat) (s : State), let t := s.advanceTo n
    (t.plink p).receives = false → exec (.passFrameReceive p n d c failed (lane, buffer)) s = .next t) ∧
  (∀ (p n : Nat) (buf : Bool) (s : State), let t := (s.advanceTo n).flushOutbox
    ((t.plink p).sends → exec (.passFrameTransmit p n buf false) s = .next (if buf then t.linkDown p 9 else t.transmit p)) ∧
    ((t.plink p).sends →
      exec (.passFrameTransmit p n buf true) s = .next (t.deviceFault { source := 6, event := 2, cls := 6, unit := p })) ∧
    (∀ r, (t.plink p).sends = false → exec (.passFrameTransmit p n buf r) s = .next t)) ∧
  (∀ (p : Nat) (s : State), ((s.plink p).st = .up ∨ (s.plink p).st = .shuttingDown) → (s.plink p).unacked ≠ [] →
    let t := s.advanceTo ((s.plink p).replayAt + (s.plink p).replayNs)
    exec (.passReplayTimer p) s = .next (if 4 ≤ (s.plink p).timerRuns ∧ (s.plink p).st = .up then t.retrain p
      else t.updLink p fun l => { (l.replay t.now) with timerRuns := (s.plink p).timerRuns + 1 })) ∧
  (∀ s : State, s.fabric.topology ≠ 0 → exec .passRoundTick s = .next ((s.toRound 1).endRound.ageSchedules)) ∧
  (∀ s : State, (s.isRoot → s.endRound = s) ∧
    (s.isRoot = false → s.parent = none → s.endRound =
      { s with fabric := { s.fabric with step := 3, inRun := 0, outRun := 0, sum := 0, samples := 0 } }) ∧
    (s.isRoot = false → s.parent.isSome → s.fabric.samples ≠ 0 →
      let t : State := { s with fabric := (s.fabric.correct s.inStep (s.fabric.sum / s.fabric.samples)).runs }
      s.endRound = if t.fabric.step = 1 ∧ 16 ≤ t.fabric.outRun
        then ({ t with fabric := { t.fabric with step := 2 } } : State).event 6 3 0xFFFF [] none else t)) ∧
  (∀ s : State, exec .passScheduleBoundary s = .next s.toBoundary.takeSchedule.enterSchedule) ∧
  (∀ s : State, let here := s.round / 1024
    let t := s.advanceTo (s.now + ceilDiv ((here + 1) * 1024 * roundPs - s.fabricPs) 1000)
    (here ≤ s.fabric.boundary → s.toBoundary = { t with fabric := { t.fabric with boundary := t.round / 1024 } }) ∧
    (s.fabric.boundary < here → s.toBoundary = { s with fabric := { s.fabric with boundary := here } })) ∧
  (∀ (c : FabricChange) (s : State), s.fabric.sched = some c → c.round ≤ s.round → s.takeSchedule =
    { s with fabric := { s.fabric with schedGen := c.gen, windows := c.bytes, sched := none }
             links := s.links.map fun (e : Nat × PassLink) => (e.1, { e.2 with genRuns := 0 }) }.done c.done .ok 0 []) ∧
  (∀ s : State, s.isRoot = false → 2 ≤ s.fabric.step → s.parent.isSome → 16 ≤ s.fabric.inRun → s.enterSchedule =
    ({ s with fabric := { s.fabric with step := 1 } } : State).event 6 4 0xFFFF [] none) ∧
  (∀ (c : FabricChange) (s : State), s.fabric.routing = some c →
    let t := s.advanceTo (s.now + ceilDiv (c.round * roundPs - s.fabricPs) 1000)
    exec .passRouteEffective s = .next ({ t with fabric := { t.fabric with
      routeGen := c.gen, hopLimit := u8 c.bytes 0, routes := some (c.bytes.drop 4), routing := none } }.done c.done .ok 0 []))

/-- Requests of peers while the device serves them, and answers to this node (R136, R137, R525, R546, R547). A READ of 1 to 4,096 bytes in
one region or scratch group of its valley is answered with its data, or with POISON and a record where they are poisoned; a WRITE there
writes through, or poisons where its packet is, and is answered; a range outside is answered ADDRESS with a record, and a malformed request
MALFORMED. A PUSH to an open stream that takes records of the node joins its inbox; to another it is answered 0x16, and a short one MALFORMED.
An answer goes to the operation of its type, tag and node: data to what asked for them, a lookup's and a signal's as their rules say, a
write's settles its request, and a poisoned one fails it with 0x17; an ERROR fails its operation with the code that its own gives; one that
matches nothing changes nothing. -/
def Obligations.PassRequests : Prop :=
  (∀ (src tag : Nat) (m : Bytes) (s : State), s.servesPeers → accessShort m false = false → s.peerRange tag (u64 m 8) (u32 m 4) →
    let a := u64 m 8
    let t := s.fetch tag a (u32 m 4)
    let p : Packet := { dest := src, src := t.dev.nodeId, tag, kind := 6, msg := leBytes 4 (u32 m 0) ++ zeros 4 ++ t.bytes a (u32 m 4) }
    let e : FaultEv := { source := 6, event := 3, valley := tag, scope := 1, addr := a, index := src }
    (s.poisoned a (u32 m 4) = false → exec (.passReadRequest src tag m) s = .next (t.send p)) ∧
    (∀ u, s.poisoned a (u32 m 4) → memUnit a = some u → exec (.passReadRequest src tag m) s =
      .next ((s.error { e with cls := u.cls, unit := u.idx } [u]).sendError src tag 5 3 m)) ∧
    (s.poisoned a (u32 m 4) → memUnit a = none →
      exec (.passReadRequest src tag m) s = .next ((s.error e []).sendError src tag 5 3 m))) ∧
  (∀ (src tag : Nat) (m : Bytes) (b : Bool) (s : State), s.servesPeers → accessShort m true = false →
    s.peerRange tag (u64 m 8) (u32 m 4) →
    let t := if b then s.poison (u64 m 8) (u32 m 4) else s.writeThrough (u64 m 8) (slice m 16 (u32 m 4))
    let p : Packet := { dest := src, src := t.dev.nodeId, tag, kind := 8, msg := leBytes 4 (u32 m 0) ++ zeros 4 }
    exec (.passWriteRequest src tag m b) s = .next (t.send p)) ∧
  (∀ (src tag : Nat) (m : Bytes) (b : Bool) (s : State), s.servesPeers →
    let e : FaultEv := { source := 6, event := 8, valley := tag, scope := 1, addr := u64 m 8, index := src }
    (accessShort m false → exec (.passReadRequest src tag m) s = .next (s.sendError src tag 5 4 m)) ∧
    (accessShort m true → exec (.passWriteRequest src tag m b) s = .next (s.sendError src tag 7 4 m)) ∧
    (m.length < 132 → exec (.passPushRequest src tag m) s = .next (s.sendError src tag 9 4 m)) ∧
    (accessShort m false = false → s.peerRange tag (u64 m 8) (u32 m 4) = false →
      exec (.passReadRequest src tag m) s = .next ((s.error e []).sendError src tag 5 1 m)) ∧
    (accessShort m true = false → s.peerRange tag (u64 m 8) (u32 m 4) = false →
      exec (.passWriteRequest src tag m b) s = .next ((s.error e []).sendError src tag 7 1 m))) ∧
  (∀ (src tag : Nat) (m : Bytes) (s : State), s.servesPeers → 132 ≤ m.length →
    (s.pushOk src tag (u8 m 0) → exec (.passPushRequest src tag m) s = .next (s.updStream (u8 m 0) fun x => { x with
      inbox := x.inbox ++ [{ bytes := slice m 4 128, node := src, tag }] })) ∧
    (s.pushOk src tag (u8 m 0) = false → exec (.passPushRequest src tag m) s = .next (s.send {
      dest := src, src := s.dev.nodeId, tag, kind := 0x0A, msg := leBytes 1 (u8 m 0) ++ leBytes 1 0x16 ++ zeros 2 }))) ∧
  (∀ (src kind i : Nat) (m : Bytes) (x : Remote) (s : State), kind ∈ [2, 4, 6, 8] →
    s.remoteOf src (answerOf kind m).2 [(answerOf kind m).1] = some (i, x) →
    exec (.passAnswerReceive src kind m true) s = .next ((s.dropRemote i).remoteFails x 0x17) ∧
    (kind = 8 → exec (.passAnswerReceive src kind m false) s = .next ((s.dropRemote i).settle x.req)) ∧
    (kind = 6 → exec (.passAnswerReceive src kind m false) s =
      .next ((s.dropRemote i).readData x (fit x.bytes (slice m 8 x.bytes)))) ∧
    (kind = 4 → exec (.passAnswerReceive src kind m false) s = exec (.remoteSignalAnswer src (u16 m 0) (u16 m 2)) s) ∧
    (kind = 2 → exec (.passAnswerReceive src kind m false) s = exec (.remoteLookupResponse src m) s)) ∧
  (∀ (src : Nat) (m : Bytes) (s : State), let k := u8 m 4
    let tag := if k = 1 ∨ k = 3 then u16 m 0 else u32 m 0
    let hit := s.core.remote.find? fun x => x.2.kind = k && x.2.tag = tag && (u8 m 5 = 2 || x.2.node = src)
    (∀ i x, hit = some (i, x) →
      exec (.passAnswerReceive src 0x0B m false) s = .next ((s.dropRemote i).remoteFails x (errorCode (u8 m 5)))) ∧
    (hit = none → exec (.passAnswerReceive src 0x0B m false) s = .next s)) ∧
  (∀ (src kind : Nat) (m : Bytes) (b : Bool) (s : State), kind ≠ 0x0B →
    s.remoteOf src (answerOf kind m).2 [(answerOf kind m).1] = none → exec (.passAnswerReceive src kind m b) s = .next s)

/-- The host link of a part that is not standalone (R575, R576, R595, R762). A link down takes the link's and the function's configuration,
what waited for the host, and the host's lines and queues with it. A link up has CXL in the one form of R575 alone, enabled once the device
has served; it loses the host's lines where CXL was enabled before and is not active now. While BAR0 answers and the link is up an unmasked
vector below 2,048 sends what waits for it; with firmware and the link up D3 holds back and D0 sends what it held. HOST_LINK_QUERY answers
the link and the ports and changes nothing but that the request is consumed and the response posted. The Ethernet ports (R64, R80, R581,
R593, R598, R600, R601). A running port that goes down is announced and takes its queue pairs, and the pool node's, with it; a port of a
part that has them comes up under a SPEED that is set once the network is served; accepted NET_PORT_SET sets a port, taken down first where
SPEED or MTU change. On a running port, with firmware, ARP, neighbour discovery and echoes to the port's own address, not zero, are answered,
those to another address change nothing, and a packet of another kind is dropped and counted. -/
def Obligations.HostAndEthernetLinks : Prop :=
  (∀ s : State, s.link.standalone = false → s.link.up →
    let t : State := { s with
      link := { s.link with
        up := false, gts := 0, lanes := 0, cxlActive := false, cxlEnabled := false, decoder := false
        unmasked := [], pendingVec := [], dlDowns := s.link.dlDowns + 1 }
      pwr := { s.pwr with d3hot := false } }
    exec .hostLinkDlDown s = .next (t.forgetHost.releaseSyncs.hostLost.event 7 6 0xFFFF [] none).queuesFail) ∧
  (∀ (gts lanes : Nat) (cxl flit : Bool) (s : State), s.link.standalone = false →
    let a : Bool := cxl && flit && gts = 64 && (lanes = 8 || lanes = 16)
    let t : State := { s with link := { s.link with
      up := true, gts := gts, lanes := lanes, cxlActive := a
      cxlEnabled := a && s.dev.everReady && s.dev.st != .configRejected } }
    exec (.hostLinkUp gts lanes cxl flit) s = .next (if s.link.cxlEnabled && !a then t.forgetHost.releaseSyncs.hostLost else t)) ∧
  (∀ (v : Nat) (s : State), s.bar0 → s.link.up → v < 2048 → let l := insertSorted v s.link.unmasked
    exec (.msixVectorUnmask v) s = .next ((s.link.pendingVec.filter fun x => x ∈ l).foldl (fun t x => t.emit (.msix x))
      { s with link := { s.link with unmasked := l, pendingVec := s.link.pendingVec.filter fun x => !(x ∈ l) } })) ∧
  (∀ s : State, s.link.standalone = false → s.fwRun → s.link.up →
    exec (.pcieDStateChange true) s = .next { s with pwr := { s.pwr with d3hot := true } } ∧
    exec (.pcieDStateChange false) s = .next { s with pwr := { s.pwr with d3hot := false } }.sendPending) ∧
  (∀ (r : Req) (s : State), Accepted hostLinkQuery r s → ∃ p, exec (.hostLinkQuery r.via) s =
    .next ((s.consume r.via).respond s r .ok 0 p) ∧ p.length = 96 ∧ u8 p 0 = b2n s.link.standalone ∧ bit (u8 p 1) 0 = s.link.up ∧
      bit (u8 p 1) 1 = s.link.cxlActive ∧ bit (u8 p 1) 2 = s.link.decoder ∧
      bit (u8 p 1) 3 = (s.pool.cfg.isSome && !s.pool.qpErr) ∧ bit (u8 p 40) 0 = (s.ethPort 0).up ∧ bit (u8 p 68) 0 = (s.ethPort 1).up) ∧
  (∀ (p : Nat) (s : State), (s.ethPort p).up →
    let t := (((s.core.eps.filter fun e => e.2.port = p && e.2.rdma).map (·.1)).foldl State.qpFails
      ((s.updEth p fun e => { e with up := false }).event 7 5 p [] none))
    exec (.ethPortDown p) s = .next (if ∃ c, t.pool.cfg = some c ∧ u8 c 0 = p then t.poolFails else t)) ∧
  (∀ (p : Nat) (s : State), p < 2 → s.hasEth → (s.ethPort p).up = false → u8 (s.ethPort p).cfg 1 ≠ 0 → s.networkServes →
    exec (.ethPortUp p) s = .next (s.updEth p fun e => { e with up := true })) ∧
  (∀ (r : Req) (s : State), Accepted netPortSet r s → let t := s.consume r.via
    exec (.netPortSet r.via) s = .next (((if u8 (s.ethPort (u8 r.pay 0)).cfg 1 ≠ u8 r.pay 1 ∨
        u16 (s.ethPort (u8 r.pay 0)).cfg 8 ≠ u16 r.pay 8 then t.ethDown (u8 r.pay 0) else t).updEth (u8 r.pay 0)
      fun e => { e with cfg := r.pay }).respond s r .ok)) ∧
  (∀ (p k : Nat) (target d : Bytes) (s : State), (s.ethPort p).up → s.firmwareRuns →
    let own := if k % 2 = 0 then slice (s.ethPort p).cfg 12 4 else slice (s.ethPort p).cfg 24 16
    (4 ≤ k → exec (.ethControlPacket p k target d) s = .next (s.ethDrop p)) ∧
    (k < 4 → leNat own ≠ 0 → target = own → exec (.ethControlPacket p k target d) s =
      .next (s.emit (.ethReply p k (if k < 2 then s.mac p else d)))) ∧
    (k < 4 → (leNat own = 0 ∨ target ≠ own) → exec (.ethControlPacket p k target d) s = .next s))

/-- Network endpoints (R580, R594, R597, R598, R602, R603). Of an accepted request: NET_ENDPOINT_CREATE of a number that is free, in a
context that is there and has request areas where it takes requests, on a running port, puts the endpoint there: a UDP one on a port number
that may be and is not used, answered with zeros, and an RDMA one with numbers of the device's own choice (free values of the model, log 4).
NET_ENDPOINT_DESTROY of an endpoint that no stream in service uses drops what it buffered and is answered once its last response is gone; a
second one meanwhile is answered ST_BUSY, one of an endpoint in use ST_CONFLICT, and of none ST_OK. A queue pair in error drops its buffer; a
congestion notification halves its rate, or the pool node's, which recovers 5 % of the line rate after 55 us up to the whole. The pool node
(R605). An error of its queue pair is announced and puts every ring in ERROR; accepted POOL_NODE_SET of a standalone part without rings
clears it, or sets it with numbers of the device's own choice (free values as above), and of any other part is answered ST_CONFLICT. -/
def Obligations.NetworkEndpoints : Prop :=
  (∀ (r : Req) (c : Context) (s : State), Accepted netEndpointCreate r s →
    look s.core.ctxs (ctxKey r.via.mbx (u16 r.pay 4)) = some c → look s.core.eps (u16 r.pay 0) = none →
    (s.ethPort (u8 r.pay 3)).up → (u8 r.pay 2 < 2 → c.raCount ≠ 0) →
    let t := (s.consume r.via).setCore { s.core with eps := put s.core.eps (u16 r.pay 0) { create := r.pay } }
    (u8 r.pay 2 % 2 = 0 → udpBad (u16 r.pay 6) = false → s.udpUsed (u8 r.pay 3) (u16 r.pay 6) = false →
      exec (.netEndpointCreate r.via) s = .next (t.respond s r .ok 0 (zeros 8))) ∧
    (u8 r.pay 2 % 2 = 1 → ∃ b, b.length = 8 ∧
      exec (.netEndpointCreate r.via) s = .next ({ t with free := s.free + 2 }.respond s r .ok 0 b))) ∧
  (∀ (r : Req) (e : Endpoint) (s : State), Accepted netEndpointDestroy r s → look s.core.eps (u16 r.pay 0) = some e →
    let used := s.core.streams.any fun x => x.2.st ≠ 0 && x.2.source = 2 && x.2.queue = u16 r.pay 0
    (used = false → e.closing = none → exec (.netEndpointDestroy r.via) s =
      .next (((((s.consume r.via).updEp (u16 r.pay 0) fun e => { e with
        buf := [], readySince := none, closing := some r.deferred }).deferring r).respond s r .pending).closeEp (u16 r.pay 0))) ∧
    (used = false → e.closing.isSome → exec (.netEndpointDestroy r.via) s = .next ((s.consume r.via).respond s r .busy)) ∧
    (used → exec (.netEndpointDestroy r.via) s = .next ((s.consume r.via).respond s r .conflict))) ∧
  (∀ (r : Req) (s : State), Accepted netEndpointDestroy r s → look s.core.eps (u16 r.pay 0) = none →
    exec (.netEndpointDestroy r.via) s = .next ((s.consume r.via).respond s r .ok)) ∧
  (∀ (n : Nat) (e : Endpoint) (s : State), look s.core.eps n = some e → e.rdma → let t := s.advanceTo (e.rateAt + 55000)
    (e.err = false → exec (.queuePairError n) s =
      .next (s.updEp n fun e => { e with err := true, buf := [], readySince := none })) ∧
    exec (.roceCnpReceive (some n)) s = .next (s.updEp n fun e => { e with rate := e.rate / 2, rateAt := s.now }) ∧
    (e.rate < 1000000 → exec (.roceRateRecover (some n)) s =
      .next (t.updEp n fun e => { e with rate := min 1000000 (e.rate + 50000), rateAt := t.now })) ∧
    (1000000 ≤ e.rate → exec (.roceRateRecover (some n)) s = .next s)) ∧
  (∀ s : State, let t := s.advanceTo (s.pool.rateAt + 55000)
    exec (.roceCnpReceive none) s = .next { s with pool := { s.pool with rate := s.pool.rate / 2, rateAt := s.now } } ∧
    (s.pool.rate < 1000000 → exec (.roceRateRecover none) s =
      .next { t with pool := { t.pool with rate := min 1000000 (t.pool.rate + 50000), rateAt := t.now } }) ∧
    (1000000 ≤ s.pool.rate → exec (.roceRateRecover none) s = .next s)) ∧
  (∀ s : State, s.pool.cfg ≠ none → s.pool.qpErr = false → exec .poolQpError s =
    .next ((s.ford.rings.map (·.1)).foldl State.ringError
      ({ s with pool := { s.pool with qpErr := true, ops := [] } }.event 7 4 0xFFFF [] none))) ∧
  (∀ (r : Req) (s : State), Accepted poolNodeSet r s →
    (s.link.standalone = false ∨ s.ford.rings ≠ [] → exec (.poolNodeSet r.via) s = .next ((s.consume r.via).respond s r .conflict)) ∧
    (s.link.standalone → s.ford.rings = [] → bit (u8 r.pay 1) 0 → exec (.poolNodeSet r.via) s =
      .next ({ s.consume r.via with pool := {} }.respond s r .ok 0 (zeros 8))) ∧
    (s.link.standalone → s.ford.rings = [] → bit (u8 r.pay 1) 0 = false → ∃ b, b.length = 8 ∧ exec (.poolNodeSet r.via) s =
      .next ({ s.consume r.via with pool := { cfg := some r.pay }, free := s.free + 2 }.respond s r .ok 0 b)))

/-- Datagrams (R583 to R590). A message for an endpoint of its kind, on a running port, neither closing nor in error, waits in its buffer where
the source and the header are right and there is room; from another source, or malformed, it is dropped and counted; an update for a full
buffer too, and a request for one is counted and answered QUEUE_FULL. After each request datagram, and on its own, the oldest message of an
endpoint that its valley admits next is taken, once what it has read at once is not held by the host, who is asked for it first: the boundary it asks for passes, it gets a request of its own, and what the checks, its own
and those of R448, refuse is refused with their code, and else it runs. The response of the endpoint's oldest ended request leaves in its
segments, or is discarded where the port is down or the queue pair in error, and the request is over. A management datagram on a running port
of a standalone part with the endpoint on that port and the network served enters its mailbox's queue, below 8; a repeated one is answered
again; from outside the prefix, malformed, or without room it is dropped and counted. -/
def Obligations.Datagrams : Prop :=
  (∀ (n p : Nat) (a b : Bytes) (e : Endpoint) (s : State), look s.core.eps n = some e → e.kind < 2 → (s.ethPort e.port).up →
    e.closing = none → e.err = false →
    (e.accepts a = false ∨ netHeader b 0 = false → exec (.requestDatagramReceive n a p (some b)) s =
      .next ((s.dropAt n e).admitNet n)) ∧
    (e.accepts a → netHeader b 0 → e.buf.length < u16 e.create 8 → exec (.requestDatagramReceive n a p (some b)) s =
      .next ((s.updEp n fun e => { e with
        buf := e.buf ++ [{ addr := a, port := p, bytes := b }], readySince := e.readySince <|> some s.now }).admitNet n)) ∧
    (e.accepts a → netHeader b 0 → u16 e.create 8 ≤ e.buf.length → let m : NetMsg := { addr := a, port := p, bytes := b }
      exec (.requestDatagramReceive n a p (some b)) s =
      .next (((s.updEth e.port fun p => { p with fullRefusals := p.fullRefusals + 1 }).reply n m (segment m 4 0 1 9 0 [])).admitNet n))) ∧
  (∀ (n p : Nat) (a : Bytes) (e : Endpoint) (s : State), look s.core.eps n = some e → e.kind < 2 →
    exec (.requestDatagramReceive n a p none) s = .next (s.admitNet n)) ∧
  (∀ (n : Nat) (e : Endpoint) (m : NetMsg) (rest : List NetMsg) (s : State), look s.core.eps n = some e → e.buf = m :: rest →
    s.admits (n / 64) → s.isNext (n / 64) (4096 + n) → let c := netCmd m.bytes
    let l := s.heldInputs (kindOf c 0) (n / 64) e.ctx c
    (l ≠ [] → s.admitNet n = (l.foldl (fun s x => s.recall x.1 x.2 false) s).spendTurn (n / 64)) ∧
    (l = [] → let u := if bit (u8 m.bytes 6) 0 then s.boundary (n / 64) else s
    let f := (u.drawNat 7).2.fresh
    let k := { kindOf c ((u.drawNat 7).1 % 65536) with bad := fun s v d => netBad m.bytes d || (kindOf c ((u.drawNat 7).1 % 65536)).bad s v d }
    let t := f.2.updEp n fun e => { e with
      buf := rest, inflight := e.inflight + 1, admitted := e.admitted + 1
      readySince := if rest.isEmpty then none else some f.2.now }
    let t := ((t.passTurn (n / 64) (4096 + n) (u8 e.create 11)).updValley (n / 64) fun x => { x with admitted := x.admitted + 1 }).count (n / 64) 1
    let r : Request := {
      valley := n / 64, ctx := e.ctx, origin := .net n f.1, tag := c.tag, op := k.op, arg := c.arg, inline := c.inline
      stamp := t.stampFor (n / 64) e.ctx }
    let hs := (t.relocate r.stamp r.inline c.nhandle).1
    let t := t.setCore { t.core with
      reqs := put t.core.reqs f.1 r, netReqs := put t.core.netReqs f.1 { m with handle := hs.getD (u8 m.bytes 7) [] } }
    let q : Sq := { update := false, kernel := true, ctx := e.ctx, cq := 0, ring := 0, log2 := 0, prio := 0, weight := 1, maxIn := 0 }
    (∀ x, t.checkCommand k q c r = some x → s.admitNet n = t.refuseCommand f.1 r x.1 x.2) ∧
    (∀ x, t.checkCommand k q c r = none → respRefuse m.bytes hs = some x → s.admitNet n = t.finishWith f.1 x 0) ∧
    (t.checkCommand k q c r = none → respRefuse m.bytes hs = none → s.admitNet n = k.run f.1 r hs t))) ∧
  (∀ (n p : Nat) (a b : Bytes) (e : Endpoint) (s : State), look s.core.eps n = some e → 2 ≤ e.kind → (s.ethPort e.port).up →
    e.closing = none → e.err = false →
    let good := e.accepts a && netHeader b 2 && decide (1 ≤ u8 b 11) && decide (u8 b 11 ≤ 8) && decide (b.length = 32 + 128 * u8 b 11)
    (good → e.buf.length < u16 e.create 8 → exec (.updateDatagramReceive n a p b) s = .next (s.updEp n fun e => { e with
      buf := e.buf ++ [{ addr := a, port := p, bytes := b }], readySince := e.readySince <|> some s.now })) ∧
    (good = false ∨ u16 e.create 8 ≤ e.buf.length → exec (.updateDatagramReceive n a p b) s = .next (s.dropAt n e))) ∧
  (∀ (n i : Nat) (r : Request) (e : Endpoint) (m : NetMsg) (s : State),
    s.core.reqs.find? (fun r => r.2.ended && (match r.2.origin with | .net e _ => e = n | .sq _ => false)) = some (i, r) →
    look s.core.eps n = some e → look s.core.netReqs i = some m → let d := s.netResult r m
    let a := (handleOf m.handle).base
    let t := if r.latch = none ∧ s.isRemote a = false then s.recordAccess 7 r a d.1 else s
    let t := if d.2 = [] then t else t.fetch r.valley (localOf a) d.2.length
    let t := if (t.ethPort e.port).up ∧ e.err = false
      then (responses e m d.1 (r.wrote && d.1 ≠ 0) d.2).foldl (fun t b => t.reply n m b) t
      else t.updEth e.port fun p => { p with respDiscarded := p.respDiscarded + 1 }
    exec (.datagramResponseSend n) s =
      .next ((((t.setCore { t.core with netReqs := del t.core.netReqs i }).release i).sweep r.valley).closeEp n)) ∧
  (∀ (n : Nat) (s : State),
    s.core.reqs.find? (fun r => r.2.ended && (match r.2.origin with | .net e _ => e = n | .sq _ => false)) = none →
    exec (.datagramResponseSend n) s = .next (s.closeEp n)) ∧
  (∀ (q p : Nat) (a d : Bytes) (s : State), s.link.standalone → s.mgmt.port ≠ none → s.networkServes → (s.ethPort q).up →
    bit (u8 s.mgmt.cfg 0) q → let src := beNat (fit 16 a) * 65536 + p
    let n := u8 d 6
    let good := inPrefix (u8 s.mgmt.cfg 6) (fit 16 a) (slice s.mgmt.cfg 8 16) && decide (32 ≤ d.length) && decide (u32 d 0 = 0x54474D4F) &&
      decide (u8 d 4 = 1) && decide (u8 d 5 = 0) && decide (n ≤ 8)
    let again := s.mgmt.kept.find? fun k => k.1 = n && k.2.1 = src && k.2.2.1 = u32 d 8
    let t : State := { s with mgmt := { s.mgmt with
      queue := s.mgmt.queue ++ [{ mbx := n, src := src, seq := u32 d 8, msg := d.drop 16 }] } }
    (good = false → exec (.mgmtDatagramReceive q a p d) s = .next s.mgmtDrop) ∧
    (∀ k, good → again = some k → exec (.mgmtDatagramReceive q a p d) s = .next (s.emit (.mgmt 1 n (u32 d 8) src k.2.2.2))) ∧
    (good → again = none → 8 ≤ s.mgmtWaiting n → exec (.mgmtDatagramReceive q a p d) s = .next s.mgmtDrop) ∧
    (good → again = none → s.mgmtWaiting n < 8 → exec (.mgmtDatagramReceive q a p d) s =
      .next (if n = 8 then t.arrived (.network src) else t)))

/-- The messages of Ford (R621, R625, R634 to R637), of an accepted request. FORD_PERSONALITY_SET of the personality that the valley has or
will have is answered ST_OK; of another one ST_CONFLICT without a profile, where the valley owns Canyon pipelines and the personality is
not 84, or where a table of its sets has a format it does not offer; else ST_PENDING, armed. FORD_RING_CREATE puts the ring there with its header OPEN and both rings zeroed, at once or (a free value of the model,
log 30) through ST_PENDING; of a ring that is there, of memory that cannot be accessed, without CXL, or over another device's open ring
without the flag it is answered ST_CONFLICT, and beside 64 rings ST_NO_RESOURCE. FORD_RING_DESTROY of an open ring writes STATE CLOSING where
its memory can be accessed, drops what it holds, ends its commands that are not posted, and closes it once nothing is outstanding; of a
closing ring it is answered ST_BUSY, of none ST_OK. FORD_SHARD_SET clears the shard, or sets it on an open ring, or answers ST_CONFLICT where the ring is not there or not open or the shard does not fit. FORD_QUERY answers one ring, zeros for none, or the sums over the rings the mailbox may see. The commands of Ford (R148, R615 to R618, R623, R629, R630), each next in its queue: where the host holds what
Ford will read it is recalled and the turn is spent; else the command is taken, checked and started. Its ring is checked first, then the
retirement of Ford, the personality where the command carries computed values, the format, the shard, and the ring's ERROR. A range that
Ford may not access is recorded and ends the command with its code; a row whose CRC fails ends it with 0x12; else it waits and the ring's
commands are tried, unless Ford is being tested. A lookup, a send, rows put and rows got are posted where there is room, with the next XID and
the next OUT entry; a receive takes the oldest held vector of its tag. The end of a command signals its object, then completes it. -/
def Obligations.FordCommands : Prop :=
  (∀ (r : Req) (s : State), Accepted fordPersonalitySet r s → let v := u8 r.pay 0
    let new := u8 r.pay 1
    let unfit := s.core.tables.any fun t =>
      ((look s.core.sets (t.1 / 1024)).map fun x => x.valley == v).getD false && !offers new t.2.fmt t.2.group
    (s.profile v = none → exec (.fordPersonalitySet r.via) s = .next ((s.consume r.via).respond s r .conflict)) ∧
    (∀ p, s.profile v = some p →
      (s.nextPersonality v p = new → exec (.fordPersonalitySet r.via) s = .next ((s.consume r.via).respond s r .ok)) ∧
      (s.nextPersonality v p ≠ new → (new ≠ 84 ∧ p.cynPipes ≠ 0) ∨ unfit →
        exec (.fordPersonalitySet r.via) s = .next ((s.consume r.via).respond s r .conflict)) ∧
      (s.nextPersonality v p ≠ new → (new = 84 ∨ p.cynPipes = 0) → unfit = false →
        exec (.fordPersonalitySet r.via) s = .next (((((s.consume r.via).arm v (.personality new)
          (some r.deferred)).deferring r).respond s r .pending).boundaryIfStopped v)))) ∧
  (∀ (r : Req) (s : State), Accepted fordRingCreate r s → let n := u8 r.pay 0
    let x : Ring := { create := r.pay, polledAt := s.now }
    let h := s.ringRead x.base 16
    let taken := u32 h 0 = 0x44524F46 ∧ u8 h 5 = 1 ∧ u8 h 8 ≠ s.dev.nodeId ∧ bit (u8 r.pay 3) 0 = false
    (s.ring n ≠ none ∨ s.ringLost x.base x.bytes ∨ (s.link.standalone = false ∧ s.link.cxlEnabled = false) ∨ taken →
      exec (.fordRingCreate r.via) s = .next ((s.consume r.via).respond s r .conflict)) ∧
    (s.ring n = none → s.ringLost x.base x.bytes = false → (s.link.standalone ∨ s.link.cxlEnabled) → ¬taken →
      (64 ≤ s.ford.rings.length → exec (.fordRingCreate r.via) s = .next ((s.consume r.via).respond s r .noResource)) ∧
      (s.ford.rings.length < 64 →
        let t := (((s.consume r.via).setRing n x).ringWrite n x.base (s.ringHeader n x)).ringWrite n (x.base + 4096) (zeros (128 * x.size))
        let t := { t with free := t.free + 1 }
        exec (.fordRingCreate r.via) s = .next (t.respond s r .ok) ∨
        exec (.fordRingCreate r.via) s = .next (((t.deferring r).respond s r .pending).done r.deferred .ok 0 [])))) ∧
  (∀ (r : Req) (s : State), Accepted fordRingDestroy r s → let n := u8 r.pay 0
    (s.ring n = none → exec (.fordRingDestroy r.via) s = .next ((s.consume r.via).respond s r .ok)) ∧
    (∀ x, s.ring n = some x → x.st = 2 → exec (.fordRingDestroy r.via) s = .next ((s.consume r.via).respond s r .busy)) ∧
    (∀ x, s.ring n = some x → x.st ≠ 2 → let t := (s.consume r.via).setRing n { x with st := 2, held := [], done := some r.deferred }
      let t := if s.ringLost x.base 64 then t else t.ringWrite n (x.base + 5) [2]
      let t := (t.deferring r).respond s r .pending
      exec (.fordRingDestroy r.via) s =
        .next ((((t.fordJobs n).filter fun j => !j.2.posted).foldl (fun s j => s.fordEnd j.1 0x0E) t).closeRing n))) ∧
  (∀ (n : Nat) (x : Ring) (s : State), s.ring n = some x → x.st = 2 → x.exch = [] →
    let t := if s.ringLost x.base 64 then s else s.ringWrite n (x.base + 5) [0]
    let t := { t with ford := { t.ford with rings := del t.ford.rings n } }
    s.closeRing n = (t.dropShards n).doneOpt x.done .ok 0 []) ∧
  (∀ (r : Req) (s : State), Accepted fordShardSet r s → let k := r.via.mbx * 256 + u8 r.pay 0
    (u8 r.pay 1 = 0xFF → exec (.fordShardSet r.via) s = .next
      ({ s.consume r.via with ford := { s.ford with shards := del s.ford.shards k } }.respond s r .ok)) ∧
    (u8 r.pay 1 ≠ 0xFF → s.ring (u8 r.pay 2) = none →
      exec (.fordShardSet r.via) s = .next ((s.consume r.via).respond s r .conflict)) ∧
    (∀ x, u8 r.pay 1 ≠ 0xFF → s.ring (u8 r.pay 2) = some x →
      (x.st ≠ 1 ∨ s.shardConflict r.via.mbx x r.pay →
        exec (.fordShardSet r.via) s = .next ((s.consume r.via).respond s r .conflict)) ∧
      (x.st = 1 → s.shardConflict r.via.mbx x r.pay = false → exec (.fordShardSet r.via) s = .next
        ({ s.consume r.via with ford := { s.ford with shards := put s.ford.shards k r.pay } }.respond s r .ok)))) ∧
  (∀ (r : Req) (s : State), Accepted fordQuery r s → let n := u8 r.pay 0
    let ans := fun p => exec (.fordQuery r.via) s = .next ((s.consume r.via).respond s r .ok 0 p)
    let seen := s.ford.rings.filter fun x => r.via.mbx = 8 || x.1 / 16 = r.via.mbx
    (n = 0xFF → ans (ringBytes 0 0 ((seen.map fun x => (s.shardsOn x.1 (2 ^ 16)).length).sum) (seen.map (·.2)))) ∧
    (n ≠ 0xFF → s.ring n = none → ans (zeros 64)) ∧
    (∀ x, n ≠ 0xFF → s.ring n = some x → ans (ringBytes x.st x.gen (s.shardsOn n (2 ^ 16)).length [x]))) ∧
  (∀ (n h op : Nat) (q : Sq) (s : State), h = s.headHandles n → Admits (· = op) n q s → let k := fordKind op h
    let l := s.heldInputs k (n / 512) (q.ctxFor (s.command q)) (s.command q)
    let t := if l.isEmpty then State.start k q (s.command q) (s.takeCommand k n q)
      else (l.foldl (fun s x => s.recall x.1 x.2 false) s).spendTurn (n / 512)
    (op = 0x20 → exec (.fordLookup n) s = .next t) ∧
    (op = 0x21 → exec (.fordVecSend n) s = .next t) ∧
    (op = 0x22 → exec (.fordVecRecv n) s = .next t) ∧
    (op = 0x23 → exec (.fordRowPut n) s = .next t) ∧
    (op = 0x24 → exec (.fordRowGet n) s = .next t)) ∧
  (∀ (op n : Nat) (r : Request) (s : State), let d := r.fordDesc n
    (s.ring (u8 d 0) = none → fordRefuse op n s r = some (0x16, 0)) ∧
    (∀ x, s.ring (u8 d 0) = some x →
      let other := op ≤ 0x22 ∧ x.gen ≠ r.stamp.personality
      let bad := (op = 0x20 ∧ offersFmt r.stamp.personality (u8 d 13) = false) ∨ (op = 0x21 ∧ offersFmt r.stamp.personality (u8 d 3) = false) ∨
        (op ≠ 0x21 ∧ op ≠ 0x22 ∧ s.fordShard r.valley d = none)
      (s.isRetired 8 0 → fordRefuse op n s r = some (0x0D, 0)) ∧
      (s.isRetired 8 0 = false → other → fordRefuse op n s r = some (0x0A, 0)) ∧
      (s.isRetired 8 0 = false → ¬other → bad → fordRefuse op n s r = some (0x16, 0)) ∧
      (s.isRetired 8 0 = false → ¬other → ¬bad → fordRefuse op n s r = if x.st = 3 then some (0x15, 0) else none))) ∧
  (∀ (i op n : Nat) (r : Request) (hs : List Bytes) (s : State), let d := r.fordDesc n
    let x := (s.fordShard r.valley d).getD []
    let z := fordSizes op d x
    let src : Except Nat Nat := if op = 0x22 || op = 0x24 then .ok 0 else s.fordRange r hs (u8 d 16) (u32 d 20) z.1 false
    let dst : Except Nat Nat := if op = 0x21 || op = 0x23 then .ok 0 else s.fordRange r hs (u8 d 24) (u32 d 28) z.2 true
    let go := (fordKind op n).run i r hs s
    (∀ c, src = .error c → go = (s.recordFord r hs (u8 d 16) (u32 d 20) c).finishWith i c 0xFFFF) ∧
    (∀ a c, src = .ok a → dst = .error c → go = (s.recordFord r hs (u8 d 24) (u32 d 28) c).finishWith i c 0xFFFF) ∧
    (∀ a b, src = .ok a → dst = .ok b → let t := if z.1 = 0 then s else s.fetch r.valley a z.1
      let gen := ((s.ring (u8 d 0)).map Ring.gen).getD 84
      let j : FordJob := { ring := u8 d 0, desc := d, src := a, dst := b, shard := x, room := (handleOf (hs.getD (u8 d 24) [])).len - u32 d 28 }
      let put := fun (j : FordJob) (t : State) => { t with ford := { t.ford with jobs := Sys2Proof.Machine.put t.ford.jobs i j } }
      (op = 0x20 → go = (put { j with data := t.bytes a z.1 } t).fordPump j.ring) ∧
      (op = 0x21 → go = (put { j with data := toVector gen (u8 d 3) (u32 d 8) (t.bytes a z.1) } t).fordPump j.ring) ∧
      (op = 0x22 ∨ op = 0x24 → go = (put j t).fordPump j.ring) ∧
      (∀ data, op = 0x23 → t.putRows gen x a (u64 d 32) (u32 d 8) = .ok data → go = (put { j with data } t).fordPump j.ring) ∧
      (∀ k, op = 0x23 → t.putRows gen x a (u64 d 32) (u32 d 8) = .error k →
        let e : FaultEv := { source := 8, event := 4, cls := 8, valley := r.valley, ctx := r.ctx, scope := 1, cmpl := 0x12, addr := a
                             index := u64 d 32 + k }
        go = (put j (t.error e [{ cls := 8, idx := 0 }])).fordEnd i 0x12))) ∧
  (∀ (n i : Nat) (j : FordJob) (x : Ring) (q : Request) (s : State), s.fordJobs n = [(i, j)] → look s.ford.jobs i = some j →
    look s.core.reqs i = some q → s.ring n = some x →
    (s.testing 8 0 → s.fordPump n = s) ∧
    (s.testing 8 0 = false → j.posted → s.fordPump n = s) ∧
    (s.testing 8 0 = false → j.posted = false → q.op ≠ 0x22 → s.fordPump n = s.fordPost i j) ∧
    (∀ h, s.testing 8 0 = false → j.posted = false → q.op = 0x22 → x.full = false →
      x.held.find? (fun h => entTable h = u32 j.desc 44) = some h →
      s.fordPump n = (s.setRing n { x with held := x.held.erase h }).vecGive i j h)) ∧
  (∀ (i o p : Nat) (j : FordJob) (x : Ring) (r : Request) (s : State), s.ring j.ring = some x → look s.core.reqs i = some r →
    x.st = 1 → x.full = false → x.exch.length < 1024 → s.hostWaits (hostBase + x.base) = false →
    s.ringLost x.base x.bytes = false → let len := j.data.length
    let rsp := fordRspLen x.gen r.op j.desc j.shard
    let y := if len = 0 then x else x.take (some x.outProd) o len
    x.place len = some o → y.place rsp = some p → let xid := s.ford.nextXid
    let job := { j with posted := true }
    let e : Exchange := { req := i, job, op := fordOut r.op, sent := s.now, rspAt := x.base + p, rspLen := rsp }
    let z := { (if rsp = 0 then y else y.take none p rsp) with exch := put x.exch xid e, converted := x.converted + len }
    let t := s.setRing j.ring z
    let t := { t with ford := { t.ford with nextXid := (xid + 1) % 2 ^ 32, jobs := put s.ford.jobs i job, turn := j.ring / 16 } }
    let t := if len = 0 then t else t.ringWrite j.ring (x.base + o) j.data
    s.fordPost i j = t.outEntry j.ring z (fordOut r.op) (if r.op = 0x20 && bit (u8 j.desc 2) 0 then 2 else 0) 0 x.gen
      (fordEntry r.op xid j.desc j.shard (if len = 0 then 0 else x.base + o) len rsp (if rsp = 0 then 0 else x.base + p))) ∧
  (∀ (i code : Nat) (j : FordJob) (r : Request) (s : State), look s.ford.jobs i = some j → look s.core.reqs i = some r →
    s.fordEnd i code =
      ({ s with ford := { s.ford with jobs := del s.ford.jobs i } }.engineSync i r (u32 j.desc 4)).finishWith i code 0)

/-- What Ford takes from its rings (R591, R598, R612, R615, R619, R620, R627 to R630). A poll of a ring that is polled reads both indices: at
once from host memory, and in standalone mode by a READ of the header; a ring whose memory cannot be read enters ERROR, which ends its
commands REMOTE_REFUSED and is announced. With the indices known the OUT entries that were taken are free and the commands that wait are
tried; in standalone mode the entries that came in are read first. The oldest operation of the pool node goes when it completes; what a READ
brought is kept, and a header read ends its poll, a good entry's data is read next. Of entries in turn, each with room for its answer: a
LOOKUP or ROW_GET of another generation is answered 6, without a LOCAL shard's table 1, of an epoch that is gone 2, of one that has not come
3 once the wait is over (until then it stays), in a format the generation lacks 8, and else with the rows' result: a malformed one 6, and
rows that cannot be had 4, that the table does not have 5, that are elsewhere 1. A VEC of another generation is answered 6, goes to the
receive that waits for its tag, or is held, or is answered 7 beside 256; a receive that it does not fit ends REMOTE_REFUSED. What is to be
written ends its command 0x19 where the handle has no room for it and 0x11 where its memory has gone. A ROW_PUT is answered 8, an OP that is not listed 6. An answer with the OP its exchange expects ends the exchange: with 0x17 on an error of Ford's own,
with the code of its status, or with its data written; with another OP it is passed over; a late one is counted; an exchange without one
ends TIMEOUT. -/
def Obligations.FordEntries : Prop :=
  (∀ (r : Nat) (x : Ring) (s : State), s.ring r = some x → s.polls r x → let t := s.advanceTo (x.polledAt + x.pollNs)
    let t := t.updRing r fun x => { x with polledAt := t.now }
    (s.link.standalone = false → s.pwr.d3hot = false → exec (.fordRingPoll r) s = .next (t.pollDone r)) ∧
    (s.link.standalone → t.ringLost x.base 512 → exec (.fordRingPoll r) s = .next (t.ringError r)) ∧
    (s.link.standalone → t.ringLost x.base 512 = false → exec (.fordRingPoll r) s = .next
      { t with pool := { t.pool with ops := t.pool.ops ++ [{ write := false, ring := r, off := x.base, bytes := 256 }] } })) ∧
  (∀ (r : Nat) (x : Ring) (s : State), s.ring r = some x →
    (s.ringLost x.base 512 → s.pollDone r = s.ringError r) ∧
    (s.ringLost x.base 512 = false → let prod := BitVec.ofNat 32 (u32 (s.ringRead (x.base + 192) 4) 0)
      s.pollDone r = ((s.readEntries r x prod).updRing r fun x =>
        { x.release (BitVec.ofNat 32 (u32 (s.ringRead (x.base + 128) 4) 0)) with inProd := prod }).fordPump r) ∧
    (x.st ≠ 3 → let t := s.setRing r { x with st := if x.st = 2 then 2 else 3, exch := [], used := [], held := [] }
      s.ringError r = (((t.fordJobs r).foldl (fun s j => s.fordEnd j.1 0x15) t).event 8 1 r [] (some (r / 16))).closeRing r)) ∧
  (∀ (d : Bytes) (o : RdmaOp) (l : List RdmaOp) (s : State), s.pool.ops = o :: l →
    let t := { s with pool := { s.pool with ops := l, mem := wrN s.pool.mem o.off (fit o.bytes d) } }
    let e := t.ringRead o.off 64
    (o.write ∨ s.pool.qpErr → exec (.poolRdmaCompletion d) s = .next { s with pool := { s.pool with ops := l } }) ∧
    (o.write = false → s.pool.qpErr = false →
      (o.what = 0 → exec (.poolRdmaCompletion d) s = .next (t.pollDone o.ring)) ∧
      (o.what = 1 → exec (.poolRdmaCompletion d) s = .next (if entryOkCrc e then t.readData2 o.ring e else t)) ∧
      (2 ≤ o.what → exec (.poolRdmaCompletion d) s = .next t))) ∧
  (∀ (r : Nat) (w : Bool) (x : Ring) (e : Bytes) (t s : State), Incoming r x e t s → x.full = false →
    let gives := fun st => (entOp e = 1 → exec (.fordInLookup r w) s = .next ((t.takeIn r).fordAnswer r e 2 st [])) ∧
      (entOp e = 3 → exec (.fordInRowGet r w) s = .next ((t.takeIn r).fordAnswer r e 4 st []))
    (entBad x e → gives 6) ∧
    (entBad x e = false → t.localTable r e = none → gives 1) ∧
    (∀ y key b, entBad x e = false → t.localTable r e = some (y, key, b) →
      (epochStatus y (entEpoch e) = some 2 → gives 2) ∧
      (epochStatus y (entEpoch e) = some 3 → w → gives 3) ∧
      (epochStatus y (entEpoch e) = some 3 → w = false →
        (entOp e = 1 → exec (.fordInLookup r w) s = .next t) ∧ (entOp e = 3 → exec (.fordInRowGet r w) s = .next t)) ∧
      (epochStatus y (entEpoch e) = none → offers (entGen e) b.fmt b.group = false → gives 8) ∧
      (epochStatus y (entEpoch e) = none → offers (entGen e) b.fmt b.group → let epoch := if entEpoch e = 0 then y.newest else entEpoch e
        let a := (t.takeIn r).localLookup r e key b epoch
        let g := (t.takeIn r).localGet r e key b epoch
        (entOp e = 1 → exec (.fordInLookup r w) s = .next (a.1.fordAnswer r e 2 a.2.1 a.2.2)) ∧
        (entOp e = 3 → exec (.fordInRowGet r w) s = .next (g.1.fordAnswer r e 4 g.2.1 g.2.2))))) ∧
  (∀ (r key epoch : Nat) (e : Bytes) (b : Table) (s : State),
    let bad := 8192 < entCount e ∨ entLen e < entCount e * (if entIdx64 e then 8 else 4) ∨ entPool e = 0 ∨ 3 < entPool e ∨
      entW e ≠ b.width ∨ 5 < entFmt e ∨ entRspLen e < vecStride (entGen e) (entFmt e) b.width
    (bad → s.localLookup r e key b epoch = (s, 6, [])) ∧
    (¬bad → offersFmt (entGen e) (entFmt e) = false → s.localLookup r e key b epoch = (s, 8, [])) ∧
    (entCount e = 0 ∨ 4096 < entCount e ∨ entRspLen e < entCount e * (1 + foreignStride (entGen e) b.payload b.scales) →
      s.localGet r e key b epoch = (s, 6, []))) ∧
  (∀ (rd : Reader) (key epoch row : Nat) (b : Table) (s : State), let a := b.map + 16 * (row / 2 ^ b.shift) + 8 * (epoch % 2)
    let u := s.fetch rd.valley a 8
    let m := u.mapEntry b (row / 2 ^ b.shift) epoch
    (s.mapThere rd b = false → (s.localRow rd key b epoch row).2 = .error 4) ∧
    (s.mapThere rd b → b.rows ≤ row → s.localRow rd key b epoch row = (s, .error 5)) ∧
    (s.mapThere rd b → row < b.rows → s.poisoned a 8 → (s.localRow rd key b epoch row).2 = .error 4) ∧
    (s.mapThere rd b → row < b.rows → s.poisoned a 8 = false →
      (badEntry6 m → s.localRow rd key b epoch row = (u, .error 4)) ∧
      (badEntry6 m = false → isT3 m → s.localRow rd key b epoch row = (u, .error 1)) ∧
      (∀ v d, badEntry6 m = false → isT3 m = false → tierOf m ≠ 0 →
        u.readRow rd b (baseOf m) (row % 2 ^ b.shift) row = (v, d) →
        s.localRow rd key b epoch row = (v, match d with | some y => .ok y | none => .error 4)))) ∧
  (∀ (r : Nat) (x : Ring) (e : Bytes) (t s : State), Incoming r x e t s → entOp e = 7 → x.full = false → let u := t.takeIn r
    let taker := (u.fordJobs r).find? fun j =>
      u32 j.2.desc 44 = entTable e && ((look u.core.reqs j.1).map fun q => q.op == 0x22).getD false
    (entBad x e → exec (.fordInVec r) s = .next (u.vecAck r e 6)) ∧
    (entBad x e = false →
      (∀ i j, taker = some (i, j) → exec (.fordInVec r) s = .next (u.vecGive i j e)) ∧
      (taker = none → 256 ≤ x.held.length → exec (.fordInVec r) s = .next (u.vecAck r e 7)) ∧
      (taker = none → x.held.length < 256 →
        exec (.fordInVec r) s = .next (u.updRing r fun y => { y with held := y.held ++ [e] })))) ∧
  (∀ (i : Nat) (j : FordJob) (e : Bytes) (q : Request) (s : State), look s.core.reqs i = some q → let n := vecBytes (entFmt e) (entCount e)
    let misfit := entCount e ≠ u32 j.desc 8 ∨ entLen e < n ∨ offersFmt q.stamp.personality (entFmt e) = false
    (misfit → s.vecGive i j e = (s.vecAck j.ring e 6).fordEnd i 0x15) ∧
    (∀ t c, ¬misfit → s.fordStore q i j (fromVector (entGen e) (entFmt e) (entCount e) (s.ringRead (entData e) n)) = (t, c) →
      s.vecGive i j e = (((t.updRing j.ring fun x => { x with converted := x.converted + n }).vecAck j.ring e 0).fordEnd i c))) ∧
  (∀ (i : Nat) (j : FordJob) (d : Bytes) (q : Request) (s : State), d ≠ [] →
    let there := rangeAll (s.populatedFor q.valley q.stamp.bnd) j.dst d.length
    (j.room < d.length → s.fordStore q i j d = (s, 0x19)) ∧
    (d.length ≤ j.room → there = false → s.fordStore q i j d = (s.recordAccess 8 q j.dst 0x11, 0x11)) ∧
    (d.length ≤ j.room → there → s.fordStore q i j d =
      ((s.writeFor q.valley q.ctx j.dst d).updReq i fun r => { r with wrote := true }, 0))) ∧
  (∀ (r : Nat) (x : Ring) (e : Bytes) (t s : State), Incoming r x e t s → x.full = false →
    (entOp e = 5 → exec (.fordInRowPut r) s = .next ((t.takeIn r).fordAnswer r e 6 8 [])) ∧
    (entOp e = 0 ∨ 8 < entOp e → exec (.fordInRowPut r) s = .next ((t.takeIn r).fordAnswer r e (entOp e) 6 []))) ∧
  (∀ (r : Nat) (w : Bool) (x : Ring) (e : Bytes) (t s : State), Incoming r x e t s → x.full →
    (entOp e = 1 → exec (.fordInLookup r w) s = .next t) ∧
    (entOp e = 3 → exec (.fordInRowGet r w) s = .next t) ∧
    (entOp e = 7 → exec (.fordInVec r) s = .next t) ∧
    (entOp e = 5 ∨ entOp e = 0 ∨ 8 < entOp e → exec (.fordInRowPut r) s = .next t)) ∧
  (∀ (r : Nat) (dp : Bool) (x : Ring) (e : Bytes) (t s : State), Incoming r x e t s → entOp e ∈ [2, 4, 6, 8] → let u := t.takeIn r
    (look x.exch (entXid e) = none → exec (.fordInAnswer r dp) s = .next (u.updRing r fun y => { y with late := y.late + 1 })) ∧
    (∀ y, look x.exch (entXid e) = some y →
      (entOp e ≠ y.op + 1 → exec (.fordInAnswer r dp) s = .next u) ∧
      (entOp e = y.op + 1 → u.ringLost y.rspAt (max 1 y.rspLen) → exec (.fordInAnswer r dp) s = .next (u.ringError r)) ∧
      (entOp e = y.op + 1 → u.ringLost y.rspAt (max 1 y.rspLen) = false →
        exec (.fordInAnswer r dp) s = .next (((u.fordFinish r x y e dp).fordPump r).closeRing r)))) ∧
  (∀ (r : Nat) (dp : Bool) (x : Ring) (y : Exchange) (e : Bytes) (q : Request) (s : State), let t := s.dropExchange r (entXid e)
    look t.core.reqs y.req = some q →
    (dp → s.fordFinish r x y e dp = (t.error { source := 8, event := 6, cls := 8, valley := q.valley, ctx := q.ctx, scope := 1, cmpl := 0x17 }
      [{ cls := 8, idx := 0 }]).fordEnd y.req 0x17) ∧
    (dp = false → entStatus e ≠ 0 → s.fordFinish r x y e dp = t.fordEnd y.req (ringCode (entStatus e))) ∧
    (dp = false → entStatus e = 0 →
      (∀ c, y.result x.gen (t.ringRead y.rspAt y.rspLen) = .error c → s.fordFinish r x y e dp =
        (t.updRing r fun y => { y with inexact := y.inexact + b2n (c == 9) }).fordEnd y.req (ringCode c)) ∧
      (∀ d, y.result x.gen (t.ringRead y.rspAt y.rspLen) = .ok d →
        let u := if d = [] then (t, 0) else t.fordStore q y.req y.job d
        s.fordFinish r x y e dp = (u.1.updRing r fun z => { z with converted := z.converted + y.rspLen }).fordEnd y.req u.2))) ∧
  (∀ (r xid : Nat) (x : Ring) (y : Exchange) (s : State), s.ring r = some x → look x.exch xid = some y →
    exec (.fordExchangeTimeout r xid) s = .next (((((s.advanceTo (y.sent + 1000 * x.timeoutUs)).dropExchange r xid).fordEnd
      y.req 0x0E).fordPump r).closeRing r)) ∧
  (∀ c, ringCode c = match c with | 0 => 0 | 2 => 0x14 | 3 => 0x14 | 4 => 0x12 | 5 => 0x13 | 9 => 0x0A | _ => 0x15)

/-- The messages of Canyon (R644, R645, R663, R665, R670 to R674, R67, R68), of an accepted request. CYN_CTX_ENABLE of a disabled context
puts it there: without pipelines, the bound context, chain memory that may be read or areas of its own in one region each it is answered
ST_CONFLICT; a chain that reads poison or has a limb that will not do, ST_CHECK_FAILED; else its areas are zeroed and it is answered with
CHAIN_CRC. Of an enabled one it is answered ST_OK again where the parameters agree and else ST_CONFLICT; of one that shuts down it waits, and
a second one is answered ST_BUSY. CYN_CTX_DISABLE of an enabled context begins its shutdown; of one that shuts down it waits too and ends a
waiting enable ST_CONFLICT; of a disabled one it is answered ST_OK. Once nothing of the context is queued or running its areas are zeroed,
what waited is answered, and a waiting enable runs. CYN_KEY_LOAD is answered ST_CONFLICT of a context that is not enabled, of shares, or of a
source that may not be read, and ST_BUSY while the slot is used; else its slot is cleared or filled: with a length that is not the key's,
poison, or a header that is not the context's, it is not loaded. CYN_TRIPLES_LOAD loads entries from LOAD_IDX on, or is answered ST_CONFLICT,
ST_NO_RESOURCE where a place is not FREE, or ST_CHECK_FAILED on poison. CYN_QUERY answers the context's state, sizes and counts. -/
def Obligations.CanyonMessages : Prop :=
  (∀ (r : Req) (s : State), Accepted cynCtxEnable r s → let p := cynPay r.pay
    (s.cynCtx (u8 r.pay 0) = none → let x := (s.consume r.via).enableCyn p
      exec (.cynCtxEnable r.via) s = .next (x.s.respond s r x.st x.detail x.pay)) ∧
    (∀ x, s.cynCtx (u8 r.pay 0) = some x → x.st = 1 → x.pay = p →
      exec (.cynCtxEnable r.via) s = .next ((s.consume r.via).respond s r .ok 0 (leBytes 4 x.crc ++ zeros 4))) ∧
    (∀ x, s.cynCtx (u8 r.pay 0) = some x → x.st = 1 → x.pay ≠ p →
      exec (.cynCtxEnable r.via) s = .next ((s.consume r.via).respond s r .conflict)) ∧
    (∀ x, s.cynCtx (u8 r.pay 0) = some x → x.st ≠ 1 → x.shut.held ≠ none →
      exec (.cynCtxEnable r.via) s = .next ((s.consume r.via).respond s r .busy)) ∧
    (∀ x, s.cynCtx (u8 r.pay 0) = some x → x.st ≠ 1 → x.shut.held = none →
      exec (.cynCtxEnable r.via) s = .next ((((s.consume r.via).setCyn (u8 r.pay 0)
        { x with shut := { x.shut with held := some (r.deferred, p) } }).deferring r).respond s r .pending))) ∧
  (∀ (p : Bytes) (s : State), let c := u8 p 0
    let v := c / 8
    let share := u8 p 1 = 2
    let others := (s.cyn.ctxs.filter fun x => x.1 / 8 = v).flatMap fun x => cynAreas x.2.pay
    let chain := if share then [] else (List.range (u8 p 5)).map fun i => u64 (s.bytes (u64 p 8) (8 * u8 p 5)) (8 * i)
    let clash := ((s.profile v).map fun q => q.cynPipes.toNat).getD 0 = 0 ∨ look s.core.ctxs (ctxKey v (u16 p 2)) = none ∨
      (share ∧ u64 p 24 ≠ 0) ∨ (¬share ∧ s.t1OrHost v (u64 p 8) (8 * u8 p 5) = false) ∨
      (cynAreas p).any (fun a => !s.inRegion v a.1 a.2 || s.claimed v a.1 a.2 || others.any fun b => overlaps a.1 a.2 b.1 b.2)
    let crc := if share then 0 else chainCrc chain
    let t := (cynAreas p).foldl (fun s a => s.zeroFill a.1 a.2) s
    let t : State := { t with cyn := { t.cyn with areas := t.cyn.areas ++ cynAreas p } }
    (clash → s.enableCyn p = Res.fail s .conflict) ∧
    (¬clash → s.poisoned (u64 p 8) (8 * chain.length) → s.enableCyn p = Res.fail s .checkFailed 0xFFFFFFFF) ∧
    (¬clash → s.poisoned (u64 p 8) (8 * chain.length) = false →
      (∀ i, badLimb (2 ^ u8 p 4) chain = some i → s.enableCyn p = Res.fail s .checkFailed i) ∧
      (badLimb (2 ^ u8 p 4) chain = none →
        s.enableCyn p = Res.okay (t.setCyn c { pay := p, chain, crc, low := share }) (leBytes 4 crc ++ zeros 4)))) ∧
  (∀ (r : Req) (s : State), Accepted cynCtxDisable r s → let c := u8 r.pay 0
    (s.cynCtx c = none → exec (.cynCtxDisable r.via) s = .next ((s.consume r.via).respond s r .ok)) ∧
    (∀ x, s.cynCtx c = some x → x.st = 1 → exec (.cynCtxDisable r.via) s = .next ((((s.consume r.via).setCyn c
      { x with st := 2, shut := { dones := [r.deferred] } }).deferring r).respond s r .pending)) ∧
    (∀ x, s.cynCtx c = some x → x.st ≠ 1 → let t := (((s.consume r.via).setCyn c
        { x with shut := { dones := x.shut.dones ++ [r.deferred] } }).deferring r).respond s r .pending
      (x.shut.held = none → exec (.cynCtxDisable r.via) s = .next t) ∧
      (∀ h, x.shut.held = some h → exec (.cynCtxDisable r.via) s = .next (t.done h.1 .conflict 0 [])))) ∧
  (∀ (c : Nat) (x : CynCtx) (s : State), s.cynCtx c = some x → x.st = 2 → s.cynJobs c = [] →
    let t := (cynAreas x.pay).foldl (fun s a => s.zeroFill a.1 a.2) s
    let t : State := { t with cyn := { t.cyn with ctxs := del t.cyn.ctxs c } }
    let t := x.shut.dones.foldl (fun s d => s.done d .ok 0 []) t
    (x.shut.held = none → exec (.cynCtxShutdownDone c) s = .next t) ∧
    (∀ d p, x.shut.held = some (d, p) → let y := t.enableCyn p
      exec (.cynCtxShutdownDone c) s = .next (y.s.done d y.st y.detail y.pay))) ∧
  (∀ (r : Req) (s : State), Accepted cynKeyLoad r s → let c := u8 r.pay 0
    (s.cynCtx c = none → exec (.cynKeyLoad r.via) s = .next ((s.consume r.via).respond s r .conflict)) ∧
    (∀ x, s.cynCtx c = some x →
      let bad := x.st ≠ 1 ∨ x.mode = 2 ∨ (bit (u8 r.pay 2) 0 = false ∧ s.t1OrHost r.via.mbx (u64 r.pay 8) (u64 r.pay 16) = false)
      (bad → exec (.cynKeyLoad r.via) s = .next ((s.consume r.via).respond s r .conflict)) ∧
      (¬bad → s.keyBusy c (u8 r.pay 1) → exec (.cynKeyLoad r.via) s = .next ((s.consume r.via).respond s r .busy)) ∧
      (¬bad → s.keyBusy c (u8 r.pay 1) = false → let y := (((s.consume r.via).deferring r).respond s r .pending).loadKey c x r.pay
        exec (.cynKeyLoad r.via) s = .next (y.1.done r.deferred y.2.1 y.2.2 [])))) ∧
  (∀ (c : Nat) (x : CynCtx) (p : Bytes) (s : State), let slot := u8 p 1
    let k := keyBytes x.log2 x.limbs
    let t := s.setCyn c { x with slots := x.slots.erase slot }
    let u := t.writeThrough (x.keyAt slot) (s.bytes (u64 p 8) k)
    (bit (u8 p 2) 0 → s.loadKey c x p = (t.zeroFill (x.keyAt slot) k, .ok, 0)) ∧
    (bit (u8 p 2) 0 = false → u64 p 16 ≠ k → s.loadKey c x p = (t, .checkFailed, 0)) ∧
    (bit (u8 p 2) 0 = false → u64 p 16 = k → s.poisoned (u64 p 8) k → s.loadKey c x p = (t, .checkFailed, 0xFFFFFFFF)) ∧
    (bit (u8 p 2) 0 = false → u64 p 16 = k → s.poisoned (u64 p 8) k = false → s.loadKey c x p =
      if keyGood x (s.bytes (u64 p 8) 64) then (u.updCyn c fun y => { y with slots := insertSorted slot y.slots }, .ok, 0)
      else (u, .checkFailed, 0))) ∧
  (∀ (r : Req) (s : State), Accepted cynTriplesLoad r s → let c := u8 r.pay 0
    let n := u32 r.pay 4
    (s.cynCtx c = none → exec (.cynTriplesLoad r.via) s = .next ((s.consume r.via).respond s r .conflict)) ∧
    (∀ x, s.cynCtx c = some x →
      let bad := x.st ≠ 1 ∨ x.mode ≠ 2 ∨ (n ≠ 0 ∧ s.t1OrHost r.via.mbx (u64 r.pay 8) (24 * n) = false)
      let full := x.cap < n ∨ (List.range n).any fun i => s.triple x (x.loadIdx + i) ≠ 0
      (bad → exec (.cynTriplesLoad r.via) s = .next ((s.consume r.via).respond s r .conflict)) ∧
      (¬bad → full → exec (.cynTriplesLoad r.via) s = .next ((s.consume r.via).respond s r .noResource)) ∧
      (¬bad → ¬full → s.poisoned (u64 r.pay 8) (24 * n) →
        exec (.cynTriplesLoad r.via) s = .next ((s.consume r.via).respond s r .checkFailed 0xFFFFFFFF)) ∧
      (¬bad → ¬full → s.poisoned (u64 r.pay 8) (24 * n) = false →
        let load := fun (t : State) i =>
          (t.writeThrough (x.tripleAt (x.loadIdx + i)) (s.bytes (u64 r.pay 8 + 24 * i) 24)).writeThrough (x.stateAt (x.loadIdx + i)) [1]
        let t := (List.range n).foldl load (s.consume r.via)
        exec (.cynTriplesLoad r.via) s =
          .next (((t.setCyn c { x with loadIdx := (x.loadIdx + n) % x.cap }).tripleLevel c).respond s r .ok)))) ∧
  (∀ (r : Req) (s : State), Accepted cynQuery r s → let c := u8 r.pay 0
    let ans := fun p => exec (.cynQuery r.via) s = .next ((s.consume r.via).respond s r .ok 0 p)
    (s.cynCtx c = none → ans (zeros 8 ++ zeros 1 ++ leBytes 1 (maskOf (s.cynPipes (c / 8))) ++ zeros 2 ++ leBytes 4 (s.cynJobs c).length ++ zeros 48)) ∧
    (∀ x, s.cynCtx c = some x → let n := fun st => if x.mode = 2 then s.triples x st else 0
      ans (leBytes 1 x.st ++ leBytes 1 x.mode ++ leBytes 1 x.log2 ++ leBytes 1 x.limbs ++ leBytes 4 x.crc ++ leBytes 1 (maskOf x.slots) ++
        leBytes 1 (maskOf (s.cynPipes (c / 8))) ++ zeros 2 ++ leBytes 4 (s.cynJobs c).length ++ leBytes 4 (n 1) ++ leBytes 4 (n 2) ++
        leBytes 4 (n 0) ++ leBytes 8 x.ops ++ leBytes 8 x.levelRefused ++ leBytes 8 x.poisoned ++ zeros 12)))

/-- The commands of Canyon (R148, R649 to R651, R654, R656, R658, R667), each next in its queue: where the host holds what Canyon will read of
it, it is recalled and the turn is spent; else the command is taken, checked and started. It is refused CONFLICT unless its Canyon context is
enabled, its valley's and the request's, and the valley has a pipeline. Then in order: operands that may not be used or read end it with their
code, a header that will not do, a form the context or the operands do not fit CONFLICT, a level, and triples that are not there; a refusal
for a level and one for poison are counted. A command that passes waits for a pipeline: a mask has taken its triples, a score the rows that
it gathered, or it ends with their code. The oldest command of a valley that waits starts on the lowest free pipeline that its stamp serves:
chain state lost on the chip tears its context down, inputs that the host holds are recalled first, and else its data is read now (a key that
reads poison tears its context down): it will end 0x17 where that is poison and 0x11 where a place of it is gone. An operation (R646, R656 to
R658, R661, R666, R667) ends at the time that its form fixes, whatever its data: a success writes its output and triples, an error writes
none; either signals its object and completes; a command that is dead, or whose context is gone, leaves nothing. -/
def Obligations.CanyonCommands : Prop :=
  (∀ (n h op : Nat) (q : Sq) (s : State), h = s.headHandles n → Admits (· = op) n q s → let k := cynKind op h
    let l := s.heldInputs k (n / 512) (q.ctxFor (s.command q)) (s.command q)
    let t := if l.isEmpty then State.start k q (s.command q) (s.takeCommand k n q)
      else (l.foldl (fun s x => s.recall x.1 x.2 false) s).spendTurn (n / 512)
    (op = 0x28 → exec (.cynLinear n) s = .next t) ∧
    (op = 0x29 → exec (.cynMul n) s = .next t) ∧
    (op = 0x2A → exec (.cynRelin n) s = .next t) ∧
    (op = 0x2B → exec (.cynRescale n) s = .next t) ∧
    (op = 0x2C → exec (.cynScore n) s = .next t) ∧
    (op = 0x2D → exec (.cynSsLinear n) s = .next t) ∧
    (op = 0x2E → exec (.cynSsMask n) s = .next t) ∧
    (op = 0x2F → exec (.cynSsCombine n) s = .next t)) ∧
  (∀ (n : Nat) (r : Request) (s : State), cynRefuse n s r = if ∃ x, s.cynCtx (u8 (r.cynDesc n) 0) = some x ∧
    u8 (r.cynDesc n) 0 / 8 = r.valley ∧ x.st = 1 ∧ x.ctx = r.ctx ∧ s.cynPipes r.valley ≠ [] then none else some (0x0A, 0)) ∧
  (∀ (op n i code : Nat) (x : CynCtx) (r : Request) (hs : List Bytes) (s : State), let d := r.cynDesc n
    s.cynCtx (u8 d 0) = some x → s.cynArgs op r hs d = .error code →
    (code ≠ 0x17 → code ≠ 0x11 → s.cynAdmit op n i r hs = s.cynRefused i (u8 d 0) code false) ∧
    (code = 0x17 → s.cynAdmit op n i r hs = (s.recordAccess 9 r (s.cynHeaderPoison r hs d) 0x17).cynRefused i (u8 d 0) 0x17 false) ∧
    (code = 0x11 → s.cynAdmit op n i r hs = (s.recordAccess 9 r (s.cynLost r hs op d) 0x11).cynRefused i (u8 d 0) 0x11 false)) ∧
  (∀ (op n i : Nat) (x : CynCtx) (a : CynArgs) (r : Request) (hs : List Bytes) (s : State), let d := r.cynDesc n
    let sub := u8 d 1
    let hdr := x.hdrRefuse a.hdr0 <|> if takesIn1 op sub then x.hdrRefuse a.hdr1 else none
    let fits := x.fits op sub (b2n (bit (u8 d 2) 0)) a.hdr0 a.hdr1
    let level := if x.mode = 0 then levelRefuse op sub a.hdr0 a.hdr1 else none
    let triples := s.tripleRefuse (u8 d 0) x op a.hdr0
    s.cynCtx (u8 d 0) = some x → s.cynArgs op r hs d = .ok a →
    (∀ code, hdr = some code → s.cynAdmit op n i r hs = s.cynRefused i (u8 d 0) code false) ∧
    (hdr = none → fits = false → s.cynAdmit op n i r hs = s.cynRefused i (u8 d 0) 0x0A false) ∧
    (∀ code, hdr = none → fits → level = some code → s.cynAdmit op n i r hs = s.cynRefused i (u8 d 0) code true) ∧
    (∀ code, hdr = none → fits → level = none → triples = some code → s.cynAdmit op n i r hs = s.cynRefused i (u8 d 0) code false) ∧
    (hdr = none → fits → level = none → triples = none →
      let j : CynJob := { valley := r.valley, ctx := u8 d 0, op, desc := d, in0 := a.in0, in1 := a.in1, out0 := a.out0, out1 := a.out1,
                          hdr0 := a.hdr0, hdr1 := a.hdr1, first := if op = 0x2E then x.maskIdx else hdrFirst a.hdr0 }
      (op ≠ 0x2C → let t := if op = 0x2E then s.setCyn (u8 d 0) { x with maskIdx := (x.maskIdx + hdrCount a.hdr0) % x.cap } else s
        s.cynAdmit op n i r hs = { t with cyn := { t.cyn with jobs := put t.cyn.jobs i j } }) ∧
      (∀ t elems width scales, op = 0x2C → s.scoreGather r d x.log2 a.idx = (t, .ok (elems, width, scales)) →
        s.cynAdmit op n i r hs = { t with cyn := { t.cyn with jobs := put t.cyn.jobs i { j with elems, width, scales } } }) ∧
      (∀ t code, op = 0x2C → s.scoreGather r d x.log2 a.idx = (t, .error code) →
        s.cynAdmit op n i r hs = t.cynRefused i (u8 d 0) code false))) ∧
  (∀ (i c code : Nat) (level : Bool) (s : State), s.cynRefused i c code level = (s.updCyn c fun x => { x with
    levelRefused := x.levelRefused + b2n level, poisoned := x.poisoned + b2n (code == 0x17) }).finishWith i code
      (if code = 0x19 then 0xFFFF else 0)) ∧
  (∀ (v i p : Nat) (j : CynJob) (x : CynCtx) (s : State),
    s.cyn.jobs.find? (fun j => j.2.valley = v && j.2.pipe.isNone) = some (i, j) → s.cynCtx j.ctx = some x → s.cynFree i = some p →
    exec (.cynOperationStart (v, true)) s = .next (s.cynLoses j x { event := 2, cls := 9, unit := p } [{ cls := 9, idx := p }]) ∧
    (s.cynHeld j x = [] → exec (.cynOperationStart (v, false)) s = .next (s.cynStart i j x p)) ∧
    (s.cynHeld j x ≠ [] → exec (.cynOperationStart (v, false)) s =
      .next ((s.cynHeld j x).foldl (fun s a => s.recall a.1 a.2 false) s))) ∧
  (∀ (i p : Nat) (j : CynJob) (x : CynCtx) (s : State), let key := x.keyAt (b2n (bit (u8 j.desc 2) 0))
    let k := keyBytes x.log2 x.limbs
    let t := (s.fetch j.valley j.in0 j.bytes0).fetch j.valley j.in1 j.bytes1
    let bad := t.poisoned j.in0 j.bytes0 ∨ t.poisoned j.in1 j.bytes1 ∨ t.triplePoison j x
    let gone := j.places.find? fun a => a.2 ≠ 0 && !rangeAll t.populated a.1 a.2
    let d0 := t.bytes j.in0 j.bytes0
    let d1 := t.bytes j.in1 j.bytes1
    let tr := (List.range (hdrCount j.hdr0)).flatMap fun n => t.bytes (x.tripleAt (j.first + n)) 24
    let res := if j.op ≤ 0x2C then j.rlwe x d0 d1 (if j.op = 0x2A then t.bytes key k else [])
      else j.share x d0 d1 (if 0x2E ≤ j.op then tr else [])
    (∀ u, j.op = 0x2A → s.poisoned key k → memUnit key = some u → s.cynStart i j x p =
      s.cynLoses j x { source := 9, event := 3, addr := key, cls := u.cls, unit := u.idx } [u]) ∧
    ((j.op ≠ 0x2A ∨ s.poisoned key k = false) →
      (¬bad → gone = none → let y := { j with pipe := some p, start := t.now, err := none, result := res }
        s.cynStart i j x p = { t with cyn := { t.cyn with jobs := put t.cyn.jobs i y } }) ∧
      (bad ∨ gone ≠ none → ∃ y, look (s.cynStart i j x p).cyn.jobs i = some y ∧ y.pipe = some p ∧
        (bad → y.err = some 0x17) ∧ (¬bad → y.err = some 0x11)))) ∧
  (∀ (p i : Nat) (res : Bool) (j : CynJob) (s : State), s.cyn.jobs.find? (fun j => j.2.pipe = some p) = some (i, j) →
    let t := s.advanceTo (j.start + opTime
      (coreTime j.op (u8 j.desc 1) (hdrLog2 j.hdr0) (hdrLimbs j.hdr0) (hdrParts j.hdr0) (hdrCount j.hdr0)) s.pace.device)
    let t : State := { t with cyn := { t.cyn with jobs := del t.cyn.jobs i } }
    let t := if res then t.error { source := 9, event := 6, cls := 9, unit := p, valley := j.valley, scope := 1, cmpl := 0x17 }
      [{ cls := 9, idx := p }] else t
    (j.dead ∨ t.cynCtx j.ctx = none ∨ look t.core.reqs i = none → exec (.cynOperationComplete p res) s = .next t) ∧
    (∀ x r, t.cynCtx j.ctx = some x → look t.core.reqs i = some r → j.dead = false →
      let err := j.err <|> (if res then some 0x17 else none) <|>
        if j.places.any fun a => a.2 ≠ 0 && !rangeAll t.populated a.1 a.2 then some 0x11 else none
      let u := t.setCyn j.ctx { x with ops := x.ops + 1, poisoned := x.poisoned + b2n (err == some 0x17) }
      (err = none → exec (.cynOperationComplete p res) s = .next
        ((((u.cynWrite j x).updReq i fun y => { y with wrote := true }).engineSync i r (u32 j.desc 4)).finishWith i 0 0)) ∧
      (∀ c, err = some c → let u := if u.triplePoison j x then (u.setTriples j x 0).tripleLevel j.ctx else u
        exec (.cynOperationComplete p res) s = .next
          (((u.updReq i fun y => { y with wrote := false }).engineSync i r (u32 j.desc 4)).finishWith i c 0)))) ∧
  (∀ (j : CynJob) (x : CynCtx) (s : State), let t := s.throughFor j.valley x.ctx j.out0 j.result
    (j.op < 0x2C ∨ j.op = 0x2D → s.cynWrite j x = t) ∧
    (j.op = 0x2C → s.cynWrite j x = t.throughFor j.valley x.ctx j.out1 j.scales) ∧
    (j.op = 0x2E → s.cynWrite j x = (t.setTriples j x 2).tripleLevel j.ctx) ∧
    (j.op = 0x2F → s.cynWrite j x = (t.setTriples j x 0).tripleLevel j.ctx))

/-- Beaver's product (R645, R656): where two parties' triples add up to a, b and c = a × b, and d and e are the
opened x − a and y − b, what the two combine adds up to x × y. -/
def Obligations.CombineMultiplies : Prop :=
  ∀ (x y a b c : W64) (t u : Triple), t.a + u.a = a → t.b + u.b = b → t.c + u.c = c → c = a * b →
    combineWord true t (x - a) (y - b) + combineWord false u (x - a) (y - b) = x * y

/-- RESCALE (R653): in each remaining limb q the result times the dropped limb is the coefficient less the centred residue,
modulo q, and an integer less its centred residue is a multiple of the dropped limb, the nearest: half of it, a tie, is
never reached. -/
def Obligations.RescaleDivides : Prop :=
  (∀ (q last : Nat) (c r : List Nat), primeLimb q → primeLimb last → q ≠ last → c.length = r.length →
    (rescaleLimb q last c r).length = c.length ∧ ∀ k < c.length, (rescaleLimb q last c r).getD k 0 < q ∧
      (((rescaleLimb q last c r).getD k 0 * last : Nat) : Int) % q = ((c.getD k 0 : Int) - centred last (r.getD k 0)) % q) ∧
  (∀ (last r : Nat) (c : Int), last % 2 = 1 → r < last → c % last = r →
    ∃ k : Int, c = last * k + centred last r ∧ 2 * (c - last * k).natAbs < last)

/-- Host writes to BAR0 (R4, R830 to R832, R834, R835, R839): outside BAR0, or while it does not answer, nothing changes; a poisoned write is
dropped and counted as an uncorrectable error; an aligned unit written whole acts as the row of its register does; an aligned 8-byte write
to a 64-bit register acts once; a unit not written whole and an offset that holds no register change nothing, and bytes in a request ring
are stored. Host reads (R4, R5, R121, R391, R831): an aligned unit read gives its register's value and leaves what that read leaves; a 64-bit
register read whole gives its value and leaves nothing; what holds no register, and what can only be written, read as zero. -/
def Obligations.RegisterWrites : Prop :=
  (∀ (o : Nat) (d : Bytes) (p : Bool) (s : State),
    (s.bar0 = false ∨ 0x4000000 < o + d.length → exec (.registerWrite o (d, p)) s = .next s) ∧
    (s.bar0 → o + d.length ≤ 0x4000000 → exec (.registerWrite o (d, true)) s =
      .next { s with link := { s.link with aerUncorr := satAdd 0xFFFFFFFF s.link.aerUncorr 1 } })) ∧
  (∀ (n : Nat) (d : Bytes) (s : State), s.bar0 → d.length = 4 → let v := BitVec.ofNat 32 (u32 d 0)
    (n < 9 → exec (.registerWrite (0x103000 + 0x4000 * n) (d, false)) s = exec (.mbxDoorbellWrite n v) s ∧
      exec (.registerWrite (0x10300C + 0x4000 * n) (d, false)) s = exec (.mbxRspConsWrite n v) s ∧
      exec (.registerWrite (0x103014 + 0x4000 * n) (d, false)) s = exec (.mbxNtfConsWrite n v) s ∧
      exec (.registerWrite (0x10301C + 0x4000 * n) (d, false)) s = .next (s.updBox n fun b => { b with irqEn := v.setWidth 3 }) ∧
      exec (.registerWrite (0x103020 + 0x4000 * n) (d, false)) s =
        .next (s.updBox n fun b => { b with irqStat := b.irqStat &&& ~~~(v.setWidth 3) })) ∧
    (n < 4096 → exec (.registerWrite (0x1000000 + 4096 * n) (d, false)) s = exec (.cfeSqDoorbellWrite n v) s ∧
      exec (.registerWrite (0x1000040 + 4096 * n) (d, false)) s = exec (.cfeCqHeadWrite n v) s ∧
      exec (.registerWrite (0x1000050 + 4096 * n) (d, false)) s = exec (.cfeCqArmWrite n v) s) ∧
    exec (.registerWrite 0x140004 (d, false)) s = exec (.gpioOutLatchWrite v) s ∧
    exec (.registerWrite 0x140008 (d, false)) s = exec (.gpioOutSetWrite v) s ∧
    exec (.registerWrite 0x14000C (d, false)) s = exec (.gpioOutClrWrite v) s ∧
    exec (.registerWrite 0x140018 (d, false)) s = .next { s with gpio := { s.gpio with edge := s.gpio.edge &&& ~~~v } } ∧
    exec (.registerWrite 0x158004 (d, false)) s = exec (.fltRingConsWrite v) s ∧
    exec (.registerWrite 0x131000 (d, false)) s = .next s) ∧
  (∀ (g : Nat) (d : Bytes) (s : State), s.bar0 → d.length = 8 → g < 131072 → let v := BitVec.ofNat 64 (u64 d 0)
    exec (.registerWrite (0x800008 + 64 * g) (d, false)) s = exec (.synAddWrite g v false) s ∧
    exec (.registerWrite (0x800010 + 64 * g) (d, false)) s = exec (.synSetWrite g v false) s ∧
    exec (.registerWrite (0x800018 + 64 * g) (d, false)) s = exec (.synNotifyAtWrite g v false) s) ∧
  (∀ (g : Nat) (d : Bytes) (s : State), s.bar0 → d.length = 4 → g < 131072 → let v := BitVec.ofNat 32 (u32 d 0)
    exec (.registerWrite (0x800008 + 64 * g) (d, false)) s = exec (.synAddWrite g (v.setWidth 64) false) s ∧
    exec (.registerWrite (0x80000C + 64 * g) (d, false)) s = exec (.synAddWrite g (v.setWidth 64) true) s ∧
    exec (.registerWrite (0x800010 + 64 * g) (d, false)) s = exec (.synSetWrite g (v.setWidth 64) false) s ∧
    exec (.registerWrite (0x800014 + 64 * g) (d, false)) s = exec (.synSetWrite g (v.setWidth 64) true) s ∧
    exec (.registerWrite (0x800018 + 64 * g) (d, false)) s = exec (.synNotifyAtWrite g (v.setWidth 64) false) s ∧
    exec (.registerWrite (0x80001C + 64 * g) (d, false)) s = exec (.synNotifyAtWrite g (v.setWidth 64) true) s ∧
    exec (.registerWrite (0x800028 + 64 * g) (d, false)) s = exec (.synArmWrite g v) s ∧
    (s.syncWritable g → exec (.registerWrite (0x800020 + 64 * g) (d, false)) s =
      .next (s.setObj g { s.obj g with ctrl := v &&& 0xFF010FFF })) ∧
    (s.syncWritable g → let o := s.obj g
      exec (.registerWrite (0x800030 + 64 * g) (d, false)) s = .next (s.setObj g { o with
        fired := o.fired && !v.getLsbD 1, notifyErr := o.notifyErr && !v.getLsbD 3, sizeErr := o.sizeErr && !v.getLsbD 4 }))) ∧
  (∀ (o : Nat) (b : Byte) (s : State), s.bar0 → o < 0x4000000 → exec (.registerWrite o ([b], false)) s =
    .next (if inRequestRing o then { s with ram := wr s.ram o b } else s)) ∧
  (∀ (o : Nat) (s : State), o % 4 = 0 → s.hostRead o 4 = (leBytes 4 (s.unitAt o), s.afterRead o)) ∧
  (∀ (o : Nat) (x : W64) (s : State), o % 8 = 0 → s.wideAt o = some x → s.hostRead o 8 = (leBytes 8 x.toNat, s)) ∧
  (∀ (g : Nat) (s : State), s.syncReadable g → let o := s.obj g
    (g < 131072 → (s.hostRead (0x800000 + 64 * g) 4).1 = leBytes 4 (lo32 o.seen)) ∧
    (g < 131072 → (s.hostRead (0x800000 + 64 * g) 4).2 = s.setObj g { o with hi := (o.seen >>> 32).setWidth 32, hiValid := true }) ∧
    (g < 131072 → o.hiValid → (s.hostRead (0x800004 + 64 * g) 4).1 = leBytes 4 o.hi.toNat) ∧
    (g < 131072 → (s.hostRead (0x800008 + 64 * g) 4).1 = zeros 4)) ∧
  (∀ s : State, s.hostRead 0x131000 4 = (zeros 4, s) ∧ s.hostRead 0 4 = (leBytes 4 s.devId.toNat, s) ∧
    s.hostRead 8 8 = (leBytes 8 s.devCaps.toNat, s) ∧ (s.hostRead 0x130104 4).1 =
      leBytes 4 (if s.time.hiValid then s.time.hi.toNat else s.now / 2 ^ 32 % 2 ^ 32))

/-- A full notification ring (R79): NTF_DEFERRED_DONE entries are kept back in order and others dropped and counted;
when space frees, what was kept back is posted first, then one NTF_LOST with the count, which is cleared. -/
def Obligations.FullNotificationRing : Prop :=
  (∀ (n : Nat) (m : Bytes) (s : State), ((s.box n).ntfProd - (s.box n).ntfCons).toNat = 16 →
    s.ntfRing n true m = s.updBox n (fun b => { b with heldNtf := b.heldNtf ++ [m] }) ∧
    s.ntfRing n false m = s.updBox n (fun b => { b with ntfLost := satAdd 255 b.ntfLost 1 })) ∧
  (∀ (n k : Nat) (l : List Bytes) (s : State), n < 9 → (s.box n).heldNtf = l → (s.box n).ntfLost = k + 1 →
    (s.box n).ntfIdxErr = false → ((s.box n).ntfProd - (s.box n).ntfCons).toNat + l.length < 16 →
    let t := l.foldl (fun s m => s.ntfRing n true m) (s.updBox n fun b => { b with heldNtf := [] })
    s.flushNtf n = (t.updBox n fun b => { b with ntfLost := 0 }).ntfRing n false (message 0x0082 0 0 0 (leBytes 4 (k + 1)))) ∧
  (∀ (n : Nat) (m : Bytes) (s : State), n < 9 → ((s.box n).ntfProd - (s.box n).ntfCons).toNat < 16 → (s.box n).ntfIdxErr = false →
    (s.box n).heldNtf = [] → let t : State := { s with ram := wrN (zeroN s.ram (ntfSlot n (s.box n)) 64) (ntfSlot n (s.box n)) m }
    ∀ isDone, s.ntfRing n isDone m = (t.updBox n fun b => { b with ntfProd := b.ntfProd + 1 }).irq n 1)

/-- The order of checks (R46, R47): the first that fails gives the status, and the request is consumed, answered
with it, and has no other effect. -/
def Obligations.RequestChecks : Prop :=
  (∀ (m : Msg) (r : Req) (st : St) (d : Nat) (s : State), (s.nextRaw r.via).map (parseReq r.via) = some r → r.op = m.op →
    m.check r (s.consume r.via) = some (st, d) → serve m r.via s = .next ((s.consume r.via).respond s r st d)) ∧
  (∀ (m : Msg) (r : Req) (s : State), let short := r.len % 4 ≠ 0 ∨ 496 < r.len ∨ r.pay.length ≠ r.len ∨ m.len r.len r.pay = false
    let held := ∃ d ∈ (s.box r.via.mbx).deferred, d.tag = r.tag ∧ d.via = r.via
    (short → m.check r s = some (.badLength, 0)) ∧
    (¬ short → m.absent r s → m.check r s = some (.unitAbsent, 0)) ∧
    (¬ short → m.absent r s = false → m.refuses r s → m.check r s = some (.denied, 0)) ∧
    (∀ st, ¬ short → m.absent r s = false → m.refuses r s = false → accepts s.dev.st m.cls m.op = some st →
      m.check r s = some (st, 0)) ∧
    (¬ short → m.absent r s = false → m.refuses r s = false → accepts s.dev.st m.cls m.op = none →
      (m.notReady r s → m.check r s = some (.notReady, 0)) ∧
      (m.notReady r s = false → r.tag = 0 → m.check r s = some (.badField, 2)) ∧
      (m.notReady r s = false → r.tag ≠ 0 → r.ver ≠ 1 → m.check r s = some (.badField, 6)) ∧
      (∀ o, m.notReady r s = false → r.tag ≠ 0 → r.ver = 1 → m.field r s = some o → m.check r s = some (.badField, 16 + o)) ∧
      (m.notReady r s = false → r.tag ≠ 0 → r.ver = 1 → m.field r s = none → held → m.check r s = some (.conflict, 0)) ∧
      (m.notReady r s = false → r.tag ≠ 0 → r.ver = 1 → m.field r s = none → ¬ held → m.check r s = none)))

/-- A query changes nothing (R49): it leaves all but the mailboxes, their transports' queues, the order in which requests are
served, what is posted and the model's own counter of free values (log 4) as it was. The
read of SEC_OTP_READ alone, which issues a nonce, is not among them. -/
def Obligations.QueriesChangeNothing : Prop :=
  ∀ (via : Via) (c : Instr) (s t : State), c ∈ [.devIdentify via, .devPing via, .devStatus via, .configRead via,
    .paceQuery via, .timeQuery via, .brdGpioQuery via, .brdSensorRead via, .pwrQuery via, .dbgTelemetryRead via,
    .bsnQuery via, .memQuery via, .fltRecordRead via, .fltCperRead via, .tblQuery via, .epochQuery via,
    .reflowQuery via, .ctxQuery via, .valleyQuery via, .queueQuery via, .passLinkQuery via, .hostLinkQuery via,
    .fordQuery via, .cynQuery via] →
    exec c s = .next t → Posts { s with svc := t.svc, free := t.free } t

/-- A step takes the command at the front of the queue and runs it on the device with the queue's rest; with nothing
waiting the block idles, which is the model's choice (notes/assumptions/2.md). No command stops the device: each
answers a next state, in every state. -/
def Obligations.StepRunsTheFront : Prop :=
  (∀ (c : Instr) (q : List Instr) (s : State), s.pending = c :: q → step s = exec c { s with pending := q }) ∧
  (∀ s : State, s.pending = [] → step s = .next s) ∧
  (∀ (c : Instr) (s : State), ∃ t : State, exec c s = .next t)

/-- After reset the memories are canonical, nothing waits, and the device is in RESET with every register of Table
22.3 zero, the GPIO latch zero, no queue, context, graph, session or ring there, and time at zero. -/
def Obligations.ResetState : Prop :=
  State.reset.Canonical ∧ State.reset.pending = [] ∧ State.reset.dev.st = .reset ∧ State.reset.now = 0 ∧
  (∀ n, State.reset.box n = {}) ∧ State.reset.gpio.latch = 0 ∧ State.reset.core.sqs = [] ∧ State.reset.core.cqs = [] ∧
  State.reset.core.ctxs = [] ∧ State.reset.ford.rings = [] ∧ State.reset.cyn.ctxs = [] ∧ State.reset.fwRun = false

/-- Every step keeps every memory of the device in canonical form, whatever the state it starts from. -/
def Obligations.StepKeepsCanonical : Prop :=
  ∀ s t : State, step s = .next t → s.Canonical → t.Canonical

/-- No step changes the identity that the fuses give the part (R18). -/
def Obligations.StepKeepsIdentity : Prop :=
  ∀ s t : State, step s = .next t → t.fuse.ident = s.fuse.ident

/-- Commands take effect in the order in which they arrived (R833): `n` steps take the first `n` that wait, and no
command adds to the queue or takes from it. -/
def Obligations.CommandsInOrder : Prop :=
  ∀ (q rest : List Instr) (s : State), s.pending = q ++ rest → ∃ t : State, steps q.length s = .next t ∧ t.pending = rest
end

