-- ==== Sys2Proof/Laws/Memory.lean ====
section
/-! SUPPORT. Laws of the sparse maps and byte memories: what a read after a write gives, and that every
operation keeps the canonical form. -/
namespace Sys2Proof.Machine
open Sys2Proof

/-! ## Maps -/

@[simp] theorem look_nil {α : Type} (a : Nat) : look ([] : TMap α) a = none := rfl

/-- Keys strictly rising. -/
abbrev TMap.rising {α : Type} (m : TMap α) : Prop := m.Pairwise (fun c d => c.1 < d.1)

theorem look_put_self {α : Type} (m : TMap α) (a : Nat) (x : α) : look (put m a x) a = some x := by
  induction m with
  | nil => simp [put, look]
  | cons e m ih =>
    obtain ⟨k, v⟩ := e
    rcases Nat.lt_trichotomy a k with h | h | h
    · simp [put, look, h]
    · simp [put, look, h]
    · simp [put, look, Nat.not_lt_of_gt h, Nat.ne_of_gt h, ih]

theorem look_put_other {α : Type} (m : TMap α) (a b : Nat) (x : α) (h : b ≠ a) :
    look (put m a x) b = look m b := by
  induction m with
  | nil => simp [put, look, h]
  | cons e m ih =>
    obtain ⟨k, v⟩ := e
    rcases Nat.lt_trichotomy a k with g | g | g
    · simp [put, look, g, h]
    · subst g; simp [put, look, h]
    · by_cases e : b = k
      · simp [put, look, Nat.not_lt_of_gt g, Nat.ne_of_gt g, e]
      · simp [put, look, Nat.not_lt_of_gt g, Nat.ne_of_gt g, e, ih]

theorem mem_put {α : Type} (m : TMap α) (a : Nat) (x : α) (c : Nat × α) (h : c ∈ put m a x) :
    c = (a, x) ∨ c ∈ m := by
  induction m with
  | nil => simpa [put] using h
  | cons e m ih =>
    obtain ⟨k, v⟩ := e
    simp only [put] at h
    split at h
    · simpa using h
    · split at h <;> grind

theorem mem_del {α : Type} (m : TMap α) (a : Nat) (c : Nat × α) (h : c ∈ del m a) : c ∈ m := by
  induction m with
  | nil => simp [del] at h
  | cons e m ih =>
    obtain ⟨k, v⟩ := e
    simp only [del] at h
    split at h <;> grind

theorem put_rising {α : Type} (m : TMap α) (a : Nat) (x : α) (h : m.rising) : (put m a x).rising := by
  induction m with
  | nil => simp [put]
  | cons e m ih =>
    obtain ⟨k, v⟩ := e
    obtain ⟨h1, h2⟩ := List.pairwise_cons.1 h
    rcases Nat.lt_trichotomy a k with g | g | g
    · simp only [put, g, if_true]
      refine List.pairwise_cons.2 ⟨fun d hd => ?_, h⟩
      rcases List.mem_cons.1 hd with e | e
      · rw [e]; exact g
      · exact Nat.lt_trans g (h1 d e)
    · subst g
      simp only [put, Nat.lt_irrefl, if_false, if_true]
      exact List.pairwise_cons.2 ⟨h1, h2⟩
    · simp only [put, Nat.not_lt_of_gt g, Nat.ne_of_gt g, if_false]
      refine List.pairwise_cons.2 ⟨fun d hd => ?_, ih h2⟩
      rcases mem_put m a x d hd with e | e
      · rw [e]; exact g
      · exact h1 d e

theorem del_rising {α : Type} (m : TMap α) (a : Nat) (h : m.rising) : (del m a).rising := by
  induction m with
  | nil => simp [del]
  | cons e m ih =>
    obtain ⟨k, v⟩ := e
    obtain ⟨h1, h2⟩ := List.pairwise_cons.1 h
    simp only [del]
    split
    · exact h2
    · exact List.pairwise_cons.2 ⟨fun d hd => h1 d (mem_del m a d hd), ih h2⟩

theorem look_del_self {α : Type} (m : TMap α) (a : Nat) (h : m.rising) : look (del m a) a = none := by
  induction m with
  | nil => rfl
  | cons e m ih =>
    obtain ⟨k, v⟩ := e
    obtain ⟨h1, h2⟩ := List.pairwise_cons.1 h
    by_cases g : a = k
    · subst g
      simp only [del, if_true]
      clear ih h h2
      induction m with
      | nil => rfl
      | cons d m ih =>
        have := h1 d (by simp)
        obtain ⟨j, w⟩ := d
        simp only [look, Nat.ne_of_lt this, if_false]
        exact ih fun e he => h1 e (by simp [he])
    · simp [del, look, g, ih h2]

theorem look_del_other {α : Type} (m : TMap α) (a b : Nat) (h : b ≠ a) : look (del m a) b = look m b := by
  induction m with
  | nil => rfl
  | cons e m ih =>
    obtain ⟨k, v⟩ := e
    by_cases g : a = k
    · subst g; simp [del, look, h]
    · by_cases e : b = k
      · simp [del, look, g, e]
      · simp [del, look, g, e, ih]

/-! ## Bytes -/

theorem rd_wr_self (m : Mem) (a : Nat) (b : Byte) (h : Memory.wf m) : rd (wr m a b) a = b := by
  unfold rd wr lookD
  split
  · next e => simp [look_del_self m a h.1, e]
  · simp [look_put_self]

theorem rd_wr_other (m : Mem) (a c : Nat) (b : Byte) (h : c ≠ a) : rd (wr m a b) c = rd m c := by
  unfold rd wr lookD
  split
  · rw [look_del_other m a c h]
  · rw [look_put_other m a c b h]

theorem wr_wf (m : Mem) (a : Nat) (b : Byte) (h : Memory.wf m) : Memory.wf (wr m a b) := by
  unfold wr
  split
  · exact ⟨del_rising m a h.1, fun c hc => h.2 c (mem_del m a c hc)⟩
  · next g =>
    refine ⟨put_rising m a b h.1, fun c hc => ?_⟩
    rcases mem_put m a b c hc with e | e
    · rw [e]; exact g
    · exact h.2 c e

theorem wrN_wf (m : Mem) (a : Nat) (d : Bytes) (h : Memory.wf m) : Memory.wf (wrN m a d) := by
  induction d generalizing m a with
  | nil => exact h
  | cons b d ih => exact ih _ _ (wr_wf m a b h)

theorem filter_wf (m : Mem) (p : Host.Cell → Bool) (h : Memory.wf m) : Memory.wf (m.filter p) :=
  ⟨h.1.filter _, fun c hc => h.2 c ((List.mem_filter.1 hc).1)⟩

theorem zeroN_wf (m : Mem) (a n : Nat) (h : Memory.wf m) : Memory.wf (zeroN m a n) := filter_wf m _ h

theorem nil_wf : Memory.wf [] := ⟨List.Pairwise.nil, by simp⟩

/-- A byte outside the stored ones reads as before. -/
theorem rd_wrN_other (m : Mem) (a c : Nat) (d : Bytes) (h : c < a ∨ a + d.length ≤ c) :
    rd (wrN m a d) c = rd m c := by
  induction d generalizing m a with
  | nil => rfl
  | cons b d ih =>
    simp only [List.length_cons] at h
    have : c ≠ a := by omega
    simp only [wrN]
    rw [ih _ _ (by omega), rd_wr_other m a c b this]

/-- A stored byte reads as stored. -/
theorem rd_wrN_mem (m : Mem) (a i : Nat) (d : Bytes) (h : Memory.wf m) (hi : i < d.length) :
    rd (wrN m a d) (a + i) = d[i] := by
  induction d generalizing m a i with
  | nil => simp at hi
  | cons b d ih =>
    simp only [wrN]
    cases i with
    | zero =>
      rw [rd_wrN_other _ _ _ _ (by omega)]
      simpa using rd_wr_self m a b h
    | succ i =>
      have := ih (wr m a b) (a + 1) i (wr_wf m a b h) (by simpa using hi)
      rw [show a + (i + 1) = a + 1 + i by omega, this]
      simp

theorem look_filter {α : Type} (m : TMap α) (p : Nat → Bool) (a : Nat) :
    look (m.filter fun c => p c.1) a = if p a then look m a else none := by
  induction m with
  | nil => simp
  | cons e m ih =>
    obtain ⟨k, v⟩ := e
    by_cases hk : p k
    · by_cases e : a = k
      · subst e; simp [hk, look]
      · simp [hk, look, e, ih]
    · by_cases e : a = k
      · subst e
        simp only [List.filter_cons, hk, Bool.false_eq_true, if_false, ih]
      · simp [hk, look, e, ih]

theorem rd_zeroN (m : Mem) (a n c : Nat) :
    rd (zeroN m a n) c = if a ≤ c ∧ c < a + n then 0 else rd m c := by
  unfold rd zeroN lookD
  rw [look_filter m (fun k => decide (k < a) || decide (a + n ≤ k)) c]
  by_cases h : a ≤ c ∧ c < a + n
  · have : ¬ c < a ∧ ¬ a + n ≤ c := by omega
    simp [h, this]
  · have : c < a ∨ a + n ≤ c := by omega
    rcases this with g | g <;> simp [g, h]

end Sys2Proof.Machine
end

