-- ==== Sys2Proof/Laws/Keeps.lean ====
section
/-! SUPPORT. The shapes in which "keeps" passes through a definition: updates of a state, branches, folds, pairs. -/
namespace Sys2Proof.Machine
open Sys2Proof

theorem Keeps.refl (s : State) : Keeps s s := ⟨rfl, rfl, id⟩

theorem Keeps.trans {a b c : State} (h : Keeps a b) (g : Keeps b c) : Keeps a c :=
  ⟨g.ident.trans h.ident, g.pending.trans h.pending, fun w => g.canonical (h.canonical w)⟩

/-- "Keeps" of a state written out: only these fields matter. -/
structure KeepsLit (s0 : State) (fuse : Fuse) (ram mem : Mem) (basin : Basin) (core : Core) (pool : Pool)
    (pending : List Instr) : Prop where
  ident : fuse.ident = s0.fuse.ident
  pending : pending = s0.pending
  mem : s0.Canonical → Memory.wf mem
  ram : s0.Canonical → Memory.wf ram
  scratch : s0.Canonical → Memory.wf core.scratch
  lanes : s0.Canonical → Memory.wf core.lanes
  pool : s0.Canonical → Memory.wf pool.mem
  lines : s0.Canonical → ∀ l ∈ basin.lines, Memory.wf l.2.backing

theorem keeps_mk {s0 : State} {fuse rst dev mbx svc ram gpio smb tap sec pwr flt time pace mem basin ext valleys drainSt core link
    links fabric eth mgmt pool ford cyn free out pending} :
    Keeps s0 ⟨fuse, rst, dev, mbx, svc, ram, gpio, smb, tap, sec, pwr, flt, time, pace, mem, basin, ext, valleys, drainSt, core,
      link, links, fabric, eth, mgmt, pool, ford, cyn, free, out, pending⟩ =
    KeepsLit s0 fuse ram mem basin core pool pending :=
  propext ⟨fun h => ⟨h.ident, h.pending, fun w => (h.canonical w).mem, fun w => (h.canonical w).ram,
      fun w => (h.canonical w).scratch, fun w => (h.canonical w).lanes, fun w => (h.canonical w).pool,
      fun w => (h.canonical w).lines⟩,
    fun h => ⟨h.ident, h.pending, fun w => ⟨h.mem w, h.ram w, h.scratch w, h.lanes w, h.pool w, h.lines w⟩⟩⟩

/-- An update that also writes memories, each canonical again. -/
theorem KeepsLit.wide {s0 x : State} {ram mem : Mem} {basin : Basin} {core : Core} {pool : Pool} (h : Keeps s0 x)
    (m1 : x.Canonical → Memory.wf mem) (m2 : x.Canonical → Memory.wf ram)
    (m3 : x.Canonical → Memory.wf core.scratch) (m4 : x.Canonical → Memory.wf core.lanes)
    (m5 : x.Canonical → Memory.wf pool.mem) (m6 : x.Canonical → ∀ l ∈ basin.lines, Memory.wf l.2.backing) :
    KeepsLit s0 x.fuse ram mem basin core pool x.pending :=
  ⟨h.ident, h.pending, fun w => m1 (h.canonical w), fun w => m2 (h.canonical w), fun w => m3 (h.canonical w),
    fun w => m4 (h.canonical w), fun w => m5 (h.canonical w), fun w => m6 (h.canonical w)⟩

/-- An update that leaves the fuses, the queue and every memory alone. -/
theorem KeepsLit.of {s0 x : State} {ram mem : Mem} {basin : Basin} {core : Core} {pool : Pool} (h : Keeps s0 x)
    (m1 : mem = x.mem) (m2 : ram = x.ram) (m3 : core.scratch = x.core.scratch) (m4 : core.lanes = x.core.lanes)
    (m5 : pool.mem = x.pool.mem) (m6 : basin.lines = x.basin.lines) :
    KeepsLit s0 x.fuse ram mem basin core pool x.pending :=
  .wide h (m1 ▸ State.Canonical.mem) (m2 ▸ State.Canonical.ram) (m3 ▸ State.Canonical.scratch)
    (m4 ▸ State.Canonical.lanes) (m5 ▸ State.Canonical.pool) (m6 ▸ State.Canonical.lines)

theorem Keeps.foldl {α : Type} {s0 s : State} {g : State → α → State} (l : List α) (h : Keeps s0 s)
    (hg : ∀ t x, Keeps s0 t → Keeps s0 (g t x)) : Keeps s0 (l.foldl g s) := by
  induction l generalizing s with
  | nil => exact h
  | cons x l ih => exact ih (hg s x h)

theorem Keeps.foldl1 {α β : Type} {s0 : State} {a : State × β} {g : State × β → α → State × β} (l : List α)
    (h : Keeps s0 a.1) (hg : ∀ t x, Keeps s0 t.1 → Keeps s0 (g t x).1) : Keeps s0 (l.foldl g a).1 := by
  induction l generalizing a with
  | nil => exact h
  | cons x l ih => exact ih (hg a x h)

theorem Keeps.foldl2 {α β : Type} {s0 : State} {a : β × State} {g : β × State → α → β × State} (l : List α)
    (h : Keeps s0 a.2) (hg : ∀ t x, Keeps s0 t.2 → Keeps s0 (g t x).2) : Keeps s0 (l.foldl g a).2 := by
  induction l generalizing a with
  | nil => exact h
  | cons x l ih => exact ih (hg a x h)

theorem Keeps.fst {α : Type} {s0 t : State} {p : State × α} {a : α} (e : p = (t, a)) (h : Keeps s0 p.1) : Keeps s0 t := by
  subst e; exact h

theorem Keeps.snd {α : Type} {s0 t : State} {p : α × State} {a : α} (e : p = (a, t)) (h : Keeps s0 p.2) : Keeps s0 t := by
  subst e; exact h

/-- An optional state, where there is one. -/
structure KeepsOpt (s0 : State) (o : Option State) : Prop where
  keeps : ∀ t, o = some t → Keeps s0 t

theorem Keeps.ofOpt {s0 t : State} {o : Option State} (e : o = some t) (h : KeepsOpt s0 o) : Keeps s0 t :=
  h.keeps t e

theorem KeepsOpt.none (s0 : State) : KeepsOpt s0 none := ⟨fun _ e => nomatch e⟩

theorem KeepsOpt.some {s0 s : State} (h : Keeps s0 s) : KeepsOpt s0 (some s) :=
  ⟨fun _ e => Option.some.inj e ▸ h⟩

theorem KeepsOpt.map {α : Type} {s0 : State} {o : Option α} {f : α → State} (hf : ∀ x, Keeps s0 (f x)) :
    KeepsOpt s0 (o.map f) :=
  ⟨fun t e => by obtain ⟨x, -, rfl⟩ := Option.map_eq_some_iff.1 e; exact hf x⟩

/-- An outcome's next state, where there is one. -/
structure KeepsOut (s0 : State) (o : Out) : Prop where
  keeps : ∀ t, o = .next t → Keeps s0 t

theorem KeepsOut.next {s0 s : State} (h : Keeps s0 s) : KeepsOut s0 (.next s) := by
  refine ⟨fun t e => ?_⟩
  injection e with e; exact e ▸ h

/-- What a message's meaning answers: its state, and what follows its response. -/
structure KeepsRes (s0 : State) (x : Res) : Prop where
  s : Keeps s0 x.s
  after : ∀ t, Keeps s0 t → Keeps s0 (x.after t)

theorem keepsRes_mk {s0 s : State} {st : St} {detail : Nat} {pay : Bytes} {after : State → State} :
    KeepsRes s0 ⟨s, st, detail, pay, after⟩ = (Keeps s0 s ∧ ∀ t, Keeps s0 t → Keeps s0 (after t)) :=
  propext ⟨fun h => ⟨h.s, h.after⟩, fun h => ⟨h.1, h.2⟩⟩

theorem Keeps.idAfter {s0 : State} : ∀ t, Keeps s0 t → Keeps s0 (id t) := fun _ h => h

theorem KeepsRes.fail {s0 s : State} {st : St} {detail : Nat} (h : Keeps s0 s) : KeepsRes s0 (Res.fail s st detail) :=
  ⟨h, fun _ g => g⟩

theorem KeepsRes.okay {s0 s : State} {pay : Bytes} (h : Keeps s0 s) : KeepsRes s0 (Res.okay s pay) := ⟨h, fun _ g => g⟩

theorem KeepsRes.pend {s0 s : State} (h : Keeps s0 s) : KeepsRes s0 (Res.pend s) := ⟨h, fun _ g => g⟩

theorem KeepsRes.field {s0 s : State} {off : Nat} (h : Keeps s0 s) : KeepsRes s0 (Res.field s off) := ⟨h, fun _ g => g⟩

end Sys2Proof.Machine
end

