-- ==== Sys2Proof/Laws/KeepsOps.lean ====
section
/-! SUPPORT. Every definition of operations every chapter uses, the Basin, the board and the mailboxes keeps the fused identity, the waiting commands and
canonical memories ("Keeps", Sys2Proof/Safety.lean). -/
namespace Sys2Proof.Machine
open Sys2Proof

theorem State.noteEdges_keeps {s0 s : State} (old : State) (h : Keeps s0 s) :
    Keeps s0 (State.noteEdges old s) := by
  unfold State.noteEdges
  try dsimp only
  repeat' (first
    | with_reducible assumption | (simp only [keeps_mk]; with_reducible refine KeepsLit.of ?_ rfl rfl rfl rfl rfl rfl))

theorem State.advanceTo_keeps {s0 s : State} (t : Nat) (h : Keeps s0 s) :
    Keeps s0 (State.advanceTo s t) := by
  unfold State.advanceTo
  try dsimp only
  repeat' (first
    | with_reducible assumption | (simp only [keeps_mk]; with_reducible refine KeepsLit.of ?_ rfl rfl rfl rfl rfl rfl)
    | split)

theorem State.drawNat_keeps {s0 s : State} (use : Nat) (h : Keeps s0 s) :
    Keeps s0 (State.drawNat s use).2 := by
  unfold State.drawNat
  try dsimp only
  repeat' (first
    | with_reducible assumption | (simp only [keeps_mk]; with_reducible refine KeepsLit.of ?_ rfl rfl rfl rfl rfl rfl))

theorem State.drawBytes_keeps {s0 s : State} (use : Nat) (n : Nat) (h : Keeps s0 s) :
    Keeps s0 (State.drawBytes s use n).2 := by
  unfold State.drawBytes
  try dsimp only
  repeat' (first
    | with_reducible assumption | (simp only [keeps_mk]; with_reducible refine KeepsLit.of ?_ rfl rfl rfl rfl rfl rfl))

theorem State.count_keeps {s0 s : State} (i : Nat) (n : Nat) (h : Keeps s0 s) :
    Keeps s0 (State.count s i n) := by
  unfold State.count
  try dsimp only
  repeat' (first
    | with_reducible assumption | (simp only [keeps_mk]; with_reducible refine KeepsLit.of ?_ rfl rfl rfl rfl rfl rfl))

theorem State.emit_keeps {s0 s : State} (o : Output) (h : Keeps s0 s) :
    Keeps s0 (State.emit s o) := by
  unfold State.emit
  try dsimp only
  repeat' (first
    | with_reducible assumption | (simp only [keeps_mk]; with_reducible refine KeepsLit.of ?_ rfl rfl rfl rfl rfl rfl))

theorem State.msix_keeps {s0 s : State} (v : Nat) (h : Keeps s0 s) :
    Keeps s0 (State.msix s v) := by
  unfold State.msix
  try dsimp only
  repeat' (first
    | with_reducible assumption | with_reducible apply State.emit_keeps
    | (simp only [keeps_mk]; with_reducible refine KeepsLit.of ?_ rfl rfl rfl rfl rfl rfl) | split)

theorem State.setBox_keeps {s0 s : State} (n : Nat) (b : Mbx) (h : Keeps s0 s) :
    Keeps s0 (State.setBox s n b) := by
  unfold State.setBox
  try dsimp only
  repeat' (first
    | with_reducible assumption | (simp only [keeps_mk]; with_reducible refine KeepsLit.of ?_ rfl rfl rfl rfl rfl rfl))

theorem State.updBox_keeps {s0 s : State} (n : Nat) (f : Mbx → Mbx) (h : Keeps s0 s) :
    Keeps s0 (State.updBox s n f) := by
  unfold State.updBox
  try dsimp only
  repeat' (first
    | with_reducible assumption | with_reducible apply State.setBox_keeps)

theorem State.irq_keeps {s0 s : State} (n : Nat) (bitNo : Nat) (h : Keeps s0 s) :
    Keeps s0 (State.irq s n bitNo) := by
  unfold State.irq
  try dsimp only
  repeat' (first
    | with_reducible assumption | with_reducible apply State.setBox_keeps | with_reducible apply State.msix_keeps
    | split)

theorem State.arrived_keeps {s0 s : State} (x : Xport) (h : Keeps s0 s) :
    Keeps s0 (State.arrived s x) := by
  unfold State.arrived
  try dsimp only
  repeat' (first
    | with_reducible assumption | (simp only [keeps_mk]; with_reducible refine KeepsLit.of ?_ rfl rfl rfl rfl rfl rfl))

theorem State.consume_keeps {s0 s : State} (via : Via) (h : Keeps s0 s) :
    Keeps s0 (State.consume s via) := by
  unfold State.consume
  try dsimp only
  repeat' (first
    | with_reducible assumption | with_reducible apply State.updBox_keeps
    | (simp only [keeps_mk]; with_reducible refine KeepsLit.of ?_ rfl rfl rfl rfl rfl rfl) | split)

theorem State.smbItem_keeps {s0 s : State} (isNtf : Bool) (bytes : Bytes) (h : Keeps s0 s) :
    Keeps s0 (State.smbItem s isNtf bytes) := by
  unfold State.smbItem
  try dsimp only
  repeat' (first
    | with_reducible assumption | (simp only [keeps_mk]; with_reducible refine KeepsLit.of ?_ rfl rfl rfl rfl rfl rfl))

theorem State.postRsp_keeps {s0 s : State} (via : Via) (seq : Nat) (msg : Bytes) (h : Keeps s0 s) :
    Keeps s0 (State.postRsp s via seq msg) := by
  unfold State.postRsp
  try dsimp only
  repeat' (first
    | with_reducible assumption | with_reducible apply State.updBox_keeps | with_reducible apply State.irq_keeps
    | with_reducible apply State.smbItem_keeps | with_reducible apply State.emit_keeps
    | (simp only [keeps_mk]; with_reducible refine KeepsLit.of ?_ rfl rfl rfl rfl rfl rfl)
    | (simp only [keeps_mk]; with_reducible refine KeepsLit.wide ?_ ?_ ?_ ?_ ?_ ?_ ?_) | exact State.Canonical.mem ‹_›
    | exact State.Canonical.ram ‹_› | exact State.Canonical.scratch ‹_› | exact State.Canonical.lanes ‹_›
    | exact State.Canonical.pool ‹_› | exact State.Canonical.lines ‹_› _ ‹_› | with_reducible apply zeroN_wf
    | with_reducible apply wrN_wf | intro _ | split)

theorem State.ntfRing_keeps {s0 s : State} (n : Nat) (isDone : Bool) (msg : Bytes) (h : Keeps s0 s) :
    Keeps s0 (State.ntfRing s n isDone msg) := by
  unfold State.ntfRing
  try dsimp only
  repeat' (first
    | with_reducible assumption | with_reducible apply State.updBox_keeps | with_reducible apply State.irq_keeps
    | (simp only [keeps_mk]; with_reducible refine KeepsLit.wide ?_ ?_ ?_ ?_ ?_ ?_ ?_) | exact State.Canonical.mem ‹_›
    | exact State.Canonical.ram ‹_› | exact State.Canonical.scratch ‹_› | exact State.Canonical.lanes ‹_›
    | exact State.Canonical.pool ‹_› | exact State.Canonical.lines ‹_› _ ‹_› | with_reducible apply zeroN_wf
    | with_reducible apply wrN_wf | intro _ | split)

theorem State.ntfSmb_keeps {s0 s : State} (isDone : Bool) (msg : Bytes) (h : Keeps s0 s) :
    Keeps s0 (State.ntfSmb s isDone msg) := by
  unfold State.ntfSmb
  try dsimp only
  repeat' (first
    | with_reducible assumption | with_reducible apply State.smbItem_keeps
    | (simp only [keeps_mk]; with_reducible refine KeepsLit.of ?_ rfl rfl rfl rfl rfl rfl) | split)

theorem State.ntfNet_keeps {s0 s : State} (n : Nat) (msg : Bytes) (h : Keeps s0 s) :
    Keeps s0 (State.ntfNet s n msg) := by
  unfold State.ntfNet
  try dsimp only
  repeat' (first
    | with_reducible assumption | with_reducible apply State.emit_keeps
    | (simp only [keeps_mk]; with_reducible refine KeepsLit.of ?_ rfl rfl rfl rfl rfl rfl) | split)

theorem State.notify_keeps {s0 s : State} (n : Nat) (msg : Bytes) (h : Keeps s0 s) :
    Keeps s0 (State.notify s n msg) := by
  unfold State.notify
  try dsimp only
  repeat' (first
    | with_reducible assumption | with_reducible apply State.ntfRing_keeps | with_reducible apply State.ntfNet_keeps
    | with_reducible apply State.ntfSmb_keeps | split)

theorem State.flushNtf_keeps {s0 s : State} (n : Nat) (h : Keeps s0 s) :
    Keeps s0 (State.flushNtf s n) := by
  unfold State.flushNtf
  try dsimp only
  repeat' (first
    | with_reducible assumption | with_reducible apply State.ntfRing_keeps | with_reducible apply State.updBox_keeps
    | with_reducible apply Keeps.foldl | intro _ | split)

theorem State.flushSmb_keeps {s0 s : State} (h : Keeps s0 s) :
    Keeps s0 (State.flushSmb s) := by
  unfold State.flushSmb
  try dsimp only
  repeat' (first
    | with_reducible assumption | with_reducible apply State.ntfSmb_keeps | with_reducible apply Keeps.foldl
    | (simp only [keeps_mk]; with_reducible refine KeepsLit.of ?_ rfl rfl rfl rfl rfl rfl) | intro _ | split)

theorem State.event_keeps {s0 s : State} (source : Nat) (ev : Nat) (unit : Nat) (detail : Bytes) (valley : Option Nat) (h : Keeps s0 s) :
    Keeps s0 (State.event s source ev unit detail valley) := by
  unfold State.event
  try dsimp only
  repeat' (first
    | with_reducible assumption | with_reducible apply State.notify_keeps | split)

theorem State.done_keeps {s0 s : State} (d : Deferred) (st : St) (detail : Nat) (result : Bytes) (h : Keeps s0 s) :
    Keeps s0 (State.done s d st detail result) := by
  unfold State.done
  try dsimp only
  repeat' (first
    | with_reducible assumption | with_reducible apply State.updBox_keeps | with_reducible apply State.ntfRing_keeps
    | with_reducible apply State.ntfSmb_keeps | with_reducible apply State.ntfNet_keeps | split)

theorem State.doneOpt_keeps {s0 s : State} (d : Option Deferred) (st : St) (detail : Nat) (result : Bytes) (h : Keeps s0 s) :
    Keeps s0 (State.doneOpt s d st detail result) := by
  unfold State.doneOpt
  try dsimp only
  repeat' (first
    | with_reducible assumption | with_reducible apply State.done_keeps | split)

theorem State.stage_keeps {s0 s : State} (e : FaultEv) (h : Keeps s0 s) :
    Keeps s0 (State.stage s e).1 := by
  unfold State.stage
  try dsimp only
  repeat' (first
    | with_reducible assumption | (simp only [keeps_mk]; with_reducible refine KeepsLit.of ?_ rfl rfl rfl rfl rfl rfl)
    | split)

theorem State.requestTest_keeps {s0 s : State} (u : UnitRef) (seq : Nat) (h : Keeps s0 s) :
    Keeps s0 (State.requestTest s u seq) := by
  unfold State.requestTest
  try dsimp only
  repeat' (first
    | with_reducible assumption | (simp only [keeps_mk]; with_reducible refine KeepsLit.of ?_ rfl rfl rfl rfl rfl rfl)
    | split)

theorem State.failProbation_keeps {s0 s : State} (u : UnitRef) (h : Keeps s0 s) :
    Keeps s0 (State.failProbation s u) := by
  unfold State.failProbation
  try dsimp only
  repeat' (first
    | with_reducible assumption | with_reducible apply State.stage_keeps | with_reducible apply State.done_keeps
    | (simp only [keeps_mk]; with_reducible refine KeepsLit.of ?_ rfl rfl rfl rfl rfl rfl) | split)

theorem State.errorSeq_keeps {s0 s : State} (e : FaultEv) (units : List UnitRef) (h : Keeps s0 s) :
    Keeps s0 (State.errorSeq s e units).1 := by
  unfold State.errorSeq
  try dsimp only
  repeat' (first
    | with_reducible assumption | with_reducible apply State.stage_keeps
    | with_reducible apply State.failProbation_keeps | with_reducible apply State.requestTest_keeps
    | with_reducible apply Keeps.foldl | intro _)

theorem State.error_keeps {s0 s : State} (e : FaultEv) (units : List UnitRef) (h : Keeps s0 s) :
    Keeps s0 (State.error s e units) := by
  unfold State.error
  try dsimp only
  repeat' (first
    | with_reducible assumption | with_reducible apply State.errorSeq_keeps)

theorem State.fenceUnits_keeps {s0 s : State} (units : List UnitRef) (h : Keeps s0 s) :
    Keeps s0 (State.fenceUnits s units) := by
  unfold State.fenceUnits
  try dsimp only
  repeat' (first
    | with_reducible assumption | (simp only [keeps_mk]; with_reducible refine KeepsLit.of ?_ rfl rfl rfl rfl rfl rfl))

theorem State.enter_keeps {s0 s : State} (st : DevState) (reason : Nat) (h : Keeps s0 s) :
    Keeps s0 (State.enter s st reason) := by
  unfold State.enter
  try dsimp only
  repeat' (first
    | with_reducible assumption | with_reducible apply State.noteEdges_keeps | with_reducible apply State.irq_keeps
    | with_reducible apply State.notify_keeps | with_reducible apply Keeps.foldl
    | (simp only [keeps_mk]; with_reducible refine KeepsLit.of ?_ rfl rfl rfl rfl rfl rfl) | intro _ | split)

theorem State.clearRings_keeps {s0 s : State} (h : Keeps s0 s) :
    Keeps s0 (State.clearRings s) := by
  unfold State.clearRings
  try dsimp only
  repeat' (first
    | with_reducible assumption | with_reducible apply State.noteEdges_keeps
    | (simp only [keeps_mk]; with_reducible refine KeepsLit.wide ?_ ?_ ?_ ?_ ?_ ?_ ?_)
    | exact State.Canonical.mem ‹_› | exact State.Canonical.ram ‹_› | exact State.Canonical.scratch ‹_›
    | exact State.Canonical.lanes ‹_› | exact State.Canonical.pool ‹_› | exact State.Canonical.lines ‹_› _ ‹_›
    | with_reducible apply filter_wf | intro _)

theorem State.zeroRings_keeps {s0 s : State} (h : Keeps s0 s) :
    Keeps s0 (State.zeroRings s) := by
  unfold State.zeroRings
  try dsimp only
  repeat' (first
    | with_reducible assumption | with_reducible apply State.flushNtf_keeps
    | with_reducible apply State.clearRings_keeps | with_reducible apply State.flushSmb_keeps
    | with_reducible apply Keeps.foldl)

theorem State.endDeferred_keeps {s0 s : State} (st : St) (keep : Deferred → Bool) (h : Keeps s0 s) :
    Keeps s0 (State.endDeferred s st keep) := by
  unfold State.endDeferred
  try dsimp only
  repeat' (first
    | with_reducible assumption | with_reducible apply State.done_keeps | with_reducible apply Keeps.foldl | intro _)

theorem Res.work_keeps {s0 : State} {x : Res} (r : Req) (h : KeepsRes s0 x) : KeepsRes s0 (x.work r) := by
  have g : Keeps s0 (x.s.drawNat 42).2 := State.drawNat_keeps 42 h.s
  unfold Res.work
  split
  next k s e =>
  rw [e] at g
  split
  · exact ⟨g, fun t ht => State.done_keeps _ _ _ _ (h.after t ht)⟩
  · exact ⟨g, h.after⟩

theorem Msg.reply_keeps {s0 s : State} (m : Msg) (r : Req) (hm : ∀ {a b : State} (r : Req), Keeps a b → KeepsRes a (m.run r b))
    (h : Keeps s0 s) : KeepsRes s0 (m.reply r s) := by
  unfold Msg.reply
  split
  · exact .fail h
  · split
    · exact .fail h
    · dsimp only
      split
      · split
        · exact .fail h
        · refine ⟨?_, (hm r h).after⟩
          dsimp only
          exact State.updBox_keeps _ _ (hm r h).s
      · exact hm r h

theorem Msg.answer_keeps {s0 s : State} (m : Msg) (r : Req) (hm : ∀ {a b : State} (r : Req), Keeps a b → KeepsRes a (m.run r b))
    (h : Keeps s0 s) : Keeps s0 (m.answer r s) := by
  have g := Msg.reply_keeps m r hm (State.consume_keeps r.via h)
  exact g.after _ (State.postRsp_keeps _ _ _ g.s)

theorem serveIf_keeps {m : Msg} {picks : Req → Bool} {via : Via} {s0 s : State} (h : Keeps s0 s)
    (hm : ∀ {a b : State} (r : Req), Keeps a b → KeepsRes a (m.run r b)) : KeepsOut s0 (serveIf m picks via s) := by
  apply KeepsOut.next
  split
  · exact h
  · dsimp only
    split
    · exact Msg.answer_keeps m _ hm h
    · exact h

theorem serve_keeps {m : Msg} {via : Via} {s : State}
    (hm : ∀ {a b : State} (r : Req), Keeps a b → KeepsRes a (m.run r b)) : KeepsOut s (serve m via s) :=
  serveIf_keeps (.refl s) hm

theorem State.updGroup_keeps {s0 s : State} (g : Nat) (f : Group → Group) (h : Keeps s0 s) :
    Keeps s0 (State.updGroup s g f) := by
  unfold State.updGroup
  try dsimp only
  repeat' (first
    | with_reducible assumption | (simp only [keeps_mk]; with_reducible refine KeepsLit.of ?_ rfl rfl rfl rfl rfl rfl))

theorem State.updStack_keeps {s0 s : State} (i : Nat) (f : Stack → Stack) (h : Keeps s0 s) :
    Keeps s0 (State.updStack s i f) := by
  unfold State.updStack
  try dsimp only
  repeat' (first
    | with_reducible assumption | (simp only [keeps_mk]; with_reducible refine KeepsLit.of ?_ rfl rfl rfl rfl rfl rfl))

theorem State.clearPoison_keeps {s0 s : State} (a : Nat) (n : Nat) (h : Keeps s0 s) :
    Keeps s0 (State.clearPoison s a n) := by
  unfold State.clearPoison
  try dsimp only
  repeat' (first
    | with_reducible assumption | (simp only [keeps_mk]; with_reducible refine KeepsLit.of ?_ rfl rfl rfl rfl rfl rfl)
    | split)

theorem State.dropRegion_keeps {s0 s : State} (lpddr : Bool) (r : Nat) (h : Keeps s0 s) :
    Keeps s0 (s.dropRegion lpddr r) := by
  unfold State.dropRegion
  dsimp only
  rw [keeps_mk]
  exact .wide h (fun w => filter_wf _ _ w.mem) State.Canonical.ram State.Canonical.scratch State.Canonical.lanes
    State.Canonical.pool fun w y hy => w.lines y (List.mem_filter.1 hy).1

theorem State.loseRegion_keeps {s0 s : State} (lpddr : Bool) (r : Nat) (h : Keeps s0 s) :
    Keeps s0 (State.loseRegion s lpddr r) := by
  unfold State.loseRegion
  try dsimp only
  repeat' (first
    | with_reducible assumption | with_reducible apply State.dropRegion_keeps | with_reducible apply State.event_keeps
    | split)

theorem State.retireChannel_keeps {s0 s : State} (lpddr : Bool) (ch : Nat) (related : Nat) (h : Keeps s0 s) :
    Keeps s0 (State.retireChannel s lpddr ch related) := by
  unfold State.retireChannel
  try dsimp only
  repeat' (first
    | with_reducible assumption | with_reducible apply State.stage_keeps | with_reducible apply State.loseRegion_keeps
    | with_reducible apply State.enter_keeps | with_reducible apply State.event_keeps
    | (simp only [keeps_mk]; with_reducible refine KeepsLit.of ?_ rfl rfl rfl rfl rfl rfl) | split)

theorem State.poison_keeps {s0 s : State} (a : Nat) (n : Nat) (h : Keeps s0 s) :
    Keeps s0 (State.poison s a n) := by
  unfold State.poison
  try dsimp only
  repeat' (first
    | with_reducible assumption | with_reducible apply State.retireChannel_keeps | with_reducible apply Keeps.foldl
    | (simp only [keeps_mk]; with_reducible refine KeepsLit.of ?_ rfl rfl rfl rfl rfl rfl)
    | (simp only [keeps_mk]; with_reducible refine KeepsLit.wide ?_ ?_ ?_ ?_ ?_ ?_ ?_) | exact State.Canonical.mem ‹_›
    | exact State.Canonical.ram ‹_› | exact State.Canonical.scratch ‹_› | exact State.Canonical.lanes ‹_›
    | exact State.Canonical.pool ‹_› | exact State.Canonical.lines ‹_› _ ‹_› | with_reducible apply zeroN_wf | intro _
    | split)

theorem look_mem {α : Type} {m : TMap α} {a : Nat} {x : α} (h : look m a = some x) : (a, x) ∈ m := by
  induction m with
  | nil => simp [look] at h
  | cons e m ih =>
    obtain ⟨k, v⟩ := e
    simp only [look] at h
    split at h
    · rename_i e; subst e; injection h with h; subst h; simp
    · exact List.mem_cons_of_mem _ (ih h)

theorem State.Canonical.line {s : State} {l : Nat} {x : Line} (w : s.Canonical) (e : look s.basin.lines l = some x) :
    Memory.wf x.backing := w.lines _ (look_mem e)

theorem State.setLine_keeps {s0 s : State} {x : Line} (l : Nat) (h :
    Keeps s0 s) (hx : s.Canonical → Memory.wf x.backing) :
    Keeps s0 (s.setLine l x) := by
  unfold State.setLine
  rw [keeps_mk]
  refine .wide h State.Canonical.mem State.Canonical.ram State.Canonical.scratch State.Canonical.lanes State.Canonical.pool
    fun w y hy => ?_
  rcases mem_put _ _ _ _ hy with rfl | hy
  · exact hx w
  · exact w.lines y hy

theorem State.countMem_keeps {s0 s : State} (a : Nat) (n : Nat) (h : Keeps s0 s) :
    Keeps s0 (State.countMem s a n) := by
  unfold State.countMem
  try dsimp only
  repeat' (first
    | with_reducible assumption | with_reducible apply State.count_keeps | split)

theorem State.writeBack_keeps {s0 s : State} (l : Nat) (h : Keeps s0 s) : Keeps s0 (s.writeBack l) := by
  unfold State.writeBack
  split
  · exact State.countMem_keeps _ _ (State.setLine_keeps _ h fun _ => nil_wf)
  · exact h

theorem State.loseLine_keeps {s0 s : State} (l : Nat) (h : Keeps s0 s) : Keeps s0 (s.loseLine l) := by
  unfold State.loseLine
  split
  · rw [keeps_mk]
    refine .wide h (fun w => ?_) State.Canonical.ram State.Canonical.scratch State.Canonical.lanes State.Canonical.pool
      fun w y hy => w.lines y (mem_del _ _ _ hy)
    split
    · exact wrN_wf _ _ _ w.mem
    · exact w.mem
  · exact h

theorem State.dropLine_keeps {s0 s : State} (l : Nat) (h : Keeps s0 s) : Keeps s0 (s.dropLine l) := by
  unfold State.dropLine
  rw [keeps_mk]
  exact .wide h State.Canonical.mem State.Canonical.ram State.Canonical.scratch State.Canonical.lanes State.Canonical.pool
    fun w y hy => w.lines y (mem_del _ _ _ hy)

theorem State.touch_keeps {s0 s : State} (v a n l : Nat) (h : Keeps s0 s) : Keeps s0 (s.touch v a n l) := by
  have h' : Keeps s0 { s with basin := { s.basin with clock := s.basin.clock + 1 } } := by
    rw [keeps_mk]; exact .of h rfl rfl rfl rfl rfl rfl
  unfold State.touch
  dsimp only
  split
  · rename_i e
    exact State.count_keeps _ _ (State.setLine_keeps _ h' fun w => State.Canonical.lines w _ (look_mem e))
  · have g := State.countMem_keeps (l * 256) (min (a + n) (l * 256 + 256) - max a (l * 256)) h'
    split
    · exact g
    · split
      · exact g
      · split
        · exact State.count_keeps _ _ g
        · refine State.setLine_keeps _ ?_ fun _ => nil_wf
          have k := fun i => State.countMem_keeps (l * 256) 256 (State.count_keeps i 1 h')
          split
          · exact State.dropLine_keeps _ (State.writeBack_keeps _ (k _))
          · exact k _

theorem State.backInvalidate_keeps {s0 s : State} (l : Nat) (h : Keeps s0 s) :
    Keeps s0 (State.backInvalidate s l) := by
  unfold State.backInvalidate
  try dsimp only
  repeat' (first
    | with_reducible assumption | with_reducible apply State.emit_keeps
    | (simp only [keeps_mk]; with_reducible refine KeepsLit.of ?_ rfl rfl rfl rfl rfl rfl) | split)

theorem State.recall_keeps {s0 s : State} (a : Nat) (n : Nat) (write : Bool) (h : Keeps s0 s) :
    Keeps s0 (State.recall s a n write) := by
  unfold State.recall
  try dsimp only
  repeat' (first
    | with_reducible assumption | with_reducible apply State.backInvalidate_keeps | with_reducible apply Keeps.foldl)

theorem State.holdWrite_keeps {s0 s : State} (who : Option (Nat × Nat)) (a : Nat) (d : Bytes) (through : Bool)
    (h : Keeps s0 s) : Keeps s0 (State.holdWrite s who a d through) := by
  unfold State.holdWrite
  try dsimp only
  repeat' (first
    | with_reducible assumption | with_reducible apply State.recall_keeps
    | (simp only [keeps_mk]; with_reducible refine KeepsLit.of ?_ rfl rfl rfl rfl rfl rfl))

theorem State.wakeChannels_keeps {s0 s : State} (a : Nat) (n : Nat) (h : Keeps s0 s) :
    Keeps s0 (State.wakeChannels s a n) := by
  unfold State.wakeChannels
  try dsimp only
  repeat' (first
    | with_reducible assumption | (simp only [keeps_mk]; with_reducible refine KeepsLit.of ?_ rfl rfl rfl rfl rfl rfl)
    | split)

theorem State.fetch_keeps {s0 s : State} (v : Nat) (a : Nat) (n : Nat) (alloc : Bool := true) (h : Keeps s0 s) :
    Keeps s0 (State.fetch s v a n alloc) := by
  unfold State.fetch
  try dsimp only
  repeat' (first
    | with_reducible assumption | with_reducible apply State.recall_keeps
    | with_reducible apply State.wakeChannels_keeps | with_reducible apply State.touch_keeps
    | with_reducible apply Keeps.foldl | intro _ | split)

theorem State.fetchWith_keeps {s0 s : State} (v : Nat) (a : Nat) (n : Nat) (b : Nat) (m : Nat) (alloc : Bool := true) (h : Keeps s0 s) :
    Keeps s0 (State.fetchWith s v a n b m alloc) := by
  unfold State.fetchWith
  try dsimp only
  repeat' (first
    | with_reducible assumption | with_reducible apply State.fetch_keeps | with_reducible apply State.recall_keeps
    | with_reducible apply State.wakeChannels_keeps | with_reducible apply State.touch_keeps
    | with_reducible apply Keeps.foldl | intro _ | split)

theorem State.putThrough_keeps {s0 s : State} (a : Nat) (d : Bytes) (h : Keeps s0 s) :
    Keeps s0 (s.putThrough a d) := by
  unfold State.putThrough
  dsimp only
  refine State.clearPoison_keeps _ _ ?_
  have h := State.wakeChannels_keeps a d.length h
  rw [keeps_mk]
  refine .wide h (fun w => wrN_wf _ _ _ w.mem) State.Canonical.ram State.Canonical.scratch State.Canonical.lanes
    State.Canonical.pool fun w y hy => ?_
  obtain ⟨x, hx, rfl⟩ := List.mem_map.1 hy
  split
  · exact wrN_wf _ _ _ (w.lines x hx)
  · exact w.lines x hx

theorem State.writeThrough_keeps {s0 s : State} (a : Nat) (d : Bytes) (h : Keeps s0 s) :
    Keeps s0 (State.writeThrough s a d) := by
  unfold State.writeThrough
  try dsimp only
  repeat' (first
    | with_reducible assumption | with_reducible apply State.holdWrite_keeps
    | with_reducible apply State.putThrough_keeps | split)

theorem State.throughFor_keeps {s0 s : State} (v ctx : Nat) (a : Nat) (d : Bytes) (h : Keeps s0 s) :
    Keeps s0 (State.throughFor s v ctx a d) := by
  unfold State.throughFor
  try dsimp only
  repeat' (first
    | with_reducible assumption | with_reducible apply State.holdWrite_keeps
    | with_reducible apply State.putThrough_keeps | split)

theorem State.dirty_keeps {s0 s : State} (who : Option (Nat × Nat)) (a n l : Nat) (h : Keeps s0 s) :
    Keeps s0 (s.dirty who a n l) := by
  unfold State.dirty
  split
  · rename_i e
    refine State.setLine_keeps _ h fun w => ?_
    dsimp only
    split
    · exact w.line e
    · exact filter_wf _ _ w.mem
  · exact h

theorem State.putFor_keeps {s0 s : State} (v : Nat) (ctx : Nat) (a : Nat) (d : Bytes) (h : Keeps s0 s) :
    Keeps s0 (State.putFor s v ctx a d) := by
  unfold State.putFor
  try dsimp only
  repeat' (first
    | with_reducible assumption | with_reducible apply State.wakeChannels_keeps
    | with_reducible apply State.touch_keeps | with_reducible apply State.dirty_keeps
    | with_reducible apply State.clearPoison_keeps | with_reducible apply Keeps.foldl
    | (simp only [keeps_mk]; with_reducible refine KeepsLit.wide ?_ ?_ ?_ ?_ ?_ ?_ ?_) | exact State.Canonical.mem ‹_›
    | exact State.Canonical.ram ‹_› | exact State.Canonical.scratch ‹_› | exact State.Canonical.lanes ‹_›
    | exact State.Canonical.pool ‹_› | exact State.Canonical.lines ‹_› _ ‹_› | with_reducible apply wrN_wf | intro _
    | split)

theorem State.writeFor_keeps {s0 s : State} (v : Nat) (ctx : Nat) (a : Nat) (d : Bytes) (h : Keeps s0 s) :
    Keeps s0 (State.writeFor s v ctx a d) := by
  unfold State.writeFor
  try dsimp only
  repeat' (first
    | with_reducible assumption | with_reducible apply State.holdWrite_keeps | with_reducible apply State.putFor_keeps
    | split)

theorem State.putHeld_keeps {s0 s : State} (w : HeldWrite) (h : Keeps s0 s) :
    Keeps s0 (State.putHeld s w) := by
  unfold State.putHeld
  try dsimp only
  repeat' (first
    | with_reducible assumption | with_reducible apply State.putFor_keeps
    | with_reducible apply State.putThrough_keeps | split)

theorem State.forgetHost_keeps {s0 s : State} (h : Keeps s0 s) :
    Keeps s0 (State.forgetHost s) := by
  unfold State.forgetHost
  try dsimp only
  repeat' (first
    | with_reducible assumption | with_reducible apply State.putHeld_keeps | with_reducible apply Keeps.foldl
    | (simp only [keeps_mk]; with_reducible refine KeepsLit.of ?_ rfl rfl rfl rfl rfl rfl))

theorem State.writeBackAll_keeps {s0 s : State} (h : Keeps s0 s) : Keeps s0 s.writeBackAll := by
  unfold State.writeBackAll
  rw [keeps_mk]
  refine .wide h State.Canonical.mem State.Canonical.ram State.Canonical.scratch State.Canonical.lanes State.Canonical.pool
    fun w y hy => ?_
  obtain ⟨x, _, rfl⟩ := List.mem_map.1 hy
  exact nil_wf

theorem State.loseAll_keeps {s0 s : State} (h : Keeps s0 s) :
    Keeps s0 (State.loseAll s) := by
  unfold State.loseAll
  try dsimp only
  repeat' (first
    | with_reducible assumption | with_reducible apply State.loseLine_keeps | with_reducible apply Keeps.foldl)

theorem State.assignBuckets_keeps {s0 s : State} (h : Keeps s0 s) :
    Keeps s0 (State.assignBuckets s) := by
  unfold State.assignBuckets
  try dsimp only
  repeat' (first
    | with_reducible assumption | (simp only [keeps_mk]; with_reducible refine KeepsLit.of ?_ rfl rfl rfl rfl rfl rfl))

theorem State.leaveCache_keeps {s0 s : State} (g : Nat) (h : Keeps s0 s) :
    Keeps s0 (State.leaveCache s g) := by
  unfold State.leaveCache
  try dsimp only
  repeat' (first
    | with_reducible assumption | with_reducible apply Keeps.foldl
    | (simp only [keeps_mk]; with_reducible refine KeepsLit.of ?_ rfl rfl rfl rfl rfl rfl) | intro _)

theorem State.keepBuckets_keeps {s0 s : State} (g : Nat) (h : Keeps s0 s) :
    Keeps s0 (State.keepBuckets s g) := by
  unfold State.keepBuckets
  try dsimp only
  repeat' (first
    | with_reducible assumption | (simp only [keeps_mk]; with_reducible refine KeepsLit.of ?_ rfl rfl rfl rfl rfl rfl))

theorem State.enterCache_keeps {s0 s : State} (g : Nat) (h : Keeps s0 s) :
    Keeps s0 (State.enterCache s g) := by
  unfold State.enterCache
  try dsimp only
  repeat' (first
    | with_reducible assumption | with_reducible apply Keeps.foldl
    | (simp only [keeps_mk]; with_reducible refine KeepsLit.of ?_ rfl rfl rfl rfl rfl rfl) | intro _ | split)

theorem State.flipBucket_keeps {s0 s : State} (b : Nat) (h : Keeps s0 s) :
    Keeps s0 (State.flipBucket s b) := by
  unfold State.flipBucket
  try dsimp only
  repeat' (first
    | with_reducible assumption | (simp only [keeps_mk]; with_reducible refine KeepsLit.of ?_ rfl rfl rfl rfl rfl rfl)
    | split)

theorem execBasinBucketFlip_keeps (bucket : Nat) {s : State} :
    KeepsOut s (execBasinBucketFlip bucket s) := by
  unfold execBasinBucketFlip
  have h := Keeps.refl s
  try dsimp only
  repeat' (first
    | with_reducible assumption | with_reducible apply State.flipBucket_keeps | with_reducible apply KeepsOut.next)

theorem State.setGpio_keeps {s0 s : State} (g : Gpio) (h : Keeps s0 s) :
    Keeps s0 (State.setGpio s g) := by
  unfold State.setGpio
  try dsimp only
  repeat' (first
    | with_reducible assumption | with_reducible apply State.noteEdges_keeps
    | (simp only [keeps_mk]; with_reducible refine KeepsLit.of ?_ rfl rfl rfl rfl rfl rfl))

theorem State.setLatch_keeps {s0 s : State} (v : W32) (h : Keeps s0 s) :
    Keeps s0 (State.setLatch s v) := by
  unfold State.setLatch
  try dsimp only
  repeat' (first
    | with_reducible assumption | with_reducible apply State.setGpio_keeps)

theorem execGpioOutLatchWrite_keeps (value : W32) {s : State} :
    KeepsOut s (execGpioOutLatchWrite value s) := by
  unfold execGpioOutLatchWrite
  have h := Keeps.refl s
  try dsimp only
  repeat' (first
    | with_reducible assumption | with_reducible apply State.setLatch_keeps | with_reducible apply KeepsOut.next
    | split)

theorem execGpioOutSetWrite_keeps (value : W32) {s : State} :
    KeepsOut s (execGpioOutSetWrite value s) := by
  unfold execGpioOutSetWrite
  have h := Keeps.refl s
  try dsimp only
  repeat' (first
    | with_reducible assumption | with_reducible apply State.setLatch_keeps | with_reducible apply KeepsOut.next
    | split)

theorem execGpioOutClrWrite_keeps (value : W32) {s : State} :
    KeepsOut s (execGpioOutClrWrite value s) := by
  unfold execGpioOutClrWrite
  have h := Keeps.refl s
  try dsimp only
  repeat' (first
    | with_reducible assumption | with_reducible apply State.setLatch_keeps | with_reducible apply KeepsOut.next
    | split)

theorem execGpioPadEdge_keeps (pin : Nat) (rising : Bool) {s : State} :
    KeepsOut s (execGpioPadEdge pin rising s) := by
  unfold execGpioPadEdge
  have h := Keeps.refl s
  try dsimp only
  repeat' (first
    | with_reducible assumption | with_reducible apply KeepsOut.next
    | (simp only [keeps_mk]; with_reducible refine KeepsLit.of ?_ rfl rfl rfl rfl rfl rfl) | split)

theorem execTriggerInEdge_keeps (pin : Nat) (edges : Nat) (stamp : Nat) {s : State} :
    KeepsOut s (execTriggerInEdge pin edges stamp s) := by
  unfold execTriggerInEdge
  have h := Keeps.refl s
  try dsimp only
  repeat' (first
    | with_reducible assumption | with_reducible apply State.event_keeps | with_reducible apply KeepsOut.next
    | (simp only [keeps_mk]; with_reducible refine KeepsLit.of ?_ rfl rfl rfl rfl rfl rfl) | split)

theorem execLedBlinkTimer_keeps (source : Nat) {s : State} :
    KeepsOut s (execLedBlinkTimer source s) := by
  unfold execLedBlinkTimer
  have h := Keeps.refl s
  try dsimp only
  repeat' (first
    | with_reducible assumption | with_reducible apply State.setGpio_keeps | with_reducible apply KeepsOut.next
    | split)

theorem State.mapPins_keeps {s0 s : State} (es : List Bytes) (latch : W32) (h : Keeps s0 s) :
    Keeps s0 (State.mapPins s es latch) := by
  unfold State.mapPins
  try dsimp only
  repeat' (first
    | with_reducible assumption | with_reducible apply State.setGpio_keeps)

theorem brdGpioSet_keeps {s0 s : State} (r : Req) (h : Keeps s0 s) :
    KeepsRes s0 (brdGpioSet.run r s) := by
  unfold brdGpioSet
  try dsimp only
  repeat' (first
    | with_reducible assumption | with_reducible apply State.mapPins_keeps | with_reducible apply KeepsRes.okay)

theorem execBrdGpioSet_keeps (via : Via) {s : State} : KeepsOut s (execBrdGpioSet via s) := serve_keeps brdGpioSet_keeps

theorem brdGpioQuery_keeps {s0 s : State} (r : Req) (h : Keeps s0 s) :
    KeepsRes s0 (brdGpioQuery.run r s) := by
  unfold brdGpioQuery
  try dsimp only
  repeat' (first
    | with_reducible assumption | with_reducible apply KeepsRes.okay)

theorem execBrdGpioQuery_keeps (via : Via) {s : State} : KeepsOut s (execBrdGpioQuery via s) := serve_keeps brdGpioQuery_keeps

theorem brdSensorRead_keeps {s0 s : State} (r : Req) (h : Keeps s0 s) :
    KeepsRes s0 (brdSensorRead.run r s) := by
  unfold brdSensorRead
  try dsimp only
  repeat' (first
    | with_reducible assumption | with_reducible apply KeepsRes.okay)

theorem execBrdSensorRead_keeps (via : Via) {s : State} : KeepsOut s (execBrdSensorRead via s) := serve_keeps brdSensorRead_keeps

theorem State.setSmb_keeps {s0 s : State} (p : Bytes) (h : Keeps s0 s) :
    Keeps s0 (State.setSmb s p) := by
  unfold State.setSmb
  try dsimp only
  repeat' (first
    | with_reducible assumption | with_reducible apply State.noteEdges_keeps
    | (simp only [keeps_mk]; with_reducible refine KeepsLit.of ?_ rfl rfl rfl rfl rfl rfl))

theorem brdSmbSet_keeps {s0 s : State} (r : Req) (h : Keeps s0 s) :
    KeepsRes s0 (brdSmbSet.run r s) := by
  unfold brdSmbSet
  try dsimp only
  repeat' (first
    | with_reducible assumption | with_reducible apply State.setSmb_keeps | with_reducible apply KeepsRes.okay)

theorem execBrdSmbSet_keeps (via : Via) {s : State} : KeepsOut s (execBrdSmbSet via s) := serve_keeps brdSmbSet_keeps

theorem execSmbDevId_keeps {s : State} :
    KeepsOut s (execSmbDevId s) := by
  unfold execSmbDevId
  have h := Keeps.refl s
  try dsimp only
  repeat' (first
    | with_reducible assumption | with_reducible apply State.emit_keeps | with_reducible apply KeepsOut.next)

theorem execSmbDevCaps_keeps {s : State} :
    KeepsOut s (execSmbDevCaps s) := by
  unfold execSmbDevCaps
  have h := Keeps.refl s
  try dsimp only
  repeat' (first
    | with_reducible assumption | with_reducible apply State.emit_keeps | with_reducible apply KeepsOut.next)

theorem execSmbStatus_keeps {s : State} :
    KeepsOut s (execSmbStatus s) := by
  unfold execSmbStatus
  have h := Keeps.refl s
  try dsimp only
  repeat' (first
    | with_reducible assumption | with_reducible apply State.emit_keeps | with_reducible apply KeepsOut.next)

theorem State.nackPec_keeps {s0 s : State} (h : Keeps s0 s) :
    Keeps s0 (State.nackPec s) := by
  unfold State.nackPec
  try dsimp only
  repeat' (first
    | with_reducible assumption | with_reducible apply State.emit_keeps
    | (simp only [keeps_mk]; with_reducible refine KeepsLit.of ?_ rfl rfl rfl rfl rfl rfl))

theorem execSmbMbxWrite_keeps (flags : Nat) (data : Bytes) (pec : Pec) {s : State} :
    KeepsOut s (execSmbMbxWrite flags data pec s) := by
  unfold execSmbMbxWrite
  have h := Keeps.refl s
  try dsimp only
  repeat' (first
    | with_reducible assumption | with_reducible apply State.emit_keeps | with_reducible apply State.nackPec_keeps
    | with_reducible apply State.arrived_keeps | with_reducible apply KeepsOut.next
    | (simp only [keeps_mk]; with_reducible refine KeepsLit.of ?_ rfl rfl rfl rfl rfl rfl) | split)

theorem execSmbMbxRead_keeps {s : State} :
    KeepsOut s (execSmbMbxRead s) := by
  unfold execSmbMbxRead
  have h := Keeps.refl s
  try dsimp only
  repeat' (first
    | with_reducible assumption | with_reducible apply State.emit_keeps | with_reducible apply KeepsOut.next)

theorem execSmbMbxAdvance_keeps (seq : Nat) (pec : Pec) {s : State} :
    KeepsOut s (execSmbMbxAdvance seq pec s) := by
  unfold execSmbMbxAdvance
  have h := Keeps.refl s
  try dsimp only
  repeat' (first
    | with_reducible assumption | with_reducible apply State.noteEdges_keeps
    | with_reducible apply State.nackPec_keeps | with_reducible apply State.emit_keeps | with_reducible apply State.flushSmb_keeps
    | with_reducible apply KeepsOut.next
    | (simp only [keeps_mk]; with_reducible refine KeepsLit.of ?_ rfl rfl rfl rfl rfl rfl) | split)

theorem execSmbAlertResponse_keeps {s : State} :
    KeepsOut s (execSmbAlertResponse s) := by
  unfold execSmbAlertResponse
  have h := Keeps.refl s
  try dsimp only
  repeat' (first
    | with_reducible assumption | with_reducible apply State.noteEdges_keeps
    | with_reducible apply State.emit_keeps | with_reducible apply KeepsOut.next
    | (simp only [keeps_mk]; with_reducible refine KeepsLit.of ?_ rfl rfl rfl rfl rfl rfl) | split)

theorem execSmbBusTimeout_keeps {s : State} :
    KeepsOut s (execSmbBusTimeout s) := by
  unfold execSmbBusTimeout
  have h := Keeps.refl s
  try dsimp only
  repeat' (first
    | with_reducible assumption | with_reducible apply KeepsOut.next
    | (simp only [keeps_mk]; with_reducible refine KeepsLit.of ?_ rfl rfl rfl rfl rfl rfl) | split)

theorem State.sendMctp_keeps {s0 s : State} (dest : Nat) (r : SpdmRsp) (h : Keeps s0 s) :
    Keeps s0 (State.sendMctp s dest r) := by
  unfold State.sendMctp
  try dsimp only
  repeat' (first
    | with_reducible assumption | with_reducible apply State.emit_keeps
    | (simp only [keeps_mk]; with_reducible refine KeepsLit.of ?_ rfl rfl rfl rfl rfl rfl))

theorem execSmbMctp_keeps (source : Nat) (req : SpdmReq) (pec : Pec) {s : State} :
    KeepsOut s (execSmbMctp source req pec s) := by
  unfold execSmbMctp
  have h := Keeps.refl s
  try dsimp only
  repeat' (first
    | with_reducible assumption | with_reducible apply State.emit_keeps | with_reducible apply State.nackPec_keeps
    | with_reducible apply State.sendMctp_keeps | with_reducible apply KeepsOut.next
    | (simp only [keeps_mk]; with_reducible refine KeepsLit.of ?_ rfl rfl rfl rfl rfl rfl) | split)

theorem execMctpArbitrationLost_keeps {s : State} :
    KeepsOut s (execMctpArbitrationLost s) := by
  unfold execMctpArbitrationLost
  have h := Keeps.refl s
  try dsimp only
  repeat' (first
    | with_reducible assumption | with_reducible apply State.emit_keeps | with_reducible apply KeepsOut.next
    | (simp only [keeps_mk]; with_reducible refine KeepsLit.of ?_ rfl rfl rfl rfl rfl rfl) | split)

theorem State.setTap_keeps {s0 s : State} (i : TapInstr) (h : Keeps s0 s) :
    Keeps s0 (State.setTap s i) := by
  unfold State.setTap
  try dsimp only
  repeat' (first
    | with_reducible assumption | with_reducible apply State.noteEdges_keeps
    | (simp only [keeps_mk]; with_reducible refine KeepsLit.of ?_ rfl rfl rfl rfl rfl rfl) | split)

theorem execTapBypass_keeps {s : State} :
    KeepsOut s (execTapBypass s) := by
  unfold execTapBypass
  have h := Keeps.refl s
  try dsimp only
  repeat' (first
    | with_reducible assumption | with_reducible apply State.setTap_keeps | with_reducible apply KeepsOut.next)

theorem execTapIdcode_keeps {s : State} :
    KeepsOut s (execTapIdcode s) := by
  unfold execTapIdcode
  have h := Keeps.refl s
  try dsimp only
  repeat' (first
    | with_reducible assumption | with_reducible apply State.setTap_keeps | with_reducible apply State.emit_keeps
    | with_reducible apply KeepsOut.next | split)

theorem execTapSamplePreload_keeps (chain : Option Bytes) {s : State} :
    KeepsOut s (execTapSamplePreload chain s) := by
  unfold execTapSamplePreload
  have h := Keeps.refl s
  try dsimp only
  repeat' (first
    | with_reducible assumption | with_reducible apply State.setTap_keeps | with_reducible apply State.emit_keeps
    | with_reducible apply KeepsOut.next
    | (simp only [keeps_mk]; with_reducible refine KeepsLit.of ?_ rfl rfl rfl rfl rfl rfl) | split)

theorem execTapExtest_keeps (chain : Bytes) {s : State} :
    KeepsOut s (execTapExtest chain s) := by
  unfold execTapExtest
  have h := Keeps.refl s
  try dsimp only
  repeat' (first
    | with_reducible assumption | with_reducible apply State.noteEdges_keeps | with_reducible apply State.setTap_keeps
    | with_reducible apply KeepsOut.next
    | (simp only [keeps_mk]; with_reducible refine KeepsLit.of ?_ rfl rfl rfl rfl rfl rfl) | split)

theorem execTapClamp_keeps {s : State} :
    KeepsOut s (execTapClamp s) := by
  unfold execTapClamp
  have h := Keeps.refl s
  try dsimp only
  repeat' (first
    | with_reducible assumption | with_reducible apply State.setTap_keeps | with_reducible apply KeepsOut.next)

theorem execTapHighz_keeps {s : State} :
    KeepsOut s (execTapHighz s) := by
  unfold execTapHighz
  have h := Keeps.refl s
  try dsimp only
  repeat' (first
    | with_reducible assumption | with_reducible apply State.setTap_keeps | with_reducible apply KeepsOut.next)

theorem State.haltRecord_keeps {s0 s : State} (pair : Nat) (h : Keeps s0 s) :
    Keeps s0 (State.haltRecord s pair) := by
  unfold State.haltRecord
  try dsimp only
  repeat' (first
    | with_reducible assumption | with_reducible apply State.stage_keeps)

theorem execDapCoreHalt_keeps (pair : Nat) {s : State} :
    KeepsOut s (execDapCoreHalt pair s) := by
  unfold execDapCoreHalt
  have h := Keeps.refl s
  try dsimp only
  repeat' (first
    | with_reducible assumption | with_reducible apply State.haltRecord_keeps | with_reducible apply KeepsOut.next
    | (simp only [keeps_mk]; with_reducible refine KeepsLit.of ?_ rfl rfl rfl rfl rfl rfl) | split)

theorem State.resumePair_keeps {s0 s : State} (pair : Nat) (h : Keeps s0 s) :
    Keeps s0 (State.resumePair s pair) := by
  unfold State.resumePair
  try dsimp only
  repeat' (first
    | with_reducible assumption | with_reducible apply State.haltRecord_keeps
    | (simp only [keeps_mk]; with_reducible refine KeepsLit.of ?_ rfl rfl rfl rfl rfl rfl) | split)

theorem execDapCoreResume_keeps (pair : Nat) {s : State} :
    KeepsOut s (execDapCoreResume pair s) := by
  unfold execDapCoreResume
  have h := Keeps.refl s
  try dsimp only
  repeat' (first
    | with_reducible assumption | with_reducible apply State.resumePair_keeps | with_reducible apply KeepsOut.next
    | split)

theorem execDapMemoryAccess_keeps (addr : Nat) (len : Nat) (data : Option Bytes) {s : State} :
    KeepsOut s (execDapMemoryAccess addr len data s) := by
  unfold execDapMemoryAccess
  have h := Keeps.refl s
  try dsimp only
  repeat' (first
    | with_reducible assumption | with_reducible apply State.writeThrough_keeps
    | with_reducible apply State.emit_keeps | with_reducible apply KeepsOut.next | split)

theorem execMbxDoorbellWrite_keeps (n : Nat) (value : W32) {s : State} :
    KeepsOut s (execMbxDoorbellWrite n value s) := by
  unfold execMbxDoorbellWrite
  have h := Keeps.refl s
  try dsimp only
  repeat' (first
    | with_reducible assumption | with_reducible apply State.updBox_keeps | with_reducible apply KeepsOut.next
    | (simp only [keeps_mk]; with_reducible refine KeepsLit.of ?_ rfl rfl rfl rfl rfl rfl) | split)

theorem execMbxRspConsWrite_keeps (n : Nat) (value : W32) {s : State} :
    KeepsOut s (execMbxRspConsWrite n value s) := by
  unfold execMbxRspConsWrite
  have h := Keeps.refl s
  try dsimp only
  repeat' (first
    | with_reducible assumption | with_reducible apply State.updBox_keeps | with_reducible apply KeepsOut.next | split)

theorem execMbxNtfConsWrite_keeps (n : Nat) (value : W32) {s : State} :
    KeepsOut s (execMbxNtfConsWrite n value s) := by
  unfold execMbxNtfConsWrite
  have h := Keeps.refl s
  try dsimp only
  repeat' (first
    | with_reducible assumption | with_reducible apply State.updBox_keeps | with_reducible apply State.flushNtf_keeps
    | with_reducible apply KeepsOut.next | split)

theorem execMbxRequestSlotError_keeps (n : Nat) (inHeader : Bool) (s : State) :
    KeepsOut s (execMbxRequestSlotError n inHeader s) := by
  unfold execMbxRequestSlotError
  refine KeepsOut.next ?_
  split
  · exact .refl s
  · exact State.postRsp_keeps _ _ _ (State.consume_keeps _ (State.error_keeps _ _ (.refl s)))

theorem execBadOpcodeRequest_keeps (via : Via) {s : State} :
    KeepsOut s (execBadOpcodeRequest via s) := by
  unfold execBadOpcodeRequest
  have h := Keeps.refl s
  try dsimp only
  repeat' (first
    | with_reducible assumption | with_reducible apply State.consume_keeps | with_reducible apply State.postRsp_keeps
    | with_reducible apply KeepsOut.next | split)

theorem execMbxHeartbeatAdvance_keeps {s : State} :
    KeepsOut s (execMbxHeartbeatAdvance s) := by
  unfold execMbxHeartbeatAdvance
  have h := Keeps.refl s
  try dsimp only
  repeat' (first
    | with_reducible assumption | with_reducible apply State.advanceTo_keeps | with_reducible apply KeepsOut.next
    | (simp only [keeps_mk]; with_reducible refine KeepsLit.of ?_ rfl rfl rfl rfl rfl rfl) | split)

theorem devIdentify_keeps {s0 s : State} (r : Req) (h : Keeps s0 s) :
    KeepsRes s0 (devIdentify.run r s) := by
  unfold devIdentify
  try dsimp only
  repeat' (first
    | with_reducible assumption | with_reducible apply KeepsRes.okay)

theorem execDevIdentify_keeps (via : Via) {s : State} : KeepsOut s (execDevIdentify via s) := serve_keeps devIdentify_keeps

theorem devPing_keeps {s0 s : State} (r : Req) (h : Keeps s0 s) :
    KeepsRes s0 (devPing.run r s) := by
  unfold devPing
  try dsimp only
  repeat' (first
    | with_reducible assumption | with_reducible apply KeepsRes.okay)

theorem execDevPing_keeps (via : Via) {s : State} : KeepsOut s (execDevPing via s) := serve_keeps devPing_keeps

theorem State.setStaging_keeps {s0 s : State} (g : Option Staging) (h : Keeps s0 s) :
    Keeps s0 (State.setStaging s g) := by
  unfold State.setStaging
  try dsimp only
  repeat' (first
    | with_reducible assumption | (simp only [keeps_mk]; with_reducible refine KeepsLit.of ?_ rfl rfl rfl rfl rfl rfl))

theorem configBegin_keeps {s0 s : State} (r : Req) (h : Keeps s0 s) :
    KeepsRes s0 (configBegin.run r s) := by
  unfold configBegin
  try dsimp only
  repeat' (first
    | with_reducible assumption | with_reducible apply State.setStaging_keeps | with_reducible apply KeepsRes.fail
    | with_reducible apply KeepsRes.okay | with_reducible apply KeepsRes.field | split)

theorem execConfigBegin_keeps (via : Via) {s : State} : KeepsOut s (execConfigBegin via s) := serve_keeps configBegin_keeps

theorem configChunk_keeps {s0 s : State} (r : Req) (h : Keeps s0 s) :
    KeepsRes s0 (configChunk.run r s) := by
  unfold configChunk
  try dsimp only
  repeat' (first
    | with_reducible assumption | with_reducible apply State.setStaging_keeps | with_reducible apply KeepsRes.fail
    | (simp only [keepsRes_mk]; with_reducible refine ⟨?_, ?_⟩) | with_reducible exact Keeps.idAfter | split)

theorem State.chunkSeen_keeps {s0 s : State} (via : Via) (h : Keeps s0 s) :
    Keeps s0 (State.chunkSeen s via) := by
  unfold State.chunkSeen
  try dsimp only
  repeat' (first
    | with_reducible assumption | (simp only [keeps_mk]; with_reducible refine KeepsLit.of ?_ rfl rfl rfl rfl rfl rfl)
    | split)

theorem execConfigChunk_keeps (via : Via) {s : State} : KeepsOut s (execConfigChunk via s) := by
  unfold execConfigChunk serve
  exact serveIf_keeps (State.chunkSeen_keeps via (.refl s)) configChunk_keeps

theorem State.reject_keeps {s0 s : State} (detail : Nat) (h : Keeps s0 s) :
    Keeps s0 (State.reject s detail) := by
  unfold State.reject
  try dsimp only
  repeat' (first
    | with_reducible assumption | with_reducible apply State.enter_keeps
    | (simp only [keeps_mk]; with_reducible refine KeepsLit.of ?_ rfl rfl rfl rfl rfl rfl) | split)

theorem configCommit_keeps {s0 s : State} (r : Req) (h : Keeps s0 s) :
    KeepsRes s0 (configCommit.run r s) := by
  unfold configCommit
  try dsimp only
  repeat' (first
    | with_reducible assumption | with_reducible apply State.setStaging_keeps
    | with_reducible apply State.reject_keeps | with_reducible apply State.enter_keeps
    | with_reducible apply KeepsRes.fail | (simp only [keepsRes_mk]; with_reducible refine ⟨?_, ?_⟩)
    | (simp only [keeps_mk]; with_reducible refine KeepsLit.of ?_ rfl rfl rfl rfl rfl rfl) | intro _ | split)

theorem execConfigCommit_keeps (via : Via) {s : State} : KeepsOut s (execConfigCommit via s) := serve_keeps configCommit_keeps

theorem configAbort_keeps {s0 s : State} (r : Req) (h : Keeps s0 s) :
    KeepsRes s0 (configAbort.run r s) := by
  unfold configAbort
  try dsimp only
  repeat' (first
    | with_reducible assumption | with_reducible apply State.setStaging_keeps | with_reducible apply KeepsRes.fail
    | with_reducible apply KeepsRes.okay | split)

theorem execConfigAbort_keeps (via : Via) {s : State} : KeepsOut s (execConfigAbort via s) := serve_keeps configAbort_keeps

theorem configRead_keeps {s0 s : State} (r : Req) (h : Keeps s0 s) :
    KeepsRes s0 (configRead.run r s) := by
  unfold configRead
  try dsimp only
  repeat' (first
    | with_reducible assumption | with_reducible apply KeepsRes.fail | with_reducible apply KeepsRes.okay
    | with_reducible apply KeepsRes.field | split)

theorem execConfigRead_keeps (via : Via) {s : State} : KeepsOut s (execConfigRead via s) := serve_keeps configRead_keeps

theorem execConfigStagingTimeout_keeps {s : State} :
    KeepsOut s (execConfigStagingTimeout s) := by
  unfold execConfigStagingTimeout
  have h := Keeps.refl s
  try dsimp only
  repeat' (first
    | with_reducible assumption | with_reducible apply State.advanceTo_keeps
    | with_reducible apply State.setStaging_keeps | with_reducible apply KeepsOut.next | split)

end Sys2Proof.Machine
end

