-- ==== Sys2Proof/Laws/KeepsSecure.lean ====
section
/-! SUPPORT. Every definition of security, clocks and the governor keeps the fused identity, the waiting commands and
canonical memories ("Keeps", Sys2Proof/Safety.lean). -/
namespace Sys2Proof.Machine
open Sys2Proof

theorem State.setSec_keeps {s0 s : State} (x : Sec) (h : Keeps s0 s) :
    Keeps s0 (State.setSec s x) := by
  unfold State.setSec
  try dsimp only
  repeat' (first
    | with_reducible assumption | (simp only [keeps_mk]; with_reducible refine KeepsLit.of ?_ rfl rfl rfl rfl rfl rfl))

theorem State.authorise_keeps {s0 s : State} (r : Req) (off : Nat) (key : Option Bytes) (h : Keeps s0 s) :
    Keeps s0 (State.authorise s r off key).1 := by
  unfold State.authorise
  try dsimp only
  repeat' (first
    | with_reducible assumption | with_reducible apply State.setSec_keeps)

theorem secOtpRead_keeps {s0 s : State} (r : Req) (h : Keeps s0 s) :
    KeepsRes s0 (secOtpRead.run r s) := by
  unfold secOtpRead
  try dsimp only
  repeat' (first
    | with_reducible assumption | with_reducible apply State.drawBytes_keeps | with_reducible apply State.setSec_keeps
    | with_reducible apply KeepsRes.okay | split)

theorem execSecOtpRead_keeps (via : Via) {s : State} : KeepsOut s (execSecOtpRead via s) := serve_keeps secOtpRead_keeps

theorem State.beginSlot_keeps {s0 s : State} (r : Req) (g : Nat) (i : Nat) (h : Keeps s0 s) :
    Keeps s0 (State.beginSlot s r g i) := by
  unfold State.beginSlot
  try dsimp only
  repeat' (first
    | with_reducible assumption | with_reducible apply State.setSec_keeps)

theorem secOtpProgram_keeps {s0 s : State} (r : Req) (h : Keeps s0 s) : KeepsRes s0 (secOtpProgram.run r s) := by
  unfold secOtpProgram
  dsimp only
  split
  · exact .fail h
  · split
    · exact .fail h
    · have g : Keeps s0 (if s.sec.life.code = 2 then s.authorise r 36 s.ownerKey else (s, none)).1 := by
        split
        · exact State.authorise_keeps _ _ _ h
        · exact h
      generalize (if s.sec.life.code = 2 then s.authorise r 36 s.ownerKey else (s, none)) = p at g ⊢
      split
      · exact .fail g
      · split
        · exact .okay g
        · split
          · exact .fail g
          · exact .pend (State.beginSlot_keeps _ _ _ g)

theorem execSecOtpProgram_keeps (via : Via) {s : State} : KeepsOut s (execSecOtpProgram via s) := serve_keeps secOtpProgram_keeps

theorem execOtpProgramDone_keeps (ok : Bool) {s : State} :
    KeepsOut s (execOtpProgramDone ok s) := by
  unfold execOtpProgramDone
  have h := Keeps.refl s
  try dsimp only
  repeat' (first
    | with_reducible assumption | with_reducible apply State.setSec_keeps | with_reducible apply State.done_keeps
    | with_reducible apply State.event_keeps | with_reducible apply KeepsOut.next | split)

theorem secFwUpdateBegin_keeps {s0 s : State} (r : Req) (h : Keeps s0 s) :
    KeepsRes s0 (secFwUpdateBegin.run r s) := by
  unfold secFwUpdateBegin
  try dsimp only
  repeat' (first
    | with_reducible assumption | with_reducible apply State.setSec_keeps | with_reducible apply KeepsRes.fail
    | with_reducible apply KeepsRes.okay | split)

theorem execSecFwUpdateBegin_keeps (via : Via) {s : State} : KeepsOut s (execSecFwUpdateBegin via s) := serve_keeps secFwUpdateBegin_keeps

theorem secFwUpdateChunk_keeps {s0 s : State} (r : Req) (h : Keeps s0 s) :
    KeepsRes s0 (secFwUpdateChunk.run r s) := by
  unfold secFwUpdateChunk
  try dsimp only
  repeat' (first
    | with_reducible assumption | with_reducible apply State.setSec_keeps | with_reducible apply KeepsRes.fail
    | (simp only [keepsRes_mk]; with_reducible refine ⟨?_, ?_⟩) | with_reducible exact Keeps.idAfter | split)

theorem State.updateSeen_keeps {s0 s : State} (via : Via) (h : Keeps s0 s) :
    Keeps s0 (State.updateSeen s via) := by
  unfold State.updateSeen
  try dsimp only
  repeat' (first
    | with_reducible assumption | with_reducible apply State.setSec_keeps | split)

theorem execSecFwUpdateChunk_keeps (via : Via) {s : State} : KeepsOut s (execSecFwUpdateChunk via s) := by
  unfold execSecFwUpdateChunk serve
  exact serveIf_keeps (State.updateSeen_keeps via (.refl s)) secFwUpdateChunk_keeps

theorem secFwUpdateCommit_keeps {s0 s : State} (r : Req) (h : Keeps s0 s) :
    KeepsRes s0 (secFwUpdateCommit.run r s) := by
  unfold secFwUpdateCommit
  try dsimp only
  repeat' (first
    | with_reducible assumption | with_reducible apply State.setSec_keeps | with_reducible apply KeepsRes.fail
    | with_reducible apply KeepsRes.pend | split)

theorem execSecFwUpdateCommit_keeps (via : Via) {s : State} : KeepsOut s (execSecFwUpdateCommit via s) := serve_keeps secFwUpdateCommit_keeps

theorem execFlashCommitDone_keeps {s : State} :
    KeepsOut s (execFlashCommitDone s) := by
  unfold execFlashCommitDone
  have h := Keeps.refl s
  try dsimp only
  repeat' (first
    | with_reducible assumption | with_reducible apply State.setSec_keeps | with_reducible apply State.done_keeps
    | with_reducible apply KeepsOut.next | split)

theorem execFwUpdateSessionTimeout_keeps {s : State} :
    KeepsOut s (execFwUpdateSessionTimeout s) := by
  unfold execFwUpdateSessionTimeout
  have h := Keeps.refl s
  try dsimp only
  repeat' (first
    | with_reducible assumption | with_reducible apply State.advanceTo_keeps | with_reducible apply State.setSec_keeps
    | with_reducible apply KeepsOut.next | split)

theorem State.setMask_keeps {s0 s : State} (t : Nat) (m : Nat) (h : Keeps s0 s) :
    Keeps s0 (State.setMask s t m) := by
  unfold State.setMask
  try dsimp only
  repeat' (first
    | with_reducible assumption | with_reducible apply State.setSec_keeps | split)

theorem secAccessSet_keeps {s0 s : State} (r : Req) (h : Keeps s0 s) :
    KeepsRes s0 (secAccessSet.run r s) := by
  unfold secAccessSet
  try dsimp only
  repeat' (first
    | with_reducible assumption | with_reducible apply State.setMask_keeps | with_reducible apply KeepsRes.fail
    | with_reducible apply KeepsRes.okay | split)

theorem execSecAccessSet_keeps (via : Via) {s : State} : KeepsOut s (execSecAccessSet via s) := serve_keeps secAccessSet_keeps

theorem State.deviceSign_keeps {s0 s : State} (m : Bytes) (h : Keeps s0 s) :
    Keeps s0 (State.deviceSign s m).2 := by
  unfold State.deviceSign
  try dsimp only
  repeat' (first
    | with_reducible assumption | (simp only [keeps_mk]; with_reducible refine KeepsLit.of ?_ rfl rfl rfl rfl rfl rfl))

theorem State.spdm_keeps {s0 s : State} {f : SpdmReq → Option (SpdmRsp × State)} (h : Keeps s0 s)
    (hf : ∀ r p, f r = some p → Keeps s0 p.2) : Keeps s0 (s.spdm f) := by
  unfold State.spdm
  split
  · exact h
  · split
    · exact h
    · rename_i e
      have g := hf _ _ e
      refine State.sendMctp_keeps _ _ ?_
      rw [keeps_mk]; exact .of g rfl rfl rfl rfl rfl rfl

theorem State.spdm_out {s : State} {f : SpdmReq → Option (SpdmRsp × State)} (hf : ∀ r p, f r = some p → Keeps s p.2) :
    KeepsOut s (.next (s.spdm f)) := .next (State.spdm_keeps (.refl s) hf)

theorem execSpdmGetVersion_keeps (s : State) : KeepsOut s (execSpdmGetVersion s) :=
  State.spdm_out fun r p e => by cases r <;> simp at e <;> subst e <;> exact .refl s

theorem execSpdmGetCapabilities_keeps (s : State) : KeepsOut s (execSpdmGetCapabilities s) :=
  State.spdm_out fun r p e => by cases r <;> simp at e <;> subst e <;> exact .refl s

theorem execSpdmNegotiateAlgorithms_keeps (s : State) : KeepsOut s (execSpdmNegotiateAlgorithms s) :=
  State.spdm_out fun r p e => by cases r <;> simp at e <;> subst e <;> exact .refl s

theorem execSpdmGetDigests_keeps (s : State) : KeepsOut s (execSpdmGetDigests s) :=
  State.spdm_out fun r p e => by cases r <;> simp at e <;> subst e <;> exact .refl s

theorem execSpdmGetCertificate_keeps (s : State) : KeepsOut s (execSpdmGetCertificate s) :=
  State.spdm_out fun r p e => by
    cases r <;> simp at e
    split at e <;> simp at e <;> subst e <;> exact .refl s

theorem execSpdmChallenge_keeps (s : State) : KeepsOut s (execSpdmChallenge s) :=
  State.spdm_out fun r p e => by
    cases r <;> simp at e
    split at e <;> simp at e <;> subst e
    · dsimp only; with_reducible exact State.deviceSign_keeps _ (.refl s)
    · exact .refl s

theorem execSpdmGetMeasurements_keeps (s : State) : KeepsOut s (execSpdmGetMeasurements s) :=
  State.spdm_out fun r p e => by
    cases r
    case getMeasurements i signed nonce =>
      dsimp only at e
      repeat' split at e
      all_goals (first | contradiction | injection e with e; subst e)
      all_goals first | (dsimp only; with_reducible exact State.deviceSign_keeps _ (.refl s)) | exact .refl s
    all_goals contradiction

theorem State.updLink_keeps {s0 s : State} (p : Nat) (f : PassLink → PassLink) (h : Keeps s0 s) :
    Keeps s0 (State.updLink s p f) := by
  unfold State.updLink
  try dsimp only
  repeat' (first
    | with_reducible assumption | (simp only [keeps_mk]; with_reducible refine KeepsLit.of ?_ rfl rfl rfl rfl rfl rfl))

theorem State.downNotice_keeps {s0 s : State} (p : Nat) (h : Keeps s0 s) :
    Keeps s0 (State.downNotice s p) := by
  unfold State.downNotice
  try dsimp only
  repeat' (first
    | with_reducible assumption | with_reducible apply State.emit_keeps | split)

theorem State.linksDown_keeps {s0 s : State} (h : Keeps s0 s) :
    Keeps s0 (State.linksDown s) := by
  unfold State.linksDown
  try dsimp only
  repeat' (first
    | with_reducible assumption | with_reducible apply State.downNotice_keeps
    | with_reducible apply State.drawNat_keeps | with_reducible apply State.noteEdges_keeps
    | with_reducible apply State.updLink_keeps | with_reducible apply Keeps.foldl | intro _ | split)

theorem State.setFlt_keeps {s0 s : State} (f : Flt) (h : Keeps s0 s) :
    Keeps s0 (State.setFlt s f) := by
  unfold State.setFlt
  try dsimp only
  repeat' (first
    | with_reducible assumption | (simp only [keeps_mk]; with_reducible refine KeepsLit.of ?_ rfl rfl rfl rfl rfl rfl))

theorem State.raiseMarker_keeps {s0 s : State} (h : Keeps s0 s) :
    Keeps s0 (State.raiseMarker s) := by
  unfold State.raiseMarker
  try dsimp only
  repeat' (first
    | with_reducible assumption | with_reducible apply State.setFlt_keeps | split)

theorem State.beginRecord_keeps {s0 s : State} (h : Keeps s0 s) :
    Keeps s0 (State.beginRecord s) := by
  unfold State.beginRecord
  try dsimp only
  repeat' (first
    | with_reducible assumption | with_reducible apply State.setFlt_keeps
    | with_reducible apply State.raiseMarker_keeps
    | (simp only [keeps_mk]; with_reducible refine KeepsLit.wide ?_ ?_ ?_ ?_ ?_ ?_ ?_) | exact State.Canonical.mem ‹_›
    | exact State.Canonical.ram ‹_› | exact State.Canonical.scratch ‹_› | exact State.Canonical.lanes ‹_›
    | exact State.Canonical.pool ‹_› | exact State.Canonical.lines ‹_› _ ‹_› | with_reducible apply wrN_wf | intro _
    | split)

theorem State.faultNtf_keeps {s0 s : State} (ev : Nat) (e : FaultEv) (seq : Nat) (h : Keeps s0 s) :
    Keeps s0 (State.faultNtf s ev e seq) := by
  unfold State.faultNtf
  try dsimp only
  repeat' (first
    | with_reducible assumption | with_reducible apply State.event_keeps)

theorem State.commitRecord_keeps {s0 s : State} (past : Bool) (h : Keeps s0 s) : Keeps s0 (s.commitRecord past) := by
  unfold State.commitRecord
  split
  · exact h
  · rename_i e _
    dsimp only
    split
    · exact h
    · have g : Keeps s0 (if s.flt.unread = 256 then s.setFlt { s.flt with
          ringCons := s.flt.ringCons + 1, overflow := s.flt.overflow + 1, lost := satAdd 0xFFFFFFFF s.flt.lost 1 } else s) := by
        split
        · exact State.setFlt_keeps _ h
        · exact h
      generalize (if s.flt.unread = 256 then s.setFlt { s.flt with
          ringCons := s.flt.ringCons + 1, overflow := s.flt.overflow + 1, lost := satAdd 0xFFFFFFFF s.flt.lost 1 } else s) = t at g ⊢
      have g : Keeps s0 { t with ram := wrN t.ram (recAt t.flt.nextSeq) (e.record t.flt.nextSeq) } := by
        rw [keeps_mk]
        exact .wide g State.Canonical.mem (fun w => wrN_wf _ _ _ w.ram) State.Canonical.scratch State.Canonical.lanes
          State.Canonical.pool State.Canonical.lines
      have g := State.setFlt_keeps { t.flt with writing := none, nextSeq := t.flt.nextSeq + 1 } g
      refine State.raiseMarker_keeps ?_
      split
      · refine State.faultNtf_keeps _ _ _ ?_
        split
        · exact State.faultNtf_keeps _ _ _ g
        · exact g
      · split
        · exact State.faultNtf_keeps _ _ _ g
        · exact g

theorem State.loseRecord_keeps {s0 s : State} (x : RecordLoss) (h : Keeps s0 s) : Keeps s0 (s.loseRecord x).2 := by
  cases x with
  | ring q =>
    simp only [State.loseRecord]
    split
    · rw [keeps_mk]
      exact .wide h State.Canonical.mem (fun w => zeroN_wf _ _ _ w.ram) State.Canonical.scratch State.Canonical.lanes
        State.Canonical.pool State.Canonical.lines
    · exact h
  | staged i => simp only [State.loseRecord]; split; exact State.setFlt_keeps _ h; exact h
  | writer => simp only [State.loseRecord]; split; exact State.setFlt_keeps _ h; exact h
  | indices => exact h

theorem State.reportLoss_keeps {s0 s : State} (n : Nat) (h : Keeps s0 s) :
    Keeps s0 (State.reportLoss s n) := by
  unfold State.reportLoss
  try dsimp only
  repeat' (first
    | with_reducible assumption | with_reducible apply State.setFlt_keeps | split)

theorem State.loseRecords_keeps {s0 s : State} (l : List RecordLoss) (h : Keeps s0 s) : Keeps s0 (s.loseRecords l) :=
  State.reportLoss_keeps _ (Keeps.foldl2 l h fun _ x g => State.loseRecord_keeps x g)

theorem flushRecords_keeps {s0 : State}  (fuel : Nat) : ∀ {s : State}, Keeps s0 s → Keeps s0 (flushRecords fuel s) := by
  induction fuel with
  | zero => intro s h; exact h
  | succ fuel ih =>
    intro s h
    unfold flushRecords
    try dsimp only
    repeat' (first
      | with_reducible apply ih | with_reducible assumption | with_reducible apply State.commitRecord_keeps
      | with_reducible apply State.beginRecord_keeps | split)

theorem State.stopFlashCommit_keeps {s0 s : State} (h : Keeps s0 s) :
    Keeps s0 (State.stopFlashCommit s) := by
  unfold State.stopFlashCommit
  try dsimp only
  repeat' (first
    | with_reducible assumption | with_reducible apply State.drawNat_keeps
    | (simp only [keeps_mk]; with_reducible refine KeepsLit.of ?_ rfl rfl rfl rfl rfl rfl) | split)

theorem State.stopOtp_keeps {s0 s : State} (h : Keeps s0 s) :
    Keeps s0 (State.stopOtp s) := by
  unfold State.stopOtp
  try dsimp only
  repeat' (first
    | with_reducible assumption | with_reducible apply State.drawNat_keeps
    | (simp only [keeps_mk]; with_reducible refine KeepsLit.of ?_ rfl rfl rfl rfl rfl rfl) | split)

theorem State.stopReturn_keeps {s0 s : State} (h : Keeps s0 s) :
    Keeps s0 (State.stopReturn s) := by
  unfold State.stopReturn
  try dsimp only
  repeat' (first
    | with_reducible assumption | with_reducible apply State.drawNat_keeps
    | (simp only [keeps_mk]; with_reducible refine KeepsLit.wide ?_ ?_ ?_ ?_ ?_ ?_ ?_) | exact State.Canonical.mem ‹_›
    | exact State.Canonical.ram ‹_› | exact State.Canonical.scratch ‹_› | exact State.Canonical.lanes ‹_›
    | exact State.Canonical.pool ‹_› | exact State.Canonical.lines ‹_› _ ‹_› | with_reducible apply filter_wf
    | intro _ | split)

theorem State.hold_keeps {s0 s : State} (seq : Nat) (h : Keeps s0 s) :
    Keeps s0 (State.hold s seq) := by
  unfold State.hold
  try dsimp only
  repeat' (first
    | with_reducible assumption | with_reducible apply State.stopFlashCommit_keeps
    | with_reducible apply State.stopOtp_keeps | with_reducible apply State.stopReturn_keeps
    | with_reducible apply State.linksDown_keeps | with_reducible apply State.zeroRings_keeps
    | with_reducible apply State.endDeferred_keeps | with_reducible apply State.enter_keeps
    | (simp only [keeps_mk]; with_reducible refine KeepsLit.of ?_ rfl rfl rfl rfl rfl rfl) | split)

theorem State.deviceFault_keeps {s0 s : State} (e : FaultEv) (h : Keeps s0 s) :
    Keeps s0 (State.deviceFault s e) := by
  unfold State.deviceFault
  try dsimp only
  repeat' (first
    | with_reducible assumption | with_reducible apply State.stage_keeps | with_reducible apply flushRecords_keeps
    | with_reducible apply State.hold_keeps)

theorem execFaultRecordWrite_keeps (commit : Bool × List RecordLoss) {s : State} :
    KeepsOut s (execFaultRecordWrite commit s) := by
  unfold execFaultRecordWrite
  have h := Keeps.refl s
  try dsimp only
  repeat' (first
    | with_reducible assumption | with_reducible apply State.deviceFault_keeps
    | with_reducible apply State.loseRecords_keeps | with_reducible apply State.commitRecord_keeps
    | with_reducible apply State.beginRecord_keeps | with_reducible apply KeepsOut.next | split)

theorem State.setCons_keeps {s0 s : State} (v : W32) (h : Keeps s0 s) : KeepsOpt s0 (s.setCons v) := by
  unfold State.setCons
  split
  · exact .some (State.setFlt_keeps _ h)
  · exact .none _

theorem execFltRingConsWrite_keeps (value : W32) (s : State) : KeepsOut s (execFltRingConsWrite value s) := by
  unfold execFltRingConsWrite
  refine .next ?_
  split
  · split
    · exact Keeps.ofOpt ‹_› (State.setCons_keeps _ (.refl s))
    · exact State.setFlt_keeps _ (.refl s)
  · exact .refl s

theorem fltRecordRead_keeps {s0 s : State} (r : Req) (h : Keeps s0 s) :
    KeepsRes s0 (fltRecordRead.run r s) := by
  unfold fltRecordRead
  try dsimp only
  repeat' (first
    | with_reducible assumption | with_reducible apply KeepsRes.okay)

theorem execFltRecordRead_keeps (via : Via) {s : State} : KeepsOut s (execFltRecordRead via s) := serve_keeps fltRecordRead_keeps

theorem fltRecordRelease_keeps {s0 s : State} (r : Req) (h : Keeps s0 s) : KeepsRes s0 (fltRecordRelease.run r s) := by
  unfold fltRecordRelease
  refine .okay ?_
  have g := State.setCons_keeps (BitVec.ofNat 32 (u32 r.pay 0)) h
  generalize s.setCons (BitVec.ofNat 32 (u32 r.pay 0)) = o at g ⊢
  cases o with
  | none => exact h
  | some t => exact g.keeps t rfl

theorem execFltRecordRelease_keeps (via : Via) {s : State} : KeepsOut s (execFltRecordRelease via s) := serve_keeps fltRecordRelease_keeps

theorem fltCperRead_keeps {s0 s : State} (r : Req) (h : Keeps s0 s) :
    KeepsRes s0 (fltCperRead.run r s) := by
  unfold fltCperRead
  try dsimp only
  repeat' (first
    | with_reducible assumption | with_reducible apply KeepsRes.fail | with_reducible apply KeepsRes.okay | split)

theorem execFltCperRead_keeps (via : Via) {s : State} : KeepsOut s (execFltCperRead via s) := serve_keeps fltCperRead_keeps

theorem State.setPaceValley_keeps {s0 s : State} (v : Nat) (x : PaceValley) (h : Keeps s0 s) :
    Keeps s0 (State.setPaceValley s v x) := by
  unfold State.setPaceValley
  try dsimp only
  repeat' (first
    | with_reducible assumption | (simp only [keeps_mk]; with_reducible refine KeepsLit.of ?_ rfl rfl rfl rfl rfl rfl))

theorem State.pwrEvent_keeps {s0 s : State} (ev : Nat) (d : Bytes) (h : Keeps s0 s) :
    Keeps s0 (State.pwrEvent s ev d) := by
  unfold State.pwrEvent
  try dsimp only
  repeat' (first
    | with_reducible assumption | with_reducible apply State.event_keeps)

theorem State.applyPending_keeps {s0 s : State} (h : Keeps s0 s) :
    Keeps s0 (State.applyPending s) := by
  unfold State.applyPending
  try dsimp only
  repeat' (first
    | with_reducible assumption | (simp only [keeps_mk]; with_reducible refine KeepsLit.of ?_ rfl rfl rfl rfl rfl rfl))

theorem State.stepTo_keeps {s0 s : State} (t : Nat) (h : Keeps s0 s) :
    Keeps s0 (State.stepTo s t) := by
  unfold State.stepTo
  try dsimp only
  repeat' (first
    | with_reducible assumption | (simp only [keeps_mk]; with_reducible refine KeepsLit.of ?_ rfl rfl rfl rfl rfl rfl))

theorem State.applyTime_keeps {s0 s : State} (h : Keeps s0 s) :
    Keeps s0 (State.applyTime s) := by
  unfold State.applyTime
  try dsimp only
  repeat' (first
    | with_reducible assumption | with_reducible apply State.stepTo_keeps
    | (simp only [keeps_mk]; with_reducible refine KeepsLit.of ?_ rfl rfl rfl rfl rfl rfl) | split)

theorem State.readPaces_keeps {s0 s : State} (glens : List Nat) (cc : Nat) (basin : Nat) (h : Keeps s0 s) :
    Keeps s0 (State.readPaces s glens cc basin) := by
  unfold State.readPaces
  try dsimp only
  repeat' (first
    | with_reducible assumption | (simp only [keeps_mk]; with_reducible refine KeepsLit.of ?_ rfl rfl rfl rfl rfl rfl))

theorem State.readValleys_keeps {s0 s : State} (h : Keeps s0 s) :
    Keeps s0 (State.readValleys s) := by
  unfold State.readValleys
  try dsimp only
  repeat' (first
    | with_reducible assumption | (simp only [keeps_mk]; with_reducible refine KeepsLit.of ?_ rfl rfl rfl rfl rfl rfl))

theorem State.govern_keeps {s0 s : State} (h : Keeps s0 s) :
    Keeps s0 (State.govern s) := by
  unfold State.govern
  try dsimp only
  repeat' (first
    | with_reducible assumption | (simp only [keeps_mk]; with_reducible refine KeepsLit.of ?_ rfl rfl rfl rfl rfl rfl))

theorem State.watchHeat_keeps {s0 s : State} (h : Keeps s0 s) :
    Keeps s0 (State.watchHeat s) := by
  unfold State.watchHeat
  try dsimp only
  repeat' (first
    | with_reducible assumption | with_reducible apply State.pwrEvent_keeps
    | (simp only [keeps_mk]; with_reducible refine KeepsLit.of ?_ rfl rfl rfl rfl rfl rfl) | split)

theorem execPaceSample_keeps (glens : List Nat) (cc : Nat) (basin : Nat) (meas : Nat) (tj : Int) {s : State} :
    KeepsOut s (execPaceSample glens cc basin meas tj s) := by
  unfold execPaceSample
  have h := Keeps.refl s
  try dsimp only
  repeat' (first
    | with_reducible assumption | with_reducible apply State.advanceTo_keeps
    | with_reducible apply State.applyPending_keeps | with_reducible apply State.applyTime_keeps
    | with_reducible apply State.readPaces_keeps | with_reducible apply State.watchHeat_keeps
    | with_reducible apply State.readValleys_keeps | with_reducible apply State.govern_keeps
    | with_reducible apply KeepsOut.next
    | (simp only [keeps_mk]; with_reducible refine KeepsLit.of ?_ rfl rfl rfl rfl rfl rfl) | split)

theorem execVcoreTargetLower_keeps {s : State} :
    KeepsOut s (execVcoreTargetLower s) := by
  unfold execVcoreTargetLower
  have h := Keeps.refl s
  try dsimp only
  repeat' (first
    | with_reducible assumption | with_reducible apply KeepsOut.next
    | (simp only [keeps_mk]; with_reducible refine KeepsLit.of ?_ rfl rfl rfl rfl rfl rfl) | split)

theorem execOwnAdmissionHoldback_keeps (valley : Nat) {s : State} :
    KeepsOut s (execOwnAdmissionHoldback valley s) := by
  unfold execOwnAdmissionHoldback
  have h := Keeps.refl s
  try dsimp only
  repeat' (first
    | with_reducible assumption | with_reducible apply State.setPaceValley_keeps | with_reducible apply KeepsOut.next
    | split)

theorem execHoldbackRelease_keeps (valley : Nat) {s : State} :
    KeepsOut s (execHoldbackRelease valley s) := by
  unfold execHoldbackRelease
  have h := Keeps.refl s
  try dsimp only
  repeat' (first
    | with_reducible assumption | with_reducible apply State.setPaceValley_keeps | with_reducible apply KeepsOut.next
    | split)

theorem execReplicaFault_keeps (replica : Nat) {s : State} :
    KeepsOut s (execReplicaFault replica s) := by
  unfold execReplicaFault
  have h := Keeps.refl s
  try dsimp only
  repeat' (first
    | with_reducible assumption | with_reducible apply State.error_keeps | with_reducible apply KeepsOut.next
    | (simp only [keeps_mk]; with_reducible refine KeepsLit.of ?_ rfl rfl rfl rfl rfl rfl) | split)

theorem execPaceLowSet_keeps {s : State} :
    KeepsOut s (execPaceLowSet s) := by
  unfold execPaceLowSet
  have h := Keeps.refl s
  try dsimp only
  repeat' (first
    | with_reducible assumption | with_reducible apply State.pwrEvent_keeps | with_reducible apply KeepsOut.next
    | (simp only [keeps_mk]; with_reducible refine KeepsLit.of ?_ rfl rfl rfl rfl rfl rfl) | split)

theorem execPaceLowClear_keeps {s : State} :
    KeepsOut s (execPaceLowClear s) := by
  unfold execPaceLowClear
  have h := Keeps.refl s
  try dsimp only
  repeat' (first
    | with_reducible assumption | with_reducible apply KeepsOut.next
    | (simp only [keeps_mk]; with_reducible refine KeepsLit.of ?_ rfl rfl rfl rfl rfl rfl) | split)

theorem paceQuery_keeps {s0 s : State} (r : Req) (h : Keeps s0 s) :
    KeepsRes s0 (paceQuery.run r s) := by
  unfold paceQuery
  try dsimp only
  repeat' (first
    | with_reducible assumption | with_reducible apply KeepsRes.okay)

theorem execPaceQuery_keeps (via : Via) {s : State} : KeepsOut s (execPaceQuery via s) := serve_keeps paceQuery_keeps

theorem governorSet_keeps {s0 s : State} (r : Req) (h : Keeps s0 s) :
    KeepsRes s0 (governorSet.run r s) := by
  unfold governorSet
  try dsimp only
  repeat' (first
    | with_reducible assumption | with_reducible apply KeepsRes.okay
    | (simp only [keeps_mk]; with_reducible refine KeepsLit.of ?_ rfl rfl rfl rfl rfl rfl))

theorem execGovernorSet_keeps (via : Via) {s : State} : KeepsOut s (execGovernorSet via s) := serve_keeps governorSet_keeps

theorem timePtpSet_keeps {s0 s : State} (r : Req) (h : Keeps s0 s) :
    KeepsRes s0 (timePtpSet.run r s) := by
  unfold timePtpSet
  try dsimp only
  repeat' (first
    | with_reducible assumption | with_reducible apply KeepsRes.fail | with_reducible apply KeepsRes.okay
    | (simp only [keeps_mk]; with_reducible refine KeepsLit.of ?_ rfl rfl rfl rfl rfl rfl) | split)

theorem execTimePtpSet_keeps (via : Via) {s : State} : KeepsOut s (execTimePtpSet via s) := serve_keeps timePtpSet_keeps

theorem timeQuery_keeps {s0 s : State} (r : Req) (h : Keeps s0 s) :
    KeepsRes s0 (timeQuery.run r s) := by
  unfold timeQuery
  try dsimp only
  repeat' (first
    | with_reducible assumption | with_reducible apply KeepsRes.okay)

theorem execTimeQuery_keeps (via : Via) {s : State} : KeepsOut s (execTimeQuery via s) := serve_keeps timeQuery_keeps

theorem execPtpAnnounceReceive_keeps (port domain transport priority1 clockClass accuracy variance priority2 : Nat)
    (identity : Nat × Nat) (stepsRemoved : Nat) {s : State} :
    KeepsOut s (execPtpAnnounceReceive port domain transport priority1 clockClass accuracy variance priority2 identity stepsRemoved s) := by
  unfold execPtpAnnounceReceive
  have h := Keeps.refl s
  try dsimp only
  repeat' (first
    | with_reducible assumption | with_reducible apply KeepsOut.next
    | (simp only [keeps_mk]; with_reducible refine KeepsLit.of ?_ rfl rfl rfl rfl rfl rfl) | split)

theorem State.discipline_keeps {s0 s : State} (offset : Int) (thresholdNs : Nat) (h : Keeps s0 s) :
    Keeps s0 (State.discipline s offset thresholdNs) := by
  unfold State.discipline
  try dsimp only
  repeat' (first
    | with_reducible assumption | with_reducible apply State.stepTo_keeps
    | (simp only [keeps_mk]; with_reducible refine KeepsLit.of ?_ rfl rfl rfl rfl rfl rfl) | split)

theorem execPtpSyncReceive_keeps (port domain transport : Nat) (source : Nat × Int) (origin receipt : Nat) {s : State} :
    KeepsOut s (execPtpSyncReceive port domain transport source origin receipt s) := by
  unfold execPtpSyncReceive
  have h := Keeps.refl s
  try dsimp only
  repeat' (first
    | with_reducible assumption | with_reducible apply State.discipline_keeps | with_reducible apply State.emit_keeps
    | with_reducible apply KeepsOut.next
    | (simp only [keeps_mk]; with_reducible refine KeepsLit.of ?_ rfl rfl rfl rfl rfl rfl) | split)

theorem execPtpDelayRespReceive_keeps (port : Nat) (domain : Nat) (source : Nat) (sent : Nat) (received : Nat) {s : State} :
    KeepsOut s (execPtpDelayRespReceive port domain source sent received s) := by
  unfold execPtpDelayRespReceive
  have h := Keeps.refl s
  try dsimp only
  repeat' (first
    | with_reducible assumption | with_reducible apply KeepsOut.next
    | (simp only [keeps_mk]; with_reducible refine KeepsLit.of ?_ rfl rfl rfl rfl rfl rfl) | split)

theorem execPtpSyncTimeout_keeps {s : State} :
    KeepsOut s (execPtpSyncTimeout s) := by
  unfold execPtpSyncTimeout
  have h := Keeps.refl s
  try dsimp only
  repeat' (first
    | with_reducible assumption | with_reducible apply KeepsOut.next
    | (simp only [keeps_mk]; with_reducible refine KeepsLit.of ?_ rfl rfl rfl rfl rfl rfl) | split)

theorem execPpsInEdge_keeps (pin : Nat) (stamp : Nat) {s : State} :
    KeepsOut s (execPpsInEdge pin stamp s) := by
  unfold execPpsInEdge
  have h := Keeps.refl s
  try dsimp only
  repeat' (first
    | with_reducible assumption | with_reducible apply State.discipline_keeps | with_reducible apply KeepsOut.next
    | (simp only [keeps_mk]; with_reducible refine KeepsLit.of ?_ rfl rfl rfl rfl rfl rfl) | split)

theorem execPpsOutPulse_keeps {s : State} :
    KeepsOut s (execPpsOutPulse s) := by
  unfold execPpsOutPulse
  have h := Keeps.refl s
  try dsimp only
  repeat' (first
    | with_reducible assumption | with_reducible apply State.advanceTo_keeps | with_reducible apply State.emit_keeps
    | with_reducible apply KeepsOut.next | with_reducible apply Keeps.foldl
    | (simp only [keeps_mk]; with_reducible refine KeepsLit.of ?_ rfl rfl rfl rfl rfl rfl) | intro _ | split)

theorem execReferenceLost_keeps {s : State} :
    KeepsOut s (execReferenceLost s) := by
  unfold execReferenceLost
  have h := Keeps.refl s
  try dsimp only
  repeat' (first
    | with_reducible assumption | with_reducible apply State.event_keeps | with_reducible apply KeepsOut.next
    | (simp only [keeps_mk]; with_reducible refine KeepsLit.of ?_ rfl rfl rfl rfl rfl rfl) | split)

theorem execReferenceReturn_keeps {s : State} :
    KeepsOut s (execReferenceReturn s) := by
  unfold execReferenceReturn
  have h := Keeps.refl s
  try dsimp only
  repeat' (first
    | with_reducible assumption | with_reducible apply KeepsOut.next
    | (simp only [keeps_mk]; with_reducible refine KeepsLit.of ?_ rfl rfl rfl rfl rfl rfl) | split)

end Sys2Proof.Machine
end

