-- ==== Sys2Proof/Laws/KeepsFront.lean ====
section
/-! SUPPORT. Every definition of the front end, remote peers, boundaries, valleys and queues keeps the fused identity, the waiting commands and
canonical memories ("Keeps", Sys2Proof/Safety.lean). -/
namespace Sys2Proof.Machine
open Sys2Proof

theorem State.setCore_keeps {s0 s : State} {c : Core} (h : Keeps s0 s) (hs : c.scratch = s.core.scratch)
    (hl : c.lanes = s.core.lanes) : Keeps s0 (s.setCore c) := by
  unfold State.setCore
  rw [keeps_mk]
  exact .of h rfl rfl hs hl rfl rfl

theorem State.setCore_wide {s0 s : State} {c : Core} (h : Keeps s0 s) (hs : s.Canonical → Memory.wf c.scratch)
    (hl : s.Canonical → Memory.wf c.lanes) : Keeps s0 (s.setCore c) := by
  unfold State.setCore
  rw [keeps_mk]
  exact .wide h State.Canonical.mem State.Canonical.ram hs hl State.Canonical.pool State.Canonical.lines

theorem State.updReq_keeps {s0 s : State} (i : Nat) (f : Request → Request) (h : Keeps s0 s) :
    Keeps s0 (State.updReq s i f) := by
  unfold State.updReq
  try dsimp only
  repeat' (first
    | with_reducible assumption | with_reducible refine State.setCore_keeps ?_ rfl rfl | split)

theorem State.updThread_keeps {s0 s : State} (i : Nat) (f : Thread → Thread) (h : Keeps s0 s) :
    Keeps s0 (State.updThread s i f) := by
  unfold State.updThread
  try dsimp only
  repeat' (first
    | with_reducible assumption | with_reducible refine State.setCore_keeps ?_ rfl rfl | split)

theorem State.updCtx_keeps {s0 s : State} (i : Nat) (f : Context → Context) (h : Keeps s0 s) :
    Keeps s0 (State.updCtx s i f) := by
  unfold State.updCtx
  try dsimp only
  repeat' (first
    | with_reducible assumption | with_reducible refine State.setCore_keeps ?_ rfl rfl | split)

theorem State.updSq_keeps {s0 s : State} (i : Nat) (f : Sq → Sq) (h : Keeps s0 s) :
    Keeps s0 (State.updSq s i f) := by
  unfold State.updSq
  try dsimp only
  repeat' (first
    | with_reducible assumption | with_reducible refine State.setCore_keeps ?_ rfl rfl | split)

theorem State.updCq_keeps {s0 s : State} (i : Nat) (f : Cq → Cq) (h : Keeps s0 s) :
    Keeps s0 (State.updCq s i f) := by
  unfold State.updCq
  try dsimp only
  repeat' (first
    | with_reducible assumption | with_reducible refine State.setCore_keeps ?_ rfl rfl | split)

theorem State.updBag_keeps {s0 s : State} (i : Nat) (f : Bag → Bag) (h : Keeps s0 s) :
    Keeps s0 (State.updBag s i f) := by
  unfold State.updBag
  try dsimp only
  repeat' (first
    | with_reducible assumption | with_reducible refine State.setCore_keeps ?_ rfl rfl | split)

theorem State.updPlain_keeps {s0 s : State} (i : Nat) (f : PlainOp → PlainOp) (h : Keeps s0 s) :
    Keeps s0 (State.updPlain s i f) := by
  unfold State.updPlain
  try dsimp only
  repeat' (first
    | with_reducible assumption | with_reducible refine State.setCore_keeps ?_ rfl rfl | split)

theorem State.updSet_keeps {s0 s : State} (i : Nat) (f : TSet → TSet) (h : Keeps s0 s) :
    Keeps s0 (State.updSet s i f) := by
  unfold State.updSet
  try dsimp only
  repeat' (first
    | with_reducible assumption | with_reducible refine State.setCore_keeps ?_ rfl rfl | split)

theorem State.updTable_keeps {s0 s : State} (i : Nat) (f : Table → Table) (h : Keeps s0 s) :
    Keeps s0 (State.updTable s i f) := by
  unfold State.updTable
  try dsimp only
  repeat' (first
    | with_reducible assumption | with_reducible refine State.setCore_keeps ?_ rfl rfl | split)

theorem State.updEp_keeps {s0 s : State} (i : Nat) (f : Endpoint → Endpoint) (h : Keeps s0 s) :
    Keeps s0 (State.updEp s i f) := by
  unfold State.updEp
  try dsimp only
  repeat' (first
    | with_reducible assumption | with_reducible refine State.setCore_keeps ?_ rfl rfl | split)

theorem State.updStream_keeps {s0 s : State} (i : Nat) (f : Stream → Stream) (h : Keeps s0 s) :
    Keeps s0 (State.updStream s i f) := by
  unfold State.updStream
  try dsimp only
  repeat' (first
    | with_reducible assumption | with_reducible refine State.setCore_keeps ?_ rfl rfl | split)

theorem State.updValley_keeps {s0 s : State} (v : Nat) (f : Valley → Valley) (h : Keeps s0 s) :
    Keeps s0 (State.updValley s v f) := by
  unfold State.updValley
  try dsimp only
  repeat' (first
    | with_reducible assumption | (simp only [keeps_mk]; with_reducible refine KeepsLit.of ?_ rfl rfl rfl rfl rfl rfl))

theorem State.fresh_keeps {s0 s : State} (h : Keeps s0 s) :
    Keeps s0 (State.fresh s).2 := by
  unfold State.fresh
  try dsimp only
  repeat' (first
    | with_reducible assumption | with_reducible refine State.setCore_keeps ?_ rfl rfl)

theorem State.recordAccess_keeps {s0 s : State} (source : Nat) (r : Request) (a : Nat) (code : Nat) (h : Keeps s0 s) :
    Keeps s0 (State.recordAccess s source r a code) := by
  unfold State.recordAccess
  try dsimp only
  repeat' (first
    | with_reducible assumption | with_reducible apply State.error_keeps | split)

theorem State.recordBarred_keeps {s0 s : State} (r : Request) (a : Nat) (code : Nat) (h : Keeps s0 s) :
    Keeps s0 (State.recordBarred s r a code) := by
  unfold State.recordBarred
  try dsimp only
  repeat' (first
    | with_reducible assumption | with_reducible apply State.recordAccess_keeps)

theorem State.scratchWrite_keeps {s0 s : State} (g : Nat) (o : Nat) (d : Bytes) (h : Keeps s0 s) :
    Keeps s0 (State.scratchWrite s g o d) := by
  unfold State.scratchWrite
  try dsimp only
  repeat' (first
    | with_reducible assumption | with_reducible refine State.setCore_wide ?_ ?_ ?_
    | exact State.Canonical.scratch ‹_› | exact State.Canonical.lanes ‹_› | with_reducible apply wrN_wf | intro _)

theorem State.zeroScratch_keeps {s0 s : State} (g : Nat) (o : Nat) (n : Nat) (h : Keeps s0 s) :
    Keeps s0 (State.zeroScratch s g o n) := by
  unfold State.zeroScratch
  try dsimp only
  repeat' (first
    | with_reducible assumption | with_reducible refine State.setCore_wide ?_ ?_ ?_
    | exact State.Canonical.scratch ‹_› | exact State.Canonical.lanes ‹_› | with_reducible apply zeroN_wf | intro _)

theorem State.setObj_keeps {s0 s : State} (g : Nat) (o : SyncObj) (h : Keeps s0 s) :
    Keeps s0 (State.setObj s g o) := by
  unfold State.setObj
  try dsimp only
  repeat' (first
    | with_reducible assumption | with_reducible refine State.setCore_keeps ?_ rfl rfl)

theorem State.wake_keeps {s0 s : State} (t : Nat) (status : Nat) (value : Option W64) (h : Keeps s0 s) :
    Keeps s0 (State.wake s t status value) := by
  unfold State.wake
  try dsimp only
  repeat' (first
    | with_reducible assumption | with_reducible apply State.updThread_keeps)

theorem State.serveLine_keeps {s0 : State} (g k : Nat) : ∀ {s : State}, Keeps s0 s → Keeps s0 (State.serveLine g k s) := by
  induction k with
  | zero => intro s h; exact h
  | succ k ih =>
    intro s h
    unfold State.serveLine
    dsimp only
    split
    · exact h
    · split
      · split
        · exact ih (State.wake_keeps _ _ _ (State.setObj_keeps _ _ h))
        · exact h
      · exact ih (State.setObj_keeps _ _ h)

theorem State.serveAll_keeps {s0 s : State} (h : Keeps s0 s) :
    Keeps s0 (State.serveAll s) := by
  unfold State.serveAll
  try dsimp only
  repeat' (first
    | with_reducible assumption | with_reducible apply State.serveLine_keeps | with_reducible apply Keeps.foldl
    | intro _)

theorem State.fireNotify_keeps {s0 s : State} (g : Nat) (h : Keeps s0 s) :
    Keeps s0 (State.fireNotify s g) := by
  unfold State.fireNotify
  try dsimp only
  repeat' (first
    | with_reducible assumption | with_reducible apply State.setObj_keeps | with_reducible apply State.updCq_keeps
    | with_reducible refine State.setCore_keeps ?_ rfl rfl | split)

theorem State.leaveLines_keeps {s0 s : State} (gone : Nat → Bool) (h : Keeps s0 s) :
    Keeps s0 (State.leaveLines s gone) := by
  unfold State.leaveLines
  try dsimp only
  repeat' (first
    | with_reducible assumption | with_reducible refine State.setCore_keeps ?_ rfl rfl)

theorem State.cancel_keeps {s0 s : State} (mine : Nat → Bool) (h : Keeps s0 s) :
    Keeps s0 (State.cancel s mine) := by
  unfold State.cancel
  try dsimp only
  repeat' (first
    | with_reducible assumption | with_reducible apply State.leaveLines_keeps
    | with_reducible apply State.serveAll_keeps | with_reducible refine State.setCore_keeps ?_ rfl rfl)

theorem State.beginWait_keeps {s0 s : State} (t : Nat) (h : Keeps s0 s) :
    Keeps s0 (State.beginWait s t) := by
  unfold State.beginWait
  try dsimp only
  repeat' (first
    | with_reducible assumption | with_reducible apply State.wake_keeps | with_reducible apply State.updThread_keeps
    | with_reducible apply State.setObj_keeps | split)

theorem State.grantEntries_keeps {s0 s : State} (h : Keeps s0 s) :
    Keeps s0 (State.grantEntries s) := by
  unfold State.grantEntries
  try dsimp only
  repeat' (first
    | with_reducible assumption | with_reducible apply State.beginWait_keeps | with_reducible apply Keeps.foldl
    | intro _)

theorem State.askRemote_keeps {s0 s : State} (m : Remote) (valley : Nat) (msg : Nat → Bytes) (h : Keeps s0 s) :
    Keeps s0 (State.askRemote s m valley msg) := by
  unfold State.askRemote
  try dsimp only
  repeat' (first
    | with_reducible assumption | with_reducible apply State.fresh_keeps
    | with_reducible refine State.setCore_keeps ?_ rfl rfl)

theorem State.setStatus_keeps {s0 s : State} (t : Nat) (status : Nat) (h : Keeps s0 s) :
    Keeps s0 (State.setStatus s t status) := by
  unfold State.setStatus
  try dsimp only
  repeat' (first
    | with_reducible assumption | with_reducible apply State.updThread_keeps)

theorem State.trySignal_keeps {s0 s : State} (t : Nat) (x : Thread) (r : Request) (node : Nat) (valley : Nat) (index : Nat) (n : Nat) (h : Keeps s0 s) :
    Keeps s0 (State.trySignal s t x r node valley index n) := by
  unfold State.trySignal
  try dsimp only
  repeat' (first
    | with_reducible assumption | with_reducible apply State.updThread_keeps
    | with_reducible apply State.askRemote_keeps | split)

theorem State.retrySignals_keeps {s0 s : State} (h : Keeps s0 s) :
    Keeps s0 (State.retrySignals s) := by
  unfold State.retrySignals
  try dsimp only
  repeat' (first
    | with_reducible assumption | with_reducible apply State.trySignal_keeps | with_reducible apply Keeps.foldl
    | intro _ | split)

theorem State.ungate_keeps {s0 s : State} (g : Nat) (h : Keeps s0 s) :
    Keeps s0 (State.ungate s g) := by
  unfold State.ungate
  try dsimp only
  repeat' (first
    | with_reducible assumption | (simp only [keeps_mk]; with_reducible refine KeepsLit.of ?_ rfl rfl rfl rfl rfl rfl))

theorem State.addThread_keeps {s0 s : State} (t : Thread) (h : Keeps s0 s) :
    Keeps s0 (State.addThread s t) := by
  unfold State.addThread
  try dsimp only
  repeat' (first
    | with_reducible assumption | with_reducible apply State.ungate_keeps | with_reducible apply State.fresh_keeps
    | with_reducible refine State.setCore_keeps ?_ rfl rfl)

theorem State.startLaunch_keeps {s0 s : State} (i : Nat) (r : Request) (g : Nat) (h : Keeps s0 s) :
    Keeps s0 (State.startLaunch s i r g) := by
  unfold State.startLaunch
  try dsimp only
  repeat' (first
    | with_reducible assumption | with_reducible apply State.addThread_keeps | with_reducible apply State.updReq_keeps)

theorem State.startTask_keeps {s0 s : State} (i : Nat) (t : Task) (g : Nat) (h : Keeps s0 s) :
    Keeps s0 (State.startTask s i t g) := by
  unfold State.startTask
  try dsimp only
  repeat' (first
    | with_reducible assumption | with_reducible apply State.addThread_keeps
    | with_reducible refine State.setCore_keeps ?_ rfl rfl)

theorem State.startOne_keeps {s0 s : State} (v : Nat) (h : Keeps s0 s) : KeepsOpt s0 (s.startOne v) := by
  unfold State.startOne
  dsimp only
  split
  · exact .some (State.startTask_keeps _ _ _ h)
  · split
    · exact .map fun g => State.startTask_keeps _ _ g h
    · split
      · exact .map fun g => State.startLaunch_keeps _ _ g h
      · exact .none _

theorem startMany_keeps {s0 : State} (v k : Nat) : ∀ {s : State}, Keeps s0 s → Keeps s0 (startMany v k s) := by
  induction k with
  | zero => intro s h; exact h
  | succ k ih =>
    intro s h
    unfold startMany
    split
    · exact ih (Keeps.ofOpt (by assumption) (State.startOne_keeps v h))
    · exact h

theorem State.fill_keeps {s0 s : State} (v : Nat) (h : Keeps s0 s) :
    Keeps s0 (State.fill s v) := by
  unfold State.fill
  try dsimp only
  repeat' (first
    | with_reducible assumption | with_reducible apply startMany_keeps)

theorem State.resume_keeps {s0 s : State} (h : Keeps s0 s) :
    Keeps s0 (State.resume s) := by
  unfold State.resume
  try dsimp only
  repeat' (first
    | with_reducible assumption | with_reducible apply State.fill_keeps
    | with_reducible apply State.grantEntries_keeps | with_reducible apply State.retrySignals_keeps
    | with_reducible apply Keeps.foldl)

theorem State.changed_keeps {s0 s : State} (g : Nat) (h : Keeps s0 s) :
    Keeps s0 (State.changed s g) := by
  unfold State.changed
  try dsimp only
  repeat' (first
    | with_reducible assumption | with_reducible apply State.fireNotify_keeps | with_reducible apply State.wake_keeps
    | with_reducible apply State.serveLine_keeps | with_reducible apply State.resume_keeps
    | with_reducible refine State.setCore_keeps ?_ rfl rfl | with_reducible apply Keeps.foldl | intro _)

theorem State.syncAdd_keeps {s0 s : State} (g : Nat) (n : W64) (h : Keeps s0 s) :
    Keeps s0 (State.syncAdd s g n).1 := by
  unfold State.syncAdd
  try dsimp only
  repeat' (first
    | with_reducible assumption | with_reducible apply State.setObj_keeps | with_reducible apply State.changed_keeps
    | split)

theorem State.syncSet_keeps {s0 s : State} (g : Nat) (v : W64) (h : Keeps s0 s) :
    Keeps s0 (State.syncSet s g v) := by
  unfold State.syncSet
  try dsimp only
  repeat' (first
    | with_reducible assumption | with_reducible apply State.setObj_keeps | with_reducible apply State.changed_keeps)

theorem State.latch_keeps {s0 s : State} (i : Nat) (code : Nat) (detail : Nat) (h : Keeps s0 s) :
    Keeps s0 (State.latch s i code detail) := by
  unfold State.latch
  try dsimp only
  repeat' (first
    | with_reducible assumption | with_reducible apply State.updReq_keeps | with_reducible apply State.cancel_keeps
    | with_reducible apply State.resume_keeps | split)

theorem State.engineAdd_keeps {s0 s : State} (req : Nat) (g : Nat) (h : Keeps s0 s) :
    Keeps s0 (State.engineAdd s req g) := by
  unfold State.engineAdd
  try dsimp only
  repeat' (first
    | with_reducible assumption | with_reducible apply State.syncAdd_keeps | with_reducible apply State.latch_keeps
    | split)

theorem State.engineSync_keeps {s0 s : State} (req : Nat) (r : Request) (idx : Nat) (h : Keeps s0 s) :
    Keeps s0 (State.engineSync s req r idx) := by
  unfold State.engineSync
  try dsimp only
  repeat' (first
    | with_reducible assumption | with_reducible apply State.engineAdd_keeps
    | (simp only [keeps_mk]; with_reducible refine KeepsLit.of ?_ rfl rfl rfl rfl rfl rfl) | split)

theorem State.jobSync_keeps {s0 s : State} (req : Nat) (idx : Nat) (h : Keeps s0 s) :
    Keeps s0 (State.jobSync s req idx) := by
  unfold State.jobSync
  try dsimp only
  repeat' (first
    | with_reducible assumption | with_reducible apply State.engineSync_keeps | split)

theorem State.tryRelease_keeps {s0 s : State} (t : Nat) (x : Thread) (set : Bool) (g : Nat) (n : Nat) (h : Keeps s0 s) :
    Keeps s0 (State.tryRelease s t x set g n) := by
  unfold State.tryRelease
  try dsimp only
  repeat' (first
    | with_reducible assumption | with_reducible apply State.updThread_keeps
    | with_reducible apply State.syncSet_keeps | with_reducible apply State.setStatus_keeps
    | with_reducible apply State.syncAdd_keeps | split)

theorem State.finish_keeps {s0 s : State} (i : Nat) (h : Keeps s0 s) :
    Keeps s0 (State.finish s i) := by
  unfold State.finish
  try dsimp only
  repeat' (first
    | with_reducible assumption | with_reducible apply State.updReq_keeps | with_reducible apply State.count_keeps
    | with_reducible apply State.updValley_keeps | with_reducible refine State.setCore_keeps ?_ rfl rfl | split)

theorem State.finishWith_keeps {s0 s : State} (i : Nat) (code : Nat) (detail : Nat) (h : Keeps s0 s) :
    Keeps s0 (State.finishWith s i code detail) := by
  unfold State.finishWith
  try dsimp only
  repeat' (first
    | with_reducible assumption | with_reducible apply State.updReq_keeps | with_reducible apply State.finish_keeps)

theorem State.settle_keeps {s0 s : State} (i : Nat) (h : Keeps s0 s) :
    Keeps s0 (State.settle s i) := by
  unfold State.settle
  try dsimp only
  repeat' (first
    | with_reducible assumption | with_reducible apply State.resume_keeps | with_reducible apply State.finish_keeps
    | split)

theorem State.fail_keeps {s0 s : State} (i : Nat) (code : Nat) (detail : Nat) (h : Keeps s0 s) :
    Keeps s0 (State.fail s i code detail) := by
  unfold State.fail
  try dsimp only
  repeat' (first
    | with_reducible assumption | with_reducible apply State.latch_keeps | with_reducible apply State.settle_keeps)

theorem State.releaseSyncs_keeps {s0 s : State} (h : Keeps s0 s) :
    Keeps s0 (State.releaseSyncs s) := by
  unfold State.releaseSyncs
  try dsimp only
  repeat' (first
    | with_reducible assumption | with_reducible apply State.engineAdd_keeps | with_reducible apply State.settle_keeps
    | with_reducible apply State.tryRelease_keeps | with_reducible apply State.resume_keeps
    | with_reducible apply Keeps.foldl
    | (simp only [keeps_mk]; with_reducible refine KeepsLit.of ?_ rfl rfl rfl rfl rfl rfl) | intro _ | split)

theorem State.poisonObj_keeps {s0 s : State} (g : Nat) (h : Keeps s0 s) :
    Keeps s0 (State.poisonObj s g) := by
  unfold State.poisonObj
  try dsimp only
  repeat' (first
    | with_reducible assumption | with_reducible apply State.error_keeps | with_reducible apply State.setObj_keeps
    | with_reducible apply State.fail_keeps | with_reducible apply Keeps.foldl | intro _)

theorem State.release_keeps {s0 s : State} (i : Nat) (h : Keeps s0 s) :
    Keeps s0 (State.release s i) := by
  unfold State.release
  try dsimp only
  repeat' (first
    | with_reducible assumption | with_reducible apply State.updEp_keeps | with_reducible apply State.updSq_keeps
    | with_reducible apply State.updValley_keeps | with_reducible refine State.setCore_keeps ?_ rfl rfl | split)

theorem State.dropReqs_keeps {s0 s : State} (mine : Nat → Bool) (h : Keeps s0 s) :
    Keeps s0 (State.dropReqs s mine) := by
  unfold State.dropReqs
  try dsimp only
  repeat' (first
    | with_reducible assumption | with_reducible apply State.cancel_keeps | with_reducible apply State.updSq_keeps
    | with_reducible apply State.updCq_keeps | with_reducible apply State.updEp_keeps
    | with_reducible apply State.resume_keeps | with_reducible refine State.setCore_keeps ?_ rfl rfl
    | with_reducible apply Keeps.foldl
    | (simp only [keeps_mk]; with_reducible refine KeepsLit.of ?_ rfl rfl rfl rfl rfl rfl) | intro _ | split)

theorem State.setMapEntry_keeps {s0 s : State} (t : Table) (slot : Nat) (epoch : Nat) (e : Nat) (h : Keeps s0 s) :
    Keeps s0 (State.setMapEntry s t slot epoch e) := by
  unfold State.setMapEntry
  try dsimp only
  repeat' (first
    | with_reducible assumption | with_reducible apply State.writeThrough_keeps)

theorem State.putRow_keeps {s0 s : State} (t : Table) (base : Nat) (k : Nat) (index : Nat) (payload : Bytes) (scales : Bytes) (h : Keeps s0 s) :
    Keeps s0 (State.putRow s t base k index payload scales) := by
  unfold State.putRow
  try dsimp only
  repeat' (first
    | with_reducible assumption | with_reducible apply State.writeThrough_keeps)

theorem State.putHeader_keeps {s0 s : State} (j : Nat) (st : Nat) (set : Nat) (newest : Nat) (oldest : Nat) (table : Nat) (flags : Nat) (moves : Nat) (step : Nat) (next : Nat) (h : Keeps s0 s) :
    Keeps s0 (State.putHeader s j st set newest oldest table flags moves step next) := by
  unfold State.putHeader
  try dsimp only
  repeat' (first
    | with_reducible assumption | with_reducible apply State.writeThrough_keeps)

theorem State.putMove_keeps {s0 s : State} (j : Nat) (i : Nat) (m : Move) (h : Keeps s0 s) :
    Keeps s0 (State.putMove s j i m) := by
  unfold State.putMove
  try dsimp only
  repeat' (first
    | with_reducible assumption | with_reducible apply State.writeThrough_keeps)

theorem State.setSession_keeps {s0 s : State} (x : Session) (h : Keeps s0 s) :
    Keeps s0 (State.setSession s x) := by
  unfold State.setSession
  try dsimp only
  repeat' (first
    | with_reducible assumption | with_reducible refine State.setCore_keeps ?_ rfl rfl)

theorem State.endSession_keeps {s0 s : State} (x : Session) (h : Keeps s0 s) :
    Keeps s0 (State.endSession s x) := by
  unfold State.endSession
  try dsimp only
  repeat' (first
    | with_reducible assumption | with_reducible refine State.setCore_keeps ?_ rfl rfl)

theorem State.putSession_keeps {s0 s : State} (x : Session) (st : Nat) (h : Keeps s0 s) :
    Keeps s0 (State.putSession s x st) := by
  unfold State.putSession
  try dsimp only
  repeat' (first
    | with_reducible assumption | with_reducible apply State.putHeader_keeps
    | with_reducible apply State.putMove_keeps | with_reducible apply Keeps.foldl | intro _ | split)

theorem State.recordLost_keeps {s0 s : State} (r : Reader) (a : Nat) (n : Nat) (index : Nat) (h : Keeps s0 s) :
    Keeps s0 (State.recordLost s r a n index) := by
  unfold State.recordLost
  try dsimp only
  repeat' (first
    | with_reducible assumption | with_reducible apply State.error_keeps | split)

theorem State.recordCrc_keeps {s0 s : State} (r : Reader) (held : Option UnitRef) (a : Nat) (index : Nat) (x : StoredRow) (h : Keeps s0 s) :
    Keeps s0 (State.recordCrc s r held a index x) := by
  unfold State.recordCrc
  try dsimp only
  repeat' (first
    | with_reducible assumption | with_reducible apply State.error_keeps)

theorem State.readRow_keeps {s0 s : State} (r : Reader) (t : Table) (base : Nat) (k : Nat) (index : Nat) (h : Keeps s0 s) :
    Keeps s0 (State.readRow s r t base k index).1 := by
  unfold State.readRow
  try dsimp only
  repeat' (first
    | with_reducible assumption | with_reducible apply State.recordLost_keeps
    | with_reducible apply State.fetchWith_keeps | with_reducible apply State.recordCrc_keeps | split)

theorem State.readDefault_keeps {s0 s : State} (r : Reader) (t : Table) (h : Keeps s0 s) :
    Keeps s0 (State.readDefault s r t).1 := by
  unfold State.readDefault
  try dsimp only
  repeat' (first
    | with_reducible assumption | with_reducible apply State.recordLost_keeps | with_reducible apply State.fetch_keeps
    | with_reducible apply State.recordCrc_keeps | split)

theorem State.peerRow_keeps {s0 s : State} (v : Nat) (k : Nat) (t : Table) (epoch : Nat) (row : Nat) (h : Keeps s0 s) :
    Keeps s0 (State.peerRow s v k t epoch row).1 := by
  unfold State.peerRow
  try dsimp only
  repeat' (first
    | with_reducible assumption | with_reducible apply State.recordLost_keeps | with_reducible apply State.fetch_keeps
    | with_reducible apply State.readRow_keeps | with_reducible refine Keeps.fst (by with_reducible assumption) ?_
    | split)

theorem State.send_keeps {s0 s : State} (p : Packet) (h : Keeps s0 s) :
    Keeps s0 (State.send s p) := by
  unfold State.send
  try dsimp only
  repeat' (first
    | with_reducible assumption | with_reducible refine State.setCore_keeps ?_ rfl rfl)

theorem State.answerPeer_keeps {s0 s : State} (p : PeerLookup) (msg : Bytes) (h : Keeps s0 s) :
    Keeps s0 (State.answerPeer s p msg) := by
  unfold State.answerPeer
  try dsimp only
  repeat' (first
    | with_reducible assumption | with_reducible apply State.send_keeps)

theorem State.refusePeer_keeps {s0 s : State} (p : PeerLookup) (st : Nat) (h : Keeps s0 s) :
    Keeps s0 (State.refusePeer s p st) := by
  unfold State.refusePeer
  try dsimp only
  repeat' (first
    | with_reducible assumption | with_reducible apply State.updTable_keeps
    | with_reducible apply State.answerPeer_keeps | split)

theorem State.servePeer_keeps {s0 s : State} (p : PeerLookup) (h : Keeps s0 s) :
    Keeps s0 (State.servePeer s p) := by
  unfold State.servePeer
  try dsimp only
  repeat' (first
    | with_reducible assumption | with_reducible apply State.refusePeer_keeps
    | with_reducible apply State.peerRow_keeps | with_reducible apply State.updTable_keeps
    | with_reducible apply State.answerPeer_keeps | with_reducible apply Keeps.foldl1 | intro _ | split)

theorem State.takePeer_keeps {s0 s : State} (p : PeerLookup) (h : Keeps s0 s) :
    Keeps s0 (State.takePeer s p) := by
  unfold State.takePeer
  try dsimp only
  repeat' (first
    | with_reducible assumption | with_reducible apply State.servePeer_keeps
    | with_reducible refine State.setCore_keeps ?_ rfl rfl)

theorem State.drainPeers_keeps {s0 s : State} (k : Nat) (h : Keeps s0 s) :
    Keeps s0 (State.drainPeers s k) := by
  unfold State.drainPeers
  try dsimp only
  repeat' (first
    | with_reducible assumption | with_reducible apply State.takePeer_keeps
    | with_reducible refine State.setCore_keeps ?_ rfl rfl | with_reducible apply Keeps.foldl | intro _ | split)

theorem State.admitPeer_keeps {s0 s : State} (p : PeerLookup) (h : Keeps s0 s) :
    Keeps s0 (State.admitPeer s p) := by
  unfold State.admitPeer
  try dsimp only
  repeat' (first
    | with_reducible assumption | with_reducible apply State.refusePeer_keeps
    | with_reducible apply State.drainPeers_keeps | with_reducible refine State.setCore_keeps ?_ rfl rfl | split)

theorem State.serveHeld_keeps {s0 s : State} (set : Nat) (h : Keeps s0 s) :
    Keeps s0 (State.serveHeld s set) := by
  unfold State.serveHeld
  try dsimp only
  repeat' (first
    | with_reducible assumption | with_reducible apply State.admitPeer_keeps
    | with_reducible refine State.setCore_keeps ?_ rfl rfl | with_reducible apply Keeps.foldl | intro _ | split)

theorem State.sendError_keeps {s0 s : State} (dest : Nat) (tag : Nat) (kind : Nat) (code : Nat) (msg : Bytes) (h : Keeps s0 s) :
    Keeps s0 (State.sendError s dest tag kind code msg) := by
  unfold State.sendError
  try dsimp only
  repeat' (first
    | with_reducible assumption | with_reducible apply State.send_keeps)

theorem State.lookupRequest_keeps {s0 s : State} (src : Nat) (tag : Nat) (msg : Bytes) (h : Keeps s0 s) :
    Keeps s0 (State.lookupRequest s src tag msg) := by
  unfold State.lookupRequest
  try dsimp only
  repeat' (first
    | with_reducible assumption | with_reducible apply State.sendError_keeps
    | with_reducible apply State.admitPeer_keeps | split)

theorem execRemoteLookupRequest_keeps (src : Nat) (tag : Nat) (msg : Bytes) {s : State} :
    KeepsOut s (execRemoteLookupRequest src tag msg s) := by
  unfold execRemoteLookupRequest
  have h := Keeps.refl s
  try dsimp only
  repeat' (first
    | with_reducible assumption | with_reducible apply State.lookupRequest_keeps | with_reducible apply KeepsOut.next)

theorem execEpochWaitExpire_keeps (node : Nat) (reqTag : Nat) {s : State} :
    KeepsOut s (execEpochWaitExpire node reqTag s) := by
  unfold execEpochWaitExpire
  have h := Keeps.refl s
  try dsimp only
  repeat' (first
    | with_reducible assumption | with_reducible apply State.advanceTo_keeps
    | with_reducible apply State.refusePeer_keeps | with_reducible refine State.setCore_keeps ?_ rfl rfl
    | with_reducible apply KeepsOut.next | split)

theorem State.setGraph_keeps {s0 s : State} (ck : Nat) (g : Nat) (x : Graph) (h : Keeps s0 s) :
    Keeps s0 (State.setGraph s ck g x) := by
  unfold State.setGraph
  try dsimp only
  repeat' (first
    | with_reducible assumption | with_reducible apply State.updCtx_keeps)

theorem State.writeVer_keeps {s0 s : State} (ck : Nat) (g : Nat) (x : Graph) (v : GraphVer) (st : Nat) (h : Keeps s0 s) :
    Keeps s0 (State.writeVer s ck g x v st) := by
  unfold State.writeVer
  try dsimp only
  repeat' (first
    | with_reducible assumption | with_reducible apply State.writeThrough_keeps)

theorem State.dropJournal_keeps {s0 s : State} (j : Nat) (h : Keeps s0 s) :
    Keeps s0 (State.dropJournal s j) := by
  unfold State.dropJournal
  try dsimp only
  repeat' (first
    | with_reducible assumption | with_reducible refine State.setCore_keeps ?_ rfl rfl)

theorem State.endIfDone_keeps {s0 s : State} (set : Nat) (h : Keeps s0 s) :
    Keeps s0 (State.endIfDone s set) := by
  unfold State.endIfDone
  try dsimp only
  repeat' (first
    | with_reducible assumption | with_reducible apply State.putSession_keeps
    | with_reducible apply State.endSession_keeps | with_reducible apply State.updSet_keeps
    | with_reducible apply State.dropJournal_keeps | with_reducible apply State.doneOpt_keeps | split)

theorem State.mapMoves_keeps {s0 s : State} (set : Nat) (f : Move → Move) (h : Keeps s0 s) :
    Keeps s0 (State.mapMoves s set f) := by
  unfold State.mapMoves
  try dsimp only
  repeat' (first
    | with_reducible assumption | with_reducible apply State.setSession_keeps
    | with_reducible apply State.putSession_keeps | split)

theorem State.discardCopies_keeps {s0 s : State} (y : Session) (h : Keeps s0 s) :
    Keeps s0 (State.discardCopies s y) := by
  unfold State.discardCopies
  try dsimp only
  repeat' (first
    | with_reducible assumption | with_reducible apply State.updSet_keeps | with_reducible apply Keeps.foldl | intro _)

theorem State.faultSession_keeps {s0 s : State} (x : Session) (h : Keeps s0 s) :
    Keeps s0 (State.faultSession s x) := by
  unfold State.faultSession
  try dsimp only
  repeat' (first
    | with_reducible assumption | with_reducible apply State.discardCopies_keeps
    | with_reducible apply State.putSession_keeps | with_reducible apply State.endSession_keeps
    | with_reducible apply State.doneOpt_keeps | split)

theorem State.checkJournals_keeps {s0 s : State} (h : Keeps s0 s) :
    Keeps s0 (State.checkJournals s) := by
  unfold State.checkJournals
  try dsimp only
  repeat' (first
    | with_reducible assumption | with_reducible apply State.faultSession_keeps | with_reducible apply Keeps.foldl)

theorem State.seal_keeps {s0 s : State} (set : Nat) (h : Keeps s0 s) :
    Keeps s0 (State.seal s set) := by
  unfold State.seal
  try dsimp only
  repeat' (first
    | with_reducible assumption | with_reducible apply State.updSet_keeps)

theorem State.expire_keeps {s0 s : State} (set : Nat) (h : Keeps s0 s) :
    Keeps s0 (State.expire s set) := by
  unfold State.expire
  try dsimp only
  repeat' (first
    | with_reducible assumption | with_reducible apply State.updSet_keeps | with_reducible apply State.mapMoves_keeps
    | with_reducible apply State.endIfDone_keeps | with_reducible apply State.seal_keeps | split)

theorem State.halveTemps_keeps {s0 s : State} (set : Nat) (h : Keeps s0 s) :
    Keeps s0 (State.halveTemps s set) := by
  unfold State.halveTemps
  try dsimp only
  repeat' (first
    | with_reducible assumption | with_reducible apply State.writeThrough_keeps | split)

theorem State.flipSet_keeps {s0 s : State} (set : Nat) (h : Keeps s0 s) :
    Keeps s0 (State.flipSet s set) := by
  unfold State.flipSet
  try dsimp only
  repeat' (first
    | with_reducible assumption | with_reducible apply State.updSet_keeps
    | with_reducible apply State.halveTemps_keeps | with_reducible apply State.setSession_keeps
    | with_reducible apply State.doneOpt_keeps | with_reducible apply State.expire_keeps
    | with_reducible apply State.serveHeld_keeps | split)

theorem State.zeroGlen_keeps {s0 s : State} (g : Nat) (h : Keeps s0 s) :
    Keeps s0 (State.zeroGlen s g) := by
  unfold State.zeroGlen
  try dsimp only
  repeat' (first
    | with_reducible assumption | with_reducible refine State.setCore_wide ?_ ?_ ?_
    | exact State.Canonical.scratch ‹_› | exact State.Canonical.lanes ‹_› | with_reducible apply zeroN_wf | intro _)

theorem State.releaseProfile_keeps {s0 s : State} (old : Profile) (new : Profile) (h : Keeps s0 s) :
    Keeps s0 (State.releaseProfile s old new) := by
  unfold State.releaseProfile
  try dsimp only
  repeat' (first
    | with_reducible assumption | with_reducible apply State.zeroGlen_keeps
    | with_reducible refine State.setCore_keeps ?_ rfl rfl | with_reducible apply Keeps.foldl)

theorem State.channelFree_keeps {s0 s : State} (v : Nat) (lpddr : Bool) (ch : Nat) (h : Keeps s0 s) :
    Keeps s0 (State.channelFree s v lpddr ch) := by
  unfold State.channelFree
  try dsimp only
  repeat' (first
    | with_reducible assumption | with_reducible apply State.retireChannel_keeps
    | with_reducible apply State.checkJournals_keeps | with_reducible apply State.done_keeps
    | (simp only [keeps_mk]; with_reducible refine KeepsLit.of ?_ rfl rfl rfl rfl rfl rfl) | split)

theorem State.retire_keeps {s0 s : State} (v : Nat) (r : Retiring) (h : Keeps s0 s) :
    Keeps s0 (State.retire s v r) := by
  unfold State.retire
  try dsimp only
  repeat' (first
    | with_reducible assumption | with_reducible apply State.setGraph_keeps | with_reducible apply State.updCtx_keeps
    | with_reducible apply State.updSet_keeps | with_reducible apply State.mapMoves_keeps
    | with_reducible apply State.endIfDone_keeps | with_reducible apply State.releaseProfile_keeps
    | with_reducible apply State.updGroup_keeps | with_reducible apply State.channelFree_keeps
    | with_reducible apply State.doneOpt_keeps | with_reducible refine State.setCore_keeps ?_ rfl rfl | split)

theorem State.sweep_keeps {s0 s : State} (v : Nat) (h : Keeps s0 s) :
    Keeps s0 (State.sweep s v) := by
  unfold State.sweep
  try dsimp only
  repeat' (first
    | with_reducible assumption | with_reducible apply State.updValley_keeps | with_reducible apply State.retire_keeps
    | with_reducible apply State.expire_keeps | with_reducible apply Keeps.foldl | intro _)

theorem State.join_keeps {s0 s : State} (r : Readmit) (h : Keeps s0 s) :
    Keeps s0 (State.join s r) := by
  unfold State.join
  try dsimp only
  repeat' (first
    | with_reducible assumption | with_reducible apply State.stage_keeps | with_reducible apply State.zeroGlen_keeps
    | with_reducible apply State.updGroup_keeps | with_reducible apply State.enterCache_keeps
    | with_reducible apply State.event_keeps | with_reducible apply State.done_keeps
    | with_reducible apply State.enter_keeps
    | (simp only [keeps_mk]; with_reducible refine KeepsLit.of ?_ rfl rfl rfl rfl rfl rfl) | split)

theorem State.basinBoundary_keeps {s0 s : State} (v : Nat) (g : Nat) (bnd : Nat) (h : Keeps s0 s) :
    Keeps s0 (State.basinBoundary s v g bnd).1 := by
  unfold State.basinBoundary
  try dsimp only
  repeat' (first
    | with_reducible assumption | with_reducible apply State.writeBack_keeps
    | with_reducible apply State.dropLine_keeps | with_reducible apply State.updGroup_keeps
    | with_reducible apply State.done_keeps | with_reducible apply State.leaveCache_keeps
    | with_reducible apply Keeps.foldl | intro _ | split)

theorem State.pushRetiring_keeps {s0 s : State} (v : Nat) (r : Retiring) (h : Keeps s0 s) :
    Keeps s0 (State.pushRetiring s v r) := by
  unfold State.pushRetiring
  try dsimp only
  repeat' (first
    | with_reducible assumption | with_reducible apply State.updValley_keeps)

theorem State.applyChange_keeps {s0 s : State} (v : Nat) (bnd : Nat) (a : Armed) (h : Keeps s0 s) :
    Keeps s0 (State.applyChange s v bnd a) := by
  unfold State.applyChange
  try dsimp only
  repeat' (first
    | with_reducible assumption | with_reducible apply State.doneOpt_keeps | with_reducible apply State.updCtx_keeps
    | with_reducible apply State.pushRetiring_keeps | with_reducible apply State.setGraph_keeps
    | with_reducible apply State.writeVer_keeps | with_reducible apply State.updTable_keeps
    | with_reducible apply State.flipSet_keeps | with_reducible apply State.updValley_keeps
    | with_reducible apply State.basinBoundary_keeps | with_reducible apply State.join_keeps
    | with_reducible apply Keeps.foldl
    | (simp only [keeps_mk]; with_reducible refine KeepsLit.of ?_ rfl rfl rfl rfl rfl rfl) | intro _ | split)

theorem State.boundary_keeps {s0 s : State} (v : Nat) (h : Keeps s0 s) :
    Keeps s0 (State.boundary s v) := by
  unfold State.boundary
  try dsimp only
  repeat' (first
    | with_reducible assumption | with_reducible apply State.updValley_keeps
    | with_reducible apply State.applyChange_keeps | with_reducible apply State.sweep_keeps
    | with_reducible apply Keeps.foldl | intro _)

theorem State.boundaryIfStopped_keeps {s0 s : State} (v : Nat) (h : Keeps s0 s) :
    Keeps s0 (State.boundaryIfStopped s v) := by
  unfold State.boundaryIfStopped
  try dsimp only
  repeat' (first
    | with_reducible assumption | with_reducible apply State.boundary_keeps | split)

theorem State.arm_keeps {s0 s : State} (v : Nat) (c : Change) (done : Option Deferred) (ready : Bool := true) (h : Keeps s0 s) :
    Keeps s0 (State.arm s v c done ready) := by
  unfold State.arm
  try dsimp only
  repeat' (first
    | with_reducible assumption | with_reducible apply State.updValley_keeps)

theorem State.ready_keeps {s0 s : State} (v : Nat) (c : Change) (h : Keeps s0 s) :
    Keeps s0 (State.ready s v c) := by
  unfold State.ready
  try dsimp only
  repeat' (first
    | with_reducible assumption | with_reducible apply State.updValley_keeps
    | with_reducible apply State.boundaryIfStopped_keeps)

theorem execBatchBoundary_keeps (valley : Nat) {s : State} :
    KeepsOut s (execBatchBoundary valley s) := by
  unfold execBatchBoundary
  have h := Keeps.refl s
  try dsimp only
  repeat' (first
    | with_reducible assumption | with_reducible apply State.boundary_keeps | with_reducible apply KeepsOut.next
    | split)

theorem execBoundaryAutoTimer_keeps (valley : Nat) {s : State} :
    KeepsOut s (execBoundaryAutoTimer valley s) := by
  unfold execBoundaryAutoTimer
  have h := Keeps.refl s
  try dsimp only
  repeat' (first
    | with_reducible assumption | with_reducible apply State.advanceTo_keeps
    | with_reducible apply State.boundary_keeps | with_reducible apply KeepsOut.next | split)

theorem execEpochRetainExpire_keeps (set : Nat) {s : State} :
    KeepsOut s (execEpochRetainExpire set s) := by
  unfold execEpochRetainExpire
  have h := Keeps.refl s
  try dsimp only
  repeat' (first
    | with_reducible assumption | with_reducible apply State.advanceTo_keeps | with_reducible apply State.expire_keeps
    | with_reducible apply KeepsOut.next | split)

theorem ctxCreate_keeps {s0 s : State} (r : Req) (h : Keeps s0 s) :
    KeepsRes s0 (ctxCreate.run r s) := by
  unfold ctxCreate
  try dsimp only
  repeat' (first
    | with_reducible assumption | with_reducible apply State.zeroScratch_keeps | with_reducible apply Res.work_keeps
    | with_reducible refine State.setCore_keeps ?_ rfl rfl | with_reducible apply KeepsRes.fail
    | with_reducible apply KeepsRes.okay | with_reducible apply Keeps.foldl | intro _ | split)

theorem execCtxCreate_keeps (via : Via) {s : State} : KeepsOut s (execCtxCreate via s) := serve_keeps ctxCreate_keeps

theorem State.zeroUnits_keeps {s0 s : State} (v : Nat) (c : Nat) (h : Keeps s0 s) :
    Keeps s0 (State.zeroUnits s v c) := by
  unfold State.zeroUnits
  try dsimp only
  repeat' (first
    | with_reducible assumption | with_reducible refine State.setCore_keeps ?_ rfl rfl
    | with_reducible refine State.setCore_wide ?_ ?_ ?_ | with_reducible apply Keeps.foldl
    | exact State.Canonical.scratch ‹_› | exact State.Canonical.lanes ‹_› | with_reducible apply zeroN_wf | intro _)

theorem State.queueError_keeps {s0 s : State} (cq : Nat) (index : Nat) (sq : Nat) (err : Nat) (detail : Nat) (valley : Nat) (h : Keeps s0 s) :
    Keeps s0 (State.queueError s cq index sq err detail valley) := by
  unfold State.queueError
  try dsimp only
  repeat' (first
    | with_reducible assumption | with_reducible apply State.error_keeps
    | with_reducible refine State.setCore_keeps ?_ rfl rfl)

theorem State.stopUserSqs_keeps {s0 s : State} (v : Nat) (c : Nat) (ended : Nat) (h : Keeps s0 s) :
    Keeps s0 (State.stopUserSqs s v c ended) := by
  unfold State.stopUserSqs
  try dsimp only
  repeat' (first
    | with_reducible assumption | with_reducible apply State.updSq_keeps | with_reducible apply State.queueError_keeps
    | with_reducible apply Keeps.foldl | intro _)

theorem State.teardown_keeps {s0 s : State} (v : Nat) (c : Nat) (reason : Nat) (seq : Nat) (h : Keeps s0 s) :
    Keeps s0 (State.teardown s v c reason seq) := by
  unfold State.teardown
  try dsimp only
  repeat' (first
    | with_reducible assumption | with_reducible apply State.dropReqs_keeps
    | with_reducible apply State.zeroUnits_keeps | with_reducible apply State.stopUserSqs_keeps
    | with_reducible apply State.zeroScratch_keeps | with_reducible apply State.event_keeps
    | with_reducible apply State.sweep_keeps | with_reducible apply State.resume_keeps
    | with_reducible refine State.setCore_keeps ?_ rfl rfl | with_reducible apply Keeps.foldl
    | (simp only [keeps_mk]; with_reducible refine KeepsLit.of ?_ rfl rfl rfl rfl rfl rfl) | intro _ | split)

theorem State.ctxFault_keeps {s0 s : State} (v : Nat) (c : Nat) (e : FaultEv) (units : List UnitRef) (h : Keeps s0 s) :
    Keeps s0 (State.ctxFault s v c e units) := by
  unfold State.ctxFault
  try dsimp only
  repeat' (first
    | with_reducible assumption | with_reducible apply State.error_keeps | with_reducible apply State.teardown_keeps)

theorem ctxDestroy_keeps {s0 s : State} (r : Req) (h : Keeps s0 s) :
    KeepsRes s0 (ctxDestroy.run r s) := by
  unfold ctxDestroy
  try dsimp only
  repeat' (first
    | with_reducible assumption | with_reducible apply State.teardown_keeps | with_reducible apply State.done_keeps
    | with_reducible apply KeepsRes.fail | with_reducible apply KeepsRes.okay
    | (simp only [keepsRes_mk]; with_reducible refine ⟨?_, ?_⟩) | intro _ | split)

theorem execCtxDestroy_keeps (via : Via) {s : State} : KeepsOut s (execCtxDestroy via s) := serve_keeps ctxDestroy_keeps

theorem ctxQuery_keeps {s0 s : State} (r : Req) (h : Keeps s0 s) :
    KeepsRes s0 (ctxQuery.run r s) := by
  unfold ctxQuery
  try dsimp only
  repeat' (first
    | with_reducible assumption | with_reducible apply KeepsRes.okay)

theorem execCtxQuery_keeps (via : Via) {s : State} : KeepsOut s (execCtxQuery via s) := serve_keeps ctxQuery_keeps

theorem State.startValley_keeps {s0 s : State} (v : Nat) (h : Keeps s0 s) :
    Keeps s0 (State.startValley s v) := by
  unfold State.startValley
  try dsimp only
  repeat' (first
    | with_reducible assumption | with_reducible apply State.updValley_keeps)

theorem valleyStart_keeps {s0 s : State} (r : Req) (h : Keeps s0 s) :
    KeepsRes s0 (valleyStart.run r s) := by
  unfold valleyStart
  try dsimp only
  repeat' (first
    | with_reducible assumption | with_reducible apply State.startValley_keeps
    | with_reducible apply State.updValley_keeps | with_reducible apply KeepsRes.fail
    | with_reducible apply KeepsRes.okay | with_reducible apply KeepsRes.pend | split)

theorem execValleyStart_keeps (via : Via) {s : State} : KeepsOut s (execValleyStart via s) := serve_keeps valleyStart_keeps

theorem valleyStop_keeps {s0 s : State} (r : Req) (h : Keeps s0 s) :
    KeepsRes s0 (valleyStop.run r s) := by
  unfold valleyStop
  try dsimp only
  repeat' (first
    | with_reducible assumption | with_reducible apply State.updValley_keeps | with_reducible apply State.done_keeps
    | with_reducible apply KeepsRes.okay | with_reducible apply KeepsRes.pend
    | (simp only [keepsRes_mk]; with_reducible refine ⟨?_, ?_⟩) | intro _ | split)

theorem execValleyStop_keeps (via : Via) {s : State} : KeepsOut s (execValleyStop via s) := serve_keeps valleyStop_keeps

theorem execValleyStopDone_keeps (valley : Nat) {s : State} :
    KeepsOut s (execValleyStopDone valley s) := by
  unfold execValleyStopDone
  have h := Keeps.refl s
  try dsimp only
  repeat' (first
    | with_reducible assumption | with_reducible apply State.updValley_keeps
    | with_reducible apply State.boundaryIfStopped_keeps | with_reducible apply State.done_keeps
    | with_reducible apply State.startValley_keeps | with_reducible apply KeepsOut.next
    | with_reducible apply Keeps.foldl | intro _ | split)

theorem execValleyStopLimitExpire_keeps (valley : Nat) {s : State} :
    KeepsOut s (execValleyStopLimitExpire valley s) := by
  unfold execValleyStopLimitExpire
  have h := Keeps.refl s
  try dsimp only
  repeat' (first
    | with_reducible assumption | with_reducible apply State.advanceTo_keeps
    | with_reducible apply State.teardown_keeps | with_reducible apply State.updValley_keeps
    | with_reducible apply KeepsOut.next | with_reducible apply Keeps.foldl | intro _ | split)

theorem valleyProfileSet_keeps {s0 s : State} (r : Req) (h : Keeps s0 s) :
    KeepsRes s0 (valleyProfileSet.run r s) := by
  unfold valleyProfileSet
  try dsimp only
  repeat' (first
    | with_reducible assumption | with_reducible apply State.updValley_keeps | with_reducible apply State.arm_keeps
    | with_reducible apply State.boundaryIfStopped_keeps | with_reducible apply KeepsRes.fail
    | (simp only [keepsRes_mk]; with_reducible refine ⟨?_, ?_⟩) | intro _ | split)

theorem execValleyProfileSet_keeps (via : Via) {s : State} : KeepsOut s (execValleyProfileSet via s) := serve_keeps valleyProfileSet_keeps

theorem narrowsSet_keeps {s0 s : State} (r : Req) (h : Keeps s0 s) :
    KeepsRes s0 (narrowsSet.run r s) := by
  unfold narrowsSet
  try dsimp only
  repeat' (first
    | with_reducible assumption | with_reducible apply State.arm_keeps
    | with_reducible apply State.boundaryIfStopped_keeps | with_reducible apply KeepsRes.fail
    | (simp only [keepsRes_mk]; with_reducible refine ⟨?_, ?_⟩) | intro _ | split)

theorem execNarrowsSet_keeps (via : Via) {s : State} : KeepsOut s (execNarrowsSet via s) := serve_keeps narrowsSet_keeps

theorem valleyQuery_keeps {s0 s : State} (r : Req) (h : Keeps s0 s) :
    KeepsRes s0 (valleyQuery.run r s) := by
  unfold valleyQuery
  try dsimp only
  repeat' (first
    | with_reducible assumption | with_reducible apply KeepsRes.okay)

theorem execValleyQuery_keeps (via : Via) {s : State} : KeepsOut s (execValleyQuery via s) := serve_keeps valleyQuery_keeps

theorem State.basinCorrected_keeps {s0 s : State} (h : Keeps s0 s) :
    Keeps s0 (State.basinCorrected s) := by
  unfold State.basinCorrected
  try dsimp only
  repeat' (first
    | with_reducible assumption | (simp only [keeps_mk]; with_reducible refine KeepsLit.of ?_ rfl rfl rfl rfl rfl rfl))

theorem State.basinUncorrected_keeps {s0 s : State} (h : Keeps s0 s) :
    Keeps s0 (State.basinUncorrected s) := by
  unfold State.basinUncorrected
  try dsimp only
  repeat' (first
    | with_reducible assumption | (simp only [keeps_mk]; with_reducible refine KeepsLit.of ?_ rfl rfl rfl rfl rfl rfl))

theorem State.eccCorrected_keeps {s0 s : State} (a : Nat) (h : Keeps s0 s) :
    Keeps s0 (State.eccCorrected s a) := by
  unfold State.eccCorrected
  try dsimp only
  repeat' (first
    | with_reducible assumption | with_reducible apply State.basinCorrected_keeps
    | with_reducible apply State.error_keeps | with_reducible apply State.updStack_keeps
    | (simp only [keeps_mk]; with_reducible refine KeepsLit.of ?_ rfl rfl rfl rfl rfl rfl) | split)

theorem State.eccUncorrectable_keeps {s0 s : State} (a : Nat) (h : Keeps s0 s) :
    Keeps s0 (State.eccUncorrectable s a) := by
  unfold State.eccUncorrectable
  try dsimp only
  repeat' (first
    | with_reducible assumption | with_reducible apply State.basinUncorrected_keeps
    | with_reducible apply State.error_keeps | with_reducible apply State.poison_keeps
    | with_reducible apply State.dropLine_keeps | with_reducible apply State.writeBack_keeps
    | with_reducible apply State.updStack_keeps | split)

theorem State.eccTag_keeps {s0 s : State} (l : Nat) (h : Keeps s0 s) :
    Keeps s0 (State.eccTag s l) := by
  unfold State.eccTag
  try dsimp only
  repeat' (first
    | with_reducible assumption | with_reducible apply State.basinUncorrected_keeps
    | with_reducible apply State.error_keeps | with_reducible apply State.dropLine_keeps
    | with_reducible apply State.loseLine_keeps | with_reducible apply State.ctxFault_keeps
    | with_reducible apply State.deviceFault_keeps | split)

theorem State.eccFind_keeps {s0 s : State} (e : Ecc) (h : Keeps s0 s) : Keeps s0 (s.eccFind e) := by
  cases e with
  | corrected a => exact State.eccCorrected_keeps a h
  | uncorrectable a => exact State.eccUncorrectable_keeps a h
  | tag l => exact State.eccTag_keeps l h
  | tracker => exact State.deviceFault_keeps _ (State.basinUncorrected_keeps h)

theorem State.eccAll_keeps {s0 s : State} (found : List Ecc) (h : Keeps s0 s) :
    Keeps s0 (State.eccAll s found) := by
  unfold State.eccAll
  try dsimp only
  repeat' (first
    | with_reducible assumption | with_reducible apply State.eccFind_keeps | with_reducible apply Keeps.foldl)

theorem sqCreate_keeps {s0 s : State} (r : Req) (h : Keeps s0 s) :
    KeepsRes s0 (sqCreate.run r s) := by
  unfold sqCreate
  try dsimp only
  repeat' (first
    | with_reducible assumption | with_reducible refine State.setCore_keeps ?_ rfl rfl
    | with_reducible apply KeepsRes.fail | with_reducible apply KeepsRes.okay | split)

theorem execSqCreate_keeps (via : Via) {s : State} : KeepsOut s (execSqCreate via s) := serve_keeps sqCreate_keeps

theorem State.endSq_keeps {s0 s : State} (q : Nat) (h : Keeps s0 s) :
    Keeps s0 (State.endSq s q) := by
  unfold State.endSq
  try dsimp only
  repeat' (first
    | with_reducible assumption | with_reducible apply State.doneOpt_keeps
    | with_reducible refine State.setCore_keeps ?_ rfl rfl | split)

theorem sqDestroy_keeps {s0 s : State} (r : Req) (h : Keeps s0 s) :
    KeepsRes s0 (sqDestroy.run r s) := by
  unfold sqDestroy
  try dsimp only
  repeat' (first
    | with_reducible assumption | with_reducible apply State.updValley_keeps | with_reducible apply State.updSq_keeps
    | with_reducible apply State.endSq_keeps | with_reducible apply KeepsRes.fail | with_reducible apply KeepsRes.okay
    | (simp only [keepsRes_mk]; with_reducible refine ⟨?_, ?_⟩) | intro _ | split)

theorem execSqDestroy_keeps (via : Via) {s : State} : KeepsOut s (execSqDestroy via s) := serve_keeps sqDestroy_keeps

theorem cqCreate_keeps {s0 s : State} (r : Req) (h : Keeps s0 s) :
    KeepsRes s0 (cqCreate.run r s) := by
  unfold cqCreate
  try dsimp only
  repeat' (first
    | with_reducible assumption | with_reducible apply Res.work_keeps
    | with_reducible refine State.setCore_keeps ?_ rfl rfl | with_reducible apply KeepsRes.fail
    | with_reducible apply KeepsRes.okay
    | (simp only [keeps_mk]; with_reducible refine KeepsLit.wide ?_ ?_ ?_ ?_ ?_ ?_ ?_) | exact State.Canonical.mem ‹_›
    | exact State.Canonical.ram ‹_› | exact State.Canonical.scratch ‹_› | exact State.Canonical.lanes ‹_›
    | exact State.Canonical.pool ‹_› | exact State.Canonical.lines ‹_› _ ‹_› | with_reducible apply zeroN_wf | intro _
    | split)

theorem execCqCreate_keeps (via : Via) {s : State} : KeepsOut s (execCqCreate via s) := serve_keeps cqCreate_keeps

theorem State.dropNotifies_keeps {s0 s : State} (q : Nat) (h : Keeps s0 s) :
    Keeps s0 (State.dropNotifies s q) := by
  unfold State.dropNotifies
  try dsimp only
  repeat' (first
    | with_reducible assumption | with_reducible refine State.setCore_keeps ?_ rfl rfl)

theorem cqDestroy_keeps {s0 s : State} (r : Req) (h : Keeps s0 s) :
    KeepsRes s0 (cqDestroy.run r s) := by
  unfold cqDestroy
  try dsimp only
  repeat' (first
    | with_reducible assumption | with_reducible apply State.dropNotifies_keeps
    | with_reducible refine State.setCore_keeps ?_ rfl rfl | with_reducible apply KeepsRes.fail
    | with_reducible apply KeepsRes.okay | split)

theorem execCqDestroy_keeps (via : Via) {s : State} : KeepsOut s (execCqDestroy via s) := serve_keeps cqDestroy_keeps

theorem handleTableSet_keeps {s0 s : State} (r : Req) (h : Keeps s0 s) :
    KeepsRes s0 (handleTableSet.run r s) := by
  unfold handleTableSet
  try dsimp only
  repeat' (first
    | with_reducible assumption | with_reducible apply State.arm_keeps
    | with_reducible apply State.boundaryIfStopped_keeps | with_reducible apply KeepsRes.fail
    | (simp only [keepsRes_mk]; with_reducible refine ⟨?_, ?_⟩) | intro _ | split)

theorem execHandleTableSet_keeps (via : Via) {s : State} : KeepsOut s (execHandleTableSet via s) := serve_keeps handleTableSet_keeps

theorem queueQuery_keeps {s0 s : State} (r : Req) (h : Keeps s0 s) :
    KeepsRes s0 (queueQuery.run r s) := by
  unfold queueQuery
  try dsimp only
  repeat' (first
    | with_reducible assumption | with_reducible apply KeepsRes.okay)

theorem execQueueQuery_keeps (via : Via) {s : State} : KeepsOut s (execQueueQuery via s) := serve_keeps queueQuery_keeps

theorem execCfeSqDoorbellWrite_keeps (q : Nat) (value : W32) {s : State} :
    KeepsOut s (execCfeSqDoorbellWrite q value s) := by
  unfold execCfeSqDoorbellWrite
  have h := Keeps.refl s
  try dsimp only
  repeat' (first
    | with_reducible assumption | with_reducible apply State.updSq_keeps | with_reducible apply State.queueError_keeps
    | with_reducible apply KeepsOut.next | split)

theorem State.fireCq_keeps {s0 s : State} (q : Nat) (h : Keeps s0 s) :
    Keeps s0 (State.fireCq s q) := by
  unfold State.fireCq
  try dsimp only
  repeat' (first
    | with_reducible assumption | with_reducible apply State.updCq_keeps | with_reducible apply State.msix_keeps
    | split)

theorem State.countFire_keeps {s0 s : State} (q : Nat) (h : Keeps s0 s) :
    Keeps s0 (State.countFire s q) := by
  unfold State.countFire
  try dsimp only
  repeat' (first
    | with_reducible assumption | with_reducible apply State.fireCq_keeps | split)

theorem execCfeCqHeadWrite_keeps (q : Nat) (value : W32) {s : State} :
    KeepsOut s (execCfeCqHeadWrite q value s) := by
  unfold execCfeCqHeadWrite
  have h := Keeps.refl s
  try dsimp only
  repeat' (first
    | with_reducible assumption | with_reducible apply State.updCq_keeps | with_reducible apply State.queueError_keeps
    | with_reducible apply KeepsOut.next | split)

theorem execCfeCqArmWrite_keeps (q : Nat) (value : W32) {s : State} :
    KeepsOut s (execCfeCqArmWrite q value s) := by
  unfold execCfeCqArmWrite
  have h := Keeps.refl s
  try dsimp only
  repeat' (first
    | with_reducible assumption | with_reducible apply State.updCq_keeps | with_reducible apply State.countFire_keeps
    | with_reducible apply KeepsOut.next | split)

theorem execCqCoalesceTimer_keeps (q : Nat) {s : State} :
    KeepsOut s (execCqCoalesceTimer q s) := by
  unfold execCqCoalesceTimer
  have h := Keeps.refl s
  try dsimp only
  repeat' (first
    | with_reducible assumption | with_reducible apply State.advanceTo_keeps | with_reducible apply State.fireCq_keeps
    | with_reducible apply KeepsOut.next | split)

theorem State.posted_keeps {s0 s : State} (d : Due) (h : Keeps s0 s) :
    Keeps s0 (State.posted s d) := by
  unfold State.posted
  try dsimp only
  repeat' (first
    | with_reducible assumption | with_reducible apply State.release_keeps | with_reducible apply State.sweep_keeps
    | with_reducible apply State.endSq_keeps | split)

theorem State.cqFails_keeps {s0 s : State} (q : Nat) (h : Keeps s0 s) :
    Keeps s0 (State.cqFails s q) := by
  unfold State.cqFails
  try dsimp only
  repeat' (first
    | with_reducible assumption | with_reducible apply State.updCq_keeps | with_reducible apply State.error_keeps
    | with_reducible apply State.posted_keeps | with_reducible refine State.setCore_keeps ?_ rfl rfl
    | with_reducible apply Keeps.foldl)

theorem State.postEntry_keeps {s0 s : State} (q : Nat) (sync : Bool) (h : Keeps s0 s) :
    Keeps s0 (State.postEntry s q sync) := by
  unfold State.postEntry
  try dsimp only
  repeat' (first
    | with_reducible assumption | with_reducible apply State.posted_keeps | with_reducible apply State.cqFails_keeps
    | with_reducible apply State.writeThrough_keeps | with_reducible apply State.updCq_keeps
    | with_reducible apply State.setObj_keeps | with_reducible apply State.countFire_keeps
    | with_reducible refine State.setCore_keeps ?_ rfl rfl | split)

theorem execCqEntryPost_keeps (q : Nat) {s : State} :
    KeepsOut s (execCqEntryPost q s) := by
  unfold execCqEntryPost
  have h := Keeps.refl s
  try dsimp only
  repeat' (first
    | with_reducible assumption | with_reducible apply State.postEntry_keeps | with_reducible apply KeepsOut.next)

theorem execSyncNotifyPost_keeps (q : Nat) {s : State} :
    KeepsOut s (execSyncNotifyPost q s) := by
  unfold execSyncNotifyPost
  have h := Keeps.refl s
  try dsimp only
  repeat' (first
    | with_reducible assumption | with_reducible apply State.postEntry_keeps | with_reducible apply KeepsOut.next)

theorem State.syncWrite_keeps {s0 s : State} {f : State → State} (g : Nat) (high : Bool) (h : Keeps s0 s)
    (hf : Keeps s0 (f s)) : Keeps s0 (s.syncWrite g high f) := by
  unfold State.syncWrite
  split
  · exact h
  · split
    · exact State.setObj_keeps _ _ h
    · exact hf

theorem execSynAddWrite_keeps (obj : Nat) (value : W64) (high : Bool) {s : State} :
    KeepsOut s (execSynAddWrite obj value high s) := by
  unfold execSynAddWrite
  have h := Keeps.refl s
  try dsimp only
  repeat' (first
    | with_reducible assumption | with_reducible apply State.syncWrite_keeps
    | with_reducible apply State.syncAdd_keeps | with_reducible apply KeepsOut.next)

theorem execSynSetWrite_keeps (obj : Nat) (value : W64) (high : Bool) {s : State} :
    KeepsOut s (execSynSetWrite obj value high s) := by
  unfold execSynSetWrite
  have h := Keeps.refl s
  try dsimp only
  repeat' (first
    | with_reducible assumption | with_reducible apply State.syncWrite_keeps
    | with_reducible apply State.syncSet_keeps | with_reducible apply KeepsOut.next)

theorem execSynNotifyAtWrite_keeps (obj : Nat) (value : W64) (high : Bool) {s : State} :
    KeepsOut s (execSynNotifyAtWrite obj value high s) := by
  unfold execSynNotifyAtWrite
  have h := Keeps.refl s
  try dsimp only
  repeat' (first
    | with_reducible assumption | with_reducible apply State.syncWrite_keeps | with_reducible apply State.setObj_keeps
    | with_reducible apply State.fireNotify_keeps | with_reducible apply KeepsOut.next)

theorem execSynArmWrite_keeps (obj : Nat) (value : W32) {s : State} :
    KeepsOut s (execSynArmWrite obj value s) := by
  unfold execSynArmWrite
  have h := Keeps.refl s
  try dsimp only
  repeat' (first
    | with_reducible assumption | with_reducible apply State.setObj_keeps
    | with_reducible apply State.fireNotify_keeps | with_reducible apply KeepsOut.next | split)

theorem State.afterSync_keeps {s0 s : State} (g : Nat) (r : Nat) (h : Keeps s0 s) :
    Keeps s0 (State.afterSync s g r) := by
  unfold State.afterSync
  try dsimp only
  repeat' (first
    | with_reducible assumption | with_reducible apply State.setObj_keeps | split)

theorem State.afterRead_keeps {s0 s : State} (o : Nat) (h : Keeps s0 s) :
    Keeps s0 (State.afterRead s o) := by
  unfold State.afterRead
  try dsimp only
  repeat' (first
    | with_reducible assumption | with_reducible apply State.afterSync_keeps
    | (simp only [keeps_mk]; with_reducible refine KeepsLit.of ?_ rfl rfl rfl rfl rfl rfl) | split)

theorem State.readUnits_keeps {s0 : State} (n : Nat) : ∀ (o : Nat) {s : State}, Keeps s0 s → Keeps s0 (s.readUnits o n).2 := by
  induction n with
  | zero => intro o s h; exact h
  | succ n ih => intro o s h; exact ih _ (State.afterRead_keeps o h)

theorem State.hostRead_keeps {s0 s : State} (o n : Nat) (h : Keeps s0 s) : Keeps s0 (s.hostRead o n).2 := by
  unfold State.hostRead
  split
  · exact h
  · exact State.readUnits_keeps _ _ h

theorem State.readReg_keeps {s0 s : State} (o : Nat) (h : Keeps s0 s) :
    Keeps s0 (State.readReg s o) := by
  unfold State.readReg
  try dsimp only
  repeat' (first
    | with_reducible assumption | with_reducible apply State.afterRead_keeps | with_reducible apply State.emit_keeps
    | split)

theorem execPaceMinRead_keeps {s : State} :
    KeepsOut s (execPaceMinRead s) := by
  unfold execPaceMinRead
  have h := Keeps.refl s
  try dsimp only
  repeat' (first
    | with_reducible assumption | with_reducible apply State.readReg_keeps | with_reducible apply KeepsOut.next)

theorem execPaceTimeLoRead_keeps {s : State} :
    KeepsOut s (execPaceTimeLoRead s) := by
  unfold execPaceTimeLoRead
  have h := Keeps.refl s
  try dsimp only
  repeat' (first
    | with_reducible assumption | with_reducible apply State.readReg_keeps | with_reducible apply KeepsOut.next)

theorem execPaceTimeStatusRead_keeps {s : State} :
    KeepsOut s (execPaceTimeStatusRead s) := by
  unfold execPaceTimeStatusRead
  have h := Keeps.refl s
  try dsimp only
  repeat' (first
    | with_reducible assumption | with_reducible apply State.readReg_keeps | with_reducible apply KeepsOut.next)

theorem execGpioTrigTimeLoRead_keeps {s : State} :
    KeepsOut s (execGpioTrigTimeLoRead s) := by
  unfold execGpioTrigTimeLoRead
  have h := Keeps.refl s
  try dsimp only
  repeat' (first
    | with_reducible assumption | with_reducible apply State.readReg_keeps | with_reducible apply KeepsOut.next)

theorem execSmbErrorsRead_keeps {s : State} :
    KeepsOut s (execSmbErrorsRead s) := by
  unfold execSmbErrorsRead
  have h := Keeps.refl s
  try dsimp only
  repeat' (first
    | with_reducible assumption | with_reducible apply State.readReg_keeps | with_reducible apply KeepsOut.next)

theorem execSynValueRead_keeps (obj : Nat × Bool) {s : State} :
    KeepsOut s (execSynValueRead obj s) := by
  unfold execSynValueRead
  have h := Keeps.refl s
  try dsimp only
  repeat' (first
    | with_reducible assumption | with_reducible apply State.poisonObj_keeps
    | with_reducible apply State.readReg_keeps | with_reducible apply KeepsOut.next | split)

theorem execSynStatusRead_keeps (obj : Nat) {s : State} :
    KeepsOut s (execSynStatusRead obj s) := by
  unfold execSynStatusRead
  have h := Keeps.refl s
  try dsimp only
  repeat' (first
    | with_reducible assumption | with_reducible apply State.readReg_keeps | with_reducible apply KeepsOut.next)

end Sys2Proof.Machine
end

