-- ==== Sys2Proof/Laws/KeepsThread.lean ====
section
/-! SUPPORT. Every definition of commands, graphs and threads keeps the fused identity, the waiting commands and
canonical memories ("Keeps", Sys2Proof/Safety.lean). -/
namespace Sys2Proof.Machine
open Sys2Proof

theorem State.spendTurn_keeps {s0 s : State} (v : Nat) (h : Keeps s0 s) :
    Keeps s0 (State.spendTurn s v) := by
  unfold State.spendTurn
  try dsimp only
  repeat' (first
    | with_reducible assumption | with_reducible refine State.setCore_keeps ?_ rfl rfl)

theorem State.markVersion_keeps {s0 s : State} (r : Request) (h : Keeps s0 s) :
    Keeps s0 (State.markVersion s r) := by
  unfold State.markVersion
  try dsimp only
  repeat' (first
    | with_reducible assumption | with_reducible apply State.setGraph_keeps
    | with_reducible apply State.writeVer_keeps | split)

theorem State.refuseCommand_keeps {s0 s : State} (i : Nat) (r : Request) (code : Nat) (d : Nat) (h : Keeps s0 s) :
    Keeps s0 (State.refuseCommand s i r code d) := by
  unfold State.refuseCommand
  try dsimp only
  repeat' (first
    | with_reducible assumption | with_reducible apply State.recordBarred_keeps
    | with_reducible apply State.markVersion_keeps | with_reducible apply State.finishWith_keeps | split)

theorem State.passTurn_keeps {s0 s : State} (v : Nat) (n : Nat) (weight : Nat) (h : Keeps s0 s) :
    Keeps s0 (State.passTurn s v n weight) := by
  unfold State.passTurn
  try dsimp only
  repeat' (first
    | with_reducible assumption | with_reducible apply State.spendTurn_keeps
    | with_reducible apply State.updValley_keeps)

theorem State.take_keeps {s0 s : State} (n : Nat) (q : Sq) (h : Keeps s0 s) :
    Keeps s0 (State.take s n q) := by
  unfold State.take
  try dsimp only
  repeat' (first
    | with_reducible assumption | with_reducible apply State.updSq_keeps | with_reducible apply State.updCq_keeps
    | with_reducible apply State.passTurn_keeps)

theorem State.takeCommand_keeps {s0 s : State} (k : CmdKind) (n : Nat) (q : Sq) (h : Keeps s0 s) :
    Keeps s0 (s.takeCommand k n q).2.2 := by
  have g := State.count_keeps (n / 512) 1 (State.updValley_keeps (n / 512)
    (fun x => { x with admitted := x.admitted + 1 }) (State.fresh_keeps (State.take_keeps n q h)))
  unfold State.takeCommand
  dsimp only
  generalize (State.count _ _ _) = t at g ⊢
  split
  · exact State.updSq_keeps _ _ (State.setCore_keeps g rfl rfl)
  · exact State.setCore_keeps g rfl rfl

theorem State.start_keeps {s0 : State} {k : CmdKind} (q : Sq) (c : Cmd) (x : Nat × Request × State)
    (hk : ∀ i r hs {a b : State}, Keeps a b → Keeps a (k.run i r hs b)) (h : Keeps s0 x.2.2) :
    Keeps s0 (State.start k q c x) := by
  unfold State.start
  split
  · exact State.refuseCommand_keeps _ _ _ _ h
  · exact hk _ _ _ h

theorem State.admitHead_keeps {s0 s : State} {k : CmdKind} (picks : Cmd → Bool) (n : Nat)
    (hk : ∀ i r hs {a b : State}, Keeps a b → Keeps a (k.run i r hs b)) (h : Keeps s0 s) : Keeps s0 (s.admitHead k picks n) := by
  unfold State.admitHead
  dsimp only
  split
  · exact h
  · rename_i q _
    split
    · exact h
    · split
      · exact State.updSq_keeps _ _ h
      · split
        · exact h
        · split
          · exact State.queueError_keeps _ _ _ _ _ _ (State.updSq_keeps _ _ h)
          · split
            · exact h
            · split
              · exact State.start_keeps _ _ _ hk (State.takeCommand_keeps k n q h)
              · exact State.spendTurn_keeps _ (Keeps.foldl _ h fun _ _ g => State.recall_keeps _ _ _ g)

theorem State.admitOp_keeps {s : State} {k : CmdKind} (n : Nat)
    (hk : ∀ i r hs {a b : State}, Keeps a b → Keeps a (k.run i r hs b)) : KeepsOut s (s.admitOp k n) :=
  .next (State.admitHead_keeps _ n hk (.refl s))

theorem State.launch_keeps {s0 s : State} (i : Nat) (r : Request) (q : Nat) (hs : List Bytes) (h : Keeps s0 s) :
    Keeps s0 (State.launch i r q hs s) := by
  unfold State.launch
  try dsimp only
  repeat' (first
    | with_reducible assumption | with_reducible apply State.scratchWrite_keeps
    | with_reducible apply State.updReq_keeps | with_reducible apply State.fill_keeps
    | with_reducible apply State.settle_keeps | with_reducible apply Keeps.foldl | intro _ | split)

theorem launchKind_keeps (n : Nat) (i : Nat) (r : Request) (hs : List Bytes) {s0 s : State} (h : Keeps s0 s) :
    Keeps s0 ((launchKind n).run i r hs s) := by
  unfold launchKind
  try dsimp only
  repeat' (first
    | with_reducible assumption | with_reducible apply State.launch_keeps)

theorem execLaunch_keeps (sq : Nat) {s : State} : KeepsOut s (execLaunch sq s) :=
  State.admitOp_keeps sq fun i r hs _ _ h => launchKind_keeps _ i r hs h

theorem boundaryKind_keeps  (i : Nat) (r : Request) (hs : List Bytes) {s0 s : State} (h : Keeps s0 s) :
    Keeps s0 ((boundaryKind).run i r hs s) := by
  unfold boundaryKind
  try dsimp only
  repeat' (first
    | with_reducible assumption | with_reducible apply State.boundary_keeps
    | with_reducible apply State.finishWith_keeps)

theorem execBoundary_keeps (sq : Nat) {s : State} : KeepsOut s (execBoundary sq s) :=
  State.admitOp_keeps sq fun i r hs _ _ h => boundaryKind_keeps i r hs h

theorem signalKind_keeps (set : Bool) (i : Nat) (r : Request) (hs : List Bytes) {s0 s : State} (h : Keeps s0 s) :
    Keeps s0 ((signalKind set).run i r hs s) := by
  unfold signalKind
  try dsimp only
  repeat' (first
    | with_reducible assumption | with_reducible apply State.finishWith_keeps
    | with_reducible apply State.syncSet_keeps | with_reducible apply State.syncAdd_keeps | split)

theorem execSignal_keeps (sq : Nat) {s : State} : KeepsOut s (execSignal sq s) :=
  State.admitOp_keeps sq fun i r hs _ _ h => signalKind_keeps _ i r hs h

theorem nopKind_keeps  (i : Nat) (r : Request) (hs : List Bytes) {s0 s : State} (h : Keeps s0 s) :
    Keeps s0 ((nopKind).run i r hs s) := by
  unfold nopKind
  try dsimp only
  repeat' (first
    | with_reducible assumption | with_reducible apply State.finishWith_keeps)

theorem execNop_keeps (sq : Nat) {s : State} : KeepsOut s (execNop sq s) :=
  State.admitOp_keeps sq fun i r hs _ _ h => nopKind_keeps i r hs h

theorem invalidKind_keeps  (i : Nat) (r : Request) (hs : List Bytes) {s0 s : State} (h : Keeps s0 s) :
    Keeps s0 ((invalidKind).run i r hs s) := by
  unfold invalidKind
  try dsimp only
  repeat' (first
    | with_reducible assumption | with_reducible apply State.finishWith_keeps)

theorem execInvalidCommand_keeps (sq : Nat) {s : State} :
    KeepsOut s (execInvalidCommand sq s) := by
  unfold execInvalidCommand
  have h := Keeps.refl s
  try dsimp only
  repeat' (first
    | with_reducible assumption | with_reducible apply State.admitHead_keeps | with_reducible apply invalidKind_keeps
    | with_reducible apply KeepsOut.next)

theorem State.storeGraph_keeps {s0 s : State} (ck : Nat) (g : Nat) (p : Bytes) (img : Bytes) (h : Keeps s0 s) :
    Keeps s0 (State.storeGraph s ck g p img) := by
  unfold State.storeGraph
  try dsimp only
  repeat' (first
    | with_reducible assumption | with_reducible apply State.writeThrough_keeps
    | with_reducible apply State.setGraph_keeps | with_reducible apply State.writeVer_keeps
    | with_reducible apply Keeps.foldl | intro _)

theorem graphStore_keeps {s0 s : State} (r : Req) (h : Keeps s0 s) :
    KeepsRes s0 (graphStore.run r s) := by
  unfold graphStore
  try dsimp only
  repeat' (first
    | with_reducible assumption | with_reducible apply State.storeGraph_keeps | with_reducible apply State.arm_keeps
    | with_reducible apply State.boundaryIfStopped_keeps | with_reducible apply KeepsRes.fail
    | with_reducible apply KeepsRes.field | (simp only [keepsRes_mk]; with_reducible refine ⟨?_, ?_⟩) | intro _
    | split)

theorem execGraphStore_keeps (via : Via) {s : State} : KeepsOut s (execGraphStore via s) := serve_keeps graphStore_keeps

theorem State.copyUnit_keeps {s0 s : State} (a : Nat) (u : Nat) (h : Keeps s0 s) :
    Keeps s0 (State.copyUnit s a u) := by
  unfold State.copyUnit
  try dsimp only
  repeat' (first
    | with_reducible assumption | with_reducible apply State.poison_keeps
    | with_reducible apply State.writeThrough_keeps | with_reducible apply Keeps.foldl | intro _)

theorem ownBlock_keeps {s0 s : State} (x : Graph) (b : Nat) (h : Keeps s0 s) :
    ∀ p, ownBlock s x b = some p → Keeps s0 p.1 := by
  intro p e
  unfold ownBlock at e
  dsimp only at e
  split at e
  · contradiction
  · split at e
    · split at e
      · contradiction
      · injection e with e; subst e; exact State.copyUnit_keeps _ _ h
    · injection e with e; subst e; exact h

theorem patchBlocks_keeps {s0 s : State} (off : Nat) (d : Bytes) (x : Graph) (h : Keeps s0 s) :
    ∀ p, patchBlocks off d s x = some p → Keeps s0 p.1 := by
  unfold patchBlocks
  have g : ∀ p, some (s, x) = some p → Keeps s0 p.1 := fun p e => by injection e with e; subst e; exact h
  revert g
  generalize some (s, x) = acc
  generalize List.range _ = l
  induction l generalizing acc with
  | nil => intro g; exact g
  | cons i l ih =>
    intro g
    refine ih _ fun p e => ?_
    cases acc with
    | none => contradiction
    | some q =>
      simp only [Option.bind_some] at e
      obtain ⟨w, hw, rfl⟩ := Option.map_eq_some_iff.1 e
      exact State.writeThrough_keeps _ _ (ownBlock_keeps _ _ (g q rfl) w hw)

theorem State.patched_keeps {s0 s : State} (r : Req) (x : Graph) (st : Nat) (h : Keeps s0 s) :
    Keeps s0 (State.patched s r x st) := by
  unfold State.patched
  try dsimp only
  repeat' (first
    | with_reducible assumption | with_reducible apply State.setGraph_keeps
    | with_reducible apply State.writeVer_keeps | split)

theorem graphPatch_keeps {run : Req → State → Res} (r : Req) {s0 s : State}
    (hr : ∀ {a b : State} (r : Req), Keeps a b → KeepsRes a (run r b)) (h : Keeps s0 s) :
    KeepsRes s0 ((graphPatch run).run r s) := hr r h

theorem patchStructural_keeps {s0 : State} (r : Req) {s : State} (h : Keeps s0 s) :
    KeepsRes s0 (patchStructural r s) := by
  unfold patchStructural
  split
  · exact .fail h
  · split
    · exact .field h
    · split
      · exact .fail h
      · rename_i e
        obtain ⟨w, _, hw⟩ := Option.bind_eq_some_iff.1 e
        exact .okay (State.patched_keeps _ _ _ (patchBlocks_keeps _ _ _ h _ hw))

theorem execGraphPatchStructural_keeps (via : Via) {s : State} :
    KeepsOut s (execGraphPatchStructural via s) := serveIf_keeps (.refl _) fun r h => patchStructural_keeps r h

theorem patchIndirect_keeps {s0 s : State} (r : Req) (h : Keeps s0 s) :
    KeepsRes s0 (patchIndirect r s) := by
  unfold patchIndirect
  try dsimp only
  repeat' (first
    | with_reducible assumption | with_reducible apply State.writeThrough_keeps | with_reducible apply KeepsRes.fail
    | with_reducible apply KeepsRes.okay | with_reducible apply KeepsRes.field | split)

theorem execGraphPatchIndirect_keeps (via : Via) {s : State} :
    KeepsOut s (execGraphPatchIndirect via s) := serveIf_keeps (.refl _) fun r h => patchIndirect_keeps r h

theorem patchEntry_keeps {s0 s : State} (r : Req) (h : Keeps s0 s) :
    KeepsRes s0 (patchEntry r s) := by
  unfold patchEntry
  try dsimp only
  repeat' (first
    | with_reducible assumption | with_reducible apply State.patched_keeps | with_reducible apply KeepsRes.fail
    | with_reducible apply KeepsRes.okay | with_reducible apply KeepsRes.field | split)

theorem execGraphPatchSetEntry_keeps (via : Via) {s : State} :
    KeepsOut s (execGraphPatchSetEntry via s) := serveIf_keeps (.refl _) fun r h => patchEntry_keeps r h

theorem patchActivate_keeps {s0 s : State} (r : Req) (h : Keeps s0 s) :
    KeepsRes s0 (patchActivate r s) := by
  unfold patchActivate
  try dsimp only
  repeat' (first
    | with_reducible assumption | with_reducible apply State.patched_keeps | with_reducible apply State.arm_keeps
    | with_reducible apply State.boundaryIfStopped_keeps | with_reducible apply KeepsRes.fail
    | (simp only [keepsRes_mk]; with_reducible refine ⟨?_, ?_⟩) | intro _ | split)

theorem execGraphPatchActivate_keeps (via : Via) {s : State} :
    KeepsOut s (execGraphPatchActivate via s) := serveIf_keeps (.refl _) fun r h => patchActivate_keeps r h

theorem patchDiscard_keeps {s0 s : State} (r : Req) (h : Keeps s0 s) :
    KeepsRes s0 (patchDiscard r s) := by
  unfold patchDiscard
  try dsimp only
  repeat' (first
    | with_reducible assumption | with_reducible apply State.done_keeps | with_reducible apply State.setGraph_keeps
    | with_reducible apply State.updValley_keeps | with_reducible apply KeepsRes.fail
    | (simp only [keepsRes_mk]; with_reducible refine ⟨?_, ?_⟩) | with_reducible apply Keeps.foldl | intro _ | split)

theorem execGraphPatchDiscard_keeps (via : Via) {s : State} :
    KeepsOut s (execGraphPatchDiscard via s) := serveIf_keeps (.refl _) fun r h => patchDiscard_keeps r h

theorem graphRetire_keeps {s0 s : State} (r : Req) (h : Keeps s0 s) :
    KeepsRes s0 (graphRetire.run r s) := by
  unfold graphRetire
  try dsimp only
  repeat' (first
    | with_reducible assumption | with_reducible apply State.setGraph_keeps | with_reducible apply State.arm_keeps
    | with_reducible apply State.boundaryIfStopped_keeps | with_reducible apply KeepsRes.fail
    | with_reducible apply KeepsRes.okay | (simp only [keepsRes_mk]; with_reducible refine ⟨?_, ?_⟩) | intro _ | split)

theorem execGraphRetire_keeps (via : Via) {s : State} : KeepsOut s (execGraphRetire via s) := serve_keeps graphRetire_keeps

theorem State.readRemote_keeps {s0 s : State} (use : RemoteUse) (req : Nat) (glen : Nat) (valley : Nat) (a : Nat) (n : Nat) (h : Keeps s0 s) :
    Keeps s0 (State.readRemote s use req glen valley a n) := by
  unfold State.readRemote
  try dsimp only
  repeat' (first
    | with_reducible assumption | with_reducible apply State.askRemote_keeps | with_reducible apply Keeps.foldl
    | intro _)

theorem State.thread_keeps {s : State} (t next : Nat) {f : Thread → Request → Context → State → State}
    (hf : ∀ x r c {a b : State}, Keeps a b → Keeps a (f x r c b)) : KeepsOut s (s.thread t next f) := by
  unfold State.thread
  refine .next ?_
  have g := fun x : Thread => State.setCore_keeps (c := { s.core with opTurn := put s.core.opTurn x.glen t }) (.refl s) rfl rfl
  split
  · exact .refl s
  · split
    · exact .refl s
    · split
      · exact .refl s
      · split
        · exact .refl s
        · dsimp only
          split
          · exact State.fail_keeps _ _ _ (State.recordBarred_keeps _ _ _ (g _))
          · exact hf _ _ _ (State.updThread_keeps _ _ (g _))

theorem State.glenFault_keeps {s0 s : State} (g : Nat) (r : Request) (event : Nat) (sub : Nat) (scope : Nat) (h : Keeps s0 s) :
    Keeps s0 (State.glenFault s g r event sub scope) := by
  unfold State.glenFault
  try dsimp only
  repeat' (first
    | with_reducible assumption | with_reducible apply State.error_keeps)

theorem State.glenErr_keeps {s0 s : State} (g : Nat) (r : Request) (e : GlenErr) (h : Keeps s0 s) : Keeps s0 (s.glenErr g r e) := by
  cases e with
  | ownership u => exact Keeps.foldl _ h fun _ _ g => State.ctxFault_keeps _ _ _ _ g
  | laneLost a => exact State.glenFault_keeps _ _ _ _ _ (State.setCore_keeps h rfl rfl)
  | scratchLost a => exact State.glenFault_keeps _ _ _ _ _ (State.setCore_keeps h rfl rfl)
  | laneFixed a => exact State.glenFault_keeps _ _ _ _ _ h
  | scratchFixed a => exact State.glenFault_keeps _ _ _ _ _ h
  | parity => exact State.glenFault_keeps _ _ _ _ _ h

theorem State.glenErrs_keeps {s0 s : State} (g : Nat) (r : Request) (l : List GlenErr) (h : Keeps s0 s) :
    Keeps s0 (State.glenErrs s g r l) := by
  unfold State.glenErrs
  try dsimp only
  repeat' (first
    | with_reducible assumption | with_reducible apply State.glenErr_keeps | with_reducible apply Keeps.foldl
    | intro _)

theorem execThreadLoadScratch_keeps (t : Nat) (off : Nat × List GlenErr) (size dst next : Nat) {s : State} :
    KeepsOut s (execThreadLoadScratch t off size dst next s) := by
  unfold execThreadLoadScratch
  have h := Keeps.refl s
  try dsimp only
  repeat' (first
    | with_reducible assumption | with_reducible apply State.thread_keeps | with_reducible apply State.fail_keeps
    | with_reducible apply State.glenErrs_keeps | with_reducible apply State.updThread_keeps | intro _ | split)

theorem execThreadStoreScratch_keeps (t : Nat) (off : Nat) (size : Nat) (src : Nat) (next : Nat) {s : State} :
    KeepsOut s (execThreadStoreScratch t off size src next s) := by
  unfold execThreadStoreScratch
  have h := Keeps.refl s
  try dsimp only
  repeat' (first
    | with_reducible assumption | with_reducible apply State.thread_keeps | with_reducible apply State.fail_keeps
    | with_reducible apply State.scratchWrite_keeps | intro _ | split)

theorem State.bar_keeps {s0 s : State} (i : Nat) (r : Request) (a : Nat) (e : Nat × Nat) (h : Keeps s0 s) :
    Keeps s0 (State.bar s i r a e) := by
  unfold State.bar
  try dsimp only
  repeat' (first
    | with_reducible assumption | with_reducible apply State.recordBarred_keeps
    | with_reducible apply State.fail_keeps)

theorem execThreadLoadGlobal_keeps (t : Nat) (addr : Nat) (size : Nat) (dst : Nat) (next : Nat) {s : State} :
    KeepsOut s (execThreadLoadGlobal t addr size dst next s) := by
  unfold execThreadLoadGlobal
  have h := Keeps.refl s
  try dsimp only
  repeat' (first
    | with_reducible assumption | with_reducible apply State.thread_keeps | with_reducible apply State.fail_keeps
    | with_reducible apply State.bar_keeps | with_reducible apply State.updThread_keeps
    | with_reducible apply State.readRemote_keeps | intro _ | split)

theorem execGlobalLoadDataReturn_keeps (t : Nat × List Ecc) {s : State} :
    KeepsOut s (execGlobalLoadDataReturn t s) := by
  unfold execGlobalLoadDataReturn
  have h := Keeps.refl s
  try dsimp only
  repeat' (first
    | with_reducible assumption | with_reducible apply State.recall_keeps | with_reducible apply State.eccAll_keeps
    | with_reducible apply State.bar_keeps | with_reducible apply State.fetch_keeps
    | with_reducible apply State.updThread_keeps | with_reducible apply KeepsOut.next | split)

theorem execThreadStoreGlobal_keeps (t : Nat) (addr : Nat) (size : Nat) (src : Nat) (next : Nat) {s : State} :
    KeepsOut s (execThreadStoreGlobal t addr size src next s) := by
  unfold execThreadStoreGlobal
  have h := Keeps.refl s
  try dsimp only
  repeat' (first
    | with_reducible assumption | with_reducible apply State.thread_keeps | with_reducible apply State.fail_keeps
    | with_reducible apply State.bar_keeps | with_reducible apply State.updReq_keeps
    | with_reducible apply State.askRemote_keeps | with_reducible apply State.writeFor_keeps
    | with_reducible apply KeepsOut.next | intro _ | split)

theorem execThreadArithmetic_keeps (t dst : Nat) (value : Nat × Option ThreadErr) (next : Nat) {s : State} :
    KeepsOut s (execThreadArithmetic t dst value next s) := by
  unfold execThreadArithmetic
  have h := Keeps.refl s
  try dsimp only
  repeat' (first
    | with_reducible assumption | with_reducible apply State.thread_keeps | with_reducible apply State.updThread_keeps
    | with_reducible apply State.fail_keeps | with_reducible apply State.glenFault_keeps | intro _ | split)

theorem State.issue_keeps {s0 s : State} (x : Thread) (r : Request) (desc : Bytes) (h : Keeps s0 s) :
    KeepsOpt s0 (s.issue x r desc) := by
  unfold State.issue
  dsimp only
  split
  · split
    · exact .some (State.fail_keeps _ _ _ h)
    · split
      · exact .none _
      · exact .some (State.setCore_keeps (State.fresh_keeps h) rfl rfl)
  · split
    · split
      · exact .none _
      · exact .some (State.setCore_keeps (State.fresh_keeps h) rfl rfl)
    · exact .some (State.fail_keeps _ _ _ h)

theorem execThreadIssue_keeps (t : Nat) (desc : Bytes) (next : Nat) {s : State} :
    KeepsOut s (execThreadIssue t desc next s) := by
  unfold execThreadIssue
  have h := Keeps.refl s
  try dsimp only
  repeat' (first
    | with_reducible assumption | with_reducible apply State.thread_keeps | with_reducible apply State.issue_keeps
    | with_reducible apply State.updThread_keeps | with_reducible refine Keeps.ofOpt (by with_reducible assumption) ?_
    | intro _ | split)

theorem execIssueQueueSpace_keeps (t : Nat) {s : State} :
    KeepsOut s (execIssueQueueSpace t s) := by
  unfold execIssueQueueSpace
  have h := Keeps.refl s
  try dsimp only
  repeat' (first
    | with_reducible assumption | with_reducible apply State.issue_keeps | with_reducible apply State.updThread_keeps
    | with_reducible apply KeepsOut.next | with_reducible refine Keeps.ofOpt (by with_reducible assumption) ?_ | split)

theorem State.syncOp_keeps {s : State} (t next : Nat) (ref : W64) {f : Nat → Thread → Request → State → State}
    (hf : ∀ g x r {a b : State}, Keeps a b → Keeps a (f g x r b)) : KeepsOut s (s.syncOp t next ref f) := by
  unfold State.syncOp
  refine State.thread_keeps _ _ fun x r _ {a b} h => ?_
  dsimp only
  split
  · exact State.fail_keeps _ _ _ h
  · split
    · exact State.fail_keeps _ _ _ h
    · exact hf _ _ _ h

theorem execSyncRead_keeps (t : Nat) (ref : W64 × Bool) (dst next : Nat) {s : State} :
    KeepsOut s (execSyncRead t ref dst next s) := by
  unfold execSyncRead
  have h := Keeps.refl s
  try dsimp only
  repeat' (first
    | with_reducible assumption | with_reducible apply State.syncOp_keeps | with_reducible apply State.poisonObj_keeps
    | with_reducible apply State.setStatus_keeps | with_reducible apply State.updThread_keeps | intro _ | split)

theorem execSyncAdd_keeps (t : Nat) (ref : W64) (n : W64) (next : Nat) {s : State} :
    KeepsOut s (execSyncAdd t ref n next s) := by
  unfold execSyncAdd
  have h := Keeps.refl s
  try dsimp only
  repeat' (first
    | with_reducible assumption | with_reducible apply State.thread_keeps | with_reducible apply State.fail_keeps
    | with_reducible apply State.trySignal_keeps | with_reducible apply State.syncOp_keeps
    | with_reducible apply State.tryRelease_keeps | intro _ | split)

theorem execSyncSet_keeps (t : Nat) (ref : W64) (value : W64) (next : Nat) {s : State} :
    KeepsOut s (execSyncSet t ref value next s) := by
  unfold execSyncSet
  have h := Keeps.refl s
  try dsimp only
  repeat' (first
    | with_reducible apply State.syncOp_keeps | with_reducible apply State.tryRelease_keeps | intro _)

theorem State.waitOn_keeps {s0 s : State} (t : Nat) (g : Nat) (us : Nat) (x : Thread) (w : Nat → Wait) (h : Keeps s0 s) :
    Keeps s0 (State.waitOn s t g us x w) := by
  unfold State.waitOn
  try dsimp only
  repeat' (first
    | with_reducible assumption | with_reducible apply State.fail_keeps | with_reducible apply State.setStatus_keeps
    | with_reducible apply State.updThread_keeps | with_reducible apply State.beginWait_keeps | split)

theorem execSyncWaitGe_keeps (t : Nat) (ref : W64) (target : W64) (us : Nat) (dst : Nat) (next : Nat) {s : State} :
    KeepsOut s (execSyncWaitGe t ref target us dst next s) := by
  unfold execSyncWaitGe
  have h := Keeps.refl s
  try dsimp only
  repeat' (first
    | with_reducible apply State.syncOp_keeps | with_reducible apply State.waitOn_keeps | intro _)

theorem execSyncAcquire_keeps (t : Nat) (ref : W64) (n : Nat) (us : Nat) (dst : Nat) (next : Nat) {s : State} :
    KeepsOut s (execSyncAcquire t ref n us dst next s) := by
  unfold execSyncAcquire
  have h := Keeps.refl s
  try dsimp only
  repeat' (first
    | with_reducible assumption | with_reducible apply State.syncOp_keeps | with_reducible apply State.fail_keeps
    | with_reducible apply State.waitOn_keeps | intro _ | split)

theorem State.timeoutThread_keeps {s0 s : State} (t : Nat) (x : Thread) (h : Keeps s0 s) :
    Keeps s0 (State.timeoutThread s t x) := by
  unfold State.timeoutThread
  try dsimp only
  repeat' (first
    | with_reducible assumption | with_reducible apply State.advanceTo_keeps | with_reducible apply State.wake_keeps
    | with_reducible apply State.resume_keeps | with_reducible apply State.leaveLines_keeps
    | with_reducible apply State.serveLine_keeps | split)

theorem State.timeoutTask_keeps {s0 s : State} (k : Nat) (x : Task) (h : Keeps s0 s) :
    Keeps s0 (State.timeoutTask s k x) := by
  unfold State.timeoutTask
  try dsimp only
  repeat' (first
    | with_reducible assumption | with_reducible apply State.advanceTo_keeps | with_reducible apply State.resume_keeps
    | with_reducible refine State.setCore_keeps ?_ rfl rfl)

theorem State.entryLost_keeps {s0 s : State} (g : Nat) (i : Nat) (h : Keeps s0 s) :
    Keeps s0 (State.entryLost s g i) := by
  unfold State.entryLost
  try dsimp only
  repeat' (first
    | with_reducible assumption | with_reducible apply State.glenFault_keeps | with_reducible apply State.fail_keeps
    | split)

theorem execSyncWaitTimeout_keeps (waiter : Nat × Bool) {s : State} :
    KeepsOut s (execSyncWaitTimeout waiter s) := by
  unfold execSyncWaitTimeout
  have h := Keeps.refl s
  try dsimp only
  repeat' (first
    | with_reducible assumption | with_reducible apply State.entryLost_keeps
    | with_reducible apply State.timeoutThread_keeps | with_reducible apply State.timeoutTask_keeps
    | with_reducible apply KeepsOut.next | split)

theorem execThreadEnqueue_keeps (t : Nat) (record : Bytes) (next : Nat) {s : State} :
    KeepsOut s (execThreadEnqueue t record next s) := by
  unfold execThreadEnqueue
  have h := Keeps.refl s
  try dsimp only
  repeat' (first
    | with_reducible assumption | with_reducible apply State.thread_keeps | with_reducible apply State.fail_keeps
    | with_reducible apply State.setStatus_keeps | with_reducible apply State.fresh_keeps
    | with_reducible apply State.fill_keeps | with_reducible refine State.setCore_keeps ?_ rfl rfl | intro _ | split)

theorem execFenceLocal_keeps (t : Nat) (next : Nat) {s : State} :
    KeepsOut s (execFenceLocal t next s) := by
  unfold execFenceLocal
  have h := Keeps.refl s
  try dsimp only
  repeat' (first
    | with_reducible apply State.thread_keeps | with_reducible apply State.updThread_keeps | intro _)

theorem execFenceGlobal_keeps (t : Nat) (next : Nat) {s : State} :
    KeepsOut s (execFenceGlobal t next s) := by
  unfold execFenceGlobal
  have h := Keeps.refl s
  try dsimp only
  repeat' (first
    | with_reducible apply State.thread_keeps | with_reducible apply State.updThread_keeps | intro _)

theorem execFenceComplete_keeps (t : Nat) {s : State} :
    KeepsOut s (execFenceComplete t s) := by
  unfold execFenceComplete
  have h := Keeps.refl s
  try dsimp only
  repeat' (first
    | with_reducible assumption | with_reducible apply State.updThread_keeps | with_reducible apply KeepsOut.next
    | split)

theorem execThreadExit_keeps (t : Nat) {s : State} :
    KeepsOut s (execThreadExit t s) := by
  unfold execThreadExit
  have h := Keeps.refl s
  try dsimp only
  repeat' (first
    | with_reducible assumption | with_reducible apply State.thread_keeps | with_reducible apply State.settle_keeps
    | with_reducible refine State.setCore_keeps ?_ rfl rfl | intro _)

theorem State.signalRequest_keeps {s0 s : State} (src : Nat) (tag : Nat) (msg : Bytes) (h : Keeps s0 s) :
    Keeps s0 (State.signalRequest s src tag msg) := by
  unfold State.signalRequest
  try dsimp only
  repeat' (first
    | with_reducible assumption | with_reducible apply State.send_keeps | with_reducible apply State.sendError_keeps
    | with_reducible apply State.setObj_keeps | with_reducible apply State.syncAdd_keeps | split)

theorem execRemoteSignalReceive_keeps (src : Nat) (tag : Nat) (msg : Bytes) {s : State} :
    KeepsOut s (execRemoteSignalReceive src tag msg s) := by
  unfold execRemoteSignalReceive
  have h := Keeps.refl s
  try dsimp only
  repeat' (first
    | with_reducible assumption | with_reducible apply State.signalRequest_keeps | with_reducible apply KeepsOut.next)

theorem State.dropRemote_keeps {s0 s : State} (i : Nat) (h : Keeps s0 s) :
    Keeps s0 (State.dropRemote s i) := by
  unfold State.dropRemote
  try dsimp only
  repeat' (first
    | with_reducible assumption | with_reducible refine State.setCore_keeps ?_ rfl rfl)

theorem State.signalAnswer_keeps {s0 s : State} (node : Nat) (tag : Nat) (status : Nat) (h : Keeps s0 s) :
    Keeps s0 (State.signalAnswer s node tag status) := by
  unfold State.signalAnswer
  try dsimp only
  repeat' (first
    | with_reducible assumption | with_reducible apply State.dropRemote_keeps
    | with_reducible apply State.settle_keeps | with_reducible apply State.fail_keeps | split)

theorem execRemoteSignalAnswer_keeps (node : Nat) (tag : Nat) (status : Nat) {s : State} :
    KeepsOut s (execRemoteSignalAnswer node tag status s) := by
  unfold execRemoteSignalAnswer
  have h := Keeps.refl s
  try dsimp only
  repeat' (first
    | with_reducible assumption | with_reducible apply State.signalAnswer_keeps | with_reducible apply KeepsOut.next)

theorem execRemoteSignalTimeout_keeps (tag : Nat) {s : State} :
    KeepsOut s (execRemoteSignalTimeout tag s) := by
  unfold execRemoteSignalTimeout
  have h := Keeps.refl s
  try dsimp only
  repeat' (first
    | with_reducible assumption | with_reducible apply State.advanceTo_keeps
    | with_reducible apply State.dropRemote_keeps | with_reducible apply State.fail_keeps
    | with_reducible apply KeepsOut.next | split)

end Sys2Proof.Machine
end

