-- ==== Sys2Proof/Laws/KeepsLookup.lean ====
section
/-! SUPPORT. Every definition of tables, Creeks, Plain chains and contexts keeps the fused identity, the waiting commands and
canonical memories ("Keeps", Sys2Proof/Safety.lean). -/
namespace Sys2Proof.Machine
open Sys2Proof

theorem tblSetCreate_keeps {s0 s : State} (r : Req) (h : Keeps s0 s) :
    KeepsRes s0 (tblSetCreate.run r s) := by
  unfold tblSetCreate
  try dsimp only
  repeat' (first
    | with_reducible assumption | with_reducible refine State.setCore_keeps ?_ rfl rfl
    | with_reducible apply KeepsRes.fail | with_reducible apply KeepsRes.okay | split)

theorem execTblSetCreate_keeps (via : Via) {s : State} : KeepsOut s (execTblSetCreate via s) := serve_keeps tblSetCreate_keeps

theorem tblSetDestroy_keeps {s0 s : State} (r : Req) (h : Keeps s0 s) :
    KeepsRes s0 (tblSetDestroy.run r s) := by
  unfold tblSetDestroy
  try dsimp only
  repeat' (first
    | with_reducible assumption | with_reducible apply State.updSet_keeps | with_reducible apply State.arm_keeps
    | with_reducible apply State.boundaryIfStopped_keeps | with_reducible apply KeepsRes.fail
    | with_reducible apply KeepsRes.okay | (simp only [keepsRes_mk]; with_reducible refine ⟨?_, ?_⟩) | intro _ | split)

theorem execTblSetDestroy_keeps (via : Via) {s : State} : KeepsOut s (execTblSetDestroy via s) := serve_keeps tblSetDestroy_keeps

theorem State.zeroFill_keeps {s0 s : State} (a n : Nat) (h : Keeps s0 s) : Keeps s0 (s.zeroFill a n) := by
  unfold State.zeroFill
  dsimp only
  refine State.clearPoison_keeps _ _ ?_
  rw [keeps_mk]
  refine .wide h (fun w => zeroN_wf _ _ _ w.mem) State.Canonical.ram State.Canonical.scratch State.Canonical.lanes
    State.Canonical.pool fun w y hy => ?_
  obtain ⟨x, hx, rfl⟩ := List.mem_map.1 hy
  split
  · exact zeroN_wf _ _ _ (w.lines x hx)
  · exact w.lines x hx

theorem State.adopt_keeps {s0 s : State} (epoch : Nat) (t : Table) (h : Keeps s0 s) :
    Keeps s0 (State.adopt s epoch t) := by
  unfold State.adopt
  try dsimp only
  repeat' (first
    | with_reducible assumption | with_reducible apply State.setMapEntry_keeps | with_reducible apply Keeps.foldl
    | intro _)

theorem tblCreate_keeps {s0 s : State} (r : Req) (h : Keeps s0 s) :
    KeepsRes s0 (tblCreate.run r s) := by
  unfold tblCreate
  try dsimp only
  repeat' (first
    | with_reducible assumption | with_reducible apply Res.work_keeps | with_reducible apply State.arm_keeps
    | with_reducible apply State.boundaryIfStopped_keeps | with_reducible apply State.adopt_keeps
    | with_reducible apply State.zeroFill_keeps | with_reducible refine State.setCore_keeps ?_ rfl rfl
    | with_reducible apply KeepsRes.fail | (simp only [keepsRes_mk]; with_reducible refine ⟨?_, ?_⟩) | intro _ | split)

theorem execTblCreate_keeps (via : Via) {s : State} : KeepsOut s (execTblCreate via s) := serve_keeps tblCreate_keeps

theorem tblDestroy_keeps {s0 s : State} (r : Req) (h : Keeps s0 s) :
    KeepsRes s0 (tblDestroy.run r s) := by
  unfold tblDestroy
  try dsimp only
  repeat' (first
    | with_reducible assumption | with_reducible apply State.updTable_keeps | with_reducible apply State.arm_keeps
    | with_reducible apply State.boundaryIfStopped_keeps | with_reducible apply KeepsRes.fail
    | with_reducible apply KeepsRes.okay | (simp only [keepsRes_mk]; with_reducible refine ⟨?_, ?_⟩) | intro _ | split)

theorem execTblDestroy_keeps (via : Via) {s : State} : KeepsOut s (execTblDestroy via s) := serve_keeps tblDestroy_keeps

theorem tblQuery_keeps {s0 s : State} (r : Req) (h : Keeps s0 s) :
    KeepsRes s0 (tblQuery.run r s) := by
  unfold tblQuery
  try dsimp only
  repeat' (first
    | with_reducible assumption | with_reducible apply KeepsRes.fail | with_reducible apply KeepsRes.okay | split)

theorem execTblQuery_keeps (via : Via) {s : State} : KeepsOut s (execTblQuery via s) := serve_keeps tblQuery_keeps

theorem State.stageEntry_keeps {s0 s : State} (set : Nat) (key : Nat) (e : Nat) (h : Keeps s0 s) :
    Keeps s0 (State.stageEntry s set key e) := by
  unfold State.stageEntry
  try dsimp only
  repeat' (first
    | with_reducible assumption | with_reducible apply State.updSet_keeps | with_reducible apply State.mapMoves_keeps
    | split)

theorem State.loadEntries_keeps {s0 s : State} (set : Nat) (table : Nat) (first : Nat) (es : List Nat) (h : Keeps s0 s) :
    Keeps s0 (State.loadEntries s set table first es) := by
  unfold State.loadEntries
  try dsimp only
  repeat' (first
    | with_reducible assumption | with_reducible apply State.stageEntry_keeps | with_reducible apply Keeps.foldl1
    | intro _)

theorem tblRowmapLoad_keeps {s0 s : State} (r : Req) (h : Keeps s0 s) :
    KeepsRes s0 (tblRowmapLoad.run r s) := by
  unfold tblRowmapLoad
  try dsimp only
  repeat' (first
    | with_reducible assumption | with_reducible apply State.loadEntries_keeps
    | with_reducible apply State.endIfDone_keeps | with_reducible apply Res.work_keeps
    | with_reducible apply KeepsRes.fail | with_reducible apply KeepsRes.field
    | (simp only [keepsRes_mk]; with_reducible refine ⟨?_, ?_⟩) | intro _ | split)

theorem execTblRowmapLoad_keeps (via : Via) {s : State} : KeepsOut s (execTblRowmapLoad via s) := serve_keeps tblRowmapLoad_keeps

theorem State.bagErr_keeps {s0 s : State} (i : Nat) (b : Bag) (code : Nat) (detail : Nat) (h : Keeps s0 s) :
    Keeps s0 (State.bagErr s i b code detail) := by
  unfold State.bagErr
  try dsimp only
  repeat' (first
    | with_reducible assumption | with_reducible apply State.updBag_keeps | with_reducible apply State.updTable_keeps
    | with_reducible apply State.latch_keeps | split)

theorem State.loadList_keeps {s0 s : State} (b : Bag) (r : Request) (c : Context) (loc : Nat) (n : Nat) (use : RemoteUse) (h : Keeps s0 s) :
    Keeps s0 (State.loadList s b r c loc n use).1 := by
  unfold State.loadList
  try dsimp only
  repeat' (first
    | with_reducible assumption | with_reducible apply State.recordBarred_keeps
    | with_reducible apply State.readRemote_keeps | with_reducible apply State.fetch_keeps | split)

theorem State.track_keeps {s0 s : State} (b : Bag) (slot : Nat) (h : Keeps s0 s) :
    Keeps s0 (State.track s b slot) := by
  unfold State.track
  try dsimp only
  repeat' (first
    | with_reducible assumption | with_reducible apply State.writeThrough_keeps | split)

theorem State.resolveIndex_keeps {s0 s : State} (r : Request) (t : Table) (epoch : Nat) (b : Bag) (i : Nat) (idx : Nat) (h : Keeps s0 s) :
    Keeps s0 (State.resolveIndex s r t epoch b i idx).1 := by
  unfold State.resolveIndex
  try dsimp only
  repeat' (first
    | with_reducible assumption | with_reducible apply State.track_keeps | with_reducible apply State.updTable_keeps
    | with_reducible apply State.recordLost_keeps | with_reducible apply State.fetch_keeps | split)

theorem State.askRows_keeps {s0 : State} (i : Nat) (fuel : Nat) : ∀ {s : State}, Keeps s0 s → Keeps s0 (State.askRows i fuel s) := by
  induction fuel with
  | zero => intro s h; exact h
  | succ fuel ih =>
    intro s h
    unfold State.askRows
    try dsimp only
    repeat' (first
      | with_reducible apply ih | with_reducible assumption | with_reducible apply State.askRemote_keeps
      | with_reducible apply State.updBag_keeps | split)

theorem State.pumpCreek_keeps {s0 s : State} (k : Nat) (h : Keeps s0 s) :
    Keeps s0 (State.pumpCreek s k) := by
  unfold State.pumpCreek
  try dsimp only
  repeat' (first
    | with_reducible assumption | with_reducible apply State.askRows_keeps | with_reducible apply Keeps.foldl
    | intro _)

theorem State.resolveBag_keeps {s0 s : State} (i : Nat) (h : Keeps s0 s) :
    Keeps s0 (State.resolveBag s i) := by
  unfold State.resolveBag
  try dsimp only
  repeat' (first
    | with_reducible assumption | with_reducible apply State.recordLost_keeps
    | with_reducible apply State.bagErr_keeps | with_reducible apply State.count_keeps
    | with_reducible apply State.resolveIndex_keeps | with_reducible apply State.updTable_keeps
    | with_reducible apply State.latch_keeps | with_reducible apply State.askRows_keeps
    | with_reducible refine State.setCore_keeps ?_ rfl rfl | with_reducible apply Keeps.foldl1 | intro _ | split)

theorem State.beginBag_keeps {s0 s : State} (i : Nat) (h : Keeps s0 s) :
    Keeps s0 (State.beginBag s i) := by
  unfold State.beginBag
  try dsimp only
  repeat' (first
    | with_reducible assumption | with_reducible apply State.updBag_keeps | with_reducible apply State.bagErr_keeps
    | with_reducible apply State.resolveBag_keeps | with_reducible apply State.loadList_keeps
    | with_reducible refine Keeps.fst (by with_reducible assumption) ?_ | split)

theorem State.turn_keeps {s0 s : State} (k : Nat) (h : Keeps s0 s) :
    Keeps s0 (State.turn s k) := by
  unfold State.turn
  try dsimp only
  repeat' (first
    | with_reducible assumption | with_reducible refine State.setCore_keeps ?_ rfl rfl)

theorem State.creekRound_keeps {s0 : State} (k : Nat) (fuel : Nat) : ∀ {s : State}, Keeps s0 s → Keeps s0 (State.creekRound k fuel s) := by
  induction fuel with
  | zero => intro s h; exact h
  | succ fuel ih =>
    intro s h
    unfold State.creekRound
    try dsimp only
    repeat' (first
      | with_reducible apply ih | with_reducible assumption | with_reducible apply State.turn_keeps
      | with_reducible apply State.beginBag_keeps | with_reducible apply State.takePeer_keeps | split)

theorem execCreekBagDispatch_keeps (creek : Nat) {s : State} :
    KeepsOut s (execCreekBagDispatch creek s) := by
  unfold execCreekBagDispatch
  have h := Keeps.refl s
  try dsimp only
  repeat' (first
    | with_reducible assumption | with_reducible apply State.creekRound_keeps | with_reducible apply KeepsOut.next
    | split)

theorem State.setPos_keeps {s0 s : State} (i : Nat) (p : Nat) (x : Pos) (h : Keeps s0 s) :
    Keeps s0 (State.setPos s i p x) := by
  unfold State.setPos
  try dsimp only
  repeat' (first
    | with_reducible assumption | with_reducible apply State.updBag_keeps)

theorem State.landRow_keeps {s0 s : State} (bag : Nat) (pos : Nat) (h : Keeps s0 s) :
    Keeps s0 (State.landRow s bag pos) := by
  unfold State.landRow
  try dsimp only
  repeat' (first
    | with_reducible assumption | with_reducible apply State.setPos_keeps | with_reducible apply State.updBag_keeps
    | with_reducible apply State.readRow_keeps | with_reducible apply State.bagErr_keeps
    | with_reducible apply State.readDefault_keeps | with_reducible refine Keeps.fst (by with_reducible assumption) ?_
    | split)

theorem execCreekFetchComplete_keeps (bag : Nat) (pos : Nat × List Ecc) {s : State} :
    KeepsOut s (execCreekFetchComplete bag pos s) := by
  unfold execCreekFetchComplete
  have h := Keeps.refl s
  try dsimp only
  repeat' (first
    | with_reducible assumption | with_reducible apply State.recall_keeps | with_reducible apply State.eccAll_keeps
    | with_reducible apply State.landRow_keeps | with_reducible apply KeepsOut.next | with_reducible apply Keeps.foldl
    | intro _ | split)

theorem State.remoteFails_keeps {s0 s : State} (m : Remote) (code : Nat) (h : Keeps s0 s) :
    Keeps s0 (State.remoteFails s m code) := by
  unfold State.remoteFails
  try dsimp only
  repeat' (first
    | with_reducible assumption | with_reducible apply State.bagErr_keeps | with_reducible apply State.pumpCreek_keeps
    | with_reducible apply State.settle_keeps | with_reducible apply State.updPlain_keeps
    | with_reducible apply State.latch_keeps | with_reducible apply State.updCtx_keeps
    | with_reducible apply State.fail_keeps | split)

theorem State.answerRow_keeps {s0 s : State} (i : Nat) (p : Nat) (row : Nat) (b : Bag) (r : Request) (t : Table) (msg : Bytes) (o : Nat) (h : Keeps s0 s) :
    Keeps s0 (State.answerRow s i p row b r t msg o).1 := by
  unfold State.answerRow
  try dsimp only
  repeat' (first
    | with_reducible assumption | with_reducible apply State.setPos_keeps | with_reducible apply State.bagErr_keeps
    | with_reducible apply State.error_keeps | with_reducible apply State.updTable_keeps
    | with_reducible apply State.updBag_keeps | split)

theorem State.lookupAnswer_keeps {s0 s : State} (src : Nat) (msg : Bytes) (h : Keeps s0 s) :
    Keeps s0 (State.lookupAnswer s src msg) := by
  unfold State.lookupAnswer
  try dsimp only
  repeat' (first
    | with_reducible assumption | with_reducible apply State.dropRemote_keeps
    | with_reducible apply State.settle_keeps | with_reducible apply State.bagErr_keeps
    | with_reducible apply State.answerRow_keeps | with_reducible apply State.pumpCreek_keeps
    | with_reducible apply Keeps.foldl1 | intro _ | split)

theorem execRemoteLookupResponse_keeps (src : Nat) (msg : Bytes) {s : State} :
    KeepsOut s (execRemoteLookupResponse src msg s) := by
  unfold execRemoteLookupResponse
  have h := Keeps.refl s
  try dsimp only
  repeat' (first
    | with_reducible assumption | with_reducible apply State.lookupAnswer_keeps | with_reducible apply KeepsOut.next)

theorem execRemoteOperationTimeout_keeps (op : Nat) {s : State} :
    KeepsOut s (execRemoteOperationTimeout op s) := by
  unfold execRemoteOperationTimeout
  have h := Keeps.refl s
  try dsimp only
  repeat' (first
    | with_reducible assumption | with_reducible apply State.advanceTo_keeps
    | with_reducible apply State.dropRemote_keeps | with_reducible apply State.remoteFails_keeps
    | with_reducible apply KeepsOut.next | split)

theorem execCreekBagComplete_keeps (bag : Nat) (residue : Bool) {s : State} :
    KeepsOut s (execCreekBagComplete bag residue s) := by
  unfold execCreekBagComplete
  have h := Keeps.refl s
  try dsimp only
  repeat' (first
    | with_reducible assumption | with_reducible apply State.bagErr_keeps | with_reducible apply State.latch_keeps
    | with_reducible apply State.error_keeps | with_reducible apply State.scratchWrite_keeps
    | with_reducible apply State.engineSync_keeps | with_reducible apply State.pumpCreek_keeps
    | with_reducible apply State.settle_keeps | with_reducible refine State.setCore_keeps ?_ rfl rfl
    | with_reducible apply KeepsOut.next | split)

theorem State.zeroUnit_keeps {s0 s : State} (g : Nat) (u : Nat) (h : Keeps s0 s) :
    Keeps s0 (State.zeroUnit s g u) := by
  unfold State.zeroUnit
  try dsimp only
  repeat' (first
    | with_reducible assumption | with_reducible refine State.setCore_keeps ?_ rfl rfl
    | with_reducible refine State.setCore_wide ?_ ?_ ?_ | with_reducible apply Keeps.foldl
    | exact State.Canonical.scratch ‹_› | exact State.Canonical.lanes ‹_› | with_reducible apply zeroN_wf | intro _)

theorem State.claimUnits_keeps {s0 s : State} (g : Nat) (ctx : Nat) (off : Nat) (n : Nat) (h : Keeps s0 s) :
    Keeps s0 (State.claimUnits s g ctx off n) := by
  unfold State.claimUnits
  try dsimp only
  repeat' (first
    | with_reducible assumption | with_reducible apply State.zeroUnit_keeps | with_reducible apply Keeps.foldl
    | intro _ | split)

theorem State.writeLanes_keeps {s0 s : State} (g : Nat) (ctx : Nat) (first : Nat) (off : Nat) (n : Nat) (src : Bytes) (h : Keeps s0 s) :
    Keeps s0 (State.writeLanes s g ctx first off n src) := by
  unfold State.writeLanes
  try dsimp only
  repeat' (first
    | with_reducible assumption | with_reducible apply State.claimUnits_keeps
    | with_reducible refine State.setCore_keeps ?_ rfl rfl | with_reducible refine State.setCore_wide ?_ ?_ ?_
    | with_reducible apply Keeps.foldl | exact State.Canonical.scratch ‹_› | exact State.Canonical.lanes ‹_›
    | with_reducible apply wrN_wf | intro _)

theorem State.plainErr_keeps {s0 s : State} (i : Nat) (o : PlainOp) (code : Nat) (detail : Nat := 0) (h : Keeps s0 s) :
    Keeps s0 (State.plainErr s i o code detail) := by
  unfold State.plainErr
  try dsimp only
  repeat' (first
    | with_reducible assumption | with_reducible apply State.updPlain_keeps | with_reducible apply State.latch_keeps)

theorem State.plainFault_keeps {s0 s : State} (o : PlainOp) (r : Request) (h : Keeps s0 s) :
    Keeps s0 (State.plainFault s o r) := by
  unfold State.plainFault
  try dsimp only
  repeat' (first
    | with_reducible assumption | with_reducible apply State.glenFault_keeps)

theorem State.creditFor_keeps {s0 s : State} (r : Request) (o : PlainOp) (h : Keeps s0 s) :
    Keeps s0 (State.creditFor s r o).1 := by
  unfold State.creditFor
  try dsimp only
  repeat' (first
    | with_reducible assumption | (simp only [keeps_mk]; with_reducible refine KeepsLit.of ?_ rfl rfl rfl rfl rfl rfl))

theorem State.startChain_keeps {s0 s : State} (i : Nat) (o : PlainOp) (r : Request) (c : Context) (h : Keeps s0 s) :
    Keeps s0 (State.startChain s i o r c) := by
  unfold State.startChain
  try dsimp only
  repeat' (first
    | with_reducible assumption | with_reducible apply State.updCtx_keeps | with_reducible apply State.plainErr_keeps
    | with_reducible apply State.claimUnits_keeps | with_reducible apply State.count_keeps
    | with_reducible apply State.creditFor_keeps | with_reducible apply State.plainFault_keeps
    | with_reducible apply State.ungate_keeps | with_reducible apply State.updPlain_keeps | split)

theorem execPlainChainStart_keeps (glen : Nat) {s : State} :
    KeepsOut s (execPlainChainStart glen s) := by
  unfold execPlainChainStart
  have h := Keeps.refl s
  try dsimp only
  repeat' (first
    | with_reducible assumption | with_reducible apply State.startChain_keeps | with_reducible apply KeepsOut.next
    | split)

theorem State.endPlain_keeps {s0 s : State} (i : Nat) (o : PlainOp) (r : Request) (signal : Bool) (h : Keeps s0 s) :
    Keeps s0 (State.endPlain s i o r signal) := by
  unfold State.endPlain
  try dsimp only
  repeat' (first
    | with_reducible assumption | with_reducible apply State.engineSync_keeps
    | with_reducible apply State.settle_keeps | with_reducible refine State.setCore_keeps ?_ rfl rfl | split)

theorem execPlainChainComplete_keeps (op : Nat) (parity : Bool) (errs : List GlenErr) {s : State} :
    KeepsOut s (execPlainChainComplete op parity errs s) := by
  unfold execPlainChainComplete
  have h := Keeps.refl s
  try dsimp only
  repeat' (first
    | with_reducible assumption | with_reducible apply State.glenErrs_keeps
    | with_reducible apply State.plainErr_keeps | with_reducible apply State.scratchWrite_keeps
    | with_reducible apply State.endPlain_keeps | with_reducible apply KeepsOut.next | split)

theorem execCheckedChainCompare_keeps (op : Nat) (mismatch : Option Nat) {s : State} :
    KeepsOut s (execCheckedChainCompare op mismatch s) := by
  unfold execCheckedChainCompare
  have h := Keeps.refl s
  try dsimp only
  repeat' (first
    | with_reducible assumption | with_reducible apply State.updPlain_keeps | with_reducible apply State.error_keeps
    | with_reducible apply State.fenceUnits_keeps | with_reducible apply State.plainErr_keeps
    | with_reducible apply KeepsOut.next | split)

theorem State.loadSource_keeps {s0 s : State} (i : Nat) (o : PlainOp) (r : Request) (h : Keeps s0 s) :
    Keeps s0 (State.loadSource s i o r).1 := by
  unfold State.loadSource
  try dsimp only
  repeat' (first
    | with_reducible assumption | with_reducible apply State.plainFault_keeps
    | with_reducible apply State.recordBarred_keeps | with_reducible apply State.readRemote_keeps
    | with_reducible apply State.fetch_keeps | split)

theorem execWeightLoadStart_keeps (glen : Nat × List Ecc × List GlenErr) {s : State} :
    KeepsOut s (execWeightLoadStart glen s) := by
  unfold execWeightLoadStart
  have h := Keeps.refl s
  try dsimp only
  repeat' (first
    | with_reducible assumption | with_reducible apply State.plainErr_keeps | with_reducible apply State.recall_keeps
    | with_reducible apply State.eccAll_keeps | with_reducible apply State.glenErrs_keeps
    | with_reducible apply State.loadSource_keeps | with_reducible apply State.updPlain_keeps
    | with_reducible apply KeepsOut.next | with_reducible refine Keeps.fst (by with_reducible assumption) ?_ | split)

theorem execWeightLoadComplete_keeps (op : Nat) {s : State} :
    KeepsOut s (execWeightLoadComplete op s) := by
  unfold execWeightLoadComplete
  have h := Keeps.refl s
  try dsimp only
  repeat' (first
    | with_reducible assumption | with_reducible apply State.recordBarred_keeps
    | with_reducible apply State.plainErr_keeps | with_reducible apply State.endPlain_keeps
    | with_reducible apply State.writeLanes_keeps | with_reducible apply State.updCtx_keeps
    | with_reducible refine State.setCore_keeps ?_ rfl rfl | with_reducible apply KeepsOut.next | split)

theorem State.noteWaiting_keeps {s0 s : State} (v : Nat) (h : Keeps s0 s) :
    Keeps s0 (State.noteWaiting s v) := by
  unfold State.noteWaiting
  try dsimp only
  repeat' (first
    | with_reducible assumption | with_reducible refine State.setCore_keeps ?_ rfl rfl)

theorem State.startSwitch_keeps {s0 s : State} (v : Nat) (r : Nat) (w : Option Nat) (h : Keeps s0 s) :
    Keeps s0 (State.startSwitch s v r w) := by
  unfold State.startSwitch
  try dsimp only
  repeat' (first
    | with_reducible assumption | with_reducible apply State.updCtx_keeps)

theorem State.askReplay_keeps {s0 s : State} (k : Nat) (c : Context) (h : Keeps s0 s) :
    Keeps s0 (State.askReplay s k c) := by
  unfold State.askReplay
  try dsimp only
  repeat' (first
    | with_reducible assumption | with_reducible apply State.updCtx_keeps
    | with_reducible apply State.readRemote_keeps | with_reducible apply Keeps.foldl | intro _ | split)

theorem State.startRestore_keeps {s0 s : State} (k : Nat) (h : Keeps s0 s) :
    Keeps s0 (State.startRestore s k) := by
  unfold State.startRestore
  try dsimp only
  repeat' (first
    | with_reducible assumption | with_reducible apply State.updCtx_keeps | with_reducible apply State.askReplay_keeps
    | split)

theorem State.restoreFree_keeps {s0 s : State} (v : Nat) (next : Option Nat) (h : Keeps s0 s) :
    Keeps s0 (State.restoreFree s v next) := by
  unfold State.restoreFree
  try dsimp only
  repeat' (first
    | with_reducible assumption | with_reducible apply State.startRestore_keeps | with_reducible apply Keeps.foldl
    | intro _ | split)

theorem State.stateErr_keeps {s0 s : State} (v : Nat) (e : StateErr) (h : Keeps s0 s) : Keeps s0 (s.stateErr v e) := by
  cases e with
  | context c core => simp only [State.stateErr]; split; exact h; exact State.ctxFault_keeps _ _ _ _ h
  | shared core => exact State.deviceFault_keeps _ h
  | frontEnd => exact State.deviceFault_keeps _ h

theorem execSchedulerTick_keeps (valley : Nat) (time : Nat × Option StateErr) {s : State} :
    KeepsOut s (execSchedulerTick valley time s) := by
  unfold execSchedulerTick
  have h := Keeps.refl s
  try dsimp only
  repeat' (first
    | with_reducible assumption | with_reducible apply State.advanceTo_keeps
    | with_reducible apply State.stateErr_keeps | with_reducible apply State.noteWaiting_keeps
    | with_reducible apply State.startSwitch_keeps | with_reducible apply State.restoreFree_keeps
    | with_reducible apply KeepsOut.next | split)

theorem State.setSaved_keeps {s0 s : State} (k : Nat) (h : Keeps s0 s) :
    Keeps s0 (State.setSaved s k) := by
  unfold State.setSaved
  try dsimp only
  repeat' (first
    | with_reducible assumption | with_reducible apply State.leaveLines_keeps
    | with_reducible refine State.setCore_keeps ?_ rfl rfl)

theorem State.areaFault_keeps {s0 s : State} (v : Nat) (k : Nat) (c : Context) (h : Keeps s0 s) :
    Keeps s0 (State.areaFault s v k c) := by
  unfold State.areaFault
  try dsimp only
  repeat' (first
    | with_reducible assumption | with_reducible apply State.ctxFault_keeps | split)

theorem execContextSaveDone_keeps (valley : Nat) (ctx : Nat) (ns : Nat) {s : State} :
    KeepsOut s (execContextSaveDone valley ctx ns s) := by
  unfold execContextSaveDone
  have h := Keeps.refl s
  try dsimp only
  repeat' (first
    | with_reducible assumption | with_reducible apply State.advanceTo_keeps
    | with_reducible apply State.areaFault_keeps | with_reducible apply State.drawBytes_keeps
    | with_reducible apply State.writeThrough_keeps | with_reducible apply State.setSaved_keeps
    | with_reducible apply State.updCtx_keeps | with_reducible apply State.updValley_keeps
    | with_reducible apply State.startRestore_keeps | with_reducible apply State.serveAll_keeps
    | with_reducible apply State.resume_keeps | with_reducible apply KeepsOut.next | split)

theorem State.reread_keeps {s0 s : State} (v : Nat) (c : Context) (i : Nat) (l : LoadLog) (h : Keeps s0 s) :
    Keeps s0 (State.reread s v c i l).1 := by
  unfold State.reread
  try dsimp only
  repeat' (first
    | with_reducible assumption | with_reducible apply State.error_keeps | with_reducible apply State.fetch_keeps
    | split)

theorem State.replay_keeps {s0 s : State} (v : Nat) (ctx : Nat) (c : Context) (i : Nat) (l : LoadLog) (us : List Nat) (h : Keeps s0 s) :
    Keeps s0 (State.replay s v ctx c i l us) := by
  unfold State.replay
  try dsimp only
  repeat' (first
    | with_reducible assumption | with_reducible apply State.reread_keeps | with_reducible apply State.updCtx_keeps
    | with_reducible apply State.writeLanes_keeps | with_reducible apply Keeps.foldl
    | with_reducible refine Keeps.fst (by with_reducible assumption) ?_ | intro _ | split)

theorem State.replayAll_keeps {s0 s : State} (v : Nat) (ctx : Nat) (c : Context) (h : Keeps s0 s) :
    Keeps s0 (State.replayAll s v ctx c) := by
  unfold State.replayAll
  try dsimp only
  repeat' (first
    | with_reducible assumption | with_reducible apply State.updCtx_keeps | with_reducible apply State.replay_keeps
    | with_reducible apply Keeps.foldl | intro _ | split)

theorem State.clearSaved_keeps {s0 s : State} (k : Nat) (h : Keeps s0 s) :
    Keeps s0 (State.clearSaved s k) := by
  unfold State.clearSaved
  try dsimp only
  repeat' (first
    | with_reducible assumption | with_reducible apply State.ungate_keeps
    | with_reducible refine State.setCore_keeps ?_ rfl rfl | with_reducible apply Keeps.foldl)

theorem execContextRestoreDone_keeps (valley : Nat) (ctx : Nat) (ns : Nat) {s : State} :
    KeepsOut s (execContextRestoreDone valley ctx ns s) := by
  unfold execContextRestoreDone
  have h := Keeps.refl s
  try dsimp only
  repeat' (first
    | with_reducible assumption | with_reducible apply State.advanceTo_keeps
    | with_reducible apply State.areaFault_keeps | with_reducible apply State.replayAll_keeps
    | with_reducible apply State.clearSaved_keeps | with_reducible apply State.fail_keeps
    | with_reducible apply State.beginWait_keeps | with_reducible apply State.updCtx_keeps
    | with_reducible apply State.releaseSyncs_keeps | with_reducible apply KeepsOut.next
    | with_reducible apply Keeps.foldl | intro _ | split)

end Sys2Proof.Machine
end

