-- ==== Sys2Proof/Laws/KeepsStream.lean ====
section
/-! SUPPORT. Every definition of Ford rings, update streams, epochs and reflow keeps the fused identity, the waiting commands and
canonical memories ("Keeps", Sys2Proof/Safety.lean). -/
namespace Sys2Proof.Machine
open Sys2Proof

theorem State.setRing_keeps {s0 s : State} (r : Nat) (x : Ring) (h : Keeps s0 s) :
    Keeps s0 (State.setRing s r x) := by
  unfold State.setRing
  try dsimp only
  repeat' (first
    | with_reducible assumption | (simp only [keeps_mk]; with_reducible refine KeepsLit.of ?_ rfl rfl rfl rfl rfl rfl))

theorem State.updRing_keeps {s0 s : State} (r : Nat) (f : Ring → Ring) (h : Keeps s0 s) :
    Keeps s0 (State.updRing s r f) := by
  unfold State.updRing
  try dsimp only
  repeat' (first
    | with_reducible assumption | with_reducible apply State.setRing_keeps | split)

theorem State.ringWrite_keeps {s0 s : State} (r : Nat) (a : Nat) (d : Bytes) (h : Keeps s0 s) :
    Keeps s0 (State.ringWrite s r a d) := by
  unfold State.ringWrite
  try dsimp only
  repeat' (first
    | with_reducible assumption | with_reducible apply State.writeThrough_keeps
    | (simp only [keeps_mk]; with_reducible refine KeepsLit.wide ?_ ?_ ?_ ?_ ?_ ?_ ?_) | exact State.Canonical.mem ‹_›
    | exact State.Canonical.ram ‹_› | exact State.Canonical.scratch ‹_› | exact State.Canonical.lanes ‹_›
    | exact State.Canonical.pool ‹_› | exact State.Canonical.lines ‹_› _ ‹_› | with_reducible apply wrN_wf | intro _
    | split)

theorem State.outEntry_keeps {s0 s : State} (r : Nat) (x : Ring) (op : Nat) (flags : Nat) (status : Nat) (gen : Nat) (rest : Bytes) (h : Keeps s0 s) :
    Keeps s0 (State.outEntry s r x op flags status gen rest) := by
  unfold State.outEntry
  try dsimp only
  repeat' (first
    | with_reducible assumption | with_reducible apply State.ringWrite_keeps
    | with_reducible apply State.updRing_keeps)

theorem State.fordEnd_keeps {s0 s : State} (i : Nat) (code : Nat) (h : Keeps s0 s) :
    Keeps s0 (State.fordEnd s i code) := by
  unfold State.fordEnd
  try dsimp only
  repeat' (first
    | with_reducible assumption | with_reducible apply State.engineSync_keeps
    | with_reducible apply State.finishWith_keeps
    | (simp only [keeps_mk]; with_reducible refine KeepsLit.of ?_ rfl rfl rfl rfl rfl rfl) | split)

theorem State.dropExchange_keeps {s0 s : State} (r : Nat) (xid : Nat) (h : Keeps s0 s) :
    Keeps s0 (State.dropExchange s r xid) := by
  unfold State.dropExchange
  try dsimp only
  repeat' (first
    | with_reducible assumption | with_reducible apply State.updRing_keeps)

theorem State.dropShards_keeps {s0 s : State} (r : Nat) (h : Keeps s0 s) :
    Keeps s0 (State.dropShards s r) := by
  unfold State.dropShards
  try dsimp only
  repeat' (first
    | with_reducible assumption | (simp only [keeps_mk]; with_reducible refine KeepsLit.of ?_ rfl rfl rfl rfl rfl rfl))

theorem State.closeRing_keeps {s0 s : State} (r : Nat) (h : Keeps s0 s) :
    Keeps s0 (State.closeRing s r) := by
  unfold State.closeRing
  try dsimp only
  repeat' (first
    | with_reducible assumption | with_reducible apply State.ringWrite_keeps
    | with_reducible apply State.dropShards_keeps | with_reducible apply State.doneOpt_keeps
    | (simp only [keeps_mk]; with_reducible refine KeepsLit.of ?_ rfl rfl rfl rfl rfl rfl) | split)

theorem State.ringError_keeps {s0 s : State} (r : Nat) (h : Keeps s0 s) :
    Keeps s0 (State.ringError s r) := by
  unfold State.ringError
  try dsimp only
  repeat' (first
    | with_reducible assumption | with_reducible apply State.setRing_keeps | with_reducible apply State.fordEnd_keeps
    | with_reducible apply State.event_keeps | with_reducible apply State.closeRing_keeps
    | with_reducible apply Keeps.foldl | intro _ | split)

theorem State.recordFord_keeps {s0 s : State} (r : Request) (hs : List Bytes) (pos : Nat) (off : Nat) (code : Nat) (h : Keeps s0 s) :
    Keeps s0 (State.recordFord s r hs pos off code) := by
  unfold State.recordFord
  try dsimp only
  repeat' (first
    | with_reducible assumption | with_reducible apply State.recordAccess_keeps | split)

theorem State.fordPost_keeps {s0 s : State} (i : Nat) (j : FordJob) (h : Keeps s0 s) :
    Keeps s0 (State.fordPost s i j) := by
  unfold State.fordPost
  try dsimp only
  repeat' (first
    | with_reducible assumption | with_reducible apply State.ringError_keeps
    | with_reducible apply State.setRing_keeps | with_reducible apply State.ringWrite_keeps
    | with_reducible apply State.outEntry_keeps
    | (simp only [keeps_mk]; with_reducible refine KeepsLit.of ?_ rfl rfl rfl rfl rfl rfl) | split)

theorem State.vecAck_keeps {s0 s : State} (r : Nat) (e : Bytes) (status : Nat) (h : Keeps s0 s) :
    Keeps s0 (State.vecAck s r e status) := by
  unfold State.vecAck
  try dsimp only
  repeat' (first
    | with_reducible assumption | with_reducible apply State.outEntry_keeps | split)

theorem State.fordStore_keeps {s0 s : State} (q : Request) (i : Nat) (j : FordJob) (d : Bytes) (h : Keeps s0 s) :
    Keeps s0 (s.fordStore q i j d).1 := by
  unfold State.fordStore
  repeat' (first
    | with_reducible assumption | with_reducible apply State.recordAccess_keeps | with_reducible apply State.writeFor_keeps
    | with_reducible apply State.updReq_keeps | split)

theorem State.vecGive_keeps {s0 s : State} (i : Nat) (j : FordJob) (e : Bytes) (h : Keeps s0 s) :
    Keeps s0 (State.vecGive s i j e) := by
  unfold State.vecGive
  try dsimp only
  repeat' (first
    | with_reducible assumption | with_reducible apply State.vecAck_keeps | with_reducible apply State.fordEnd_keeps
    | with_reducible apply State.fordStore_keeps | with_reducible apply State.updRing_keeps | split)

theorem State.fordTry_keeps {s0 s : State} (i : Nat) (h : Keeps s0 s) : Keeps s0 (State.fordTry s i) := by
  unfold State.fordTry
  try dsimp only
  repeat' (first
    | with_reducible assumption | with_reducible apply State.setRing_keeps | with_reducible apply State.vecGive_keeps
    | with_reducible apply State.fordPost_keeps | split)

theorem State.fordPump_keeps {s0 s : State} (r : Nat) (h : Keeps s0 s) :
    Keeps s0 (State.fordPump s r) := by
  unfold State.fordPump
  try dsimp only
  repeat' (first
    | with_reducible assumption | with_reducible apply State.fordTry_keeps | with_reducible apply Keeps.foldl
    | intro _ | split)

theorem State.fordTurns_keeps {s0 s : State} (h : Keeps s0 s) : Keeps s0 (State.fordTurns s) := by
  unfold State.fordTurns
  repeat' (first
    | with_reducible assumption | with_reducible apply State.fordTry_keeps | with_reducible apply Keeps.foldl
    | intro _ | split)

theorem fordKind_keeps (op n : Nat) (i : Nat) (r : Request) (hs : List Bytes) {s0 s : State} (h : Keeps s0 s) :
    Keeps s0 ((fordKind op n).run i r hs s) := by
  unfold fordKind
  try dsimp only
  repeat' (first
    | with_reducible assumption | with_reducible apply State.fordPump_keeps
    | with_reducible apply State.recordFord_keeps | with_reducible apply State.fordEnd_keeps
    | with_reducible apply State.finishWith_keeps | with_reducible apply State.fetch_keeps
    | with_reducible apply State.error_keeps
    | (simp only [keeps_mk]; with_reducible refine KeepsLit.of ?_ rfl rfl rfl rfl rfl rfl) | split)

theorem execFordLookup_keeps (sq : Nat) {s : State} :
    KeepsOut s (execFordLookup sq s) := by
  unfold execFordLookup
  have h := Keeps.refl s
  try dsimp only
  repeat' (first
    | with_reducible apply State.admitOp_keeps | with_reducible apply fordKind_keeps)

theorem execFordVecSend_keeps (sq : Nat) {s : State} :
    KeepsOut s (execFordVecSend sq s) := by
  unfold execFordVecSend
  have h := Keeps.refl s
  try dsimp only
  repeat' (first
    | with_reducible apply State.admitOp_keeps | with_reducible apply fordKind_keeps)

theorem execFordVecRecv_keeps (sq : Nat) {s : State} :
    KeepsOut s (execFordVecRecv sq s) := by
  unfold execFordVecRecv
  have h := Keeps.refl s
  try dsimp only
  repeat' (first
    | with_reducible apply State.admitOp_keeps | with_reducible apply fordKind_keeps)

theorem execFordRowPut_keeps (sq : Nat) {s : State} :
    KeepsOut s (execFordRowPut sq s) := by
  unfold execFordRowPut
  have h := Keeps.refl s
  try dsimp only
  repeat' (first
    | with_reducible apply State.admitOp_keeps | with_reducible apply fordKind_keeps)

theorem execFordRowGet_keeps (sq : Nat) {s : State} :
    KeepsOut s (execFordRowGet sq s) := by
  unfold execFordRowGet
  have h := Keeps.refl s
  try dsimp only
  repeat' (first
    | with_reducible apply State.admitOp_keeps | with_reducible apply fordKind_keeps)

theorem fordPersonalitySet_keeps {s0 s : State} (r : Req) (h : Keeps s0 s) :
    KeepsRes s0 (fordPersonalitySet.run r s) := by
  unfold fordPersonalitySet
  try dsimp only
  repeat' (first
    | with_reducible assumption | with_reducible apply State.arm_keeps
    | with_reducible apply State.boundaryIfStopped_keeps | with_reducible apply KeepsRes.fail
    | with_reducible apply KeepsRes.okay | (simp only [keepsRes_mk]; with_reducible refine ⟨?_, ?_⟩) | intro _ | split)

theorem execFordPersonalitySet_keeps (via : Via) {s : State} : KeepsOut s (execFordPersonalitySet via s) := serve_keeps fordPersonalitySet_keeps

theorem fordRingCreate_keeps {s0 s : State} (r : Req) (h : Keeps s0 s) :
    KeepsRes s0 (fordRingCreate.run r s) := by
  unfold fordRingCreate
  try dsimp only
  repeat' (first
    | with_reducible assumption | with_reducible apply State.setRing_keeps
    | with_reducible apply State.ringWrite_keeps | with_reducible apply Res.work_keeps
    | with_reducible apply KeepsRes.fail | with_reducible apply KeepsRes.okay | split)

theorem execFordRingCreate_keeps (via : Via) {s : State} : KeepsOut s (execFordRingCreate via s) := serve_keeps fordRingCreate_keeps

theorem fordRingDestroy_keeps {s0 s : State} (r : Req) (h : Keeps s0 s) :
    KeepsRes s0 (fordRingDestroy.run r s) := by
  unfold fordRingDestroy
  try dsimp only
  repeat' (first
    | with_reducible assumption | with_reducible apply State.setRing_keeps
    | with_reducible apply State.ringWrite_keeps | with_reducible apply State.fordEnd_keeps
    | with_reducible apply State.closeRing_keeps | with_reducible apply KeepsRes.fail
    | with_reducible apply KeepsRes.okay | (simp only [keepsRes_mk]; with_reducible refine ⟨?_, ?_⟩)
    | with_reducible apply Keeps.foldl | intro _ | split)

theorem execFordRingDestroy_keeps (via : Via) {s : State} : KeepsOut s (execFordRingDestroy via s) := serve_keeps fordRingDestroy_keeps

theorem fordShardSet_keeps {s0 s : State} (r : Req) (h : Keeps s0 s) :
    KeepsRes s0 (fordShardSet.run r s) := by
  unfold fordShardSet
  try dsimp only
  repeat' (first
    | with_reducible assumption | with_reducible apply KeepsRes.fail | with_reducible apply KeepsRes.okay
    | (simp only [keeps_mk]; with_reducible refine KeepsLit.of ?_ rfl rfl rfl rfl rfl rfl) | split)

theorem execFordShardSet_keeps (via : Via) {s : State} : KeepsOut s (execFordShardSet via s) := serve_keeps fordShardSet_keeps

theorem fordQuery_keeps {s0 s : State} (r : Req) (h : Keeps s0 s) :
    KeepsRes s0 (fordQuery.run r s) := by
  unfold fordQuery
  try dsimp only
  repeat' (first
    | with_reducible assumption | with_reducible apply KeepsRes.okay | split)

theorem execFordQuery_keeps (via : Via) {s : State} : KeepsOut s (execFordQuery via s) := serve_keeps fordQuery_keeps

theorem State.readEntries_keeps {s0 s : State} (r : Nat) (x : Ring) (prod : W32) (h : Keeps s0 s) :
    Keeps s0 (State.readEntries s r x prod) := by
  unfold State.readEntries
  try dsimp only
  repeat' (first
    | with_reducible assumption | (simp only [keeps_mk]; with_reducible refine KeepsLit.of ?_ rfl rfl rfl rfl rfl rfl)
    | split)

theorem State.pollDone_keeps {s0 s : State} (r : Nat) (h : Keeps s0 s) :
    Keeps s0 (State.pollDone s r) := by
  unfold State.pollDone
  try dsimp only
  repeat' (first
    | with_reducible assumption | with_reducible apply State.ringError_keeps
    | with_reducible apply State.readEntries_keeps | with_reducible apply State.updRing_keeps
    | with_reducible apply State.fordPump_keeps | split)

theorem execFordRingPoll_keeps (ring : Nat) {s : State} :
    KeepsOut s (execFordRingPoll ring s) := by
  unfold execFordRingPoll
  have h := Keeps.refl s
  try dsimp only
  repeat' (first
    | with_reducible assumption | with_reducible apply State.advanceTo_keeps
    | with_reducible apply State.updRing_keeps | with_reducible apply State.ringError_keeps
    | with_reducible apply State.pollDone_keeps | with_reducible apply KeepsOut.next
    | (simp only [keeps_mk]; with_reducible refine KeepsLit.of ?_ rfl rfl rfl rfl rfl rfl) | split)

theorem State.readData2_keeps {s0 s : State} (r : Nat) (e : Bytes) (h : Keeps s0 s) :
    Keeps s0 (State.readData2 s r e) := by
  unfold State.readData2
  try dsimp only
  repeat' (first
    | with_reducible assumption | (simp only [keeps_mk]; with_reducible refine KeepsLit.of ?_ rfl rfl rfl rfl rfl rfl)
    | split)

theorem execPoolRdmaCompletion_keeps (data : Bytes) {s : State} :
    KeepsOut s (execPoolRdmaCompletion data s) := by
  unfold execPoolRdmaCompletion
  have h := Keeps.refl s
  try dsimp only
  repeat' (first
    | with_reducible assumption | with_reducible apply State.pollDone_keeps
    | with_reducible apply State.readData2_keeps | with_reducible apply KeepsOut.next
    | (simp only [keeps_mk]; with_reducible refine KeepsLit.of ?_ rfl rfl rfl rfl rfl rfl)
    | (simp only [keeps_mk]; with_reducible refine KeepsLit.wide ?_ ?_ ?_ ?_ ?_ ?_ ?_) | exact State.Canonical.mem ‹_›
    | exact State.Canonical.ram ‹_› | exact State.Canonical.scratch ‹_› | exact State.Canonical.lanes ‹_›
    | exact State.Canonical.pool ‹_› | exact State.Canonical.lines ‹_› _ ‹_› | with_reducible apply wrN_wf | intro _
    | split)

theorem State.poolFails_keeps {s0 s : State} (h : Keeps s0 s) :
    Keeps s0 (State.poolFails s) := by
  unfold State.poolFails
  try dsimp only
  repeat' (first
    | with_reducible assumption | with_reducible apply State.event_keeps | with_reducible apply State.ringError_keeps
    | with_reducible apply Keeps.foldl
    | (simp only [keeps_mk]; with_reducible refine KeepsLit.of ?_ rfl rfl rfl rfl rfl rfl) | split)

theorem execPoolQpError_keeps {s : State} :
    KeepsOut s (execPoolQpError s) := by
  unfold execPoolQpError
  have h := Keeps.refl s
  try dsimp only
  repeat' (first
    | with_reducible assumption | with_reducible apply State.poolFails_keeps | with_reducible apply KeepsOut.next)

theorem State.skipBad_keeps {s0 : State} (r : Nat) (fuel : Nat) : ∀ {s : State}, Keeps s0 s → Keeps s0 (State.skipBad r fuel s) := by
  induction fuel with
  | zero => intro s h; exact h
  | succ fuel ih =>
    intro s h
    unfold State.skipBad
    try dsimp only
    repeat' (first
      | with_reducible apply ih | with_reducible assumption | with_reducible apply State.ringWrite_keeps
      | with_reducible apply State.setRing_keeps | split)

theorem State.takeIn_keeps {s0 s : State} (r : Nat) (h : Keeps s0 s) :
    Keeps s0 (State.takeIn s r) := by
  unfold State.takeIn
  try dsimp only
  repeat' (first
    | with_reducible assumption | with_reducible apply State.setRing_keeps
    | with_reducible apply State.ringWrite_keeps | split)

theorem State.onEntry_keeps {s0 s : State} (r : Nat) (ops : Nat → Bool) {f : Ring → Bytes → State → State}
    (hf : ∀ x e {b : State}, Keeps s0 b → Keeps s0 (f x e b)) (h : Keeps s0 s) : Keeps s0 (s.onEntry r ops f) := by
  unfold State.onEntry
  dsimp only
  split
  · exact h
  · have g := State.skipBad_keeps r 65536 h
    generalize State.skipBad r 65536 s = t at g ⊢
    split
    · split
      · exact State.ringError_keeps _ g
      · split
        · exact hf _ _ g
        · exact g
    · exact g

theorem State.fordAnswer_keeps {s0 s : State} (r : Nat) (e : Bytes) (op : Nat) (status : Nat) (data : Bytes) (h : Keeps s0 s) :
    Keeps s0 (State.fordAnswer s r e op status data) := by
  unfold State.fordAnswer
  try dsimp only
  repeat' (first
    | with_reducible assumption | with_reducible apply State.ringWrite_keeps
    | with_reducible apply State.setRing_keeps | with_reducible apply State.outEntry_keeps | split)

theorem State.localRow_keeps {s0 s : State} (rd : Reader) (key : Nat) (t : Table) (epoch : Nat) (row : Nat) (h : Keeps s0 s) :
    Keeps s0 (State.localRow s rd key t epoch row).1 := by
  unfold State.localRow
  try dsimp only
  repeat' (first
    | with_reducible assumption | with_reducible apply State.recordLost_keeps | with_reducible apply State.fetch_keeps
    | with_reducible apply State.updTable_keeps | with_reducible apply State.readDefault_keeps
    | with_reducible apply State.readRow_keeps | with_reducible refine Keeps.fst (by with_reducible assumption) ?_
    | split)

theorem State.localRows_keeps {s0 s : State} (rd : Reader) (key : Nat) (t : Table) (epoch : Nat) (rows : List Nat) (h : Keeps s0 s) :
    Keeps s0 (State.localRows s rd key t epoch rows).1 := by
  unfold State.localRows
  try dsimp only
  repeat' (first
    | with_reducible assumption | with_reducible apply State.localRow_keeps | with_reducible apply Keeps.foldl1
    | intro _)

theorem State.serveLocal_keeps {s0 s : State} (r ans : Nat) (x : Ring) (e : Bytes) (waited : Bool)
    {f : Nat → Table → Nat → State → State × Nat × Bytes}
    (hf : ∀ y t n {b : State}, Keeps s0 b → Keeps s0 (f y t n b).1) (h : Keeps s0 s) :
    Keeps s0 (s.serveLocal r ans x e waited f) := by
  have g := State.takeIn_keeps r h
  unfold State.serveLocal
  dsimp only
  split
  · exact h
  · split
    · exact State.fordAnswer_keeps _ _ _ _ _ g
    · split
      · exact State.fordAnswer_keeps _ _ _ _ _ g
      · split
        · split
          · exact State.fordAnswer_keeps _ _ _ _ _ g
          · exact h
        · exact State.fordAnswer_keeps _ _ _ _ _ g
        · split
          · exact State.fordAnswer_keeps _ _ _ _ _ g
          · exact State.fordAnswer_keeps _ _ _ _ _ (hf _ _ _ g)

theorem State.localLookup_keeps {s0 s : State} (r : Nat) (e : Bytes) (key : Nat) (t : Table) (epoch : Nat) (h : Keeps s0 s) :
    Keeps s0 (State.localLookup s r e key t epoch).1 := by
  unfold State.localLookup
  try dsimp only
  repeat' (first
    | with_reducible assumption | with_reducible apply State.updTable_keeps
    | with_reducible apply State.localRows_keeps | split)

theorem execFordInLookup_keeps (ring : Nat) (waited : Bool) {s : State} :
    KeepsOut s (execFordInLookup ring waited s) := by
  unfold execFordInLookup
  have h := Keeps.refl s
  try dsimp only
  repeat' (first
    | with_reducible assumption | with_reducible apply State.onEntry_keeps
    | with_reducible apply State.serveLocal_keeps | with_reducible apply State.localLookup_keeps
    | with_reducible apply KeepsOut.next | intro _)

theorem State.localGet_keeps {s0 s : State} (r : Nat) (e : Bytes) (key : Nat) (t : Table) (epoch : Nat) (h : Keeps s0 s) :
    Keeps s0 (State.localGet s r e key t epoch).1 := by
  unfold State.localGet
  try dsimp only
  repeat' (first
    | with_reducible assumption | with_reducible apply State.localRows_keeps | split)

theorem execFordInRowGet_keeps (ring : Nat) (waited : Bool) {s : State} :
    KeepsOut s (execFordInRowGet ring waited s) := by
  unfold execFordInRowGet
  have h := Keeps.refl s
  try dsimp only
  repeat' (first
    | with_reducible assumption | with_reducible apply State.onEntry_keeps
    | with_reducible apply State.serveLocal_keeps | with_reducible apply State.localGet_keeps
    | with_reducible apply KeepsOut.next | intro _)

theorem execFordInVec_keeps (ring : Nat) {s : State} :
    KeepsOut s (execFordInVec ring s) := by
  unfold execFordInVec
  have h := Keeps.refl s
  try dsimp only
  repeat' (first
    | with_reducible assumption | with_reducible apply State.onEntry_keeps | with_reducible apply State.takeIn_keeps
    | with_reducible apply State.vecAck_keeps | with_reducible apply State.vecGive_keeps
    | with_reducible apply State.updRing_keeps | with_reducible apply KeepsOut.next | intro _ | split)

theorem execFordInRowPut_keeps (ring : Nat) {s : State} :
    KeepsOut s (execFordInRowPut ring s) := by
  unfold execFordInRowPut
  have h := Keeps.refl s
  try dsimp only
  repeat' (first
    | with_reducible assumption | with_reducible apply State.onEntry_keeps | with_reducible apply State.takeIn_keeps
    | with_reducible apply State.fordAnswer_keeps | with_reducible apply KeepsOut.next | intro _ | split)

theorem State.fordFinish_keeps {s0 s : State} (r : Nat) (ring : Ring) (x : Exchange) (e : Bytes) (datapath : Bool) (h : Keeps s0 s) :
    Keeps s0 (State.fordFinish s r ring x e datapath) := by
  unfold State.fordFinish
  try dsimp only
  repeat' (first
    | with_reducible assumption | with_reducible apply State.dropExchange_keeps
    | with_reducible apply State.error_keeps | with_reducible apply State.fordEnd_keeps
    | with_reducible apply State.updRing_keeps | with_reducible apply State.fordStore_keeps | split)

theorem execFordInAnswer_keeps (ring : Nat) (datapath : Bool) {s : State} :
    KeepsOut s (execFordInAnswer ring datapath s) := by
  unfold execFordInAnswer
  have h := Keeps.refl s
  try dsimp only
  repeat' (first
    | with_reducible assumption | with_reducible apply State.onEntry_keeps | with_reducible apply State.takeIn_keeps
    | with_reducible apply State.ringError_keeps | with_reducible apply State.fordFinish_keeps
    | with_reducible apply State.fordPump_keeps | with_reducible apply State.closeRing_keeps
    | with_reducible apply State.updRing_keeps | with_reducible apply KeepsOut.next | intro _ | split)

theorem execFordExchangeTimeout_keeps (ring : Nat) (xid : Nat) {s : State} :
    KeepsOut s (execFordExchangeTimeout ring xid s) := by
  unfold execFordExchangeTimeout
  have h := Keeps.refl s
  try dsimp only
  repeat' (first
    | with_reducible assumption | with_reducible apply State.advanceTo_keeps
    | with_reducible apply State.dropExchange_keeps | with_reducible apply State.fordEnd_keeps
    | with_reducible apply State.fordPump_keeps | with_reducible apply State.closeRing_keeps
    | with_reducible apply KeepsOut.next | split)

theorem State.openStream_keeps {s0 s : State} (v : Nat) (p : Bytes) (h : Keeps s0 s) :
    KeepsRes s0 (State.openStream s v p) := by
  unfold State.openStream
  try dsimp only
  repeat' (first
    | with_reducible assumption | with_reducible apply State.updSet_keeps
    | with_reducible refine State.setCore_keeps ?_ rfl rfl | with_reducible apply KeepsRes.fail
    | with_reducible apply KeepsRes.okay | split)

theorem hwtStreamOpen_keeps {s0 s : State} (r : Req) (h : Keeps s0 s) :
    KeepsRes s0 (hwtStreamOpen.run r s) := by
  unfold hwtStreamOpen
  try dsimp only
  repeat' (first
    | with_reducible assumption | with_reducible apply State.openStream_keeps
    | with_reducible apply State.updStream_keeps | with_reducible apply KeepsRes.fail
    | with_reducible apply KeepsRes.okay | with_reducible apply KeepsRes.pend | split)

theorem execHwtStreamOpen_keeps (via : Via) {s : State} : KeepsOut s (execHwtStreamOpen via s) := serve_keeps hwtStreamOpen_keeps

theorem hwtStreamClose_keeps {s0 s : State} (r : Req) (h : Keeps s0 s) :
    KeepsRes s0 (hwtStreamClose.run r s) := by
  unfold hwtStreamClose
  try dsimp only
  repeat' (first
    | with_reducible assumption | with_reducible apply State.updStream_keeps | with_reducible apply State.done_keeps
    | with_reducible apply KeepsRes.fail | with_reducible apply KeepsRes.okay | with_reducible apply KeepsRes.pend
    | (simp only [keepsRes_mk]; with_reducible refine ⟨?_, ?_⟩) | intro _ | split)

theorem execHwtStreamClose_keeps (via : Via) {s : State} : KeepsOut s (execHwtStreamClose via s) := serve_keeps hwtStreamClose_keeps

theorem execHwtStreamShutdownDone_keeps (stream : Nat) {s : State} :
    KeepsOut s (execHwtStreamShutdownDone stream s) := by
  unfold execHwtStreamShutdownDone
  have h := Keeps.refl s
  try dsimp only
  repeat' (first
    | with_reducible assumption | with_reducible apply State.updStream_keeps | with_reducible apply State.done_keeps
    | with_reducible apply State.openStream_keeps | with_reducible apply KeepsOut.next
    | with_reducible apply KeepsRes.s | with_reducible apply Keeps.foldl | intro _ | split)

theorem State.reply_keeps {s0 s : State} (ep : Nat) (m : NetMsg) (msg : Bytes) (h : Keeps s0 s) :
    Keeps s0 (State.reply s ep m msg) := by
  unfold State.reply
  try dsimp only
  repeat' (first
    | with_reducible assumption | with_reducible apply State.emit_keeps)

theorem State.spendRecord_keeps {s0 s : State} (e v : Nat) (h : Keeps s0 s) : Keeps s0 (State.spendRecord s e v) := by
  unfold State.spendRecord
  exact State.setCore_keeps h rfl rfl

theorem State.takeRecord_keeps {s0 s : State} (n : Nat) (x : Stream) (b : Bytes) (h : Keeps s0 s) :
    Keeps s0 (State.takeRecord s n x b).1 := by
  unfold State.takeRecord
  try dsimp only
  repeat' (first
    | with_reducible assumption | with_reducible apply State.updSet_keeps | with_reducible apply State.spendRecord_keeps
    | with_reducible apply State.updSq_keeps | with_reducible apply State.updCq_keeps | with_reducible apply State.updStream_keeps
    | with_reducible refine State.setCore_keeps ?_ rfl rfl | split)

theorem State.tell_keeps {s0 s : State} (b : Bytes) (code : Nat) (t : Teller) (h : Keeps s0 s) :
    Keeps s0 (s.tell b code t) := by
  unfold State.tell
  split
  · split
    · exact State.setCore_keeps h rfl rfl
    · exact h
  · exact State.send_keeps _ h
  · split
    · exact State.reply_keeps _ _ _ h
    · exact h

theorem State.endRecord_keeps {s0 s : State} (n : Nat) (x : Stream) (b : Bytes) (t : Option Teller) (code : Nat) (h : Keeps s0 s) :
    Keeps s0 (State.endRecord s n x b t code) := by
  unfold State.endRecord
  try dsimp only
  repeat' (first
    | with_reducible assumption | with_reducible apply State.updStream_keeps
    | with_reducible apply State.syncAdd_keeps | with_reducible apply State.tell_keeps
    | (simp only [keeps_mk]; with_reducible refine KeepsLit.of ?_ rfl rfl rfl rfl rfl rfl) | split)

theorem State.copyBlock_keeps {s0 s : State} (src : Nat) (dst : Nat) (n : Nat) (h : Keeps s0 s) :
    Keeps s0 (State.copyBlock s src dst n) := by
  unfold State.copyBlock
  try dsimp only
  repeat' (first
    | with_reducible assumption | with_reducible apply State.poison_keeps
    | with_reducible apply State.writeThrough_keeps | with_reducible apply Keeps.foldl | intro _)

theorem State.fillDefault_keeps {s0 s : State} (t : Table) (r : StoredRow) (slot : Nat) (dst : Nat) (h : Keeps s0 s) :
    Keeps s0 (State.fillDefault s t r slot dst) := by
  unfold State.fillDefault
  try dsimp only
  repeat' (first
    | with_reducible assumption | with_reducible apply State.putRow_keeps
    | with_reducible apply State.writeThrough_keeps | with_reducible apply Keeps.foldl | intro _)

theorem State.pendingBlock_keeps {s0 s : State} (x : Stream) (y : TSet) (t : Table) (key e : Nat) (dflt : Option StoredRow)
    (h : Keeps s0 s) : ∀ p, s.pendingBlock x y t key e dflt = some p → Keeps s0 p.1 := by
  intro p q
  unfold State.pendingBlock at q
  dsimp only at q
  split at q
  · injection q with q; subst q; exact h
  · split at q
    · contradiction
    · split at q
      · contradiction
      · split at q
        · injection q with q; subst q; exact State.fillDefault_keeps _ _ _ _ (State.setCore_keeps h rfl rfl)
        · injection q with q; subst q; exact State.copyBlock_keeps _ _ _ (State.setCore_keeps h rfl rfl)

theorem State.recordData_keeps {s0 s : State} (x : Stream) (t : Table) (b : Bytes) (mode : Nat) (h : Keeps s0 s) :
    Keeps s0 (State.recordData s x t b mode).1 := by
  unfold State.recordData
  try dsimp only
  repeat' (first
    | with_reducible assumption | with_reducible apply State.error_keeps | with_reducible apply State.fetch_keeps
    | split)

theorem State.updateRow_keeps {s0 s : State} (x : Stream) (y : TSet) (t : Table) (b : Bytes) (u : Update) (en : Nat)
    (old dflt : Option StoredRow) (h : Keeps s0 s) : Keeps s0 (s.updateRow x y t b u en old dflt).1 := by
  unfold State.updateRow
  dsimp only
  have g := State.pendingBlock_keeps x y t (slotKey (recTable b) (recRow b / 2 ^ t.shift)) en dflt h
  generalize s.pendingBlock x y t (slotKey (recTable b) (recRow b / 2 ^ t.shift)) en dflt = o at g ⊢
  split
  · split
    · split
      · exact h
      · exact State.putRow_keeps _ _ _ _ _ _ (g _ rfl)
    · exact h
  · rename_i r
    generalize (if isMx t.fmt then t.blocksOf r.payload else r.scales) = sc
    split
    · exact h
    · split
      · exact h
      · exact State.putRow_keeps _ _ _ _ _ _ (g _ rfl)

theorem State.applyUpdate_keeps {s0 s : State} (x : Stream) (e : Nat) (y : TSet) (t : Table) (b : Bytes) (u : Update)
    (h : Keeps s0 s) : Keeps s0 (s.applyUpdate x e y t b u).1 := by
  unfold State.applyUpdate
  dsimp only
  split
  · exact State.recordLost_keeps _ _ _ _ h
  · split
    · exact h
    · split
      · exact h
      · split
        · split
          · rename_i e
            exact State.updateRow_keeps _ _ _ _ _ _ _ _ (Keeps.fst e (State.readDefault_keeps _ _ h))
          · rename_i e
            exact Keeps.fst e (State.readDefault_keeps _ _ h)
        · split
          · exact State.recordLost_keeps _ _ _ _ h
          · exact State.updateRow_keeps _ _ _ _ _ _ _ _ (State.readRow_keeps _ _ _ _ _ h)

theorem State.update_keeps {s0 s : State} (x : Stream) (e : Nat) (b : Bytes) (h : Keeps s0 s) :
    Keeps s0 (s.update x e b).1 := by
  unfold State.update
  split
  · exact h
  · rename_i y t _
    dsimp only
    generalize (if t.scaled then recMode b else 0) = mode
    have g := State.recordData_keeps x t b mode h
    split
    · exact h
    · split
      · exact h
      · split
        · exact g
        · split
          · exact g
          · split
            · exact g
            · exact State.applyUpdate_keeps _ _ _ _ _ _ g

theorem State.exportRow_keeps {s0 s : State} (v : Nat) (e : Nat) (y : TSet) (t : Table) (row : Nat) (h : Keeps s0 s) :
    Keeps s0 (State.exportRow s v e y t row).1 := by
  unfold State.exportRow
  try dsimp only
  repeat' (first
    | with_reducible assumption | with_reducible apply State.recordLost_keeps
    | with_reducible apply State.readDefault_keeps | with_reducible apply State.readRow_keeps
    | with_reducible refine Keeps.fst (by with_reducible assumption) ?_ | split)

theorem State.exportRows_keeps {s0 s : State} (x : Stream) (e : Nat) (b : Bytes) (h : Keeps s0 s) :
    Keeps s0 (State.exportRows s x e b).1 := by
  unfold State.exportRows
  try dsimp only
  repeat' (first
    | with_reducible assumption | with_reducible apply State.error_keeps | with_reducible apply State.exportRow_keeps
    | with_reducible apply State.writeThrough_keeps | with_reducible apply Keeps.foldl1 | intro _ | split)

theorem State.slotFails_keeps {s0 s : State} (v : Nat) (n : Nat) (q : Sq) (h : Keeps s0 s) :
    Keeps s0 (State.slotFails s v n q) := by
  unfold State.slotFails
  try dsimp only
  repeat' (first
    | with_reducible assumption | with_reducible apply State.updSq_keeps | with_reducible apply State.queueError_keeps)

theorem State.recordOf_keeps {s0 s : State} (n : Nat) (x : Stream) (e : Nat) (mine : Nat → Bool)
    {f : Stream → Nat → Bytes → State → State × Nat} (hf : ∀ x e b {t : State}, Keeps s0 t → Keeps s0 (f x e b t).1)
    (h : Keeps s0 s) : Keeps s0 (s.recordOf n x e mine f) := by
  unfold State.recordOf
  split
  · exact h
  · rename_i b _
    split
    · exact h
    · dsimp only
      split
      · exact Keeps.foldl _ h fun _ _ g => State.backInvalidate_keeps _ g
      · have g := hf x e b (State.takeRecord_keeps n x b h)
        refine State.endRecord_keeps _ _ _ _ _ ?_
        split
        · exact State.updSet_keeps _ _ g
        · exact g

theorem State.record_keeps {s0 s : State} (set : Nat) (mine : Nat → Bool)
    {f : Stream → Nat → Bytes → State → State × Nat} (hf : ∀ x e b {t : State}, Keeps s0 t → Keeps s0 (f x e b t).1)
    (h : Keeps s0 s) : Keeps s0 (s.record set mine f) := by
  unfold State.record
  split
  · split
    · split
      · exact State.slotFails_keeps _ _ _ h
      · exact State.recordOf_keeps _ _ _ _ hf h
    · exact State.recordOf_keeps _ _ _ _ hf h
  · exact h

theorem execHwtRecordOverwrite_keeps (set : Nat) {s : State} :
    KeepsOut s (execHwtRecordOverwrite set s) := by
  unfold execHwtRecordOverwrite
  have h := Keeps.refl s
  try dsimp only
  repeat' (first
    | with_reducible assumption | with_reducible apply State.record_keeps | with_reducible apply State.update_keeps
    | with_reducible apply KeepsOut.next | intro _ | split)

theorem execHwtRecordAddDelta_keeps (set : Nat) {s : State} :
    KeepsOut s (execHwtRecordAddDelta set s) := by
  unfold execHwtRecordAddDelta
  have h := Keeps.refl s
  try dsimp only
  repeat' (first
    | with_reducible assumption | with_reducible apply State.record_keeps | with_reducible apply State.update_keeps
    | with_reducible apply KeepsOut.next | intro _)

theorem execHwtRecordExport_keeps (set : Nat) {s : State} :
    KeepsOut s (execHwtRecordExport set s) := by
  unfold execHwtRecordExport
  have h := Keeps.refl s
  try dsimp only
  repeat' (first
    | with_reducible assumption | with_reducible apply State.record_keeps
    | with_reducible apply State.exportRows_keeps | with_reducible apply KeepsOut.next | intro _)

theorem execHwtRecordFence_keeps (set : Nat) {s : State} :
    KeepsOut s (execHwtRecordFence set s) := by
  unfold execHwtRecordFence
  have h := Keeps.refl s
  try dsimp only
  repeat' (first
    | with_reducible assumption | with_reducible apply State.record_keeps | with_reducible apply KeepsOut.next
    | intro _)

theorem execHeadwaterEngineFault_keeps (engine : Nat) (set : Option Nat) {s : State} :
    KeepsOut s (execHeadwaterEngineFault engine set s) := by
  unfold execHeadwaterEngineFault
  have h := Keeps.refl s
  try dsimp only
  repeat' (first
    | with_reducible assumption | with_reducible apply State.record_keeps | with_reducible apply State.error_keeps
    | with_reducible apply KeepsOut.next | intro _ | split)

theorem State.endAdvance_keeps {s0 s : State} (set : Nat) (st : St) (h : Keeps s0 s) :
    Keeps s0 (State.endAdvance s set st) := by
  unfold State.endAdvance
  try dsimp only
  repeat' (first
    | with_reducible assumption | with_reducible apply State.updSet_keeps | with_reducible apply State.updValley_keeps
    | with_reducible apply State.doneOpt_keeps | split)

theorem State.acceptAdvance_keeps {s0 s : State} (set : Nat) (x : TSet) (done : Option Deferred) (retain : Nat) (own : Bool) (h : Keeps s0 s) :
    Keeps s0 (State.acceptAdvance s set x done retain own) := by
  unfold State.acceptAdvance
  try dsimp only
  repeat' (first
    | with_reducible assumption | with_reducible apply State.updSet_keeps | with_reducible apply State.arm_keeps
    | with_reducible apply State.expire_keeps | with_reducible apply State.seal_keeps | split)

theorem State.register_keeps {s0 s : State} (set : Nat) (j : Nat) (h : Keeps s0 s) :
    KeepsOpt s0 (State.register s set j) := by
  unfold State.register
  try dsimp only
  repeat' (first
    | with_reducible assumption | with_reducible apply State.updSet_keeps
    | with_reducible refine State.setCore_keeps ?_ rfl rfl | with_reducible exact KeepsOpt.none _
    | with_reducible apply KeepsOpt.some | split)

theorem epochAdvance_keeps {s0 s : State} (r : Req) (h : Keeps s0 s) :
    KeepsRes s0 (epochAdvance.run r s) := by
  unfold epochAdvance
  try dsimp only
  repeat' (first
    | with_reducible assumption | with_reducible apply State.register_keeps
    | with_reducible apply State.acceptAdvance_keeps | with_reducible apply KeepsRes.fail
    | with_reducible apply KeepsRes.field | (simp only [keepsRes_mk]; with_reducible refine ⟨?_, ?_⟩)
    | with_reducible refine Keeps.ofOpt (by with_reducible assumption) ?_ | intro _ | split)

theorem execEpochAdvance_keeps (via : Via) {s : State} : KeepsOut s (execEpochAdvance via s) := serve_keeps epochAdvance_keeps

theorem execEpochSealStaged_keeps (set : Nat) {s : State} :
    KeepsOut s (execEpochSealStaged set s) := by
  unfold execEpochSealStaged
  have h := Keeps.refl s
  try dsimp only
  repeat' (first
    | with_reducible assumption | with_reducible apply State.updSet_keeps | with_reducible apply KeepsOut.next)

theorem State.publishMoves_keeps {s0 s : State} (set : Nat) (x : TSet) (target : Nat) (h : Keeps s0 s) :
    Keeps s0 (State.publishMoves s set x target) := by
  unfold State.publishMoves
  try dsimp only
  repeat' (first
    | with_reducible assumption | with_reducible apply State.mapMoves_keeps | split)

theorem State.writeHalf_keeps {s0 s : State} (x : TSet) (target : Nat) (e : Nat × Nat × Option Nat) (h : Keeps s0 s) :
    Keeps s0 (State.writeHalf s x target e) := by
  unfold State.writeHalf
  try dsimp only
  repeat' (first
    | with_reducible assumption | with_reducible apply State.setMapEntry_keeps | split)

theorem State.catchHeader_keeps {s0 s : State} (set : Nat) (x : TSet) (target : Nat) (h : Keeps s0 s) :
    Keeps s0 (State.catchHeader s set x target) := by
  unfold State.catchHeader
  try dsimp only
  repeat' (first
    | with_reducible assumption | with_reducible apply State.putSession_keeps
    | with_reducible apply State.putHeader_keeps | split)

theorem execEpochCatchupDone_keeps (set : Nat) {s : State} :
    KeepsOut s (execEpochCatchupDone set s) := by
  unfold execEpochCatchupDone
  have h := Keeps.refl s
  try dsimp only
  repeat' (first
    | with_reducible assumption | with_reducible apply State.endAdvance_keeps
    | with_reducible apply State.checkJournals_keeps | with_reducible apply State.writeHalf_keeps
    | with_reducible apply State.updSet_keeps | with_reducible apply State.publishMoves_keeps
    | with_reducible apply State.catchHeader_keeps | with_reducible apply State.ready_keeps
    | with_reducible apply KeepsOut.next | with_reducible apply Keeps.foldl | intro _ | split)

theorem epochQuery_keeps {s0 s : State} (r : Req) (h : Keeps s0 s) :
    KeepsRes s0 (epochQuery.run r s) := by
  unfold epochQuery
  try dsimp only
  repeat' (first
    | with_reducible assumption | with_reducible apply KeepsRes.fail | with_reducible apply KeepsRes.okay | split)

theorem execEpochQuery_keeps (via : Via) {s : State} : KeepsOut s (execEpochQuery via s) := serve_keeps epochQuery_keeps

theorem reflowStart_keeps {field : Req → State → Option Nat} {run : Req → State → TSet → Table → Res} {s0 s : State} (r : Req)
    (hr : ∀ r x t {s : State}, Keeps s0 s → KeepsRes s0 (run r s x t)) (h : Keeps s0 s) :
    KeepsRes s0 ((reflowStart field run).run r s) := by
  unfold reflowStart
  dsimp only
  split
  · exact .fail h
  · split
    · exact .fail h
    · exact hr _ _ _ h

theorem startPlan_keeps {s0 s : State} (r : Req) (x : TSet) (y1 : Table) (h : Keeps s0 s) :
    KeepsRes s0 (startPlan r s x y1) := by
  unfold startPlan
  try dsimp only
  repeat' (first
    | with_reducible assumption | with_reducible apply State.register_keeps
    | with_reducible apply State.putSession_keeps | with_reducible refine State.setCore_keeps ?_ rfl rfl
    | with_reducible apply KeepsRes.fail | with_reducible apply KeepsRes.pend
    | with_reducible refine Keeps.ofOpt (by with_reducible assumption) ?_ | split)

theorem execReflowStartPlan_keeps (via : Via) (s : State) : KeepsOut s (execReflowStartPlan via s) :=
  serveIf_keeps (.refl _) fun r h => reflowStart_keeps r (fun r x t _ g => startPlan_keeps r x t g) h

theorem startTrack_keeps {s0 s : State} (r : Req) (y1 : TSet) (y2 : Table) (h : Keeps s0 s) :
    KeepsRes s0 (startTrack r s y1 y2) := by
  unfold startTrack
  try dsimp only
  repeat' (first
    | with_reducible assumption | with_reducible refine State.setCore_keeps ?_ rfl rfl
    | with_reducible apply KeepsRes.fail | with_reducible apply KeepsRes.pend | split)

theorem execReflowStartTrack_keeps (via : Via) (s : State) : KeepsOut s (execReflowStartTrack via s) :=
  serveIf_keeps (.refl _) fun r h => reflowStart_keeps r (fun r x t _ g => startTrack_keeps r x t g) h

theorem State.blockGood_keeps {s0 s : State} (r : Reader) (t : Table) (base : Nat) (slot : Nat) (h : Keeps s0 s) :
    Keeps s0 (State.blockGood s r t base slot).1 := by
  unfold State.blockGood
  try dsimp only
  repeat' (first
    | with_reducible assumption | with_reducible apply State.readRow_keeps | with_reducible apply Keeps.foldl1
    | with_reducible refine Keeps.fst (by with_reducible assumption) ?_ | intro _ | split)

theorem State.copyMove_keeps {s0 s : State} (v : Nat) (engine : Nat) (y : Session) (t : Table) (m : Move) (h : Keeps s0 s) :
    Keeps s0 (State.copyMove s v engine y t m).1 := by
  unfold State.copyMove
  try dsimp only
  repeat' (first
    | with_reducible assumption | with_reducible apply State.blockGood_keeps
    | with_reducible apply State.copyBlock_keeps | with_reducible apply State.stageEntry_keeps
    | with_reducible refine Keeps.fst (by with_reducible assumption) ?_ | split)

theorem State.copyStep_keeps {s0 s : State} (v : Nat) (y : Session) (t : Table) (h : Keeps s0 s) :
    Keeps s0 (State.copyStep s v y t) := by
  unfold State.copyStep
  try dsimp only
  repeat' (first
    | with_reducible assumption | with_reducible apply State.copyMove_keeps
    | with_reducible apply State.setSession_keeps | with_reducible apply State.putSession_keeps
    | with_reducible apply State.endIfDone_keeps | with_reducible apply Keeps.foldl | intro _ | split)

theorem State.ownAdvance_keeps {s0 s : State} (set : Nat) (h : Keeps s0 s) :
    Keeps s0 (State.ownAdvance s set) := by
  unfold State.ownAdvance
  try dsimp only
  repeat' (first
    | with_reducible assumption | with_reducible apply State.acceptAdvance_keeps | split)

theorem execReflowStepCopied_keeps (set : Nat) {s : State} :
    KeepsOut s (execReflowStepCopied set s) := by
  unfold execReflowStepCopied
  have h := Keeps.refl s
  try dsimp only
  repeat' (first
    | with_reducible assumption | with_reducible apply State.faultSession_keeps
    | with_reducible apply State.copyStep_keeps | with_reducible apply State.ownAdvance_keeps
    | with_reducible apply KeepsOut.next | split)

theorem reflowResume_keeps {s0 s : State} (r : Req) (h : Keeps s0 s) :
    KeepsRes s0 (reflowResume.run r s) := by
  unfold reflowResume
  try dsimp only
  repeat' (first
    | with_reducible assumption | with_reducible apply State.register_keeps
    | with_reducible apply State.putSession_keeps | with_reducible apply State.endIfDone_keeps
    | with_reducible refine State.setCore_keeps ?_ rfl rfl | with_reducible apply KeepsRes.fail
    | (simp only [keepsRes_mk]; with_reducible refine ⟨?_, ?_⟩)
    | with_reducible refine Keeps.ofOpt (by with_reducible assumption) ?_ | intro _ | split)

theorem execReflowResume_keeps (via : Via) {s : State} : KeepsOut s (execReflowResume via s) := serve_keeps reflowResume_keeps

theorem State.abandon_keeps {s0 s : State} (y : Session) (d : Deferred) (h : Keeps s0 s) :
    Keeps s0 (State.abandon s y d) := by
  unfold State.abandon
  try dsimp only
  repeat' (first
    | with_reducible assumption | with_reducible apply State.discardCopies_keeps
    | with_reducible apply State.setSession_keeps | with_reducible apply State.putSession_keeps
    | with_reducible apply State.endIfDone_keeps)

theorem State.abandonJournal_keeps {s0 s : State} (j : Nat) (h : Keeps s0 s) :
    Keeps s0 (State.abandonJournal s j) := by
  unfold State.abandonJournal
  try dsimp only
  repeat' (first
    | with_reducible assumption | with_reducible apply State.putHeader_keeps
    | with_reducible apply State.putMove_keeps | with_reducible apply State.dropJournal_keeps
    | with_reducible apply Keeps.foldl | intro _ | split)

theorem reflowAbandon_keeps {s0 s : State} (r : Req) (h : Keeps s0 s) :
    KeepsRes s0 (reflowAbandon.run r s) := by
  unfold reflowAbandon
  try dsimp only
  repeat' (first
    | with_reducible assumption | with_reducible apply State.endSession_keeps
    | with_reducible apply State.doneOpt_keeps | with_reducible apply State.done_keeps
    | with_reducible apply State.abandonJournal_keeps | with_reducible apply State.abandon_keeps
    | with_reducible apply State.updSet_keeps | with_reducible apply KeepsRes.fail
    | with_reducible apply KeepsRes.okay | (simp only [keepsRes_mk]; with_reducible refine ⟨?_, ?_⟩) | intro _ | split)

theorem execReflowAbandon_keeps (via : Via) {s : State} : KeepsOut s (execReflowAbandon via s) := serve_keeps reflowAbandon_keeps

theorem reflowQuery_keeps {s0 s : State} (r : Req) (h : Keeps s0 s) :
    KeepsRes s0 (reflowQuery.run r s) := by
  unfold reflowQuery
  try dsimp only
  repeat' (first
    | with_reducible assumption | with_reducible apply KeepsRes.okay)

theorem execReflowQuery_keeps (via : Via) {s : State} : KeepsOut s (execReflowQuery via s) := serve_keeps reflowQuery_keeps

end Sys2Proof.Machine
end

