-- ==== Sys2Proof/Laws/KeepsCanyon.lean ====
section
/-! SUPPORT. Every definition of the remote operations this device serves, Canyon and the network keeps the fused identity, the waiting commands and
canonical memories ("Keeps", Sys2Proof/Safety.lean). -/
namespace Sys2Proof.Machine
open Sys2Proof

theorem State.peerAddress_keeps {s0 s : State} (src : Nat) (tag : Nat) (kind : Nat) (msg : Bytes) (h : Keeps s0 s) :
    Keeps s0 (State.peerAddress s src tag kind msg) := by
  unfold State.peerAddress
  try dsimp only
  repeat' (first
    | with_reducible assumption | with_reducible apply State.error_keeps | with_reducible apply State.sendError_keeps)

theorem State.readRequest_keeps {s0 s : State} (src : Nat) (tag : Nat) (msg : Bytes) (h : Keeps s0 s) :
    Keeps s0 (State.readRequest s src tag msg) := by
  unfold State.readRequest
  try dsimp only
  repeat' (first
    | with_reducible assumption | with_reducible apply State.sendError_keeps
    | with_reducible apply State.peerAddress_keeps | with_reducible apply State.error_keeps
    | with_reducible apply State.fetch_keeps | with_reducible apply State.send_keeps | split)

theorem execPassReadRequest_keeps (src : Nat) (tag : Nat) (msg : Bytes) {s : State} :
    KeepsOut s (execPassReadRequest src tag msg s) := by
  unfold execPassReadRequest
  have h := Keeps.refl s
  try dsimp only
  repeat' (first
    | with_reducible assumption | with_reducible apply State.readRequest_keeps | with_reducible apply KeepsOut.next)

theorem State.writeRequest_keeps {s0 s : State} (src : Nat) (tag : Nat) (msg : Bytes) (poison : Bool) (h : Keeps s0 s) :
    Keeps s0 (State.writeRequest s src tag msg poison) := by
  unfold State.writeRequest
  try dsimp only
  repeat' (first
    | with_reducible assumption | with_reducible apply State.sendError_keeps
    | with_reducible apply State.peerAddress_keeps | with_reducible apply State.poison_keeps
    | with_reducible apply State.writeThrough_keeps | with_reducible apply State.send_keeps | split)

theorem execPassWriteRequest_keeps (src : Nat) (tag : Nat) (msg : Bytes) (poison : Bool) {s : State} :
    KeepsOut s (execPassWriteRequest src tag msg poison s) := by
  unfold execPassWriteRequest
  have h := Keeps.refl s
  try dsimp only
  repeat' (first
    | with_reducible assumption | with_reducible apply State.writeRequest_keeps | with_reducible apply KeepsOut.next)

theorem State.pushRequest_keeps {s0 s : State} (src : Nat) (tag : Nat) (msg : Bytes) (h : Keeps s0 s) :
    Keeps s0 (State.pushRequest s src tag msg) := by
  unfold State.pushRequest
  try dsimp only
  repeat' (first
    | with_reducible assumption | with_reducible apply State.sendError_keeps
    | with_reducible apply State.updStream_keeps | with_reducible apply State.send_keeps | split)

theorem execPassPushRequest_keeps (src : Nat) (tag : Nat) (msg : Bytes) {s : State} :
    KeepsOut s (execPassPushRequest src tag msg s) := by
  unfold execPassPushRequest
  have h := Keeps.refl s
  try dsimp only
  repeat' (first
    | with_reducible assumption | with_reducible apply State.pushRequest_keeps | with_reducible apply KeepsOut.next)

theorem State.readData_keeps {s0 s : State} (m : Remote) (d : Bytes) (h : Keeps s0 s) :
    Keeps s0 (State.readData s m d) := by
  unfold State.readData
  try dsimp only
  repeat' (first
    | with_reducible assumption | with_reducible apply State.updThread_keeps | with_reducible apply State.settle_keeps
    | with_reducible apply State.updBag_keeps | with_reducible apply State.resolveBag_keeps
    | with_reducible apply State.updPlain_keeps | with_reducible apply State.updCtx_keeps | split)

theorem State.errorAnswer_keeps {s0 s : State} (src : Nat) (msg : Bytes) (h : Keeps s0 s) :
    Keeps s0 (State.errorAnswer s src msg) := by
  unfold State.errorAnswer
  try dsimp only
  repeat' (first
    | with_reducible assumption | with_reducible apply State.dropRemote_keeps
    | with_reducible apply State.remoteFails_keeps | split)

theorem State.answer_keeps {s0 s : State} (src : Nat) (kind : Nat) (msg : Bytes) (poison : Bool) (h : Keeps s0 s) :
    Keeps s0 (State.answer s src kind msg poison) := by
  unfold State.answer
  try dsimp only
  repeat' (first
    | with_reducible assumption | with_reducible apply State.errorAnswer_keeps
    | with_reducible apply State.dropRemote_keeps | with_reducible apply State.remoteFails_keeps
    | with_reducible apply State.lookupAnswer_keeps | with_reducible apply State.signalAnswer_keeps
    | with_reducible apply State.readData_keeps | with_reducible apply State.settle_keeps | split)

theorem execPassAnswerReceive_keeps (src : Nat) (kind : Nat) (msg : Bytes) (poison : Bool) {s : State} :
    KeepsOut s (execPassAnswerReceive src kind msg poison s) := by
  unfold execPassAnswerReceive
  have h := Keeps.refl s
  try dsimp only
  repeat' (first
    | with_reducible assumption | with_reducible apply State.answer_keeps | with_reducible apply KeepsOut.next)

theorem State.dropPacket_keeps {s0 s : State} (h : Keeps s0 s) :
    Keeps s0 (State.dropPacket s) := by
  unfold State.dropPacket
  try dsimp only
  repeat' (first
    | with_reducible assumption | (simp only [keeps_mk]; with_reducible refine KeepsLit.of ?_ rfl rfl rfl rfl rfl rfl))

theorem State.terminate_keeps {s0 s : State} (p : Packet) (h : Keeps s0 s) :
    Keeps s0 (State.terminate s p) := by
  unfold State.terminate
  try dsimp only
  repeat' (first
    | with_reducible assumption | with_reducible apply State.dropPacket_keeps
    | with_reducible apply State.sendError_keeps | with_reducible apply State.answer_keeps
    | with_reducible apply State.writeRequest_keeps | with_reducible apply State.lookupRequest_keeps
    | with_reducible apply State.signalRequest_keeps | with_reducible apply State.readRequest_keeps
    | with_reducible apply State.pushRequest_keeps | split)

theorem State.undeliverable_keeps {s0 s : State} (p : Packet) (h : Keeps s0 s) :
    Keeps s0 (State.undeliverable s p) := by
  unfold State.undeliverable
  try dsimp only
  repeat' (first
    | with_reducible assumption | with_reducible apply State.sendError_keeps | split)

theorem State.setCyn_keeps {s0 s : State} (c : Nat) (x : CynCtx) (h : Keeps s0 s) :
    Keeps s0 (State.setCyn s c x) := by
  unfold State.setCyn
  try dsimp only
  repeat' (first
    | with_reducible assumption | (simp only [keeps_mk]; with_reducible refine KeepsLit.of ?_ rfl rfl rfl rfl rfl rfl))

theorem State.updCyn_keeps {s0 s : State} (c : Nat) (f : CynCtx → CynCtx) (h : Keeps s0 s) :
    Keeps s0 (State.updCyn s c f) := by
  unfold State.updCyn
  try dsimp only
  repeat' (first
    | with_reducible assumption | with_reducible apply State.setCyn_keeps | split)

theorem State.tripleLevel_keeps {s0 s : State} (c : Nat) (h : Keeps s0 s) :
    Keeps s0 (State.tripleLevel s c) := by
  unfold State.tripleLevel
  try dsimp only
  repeat' (first
    | with_reducible assumption | with_reducible apply State.setCyn_keeps | with_reducible apply State.event_keeps
    | split)

theorem State.enableCyn_keeps {s0 s : State} (p : Bytes) (h : Keeps s0 s) :
    KeepsRes s0 (State.enableCyn s p) := by
  unfold State.enableCyn
  try dsimp only
  repeat' (first
    | with_reducible assumption | with_reducible apply State.zeroFill_keeps | with_reducible apply State.setCyn_keeps
    | with_reducible apply KeepsRes.fail | with_reducible apply KeepsRes.okay | with_reducible apply Keeps.foldl
    | (simp only [keeps_mk]; with_reducible refine KeepsLit.of ?_ rfl rfl rfl rfl rfl rfl) | intro _ | split)

theorem cynCtxEnable_keeps {s0 s : State} (r : Req) (h : Keeps s0 s) :
    KeepsRes s0 (cynCtxEnable.run r s) := by
  unfold cynCtxEnable
  try dsimp only
  repeat' (first
    | with_reducible assumption | with_reducible apply State.enableCyn_keeps | with_reducible apply State.setCyn_keeps
    | with_reducible apply KeepsRes.fail | with_reducible apply KeepsRes.okay | with_reducible apply KeepsRes.pend
    | split)

theorem execCynCtxEnable_keeps (via : Via) {s : State} : KeepsOut s (execCynCtxEnable via s) := serve_keeps cynCtxEnable_keeps

theorem cynCtxDisable_keeps {s0 s : State} (r : Req) (h : Keeps s0 s) :
    KeepsRes s0 (cynCtxDisable.run r s) := by
  unfold cynCtxDisable
  try dsimp only
  repeat' (first
    | with_reducible assumption | with_reducible apply State.setCyn_keeps | with_reducible apply State.done_keeps
    | with_reducible apply KeepsRes.okay | with_reducible apply KeepsRes.pend
    | (simp only [keepsRes_mk]; with_reducible refine ⟨?_, ?_⟩) | intro _ | split)

theorem execCynCtxDisable_keeps (via : Via) {s : State} : KeepsOut s (execCynCtxDisable via s) := serve_keeps cynCtxDisable_keeps

theorem execCynCtxShutdownDone_keeps (ctx : Nat) {s : State} :
    KeepsOut s (execCynCtxShutdownDone ctx s) := by
  unfold execCynCtxShutdownDone
  have h := Keeps.refl s
  try dsimp only
  repeat' (first
    | with_reducible assumption | with_reducible apply State.zeroFill_keeps | with_reducible apply State.done_keeps
    | with_reducible apply State.enableCyn_keeps | with_reducible apply KeepsOut.next
    | with_reducible apply KeepsRes.s | with_reducible apply Keeps.foldl
    | (simp only [keeps_mk]; with_reducible refine KeepsLit.of ?_ rfl rfl rfl rfl rfl rfl) | intro _ | split)

theorem State.loadKey_keeps {s0 s : State} (c : Nat) (x : CynCtx) (p : Bytes) (h : Keeps s0 s) :
    Keeps s0 (State.loadKey s c x p).1 := by
  unfold State.loadKey
  try dsimp only
  repeat' (first
    | with_reducible assumption | with_reducible apply State.setCyn_keeps | with_reducible apply State.zeroFill_keeps
    | with_reducible apply State.writeThrough_keeps | with_reducible apply State.updCyn_keeps | split)

theorem cynKeyLoad_keeps {s0 s : State} (r : Req) (h : Keeps s0 s) :
    KeepsRes s0 (cynKeyLoad.run r s) := by
  unfold cynKeyLoad
  try dsimp only
  repeat' (first
    | with_reducible assumption | with_reducible apply State.loadKey_keeps | with_reducible apply State.done_keeps
    | with_reducible apply KeepsRes.fail | (simp only [keepsRes_mk]; with_reducible refine ⟨?_, ?_⟩) | intro _ | split)

theorem execCynKeyLoad_keeps (via : Via) {s : State} : KeepsOut s (execCynKeyLoad via s) := serve_keeps cynKeyLoad_keeps

theorem cynTriplesLoad_keeps {s0 s : State} (r : Req) (h : Keeps s0 s) :
    KeepsRes s0 (cynTriplesLoad.run r s) := by
  unfold cynTriplesLoad
  try dsimp only
  repeat' (first
    | with_reducible assumption | with_reducible apply State.writeThrough_keeps
    | with_reducible apply State.setCyn_keeps | with_reducible apply State.tripleLevel_keeps
    | with_reducible apply KeepsRes.fail | with_reducible apply KeepsRes.okay | with_reducible apply Keeps.foldl
    | intro _ | split)

theorem execCynTriplesLoad_keeps (via : Via) {s : State} : KeepsOut s (execCynTriplesLoad via s) := serve_keeps cynTriplesLoad_keeps

theorem cynQuery_keeps {s0 s : State} (r : Req) (h : Keeps s0 s) :
    KeepsRes s0 (cynQuery.run r s) := by
  unfold cynQuery
  try dsimp only
  repeat' (first
    | with_reducible assumption | with_reducible apply KeepsRes.okay)

theorem execCynQuery_keeps (via : Via) {s : State} : KeepsOut s (execCynQuery via s) := serve_keeps cynQuery_keeps

theorem State.scoreRow_keeps {s0 s : State} (rd : Reader) (key : Nat) (t : Table) (epoch : Nat) (row : Nat) (h : Keeps s0 s) :
    Keeps s0 (State.scoreRow s rd key t epoch row).1 := by
  unfold State.scoreRow
  try dsimp only
  repeat' (first
    | with_reducible assumption | with_reducible apply State.localRow_keeps
    | with_reducible apply State.drawBytes_keeps | with_reducible refine Keeps.fst (by with_reducible assumption) ?_
    | split)

theorem State.scoreGather_keeps {s0 s : State} (r : Request) (d : Bytes) (log2 : Nat) (idx : Nat) (h : Keeps s0 s) :
    Keeps s0 (State.scoreGather s r d log2 idx).1 := by
  unfold State.scoreGather
  try dsimp only
  repeat' (first
    | with_reducible assumption | with_reducible apply State.recordAccess_keeps
    | with_reducible apply State.fetch_keeps | with_reducible apply State.updTable_keeps
    | with_reducible apply State.scoreRow_keeps | with_reducible apply Keeps.foldl1
    | with_reducible refine Keeps.fst (by with_reducible assumption) ?_ | intro _ | split)

theorem State.cynRefused_keeps {s0 s : State} (i : Nat) (c : Nat) (code : Nat) (level : Bool) (h : Keeps s0 s) :
    Keeps s0 (State.cynRefused s i c code level) := by
  unfold State.cynRefused
  try dsimp only
  repeat' (first
    | with_reducible assumption | with_reducible apply State.updCyn_keeps
    | with_reducible apply State.finishWith_keeps)

theorem State.cynAdmit_keeps {s0 s : State} (op : Nat) (n : Nat) (i : Nat) (r : Request) (hs : List Bytes) (h : Keeps s0 s) :
    Keeps s0 (State.cynAdmit s op n i r hs) := by
  unfold State.cynAdmit
  try dsimp only
  repeat' (first
    | with_reducible assumption | with_reducible apply State.finishWith_keeps
    | with_reducible apply State.recordAccess_keeps | with_reducible apply State.cynRefused_keeps
    | with_reducible apply State.scoreGather_keeps | with_reducible apply State.setCyn_keeps
    | (simp only [keeps_mk]; with_reducible refine KeepsLit.of ?_ rfl rfl rfl rfl rfl rfl)
    | with_reducible refine Keeps.fst (by with_reducible assumption) ?_ | split)

theorem cynKind_keeps (op n : Nat) (i : Nat) (r : Request) (hs : List Bytes) {s0 s : State} (h : Keeps s0 s) :
    Keeps s0 ((cynKind op n).run i r hs s) := by
  unfold cynKind
  try dsimp only
  repeat' (first
    | with_reducible assumption | with_reducible apply State.cynAdmit_keeps)

theorem execCynLinear_keeps (sq : Nat) {s : State} :
    KeepsOut s (execCynLinear sq s) := by
  unfold execCynLinear
  have h := Keeps.refl s
  try dsimp only
  repeat' (first
    | with_reducible apply State.admitOp_keeps | with_reducible apply cynKind_keeps)

theorem execCynMul_keeps (sq : Nat) {s : State} :
    KeepsOut s (execCynMul sq s) := by
  unfold execCynMul
  have h := Keeps.refl s
  try dsimp only
  repeat' (first
    | with_reducible apply State.admitOp_keeps | with_reducible apply cynKind_keeps)

theorem execCynRelin_keeps (sq : Nat) {s : State} :
    KeepsOut s (execCynRelin sq s) := by
  unfold execCynRelin
  have h := Keeps.refl s
  try dsimp only
  repeat' (first
    | with_reducible apply State.admitOp_keeps | with_reducible apply cynKind_keeps)

theorem execCynRescale_keeps (sq : Nat) {s : State} :
    KeepsOut s (execCynRescale sq s) := by
  unfold execCynRescale
  have h := Keeps.refl s
  try dsimp only
  repeat' (first
    | with_reducible apply State.admitOp_keeps | with_reducible apply cynKind_keeps)

theorem execCynScore_keeps (sq : Nat) {s : State} :
    KeepsOut s (execCynScore sq s) := by
  unfold execCynScore
  have h := Keeps.refl s
  try dsimp only
  repeat' (first
    | with_reducible apply State.admitOp_keeps | with_reducible apply cynKind_keeps)

theorem execCynSsLinear_keeps (sq : Nat) {s : State} :
    KeepsOut s (execCynSsLinear sq s) := by
  unfold execCynSsLinear
  have h := Keeps.refl s
  try dsimp only
  repeat' (first
    | with_reducible apply State.admitOp_keeps | with_reducible apply cynKind_keeps)

theorem execCynSsMask_keeps (sq : Nat) {s : State} :
    KeepsOut s (execCynSsMask sq s) := by
  unfold execCynSsMask
  have h := Keeps.refl s
  try dsimp only
  repeat' (first
    | with_reducible apply State.admitOp_keeps | with_reducible apply cynKind_keeps)

theorem execCynSsCombine_keeps (sq : Nat) {s : State} :
    KeepsOut s (execCynSsCombine sq s) := by
  unfold execCynSsCombine
  have h := Keeps.refl s
  try dsimp only
  repeat' (first
    | with_reducible apply State.admitOp_keeps | with_reducible apply cynKind_keeps)

theorem State.cynPoison_keeps {s0 s : State} (j : CynJob) (a : Nat) (h : Keeps s0 s) :
    Keeps s0 (State.cynPoison s j a) := by
  unfold State.cynPoison
  try dsimp only
  repeat' (first
    | with_reducible assumption | with_reducible apply State.error_keeps)

theorem State.cynLoses_keeps {s0 s : State} (j : CynJob) (x : CynCtx) (e : FaultEv) (units : List UnitRef) (h : Keeps s0 s) :
    Keeps s0 (State.cynLoses s j x e units) := by
  unfold State.cynLoses
  try dsimp only
  repeat' (first
    | with_reducible assumption | with_reducible apply State.ctxFault_keeps)

theorem State.cynStart_keeps {s0 s : State} (i : Nat) (j : CynJob) (x : CynCtx) (pipe : Nat) (h : Keeps s0 s) :
    Keeps s0 (State.cynStart s i j x pipe) := by
  unfold State.cynStart
  try dsimp only
  repeat' (first
    | with_reducible assumption | with_reducible apply State.cynLoses_keeps | with_reducible apply State.fetch_keeps
    | with_reducible apply State.cynPoison_keeps | with_reducible apply State.recordAccess_keeps
    | (simp only [keeps_mk]; with_reducible refine KeepsLit.of ?_ rfl rfl rfl rfl rfl rfl) | split)

theorem execCynOperationStart_keeps (valley : Nat × Bool) {s : State} :
    KeepsOut s (execCynOperationStart valley s) := by
  unfold execCynOperationStart
  have h := Keeps.refl s
  try dsimp only
  repeat' (first
    | with_reducible assumption | with_reducible apply State.cynLoses_keeps
    | with_reducible apply State.cynStart_keeps | with_reducible apply State.recall_keeps
    | with_reducible apply KeepsOut.next | with_reducible apply Keeps.foldl | intro _ | split)

theorem State.setTriples_keeps {s0 s : State} (j : CynJob) (x : CynCtx) (st : Nat) (h : Keeps s0 s) :
    Keeps s0 (State.setTriples s j x st) := by
  unfold State.setTriples
  try dsimp only
  repeat' (first
    | with_reducible assumption | with_reducible apply State.writeThrough_keeps | with_reducible apply Keeps.foldl
    | intro _ | split)

theorem State.cynWrite_keeps {s0 s : State} (j : CynJob) (x : CynCtx) (h : Keeps s0 s) :
    Keeps s0 (State.cynWrite s j x) := by
  unfold State.cynWrite
  try dsimp only
  repeat' (first
    | with_reducible assumption | with_reducible apply State.throughFor_keeps
    | with_reducible apply State.setTriples_keeps | with_reducible apply State.tripleLevel_keeps | split)

theorem execCynOperationComplete_keeps (pipe : Nat) (residue : Bool) {s : State} :
    KeepsOut s (execCynOperationComplete pipe residue s) := by
  unfold execCynOperationComplete
  have h := Keeps.refl s
  try dsimp only
  repeat' (first
    | with_reducible assumption | with_reducible apply State.advanceTo_keeps | with_reducible apply State.error_keeps
    | with_reducible apply State.updCyn_keeps | with_reducible apply State.cynWrite_keeps
    | with_reducible apply State.setTriples_keeps | with_reducible apply State.tripleLevel_keeps
    | with_reducible apply State.updReq_keeps | with_reducible apply State.engineSync_keeps
    | with_reducible apply State.finishWith_keeps | with_reducible apply KeepsOut.next
    | (simp only [keeps_mk]; with_reducible refine KeepsLit.of ?_ rfl rfl rfl rfl rfl rfl) | split)

theorem State.loseHost_keeps {s0 s : State} (h : Keeps s0 s) :
    Keeps s0 (State.loseHost s).1 := by
  unfold State.loseHost
  try dsimp only
  repeat' (first
    | with_reducible assumption | with_reducible apply State.loseLine_keeps | with_reducible apply Keeps.foldl
    | (simp only [keeps_mk]; with_reducible refine KeepsLit.of ?_ rfl rfl rfl rfl rfl rfl))

theorem State.hostLost_keeps {s0 s : State} (h : Keeps s0 s) :
    Keeps s0 (State.hostLost s) := by
  unfold State.hostLost
  try dsimp only
  repeat' (first
    | with_reducible assumption | with_reducible apply State.loseHost_keeps | with_reducible apply State.event_keeps
    | with_reducible refine Keeps.fst (by with_reducible assumption) ?_ | split)

theorem State.queuesFail_keeps {s0 s : State} (h : Keeps s0 s) :
    Keeps s0 (State.queuesFail s) := by
  unfold State.queuesFail
  try dsimp only
  repeat' (first
    | with_reducible assumption | with_reducible apply State.updSq_keeps | with_reducible apply State.queueError_keeps
    | with_reducible apply State.cqFails_keeps | with_reducible apply Keeps.foldl | intro _)

theorem execHostLinkDlDown_keeps {s : State} :
    KeepsOut s (execHostLinkDlDown s) := by
  unfold execHostLinkDlDown
  have h := Keeps.refl s
  try dsimp only
  repeat' (first
    | with_reducible assumption | with_reducible apply State.forgetHost_keeps
    | with_reducible apply State.releaseSyncs_keeps | with_reducible apply State.hostLost_keeps
    | with_reducible apply State.event_keeps | with_reducible apply State.queuesFail_keeps
    | with_reducible apply KeepsOut.next
    | (simp only [keeps_mk]; with_reducible refine KeepsLit.of ?_ rfl rfl rfl rfl rfl rfl) | split)

theorem execHostLinkUp_keeps (gts : Nat) (lanes : Nat) (cxl : Bool) (flit256 : Bool) {s : State} :
    KeepsOut s (execHostLinkUp gts lanes cxl flit256 s) := by
  unfold execHostLinkUp
  have h := Keeps.refl s
  try dsimp only
  repeat' (first
    | with_reducible assumption | with_reducible apply State.forgetHost_keeps
    | with_reducible apply State.releaseSyncs_keeps | with_reducible apply State.hostLost_keeps
    | with_reducible apply KeepsOut.next
    | (simp only [keeps_mk]; with_reducible refine KeepsLit.of ?_ rfl rfl rfl rfl rfl rfl) | split)

theorem State.sendPending_keeps {s0 s : State} (h : Keeps s0 s) :
    Keeps s0 (State.sendPending s) := by
  unfold State.sendPending
  try dsimp only
  repeat' (first
    | with_reducible assumption | with_reducible apply State.emit_keeps | with_reducible apply Keeps.foldl
    | (simp only [keeps_mk]; with_reducible refine KeepsLit.of ?_ rfl rfl rfl rfl rfl rfl) | intro _)

theorem execMsixVectorUnmask_keeps (vector : Nat) {s : State} :
    KeepsOut s (execMsixVectorUnmask vector s) := by
  unfold execMsixVectorUnmask
  have h := Keeps.refl s
  try dsimp only
  repeat' (first
    | with_reducible assumption | with_reducible apply State.sendPending_keeps | with_reducible apply KeepsOut.next
    | (simp only [keeps_mk]; with_reducible refine KeepsLit.of ?_ rfl rfl rfl rfl rfl rfl) | split)

theorem execPcieDStateChange_keeps (d3hot : Bool) {s : State} :
    KeepsOut s (execPcieDStateChange d3hot s) := by
  unfold execPcieDStateChange
  have h := Keeps.refl s
  try dsimp only
  repeat' (first
    | with_reducible assumption | with_reducible apply State.sendPending_keeps | with_reducible apply KeepsOut.next
    | (simp only [keeps_mk]; with_reducible refine KeepsLit.of ?_ rfl rfl rfl rfl rfl rfl) | split)

theorem hostLinkQuery_keeps {s0 s : State} (r : Req) (h : Keeps s0 s) :
    KeepsRes s0 (hostLinkQuery.run r s) := by
  unfold hostLinkQuery
  try dsimp only
  repeat' (first
    | with_reducible assumption | with_reducible apply KeepsRes.okay)

theorem execHostLinkQuery_keeps (via : Via) {s : State} : KeepsOut s (execHostLinkQuery via s) := serve_keeps hostLinkQuery_keeps

theorem State.updEth_keeps {s0 s : State} (p : Nat) (f : EthPort → EthPort) (h : Keeps s0 s) :
    Keeps s0 (State.updEth s p f) := by
  unfold State.updEth
  try dsimp only
  repeat' (first
    | with_reducible assumption | with_reducible apply State.noteEdges_keeps
    | (simp only [keeps_mk]; with_reducible refine KeepsLit.of ?_ rfl rfl rfl rfl rfl rfl))

theorem State.ethDrop_keeps {s0 s : State} (p : Nat) (h : Keeps s0 s) :
    Keeps s0 (State.ethDrop s p) := by
  unfold State.ethDrop
  try dsimp only
  repeat' (first
    | with_reducible assumption | with_reducible apply State.updEth_keeps)

theorem State.qpFails_keeps {s0 s : State} (n : Nat) (h : Keeps s0 s) :
    Keeps s0 (State.qpFails s n) := by
  unfold State.qpFails
  try dsimp only
  repeat' (first
    | with_reducible assumption | with_reducible apply State.updEp_keeps)

theorem State.ethDown_keeps {s0 s : State} (p : Nat) (h : Keeps s0 s) :
    Keeps s0 (State.ethDown s p) := by
  unfold State.ethDown
  try dsimp only
  repeat' (first
    | with_reducible assumption | with_reducible apply State.updEth_keeps | with_reducible apply State.event_keeps
    | with_reducible apply State.qpFails_keeps | with_reducible apply State.poolFails_keeps
    | with_reducible apply Keeps.foldl | split)

theorem execEthPortDown_keeps (port : Nat) {s : State} :
    KeepsOut s (execEthPortDown port s) := by
  unfold execEthPortDown
  have h := Keeps.refl s
  try dsimp only
  repeat' (first
    | with_reducible assumption | with_reducible apply State.ethDown_keeps | with_reducible apply KeepsOut.next)

theorem execEthPortUp_keeps (port : Nat) {s : State} :
    KeepsOut s (execEthPortUp port s) := by
  unfold execEthPortUp
  have h := Keeps.refl s
  try dsimp only
  repeat' (first
    | with_reducible assumption | with_reducible apply State.updEth_keeps | with_reducible apply KeepsOut.next | split)

theorem State.setPort_keeps {s0 s : State} (p : Bytes) (h : Keeps s0 s) :
    Keeps s0 (State.setPort s p) := by
  unfold State.setPort
  try dsimp only
  repeat' (first
    | with_reducible assumption | with_reducible apply State.ethDown_keeps | with_reducible apply State.updEth_keeps
    | split)

theorem netPortSet_keeps {s0 s : State} (r : Req) (h : Keeps s0 s) :
    KeepsRes s0 (netPortSet.run r s) := by
  unfold netPortSet
  try dsimp only
  repeat' (first
    | with_reducible assumption | with_reducible apply State.setPort_keeps | with_reducible apply KeepsRes.okay)

theorem execNetPortSet_keeps (via : Via) {s : State} : KeepsOut s (execNetPortSet via s) := serve_keeps netPortSet_keeps

theorem execEthControlPacket_keeps (port : Nat) (kind : Nat) (target : Bytes) (data : Bytes) {s : State} :
    KeepsOut s (execEthControlPacket port kind target data s) := by
  unfold execEthControlPacket
  have h := Keeps.refl s
  try dsimp only
  repeat' (first
    | with_reducible assumption | with_reducible apply State.ethDrop_keeps | with_reducible apply State.emit_keeps
    | with_reducible apply KeepsOut.next | split)

theorem State.localQp_keeps {s0 s : State} (h : Keeps s0 s) :
    Keeps s0 (State.localQp s).2 := by
  unfold State.localQp
  try dsimp only
  repeat' (first
    | with_reducible assumption | with_reducible apply State.drawNat_keeps)

theorem netEndpointCreate_keeps {s0 s : State} (r : Req) (h : Keeps s0 s) :
    KeepsRes s0 (netEndpointCreate.run r s) := by
  unfold netEndpointCreate
  try dsimp only
  repeat' (first
    | with_reducible assumption | with_reducible apply State.localQp_keeps
    | with_reducible refine State.setCore_keeps ?_ rfl rfl | with_reducible apply KeepsRes.fail
    | with_reducible apply KeepsRes.okay | split)

theorem execNetEndpointCreate_keeps (via : Via) {s : State} : KeepsOut s (execNetEndpointCreate via s) := serve_keeps netEndpointCreate_keeps

theorem State.closeEp_keeps {s0 s : State} (n : Nat) (h : Keeps s0 s) :
    Keeps s0 (State.closeEp s n) := by
  unfold State.closeEp
  try dsimp only
  repeat' (first
    | with_reducible assumption | with_reducible apply State.done_keeps
    | with_reducible refine State.setCore_keeps ?_ rfl rfl | split)

theorem netEndpointDestroy_keeps {s0 s : State} (r : Req) (h : Keeps s0 s) :
    KeepsRes s0 (netEndpointDestroy.run r s) := by
  unfold netEndpointDestroy
  try dsimp only
  repeat' (first
    | with_reducible assumption | with_reducible apply State.updEp_keeps | with_reducible apply State.closeEp_keeps
    | with_reducible apply KeepsRes.fail | with_reducible apply KeepsRes.okay
    | (simp only [keepsRes_mk]; with_reducible refine ⟨?_, ?_⟩) | intro _ | split)

theorem execNetEndpointDestroy_keeps (via : Via) {s : State} : KeepsOut s (execNetEndpointDestroy via s) := serve_keeps netEndpointDestroy_keeps

theorem execQueuePairError_keeps (endpoint : Nat) {s : State} :
    KeepsOut s (execQueuePairError endpoint s) := by
  unfold execQueuePairError
  have h := Keeps.refl s
  try dsimp only
  repeat' (first
    | with_reducible assumption | with_reducible apply State.qpFails_keeps | with_reducible apply KeepsOut.next
    | split)

theorem execRoceCnpReceive_keeps (endpoint : Option Nat) {s : State} :
    KeepsOut s (execRoceCnpReceive endpoint s) := by
  unfold execRoceCnpReceive
  have h := Keeps.refl s
  try dsimp only
  repeat' (first
    | with_reducible assumption | with_reducible apply State.updEp_keeps | with_reducible apply KeepsOut.next
    | (simp only [keeps_mk]; with_reducible refine KeepsLit.of ?_ rfl rfl rfl rfl rfl rfl) | split)

theorem execRoceRateRecover_keeps (endpoint : Option Nat) {s : State} :
    KeepsOut s (execRoceRateRecover endpoint s) := by
  unfold execRoceRateRecover
  have h := Keeps.refl s
  try dsimp only
  repeat' (first
    | with_reducible assumption | with_reducible apply State.advanceTo_keeps | with_reducible apply State.updEp_keeps
    | with_reducible apply KeepsOut.next
    | (simp only [keeps_mk]; with_reducible refine KeepsLit.of ?_ rfl rfl rfl rfl rfl rfl) | split)

theorem State.dropAt_keeps {s0 s : State} (n : Nat) (e : Endpoint) (h : Keeps s0 s) :
    Keeps s0 (State.dropAt s n e) := by
  unfold State.dropAt
  try dsimp only
  repeat' (first
    | with_reducible assumption | with_reducible apply State.updEp_keeps | with_reducible apply State.ethDrop_keeps)

theorem State.buffer_keeps {s0 s : State} (n : Nat) (m : NetMsg) (update : Bool) (h : Keeps s0 s) :
    Keeps s0 (State.buffer s n m update) := by
  unfold State.buffer
  try dsimp only
  repeat' (first
    | with_reducible assumption | with_reducible apply State.dropAt_keeps | with_reducible apply State.updEth_keeps
    | with_reducible apply State.reply_keeps | with_reducible apply State.updEp_keeps | split)

theorem kindOf_keeps (c : Cmd) (queue : Nat) (i : Nat) (r : Request) (hs : List Bytes) {s0 s : State} (h : Keeps s0 s) :
    Keeps s0 ((kindOf c queue).run i r hs s) := by
  unfold kindOf
  try dsimp only
  repeat' (first
    | with_reducible assumption | with_reducible apply cynKind_keeps | with_reducible apply fordKind_keeps
    | with_reducible apply invalidKind_keeps | with_reducible apply nopKind_keeps
    | with_reducible apply signalKind_keeps | with_reducible apply boundaryKind_keeps
    | with_reducible apply launchKind_keeps | split)

theorem State.admitNet_keeps {s0 s : State} (n : Nat) (h : Keeps s0 s) :
    Keeps s0 (State.admitNet s n) := by
  unfold State.admitNet
  try dsimp only
  repeat' (first
    | with_reducible assumption | with_reducible apply kindOf_keeps | with_reducible apply State.recall_keeps
    | with_reducible apply State.spendTurn_keeps | with_reducible apply State.boundary_keeps
    | with_reducible apply State.drawNat_keeps | with_reducible apply State.fresh_keeps
    | with_reducible apply State.updEp_keeps | with_reducible apply State.passTurn_keeps
    | with_reducible apply State.updValley_keeps | with_reducible apply State.count_keeps
    | with_reducible apply State.refuseCommand_keeps | with_reducible apply State.finishWith_keeps
    | with_reducible refine State.setCore_keeps ?_ rfl rfl | with_reducible apply Keeps.foldl | intro _ | split)

theorem execRequestDatagramReceive_keeps (endpoint : Nat) (addr : Bytes) (port : Nat) (arrived : Option Bytes) {s : State} :
    KeepsOut s (execRequestDatagramReceive endpoint addr port arrived s) := by
  unfold execRequestDatagramReceive
  have h := Keeps.refl s
  try dsimp only
  repeat' (first
    | with_reducible assumption | with_reducible apply State.buffer_keeps | with_reducible apply State.admitNet_keeps
    | with_reducible apply KeepsOut.next | split)

theorem execUpdateDatagramReceive_keeps (endpoint : Nat) (addr : Bytes) (port : Nat) (data : Bytes) {s : State} :
    KeepsOut s (execUpdateDatagramReceive endpoint addr port data s) := by
  unfold execUpdateDatagramReceive
  have h := Keeps.refl s
  try dsimp only
  repeat' (first
    | with_reducible assumption | with_reducible apply State.buffer_keeps | with_reducible apply KeepsOut.next | split)

theorem execDatagramResponseSend_keeps (endpoint : Nat) {s : State} :
    KeepsOut s (execDatagramResponseSend endpoint s) := by
  unfold execDatagramResponseSend
  have h := Keeps.refl s
  try dsimp only
  repeat' (first
    | with_reducible assumption | with_reducible apply State.closeEp_keeps
    | with_reducible apply State.recordAccess_keeps | with_reducible apply State.fetch_keeps
    | with_reducible apply State.updEth_keeps | with_reducible apply State.reply_keeps
    | with_reducible apply State.release_keeps | with_reducible apply State.sweep_keeps
    | with_reducible refine State.setCore_keeps ?_ rfl rfl | with_reducible apply KeepsOut.next
    | with_reducible apply Keeps.foldl | intro _ | split)

theorem State.mgmtDrop_keeps {s0 s : State} (h : Keeps s0 s) :
    Keeps s0 (State.mgmtDrop s) := by
  unfold State.mgmtDrop
  try dsimp only
  repeat' (first
    | with_reducible assumption | (simp only [keeps_mk]; with_reducible refine KeepsLit.of ?_ rfl rfl rfl rfl rfl rfl))

theorem execMgmtDatagramReceive_keeps (eth : Nat) (addr : Bytes) (port : Nat) (data : Bytes) {s : State} :
    KeepsOut s (execMgmtDatagramReceive eth addr port data s) := by
  unfold execMgmtDatagramReceive
  have h := Keeps.refl s
  try dsimp only
  repeat' (first
    | with_reducible assumption | with_reducible apply State.mgmtDrop_keeps | with_reducible apply State.emit_keeps
    | with_reducible apply State.arrived_keeps | with_reducible apply KeepsOut.next
    | (simp only [keeps_mk]; with_reducible refine KeepsLit.of ?_ rfl rfl rfl rfl rfl rfl) | split)

theorem State.setPool_keeps {s0 s : State} (p : Bytes) (h : Keeps s0 s) :
    Keeps s0 (State.setPool s p) := by
  unfold State.setPool
  try dsimp only
  repeat' (first
    | with_reducible assumption | (simp only [keeps_mk]; with_reducible refine KeepsLit.wide ?_ ?_ ?_ ?_ ?_ ?_ ?_)
    | exact State.Canonical.mem ‹_› | exact State.Canonical.ram ‹_› | exact State.Canonical.scratch ‹_›
    | exact State.Canonical.lanes ‹_› | exact State.Canonical.lines ‹_› _ ‹_› | with_reducible exact nil_wf | intro _
    | split)

theorem poolNodeSet_keeps {s0 s : State} (r : Req) (h : Keeps s0 s) :
    KeepsRes s0 (poolNodeSet.run r s) := by
  unfold poolNodeSet
  try dsimp only
  repeat' (first
    | with_reducible assumption | with_reducible apply State.setPool_keeps | with_reducible apply State.localQp_keeps
    | with_reducible apply KeepsRes.fail | with_reducible apply KeepsRes.okay | split)

theorem execPoolNodeSet_keeps (via : Via) {s : State} : KeepsOut s (execPoolNodeSet via s) := serve_keeps poolNodeSet_keeps

end Sys2Proof.Machine
end

