-- ==== Sys2Proof/Laws/KeepsPass.lean ====
section
/-! SUPPORT. Every definition of fault records and the Pass keeps the fused identity, the waiting commands and
canonical memories ("Keeps", Sys2Proof/Safety.lean). -/
namespace Sys2Proof.Machine
open Sys2Proof

theorem State.toRound_keeps {s0 s : State} (n : Nat) (h : Keeps s0 s) :
    Keeps s0 (State.toRound s n) := by
  unfold State.toRound
  try dsimp only
  repeat' (first
    | with_reducible assumption | with_reducible apply State.advanceTo_keeps)

theorem State.giveBack_keeps {s0 s : State} (q : Queued) (n : Nat) (h : Keeps s0 s) :
    Keeps s0 (State.giveBack s q n) := by
  unfold State.giveBack
  try dsimp only
  repeat' (first
    | with_reducible assumption | with_reducible apply State.updLink_keeps | split)

theorem State.routeQueued_keeps {s0 s : State} (q : Queued) (h : Keeps s0 s) :
    Keeps s0 (State.routeQueued s q) := by
  unfold State.routeQueued
  try dsimp only
  repeat' (first
    | with_reducible assumption | with_reducible apply State.giveBack_keeps
    | with_reducible apply State.terminate_keeps | with_reducible apply State.undeliverable_keeps
    | with_reducible apply State.updLink_keeps | split)

theorem State.routePacket_keeps {s0 s : State} (input : Option Nat) (p : Packet) (h : Keeps s0 s) :
    Keeps s0 (State.routePacket s input p) := by
  unfold State.routePacket
  try dsimp only
  repeat' (first
    | with_reducible assumption | with_reducible apply State.routeQueued_keeps)

theorem State.flushOutbox_keeps {s0 s : State} (h : Keeps s0 s) :
    Keeps s0 (State.flushOutbox s) := by
  unfold State.flushOutbox
  try dsimp only
  repeat' (first
    | with_reducible assumption | with_reducible apply State.routePacket_keeps
    | with_reducible refine State.setCore_keeps ?_ rfl rfl | with_reducible apply Keeps.foldl | intro _)

theorem execPassPacketForward_keeps (port : Nat) (dest : Nat) (src : Nat) (tag : Nat) (cls : Nat) (hops : Nat) (kind : Nat) (poison : Bool) (msg : Bytes) {s : State} :
    KeepsOut s (execPassPacketForward port dest src tag cls hops kind poison msg s) := by
  unfold execPassPacketForward
  have h := Keeps.refl s
  try dsimp only
  repeat' (first
    | with_reducible assumption | with_reducible apply State.routePacket_keeps
    | with_reducible apply State.flushOutbox_keeps | with_reducible apply KeepsOut.next | split)

theorem execPassPacketHoldTimeout_keeps (port : Nat) {s : State} :
    KeepsOut s (execPassPacketHoldTimeout port s) := by
  unfold execPassPacketHoldTimeout
  have h := Keeps.refl s
  try dsimp only
  repeat' (first
    | with_reducible assumption | with_reducible apply State.advanceTo_keeps
    | with_reducible apply State.updLink_keeps | with_reducible apply State.giveBack_keeps
    | with_reducible apply State.undeliverable_keeps | with_reducible apply State.flushOutbox_keeps
    | with_reducible apply KeepsOut.next | split)

theorem State.reroute_keeps {s0 s : State} (p : Nat) (h : Keeps s0 s) :
    Keeps s0 (State.reroute s p) := by
  unfold State.reroute
  try dsimp only
  repeat' (first
    | with_reducible assumption | with_reducible apply State.routeQueued_keeps
    | with_reducible apply State.updLink_keeps | with_reducible apply Keeps.foldl)

theorem State.linkEvent_keeps {s0 s : State} (p : Nat) (ev : Nat) (detail : Bytes) (h : Keeps s0 s) :
    Keeps s0 (State.linkEvent s p ev detail) := by
  unfold State.linkEvent
  try dsimp only
  repeat' (first
    | with_reducible assumption | with_reducible apply State.event_keeps)

theorem State.haltLink_keeps {s0 s : State} (p : Nat) (st : LinkState) (reason : Nat) (h : Keeps s0 s) :
    Keeps s0 (State.haltLink s p st reason) := by
  unfold State.haltLink
  try dsimp only
  repeat' (first
    | with_reducible assumption | with_reducible apply State.giveBack_keeps
    | with_reducible apply State.noteEdges_keeps | with_reducible apply State.updLink_keeps
    | with_reducible apply State.reroute_keeps | with_reducible apply State.linkEvent_keeps | split)

theorem State.backoff_keeps {s0 s : State} (p : Nat) (reason : Nat) (h : Keeps s0 s) :
    Keeps s0 (State.backoff s p reason) := by
  unfold State.backoff
  try dsimp only
  repeat' (first
    | with_reducible assumption | with_reducible apply State.drawNat_keeps | with_reducible apply State.haltLink_keeps
    | with_reducible apply State.updLink_keeps)

theorem State.startLink_keeps {s0 s : State} (p : Nat) (encrypt : Bool) (identity : Bool) (h : Keeps s0 s) :
    Keeps s0 (State.startLink s p encrypt identity) := by
  unfold State.startLink
  try dsimp only
  repeat' (first
    | with_reducible assumption | with_reducible apply State.drawNat_keeps | with_reducible apply State.updLink_keeps
    | with_reducible apply State.backoff_keeps)

theorem State.enableLink_keeps {s0 s : State} (pay : Bytes) (h : Keeps s0 s) :
    Keeps s0 (State.enableLink s pay) := by
  unfold State.enableLink
  try dsimp only
  repeat' (first
    | with_reducible assumption | with_reducible apply State.startLink_keeps)

theorem State.stopLink_keeps {s0 s : State} (p : Nat) (st : LinkState) (h : Keeps s0 s) :
    Keeps s0 (State.stopLink s p st) := by
  unfold State.stopLink
  try dsimp only
  repeat' (first
    | with_reducible assumption | with_reducible apply State.haltLink_keeps | with_reducible apply State.updLink_keeps
    | with_reducible apply State.done_keeps | with_reducible apply State.enableLink_keeps
    | with_reducible apply Keeps.foldl | intro _ | split)

theorem State.linkDown_keeps {s0 s : State} (p : Nat) (reason : Nat) (h : Keeps s0 s) :
    Keeps s0 (State.linkDown s p reason) := by
  unfold State.linkDown
  try dsimp only
  repeat' (first
    | with_reducible assumption | with_reducible apply State.stopLink_keeps | with_reducible apply State.backoff_keeps
    | with_reducible apply State.error_keeps | with_reducible apply State.flushOutbox_keeps | split)

theorem State.tryUp_keeps {s0 s : State} (p : Nat) (h : Keeps s0 s) :
    Keeps s0 (State.tryUp s p) := by
  unfold State.tryUp
  try dsimp only
  repeat' (first
    | with_reducible assumption | with_reducible apply State.updLink_keeps
    | with_reducible apply State.noteEdges_keeps | with_reducible apply State.linkEvent_keeps | split)

theorem execPassBackoffExpire_keeps (port : Nat) {s : State} :
    KeepsOut s (execPassBackoffExpire port s) := by
  unfold execPassBackoffExpire
  have h := Keeps.refl s
  try dsimp only
  repeat' (first
    | with_reducible assumption | with_reducible apply State.advanceTo_keeps
    | with_reducible apply State.updLink_keeps | with_reducible apply KeepsOut.next | split)

theorem execPassTrainLock_keeps (port : Nat) (failed : List Nat) {s : State} :
    KeepsOut s (execPassTrainLock port failed s) := by
  unfold execPassTrainLock
  have h := Keeps.refl s
  try dsimp only
  repeat' (first
    | with_reducible assumption | with_reducible apply State.updLink_keeps
    | with_reducible apply State.linkEvent_keeps | with_reducible apply KeepsOut.next | split)

theorem State.retrain_keeps {s0 s : State} (p : Nat) (h : Keeps s0 s) :
    Keeps s0 (State.retrain s p) := by
  unfold State.retrain
  try dsimp only
  repeat' (first
    | with_reducible assumption | with_reducible apply State.noteEdges_keeps
    | with_reducible apply State.updLink_keeps | split)

theorem execPassTrainTimeout_keeps (port : Nat) {s : State} :
    KeepsOut s (execPassTrainTimeout port s) := by
  unfold execPassTrainTimeout
  have h := Keeps.refl s
  try dsimp only
  repeat' (first
    | with_reducible assumption | with_reducible apply State.advanceTo_keeps
    | with_reducible apply State.backoff_keeps | with_reducible apply State.linkDown_keeps
    | with_reducible apply State.updLink_keeps | with_reducible apply KeepsOut.next | split)

theorem execPassAlignLock_keeps (port : Nat) (candidates : Nat) {s : State} :
    KeepsOut s (execPassAlignLock port candidates s) := by
  unfold execPassAlignLock
  have h := Keeps.refl s
  try dsimp only
  repeat' (first
    | with_reducible assumption | with_reducible apply State.updLink_keeps
    | with_reducible apply State.noteEdges_keeps | with_reducible apply KeepsOut.next | split)

theorem execPassMarkerLoss_keeps (port : Nat) {s : State} :
    KeepsOut s (execPassMarkerLoss port s) := by
  unfold execPassMarkerLoss
  have h := Keeps.refl s
  try dsimp only
  repeat' (first
    | with_reducible assumption | with_reducible apply State.noteEdges_keeps
    | with_reducible apply State.updLink_keeps | with_reducible apply KeepsOut.next | split)

theorem execPassAlignTimeout_keeps (port : Nat) {s : State} :
    KeepsOut s (execPassAlignTimeout port s) := by
  unfold execPassAlignTimeout
  have h := Keeps.refl s
  try dsimp only
  repeat' (first
    | with_reducible assumption | with_reducible apply State.advanceTo_keeps
    | with_reducible apply State.retrain_keeps | with_reducible apply KeepsOut.next | split)

theorem State.linkInitReceive_keeps {s0 s : State} (p : Nat) (msg : Bytes) (h : Keeps s0 s) :
    Keeps s0 (State.linkInitReceive s p msg) := by
  unfold State.linkInitReceive
  try dsimp only
  repeat' (first
    | with_reducible assumption | with_reducible apply State.updLink_keeps
    | with_reducible apply State.linkEvent_keeps | with_reducible apply State.tryUp_keeps | split)

theorem execPassLinkInitReceive_keeps (port : Nat) (msg : Bytes) {s : State} :
    KeepsOut s (execPassLinkInitReceive port msg s) := by
  unfold execPassLinkInitReceive
  have h := Keeps.refl s
  try dsimp only
  repeat' (first
    | with_reducible assumption | with_reducible apply State.linkInitReceive_keeps
    | with_reducible apply KeepsOut.next)

theorem State.echoReceive_keeps {s0 s : State} (p : Nat) (msg : Bytes) (h : Keeps s0 s) :
    Keeps s0 (State.echoReceive s p msg) := by
  unfold State.echoReceive
  try dsimp only
  repeat' (first
    | with_reducible assumption | with_reducible apply State.updLink_keeps | split)

theorem execPassEchoReceive_keeps (port : Nat) (msg : Bytes) (time : Nat) {s : State} :
    KeepsOut s (execPassEchoReceive port msg time s) := by
  unfold execPassEchoReceive
  have h := Keeps.refl s
  try dsimp only
  repeat' (first
    | with_reducible assumption | with_reducible apply State.advanceTo_keeps
    | with_reducible apply State.echoReceive_keeps | with_reducible apply KeepsOut.next)

theorem State.echoAnswer_keeps {s0 s : State} (p : Nat) (msg : Bytes) (h : Keeps s0 s) :
    Keeps s0 (State.echoAnswer s p msg) := by
  unfold State.echoAnswer
  try dsimp only
  repeat' (first
    | with_reducible assumption | with_reducible apply State.updLink_keeps | with_reducible apply State.tryUp_keeps
    | split)

theorem execPassEchoAnsReceive_keeps (port : Nat) (msg : Bytes) (time : Nat) {s : State} :
    KeepsOut s (execPassEchoAnsReceive port msg time s) := by
  unfold execPassEchoAnsReceive
  have h := Keeps.refl s
  try dsimp only
  repeat' (first
    | with_reducible assumption | with_reducible apply State.advanceTo_keeps
    | with_reducible apply State.echoAnswer_keeps | with_reducible apply KeepsOut.next)

theorem execPassEchoTimer_keeps (port : Nat) {s : State} :
    KeepsOut s (execPassEchoTimer port s) := by
  unfold execPassEchoTimer
  have h := Keeps.refl s
  try dsimp only
  repeat' (first
    | with_reducible assumption | with_reducible apply State.advanceTo_keeps
    | with_reducible apply State.updLink_keeps | with_reducible apply KeepsOut.next | split)

theorem passLinkEnable_keeps {s0 s : State} (r : Req) (h : Keeps s0 s) :
    KeepsRes s0 (passLinkEnable.run r s) := by
  unfold passLinkEnable
  try dsimp only
  repeat' (first
    | with_reducible assumption | with_reducible apply State.enableLink_keeps
    | with_reducible apply State.updLink_keeps | with_reducible apply KeepsRes.fail
    | with_reducible apply KeepsRes.okay | with_reducible apply KeepsRes.pend | split)

theorem execPassLinkEnable_keeps (via : Via) {s : State} : KeepsOut s (execPassLinkEnable via s) := serve_keeps passLinkEnable_keeps

theorem State.endLink_keeps {s0 s : State} (p : Nat) (force : Bool) (h : Keeps s0 s) :
    Keeps s0 (State.endLink s p force) := by
  unfold State.endLink
  try dsimp only
  repeat' (first
    | with_reducible assumption | with_reducible apply State.downNotice_keeps
    | with_reducible apply State.stopLink_keeps | split)

theorem passLinkDisable_keeps {s0 s : State} (r : Req) (h : Keeps s0 s) :
    KeepsRes s0 (passLinkDisable.run r s) := by
  unfold passLinkDisable
  try dsimp only
  repeat' (first
    | with_reducible assumption | with_reducible apply State.updLink_keeps | with_reducible apply State.done_keeps
    | with_reducible apply State.endLink_keeps | with_reducible apply State.noteEdges_keeps
    | with_reducible apply State.reroute_keeps | with_reducible apply KeepsRes.okay
    | (simp only [keepsRes_mk]; with_reducible refine ⟨?_, ?_⟩) | intro _ | split)

theorem execPassLinkDisable_keeps (via : Via) {s : State} : KeepsOut s (execPassLinkDisable via s) := serve_keeps passLinkDisable_keeps

theorem execPassDisableDrained_keeps (port : Nat) {s : State} :
    KeepsOut s (execPassDisableDrained port s) := by
  unfold execPassDisableDrained
  have h := Keeps.refl s
  try dsimp only
  repeat' (first
    | with_reducible assumption | with_reducible apply State.advanceTo_keeps
    | with_reducible apply State.endLink_keeps | with_reducible apply KeepsOut.next | split)

theorem passLinkQuery_keeps {s0 s : State} (r : Req) (h : Keeps s0 s) :
    KeepsRes s0 (passLinkQuery.run r s) := by
  unfold passLinkQuery
  try dsimp only
  repeat' (first
    | with_reducible assumption | with_reducible apply KeepsRes.okay)

theorem execPassLinkQuery_keeps (via : Via) {s : State} : KeepsOut s (execPassLinkQuery via s) := serve_keeps passLinkQuery_keeps

theorem passScheduleSet_keeps {s0 s : State} (r : Req) (h : Keeps s0 s) :
    KeepsRes s0 (passScheduleSet.run r s) := by
  unfold passScheduleSet
  try dsimp only
  repeat' (first
    | with_reducible assumption | with_reducible apply KeepsRes.fail | with_reducible apply KeepsRes.pend
    | (simp only [keeps_mk]; with_reducible refine KeepsLit.of ?_ rfl rfl rfl rfl rfl rfl) | split)

theorem execPassScheduleSet_keeps (via : Via) {s : State} : KeepsOut s (execPassScheduleSet via s) := serve_keeps passScheduleSet_keeps

theorem passRouteSet_keeps {s0 s : State} (r : Req) (h : Keeps s0 s) :
    KeepsRes s0 (passRouteSet.run r s) := by
  unfold passRouteSet
  try dsimp only
  repeat' (first
    | with_reducible assumption | with_reducible apply KeepsRes.fail | with_reducible apply KeepsRes.pend
    | (simp only [keeps_mk]; with_reducible refine KeepsLit.of ?_ rfl rfl rfl rfl rfl rfl) | split)

theorem execPassRouteSet_keeps (via : Via) {s : State} : KeepsOut s (execPassRouteSet via s) := serve_keeps passRouteSet_keeps

theorem passKeySet_keeps {s0 s : State} (r : Req) (h : Keeps s0 s) :
    KeepsRes s0 (passKeySet.run r s) := by
  unfold passKeySet
  try dsimp only
  repeat' (first
    | with_reducible assumption | with_reducible apply State.updLink_keeps | with_reducible apply State.tryUp_keeps
    | with_reducible apply KeepsRes.fail | (simp only [keepsRes_mk]; with_reducible refine ⟨?_, ?_⟩) | intro _ | split)

theorem execPassKeySet_keeps (via : Via) {s : State} : KeepsOut s (execPassKeySet via s) := serve_keeps passKeySet_keeps

theorem State.controlMessage_keeps {s0 s : State} (port : Nat) (p : Packet) (h : Keeps s0 s) :
    Keeps s0 (State.controlMessage s port p) := by
  unfold State.controlMessage
  try dsimp only
  repeat' (first
    | with_reducible assumption | with_reducible apply State.linkInitReceive_keeps
    | with_reducible apply State.echoReceive_keeps | with_reducible apply State.echoAnswer_keeps
    | with_reducible apply State.dropPacket_keeps | split)

theorem State.arrive_keeps {s0 s : State} (port : Nat) (chan : Nat) (p : Packet) (h : Keeps s0 s) :
    Keeps s0 (State.arrive s port chan p) := by
  unfold State.arrive
  try dsimp only
  repeat' (first
    | with_reducible assumption | with_reducible apply State.updLink_keeps
    | with_reducible apply State.controlMessage_keeps | with_reducible apply State.dropPacket_keeps
    | with_reducible apply State.routeQueued_keeps | split)

theorem State.flit_keeps {s0 s : State} (port : Nat) (f : Bytes) (lost : Bool) (h : Keeps s0 s) :
    Keeps s0 (State.flit s port f lost) := by
  unfold State.flit
  try dsimp only
  repeat' (first
    | with_reducible assumption | with_reducible apply State.updLink_keeps
    | with_reducible apply State.controlMessage_keeps | with_reducible apply State.arrive_keeps
    | with_reducible apply State.retrain_keeps | split)

theorem State.sampleTime_keeps {s0 s : State} (port : Nat) (f : Bytes) (h : Keeps s0 s) :
    Keeps s0 (State.sampleTime s port f) := by
  unfold State.sampleTime
  try dsimp only
  repeat' (first
    | with_reducible assumption | (simp only [keeps_mk]; with_reducible refine KeepsLit.of ?_ rfl rfl rfl rfl rfl rfl)
    | split)

theorem State.laneErrs_keeps {s0 s : State} (port : Nat) (lane : Nat) (h : Keeps s0 s) :
    Keeps s0 (State.laneErrs s port lane) := by
  unfold State.laneErrs
  try dsimp only
  repeat' (first
    | with_reducible assumption | with_reducible apply State.linkDown_keeps | with_reducible apply State.updLink_keeps
    | with_reducible apply State.retrain_keeps | with_reducible apply State.linkEvent_keeps | split)

theorem State.authFailed_keeps {s0 s : State} (port : Nat) (h : Keeps s0 s) :
    Keeps s0 (State.authFailed s port) := by
  unfold State.authFailed
  try dsimp only
  repeat' (first
    | with_reducible assumption | with_reducible apply State.updLink_keeps | with_reducible apply State.linkDown_keeps
    | split)

theorem State.flits_keeps {s0 s : State} (port : Nat) (f : Bytes) (failed : List Nat) (lost : Option Nat) (h : Keeps s0 s) :
    Keeps s0 (State.flits s port f failed lost) := by
  unfold State.flits
  try dsimp only
  repeat' (first
    | with_reducible assumption | with_reducible apply State.updLink_keeps | with_reducible apply State.flit_keeps
    | with_reducible apply Keeps.foldl | intro _ | split)

theorem execPassFrameReceive_keeps (port time : Nat) (data : Bytes) (corrected : Nat) (failed : List Nat)
    (lane : Option Nat × Option Nat) {s : State} :
    KeepsOut s (execPassFrameReceive port time data corrected failed lane s) := by
  unfold execPassFrameReceive
  have h := Keeps.refl s
  try dsimp only
  repeat' (first
    | with_reducible assumption | with_reducible apply State.advanceTo_keeps
    | with_reducible apply State.updLink_keeps | with_reducible apply State.authFailed_keeps
    | with_reducible apply State.flits_keeps | with_reducible apply State.linkDown_keeps
    | with_reducible apply State.sampleTime_keeps | with_reducible apply State.error_keeps
    | with_reducible apply State.laneErrs_keeps | with_reducible apply State.count_keeps
    | with_reducible apply State.flushOutbox_keeps | with_reducible apply KeepsOut.next | split)

theorem State.noteSlips_keeps {s0 s : State} (port : Nat) (ps : Nat) (h : Keeps s0 s) :
    Keeps s0 (State.noteSlips s port ps) := by
  unfold State.noteSlips
  try dsimp only
  repeat' (first
    | with_reducible assumption | with_reducible apply State.updLink_keeps | split)

theorem State.dataFlit_keeps {s0 s : State} (port : Nat) (q : Queued) (h : Keeps s0 s) :
    Keeps s0 (State.dataFlit s port q).1 := by
  unfold State.dataFlit
  try dsimp only
  repeat' (first
    | with_reducible assumption | with_reducible apply State.updLink_keeps | with_reducible apply State.giveBack_keeps
    | split)

theorem State.controlFlit_keeps {s0 s : State} (port : Nat) (c : Control) (h : Keeps s0 s) :
    Keeps s0 (State.controlFlit s port c).1 := by
  unfold State.controlFlit
  try dsimp only
  repeat' (first
    | with_reducible assumption | with_reducible apply State.updLink_keeps | split)

theorem State.chooseFlit_keeps {s0 s : State} (port : Nat) (ps : Nat) (h : Keeps s0 s) :
    Keeps s0 (State.chooseFlit s port ps).1 := by
  unfold State.chooseFlit
  try dsimp only
  repeat' (first
    | with_reducible assumption | with_reducible apply State.controlFlit_keeps
    | with_reducible apply State.updLink_keeps | with_reducible apply State.dataFlit_keeps
    | with_reducible apply State.noteSlips_keeps | split)

theorem State.frameFlits_keeps {s0 s : State} (port ps : Nat) (h : Keeps s0 s) : Keeps s0 (s.frameFlits port ps).1 := by
  unfold State.frameFlits
  generalize List.range 64 = l
  exact Keeps.foldl1 l h fun _ _ g => State.chooseFlit_keeps _ _ g

theorem State.transmit_keeps {s0 s : State} (port : Nat) (h : Keeps s0 s) :
    Keeps s0 (State.transmit s port) := by
  unfold State.transmit
  try dsimp only
  repeat' (first
    | with_reducible assumption | with_reducible apply State.frameFlits_keeps
    | with_reducible apply State.updLink_keeps | with_reducible apply State.emit_keeps
    | with_reducible apply State.count_keeps | split)

theorem execPassFrameTransmit_keeps (port : Nat) (time : Nat) (bufferError : Bool) (routingError : Bool) {s : State} :
    KeepsOut s (execPassFrameTransmit port time bufferError routingError s) := by
  unfold execPassFrameTransmit
  have h := Keeps.refl s
  try dsimp only
  repeat' (first
    | with_reducible assumption | with_reducible apply State.advanceTo_keeps
    | with_reducible apply State.flushOutbox_keeps | with_reducible apply State.deviceFault_keeps
    | with_reducible apply State.linkDown_keeps | with_reducible apply State.transmit_keeps
    | with_reducible apply KeepsOut.next | split)

theorem execPassReplayTimer_keeps (port : Nat) {s : State} :
    KeepsOut s (execPassReplayTimer port s) := by
  unfold execPassReplayTimer
  have h := Keeps.refl s
  try dsimp only
  repeat' (first
    | with_reducible assumption | with_reducible apply State.advanceTo_keeps
    | with_reducible apply State.retrain_keeps | with_reducible apply State.updLink_keeps
    | with_reducible apply KeepsOut.next | split)

theorem State.ageSchedules_keeps {s0 s : State} (h : Keeps s0 s) :
    Keeps s0 (State.ageSchedules s) := by
  unfold State.ageSchedules
  try dsimp only
  repeat' (first
    | with_reducible assumption | with_reducible apply State.updLink_keeps
    | with_reducible apply State.linkEvent_keeps | with_reducible apply Keeps.foldl | intro _ | split)

theorem State.endRound_keeps {s0 s : State} (h : Keeps s0 s) :
    Keeps s0 (State.endRound s) := by
  unfold State.endRound
  try dsimp only
  repeat' (first
    | with_reducible assumption | with_reducible apply State.event_keeps
    | (simp only [keeps_mk]; with_reducible refine KeepsLit.of ?_ rfl rfl rfl rfl rfl rfl) | split)

theorem execPassRoundTick_keeps {s : State} :
    KeepsOut s (execPassRoundTick s) := by
  unfold execPassRoundTick
  have h := Keeps.refl s
  try dsimp only
  repeat' (first
    | with_reducible assumption | with_reducible apply State.toRound_keeps | with_reducible apply State.endRound_keeps
    | with_reducible apply State.ageSchedules_keeps | with_reducible apply KeepsOut.next | split)

theorem State.takeSchedule_keeps {s0 s : State} (h : Keeps s0 s) :
    Keeps s0 (State.takeSchedule s) := by
  unfold State.takeSchedule
  try dsimp only
  repeat' (first
    | with_reducible assumption | with_reducible apply State.done_keeps
    | (simp only [keeps_mk]; with_reducible refine KeepsLit.of ?_ rfl rfl rfl rfl rfl rfl) | split)

theorem State.enterSchedule_keeps {s0 s : State} (h : Keeps s0 s) :
    Keeps s0 (State.enterSchedule s) := by
  unfold State.enterSchedule
  try dsimp only
  repeat' (first
    | with_reducible assumption | with_reducible apply State.event_keeps
    | (simp only [keeps_mk]; with_reducible refine KeepsLit.of ?_ rfl rfl rfl rfl rfl rfl) | split)

theorem State.toBoundary_keeps {s0 s : State} (h : Keeps s0 s) :
    Keeps s0 (State.toBoundary s) := by
  unfold State.toBoundary
  try dsimp only
  repeat' (first
    | with_reducible assumption | with_reducible apply State.advanceTo_keeps
    | (simp only [keeps_mk]; with_reducible refine KeepsLit.of ?_ rfl rfl rfl rfl rfl rfl) | split)

theorem execPassScheduleBoundary_keeps {s : State} :
    KeepsOut s (execPassScheduleBoundary s) := by
  unfold execPassScheduleBoundary
  have h := Keeps.refl s
  try dsimp only
  repeat' (first
    | with_reducible assumption | with_reducible apply State.toBoundary_keeps
    | with_reducible apply State.takeSchedule_keeps | with_reducible apply State.enterSchedule_keeps
    | with_reducible apply KeepsOut.next)

theorem execPassRouteEffective_keeps {s : State} :
    KeepsOut s (execPassRouteEffective s) := by
  unfold execPassRouteEffective
  have h := Keeps.refl s
  try dsimp only
  repeat' (first
    | with_reducible assumption | with_reducible apply State.advanceTo_keeps | with_reducible apply State.done_keeps
    | with_reducible apply KeepsOut.next
    | (simp only [keeps_mk]; with_reducible refine KeepsLit.of ?_ rfl rfl rfl rfl rfl rfl) | split)

end Sys2Proof.Machine
end

