-- ==== Sys2Proof/Laws/KeepsMemory.lean ====
section
/-! SUPPORT. Every definition of memory, faults and power keeps the fused identity, the waiting commands and
canonical memories ("Keeps", Sys2Proof/Safety.lean). -/
namespace Sys2Proof.Machine
open Sys2Proof

theorem State.setChange_keeps {s0 s : State} (g : Nat) (c : Option GroupChange) (h : Keeps s0 s) :
    Keeps s0 (State.setChange s g c) := by
  unfold State.setChange
  try dsimp only
  repeat' (first
    | with_reducible assumption | with_reducible apply State.updGroup_keeps)

theorem State.armBasin_keeps {s0 s : State} (g : Nat) (vs : List Nat) (h : Keeps s0 s) :
    Keeps s0 (State.armBasin s g vs) := by
  unfold State.armBasin
  try dsimp only
  repeat' (first
    | with_reducible assumption | with_reducible apply State.arm_keeps | with_reducible apply Keeps.foldl | intro _)

theorem State.fireAll_keeps {s0 s : State} (vs : List Nat) (h : Keeps s0 s) :
    Keeps s0 (State.fireAll s vs) := by
  unfold State.fireAll
  try dsimp only
  repeat' (first
    | with_reducible assumption | with_reducible apply State.boundaryIfStopped_keeps
    | with_reducible apply Keeps.foldl)

theorem bsnGroupModeSet_keeps {s0 s : State} (r : Req) (h : Keeps s0 s) :
    KeepsRes s0 (bsnGroupModeSet.run r s) := by
  unfold bsnGroupModeSet
  try dsimp only
  repeat' (first
    | with_reducible assumption | with_reducible apply State.setChange_keeps
    | with_reducible apply State.armBasin_keeps | with_reducible apply State.leaveCache_keeps
    | with_reducible apply State.fireAll_keeps | with_reducible apply KeepsRes.fail
    | with_reducible apply KeepsRes.okay | (simp only [keepsRes_mk]; with_reducible refine ⟨?_, ?_⟩) | intro _ | split)

theorem execBsnGroupModeSet_keeps (via : Via) {s : State} : KeepsOut s (execBsnGroupModeSet via s) := serve_keeps bsnGroupModeSet_keeps

theorem State.emptyLines_keeps {s0 s : State} (ls : List Nat) (h : Keeps s0 s) :
    Keeps s0 (State.emptyLines s ls) := by
  unfold State.emptyLines
  try dsimp only
  repeat' (first
    | with_reducible assumption | with_reducible apply State.loseLine_keeps | with_reducible apply State.poison_keeps
    | with_reducible apply State.writeBack_keeps | with_reducible apply State.dropLine_keeps
    | with_reducible apply Keeps.foldl
    | (simp only [keeps_mk]; with_reducible refine KeepsLit.of ?_ rfl rfl rfl rfl rfl rfl) | intro _ | split)

theorem State.flipAll_keeps {s0 s : State} (h : Keeps s0 s) :
    Keeps s0 (State.flipAll s) := by
  unfold State.flipAll
  try dsimp only
  repeat' (first
    | with_reducible assumption | with_reducible apply State.flipBucket_keeps | with_reducible apply Keeps.foldl)

theorem State.drainGroup_keeps {s0 s : State} (g : Nat) (c : GroupChange) (h : Keeps s0 s) :
    Keeps s0 (State.drainGroup s g c) := by
  unfold State.drainGroup
  try dsimp only
  repeat' (first
    | with_reducible assumption | with_reducible apply State.emptyLines_keeps
    | with_reducible apply State.keepBuckets_keeps | with_reducible apply State.setChange_keeps
    | with_reducible apply State.done_keeps | with_reducible apply State.flipAll_keeps
    | with_reducible apply State.updGroup_keeps | split)

theorem State.fillGroup_keeps {s0 s : State} (g : Nat) (c : GroupChange) (h : Keeps s0 s) :
    Keeps s0 (State.fillGroup s g c) := by
  unfold State.fillGroup
  try dsimp only
  repeat' (first
    | with_reducible assumption | with_reducible apply State.emptyLines_keeps
    | with_reducible apply State.updGroup_keeps | with_reducible apply State.done_keeps
    | with_reducible apply State.flipAll_keeps | with_reducible apply State.setChange_keeps
    | (simp only [keeps_mk]; with_reducible refine KeepsLit.of ?_ rfl rfl rfl rfl rfl rfl) | split)

theorem execBasinWritebackDone_keeps (group : Nat × List Ecc) {s : State} :
    KeepsOut s (execBasinWritebackDone group s) := by
  unfold execBasinWritebackDone
  have h := Keeps.refl s
  try dsimp only
  repeat' (first
    | with_reducible assumption | with_reducible apply State.eccAll_keeps
    | with_reducible apply State.drainGroup_keeps | with_reducible apply State.fillGroup_keeps
    | with_reducible apply KeepsOut.next | split)

theorem State.zeroGroup_keeps {s0 s : State} (g : Nat) (h : Keeps s0 s) :
    Keeps s0 (State.zeroGroup s g) := by
  unfold State.zeroGroup
  try dsimp only
  repeat' (first
    | with_reducible assumption | (simp only [keeps_mk]; with_reducible refine KeepsLit.wide ?_ ?_ ?_ ?_ ?_ ?_ ?_)
    | exact State.Canonical.mem ‹_› | exact State.Canonical.ram ‹_› | exact State.Canonical.scratch ‹_›
    | exact State.Canonical.lanes ‹_› | exact State.Canonical.pool ‹_› | exact State.Canonical.lines ‹_› _ ‹_›
    | with_reducible apply zeroN_wf | intro _)

theorem State.awaitOwner_keeps {s0 s : State} (g : Nat) (c : GroupChange) (h : Keeps s0 s) :
    Keeps s0 (State.awaitOwner s g c) := by
  unfold State.awaitOwner
  try dsimp only
  repeat' (first
    | with_reducible assumption | with_reducible apply State.setChange_keeps
    | with_reducible apply State.armBasin_keeps | with_reducible apply State.boundaryIfStopped_keeps | split)

theorem State.openCache_keeps {s0 s : State} (g : Nat) (c : GroupChange) (h : Keeps s0 s) :
    Keeps s0 (State.openCache s g c) := by
  unfold State.openCache
  try dsimp only
  repeat' (first
    | with_reducible assumption | with_reducible apply State.updGroup_keeps
    | with_reducible apply State.enterCache_keeps)

theorem execBasinGroupZeroed_keeps (group : Nat) {s : State} :
    KeepsOut s (execBasinGroupZeroed group s) := by
  unfold execBasinGroupZeroed
  have h := Keeps.refl s
  try dsimp only
  repeat' (first
    | with_reducible assumption | with_reducible apply State.zeroGroup_keeps
    | with_reducible apply State.updGroup_keeps | with_reducible apply State.awaitOwner_keeps
    | with_reducible apply State.openCache_keeps | with_reducible apply KeepsOut.next | split)

theorem State.finishScratch_keeps {s0 s : State} (g : Nat) (c : GroupChange) (h : Keeps s0 s) :
    Keeps s0 (State.finishScratch s g c) := by
  unfold State.finishScratch
  try dsimp only
  repeat' (first
    | with_reducible assumption | with_reducible apply State.setChange_keeps
    | with_reducible apply State.leaveCache_keeps | with_reducible apply State.drainGroup_keeps
    | with_reducible apply State.zeroGroup_keeps | with_reducible apply State.updGroup_keeps
    | with_reducible apply State.done_keeps | split)

theorem State.finishCache_keeps {s0 s : State} (g : Nat) (c : GroupChange) (h : Keeps s0 s) :
    Keeps s0 (State.finishCache s g c) := by
  unfold State.finishCache
  try dsimp only
  repeat' (first
    | with_reducible assumption | with_reducible apply State.zeroGroup_keeps
    | with_reducible apply State.openCache_keeps | with_reducible apply State.fillGroup_keeps | split)

theorem State.finishChange_keeps {s0 s : State} (g : Nat) (h : Keeps s0 s) :
    Keeps s0 (State.finishChange s g) := by
  unfold State.finishChange
  try dsimp only
  repeat' (first
    | with_reducible assumption | with_reducible apply State.updGroup_keeps | with_reducible apply State.done_keeps
    | with_reducible apply State.finishScratch_keeps | with_reducible apply State.finishCache_keeps | split)

theorem bsnWaysSet_keeps {s0 s : State} (r : Req) (h : Keeps s0 s) :
    KeepsRes s0 (bsnWaysSet.run r s) := by
  unfold bsnWaysSet
  try dsimp only
  repeat' (first
    | with_reducible assumption | with_reducible apply State.setChange_keeps
    | with_reducible apply State.armBasin_keeps | with_reducible apply State.fireAll_keeps
    | with_reducible apply KeepsRes.fail | with_reducible apply KeepsRes.okay
    | (simp only [keepsRes_mk]; with_reducible refine ⟨?_, ?_⟩) | intro _ | split)

theorem execBsnWaysSet_keeps (via : Via) {s : State} : KeepsOut s (execBsnWaysSet via s) := serve_keeps bsnWaysSet_keeps

theorem bsnQuery_keeps {s0 s : State} (r : Req) (h : Keeps s0 s) :
    KeepsRes s0 (bsnQuery.run r s) := by
  unfold bsnQuery
  try dsimp only
  repeat' (first
    | with_reducible assumption | with_reducible apply KeepsRes.okay)

theorem execBsnQuery_keeps (via : Via) {s : State} : KeepsOut s (execBsnQuery via s) := serve_keeps bsnQuery_keeps

theorem State.flushLines_keeps {s0 s : State} (f : Flush) (h : Keeps s0 s) :
    Keeps s0 (State.flushLines s f) := by
  unfold State.flushLines
  try dsimp only
  repeat' (first
    | with_reducible assumption | with_reducible apply State.writeBack_keeps
    | with_reducible apply State.dropLine_keeps | with_reducible apply Keeps.foldl | intro _ | split)

theorem bsnFlush_keeps {s0 s : State} (r : Req) (h : Keeps s0 s) :
    KeepsRes s0 (bsnFlush.run r s) := by
  unfold bsnFlush
  try dsimp only
  repeat' (first
    | with_reducible assumption | with_reducible apply State.drawNat_keeps
    | with_reducible apply State.flushLines_keeps | with_reducible apply KeepsRes.fail
    | with_reducible apply KeepsRes.okay | with_reducible apply KeepsRes.pend
    | (simp only [keeps_mk]; with_reducible refine KeepsLit.of ?_ rfl rfl rfl rfl rfl rfl) | split)

theorem execBsnFlush_keeps (via : Via) {s : State} : KeepsOut s (execBsnFlush via s) := serve_keeps bsnFlush_keeps

theorem execBsnFlushDone_keeps (valley : Nat) {s : State} :
    KeepsOut s (execBsnFlushDone valley s) := by
  unfold execBsnFlushDone
  have h := Keeps.refl s
  try dsimp only
  repeat' (first
    | with_reducible assumption | with_reducible apply State.flushLines_keeps | with_reducible apply State.done_keeps
    | with_reducible apply KeepsOut.next
    | (simp only [keeps_mk]; with_reducible refine KeepsLit.of ?_ rfl rfl rfl rfl rfl rfl) | split)

theorem memHostWindowSet_keeps {s0 s : State} (r : Req) (h : Keeps s0 s) :
    KeepsRes s0 (memHostWindowSet.run r s) := by
  unfold memHostWindowSet
  try dsimp only
  repeat' (first
    | with_reducible assumption | with_reducible apply State.forgetHost_keeps
    | with_reducible apply State.releaseSyncs_keeps | with_reducible apply KeepsRes.fail
    | with_reducible apply KeepsRes.okay
    | (simp only [keeps_mk]; with_reducible refine KeepsLit.of ?_ rfl rfl rfl rfl rfl rfl) | split)

theorem execMemHostWindowSet_keeps (via : Via) {s : State} : KeepsOut s (execMemHostWindowSet via s) := serve_keeps memHostWindowSet_keeps

theorem State.snoop_keeps {s0 s : State} (addr kind : Nat) (h : Keeps s0 s) : Keeps s0 (s.snoop addr kind) := by
  unfold State.snoop
  dsimp only
  split
  · exact State.emit_keeps _ h
  · rename_i x e
    have w0 : s.Canonical → Memory.wf x.backing := fun w => State.Canonical.lines w _ (look_mem e)
    have g1 := State.emit_keeps (.cxlSnoop addr [x.sectors.getD (addr / 64 % 4) .invalid]) h
    have w1 : (s.emit (.cxlSnoop addr [x.sectors.getD (addr / 64 % 4) .invalid])).Canonical → Memory.wf x.backing :=
      fun w => w0 ⟨w.mem, w.ram, w.scratch, w.lanes, w.pool, w.lines⟩
    generalize s.emit (.cxlSnoop addr [x.sectors.getD (addr / 64 % 4) .invalid]) = t at g1 w1 ⊢
    have g2 : Keeps s0 (if x.sectors.getD (addr / 64 % 4) .invalid = .modified then
        t.emit (.cxlData addr (t.bytes (addr / 64 * 64) 64) (t.poisoned (addr / 64 * 64) 64)) else t) := by
      split
      · exact State.emit_keeps _ g1
      · exact g1
    have w2 : (if x.sectors.getD (addr / 64 % 4) .invalid = .modified then
        t.emit (.cxlData addr (t.bytes (addr / 64 * 64) 64) (t.poisoned (addr / 64 * 64) 64)) else t).Canonical →
        Memory.wf x.backing := by
      split
      · exact fun w => w1 ⟨w.mem, w.ram, w.scratch, w.lanes, w.pool, w.lines⟩
      · exact w1
    generalize (if x.sectors.getD (addr / 64 % 4) .invalid = .modified then
        t.emit (.cxlData addr (t.bytes (addr / 64 * 64) 64) (t.poisoned (addr / 64 * 64) 64)) else t) = u at g2 w2 ⊢
    split
    · exact g2
    · generalize x.sectors.set (addr / 64 % 4) _ = sec
      split
      · exact State.dropLine_keeps _ g2
      · refine State.setLine_keeps _ g2 fun w => ?_
        dsimp only
        generalize (!(x.dirty && sec.any fun x => x == HostSector.modified)) = b
        split
        · exact nil_wf
        · split
          · exact wrN_wf _ _ _ (w2 w)
          · exact w2 w

theorem execCxlSnoop_keeps (addr : Nat) (kind : Nat) (store : Option Bytes) {s : State} :
    KeepsOut s (execCxlSnoop addr kind store s) := by
  unfold execCxlSnoop
  have h := Keeps.refl s
  try dsimp only
  repeat' (first
    | with_reducible assumption | with_reducible apply State.snoop_keeps | with_reducible apply State.putThrough_keeps
    | with_reducible apply KeepsOut.next | split)

theorem State.hostTrack_keeps {s0 s : State} (line : Nat) (exclusive : Bool) (h : Keeps s0 s) :
    Keeps s0 (State.hostTrack s line exclusive) := by
  unfold State.hostTrack
  try dsimp only
  repeat' (first
    | with_reducible assumption | (simp only [keeps_mk]; with_reducible refine KeepsLit.of ?_ rfl rfl rfl rfl rfl rfl))

theorem State.hostTakes_keeps {s0 s : State} (line : Nat) (exclusive : Bool) (h : Keeps s0 s) :
    Keeps s0 (State.hostTakes s line exclusive) := by
  unfold State.hostTakes
  try dsimp only
  repeat' (first
    | with_reducible assumption | with_reducible apply State.hostTrack_keeps | with_reducible apply State.emit_keeps)

theorem State.windowClosed_keeps {s0 s : State} (a : Nat) (h : Keeps s0 s) :
    Keeps s0 (State.windowClosed s a) := by
  unfold State.windowClosed
  try dsimp only
  repeat' (first
    | with_reducible assumption | with_reducible apply State.error_keeps)

theorem execCxlMemRead_keeps (addr : Nat × List Ecc) (exclusive : Bool) {s : State} :
    KeepsOut s (execCxlMemRead addr exclusive s) := by
  unfold execCxlMemRead
  have h := Keeps.refl s
  try dsimp only
  repeat' (first
    | with_reducible assumption | with_reducible apply State.windowClosed_keeps
    | with_reducible apply State.emit_keeps | with_reducible apply State.eccAll_keeps
    | with_reducible apply State.hostTakes_keeps | with_reducible apply State.backInvalidate_keeps
    | with_reducible apply KeepsOut.next
    | (simp only [keeps_mk]; with_reducible refine KeepsLit.of ?_ rfl rfl rfl rfl rfl rfl) | split)

theorem execCxlMemWrite_keeps (addr : Nat) (data : Bytes) (poison : Bool) {s : State} :
    KeepsOut s (execCxlMemWrite addr data poison s) := by
  unfold execCxlMemWrite
  have h := Keeps.refl s
  try dsimp only
  repeat' (first
    | with_reducible assumption | with_reducible apply State.windowClosed_keeps
    | with_reducible apply State.poison_keeps | with_reducible apply State.putThrough_keeps
    | with_reducible apply KeepsOut.next | split)

theorem State.releaseWrites_keeps {s0 s : State} (h : Keeps s0 s) :
    Keeps s0 (State.releaseWrites s) := by
  unfold State.releaseWrites
  try dsimp only
  repeat' (first
    | with_reducible assumption | with_reducible apply State.putHeld_keeps | with_reducible apply Keeps.foldl
    | (simp only [keeps_mk]; with_reducible refine KeepsLit.of ?_ rfl rfl rfl rfl rfl rfl))

theorem execCxlBiResponse_keeps (addr : Nat) (data : Option Bytes) {s : State} :
    KeepsOut s (execCxlBiResponse addr data s) := by
  unfold execCxlBiResponse
  have h := Keeps.refl s
  try dsimp only
  repeat' (first
    | with_reducible assumption | with_reducible apply State.putThrough_keeps
    | with_reducible apply State.releaseWrites_keeps | with_reducible apply State.releaseSyncs_keeps
    | with_reducible apply State.hostTakes_keeps | with_reducible apply KeepsOut.next
    | (simp only [keeps_mk]; with_reducible refine KeepsLit.of ?_ rfl rfl rfl rfl rfl rfl) | split)

theorem memQuery_keeps {s0 s : State} (r : Req) (h : Keeps s0 s) :
    KeepsRes s0 (memQuery.run r s) := by
  unfold memQuery
  try dsimp only
  repeat' (first
    | with_reducible assumption | with_reducible apply KeepsRes.okay)

theorem execMemQuery_keeps (via : Via) {s : State} : KeepsOut s (execMemQuery via s) := serve_keeps memQuery_keeps

theorem memChannelRetire_keeps {s0 s : State} (r : Req) (h : Keeps s0 s) :
    KeepsRes s0 (memChannelRetire.run r s) := by
  unfold memChannelRetire
  try dsimp only
  repeat' (first
    | with_reducible assumption | with_reducible apply State.arm_keeps | with_reducible apply State.channelFree_keeps
    | with_reducible apply State.fireAll_keeps | with_reducible apply KeepsRes.fail
    | with_reducible apply KeepsRes.okay | (simp only [keepsRes_mk]; with_reducible refine ⟨?_, ?_⟩)
    | with_reducible apply Keeps.foldl
    | (simp only [keeps_mk]; with_reducible refine KeepsLit.of ?_ rfl rfl rfl rfl rfl rfl) | intro _ | split)

theorem execMemChannelRetire_keeps (via : Via) {s : State} : KeepsOut s (execMemChannelRetire via s) := serve_keeps memChannelRetire_keeps

theorem State.startSoft_keeps {s0 s : State} (a : RepairAt) (done : Deferred) (h : Keeps s0 s) :
    Keeps s0 (State.startSoft s a done) := by
  unfold State.startSoft
  try dsimp only
  repeat' (first
    | with_reducible assumption | (simp only [keeps_mk]; with_reducible refine KeepsLit.of ?_ rfl rfl rfl rfl rfl rfl))

theorem softRun_keeps {s0 s : State} (r : Req) (h : Keeps s0 s) :
    KeepsRes s0 (softRun r s) := by
  unfold softRun
  try dsimp only
  repeat' (first
    | with_reducible assumption | with_reducible apply State.startSoft_keeps | with_reducible apply KeepsRes.fail
    | with_reducible apply KeepsRes.okay | with_reducible apply KeepsRes.pend | split)

theorem State.pendHard_keeps {s0 s : State} (a : RepairAt) (h : Keeps s0 s) :
    Keeps s0 (State.pendHard s a) := by
  unfold State.pendHard
  try dsimp only
  repeat' (first
    | with_reducible assumption | with_reducible apply State.updStack_keeps)

theorem hardRun_keeps {s0 s : State} (r : Req) (h : Keeps s0 s) :
    KeepsRes s0 (hardRun r s) := by
  unfold hardRun
  try dsimp only
  repeat' (first
    | with_reducible assumption | with_reducible apply State.pendHard_keeps
    | with_reducible apply State.startSoft_keeps | with_reducible apply KeepsRes.fail
    | with_reducible apply KeepsRes.okay | with_reducible apply KeepsRes.pend | split)

theorem cancelHardRun_keeps {s0 s : State} (r : Req) (h : Keeps s0 s) :
    KeepsRes s0 (cancelHardRun r s) := by
  unfold cancelHardRun
  try dsimp only
  repeat' (first
    | with_reducible assumption | with_reducible apply State.updStack_keeps | with_reducible apply KeepsRes.fail
    | with_reducible apply KeepsRes.okay | split)

theorem repairMsg_keeps {run : Req → State → Res} (r : Req) {s0 s : State}
    (hr : ∀ {a b : State} (r : Req), Keeps a b → KeepsRes a (run r b)) (h : Keeps s0 s) :
    KeepsRes s0 ((repairMsg run).run r s) := hr r h

theorem execMemHbmRepairSoft_keeps (via : Via) {s : State} :
    KeepsOut s (execMemHbmRepairSoft via s) := serveIf_keeps (.refl _) fun r h => softRun_keeps r h

theorem execMemHbmRepairHard_keeps (via : Via) {s : State} :
    KeepsOut s (execMemHbmRepairHard via s) := serveIf_keeps (.refl _) fun r h => hardRun_keeps r h

theorem execMemHbmRepairCancelHard_keeps (via : Via) {s : State} :
    KeepsOut s (execMemHbmRepairCancelHard via s) := serveIf_keeps (.refl _) fun r h => cancelHardRun_keeps r h

theorem State.badSector_keeps {s0 s : State} (pc : Nat) (a : Nat) (h : Keeps s0 s) :
    Keeps s0 (State.badSector s pc a) := by
  unfold State.badSector
  try dsimp only
  repeat' (first
    | with_reducible assumption | with_reducible apply State.updStack_keeps | with_reducible apply State.poison_keeps
    | with_reducible apply State.error_keeps)

theorem execSoftRepairDone_keeps (bad : List Nat) (waits : Nat) {s : State} :
    KeepsOut s (execSoftRepairDone bad waits s) := by
  unfold execSoftRepairDone
  have h := Keeps.refl s
  try dsimp only
  repeat' (first
    | with_reducible assumption | with_reducible apply State.badSector_keeps | with_reducible apply State.stage_keeps
    | with_reducible apply State.done_keeps | with_reducible apply KeepsOut.next | with_reducible apply Keeps.foldl
    | (simp only [keeps_mk]; with_reducible refine KeepsLit.of ?_ rfl rfl rfl rfl rfl rfl) | intro _ | split)

theorem execMemoryRefreshTick_keeps (lpddr : Bool) (unit : Nat) (temp : Int) {s : State} :
    KeepsOut s (execMemoryRefreshTick lpddr unit temp s) := by
  unfold execMemoryRefreshTick
  have h := Keeps.refl s
  try dsimp only
  repeat' (first
    | with_reducible assumption | with_reducible apply State.updStack_keeps | with_reducible apply KeepsOut.next
    | (simp only [keeps_mk]; with_reducible refine KeepsLit.of ?_ rfl rfl rfl rfl rfl rfl) | split)

theorem execLpddrMr4Poll_keeps (pkg : Nat) (temp : Int) (rate : Nat) {s : State} :
    KeepsOut s (execLpddrMr4Poll pkg temp rate s) := by
  unfold execLpddrMr4Poll
  have h := Keeps.refl s
  try dsimp only
  repeat' (first
    | with_reducible assumption | with_reducible apply KeepsOut.next
    | (simp only [keeps_mk]; with_reducible refine KeepsLit.of ?_ rfl rfl rfl rfl rfl rfl) | split)

theorem execPatrolScrubStep_keeps (found : Nat) {s : State} :
    KeepsOut s (execPatrolScrubStep found s) := by
  unfold execPatrolScrubStep
  have h := Keeps.refl s
  try dsimp only
  repeat' (first
    | with_reducible assumption | with_reducible apply State.updStack_keeps
    | with_reducible apply State.badSector_keeps | with_reducible apply KeepsOut.next
    | (simp only [keeps_mk]; with_reducible refine KeepsLit.of ?_ rfl rfl rfl rfl rfl rfl) | split)

theorem execEccCorrectionBurst_keeps (lpddr : Bool) (channel : Nat) (lane : Option Nat) (count : Nat) {s : State} :
    KeepsOut s (execEccCorrectionBurst lpddr channel lane count s) := by
  unfold execEccCorrectionBurst
  have h := Keeps.refl s
  try dsimp only
  repeat' (first
    | with_reducible assumption | with_reducible apply State.updStack_keeps | with_reducible apply State.error_keeps
    | with_reducible apply KeepsOut.next
    | (simp only [keeps_mk]; with_reducible refine KeepsLit.of ?_ rfl rfl rfl rfl rfl rfl) | split)

theorem execChannelPowerDown_keeps (lpddr : Bool) (channel : Nat) {s : State} :
    KeepsOut s (execChannelPowerDown lpddr channel s) := by
  unfold execChannelPowerDown
  have h := Keeps.refl s
  try dsimp only
  repeat' (first
    | with_reducible assumption | with_reducible apply State.advanceTo_keeps | with_reducible apply KeepsOut.next
    | (simp only [keeps_mk]; with_reducible refine KeepsLit.of ?_ rfl rfl rfl rfl rfl rfl) | split)

theorem State.loseWork_keeps {s0 s : State} (u : UnitRef) (h : Keeps s0 s) :
    Keeps s0 (State.loseWork s u) := by
  unfold State.loseWork
  try dsimp only
  repeat' (first
    | with_reducible assumption | with_reducible apply State.latch_keeps | with_reducible apply State.jobSync_keeps
    | with_reducible apply State.settle_keeps | with_reducible apply State.refusePeer_keeps
    | with_reducible refine State.setCore_keeps ?_ rfl rfl | with_reducible apply Keeps.foldl | intro _ | split)

theorem State.loseGroup_keeps {s0 s : State} (g : Nat) (h : Keeps s0 s) :
    Keeps s0 (State.loseGroup s g) := by
  unfold State.loseGroup
  try dsimp only
  repeat' (first
    | with_reducible assumption | with_reducible apply State.dropLine_keeps
    | with_reducible apply State.loseLine_keeps | with_reducible apply State.poison_keeps
    | with_reducible apply State.updGroup_keeps | with_reducible apply State.leaveCache_keeps
    | with_reducible apply State.flipAll_keeps | with_reducible apply State.doneOpt_keeps
    | with_reducible apply Keeps.foldl
    | (simp only [keeps_mk]; with_reducible refine KeepsLit.of ?_ rfl rfl rfl rfl rfl rfl) | intro _ | split)

theorem State.loseFord_keeps {s0 s : State} (h : Keeps s0 s) :
    Keeps s0 (State.loseFord s) := by
  unfold State.loseFord
  try dsimp only
  repeat' (first
    | with_reducible assumption | with_reducible apply State.fordEnd_keeps
    | with_reducible apply State.ringError_keeps | with_reducible apply Keeps.foldl | intro _)

theorem State.losePipe_keeps {s0 s : State} (p : Nat) (h : Keeps s0 s) :
    Keeps s0 (State.losePipe s p) := by
  unfold State.losePipe
  try dsimp only
  repeat' (first
    | with_reducible assumption | with_reducible apply State.jobSync_keeps
    | with_reducible apply State.finishWith_keeps | with_reducible apply Keeps.foldl
    | (simp only [keeps_mk]; with_reducible refine KeepsLit.of ?_ rfl rfl rfl rfl rfl rfl) | intro _)

theorem State.loseUnit_keeps {s0 s : State} (u : UnitRef) (h : Keeps s0 s) :
    Keeps s0 (State.loseUnit s u) := by
  unfold State.loseUnit
  try dsimp only
  repeat' (first
    | with_reducible assumption | with_reducible apply State.loseWork_keeps
    | with_reducible apply State.loseGroup_keeps | with_reducible apply State.stopLink_keeps
    | with_reducible apply State.flushOutbox_keeps | with_reducible apply State.loseFord_keeps
    | with_reducible apply State.losePipe_keeps | split)

theorem State.repartner_keeps {s0 s : State} (u : UnitRef) (h : Keeps s0 s) :
    Keeps s0 (State.repartner s u) := by
  unfold State.repartner
  try dsimp only
  repeat' (first
    | with_reducible assumption | (simp only [keeps_mk]; with_reducible refine KeepsLit.of ?_ rfl rfl rfl rfl rfl rfl))

theorem State.retireUnit_keeps {s0 s : State} (u : UnitRef) (related : Nat) (h : Keeps s0 s) :
    Keeps s0 (State.retireUnit s u related) := by
  unfold State.retireUnit
  try dsimp only
  repeat' (first
    | with_reducible assumption | with_reducible apply State.retireChannel_keeps
    | with_reducible apply State.checkJournals_keeps | with_reducible apply State.stage_keeps
    | with_reducible apply State.enter_keeps | with_reducible apply State.event_keeps
    | with_reducible apply State.loseUnit_keeps | with_reducible apply State.repartner_keeps
    | (simp only [keeps_mk]; with_reducible refine KeepsLit.of ?_ rfl rfl rfl rfl rfl rfl) | split)

theorem State.pausePack_keeps {s0 s : State} (u : UnitRef) (h : Keeps s0 s) :
    Keeps s0 (State.pausePack s u) := by
  unfold State.pausePack
  try dsimp only
  repeat' (first
    | with_reducible assumption | with_reducible apply State.setFlt_keeps | split)

theorem execTargetedTestStart_keeps (unit : UnitRef) {s : State} :
    KeepsOut s (execTargetedTestStart unit s) := by
  unfold execTargetedTestStart
  have h := Keeps.refl s
  try dsimp only
  repeat' (first
    | with_reducible assumption | with_reducible apply State.advanceTo_keeps
    | with_reducible apply State.pausePack_keeps | with_reducible apply State.repartner_keeps
    | with_reducible apply State.retrain_keeps | with_reducible apply KeepsOut.next
    | (simp only [keeps_mk]; with_reducible refine KeepsLit.of ?_ rfl rfl rfl rfl rfl rfl) | split)

theorem State.awaitJoin_keeps {s0 s : State} (r : Readmit) (h : Keeps s0 s) :
    Keeps s0 (State.awaitJoin s r) := by
  unfold State.awaitJoin
  try dsimp only
  repeat' (first
    | with_reducible assumption | with_reducible apply State.join_keeps | with_reducible apply State.arm_keeps
    | with_reducible apply State.boundaryIfStopped_keeps | with_reducible apply Keeps.foldl
    | (simp only [keeps_mk]; with_reducible refine KeepsLit.of ?_ rfl rfl rfl rfl rfl rfl) | intro _ | split)

theorem State.readmitTested_keeps {s0 s : State} (r : Readmit) (pass : Bool) (seq : Nat) (h : Keeps s0 s) :
    Keeps s0 (State.readmitTested s r pass seq) := by
  unfold State.readmitTested
  try dsimp only
  repeat' (first
    | with_reducible assumption | with_reducible apply State.done_keeps | with_reducible apply State.stage_keeps
    | with_reducible apply State.awaitJoin_keeps
    | (simp only [keeps_mk]; with_reducible refine KeepsLit.of ?_ rfl rfl rfl rfl rfl rfl) | split)

theorem execTargetedTestDone_keeps (unit : UnitRef) (pass : Bool) {s : State} :
    KeepsOut s (execTargetedTestDone unit pass s) := by
  unfold execTargetedTestDone
  have h := Keeps.refl s
  try dsimp only
  repeat' (first
    | with_reducible assumption | with_reducible apply State.stage_keeps | with_reducible apply State.done_keeps
    | with_reducible apply State.readmitTested_keeps | with_reducible apply State.fordTurns_keeps
    | with_reducible apply State.deviceFault_keeps | with_reducible apply State.retireUnit_keeps
    | with_reducible apply KeepsOut.next | with_reducible apply Keeps.foldl
    | (simp only [keeps_mk]; with_reducible refine KeepsLit.of ?_ rfl rfl rfl rfl rfl rfl) | intro _ | split)

theorem execProbationDone_keeps (unit : UnitRef) (match_ : Bool) {s : State} :
    KeepsOut s (execProbationDone unit match_ s) := by
  unfold execProbationDone
  have h := Keeps.refl s
  try dsimp only
  repeat' (first
    | with_reducible assumption | with_reducible apply State.failProbation_keeps
    | with_reducible apply State.stage_keeps | with_reducible apply State.awaitJoin_keeps
    | with_reducible apply KeepsOut.next | split)

theorem execTestWindowOpen_keeps {s : State} :
    KeepsOut s (execTestWindowOpen s) := by
  unfold execTestWindowOpen
  have h := Keeps.refl s
  try dsimp only
  repeat' (first
    | with_reducible assumption | with_reducible apply State.advanceTo_keeps | with_reducible apply KeepsOut.next
    | (simp only [keeps_mk]; with_reducible refine KeepsLit.of ?_ rfl rfl rfl rfl rfl rfl) | split)

theorem execTestWindowClose_keeps {s : State} :
    KeepsOut s (execTestWindowClose s) := by
  unfold execTestWindowClose
  have h := Keeps.refl s
  try dsimp only
  repeat' (first
    | with_reducible assumption | with_reducible apply State.advanceTo_keeps | with_reducible apply KeepsOut.next
    | (simp only [keeps_mk]; with_reducible refine KeepsLit.of ?_ rfl rfl rfl rfl rfl rfl) | split)

theorem execPackTestComplete_keeps (unit : UnitRef) (test : Nat) (match_ : Bool) (last : Bool) {s : State} :
    KeepsOut s (execPackTestComplete unit test match_ last s) := by
  unfold execPackTestComplete
  have h := Keeps.refl s
  try dsimp only
  repeat' (first
    | with_reducible assumption | with_reducible apply State.errorSeq_keeps | with_reducible apply State.event_keeps
    | with_reducible apply KeepsOut.next
    | (simp only [keeps_mk]; with_reducible refine KeepsLit.of ?_ rfl rfl rfl rfl rfl rfl) | split)

theorem State.loadPack_keeps {s0 s : State} (a : Nat) (n : Nat) (h : Keeps s0 s) :
    Keeps s0 (State.loadPack s a n).1 := by
  unfold State.loadPack
  try dsimp only
  repeat' (first
    | with_reducible assumption | (simp only [keeps_mk]; with_reducible refine KeepsLit.of ?_ rfl rfl rfl rfl rfl rfl)
    | split)

theorem fltPackLoad_keeps {s0 s : State} (r : Req) (h : Keeps s0 s) :
    KeepsRes s0 (fltPackLoad.run r s) := by
  unfold fltPackLoad
  try dsimp only
  repeat' (first
    | with_reducible assumption | with_reducible apply State.loadPack_keeps | with_reducible apply State.done_keeps
    | with_reducible apply KeepsRes.fail | with_reducible apply KeepsRes.okay
    | (simp only [keepsRes_mk]; with_reducible refine ⟨?_, ?_⟩)
    | (simp only [keeps_mk]; with_reducible refine KeepsLit.of ?_ rfl rfl rfl rfl rfl rfl) | intro _ | split)

theorem execFltPackLoad_keeps (via : Via) {s : State} : KeepsOut s (execFltPackLoad via s) := serve_keeps fltPackLoad_keeps

theorem fltCheckedSet_keeps {s0 s : State} (r : Req) (h : Keeps s0 s) :
    KeepsRes s0 (fltCheckedSet.run r s) := by
  unfold fltCheckedSet
  try dsimp only
  repeat' (first
    | with_reducible assumption | with_reducible apply State.arm_keeps
    | with_reducible apply State.boundaryIfStopped_keeps | with_reducible apply KeepsRes.fail
    | with_reducible apply KeepsRes.okay | (simp only [keepsRes_mk]; with_reducible refine ⟨?_, ?_⟩) | intro _ | split)

theorem execFltCheckedSet_keeps (via : Via) {s : State} : KeepsOut s (execFltCheckedSet via s) := serve_keeps fltCheckedSet_keeps

theorem fltSelftestRun_keeps {s0 s : State} (r : Req) (h : Keeps s0 s) :
    KeepsRes s0 (fltSelftestRun.run r s) := by
  unfold fltSelftestRun
  try dsimp only
  repeat' (first
    | with_reducible assumption | with_reducible apply KeepsRes.pend
    | (simp only [keeps_mk]; with_reducible refine KeepsLit.of ?_ rfl rfl rfl rfl rfl rfl))

theorem execFltSelftestRun_keeps (via : Via) {s : State} : KeepsOut s (execFltSelftestRun via s) := serve_keeps fltSelftestRun_keeps

theorem fltUnitReadmit_keeps {s0 s : State} (r : Req) (h : Keeps s0 s) :
    KeepsRes s0 (fltUnitReadmit.run r s) := by
  unfold fltUnitReadmit
  try dsimp only
  repeat' (first
    | with_reducible assumption | with_reducible apply KeepsRes.fail | with_reducible apply KeepsRes.okay
    | with_reducible apply KeepsRes.pend
    | (simp only [keeps_mk]; with_reducible refine KeepsLit.of ?_ rfl rfl rfl rfl rfl rfl) | split)

theorem execFltUnitReadmit_keeps (via : Via) {s : State} : KeepsOut s (execFltUnitReadmit via s) := serve_keeps fltUnitReadmit_keeps

theorem fltWindowSet_keeps {s0 s : State} (r : Req) (h : Keeps s0 s) :
    KeepsRes s0 (fltWindowSet.run r s) := by
  unfold fltWindowSet
  try dsimp only
  repeat' (first
    | with_reducible assumption | with_reducible apply KeepsRes.okay
    | (simp only [keeps_mk]; with_reducible refine KeepsLit.of ?_ rfl rfl rfl rfl rfl rfl))

theorem execFltWindowSet_keeps (via : Via) {s : State} : KeepsOut s (execFltWindowSet via s) := serve_keeps fltWindowSet_keeps

theorem State.setPwr_keeps {s0 s : State} (x : Pwr) (h : Keeps s0 s) :
    Keeps s0 (State.setPwr s x) := by
  unfold State.setPwr
  try dsimp only
  repeat' (first
    | with_reducible assumption | (simp only [keeps_mk]; with_reducible refine KeepsLit.of ?_ rfl rfl rfl rfl rfl rfl))

theorem pwrStateSet_keeps {s0 s : State} (r : Req) (h : Keeps s0 s) :
    KeepsRes s0 (pwrStateSet.run r s) := by
  unfold pwrStateSet
  try dsimp only
  repeat' (first
    | with_reducible assumption | with_reducible apply State.setPwr_keeps | with_reducible apply KeepsRes.fail
    | with_reducible apply KeepsRes.okay | with_reducible apply KeepsRes.pend | split)

theorem execPwrStateSet_keeps (via : Via) {s : State} : KeepsOut s (execPwrStateSet via s) := serve_keeps pwrStateSet_keeps

theorem pwrQuery_keeps {s0 s : State} (r : Req) (h : Keeps s0 s) :
    KeepsRes s0 (pwrQuery.run r s) := by
  unfold pwrQuery
  try dsimp only
  repeat' (first
    | with_reducible assumption | with_reducible apply KeepsRes.okay)

theorem execPwrQuery_keeps (via : Via) {s : State} : KeepsOut s (execPwrQuery via s) := serve_keeps pwrQuery_keeps

theorem pwrLimitSet_keeps {s0 s : State} (r : Req) (h : Keeps s0 s) :
    KeepsRes s0 (pwrLimitSet.run r s) := by
  unfold pwrLimitSet
  try dsimp only
  repeat' (first
    | with_reducible assumption | with_reducible apply State.setPwr_keeps | with_reducible apply KeepsRes.okay)

theorem execPwrLimitSet_keeps (via : Via) {s : State} : KeepsOut s (execPwrLimitSet via s) := serve_keeps pwrLimitSet_keeps

theorem execPowerWindow_keeps (milliwatts : Nat) (sensorOk : Bool) {s : State} :
    KeepsOut s (execPowerWindow milliwatts sensorOk s) := by
  unfold execPowerWindow
  have h := Keeps.refl s
  try dsimp only
  repeat' (first
    | with_reducible assumption | with_reducible apply State.advanceTo_keeps | with_reducible apply State.setPwr_keeps
    | with_reducible apply State.pwrEvent_keeps | with_reducible apply KeepsOut.next | split)

theorem execThrottleInAssert_keeps {s : State} :
    KeepsOut s (execThrottleInAssert s) := by
  unfold execThrottleInAssert
  have h := Keeps.refl s
  try dsimp only
  repeat' (first
    | with_reducible assumption | with_reducible apply State.setPwr_keeps | with_reducible apply State.pwrEvent_keeps
    | with_reducible apply KeepsOut.next
    | (simp only [keeps_mk]; with_reducible refine KeepsLit.of ?_ rfl rfl rfl rfl rfl rfl) | split)

theorem execThrottleInRelease_keeps {s : State} :
    KeepsOut s (execThrottleInRelease s) := by
  unfold execThrottleInRelease
  have h := Keeps.refl s
  try dsimp only
  repeat' (first
    | with_reducible assumption | with_reducible apply State.setPwr_keeps | with_reducible apply State.pwrEvent_keeps
    | with_reducible apply KeepsOut.next | split)

theorem execVcoreDeviation_keeps {s : State} :
    KeepsOut s (execVcoreDeviation s) := by
  unfold execVcoreDeviation
  have h := Keeps.refl s
  try dsimp only
  repeat' (first
    | with_reducible assumption | with_reducible apply State.setPwr_keeps | with_reducible apply State.error_keeps
    | with_reducible apply KeepsOut.next | split)

theorem State.setDebug_keeps {s0 s : State} (level : Nat) (deadline : Option Nat) (h : Keeps s0 s) :
    Keeps s0 (State.setDebug s level deadline) := by
  unfold State.setDebug
  try dsimp only
  repeat' (first
    | with_reducible assumption | with_reducible apply State.resumePair_keeps
    | with_reducible apply State.setPwr_keeps | with_reducible apply State.pwrEvent_keeps
    | with_reducible apply Keeps.foldl | split)

theorem dbgUnlock_keeps {s0 s : State} (r : Req) (h : Keeps s0 s) :
    KeepsRes s0 (dbgUnlock.run r s) := by
  unfold dbgUnlock
  try dsimp only
  repeat' (first
    | with_reducible assumption | with_reducible apply State.authorise_keeps
    | with_reducible apply State.setDebug_keeps | with_reducible apply KeepsRes.fail | split
    | (simp only [keepsRes_mk]; with_reducible refine ⟨?_, ?_⟩) | intro _ | split)

theorem execDbgUnlock_keeps (via : Via) {s : State} : KeepsOut s (execDbgUnlock via s) := serve_keeps dbgUnlock_keeps

theorem dbgLock_keeps {s0 s : State} (r : Req) (h : Keeps s0 s) :
    KeepsRes s0 (dbgLock.run r s) := by
  unfold dbgLock
  try dsimp only
  repeat' (first
    | with_reducible assumption | with_reducible apply State.setDebug_keeps | with_reducible apply KeepsRes.okay
    | (simp only [keepsRes_mk]; with_reducible refine ⟨?_, ?_⟩) | intro _ | split)

theorem execDbgLock_keeps (via : Via) {s : State} : KeepsOut s (execDbgLock via s) := serve_keeps dbgLock_keeps

theorem execDebugDurationExpire_keeps {s : State} :
    KeepsOut s (execDebugDurationExpire s) := by
  unfold execDebugDurationExpire
  have h := Keeps.refl s
  try dsimp only
  repeat' (first
    | with_reducible assumption | with_reducible apply State.advanceTo_keeps
    | with_reducible apply State.setDebug_keeps | with_reducible apply KeepsOut.next | split)

theorem dbgTelemetryRead_keeps {s0 s : State} (r : Req) (h : Keeps s0 s) :
    KeepsRes s0 (dbgTelemetryRead.run r s) := by
  unfold dbgTelemetryRead
  try dsimp only
  repeat' (first
    | with_reducible assumption | with_reducible apply State.drawBytes_keeps | with_reducible apply KeepsRes.fail
    | with_reducible apply KeepsRes.okay | with_reducible apply KeepsRes.field | split)

theorem execDbgTelemetryRead_keeps (via : Via) {s : State} : KeepsOut s (execDbgTelemetryRead via s) := serve_keeps dbgTelemetryRead_keeps

theorem execTraceTick_keeps {s : State} :
    KeepsOut s (execTraceTick s) := by
  unfold execTraceTick
  have h := Keeps.refl s
  try dsimp only
  repeat' (first
    | with_reducible assumption | with_reducible apply State.advanceTo_keeps | with_reducible apply State.setPwr_keeps
    | with_reducible apply KeepsOut.next | split)

end Sys2Proof.Machine
end

