-- ==== Sys2Proof/Laws/KeepsReset.lean ====
section
/-! SUPPORT. Every definition of reset, configuration, draining and the register window keeps the fused identity, the waiting commands and
canonical memories ("Keeps", Sys2Proof/Safety.lean). -/
namespace Sys2Proof.Machine
open Sys2Proof

theorem State.coldReset_keeps {s0 s : State} (h : Keeps s0 s) :
    Keeps s0 (State.coldReset s) := by
  unfold State.coldReset
  try dsimp only
  repeat' (first
    | with_reducible assumption | with_reducible apply State.stopFlashCommit_keeps
    | with_reducible apply State.stopOtp_keeps
    | (simp only [keeps_mk]; with_reducible refine KeepsLit.wide ?_ ?_ ?_ ?_ ?_ ?_ ?_) | with_reducible exact nil_wf
    | exact (List.not_mem_nil ‹_›).elim | intro _)

theorem State.tearSoft_keeps {s0 s : State} (h : Keeps s0 s) :
    Keeps s0 (State.tearSoft s) := by
  unfold State.tearSoft
  try dsimp only
  repeat' (first
    | with_reducible assumption | with_reducible apply State.drawNat_keeps
    | (simp only [keeps_mk]; with_reducible refine KeepsLit.of ?_ rfl rfl rfl rfl rfl rfl) | split)

theorem State.warmReset_keeps {s0 s : State} (h : Keeps s0 s) :
    Keeps s0 (State.warmReset s) := by
  unfold State.warmReset
  try dsimp only
  repeat' (first
    | with_reducible assumption | with_reducible apply State.stopFlashCommit_keeps
    | with_reducible apply State.stopOtp_keeps | with_reducible apply State.stopReturn_keeps
    | with_reducible apply State.loseAll_keeps | with_reducible apply State.tearSoft_keeps
    | (simp only [keeps_mk]; with_reducible refine KeepsLit.wide ?_ ?_ ?_ ?_ ?_ ?_ ?_) | exact State.Canonical.mem ‹_›
    | exact State.Canonical.ram ‹_› | with_reducible apply filter_wf | with_reducible exact nil_wf
    | exact (List.not_mem_nil ‹_›).elim | intro _)

theorem State.toReset_keeps {s0 s : State} (cold : Bool) (h : Keeps s0 s) :
    Keeps s0 (State.toReset s cold) := by
  unfold State.toReset
  try dsimp only
  repeat' (first
    | with_reducible assumption | with_reducible apply State.coldReset_keeps
    | with_reducible apply State.warmReset_keeps | split)

theorem State.holdAtStart_keeps {s0 s : State} (h : Keeps s0 s) :
    Keeps s0 (State.holdAtStart s) := by
  unfold State.holdAtStart
  try dsimp only
  repeat' (first
    | with_reducible assumption | with_reducible apply State.zeroRings_keeps | with_reducible apply State.enter_keeps)

theorem State.unreset_keeps {s0 s : State} (f : FuseRead) (h : Keeps s0 s) : Keeps s0 (s.unreset f) := by
  unfold State.unreset
  split
  · exact h
  · dsimp only
    generalize (if s.rst.fused then s.fuse.checkOk else f.capsOk) = ok
    have g : Keeps s0 { s with
        fuse := { s.fuse with checkOk := ok }
        sec := { s.sec with voteCorrected := s.sec.voteCorrected || f.voteSplit, ownerKeyOk := f.keyOk }
        dev := { s.dev with warmLast := !s.rst.cold }
        pace := { s.pace with at_ := s.now }
        rst := { s.rst with strapsDue := true, lost := 0, fused := true } } :=
      ⟨h.ident, h.pending, fun w => let w := h.canonical w; ⟨w.mem, w.ram, w.scratch, w.lanes, w.pool, w.lines⟩⟩
    have g := State.stage_keeps { kind := 8, source := 0x0A, count := s.rst.lost, syndrome := if s.rst.cold then 2 else 1 } g
    split
    · exact State.enter_keeps _ _ g
    · exact State.holdAtStart_keeps g

theorem execPwrokFall_keeps {s : State} :
    KeepsOut s (execPwrokFall s) := by
  unfold execPwrokFall
  have h := Keeps.refl s
  try dsimp only
  repeat' (first
    | with_reducible assumption | with_reducible apply State.toReset_keeps | with_reducible apply KeepsOut.next
    | (simp only [keeps_mk]; with_reducible refine KeepsLit.of ?_ rfl rfl rfl rfl rfl rfl) | split)

theorem execPwrokRise_keeps (fuses : FuseRead) {s : State} :
    KeepsOut s (execPwrokRise fuses s) := by
  unfold execPwrokRise
  have h := Keeps.refl s
  try dsimp only
  repeat' (first
    | with_reducible assumption | with_reducible apply State.unreset_keeps | with_reducible apply KeepsOut.next
    | (simp only [keeps_mk]; with_reducible refine KeepsLit.of ?_ rfl rfl rfl rfl rfl rfl))

theorem execResetNAssert_keeps {s : State} :
    KeepsOut s (execResetNAssert s) := by
  unfold execResetNAssert
  have h := Keeps.refl s
  try dsimp only
  repeat' (first
    | with_reducible assumption | with_reducible apply State.toReset_keeps | with_reducible apply KeepsOut.next
    | (simp only [keeps_mk]; with_reducible refine KeepsLit.of ?_ rfl rfl rfl rfl rfl rfl) | split)

theorem execResetNDeassert_keeps (fuses : FuseRead) {s : State} :
    KeepsOut s (execResetNDeassert fuses s) := by
  unfold execResetNDeassert
  have h := Keeps.refl s
  try dsimp only
  repeat' (first
    | with_reducible assumption | with_reducible apply State.unreset_keeps | with_reducible apply KeepsOut.next
    | (simp only [keeps_mk]; with_reducible refine KeepsLit.of ?_ rfl rfl rfl rfl rfl rfl))

theorem execPerstNAssert_keeps {s : State} :
    KeepsOut s (execPerstNAssert s) := by
  unfold execPerstNAssert
  have h := Keeps.refl s
  try dsimp only
  repeat' (first
    | with_reducible assumption | with_reducible apply State.toReset_keeps | with_reducible apply KeepsOut.next
    | (simp only [keeps_mk]; with_reducible refine KeepsLit.of ?_ rfl rfl rfl rfl rfl rfl) | split)

theorem execPerstNDeassert_keeps (fuses : FuseRead) {s : State} :
    KeepsOut s (execPerstNDeassert fuses s) := by
  unfold execPerstNDeassert
  have h := Keeps.refl s
  try dsimp only
  repeat' (first
    | with_reducible assumption | with_reducible apply State.unreset_keeps | with_reducible apply KeepsOut.next
    | (simp only [keeps_mk]; with_reducible refine KeepsLit.of ?_ rfl rfl rfl rfl rfl rfl))

theorem State.internalReset_keeps {s0 s : State} (cold : Bool) (h : Keeps s0 s) :
    Keeps s0 (State.internalReset s cold) := by
  unfold State.internalReset
  try dsimp only
  repeat' (first
    | with_reducible assumption | with_reducible apply State.toReset_keeps
    | (simp only [keeps_mk]; with_reducible refine KeepsLit.of ?_ rfl rfl rfl rfl rfl rfl))

theorem execPcieHotReset_keeps {s : State} :
    KeepsOut s (execPcieHotReset s) := by
  unfold execPcieHotReset
  have h := Keeps.refl s
  try dsimp only
  repeat' (first
    | with_reducible assumption | with_reducible apply State.internalReset_keeps | with_reducible apply KeepsOut.next
    | split)

theorem execFunctionLevelReset_keeps {s : State} :
    KeepsOut s (execFunctionLevelReset s) := by
  unfold execFunctionLevelReset
  have h := Keeps.refl s
  try dsimp only
  repeat' (first
    | with_reducible assumption | with_reducible apply State.internalReset_keeps | with_reducible apply KeepsOut.next
    | split)

theorem execInternalResetHoldExpire_keeps (fuses : FuseRead) {s : State} :
    KeepsOut s (execInternalResetHoldExpire fuses s) := by
  unfold execInternalResetHoldExpire
  have h := Keeps.refl s
  try dsimp only
  repeat' (first
    | with_reducible assumption | with_reducible apply State.advanceTo_keeps
    | with_reducible apply State.unreset_keeps | with_reducible apply KeepsOut.next
    | (simp only [keeps_mk]; with_reducible refine KeepsLit.of ?_ rfl rfl rfl rfl rfl rfl) | split)

theorem execPowerLoss_keeps {s : State} :
    KeepsOut s (execPowerLoss s) := by
  unfold execPowerLoss
  have h := Keeps.refl s
  try dsimp only
  repeat' (first
    | with_reducible assumption | with_reducible apply State.drawNat_keeps | with_reducible apply State.updStack_keeps
    | with_reducible apply State.coldReset_keeps | with_reducible apply KeepsOut.next
    | with_reducible apply Keeps.foldl
    | (simp only [keeps_mk]; with_reducible refine KeepsLit.of ?_ rfl rfl rfl rfl rfl rfl) | intro _ | split)

theorem execStrapSample_keeps {s : State} :
    KeepsOut s (execStrapSample s) := by
  unfold execStrapSample
  have h := Keeps.refl s
  try dsimp only
  repeat' (first
    | with_reducible assumption | with_reducible apply State.advanceTo_keeps
    | with_reducible apply State.toReset_keeps | with_reducible apply KeepsOut.next
    | (simp only [keeps_mk]; with_reducible refine KeepsLit.of ?_ rfl rfl rfl rfl rfl rfl) | split)

theorem devReset_keeps {s0 s : State} (r : Req) (h : Keeps s0 s) :
    KeepsRes s0 (devReset.run r s) := by
  unfold devReset
  try dsimp only
  repeat' (first
    | with_reducible assumption | with_reducible apply KeepsRes.okay
    | (simp only [keeps_mk]; with_reducible refine KeepsLit.of ?_ rfl rfl rfl rfl rfl rfl))

theorem execDevReset_keeps (via : Via) {s : State} : KeepsOut s (execDevReset via s) := serve_keeps devReset_keeps

theorem execDevResetStart_keeps {s : State} :
    KeepsOut s (execDevResetStart s) := by
  unfold execDevResetStart
  have h := Keeps.refl s
  try dsimp only
  repeat' (first
    | with_reducible assumption | with_reducible apply State.advanceTo_keeps
    | with_reducible apply State.writeBackAll_keeps | with_reducible apply State.internalReset_keeps
    | with_reducible apply KeepsOut.next | split)

theorem execSmbReset_keeps (kind : Nat) (confirm : Nat) (pec : Pec) {s : State} :
    KeepsOut s (execSmbReset kind confirm pec s) := by
  unfold execSmbReset
  have h := Keeps.refl s
  try dsimp only
  repeat' (first
    | with_reducible assumption | with_reducible apply State.emit_keeps | with_reducible apply State.nackPec_keeps
    | with_reducible apply State.internalReset_keeps | with_reducible apply KeepsOut.next | split)

theorem State.withRec_keeps {s0 s : State} (rs : List Rec) (t : Nat) {f : State → Bytes → State}
    (hf : ∀ b {u : State}, Keeps s0 u → Keeps s0 (f u b)) (h : Keeps s0 s) : Keeps s0 (s.withRec rs t f) := by
  unfold State.withRec
  split
  · exact hf _ h
  · exact h

theorem State.withEach_keeps {s0 s : State} (rs : List Rec) (t : Nat) {f : State → Bytes → State}
    (hf : ∀ b {u : State}, Keeps s0 u → Keeps s0 (f u b)) (h : Keeps s0 s) : Keeps s0 (s.withEach rs t f) :=
  Keeps.foldl _ h fun _ _ g => hf _ g

theorem State.setLayout_keeps {s0 s : State} (rs : List Rec) (h : Keeps s0 s) :
    Keeps s0 (State.setLayout s rs) := by
  unfold State.setLayout
  try dsimp only
  repeat' (first
    | with_reducible assumption | with_reducible apply State.forgetHost_keeps
    | with_reducible apply State.assignBuckets_keeps | with_reducible apply State.withRec_keeps
    | (simp only [keeps_mk]; with_reducible refine KeepsLit.of ?_ rfl rfl rfl rfl rfl rfl)
    | (simp only [keeps_mk]; with_reducible refine KeepsLit.wide ?_ ?_ ?_ ?_ ?_ ?_ ?_) | exact State.Canonical.mem ‹_›
    | exact State.Canonical.ram ‹_› | exact State.Canonical.scratch ‹_› | exact State.Canonical.lanes ‹_›
    | exact State.Canonical.pool ‹_› | with_reducible apply filter_wf | exact (List.not_mem_nil ‹_›).elim | intro _)

theorem State.setValleys_keeps {s0 s : State} (rs : List Rec) (h : Keeps s0 s) :
    Keeps s0 (State.setValleys s rs) := by
  unfold State.setValleys
  try dsimp only
  repeat' (first
    | with_reducible assumption | with_reducible apply State.withRec_keeps
    | with_reducible apply State.startValley_keeps | with_reducible apply Keeps.foldl
    | (simp only [keeps_mk]; with_reducible refine KeepsLit.of ?_ rfl rfl rfl rfl rfl rfl) | intro _ | split)

theorem State.setFabric_keeps {s0 s : State} (first : Bool) (rs : List Rec) (h : Keeps s0 s) :
    Keeps s0 (State.setFabric s first rs) := by
  unfold State.setFabric
  try dsimp only
  repeat' (first
    | with_reducible assumption | with_reducible apply State.withRec_keeps
    | (simp only [keeps_mk]; with_reducible refine KeepsLit.of ?_ rfl rfl rfl rfl rfl rfl) | intro _)

theorem State.setLinks_keeps {s0 s : State} (h : Keeps s0 s) :
    Keeps s0 (State.setLinks s) := by
  unfold State.setLinks
  try dsimp only
  repeat' (first
    | with_reducible assumption | with_reducible apply State.startLink_keeps
    | with_reducible apply State.updLink_keeps | with_reducible apply Keeps.foldl | intro _ | split)

theorem State.setNets_keeps {s0 s : State} (rs : List Rec) (h : Keeps s0 s) :
    Keeps s0 (State.setNets s rs) := by
  unfold State.setNets
  try dsimp only
  repeat' (first
    | with_reducible assumption | with_reducible apply State.noteEdges_keeps
    | with_reducible apply State.withEach_keeps | with_reducible apply State.updEth_keeps
    | with_reducible apply State.withRec_keeps | with_reducible apply State.setPool_keeps
    | (simp only [keeps_mk]; with_reducible refine KeepsLit.of ?_ rfl rfl rfl rfl rfl rfl)
    | (simp only [keeps_mk]; with_reducible refine KeepsLit.wide ?_ ?_ ?_ ?_ ?_ ?_ ?_) | exact State.Canonical.mem ‹_›
    | exact State.Canonical.ram ‹_› | exact State.Canonical.scratch ‹_› | exact State.Canonical.lanes ‹_›
    | exact State.Canonical.lines ‹_› _ ‹_› | with_reducible exact nil_wf | intro _)

theorem State.setOthers_keeps {s0 s : State} (rs : List Rec) (h : Keeps s0 s) :
    Keeps s0 (State.setOthers s rs) := by
  unfold State.setOthers
  try dsimp only
  repeat' (first
    | with_reducible assumption | with_reducible apply State.withRec_keeps | with_reducible apply State.setPwr_keeps
    | with_reducible apply State.setMask_keeps | with_reducible apply State.mapPins_keeps
    | with_reducible apply State.setSmb_keeps
    | (simp only [keeps_mk]; with_reducible refine KeepsLit.of ?_ rfl rfl rfl rfl rfl rfl) | intro _)

theorem State.accept_keeps {s0 s : State} (c : Commit) (rs : List Rec) (h : Keeps s0 s) :
    Keeps s0 (State.accept s c rs) := by
  unfold State.accept
  try dsimp only
  repeat' (first
    | with_reducible assumption | with_reducible apply State.setLayout_keeps
    | with_reducible apply State.setValleys_keeps | with_reducible apply State.setFabric_keeps
    | with_reducible apply State.setNets_keeps | with_reducible apply State.setOthers_keeps
    | with_reducible apply State.setLinks_keeps | with_reducible apply State.doneOpt_keeps
    | with_reducible apply State.enter_keeps
    | (simp only [keeps_mk]; with_reducible refine KeepsLit.of ?_ rfl rfl rfl rfl rfl rfl))

theorem State.refuse_keeps {s0 s : State} (c : Commit) (detail : Nat) (h : Keeps s0 s) :
    Keeps s0 (State.refuse s c detail) := by
  unfold State.refuse
  try dsimp only
  repeat' (first
    | with_reducible assumption | with_reducible apply State.linksDown_keeps
    | with_reducible apply State.doneOpt_keeps | with_reducible apply State.reject_keeps
    | (simp only [keeps_mk]; with_reducible refine KeepsLit.of ?_ rfl rfl rfl rfl rfl rfl))

theorem execConfigCheckDone_keeps {s : State} :
    KeepsOut s (execConfigCheckDone s) := by
  unfold execConfigCheckDone
  have h := Keeps.refl s
  try dsimp only
  repeat' (first
    | with_reducible assumption | with_reducible apply State.accept_keeps | with_reducible apply State.refuse_keeps
    | with_reducible apply KeepsOut.next | split)

theorem State.autoCommit_keeps {s0 s : State} (h : Keeps s0 s) :
    Keeps s0 (State.autoCommit s) := by
  unfold State.autoCommit
  try dsimp only
  repeat' (first
    | with_reducible assumption | with_reducible apply State.reject_keeps | with_reducible apply State.enter_keeps
    | (simp only [keeps_mk]; with_reducible refine KeepsLit.of ?_ rfl rfl rfl rfl rfl rfl) | split)

theorem State.failSelftest_keeps {s0 s : State} (u : UnitRef) (h : Keeps s0 s) :
    Keeps s0 (State.failSelftest s u) := by
  unfold State.failSelftest
  try dsimp only
  repeat' (first
    | with_reducible assumption | with_reducible apply State.stage_keeps | with_reducible apply State.retireUnit_keeps
    | (simp only [keeps_mk]; with_reducible refine KeepsLit.of ?_ rfl rfl rfl rfl rfl rfl) | split)

theorem execSelftestDone_keeps (coresOk : Bool) (frontEndOk : Bool) (failed : List UnitRef) {s : State} :
    KeepsOut s (execSelftestDone coresOk frontEndOk failed s) := by
  unfold execSelftestDone
  have h := Keeps.refl s
  try dsimp only
  repeat' (first
    | with_reducible assumption | with_reducible apply State.holdAtStart_keeps
    | with_reducible apply State.failSelftest_keeps | with_reducible apply State.enter_keeps
    | with_reducible apply KeepsOut.next | with_reducible apply Keeps.foldl | split)

theorem State.startFirmware_keeps {s0 s : State} (region : Nat) (image : Bytes) (h : Keeps s0 s) :
    Keeps s0 (State.startFirmware s region image) := by
  unfold State.startFirmware
  try dsimp only
  repeat' (first
    | with_reducible assumption | with_reducible apply State.drawNat_keeps
    | with_reducible apply State.zeroRings_keeps | with_reducible apply State.enter_keeps
    | with_reducible apply State.autoCommit_keeps
    | (simp only [keeps_mk]; with_reducible refine KeepsLit.of ?_ rfl rfl rfl rfl rfl rfl))

theorem execFwLoadDone_keeps (written : Option FlashWrite) {s : State} :
    KeepsOut s (execFwLoadDone written s) := by
  unfold execFwLoadDone
  have h := Keeps.refl s
  try dsimp only
  repeat' (first
    | with_reducible assumption | with_reducible apply State.startFirmware_keeps
    | with_reducible apply State.holdAtStart_keeps | with_reducible apply KeepsOut.next
    | (simp only [keeps_mk]; with_reducible refine KeepsLit.of ?_ rfl rfl rfl rfl rfl rfl) | split)

theorem State.programHard_keeps {s0 s : State} (i : Nat) (h : Keeps s0 s) :
    Keeps s0 (State.programHard s i) := by
  unfold State.programHard
  try dsimp only
  repeat' (first
    | with_reducible assumption | with_reducible apply State.stage_keeps | with_reducible apply State.updStack_keeps
    | with_reducible apply Keeps.foldl | intro _)

theorem State.completeTorn_keeps {s0 s : State} (h : Keeps s0 s) :
    Keeps s0 (State.completeTorn s) := by
  unfold State.completeTorn
  try dsimp only
  repeat' (first
    | with_reducible assumption | with_reducible apply State.poison_keeps | with_reducible apply Keeps.foldl
    | (simp only [keeps_mk]; with_reducible refine KeepsLit.of ?_ rfl rfl rfl rfl rfl rfl) | intro _ | split)

theorem execMemTrainingDone_keeps (spared : List Nat) (hardUsed : List Nat) (failedPc : List Nat) (failedCh : List Nat) {s : State} :
    KeepsOut s (execMemTrainingDone spared hardUsed failedPc failedCh s) := by
  unfold execMemTrainingDone
  have h := Keeps.refl s
  try dsimp only
  repeat' (first
    | with_reducible assumption | with_reducible apply State.programHard_keeps
    | with_reducible apply State.updStack_keeps | with_reducible apply State.completeTorn_keeps
    | with_reducible apply State.retireChannel_keeps | with_reducible apply State.clearPoison_keeps
    | with_reducible apply KeepsOut.next | with_reducible apply Keeps.foldl
    | (simp only [keeps_mk]; with_reducible refine KeepsLit.of ?_ rfl rfl rfl rfl rfl rfl)
    | (simp only [keeps_mk]; with_reducible refine KeepsLit.wide ?_ ?_ ?_ ?_ ?_ ?_ ?_) | exact State.Canonical.mem ‹_›
    | exact State.Canonical.ram ‹_› | exact State.Canonical.scratch ‹_› | exact State.Canonical.lanes ‹_›
    | exact State.Canonical.pool ‹_› | exact State.Canonical.lines ‹_› _ ‹_› | with_reducible apply zeroN_wf | intro _
    | split)

theorem execPcieConfigRequest_keeps {s : State} :
    KeepsOut s (execPcieConfigRequest s) := by
  unfold execPcieConfigRequest
  have h := Keeps.refl s
  try dsimp only
  repeat' (first
    | with_reducible assumption | with_reducible apply State.emit_keeps | with_reducible apply KeepsOut.next | split)

theorem execHeartbeatWatchdogExpire_keeps {s : State} :
    KeepsOut s (execHeartbeatWatchdogExpire s) := by
  unfold execHeartbeatWatchdogExpire
  have h := Keeps.refl s
  try dsimp only
  repeat' (first
    | with_reducible assumption | with_reducible apply State.advanceTo_keeps
    | with_reducible apply State.deviceFault_keeps | with_reducible apply KeepsOut.next | split)

theorem execLockstepMismatch_keeps (core : Nat) {s : State} :
    KeepsOut s (execLockstepMismatch core s) := by
  unfold execLockstepMismatch
  have h := Keeps.refl s
  try dsimp only
  repeat' (first
    | with_reducible assumption | with_reducible apply State.deviceFault_keeps | with_reducible apply KeepsOut.next
    | split)

theorem execThermalSupplyFault_keeps {s : State} :
    KeepsOut s (execThermalSupplyFault s) := by
  unfold execThermalSupplyFault
  have h := Keeps.refl s
  try dsimp only
  repeat' (first
    | with_reducible assumption | with_reducible apply State.deviceFault_keeps
    | with_reducible apply State.setPwr_keeps | with_reducible apply KeepsOut.next
    | (simp only [keeps_mk]; with_reducible refine KeepsLit.of ?_ rfl rfl rfl rfl rfl rfl) | split)

theorem execGlenGate_keeps (glen : Nat) {s : State} :
    KeepsOut s (execGlenGate glen s) := by
  unfold execGlenGate
  have h := Keeps.refl s
  try dsimp only
  repeat' (first
    | with_reducible assumption | with_reducible apply State.setPwr_keeps | with_reducible apply KeepsOut.next | split)

theorem devStatus_keeps {s0 s : State} (r : Req) (h : Keeps s0 s) :
    KeepsRes s0 (devStatus.run r s) := by
  unfold devStatus
  try dsimp only
  repeat' (first
    | with_reducible assumption | with_reducible apply KeepsRes.okay)

theorem execDevStatus_keeps (via : Via) {s : State} : KeepsOut s (execDevStatus via s) := serve_keeps devStatus_keeps

theorem State.setDrain_keeps {s0 s : State} (d : Option Drain) (h : Keeps s0 s) :
    Keeps s0 (State.setDrain s d) := by
  unfold State.setDrain
  try dsimp only
  repeat' (first
    | with_reducible assumption | (simp only [keeps_mk]; with_reducible refine KeepsLit.of ?_ rfl rfl rfl rfl rfl rfl))

theorem State.endAdvances_keeps {s0 s : State} (h : Keeps s0 s) :
    Keeps s0 (State.endAdvances s) := by
  unfold State.endAdvances
  try dsimp only
  repeat' (first
    | with_reducible assumption | with_reducible apply State.endAdvance_keeps | with_reducible apply Keeps.foldl
    | intro _)

theorem devDrain_keeps {s0 s : State} (r : Req) (h : Keeps s0 s) :
    KeepsRes s0 (devDrain.run r s) := by
  unfold devDrain
  try dsimp only
  repeat' (first
    | with_reducible assumption | with_reducible apply State.setDrain_keeps
    | with_reducible apply State.endAdvances_keeps | with_reducible apply State.enter_keeps
    | with_reducible apply KeepsRes.fail | (simp only [keepsRes_mk]; with_reducible refine ⟨?_, ?_⟩)
    | (simp only [keeps_mk]; with_reducible refine KeepsLit.of ?_ rfl rfl rfl rfl rfl rfl) | intro _ | split)

theorem execDevDrain_keeps (via : Via) {s : State} : KeepsOut s (execDevDrain via s) := serve_keeps devDrain_keeps

theorem execDrainLimitExpire_keeps {s : State} :
    KeepsOut s (execDrainLimitExpire s) := by
  unfold execDrainLimitExpire
  have h := Keeps.refl s
  try dsimp only
  repeat' (first
    | with_reducible assumption | with_reducible apply State.advanceTo_keeps
    | with_reducible apply State.teardown_keeps | with_reducible apply State.setDrain_keeps
    | with_reducible apply KeepsOut.next | with_reducible apply Keeps.foldl | intro _ | split)

theorem State.discardJobs_keeps {s0 s : State} (h : Keeps s0 s) :
    Keeps s0 (State.discardJobs s) := by
  unfold State.discardJobs
  try dsimp only
  repeat' (first
    | with_reducible assumption | with_reducible apply State.noteEdges_keeps
    | (simp only [keeps_mk]; with_reducible refine KeepsLit.wide ?_ ?_ ?_ ?_ ?_ ?_ ?_)
    | exact State.Canonical.mem ‹_› | exact State.Canonical.ram ‹_› | with_reducible exact nil_wf
    | exact (List.not_mem_nil ‹_›).elim | intro _)

theorem State.arriveReconfig_keeps {s0 s : State} (d : Drain) (h : Keeps s0 s) :
    Keeps s0 (State.arriveReconfig s d) := by
  unfold State.arriveReconfig
  try dsimp only
  repeat' (first
    | with_reducible assumption | with_reducible apply State.zeroRings_keeps
    | with_reducible apply State.finishChange_keeps | with_reducible apply State.endDeferred_keeps
    | with_reducible apply State.done_keeps | with_reducible apply State.writeBackAll_keeps
    | with_reducible apply State.linksDown_keeps | with_reducible apply State.setDrain_keeps
    | with_reducible apply State.discardJobs_keeps | with_reducible apply State.enter_keeps
    | with_reducible apply State.autoCommit_keeps | with_reducible apply Keeps.foldl)

theorem execDrainComplete_keeps {s : State} :
    KeepsOut s (execDrainComplete s) := by
  unfold execDrainComplete
  have h := Keeps.refl s
  try dsimp only
  repeat' (first
    | with_reducible assumption | with_reducible apply State.setDrain_keeps
    | with_reducible apply State.arriveReconfig_keeps | with_reducible apply KeepsOut.next | split)

theorem execStandbyWritebackDone_keeps {s : State} :
    KeepsOut s (execStandbyWritebackDone s) := by
  unfold execStandbyWritebackDone
  have h := Keeps.refl s
  try dsimp only
  repeat' (first
    | with_reducible assumption | with_reducible apply State.emptyLines_keeps
    | with_reducible apply State.linksDown_keeps | with_reducible apply State.setDrain_keeps
    | with_reducible apply KeepsOut.next | split)

theorem execStandbySelfRefreshDone_keeps {s : State} :
    KeepsOut s (execStandbySelfRefreshDone s) := by
  unfold execStandbySelfRefreshDone
  have h := Keeps.refl s
  try dsimp only
  repeat' (first
    | with_reducible assumption | with_reducible apply State.advanceTo_keeps
    | with_reducible apply State.setDrain_keeps | with_reducible apply KeepsOut.next
    | (simp only [keeps_mk]; with_reducible refine KeepsLit.of ?_ rfl rfl rfl rfl rfl rfl) | split)

theorem State.disarm_keeps {s0 s : State} (h : Keeps s0 s) :
    Keeps s0 (State.disarm s) := by
  unfold State.disarm
  try dsimp only
  repeat' (first
    | with_reducible assumption | with_reducible apply State.endAdvance_keeps
    | with_reducible apply State.setChange_keeps | with_reducible apply State.enterCache_keeps
    | with_reducible apply State.flipAll_keeps | with_reducible apply Keeps.foldl
    | (simp only [keeps_mk]; with_reducible refine KeepsLit.of ?_ rfl rfl rfl rfl rfl rfl) | intro _ | split)

theorem execStandbyEntryDone_keeps {s : State} :
    KeepsOut s (execStandbyEntryDone s) := by
  unfold execStandbyEntryDone
  have h := Keeps.refl s
  try dsimp only
  repeat' (first
    | with_reducible assumption | with_reducible apply State.disarm_keeps
    | with_reducible apply State.endDeferred_keeps | with_reducible apply State.setPwr_keeps
    | with_reducible apply State.done_keeps | with_reducible apply State.setDrain_keeps
    | with_reducible apply State.enter_keeps | with_reducible apply KeepsOut.next
    | (simp only [keeps_mk]; with_reducible refine KeepsLit.of ?_ rfl rfl rfl rfl rfl rfl) | split)

theorem execStandbyWakeVcore_keeps {s : State} :
    KeepsOut s (execStandbyWakeVcore s) := by
  unfold execStandbyWakeVcore
  have h := Keeps.refl s
  try dsimp only
  repeat' (first
    | with_reducible assumption | with_reducible apply State.advanceTo_keeps | with_reducible apply State.setPwr_keeps
    | with_reducible apply KeepsOut.next
    | (simp only [keeps_mk]; with_reducible refine KeepsLit.of ?_ rfl rfl rfl rfl rfl rfl) | split)

theorem execStandbyWakeMemoryDone_keeps {s : State} :
    KeepsOut s (execStandbyWakeMemoryDone s) := by
  unfold execStandbyWakeMemoryDone
  have h := Keeps.refl s
  try dsimp only
  repeat' (first
    | with_reducible assumption | with_reducible apply State.setPwr_keeps | with_reducible apply KeepsOut.next
    | (simp only [keeps_mk]; with_reducible refine KeepsLit.of ?_ rfl rfl rfl rfl rfl rfl) | split)

theorem State.restoreValleys_keeps {s0 s : State} (h : Keeps s0 s) :
    Keeps s0 (State.restoreValleys s) := by
  unfold State.restoreValleys
  try dsimp only
  repeat' (first
    | with_reducible assumption | (simp only [keeps_mk]; with_reducible refine KeepsLit.of ?_ rfl rfl rfl rfl rfl rfl))

theorem State.redrawBackoff_keeps {s0 s : State} (h : Keeps s0 s) :
    Keeps s0 (State.redrawBackoff s) := by
  unfold State.redrawBackoff
  try dsimp only
  repeat' (first
    | with_reducible assumption | with_reducible apply State.drawNat_keeps | with_reducible apply State.updLink_keeps
    | with_reducible apply Keeps.foldl | intro _ | split)

theorem execStandbyWakeDone_keeps {s : State} :
    KeepsOut s (execStandbyWakeDone s) := by
  unfold execStandbyWakeDone
  have h := Keeps.refl s
  try dsimp only
  repeat' (first
    | with_reducible assumption | with_reducible apply State.advanceTo_keeps | with_reducible apply State.setPwr_keeps
    | with_reducible apply State.restoreValleys_keeps | with_reducible apply State.redrawBackoff_keeps
    | with_reducible apply State.done_keeps | with_reducible apply State.enter_keeps
    | with_reducible apply KeepsOut.next | split)

theorem State.beginReturn_keeps {s0 s : State} (d : Deferred) (h : Keeps s0 s) :
    Keeps s0 (State.beginReturn s d) := by
  unfold State.beginReturn
  try dsimp only
  repeat' (first
    | with_reducible assumption | (simp only [keeps_mk]; with_reducible refine KeepsLit.wide ?_ ?_ ?_ ?_ ?_ ?_ ?_)
    | exact State.Canonical.mem ‹_› | exact State.Canonical.ram ‹_› | exact State.Canonical.pool ‹_›
    | exact State.Canonical.lines ‹_› _ ‹_› | with_reducible exact nil_wf | intro _)

theorem secLifecycleSet_keeps {s0 s : State} (r : Req) (h : Keeps s0 s) :
    KeepsRes s0 (secLifecycleSet.run r s) := by
  unfold secLifecycleSet
  try dsimp only
  repeat' (first
    | with_reducible assumption | with_reducible apply State.setSec_keeps | with_reducible apply State.authorise_keeps
    | with_reducible apply State.beginReturn_keeps | with_reducible apply KeepsRes.fail
    | with_reducible apply KeepsRes.okay | with_reducible apply KeepsRes.pend | with_reducible apply KeepsRes.field
    | split)

theorem execSecLifecycleSet_keeps (via : Via) {s : State} : KeepsOut s (execSecLifecycleSet via s) := serve_keeps secLifecycleSet_keeps

theorem execLifecycleReturnDone_keeps {s : State} :
    KeepsOut s (execLifecycleReturnDone s) := by
  unfold execLifecycleReturnDone
  have h := Keeps.refl s
  try dsimp only
  repeat' (first
    | with_reducible assumption | with_reducible apply State.setSec_keeps
    | with_reducible apply State.internalReset_keeps | with_reducible apply KeepsOut.next
    | (simp only [keeps_mk]; with_reducible refine KeepsLit.wide ?_ ?_ ?_ ?_ ?_ ?_ ?_) | exact State.Canonical.mem ‹_›
    | exact State.Canonical.ram ‹_› | exact State.Canonical.scratch ‹_› | exact State.Canonical.lanes ‹_›
    | exact State.Canonical.pool ‹_› | with_reducible apply filter_wf | exact (List.not_mem_nil ‹_›).elim | intro _
    | split)

theorem stateOf_keeps {s0 s : State} {o : Out} (h : Keeps s0 s) (g : KeepsOut s o) : Keeps s0 (stateOf s o) := by
  cases o with
  | next t => exact h.trans (g.keeps t rfl)
  | fault f => exact h
  | refused r => exact h

theorem State.writeIrqEn_keeps {s0 s : State} (n : Nat) (v : W32) (h : Keeps s0 s) :
    Keeps s0 (State.writeIrqEn s n v) := by
  unfold State.writeIrqEn
  try dsimp only
  repeat' (first
    | with_reducible assumption | with_reducible apply State.updBox_keeps)

theorem State.writeIrqStat_keeps {s0 s : State} (n : Nat) (v : W32) (h : Keeps s0 s) :
    Keeps s0 (State.writeIrqStat s n v) := by
  unfold State.writeIrqStat
  try dsimp only
  repeat' (first
    | with_reducible assumption | with_reducible apply State.updBox_keeps)

theorem State.writeMbx_keeps {s0 s : State} (n : Nat) (r : Nat) (v : W32) (h : Keeps s0 s) :
    Keeps s0 (State.writeMbx s n r v) := by
  unfold State.writeMbx
  try dsimp only
  repeat' (first
    | with_reducible assumption | with_reducible apply stateOf_keeps | with_reducible apply execMbxDoorbellWrite_keeps
    | with_reducible apply execMbxRspConsWrite_keeps | with_reducible apply execMbxNtfConsWrite_keeps
    | with_reducible apply State.writeIrqEn_keeps | with_reducible apply State.writeIrqStat_keeps | split)

theorem State.writeGpio_keeps {s0 s : State} (r : Nat) (v : W32) (h : Keeps s0 s) :
    Keeps s0 (State.writeGpio s r v) := by
  unfold State.writeGpio
  try dsimp only
  repeat' (first
    | with_reducible assumption | with_reducible apply stateOf_keeps
    | with_reducible apply execGpioOutLatchWrite_keeps | with_reducible apply execGpioOutSetWrite_keeps
    | with_reducible apply execGpioOutClrWrite_keeps
    | (simp only [keeps_mk]; with_reducible refine KeepsLit.of ?_ rfl rfl rfl rfl rfl rfl) | split)

theorem State.writeFlt_keeps {s0 s : State} (r : Nat) (v : W32) (h : Keeps s0 s) :
    Keeps s0 (State.writeFlt s r v) := by
  unfold State.writeFlt
  try dsimp only
  repeat' (first
    | with_reducible assumption | with_reducible apply stateOf_keeps | with_reducible apply execFltRingConsWrite_keeps
    | with_reducible apply State.setFlt_keeps | split)

theorem State.writeSynCtrl_keeps {s0 s : State} (g : Nat) (v : W32) (h : Keeps s0 s) :
    Keeps s0 (State.writeSynCtrl s g v) := by
  unfold State.writeSynCtrl
  try dsimp only
  repeat' (first
    | with_reducible assumption | with_reducible apply State.setObj_keeps | split)

theorem State.writeSynStatus_keeps {s0 s : State} (g : Nat) (v : W32) (h : Keeps s0 s) :
    Keeps s0 (State.writeSynStatus s g v) := by
  unfold State.writeSynStatus
  try dsimp only
  repeat' (first
    | with_reducible assumption | with_reducible apply State.setObj_keeps | split)

theorem State.writeSync_keeps {s0 s : State} (g : Nat) (r : Nat) (v : W64) (h : Keeps s0 s) :
    Keeps s0 (State.writeSync s g r v) := by
  unfold State.writeSync
  try dsimp only
  repeat' (first
    | with_reducible assumption | with_reducible apply stateOf_keeps | with_reducible apply execSynAddWrite_keeps
    | with_reducible apply execSynSetWrite_keeps | with_reducible apply execSynNotifyAtWrite_keeps
    | with_reducible apply State.writeSynCtrl_keeps | with_reducible apply execSynArmWrite_keeps
    | with_reducible apply State.writeSynStatus_keeps | split)

theorem State.writeBell_keeps {s0 s : State} (q : Nat) (r : Nat) (v : W32) (h : Keeps s0 s) :
    Keeps s0 (State.writeBell s q r v) := by
  unfold State.writeBell
  try dsimp only
  repeat' (first
    | with_reducible assumption | with_reducible apply stateOf_keeps
    | with_reducible apply execCfeSqDoorbellWrite_keeps | with_reducible apply execCfeCqHeadWrite_keeps
    | with_reducible apply execCfeCqArmWrite_keeps | split)

theorem State.write4_keeps {s0 s : State} (o : Nat) (v : W32) (h : Keeps s0 s) :
    Keeps s0 (State.write4 s o v) := by
  unfold State.write4
  try dsimp only
  repeat' (first
    | with_reducible assumption | with_reducible apply State.writeMbx_keeps
    | with_reducible apply State.writeGpio_keeps | with_reducible apply State.writeFlt_keeps
    | with_reducible apply State.writeSync_keeps | with_reducible apply State.writeBell_keeps | split)

theorem State.writeRing_keeps {s0 : State} (d : Bytes) : ∀ (o : Nat) {s : State}, Keeps s0 s → Keeps s0 (s.writeRing o d) := by
  induction d with
  | nil => intro o s h; exact h
  | cons b d ih =>
    intro o s h
    refine ih (o + 1) ?_
    split
    · rw [keeps_mk]
      exact .wide h State.Canonical.mem (fun w => wr_wf _ _ _ w.ram) State.Canonical.scratch State.Canonical.lanes
        State.Canonical.pool State.Canonical.lines
    · exact h

theorem execRegisterWrite_keeps (offset : Nat) (data : Bytes × Bool) {s : State} :
    KeepsOut s (execRegisterWrite offset data s) := by
  unfold execRegisterWrite
  have h := Keeps.refl s
  try dsimp only
  repeat' (first
    | with_reducible assumption | with_reducible apply State.writeSync_keeps | with_reducible apply State.write4_keeps
    | with_reducible apply State.writeRing_keeps | with_reducible apply KeepsOut.next
    | with_reducible apply Keeps.foldl
    | (simp only [keeps_mk]; with_reducible refine KeepsLit.of ?_ rfl rfl rfl rfl rfl rfl) | intro _ | split)

end Sys2Proof.Machine
end

