-- ==== Sys2Proof/Laws/Serve.lean ====
section
/-! SUPPORT. What one mailbox command answers, by the outcome of the checks of R47. -/
namespace Sys2Proof.Machine
open Sys2Proof

/-- Nothing happens where no request waits. -/
theorem serveIf_idle {m : Msg} {picks : Req → Bool} {via : Via} {s : State} (h : s.nextRaw via = none) :
    serveIf m picks via s = .next s := by
  simp [serveIf, h]

/-- A waiting request that the row serves is answered. -/
theorem serveIf_answer {m : Msg} {picks : Req → Bool} {r : Req} {s : State}
    (w : (s.nextRaw r.via).map (parseReq r.via) = some r) (o : r.op = m.op) (p : picks r) :
    serveIf m picks r.via s = .next (m.answer r s) := by
  obtain ⟨raw, h, e⟩ := Option.map_eq_some_iff.1 w
  simp [serveIf, h, e, o, p]

/-- A waiting request of another message is left alone. -/
theorem serveIf_other {m : Msg} {picks : Req → Bool} {r : Req} {s : State}
    (w : (s.nextRaw r.via).map (parseReq r.via) = some r) (o : r.op ≠ m.op ∨ ¬ picks r) :
    serveIf m picks r.via s = .next s := by
  obtain ⟨raw, h, e⟩ := Option.map_eq_some_iff.1 w
  simp only [serveIf, h, e, Bool.and_eq_true, decide_eq_true_eq]
  rw [if_neg]
  rintro ⟨a, b⟩
  exact o.elim (· a) (· b)

/-- A request that a check refuses is answered with that check's status and changes nothing else (R46, R47). -/
theorem Msg.answer_refused {m : Msg} {r : Req} {s : State} {st : St} {d : Nat}
    (h : m.check r (s.consume r.via) = some (st, d)) :
    m.answer r s = (s.consume r.via).respond s r st d := by
  simp [Msg.answer, Msg.reply, h, Res.fail, State.respond]

/-- An accepted request whose outcome is not deferred. -/
theorem Msg.answer_now {m : Msg} {r : Req} {s : State} (h : Accepted m r s)
    (p : (m.run r (s.consume r.via)).st ≠ .pending) :
    m.answer r s = (m.run r (s.consume r.via)).after ((m.run r (s.consume r.via)).s.respond s r
      (m.run r (s.consume r.via)).st (m.run r (s.consume r.via)).detail (m.run r (s.consume r.via)).pay) := by
  have e : (s.consume r.via).sec.returning = none := by
    have : (s.consume r.via).sec = s.sec := by
      unfold State.consume; split <;> rfl
    rw [this]; exact h.free
  simp [Msg.answer, Msg.reply, h.checks, e, p, State.respond]

/-- An accepted request whose outcome is deferred. -/
theorem Msg.answer_later {m : Msg} {r : Req} {s : State} (h : Accepted m r s)
    (p : (m.run r (s.consume r.via)).st = .pending) :
    m.answer r s = (m.run r (s.consume r.via)).after (((m.run r (s.consume r.via)).s.deferring r).respond s r
      .pending (m.run r (s.consume r.via)).detail (m.run r (s.consume r.via)).pay) := by
  have e : (s.consume r.via).sec.returning = none := by
    have : (s.consume r.via).sec = s.sec := by
      unfold State.consume; split <;> rfl
    rw [this]; exact h.free
  simp [Msg.answer, Msg.reply, h.checks, e, p, State.respond, State.deferring, Nat.not_le.2 h.room]

theorem serveIf_now {m : Msg} {picks : Req → Bool} {r : Req} {s : State} (h : Accepted m r s) (k : picks r)
    (p : (m.run r (s.consume r.via)).st ≠ .pending) :
    serveIf m picks r.via s = .next ((m.run r (s.consume r.via)).after ((m.run r (s.consume r.via)).s.respond s r
      (m.run r (s.consume r.via)).st (m.run r (s.consume r.via)).detail (m.run r (s.consume r.via)).pay)) := by
  rw [serveIf_answer h.waits h.op k, Msg.answer_now h p]

theorem serveIf_later {m : Msg} {picks : Req → Bool} {r : Req} {s : State} (h : Accepted m r s) (k : picks r)
    (p : (m.run r (s.consume r.via)).st = .pending) :
    serveIf m picks r.via s = .next ((m.run r (s.consume r.via)).after
      (((m.run r (s.consume r.via)).s.deferring r).respond s r .pending (m.run r (s.consume r.via)).detail
        (m.run r (s.consume r.via)).pay)) := by
  rw [serveIf_answer h.waits h.op k, Msg.answer_later h p]

theorem serve_now {m : Msg} {r : Req} {s : State} (h : Accepted m r s) (p : (m.run r (s.consume r.via)).st ≠ .pending) :
    serve m r.via s = .next ((m.run r (s.consume r.via)).after ((m.run r (s.consume r.via)).s.respond s r
      (m.run r (s.consume r.via)).st (m.run r (s.consume r.via)).detail (m.run r (s.consume r.via)).pay)) :=
  serveIf_now h rfl p

theorem serve_later {m : Msg} {r : Req} {s : State} (h : Accepted m r s) (p : (m.run r (s.consume r.via)).st = .pending) :
    serve m r.via s = .next ((m.run r (s.consume r.via)).after
      (((m.run r (s.consume r.via)).s.deferring r).respond s r .pending (m.run r (s.consume r.via)).detail
        (m.run r (s.consume r.via)).pay)) :=
  serveIf_later h rfl p

end Sys2Proof.Machine
end

