-- ==== Sys2Proof/Laws/State.lean ====
section
/-! SUPPORT. Each named update leaves every other field of the state alone, one lemma per field, and writes its own. -/
namespace Sys2Proof.Machine
open Sys2Proof

@[simp] theorem State.setBox_fuse (s : State) (n : Nat) (b : Mbx) : (s.setBox n b).fuse = s.fuse := rfl
@[simp] theorem State.setBox_rst (s : State) (n : Nat) (b : Mbx) : (s.setBox n b).rst = s.rst := rfl
@[simp] theorem State.setBox_svc (s : State) (n : Nat) (b : Mbx) : (s.setBox n b).svc = s.svc := rfl
@[simp] theorem State.setBox_dev (s : State) (n : Nat) (b : Mbx) : (s.setBox n b).dev = s.dev := rfl
@[simp] theorem State.setBox_ram (s : State) (n : Nat) (b : Mbx) : (s.setBox n b).ram = s.ram := rfl
@[simp] theorem State.setBox_gpio (s : State) (n : Nat) (b : Mbx) : (s.setBox n b).gpio = s.gpio := rfl
@[simp] theorem State.setBox_smb (s : State) (n : Nat) (b : Mbx) : (s.setBox n b).smb = s.smb := rfl
@[simp] theorem State.setBox_tap (s : State) (n : Nat) (b : Mbx) : (s.setBox n b).tap = s.tap := rfl
@[simp] theorem State.setBox_sec (s : State) (n : Nat) (b : Mbx) : (s.setBox n b).sec = s.sec := rfl
@[simp] theorem State.setBox_pwr (s : State) (n : Nat) (b : Mbx) : (s.setBox n b).pwr = s.pwr := rfl
@[simp] theorem State.setBox_flt (s : State) (n : Nat) (b : Mbx) : (s.setBox n b).flt = s.flt := rfl
@[simp] theorem State.setBox_time (s : State) (n : Nat) (b : Mbx) : (s.setBox n b).time = s.time := rfl
@[simp] theorem State.setBox_pace (s : State) (n : Nat) (b : Mbx) : (s.setBox n b).pace = s.pace := rfl
@[simp] theorem State.setBox_mem (s : State) (n : Nat) (b : Mbx) : (s.setBox n b).mem = s.mem := rfl
@[simp] theorem State.setBox_basin (s : State) (n : Nat) (b : Mbx) : (s.setBox n b).basin = s.basin := rfl
@[simp] theorem State.setBox_ext (s : State) (n : Nat) (b : Mbx) : (s.setBox n b).ext = s.ext := rfl
@[simp] theorem State.setBox_valleys (s : State) (n : Nat) (b : Mbx) : (s.setBox n b).valleys = s.valleys := rfl
@[simp] theorem State.setBox_drainSt (s : State) (n : Nat) (b : Mbx) : (s.setBox n b).drainSt = s.drainSt := rfl
@[simp] theorem State.setBox_core (s : State) (n : Nat) (b : Mbx) : (s.setBox n b).core = s.core := rfl
@[simp] theorem State.setBox_link (s : State) (n : Nat) (b : Mbx) : (s.setBox n b).link = s.link := rfl
@[simp] theorem State.setBox_links (s : State) (n : Nat) (b : Mbx) : (s.setBox n b).links = s.links := rfl
@[simp] theorem State.setBox_fabric (s : State) (n : Nat) (b : Mbx) : (s.setBox n b).fabric = s.fabric := rfl
@[simp] theorem State.setBox_eth (s : State) (n : Nat) (b : Mbx) : (s.setBox n b).eth = s.eth := rfl
@[simp] theorem State.setBox_mgmt (s : State) (n : Nat) (b : Mbx) : (s.setBox n b).mgmt = s.mgmt := rfl
@[simp] theorem State.setBox_pool (s : State) (n : Nat) (b : Mbx) : (s.setBox n b).pool = s.pool := rfl
@[simp] theorem State.setBox_ford (s : State) (n : Nat) (b : Mbx) : (s.setBox n b).ford = s.ford := rfl
@[simp] theorem State.setBox_cyn (s : State) (n : Nat) (b : Mbx) : (s.setBox n b).cyn = s.cyn := rfl
@[simp] theorem State.setBox_free (s : State) (n : Nat) (b : Mbx) : (s.setBox n b).free = s.free := rfl
@[simp] theorem State.setBox_out (s : State) (n : Nat) (b : Mbx) : (s.setBox n b).out = s.out := rfl
@[simp] theorem State.setBox_pending (s : State) (n : Nat) (b : Mbx) : (s.setBox n b).pending = s.pending := rfl
@[simp] theorem State.setBox_mbx (s : State) (n : Nat) (b : Mbx) : (s.setBox n b).mbx = put s.mbx n b := rfl

@[simp] theorem State.updBox_fuse (s : State) (n : Nat) (f : Mbx → Mbx) : (s.updBox n f).fuse = s.fuse := rfl
@[simp] theorem State.updBox_rst (s : State) (n : Nat) (f : Mbx → Mbx) : (s.updBox n f).rst = s.rst := rfl
@[simp] theorem State.updBox_svc (s : State) (n : Nat) (f : Mbx → Mbx) : (s.updBox n f).svc = s.svc := rfl
@[simp] theorem State.updBox_dev (s : State) (n : Nat) (f : Mbx → Mbx) : (s.updBox n f).dev = s.dev := rfl
@[simp] theorem State.updBox_ram (s : State) (n : Nat) (f : Mbx → Mbx) : (s.updBox n f).ram = s.ram := rfl
@[simp] theorem State.updBox_gpio (s : State) (n : Nat) (f : Mbx → Mbx) : (s.updBox n f).gpio = s.gpio := rfl
@[simp] theorem State.updBox_smb (s : State) (n : Nat) (f : Mbx → Mbx) : (s.updBox n f).smb = s.smb := rfl
@[simp] theorem State.updBox_tap (s : State) (n : Nat) (f : Mbx → Mbx) : (s.updBox n f).tap = s.tap := rfl
@[simp] theorem State.updBox_sec (s : State) (n : Nat) (f : Mbx → Mbx) : (s.updBox n f).sec = s.sec := rfl
@[simp] theorem State.updBox_pwr (s : State) (n : Nat) (f : Mbx → Mbx) : (s.updBox n f).pwr = s.pwr := rfl
@[simp] theorem State.updBox_flt (s : State) (n : Nat) (f : Mbx → Mbx) : (s.updBox n f).flt = s.flt := rfl
@[simp] theorem State.updBox_time (s : State) (n : Nat) (f : Mbx → Mbx) : (s.updBox n f).time = s.time := rfl
@[simp] theorem State.updBox_pace (s : State) (n : Nat) (f : Mbx → Mbx) : (s.updBox n f).pace = s.pace := rfl
@[simp] theorem State.updBox_mem (s : State) (n : Nat) (f : Mbx → Mbx) : (s.updBox n f).mem = s.mem := rfl
@[simp] theorem State.updBox_basin (s : State) (n : Nat) (f : Mbx → Mbx) : (s.updBox n f).basin = s.basin := rfl
@[simp] theorem State.updBox_ext (s : State) (n : Nat) (f : Mbx → Mbx) : (s.updBox n f).ext = s.ext := rfl
@[simp] theorem State.updBox_valleys (s : State) (n : Nat) (f : Mbx → Mbx) : (s.updBox n f).valleys = s.valleys := rfl
@[simp] theorem State.updBox_drainSt (s : State) (n : Nat) (f : Mbx → Mbx) : (s.updBox n f).drainSt = s.drainSt := rfl
@[simp] theorem State.updBox_core (s : State) (n : Nat) (f : Mbx → Mbx) : (s.updBox n f).core = s.core := rfl
@[simp] theorem State.updBox_link (s : State) (n : Nat) (f : Mbx → Mbx) : (s.updBox n f).link = s.link := rfl
@[simp] theorem State.updBox_links (s : State) (n : Nat) (f : Mbx → Mbx) : (s.updBox n f).links = s.links := rfl
@[simp] theorem State.updBox_fabric (s : State) (n : Nat) (f : Mbx → Mbx) : (s.updBox n f).fabric = s.fabric := rfl
@[simp] theorem State.updBox_eth (s : State) (n : Nat) (f : Mbx → Mbx) : (s.updBox n f).eth = s.eth := rfl
@[simp] theorem State.updBox_mgmt (s : State) (n : Nat) (f : Mbx → Mbx) : (s.updBox n f).mgmt = s.mgmt := rfl
@[simp] theorem State.updBox_pool (s : State) (n : Nat) (f : Mbx → Mbx) : (s.updBox n f).pool = s.pool := rfl
@[simp] theorem State.updBox_ford (s : State) (n : Nat) (f : Mbx → Mbx) : (s.updBox n f).ford = s.ford := rfl
@[simp] theorem State.updBox_cyn (s : State) (n : Nat) (f : Mbx → Mbx) : (s.updBox n f).cyn = s.cyn := rfl
@[simp] theorem State.updBox_free (s : State) (n : Nat) (f : Mbx → Mbx) : (s.updBox n f).free = s.free := rfl
@[simp] theorem State.updBox_out (s : State) (n : Nat) (f : Mbx → Mbx) : (s.updBox n f).out = s.out := rfl
@[simp] theorem State.updBox_pending (s : State) (n : Nat) (f : Mbx → Mbx) : (s.updBox n f).pending = s.pending := rfl
@[simp] theorem State.updBox_mbx (s : State) (n : Nat) (f : Mbx → Mbx) : (s.updBox n f).mbx = put s.mbx n (f (s.box n)) := rfl

@[simp] theorem State.setStaging_fuse (s : State) (g : Option Staging) : (s.setStaging g).fuse = s.fuse := rfl
@[simp] theorem State.setStaging_rst (s : State) (g : Option Staging) : (s.setStaging g).rst = s.rst := rfl
@[simp] theorem State.setStaging_svc (s : State) (g : Option Staging) : (s.setStaging g).svc = s.svc := rfl
@[simp] theorem State.setStaging_mbx (s : State) (g : Option Staging) : (s.setStaging g).mbx = s.mbx := rfl
@[simp] theorem State.setStaging_ram (s : State) (g : Option Staging) : (s.setStaging g).ram = s.ram := rfl
@[simp] theorem State.setStaging_gpio (s : State) (g : Option Staging) : (s.setStaging g).gpio = s.gpio := rfl
@[simp] theorem State.setStaging_smb (s : State) (g : Option Staging) : (s.setStaging g).smb = s.smb := rfl
@[simp] theorem State.setStaging_tap (s : State) (g : Option Staging) : (s.setStaging g).tap = s.tap := rfl
@[simp] theorem State.setStaging_sec (s : State) (g : Option Staging) : (s.setStaging g).sec = s.sec := rfl
@[simp] theorem State.setStaging_pwr (s : State) (g : Option Staging) : (s.setStaging g).pwr = s.pwr := rfl
@[simp] theorem State.setStaging_flt (s : State) (g : Option Staging) : (s.setStaging g).flt = s.flt := rfl
@[simp] theorem State.setStaging_time (s : State) (g : Option Staging) : (s.setStaging g).time = s.time := rfl
@[simp] theorem State.setStaging_pace (s : State) (g : Option Staging) : (s.setStaging g).pace = s.pace := rfl
@[simp] theorem State.setStaging_mem (s : State) (g : Option Staging) : (s.setStaging g).mem = s.mem := rfl
@[simp] theorem State.setStaging_basin (s : State) (g : Option Staging) : (s.setStaging g).basin = s.basin := rfl
@[simp] theorem State.setStaging_ext (s : State) (g : Option Staging) : (s.setStaging g).ext = s.ext := rfl
@[simp] theorem State.setStaging_valleys (s : State) (g : Option Staging) : (s.setStaging g).valleys = s.valleys := rfl
@[simp] theorem State.setStaging_drainSt (s : State) (g : Option Staging) : (s.setStaging g).drainSt = s.drainSt := rfl
@[simp] theorem State.setStaging_core (s : State) (g : Option Staging) : (s.setStaging g).core = s.core := rfl
@[simp] theorem State.setStaging_link (s : State) (g : Option Staging) : (s.setStaging g).link = s.link := rfl
@[simp] theorem State.setStaging_links (s : State) (g : Option Staging) : (s.setStaging g).links = s.links := rfl
@[simp] theorem State.setStaging_fabric (s : State) (g : Option Staging) : (s.setStaging g).fabric = s.fabric := rfl
@[simp] theorem State.setStaging_eth (s : State) (g : Option Staging) : (s.setStaging g).eth = s.eth := rfl
@[simp] theorem State.setStaging_mgmt (s : State) (g : Option Staging) : (s.setStaging g).mgmt = s.mgmt := rfl
@[simp] theorem State.setStaging_pool (s : State) (g : Option Staging) : (s.setStaging g).pool = s.pool := rfl
@[simp] theorem State.setStaging_ford (s : State) (g : Option Staging) : (s.setStaging g).ford = s.ford := rfl
@[simp] theorem State.setStaging_cyn (s : State) (g : Option Staging) : (s.setStaging g).cyn = s.cyn := rfl
@[simp] theorem State.setStaging_free (s : State) (g : Option Staging) : (s.setStaging g).free = s.free := rfl
@[simp] theorem State.setStaging_out (s : State) (g : Option Staging) : (s.setStaging g).out = s.out := rfl
@[simp] theorem State.setStaging_pending (s : State) (g : Option Staging) : (s.setStaging g).pending = s.pending := rfl
@[simp] theorem State.setStaging_dev (s : State) (g : Option Staging) : (s.setStaging g).dev = { s.dev with staging := g } := rfl

@[simp] theorem State.setDrain_fuse (s : State) (d : Option Drain) : (s.setDrain d).fuse = s.fuse := rfl
@[simp] theorem State.setDrain_rst (s : State) (d : Option Drain) : (s.setDrain d).rst = s.rst := rfl
@[simp] theorem State.setDrain_svc (s : State) (d : Option Drain) : (s.setDrain d).svc = s.svc := rfl
@[simp] theorem State.setDrain_mbx (s : State) (d : Option Drain) : (s.setDrain d).mbx = s.mbx := rfl
@[simp] theorem State.setDrain_ram (s : State) (d : Option Drain) : (s.setDrain d).ram = s.ram := rfl
@[simp] theorem State.setDrain_gpio (s : State) (d : Option Drain) : (s.setDrain d).gpio = s.gpio := rfl
@[simp] theorem State.setDrain_smb (s : State) (d : Option Drain) : (s.setDrain d).smb = s.smb := rfl
@[simp] theorem State.setDrain_tap (s : State) (d : Option Drain) : (s.setDrain d).tap = s.tap := rfl
@[simp] theorem State.setDrain_sec (s : State) (d : Option Drain) : (s.setDrain d).sec = s.sec := rfl
@[simp] theorem State.setDrain_pwr (s : State) (d : Option Drain) : (s.setDrain d).pwr = s.pwr := rfl
@[simp] theorem State.setDrain_flt (s : State) (d : Option Drain) : (s.setDrain d).flt = s.flt := rfl
@[simp] theorem State.setDrain_time (s : State) (d : Option Drain) : (s.setDrain d).time = s.time := rfl
@[simp] theorem State.setDrain_pace (s : State) (d : Option Drain) : (s.setDrain d).pace = s.pace := rfl
@[simp] theorem State.setDrain_mem (s : State) (d : Option Drain) : (s.setDrain d).mem = s.mem := rfl
@[simp] theorem State.setDrain_basin (s : State) (d : Option Drain) : (s.setDrain d).basin = s.basin := rfl
@[simp] theorem State.setDrain_ext (s : State) (d : Option Drain) : (s.setDrain d).ext = s.ext := rfl
@[simp] theorem State.setDrain_valleys (s : State) (d : Option Drain) : (s.setDrain d).valleys = s.valleys := rfl
@[simp] theorem State.setDrain_drainSt (s : State) (d : Option Drain) : (s.setDrain d).drainSt = s.drainSt := rfl
@[simp] theorem State.setDrain_core (s : State) (d : Option Drain) : (s.setDrain d).core = s.core := rfl
@[simp] theorem State.setDrain_link (s : State) (d : Option Drain) : (s.setDrain d).link = s.link := rfl
@[simp] theorem State.setDrain_links (s : State) (d : Option Drain) : (s.setDrain d).links = s.links := rfl
@[simp] theorem State.setDrain_fabric (s : State) (d : Option Drain) : (s.setDrain d).fabric = s.fabric := rfl
@[simp] theorem State.setDrain_eth (s : State) (d : Option Drain) : (s.setDrain d).eth = s.eth := rfl
@[simp] theorem State.setDrain_mgmt (s : State) (d : Option Drain) : (s.setDrain d).mgmt = s.mgmt := rfl
@[simp] theorem State.setDrain_pool (s : State) (d : Option Drain) : (s.setDrain d).pool = s.pool := rfl
@[simp] theorem State.setDrain_ford (s : State) (d : Option Drain) : (s.setDrain d).ford = s.ford := rfl
@[simp] theorem State.setDrain_cyn (s : State) (d : Option Drain) : (s.setDrain d).cyn = s.cyn := rfl
@[simp] theorem State.setDrain_free (s : State) (d : Option Drain) : (s.setDrain d).free = s.free := rfl
@[simp] theorem State.setDrain_out (s : State) (d : Option Drain) : (s.setDrain d).out = s.out := rfl
@[simp] theorem State.setDrain_pending (s : State) (d : Option Drain) : (s.setDrain d).pending = s.pending := rfl
@[simp] theorem State.setDrain_dev (s : State) (d : Option Drain) : (s.setDrain d).dev = { s.dev with drain := d } := rfl

@[simp] theorem State.setLine_fuse (s : State) (l : Nat) (x : Line) : (s.setLine l x).fuse = s.fuse := rfl
@[simp] theorem State.setLine_rst (s : State) (l : Nat) (x : Line) : (s.setLine l x).rst = s.rst := rfl
@[simp] theorem State.setLine_svc (s : State) (l : Nat) (x : Line) : (s.setLine l x).svc = s.svc := rfl
@[simp] theorem State.setLine_dev (s : State) (l : Nat) (x : Line) : (s.setLine l x).dev = s.dev := rfl
@[simp] theorem State.setLine_mbx (s : State) (l : Nat) (x : Line) : (s.setLine l x).mbx = s.mbx := rfl
@[simp] theorem State.setLine_ram (s : State) (l : Nat) (x : Line) : (s.setLine l x).ram = s.ram := rfl
@[simp] theorem State.setLine_gpio (s : State) (l : Nat) (x : Line) : (s.setLine l x).gpio = s.gpio := rfl
@[simp] theorem State.setLine_smb (s : State) (l : Nat) (x : Line) : (s.setLine l x).smb = s.smb := rfl
@[simp] theorem State.setLine_tap (s : State) (l : Nat) (x : Line) : (s.setLine l x).tap = s.tap := rfl
@[simp] theorem State.setLine_sec (s : State) (l : Nat) (x : Line) : (s.setLine l x).sec = s.sec := rfl
@[simp] theorem State.setLine_pwr (s : State) (l : Nat) (x : Line) : (s.setLine l x).pwr = s.pwr := rfl
@[simp] theorem State.setLine_flt (s : State) (l : Nat) (x : Line) : (s.setLine l x).flt = s.flt := rfl
@[simp] theorem State.setLine_time (s : State) (l : Nat) (x : Line) : (s.setLine l x).time = s.time := rfl
@[simp] theorem State.setLine_pace (s : State) (l : Nat) (x : Line) : (s.setLine l x).pace = s.pace := rfl
@[simp] theorem State.setLine_mem (s : State) (l : Nat) (x : Line) : (s.setLine l x).mem = s.mem := rfl
@[simp] theorem State.setLine_ext (s : State) (l : Nat) (x : Line) : (s.setLine l x).ext = s.ext := rfl
@[simp] theorem State.setLine_valleys (s : State) (l : Nat) (x : Line) : (s.setLine l x).valleys = s.valleys := rfl
@[simp] theorem State.setLine_drainSt (s : State) (l : Nat) (x : Line) : (s.setLine l x).drainSt = s.drainSt := rfl
@[simp] theorem State.setLine_core (s : State) (l : Nat) (x : Line) : (s.setLine l x).core = s.core := rfl
@[simp] theorem State.setLine_link (s : State) (l : Nat) (x : Line) : (s.setLine l x).link = s.link := rfl
@[simp] theorem State.setLine_links (s : State) (l : Nat) (x : Line) : (s.setLine l x).links = s.links := rfl
@[simp] theorem State.setLine_fabric (s : State) (l : Nat) (x : Line) : (s.setLine l x).fabric = s.fabric := rfl
@[simp] theorem State.setLine_eth (s : State) (l : Nat) (x : Line) : (s.setLine l x).eth = s.eth := rfl
@[simp] theorem State.setLine_mgmt (s : State) (l : Nat) (x : Line) : (s.setLine l x).mgmt = s.mgmt := rfl
@[simp] theorem State.setLine_pool (s : State) (l : Nat) (x : Line) : (s.setLine l x).pool = s.pool := rfl
@[simp] theorem State.setLine_ford (s : State) (l : Nat) (x : Line) : (s.setLine l x).ford = s.ford := rfl
@[simp] theorem State.setLine_cyn (s : State) (l : Nat) (x : Line) : (s.setLine l x).cyn = s.cyn := rfl
@[simp] theorem State.setLine_free (s : State) (l : Nat) (x : Line) : (s.setLine l x).free = s.free := rfl
@[simp] theorem State.setLine_out (s : State) (l : Nat) (x : Line) : (s.setLine l x).out = s.out := rfl
@[simp] theorem State.setLine_pending (s : State) (l : Nat) (x : Line) : (s.setLine l x).pending = s.pending := rfl
@[simp] theorem State.setLine_basin (s : State) (l : Nat) (x : Line) : (s.setLine l x).basin = { s.basin with lines := put s.basin.lines l x } := rfl

@[simp] theorem State.setPaceValley_fuse (s : State) (v : Nat) (x : PaceValley) : (s.setPaceValley v x).fuse = s.fuse := rfl
@[simp] theorem State.setPaceValley_rst (s : State) (v : Nat) (x : PaceValley) : (s.setPaceValley v x).rst = s.rst := rfl
@[simp] theorem State.setPaceValley_svc (s : State) (v : Nat) (x : PaceValley) : (s.setPaceValley v x).svc = s.svc := rfl
@[simp] theorem State.setPaceValley_dev (s : State) (v : Nat) (x : PaceValley) : (s.setPaceValley v x).dev = s.dev := rfl
@[simp] theorem State.setPaceValley_mbx (s : State) (v : Nat) (x : PaceValley) : (s.setPaceValley v x).mbx = s.mbx := rfl
@[simp] theorem State.setPaceValley_ram (s : State) (v : Nat) (x : PaceValley) : (s.setPaceValley v x).ram = s.ram := rfl
@[simp] theorem State.setPaceValley_gpio (s : State) (v : Nat) (x : PaceValley) : (s.setPaceValley v x).gpio = s.gpio := rfl
@[simp] theorem State.setPaceValley_smb (s : State) (v : Nat) (x : PaceValley) : (s.setPaceValley v x).smb = s.smb := rfl
@[simp] theorem State.setPaceValley_tap (s : State) (v : Nat) (x : PaceValley) : (s.setPaceValley v x).tap = s.tap := rfl
@[simp] theorem State.setPaceValley_sec (s : State) (v : Nat) (x : PaceValley) : (s.setPaceValley v x).sec = s.sec := rfl
@[simp] theorem State.setPaceValley_pwr (s : State) (v : Nat) (x : PaceValley) : (s.setPaceValley v x).pwr = s.pwr := rfl
@[simp] theorem State.setPaceValley_flt (s : State) (v : Nat) (x : PaceValley) : (s.setPaceValley v x).flt = s.flt := rfl
@[simp] theorem State.setPaceValley_time (s : State) (v : Nat) (x : PaceValley) : (s.setPaceValley v x).time = s.time := rfl
@[simp] theorem State.setPaceValley_mem (s : State) (v : Nat) (x : PaceValley) : (s.setPaceValley v x).mem = s.mem := rfl
@[simp] theorem State.setPaceValley_basin (s : State) (v : Nat) (x : PaceValley) : (s.setPaceValley v x).basin = s.basin := rfl
@[simp] theorem State.setPaceValley_ext (s : State) (v : Nat) (x : PaceValley) : (s.setPaceValley v x).ext = s.ext := rfl
@[simp] theorem State.setPaceValley_valleys (s : State) (v : Nat) (x : PaceValley) : (s.setPaceValley v x).valleys = s.valleys := rfl
@[simp] theorem State.setPaceValley_drainSt (s : State) (v : Nat) (x : PaceValley) : (s.setPaceValley v x).drainSt = s.drainSt := rfl
@[simp] theorem State.setPaceValley_core (s : State) (v : Nat) (x : PaceValley) : (s.setPaceValley v x).core = s.core := rfl
@[simp] theorem State.setPaceValley_link (s : State) (v : Nat) (x : PaceValley) : (s.setPaceValley v x).link = s.link := rfl
@[simp] theorem State.setPaceValley_links (s : State) (v : Nat) (x : PaceValley) : (s.setPaceValley v x).links = s.links := rfl
@[simp] theorem State.setPaceValley_fabric (s : State) (v : Nat) (x : PaceValley) : (s.setPaceValley v x).fabric = s.fabric := rfl
@[simp] theorem State.setPaceValley_eth (s : State) (v : Nat) (x : PaceValley) : (s.setPaceValley v x).eth = s.eth := rfl
@[simp] theorem State.setPaceValley_mgmt (s : State) (v : Nat) (x : PaceValley) : (s.setPaceValley v x).mgmt = s.mgmt := rfl
@[simp] theorem State.setPaceValley_pool (s : State) (v : Nat) (x : PaceValley) : (s.setPaceValley v x).pool = s.pool := rfl
@[simp] theorem State.setPaceValley_ford (s : State) (v : Nat) (x : PaceValley) : (s.setPaceValley v x).ford = s.ford := rfl
@[simp] theorem State.setPaceValley_cyn (s : State) (v : Nat) (x : PaceValley) : (s.setPaceValley v x).cyn = s.cyn := rfl
@[simp] theorem State.setPaceValley_free (s : State) (v : Nat) (x : PaceValley) : (s.setPaceValley v x).free = s.free := rfl
@[simp] theorem State.setPaceValley_out (s : State) (v : Nat) (x : PaceValley) : (s.setPaceValley v x).out = s.out := rfl
@[simp] theorem State.setPaceValley_pending (s : State) (v : Nat) (x : PaceValley) : (s.setPaceValley v x).pending = s.pending := rfl

@[simp] theorem State.setCore_fuse (s : State) (c : Core) : (s.setCore c).fuse = s.fuse := rfl
@[simp] theorem State.setCore_rst (s : State) (c : Core) : (s.setCore c).rst = s.rst := rfl
@[simp] theorem State.setCore_svc (s : State) (c : Core) : (s.setCore c).svc = s.svc := rfl
@[simp] theorem State.setCore_dev (s : State) (c : Core) : (s.setCore c).dev = s.dev := rfl
@[simp] theorem State.setCore_mbx (s : State) (c : Core) : (s.setCore c).mbx = s.mbx := rfl
@[simp] theorem State.setCore_ram (s : State) (c : Core) : (s.setCore c).ram = s.ram := rfl
@[simp] theorem State.setCore_gpio (s : State) (c : Core) : (s.setCore c).gpio = s.gpio := rfl
@[simp] theorem State.setCore_smb (s : State) (c : Core) : (s.setCore c).smb = s.smb := rfl
@[simp] theorem State.setCore_tap (s : State) (c : Core) : (s.setCore c).tap = s.tap := rfl
@[simp] theorem State.setCore_sec (s : State) (c : Core) : (s.setCore c).sec = s.sec := rfl
@[simp] theorem State.setCore_pwr (s : State) (c : Core) : (s.setCore c).pwr = s.pwr := rfl
@[simp] theorem State.setCore_flt (s : State) (c : Core) : (s.setCore c).flt = s.flt := rfl
@[simp] theorem State.setCore_time (s : State) (c : Core) : (s.setCore c).time = s.time := rfl
@[simp] theorem State.setCore_pace (s : State) (c : Core) : (s.setCore c).pace = s.pace := rfl
@[simp] theorem State.setCore_mem (s : State) (c : Core) : (s.setCore c).mem = s.mem := rfl
@[simp] theorem State.setCore_basin (s : State) (c : Core) : (s.setCore c).basin = s.basin := rfl
@[simp] theorem State.setCore_ext (s : State) (c : Core) : (s.setCore c).ext = s.ext := rfl
@[simp] theorem State.setCore_valleys (s : State) (c : Core) : (s.setCore c).valleys = s.valleys := rfl
@[simp] theorem State.setCore_drainSt (s : State) (c : Core) : (s.setCore c).drainSt = s.drainSt := rfl
@[simp] theorem State.setCore_link (s : State) (c : Core) : (s.setCore c).link = s.link := rfl
@[simp] theorem State.setCore_links (s : State) (c : Core) : (s.setCore c).links = s.links := rfl
@[simp] theorem State.setCore_fabric (s : State) (c : Core) : (s.setCore c).fabric = s.fabric := rfl
@[simp] theorem State.setCore_eth (s : State) (c : Core) : (s.setCore c).eth = s.eth := rfl
@[simp] theorem State.setCore_mgmt (s : State) (c : Core) : (s.setCore c).mgmt = s.mgmt := rfl
@[simp] theorem State.setCore_pool (s : State) (c : Core) : (s.setCore c).pool = s.pool := rfl
@[simp] theorem State.setCore_ford (s : State) (c : Core) : (s.setCore c).ford = s.ford := rfl
@[simp] theorem State.setCore_cyn (s : State) (c : Core) : (s.setCore c).cyn = s.cyn := rfl
@[simp] theorem State.setCore_free (s : State) (c : Core) : (s.setCore c).free = s.free := rfl
@[simp] theorem State.setCore_out (s : State) (c : Core) : (s.setCore c).out = s.out := rfl
@[simp] theorem State.setCore_pending (s : State) (c : Core) : (s.setCore c).pending = s.pending := rfl
@[simp] theorem State.setCore_core (s : State) (c : Core) : (s.setCore c).core = c := rfl

@[simp] theorem State.setObj_fuse (s : State) (g : Nat) (o : SyncObj) : (s.setObj g o).fuse = s.fuse := rfl
@[simp] theorem State.setObj_rst (s : State) (g : Nat) (o : SyncObj) : (s.setObj g o).rst = s.rst := rfl
@[simp] theorem State.setObj_svc (s : State) (g : Nat) (o : SyncObj) : (s.setObj g o).svc = s.svc := rfl
@[simp] theorem State.setObj_dev (s : State) (g : Nat) (o : SyncObj) : (s.setObj g o).dev = s.dev := rfl
@[simp] theorem State.setObj_mbx (s : State) (g : Nat) (o : SyncObj) : (s.setObj g o).mbx = s.mbx := rfl
@[simp] theorem State.setObj_ram (s : State) (g : Nat) (o : SyncObj) : (s.setObj g o).ram = s.ram := rfl
@[simp] theorem State.setObj_gpio (s : State) (g : Nat) (o : SyncObj) : (s.setObj g o).gpio = s.gpio := rfl
@[simp] theorem State.setObj_smb (s : State) (g : Nat) (o : SyncObj) : (s.setObj g o).smb = s.smb := rfl
@[simp] theorem State.setObj_tap (s : State) (g : Nat) (o : SyncObj) : (s.setObj g o).tap = s.tap := rfl
@[simp] theorem State.setObj_sec (s : State) (g : Nat) (o : SyncObj) : (s.setObj g o).sec = s.sec := rfl
@[simp] theorem State.setObj_pwr (s : State) (g : Nat) (o : SyncObj) : (s.setObj g o).pwr = s.pwr := rfl
@[simp] theorem State.setObj_flt (s : State) (g : Nat) (o : SyncObj) : (s.setObj g o).flt = s.flt := rfl
@[simp] theorem State.setObj_time (s : State) (g : Nat) (o : SyncObj) : (s.setObj g o).time = s.time := rfl
@[simp] theorem State.setObj_pace (s : State) (g : Nat) (o : SyncObj) : (s.setObj g o).pace = s.pace := rfl
@[simp] theorem State.setObj_mem (s : State) (g : Nat) (o : SyncObj) : (s.setObj g o).mem = s.mem := rfl
@[simp] theorem State.setObj_basin (s : State) (g : Nat) (o : SyncObj) : (s.setObj g o).basin = s.basin := rfl
@[simp] theorem State.setObj_ext (s : State) (g : Nat) (o : SyncObj) : (s.setObj g o).ext = s.ext := rfl
@[simp] theorem State.setObj_valleys (s : State) (g : Nat) (o : SyncObj) : (s.setObj g o).valleys = s.valleys := rfl
@[simp] theorem State.setObj_drainSt (s : State) (g : Nat) (o : SyncObj) : (s.setObj g o).drainSt = s.drainSt := rfl
@[simp] theorem State.setObj_link (s : State) (g : Nat) (o : SyncObj) : (s.setObj g o).link = s.link := rfl
@[simp] theorem State.setObj_links (s : State) (g : Nat) (o : SyncObj) : (s.setObj g o).links = s.links := rfl
@[simp] theorem State.setObj_fabric (s : State) (g : Nat) (o : SyncObj) : (s.setObj g o).fabric = s.fabric := rfl
@[simp] theorem State.setObj_eth (s : State) (g : Nat) (o : SyncObj) : (s.setObj g o).eth = s.eth := rfl
@[simp] theorem State.setObj_mgmt (s : State) (g : Nat) (o : SyncObj) : (s.setObj g o).mgmt = s.mgmt := rfl
@[simp] theorem State.setObj_pool (s : State) (g : Nat) (o : SyncObj) : (s.setObj g o).pool = s.pool := rfl
@[simp] theorem State.setObj_ford (s : State) (g : Nat) (o : SyncObj) : (s.setObj g o).ford = s.ford := rfl
@[simp] theorem State.setObj_cyn (s : State) (g : Nat) (o : SyncObj) : (s.setObj g o).cyn = s.cyn := rfl
@[simp] theorem State.setObj_free (s : State) (g : Nat) (o : SyncObj) : (s.setObj g o).free = s.free := rfl
@[simp] theorem State.setObj_out (s : State) (g : Nat) (o : SyncObj) : (s.setObj g o).out = s.out := rfl
@[simp] theorem State.setObj_pending (s : State) (g : Nat) (o : SyncObj) : (s.setObj g o).pending = s.pending := rfl
@[simp] theorem State.setObj_core (s : State) (g : Nat) (o : SyncObj) : (s.setObj g o).core = { s.core with sync := put s.core.sync g o } := rfl

@[simp] theorem State.setCyn_fuse (s : State) (c : Nat) (x : CynCtx) : (s.setCyn c x).fuse = s.fuse := rfl
@[simp] theorem State.setCyn_rst (s : State) (c : Nat) (x : CynCtx) : (s.setCyn c x).rst = s.rst := rfl
@[simp] theorem State.setCyn_svc (s : State) (c : Nat) (x : CynCtx) : (s.setCyn c x).svc = s.svc := rfl
@[simp] theorem State.setCyn_dev (s : State) (c : Nat) (x : CynCtx) : (s.setCyn c x).dev = s.dev := rfl
@[simp] theorem State.setCyn_mbx (s : State) (c : Nat) (x : CynCtx) : (s.setCyn c x).mbx = s.mbx := rfl
@[simp] theorem State.setCyn_ram (s : State) (c : Nat) (x : CynCtx) : (s.setCyn c x).ram = s.ram := rfl
@[simp] theorem State.setCyn_gpio (s : State) (c : Nat) (x : CynCtx) : (s.setCyn c x).gpio = s.gpio := rfl
@[simp] theorem State.setCyn_smb (s : State) (c : Nat) (x : CynCtx) : (s.setCyn c x).smb = s.smb := rfl
@[simp] theorem State.setCyn_tap (s : State) (c : Nat) (x : CynCtx) : (s.setCyn c x).tap = s.tap := rfl
@[simp] theorem State.setCyn_sec (s : State) (c : Nat) (x : CynCtx) : (s.setCyn c x).sec = s.sec := rfl
@[simp] theorem State.setCyn_pwr (s : State) (c : Nat) (x : CynCtx) : (s.setCyn c x).pwr = s.pwr := rfl
@[simp] theorem State.setCyn_flt (s : State) (c : Nat) (x : CynCtx) : (s.setCyn c x).flt = s.flt := rfl
@[simp] theorem State.setCyn_time (s : State) (c : Nat) (x : CynCtx) : (s.setCyn c x).time = s.time := rfl
@[simp] theorem State.setCyn_pace (s : State) (c : Nat) (x : CynCtx) : (s.setCyn c x).pace = s.pace := rfl
@[simp] theorem State.setCyn_mem (s : State) (c : Nat) (x : CynCtx) : (s.setCyn c x).mem = s.mem := rfl
@[simp] theorem State.setCyn_basin (s : State) (c : Nat) (x : CynCtx) : (s.setCyn c x).basin = s.basin := rfl
@[simp] theorem State.setCyn_ext (s : State) (c : Nat) (x : CynCtx) : (s.setCyn c x).ext = s.ext := rfl
@[simp] theorem State.setCyn_valleys (s : State) (c : Nat) (x : CynCtx) : (s.setCyn c x).valleys = s.valleys := rfl
@[simp] theorem State.setCyn_drainSt (s : State) (c : Nat) (x : CynCtx) : (s.setCyn c x).drainSt = s.drainSt := rfl
@[simp] theorem State.setCyn_core (s : State) (c : Nat) (x : CynCtx) : (s.setCyn c x).core = s.core := rfl
@[simp] theorem State.setCyn_link (s : State) (c : Nat) (x : CynCtx) : (s.setCyn c x).link = s.link := rfl
@[simp] theorem State.setCyn_links (s : State) (c : Nat) (x : CynCtx) : (s.setCyn c x).links = s.links := rfl
@[simp] theorem State.setCyn_fabric (s : State) (c : Nat) (x : CynCtx) : (s.setCyn c x).fabric = s.fabric := rfl
@[simp] theorem State.setCyn_eth (s : State) (c : Nat) (x : CynCtx) : (s.setCyn c x).eth = s.eth := rfl
@[simp] theorem State.setCyn_mgmt (s : State) (c : Nat) (x : CynCtx) : (s.setCyn c x).mgmt = s.mgmt := rfl
@[simp] theorem State.setCyn_pool (s : State) (c : Nat) (x : CynCtx) : (s.setCyn c x).pool = s.pool := rfl
@[simp] theorem State.setCyn_ford (s : State) (c : Nat) (x : CynCtx) : (s.setCyn c x).ford = s.ford := rfl
@[simp] theorem State.setCyn_free (s : State) (c : Nat) (x : CynCtx) : (s.setCyn c x).free = s.free := rfl
@[simp] theorem State.setCyn_out (s : State) (c : Nat) (x : CynCtx) : (s.setCyn c x).out = s.out := rfl
@[simp] theorem State.setCyn_pending (s : State) (c : Nat) (x : CynCtx) : (s.setCyn c x).pending = s.pending := rfl
@[simp] theorem State.setCyn_cyn (s : State) (c : Nat) (x : CynCtx) : (s.setCyn c x).cyn = { s.cyn with ctxs := put s.cyn.ctxs c x } := rfl

@[simp] theorem State.setRing_fuse (s : State) (r : Nat) (x : Ring) : (s.setRing r x).fuse = s.fuse := rfl
@[simp] theorem State.setRing_rst (s : State) (r : Nat) (x : Ring) : (s.setRing r x).rst = s.rst := rfl
@[simp] theorem State.setRing_svc (s : State) (r : Nat) (x : Ring) : (s.setRing r x).svc = s.svc := rfl
@[simp] theorem State.setRing_dev (s : State) (r : Nat) (x : Ring) : (s.setRing r x).dev = s.dev := rfl
@[simp] theorem State.setRing_mbx (s : State) (r : Nat) (x : Ring) : (s.setRing r x).mbx = s.mbx := rfl
@[simp] theorem State.setRing_ram (s : State) (r : Nat) (x : Ring) : (s.setRing r x).ram = s.ram := rfl
@[simp] theorem State.setRing_gpio (s : State) (r : Nat) (x : Ring) : (s.setRing r x).gpio = s.gpio := rfl
@[simp] theorem State.setRing_smb (s : State) (r : Nat) (x : Ring) : (s.setRing r x).smb = s.smb := rfl
@[simp] theorem State.setRing_tap (s : State) (r : Nat) (x : Ring) : (s.setRing r x).tap = s.tap := rfl
@[simp] theorem State.setRing_sec (s : State) (r : Nat) (x : Ring) : (s.setRing r x).sec = s.sec := rfl
@[simp] theorem State.setRing_pwr (s : State) (r : Nat) (x : Ring) : (s.setRing r x).pwr = s.pwr := rfl
@[simp] theorem State.setRing_flt (s : State) (r : Nat) (x : Ring) : (s.setRing r x).flt = s.flt := rfl
@[simp] theorem State.setRing_time (s : State) (r : Nat) (x : Ring) : (s.setRing r x).time = s.time := rfl
@[simp] theorem State.setRing_pace (s : State) (r : Nat) (x : Ring) : (s.setRing r x).pace = s.pace := rfl
@[simp] theorem State.setRing_mem (s : State) (r : Nat) (x : Ring) : (s.setRing r x).mem = s.mem := rfl
@[simp] theorem State.setRing_basin (s : State) (r : Nat) (x : Ring) : (s.setRing r x).basin = s.basin := rfl
@[simp] theorem State.setRing_ext (s : State) (r : Nat) (x : Ring) : (s.setRing r x).ext = s.ext := rfl
@[simp] theorem State.setRing_valleys (s : State) (r : Nat) (x : Ring) : (s.setRing r x).valleys = s.valleys := rfl
@[simp] theorem State.setRing_drainSt (s : State) (r : Nat) (x : Ring) : (s.setRing r x).drainSt = s.drainSt := rfl
@[simp] theorem State.setRing_core (s : State) (r : Nat) (x : Ring) : (s.setRing r x).core = s.core := rfl
@[simp] theorem State.setRing_link (s : State) (r : Nat) (x : Ring) : (s.setRing r x).link = s.link := rfl
@[simp] theorem State.setRing_links (s : State) (r : Nat) (x : Ring) : (s.setRing r x).links = s.links := rfl
@[simp] theorem State.setRing_fabric (s : State) (r : Nat) (x : Ring) : (s.setRing r x).fabric = s.fabric := rfl
@[simp] theorem State.setRing_eth (s : State) (r : Nat) (x : Ring) : (s.setRing r x).eth = s.eth := rfl
@[simp] theorem State.setRing_mgmt (s : State) (r : Nat) (x : Ring) : (s.setRing r x).mgmt = s.mgmt := rfl
@[simp] theorem State.setRing_pool (s : State) (r : Nat) (x : Ring) : (s.setRing r x).pool = s.pool := rfl
@[simp] theorem State.setRing_cyn (s : State) (r : Nat) (x : Ring) : (s.setRing r x).cyn = s.cyn := rfl
@[simp] theorem State.setRing_free (s : State) (r : Nat) (x : Ring) : (s.setRing r x).free = s.free := rfl
@[simp] theorem State.setRing_out (s : State) (r : Nat) (x : Ring) : (s.setRing r x).out = s.out := rfl
@[simp] theorem State.setRing_pending (s : State) (r : Nat) (x : Ring) : (s.setRing r x).pending = s.pending := rfl
@[simp] theorem State.setRing_ford (s : State) (r : Nat) (x : Ring) : (s.setRing r x).ford = { s.ford with rings := put s.ford.rings r x } := rfl

@[simp] theorem State.setPwr_fuse (s : State) (x : Pwr) : (s.setPwr x).fuse = s.fuse := rfl
@[simp] theorem State.setPwr_rst (s : State) (x : Pwr) : (s.setPwr x).rst = s.rst := rfl
@[simp] theorem State.setPwr_svc (s : State) (x : Pwr) : (s.setPwr x).svc = s.svc := rfl
@[simp] theorem State.setPwr_dev (s : State) (x : Pwr) : (s.setPwr x).dev = s.dev := rfl
@[simp] theorem State.setPwr_mbx (s : State) (x : Pwr) : (s.setPwr x).mbx = s.mbx := rfl
@[simp] theorem State.setPwr_ram (s : State) (x : Pwr) : (s.setPwr x).ram = s.ram := rfl
@[simp] theorem State.setPwr_gpio (s : State) (x : Pwr) : (s.setPwr x).gpio = s.gpio := rfl
@[simp] theorem State.setPwr_smb (s : State) (x : Pwr) : (s.setPwr x).smb = s.smb := rfl
@[simp] theorem State.setPwr_tap (s : State) (x : Pwr) : (s.setPwr x).tap = s.tap := rfl
@[simp] theorem State.setPwr_sec (s : State) (x : Pwr) : (s.setPwr x).sec = s.sec := rfl
@[simp] theorem State.setPwr_flt (s : State) (x : Pwr) : (s.setPwr x).flt = s.flt := rfl
@[simp] theorem State.setPwr_time (s : State) (x : Pwr) : (s.setPwr x).time = s.time := rfl
@[simp] theorem State.setPwr_pace (s : State) (x : Pwr) : (s.setPwr x).pace = s.pace := rfl
@[simp] theorem State.setPwr_mem (s : State) (x : Pwr) : (s.setPwr x).mem = s.mem := rfl
@[simp] theorem State.setPwr_basin (s : State) (x : Pwr) : (s.setPwr x).basin = s.basin := rfl
@[simp] theorem State.setPwr_ext (s : State) (x : Pwr) : (s.setPwr x).ext = s.ext := rfl
@[simp] theorem State.setPwr_valleys (s : State) (x : Pwr) : (s.setPwr x).valleys = s.valleys := rfl
@[simp] theorem State.setPwr_drainSt (s : State) (x : Pwr) : (s.setPwr x).drainSt = s.drainSt := rfl
@[simp] theorem State.setPwr_core (s : State) (x : Pwr) : (s.setPwr x).core = s.core := rfl
@[simp] theorem State.setPwr_link (s : State) (x : Pwr) : (s.setPwr x).link = s.link := rfl
@[simp] theorem State.setPwr_links (s : State) (x : Pwr) : (s.setPwr x).links = s.links := rfl
@[simp] theorem State.setPwr_fabric (s : State) (x : Pwr) : (s.setPwr x).fabric = s.fabric := rfl
@[simp] theorem State.setPwr_eth (s : State) (x : Pwr) : (s.setPwr x).eth = s.eth := rfl
@[simp] theorem State.setPwr_mgmt (s : State) (x : Pwr) : (s.setPwr x).mgmt = s.mgmt := rfl
@[simp] theorem State.setPwr_pool (s : State) (x : Pwr) : (s.setPwr x).pool = s.pool := rfl
@[simp] theorem State.setPwr_ford (s : State) (x : Pwr) : (s.setPwr x).ford = s.ford := rfl
@[simp] theorem State.setPwr_cyn (s : State) (x : Pwr) : (s.setPwr x).cyn = s.cyn := rfl
@[simp] theorem State.setPwr_free (s : State) (x : Pwr) : (s.setPwr x).free = s.free := rfl
@[simp] theorem State.setPwr_out (s : State) (x : Pwr) : (s.setPwr x).out = s.out := rfl
@[simp] theorem State.setPwr_pending (s : State) (x : Pwr) : (s.setPwr x).pending = s.pending := rfl
@[simp] theorem State.setPwr_pwr (s : State) (x : Pwr) : (s.setPwr x).pwr = x := rfl

@[simp] theorem State.setFlt_fuse (s : State) (f : Flt) : (s.setFlt f).fuse = s.fuse := rfl
@[simp] theorem State.setFlt_rst (s : State) (f : Flt) : (s.setFlt f).rst = s.rst := rfl
@[simp] theorem State.setFlt_svc (s : State) (f : Flt) : (s.setFlt f).svc = s.svc := rfl
@[simp] theorem State.setFlt_dev (s : State) (f : Flt) : (s.setFlt f).dev = s.dev := rfl
@[simp] theorem State.setFlt_mbx (s : State) (f : Flt) : (s.setFlt f).mbx = s.mbx := rfl
@[simp] theorem State.setFlt_ram (s : State) (f : Flt) : (s.setFlt f).ram = s.ram := rfl
@[simp] theorem State.setFlt_gpio (s : State) (f : Flt) : (s.setFlt f).gpio = s.gpio := rfl
@[simp] theorem State.setFlt_smb (s : State) (f : Flt) : (s.setFlt f).smb = s.smb := rfl
@[simp] theorem State.setFlt_tap (s : State) (f : Flt) : (s.setFlt f).tap = s.tap := rfl
@[simp] theorem State.setFlt_sec (s : State) (f : Flt) : (s.setFlt f).sec = s.sec := rfl
@[simp] theorem State.setFlt_pwr (s : State) (f : Flt) : (s.setFlt f).pwr = s.pwr := rfl
@[simp] theorem State.setFlt_time (s : State) (f : Flt) : (s.setFlt f).time = s.time := rfl
@[simp] theorem State.setFlt_pace (s : State) (f : Flt) : (s.setFlt f).pace = s.pace := rfl
@[simp] theorem State.setFlt_mem (s : State) (f : Flt) : (s.setFlt f).mem = s.mem := rfl
@[simp] theorem State.setFlt_basin (s : State) (f : Flt) : (s.setFlt f).basin = s.basin := rfl
@[simp] theorem State.setFlt_ext (s : State) (f : Flt) : (s.setFlt f).ext = s.ext := rfl
@[simp] theorem State.setFlt_valleys (s : State) (f : Flt) : (s.setFlt f).valleys = s.valleys := rfl
@[simp] theorem State.setFlt_drainSt (s : State) (f : Flt) : (s.setFlt f).drainSt = s.drainSt := rfl
@[simp] theorem State.setFlt_core (s : State) (f : Flt) : (s.setFlt f).core = s.core := rfl
@[simp] theorem State.setFlt_link (s : State) (f : Flt) : (s.setFlt f).link = s.link := rfl
@[simp] theorem State.setFlt_links (s : State) (f : Flt) : (s.setFlt f).links = s.links := rfl
@[simp] theorem State.setFlt_fabric (s : State) (f : Flt) : (s.setFlt f).fabric = s.fabric := rfl
@[simp] theorem State.setFlt_eth (s : State) (f : Flt) : (s.setFlt f).eth = s.eth := rfl
@[simp] theorem State.setFlt_mgmt (s : State) (f : Flt) : (s.setFlt f).mgmt = s.mgmt := rfl
@[simp] theorem State.setFlt_pool (s : State) (f : Flt) : (s.setFlt f).pool = s.pool := rfl
@[simp] theorem State.setFlt_ford (s : State) (f : Flt) : (s.setFlt f).ford = s.ford := rfl
@[simp] theorem State.setFlt_cyn (s : State) (f : Flt) : (s.setFlt f).cyn = s.cyn := rfl
@[simp] theorem State.setFlt_free (s : State) (f : Flt) : (s.setFlt f).free = s.free := rfl
@[simp] theorem State.setFlt_out (s : State) (f : Flt) : (s.setFlt f).out = s.out := rfl
@[simp] theorem State.setFlt_pending (s : State) (f : Flt) : (s.setFlt f).pending = s.pending := rfl
@[simp] theorem State.setFlt_flt (s : State) (f : Flt) : (s.setFlt f).flt = f := rfl

@[simp] theorem State.setSec_fuse (s : State) (x : Sec) : (s.setSec x).fuse = s.fuse := rfl
@[simp] theorem State.setSec_rst (s : State) (x : Sec) : (s.setSec x).rst = s.rst := rfl
@[simp] theorem State.setSec_svc (s : State) (x : Sec) : (s.setSec x).svc = s.svc := rfl
@[simp] theorem State.setSec_dev (s : State) (x : Sec) : (s.setSec x).dev = s.dev := rfl
@[simp] theorem State.setSec_mbx (s : State) (x : Sec) : (s.setSec x).mbx = s.mbx := rfl
@[simp] theorem State.setSec_ram (s : State) (x : Sec) : (s.setSec x).ram = s.ram := rfl
@[simp] theorem State.setSec_gpio (s : State) (x : Sec) : (s.setSec x).gpio = s.gpio := rfl
@[simp] theorem State.setSec_smb (s : State) (x : Sec) : (s.setSec x).smb = s.smb := rfl
@[simp] theorem State.setSec_tap (s : State) (x : Sec) : (s.setSec x).tap = s.tap := rfl
@[simp] theorem State.setSec_pwr (s : State) (x : Sec) : (s.setSec x).pwr = s.pwr := rfl
@[simp] theorem State.setSec_flt (s : State) (x : Sec) : (s.setSec x).flt = s.flt := rfl
@[simp] theorem State.setSec_time (s : State) (x : Sec) : (s.setSec x).time = s.time := rfl
@[simp] theorem State.setSec_pace (s : State) (x : Sec) : (s.setSec x).pace = s.pace := rfl
@[simp] theorem State.setSec_mem (s : State) (x : Sec) : (s.setSec x).mem = s.mem := rfl
@[simp] theorem State.setSec_basin (s : State) (x : Sec) : (s.setSec x).basin = s.basin := rfl
@[simp] theorem State.setSec_ext (s : State) (x : Sec) : (s.setSec x).ext = s.ext := rfl
@[simp] theorem State.setSec_valleys (s : State) (x : Sec) : (s.setSec x).valleys = s.valleys := rfl
@[simp] theorem State.setSec_drainSt (s : State) (x : Sec) : (s.setSec x).drainSt = s.drainSt := rfl
@[simp] theorem State.setSec_core (s : State) (x : Sec) : (s.setSec x).core = s.core := rfl
@[simp] theorem State.setSec_link (s : State) (x : Sec) : (s.setSec x).link = s.link := rfl
@[simp] theorem State.setSec_links (s : State) (x : Sec) : (s.setSec x).links = s.links := rfl
@[simp] theorem State.setSec_fabric (s : State) (x : Sec) : (s.setSec x).fabric = s.fabric := rfl
@[simp] theorem State.setSec_eth (s : State) (x : Sec) : (s.setSec x).eth = s.eth := rfl
@[simp] theorem State.setSec_mgmt (s : State) (x : Sec) : (s.setSec x).mgmt = s.mgmt := rfl
@[simp] theorem State.setSec_pool (s : State) (x : Sec) : (s.setSec x).pool = s.pool := rfl
@[simp] theorem State.setSec_ford (s : State) (x : Sec) : (s.setSec x).ford = s.ford := rfl
@[simp] theorem State.setSec_cyn (s : State) (x : Sec) : (s.setSec x).cyn = s.cyn := rfl
@[simp] theorem State.setSec_free (s : State) (x : Sec) : (s.setSec x).free = s.free := rfl
@[simp] theorem State.setSec_out (s : State) (x : Sec) : (s.setSec x).out = s.out := rfl
@[simp] theorem State.setSec_pending (s : State) (x : Sec) : (s.setSec x).pending = s.pending := rfl
@[simp] theorem State.setSec_sec (s : State) (x : Sec) : (s.setSec x).sec = x := rfl

@[simp] theorem State.updEth_fuse (s : State) (p : Nat) (f : EthPort → EthPort) : (s.updEth p f).fuse = s.fuse := rfl
@[simp] theorem State.updEth_rst (s : State) (p : Nat) (f : EthPort → EthPort) : (s.updEth p f).rst = s.rst := rfl
@[simp] theorem State.updEth_svc (s : State) (p : Nat) (f : EthPort → EthPort) : (s.updEth p f).svc = s.svc := rfl
@[simp] theorem State.updEth_dev (s : State) (p : Nat) (f : EthPort → EthPort) : (s.updEth p f).dev = s.dev := rfl
@[simp] theorem State.updEth_mbx (s : State) (p : Nat) (f : EthPort → EthPort) : (s.updEth p f).mbx = s.mbx := rfl
@[simp] theorem State.updEth_ram (s : State) (p : Nat) (f : EthPort → EthPort) : (s.updEth p f).ram = s.ram := rfl
@[simp] theorem State.updEth_smb (s : State) (p : Nat) (f : EthPort → EthPort) : (s.updEth p f).smb = s.smb := rfl
@[simp] theorem State.updEth_tap (s : State) (p : Nat) (f : EthPort → EthPort) : (s.updEth p f).tap = s.tap := rfl
@[simp] theorem State.updEth_sec (s : State) (p : Nat) (f : EthPort → EthPort) : (s.updEth p f).sec = s.sec := rfl
@[simp] theorem State.updEth_pwr (s : State) (p : Nat) (f : EthPort → EthPort) : (s.updEth p f).pwr = s.pwr := rfl
@[simp] theorem State.updEth_flt (s : State) (p : Nat) (f : EthPort → EthPort) : (s.updEth p f).flt = s.flt := rfl
@[simp] theorem State.updEth_time (s : State) (p : Nat) (f : EthPort → EthPort) : (s.updEth p f).time = s.time := rfl
@[simp] theorem State.updEth_pace (s : State) (p : Nat) (f : EthPort → EthPort) : (s.updEth p f).pace = s.pace := rfl
@[simp] theorem State.updEth_mem (s : State) (p : Nat) (f : EthPort → EthPort) : (s.updEth p f).mem = s.mem := rfl
@[simp] theorem State.updEth_basin (s : State) (p : Nat) (f : EthPort → EthPort) : (s.updEth p f).basin = s.basin := rfl
@[simp] theorem State.updEth_ext (s : State) (p : Nat) (f : EthPort → EthPort) : (s.updEth p f).ext = s.ext := rfl
@[simp] theorem State.updEth_valleys (s : State) (p : Nat) (f : EthPort → EthPort) : (s.updEth p f).valleys = s.valleys := rfl
@[simp] theorem State.updEth_drainSt (s : State) (p : Nat) (f : EthPort → EthPort) : (s.updEth p f).drainSt = s.drainSt := rfl
@[simp] theorem State.updEth_core (s : State) (p : Nat) (f : EthPort → EthPort) : (s.updEth p f).core = s.core := rfl
@[simp] theorem State.updEth_link (s : State) (p : Nat) (f : EthPort → EthPort) : (s.updEth p f).link = s.link := rfl
@[simp] theorem State.updEth_links (s : State) (p : Nat) (f : EthPort → EthPort) : (s.updEth p f).links = s.links := rfl
@[simp] theorem State.updEth_fabric (s : State) (p : Nat) (f : EthPort → EthPort) : (s.updEth p f).fabric = s.fabric := rfl
@[simp] theorem State.updEth_mgmt (s : State) (p : Nat) (f : EthPort → EthPort) : (s.updEth p f).mgmt = s.mgmt := rfl
@[simp] theorem State.updEth_pool (s : State) (p : Nat) (f : EthPort → EthPort) : (s.updEth p f).pool = s.pool := rfl
@[simp] theorem State.updEth_ford (s : State) (p : Nat) (f : EthPort → EthPort) : (s.updEth p f).ford = s.ford := rfl
@[simp] theorem State.updEth_cyn (s : State) (p : Nat) (f : EthPort → EthPort) : (s.updEth p f).cyn = s.cyn := rfl
@[simp] theorem State.updEth_free (s : State) (p : Nat) (f : EthPort → EthPort) : (s.updEth p f).free = s.free := rfl
@[simp] theorem State.updEth_out (s : State) (p : Nat) (f : EthPort → EthPort) : (s.updEth p f).out = s.out := rfl
@[simp] theorem State.updEth_pending (s : State) (p : Nat) (f : EthPort → EthPort) : (s.updEth p f).pending = s.pending := rfl
@[simp] theorem State.updEth_eth (s : State) (p : Nat) (f : EthPort → EthPort) : (s.updEth p f).eth = put s.eth p (f (s.ethPort p)) := rfl

@[simp] theorem State.emit_fuse (s : State) (o : Output) : (s.emit o).fuse = s.fuse := rfl
@[simp] theorem State.emit_rst (s : State) (o : Output) : (s.emit o).rst = s.rst := rfl
@[simp] theorem State.emit_svc (s : State) (o : Output) : (s.emit o).svc = s.svc := rfl
@[simp] theorem State.emit_dev (s : State) (o : Output) : (s.emit o).dev = s.dev := rfl
@[simp] theorem State.emit_mbx (s : State) (o : Output) : (s.emit o).mbx = s.mbx := rfl
@[simp] theorem State.emit_ram (s : State) (o : Output) : (s.emit o).ram = s.ram := rfl
@[simp] theorem State.emit_gpio (s : State) (o : Output) : (s.emit o).gpio = s.gpio := rfl
@[simp] theorem State.emit_smb (s : State) (o : Output) : (s.emit o).smb = s.smb := rfl
@[simp] theorem State.emit_tap (s : State) (o : Output) : (s.emit o).tap = s.tap := rfl
@[simp] theorem State.emit_sec (s : State) (o : Output) : (s.emit o).sec = s.sec := rfl
@[simp] theorem State.emit_pwr (s : State) (o : Output) : (s.emit o).pwr = s.pwr := rfl
@[simp] theorem State.emit_flt (s : State) (o : Output) : (s.emit o).flt = s.flt := rfl
@[simp] theorem State.emit_time (s : State) (o : Output) : (s.emit o).time = s.time := rfl
@[simp] theorem State.emit_pace (s : State) (o : Output) : (s.emit o).pace = s.pace := rfl
@[simp] theorem State.emit_mem (s : State) (o : Output) : (s.emit o).mem = s.mem := rfl
@[simp] theorem State.emit_basin (s : State) (o : Output) : (s.emit o).basin = s.basin := rfl
@[simp] theorem State.emit_ext (s : State) (o : Output) : (s.emit o).ext = s.ext := rfl
@[simp] theorem State.emit_valleys (s : State) (o : Output) : (s.emit o).valleys = s.valleys := rfl
@[simp] theorem State.emit_drainSt (s : State) (o : Output) : (s.emit o).drainSt = s.drainSt := rfl
@[simp] theorem State.emit_core (s : State) (o : Output) : (s.emit o).core = s.core := rfl
@[simp] theorem State.emit_link (s : State) (o : Output) : (s.emit o).link = s.link := rfl
@[simp] theorem State.emit_links (s : State) (o : Output) : (s.emit o).links = s.links := rfl
@[simp] theorem State.emit_fabric (s : State) (o : Output) : (s.emit o).fabric = s.fabric := rfl
@[simp] theorem State.emit_eth (s : State) (o : Output) : (s.emit o).eth = s.eth := rfl
@[simp] theorem State.emit_mgmt (s : State) (o : Output) : (s.emit o).mgmt = s.mgmt := rfl
@[simp] theorem State.emit_pool (s : State) (o : Output) : (s.emit o).pool = s.pool := rfl
@[simp] theorem State.emit_ford (s : State) (o : Output) : (s.emit o).ford = s.ford := rfl
@[simp] theorem State.emit_cyn (s : State) (o : Output) : (s.emit o).cyn = s.cyn := rfl
@[simp] theorem State.emit_free (s : State) (o : Output) : (s.emit o).free = s.free := rfl
@[simp] theorem State.emit_pending (s : State) (o : Output) : (s.emit o).pending = s.pending := rfl
@[simp] theorem State.emit_out (s : State) (o : Output) : (s.emit o).out = s.out ++ [o] := rfl

@[simp] theorem State.count_fuse (s : State) (i n : Nat) : (s.count i n).fuse = s.fuse := rfl
@[simp] theorem State.count_rst (s : State) (i n : Nat) : (s.count i n).rst = s.rst := rfl
@[simp] theorem State.count_svc (s : State) (i n : Nat) : (s.count i n).svc = s.svc := rfl
@[simp] theorem State.count_dev (s : State) (i n : Nat) : (s.count i n).dev = s.dev := rfl
@[simp] theorem State.count_mbx (s : State) (i n : Nat) : (s.count i n).mbx = s.mbx := rfl
@[simp] theorem State.count_ram (s : State) (i n : Nat) : (s.count i n).ram = s.ram := rfl
@[simp] theorem State.count_gpio (s : State) (i n : Nat) : (s.count i n).gpio = s.gpio := rfl
@[simp] theorem State.count_smb (s : State) (i n : Nat) : (s.count i n).smb = s.smb := rfl
@[simp] theorem State.count_tap (s : State) (i n : Nat) : (s.count i n).tap = s.tap := rfl
@[simp] theorem State.count_sec (s : State) (i n : Nat) : (s.count i n).sec = s.sec := rfl
@[simp] theorem State.count_flt (s : State) (i n : Nat) : (s.count i n).flt = s.flt := rfl
@[simp] theorem State.count_time (s : State) (i n : Nat) : (s.count i n).time = s.time := rfl
@[simp] theorem State.count_pace (s : State) (i n : Nat) : (s.count i n).pace = s.pace := rfl
@[simp] theorem State.count_mem (s : State) (i n : Nat) : (s.count i n).mem = s.mem := rfl
@[simp] theorem State.count_basin (s : State) (i n : Nat) : (s.count i n).basin = s.basin := rfl
@[simp] theorem State.count_ext (s : State) (i n : Nat) : (s.count i n).ext = s.ext := rfl
@[simp] theorem State.count_valleys (s : State) (i n : Nat) : (s.count i n).valleys = s.valleys := rfl
@[simp] theorem State.count_drainSt (s : State) (i n : Nat) : (s.count i n).drainSt = s.drainSt := rfl
@[simp] theorem State.count_core (s : State) (i n : Nat) : (s.count i n).core = s.core := rfl
@[simp] theorem State.count_link (s : State) (i n : Nat) : (s.count i n).link = s.link := rfl
@[simp] theorem State.count_links (s : State) (i n : Nat) : (s.count i n).links = s.links := rfl
@[simp] theorem State.count_fabric (s : State) (i n : Nat) : (s.count i n).fabric = s.fabric := rfl
@[simp] theorem State.count_eth (s : State) (i n : Nat) : (s.count i n).eth = s.eth := rfl
@[simp] theorem State.count_mgmt (s : State) (i n : Nat) : (s.count i n).mgmt = s.mgmt := rfl
@[simp] theorem State.count_pool (s : State) (i n : Nat) : (s.count i n).pool = s.pool := rfl
@[simp] theorem State.count_ford (s : State) (i n : Nat) : (s.count i n).ford = s.ford := rfl
@[simp] theorem State.count_cyn (s : State) (i n : Nat) : (s.count i n).cyn = s.cyn := rfl
@[simp] theorem State.count_free (s : State) (i n : Nat) : (s.count i n).free = s.free := rfl
@[simp] theorem State.count_out (s : State) (i n : Nat) : (s.count i n).out = s.out := rfl
@[simp] theorem State.count_pending (s : State) (i n : Nat) : (s.count i n).pending = s.pending := rfl

@[simp] theorem State.consume_fuse (s : State) (v : Via) : (s.consume v).fuse = s.fuse := by
  unfold State.consume; split <;> rfl
@[simp] theorem State.consume_rst (s : State) (v : Via) : (s.consume v).rst = s.rst := by
  unfold State.consume; split <;> rfl
@[simp] theorem State.consume_svc (s : State) (v : Via) : (s.consume v).svc = s.svc.serviced v := by
  unfold State.consume; split <;> rfl
@[simp] theorem State.consume_dev (s : State) (v : Via) : (s.consume v).dev = s.dev := by
  unfold State.consume; split <;> rfl
@[simp] theorem State.consume_ram (s : State) (v : Via) : (s.consume v).ram = s.ram := by
  unfold State.consume; split <;> rfl
@[simp] theorem State.consume_gpio (s : State) (v : Via) : (s.consume v).gpio = s.gpio := by
  unfold State.consume; split <;> rfl
@[simp] theorem State.consume_tap (s : State) (v : Via) : (s.consume v).tap = s.tap := by
  unfold State.consume; split <;> rfl
@[simp] theorem State.consume_sec (s : State) (v : Via) : (s.consume v).sec = s.sec := by
  unfold State.consume; split <;> rfl
@[simp] theorem State.consume_pwr (s : State) (v : Via) : (s.consume v).pwr = s.pwr := by
  unfold State.consume; split <;> rfl
@[simp] theorem State.consume_flt (s : State) (v : Via) : (s.consume v).flt = s.flt := by
  unfold State.consume; split <;> rfl
@[simp] theorem State.consume_time (s : State) (v : Via) : (s.consume v).time = s.time := by
  unfold State.consume; split <;> rfl
@[simp] theorem State.consume_pace (s : State) (v : Via) : (s.consume v).pace = s.pace := by
  unfold State.consume; split <;> rfl
@[simp] theorem State.consume_mem (s : State) (v : Via) : (s.consume v).mem = s.mem := by
  unfold State.consume; split <;> rfl
@[simp] theorem State.consume_basin (s : State) (v : Via) : (s.consume v).basin = s.basin := by
  unfold State.consume; split <;> rfl
@[simp] theorem State.consume_ext (s : State) (v : Via) : (s.consume v).ext = s.ext := by
  unfold State.consume; split <;> rfl
@[simp] theorem State.consume_valleys (s : State) (v : Via) : (s.consume v).valleys = s.valleys := by
  unfold State.consume; split <;> rfl
@[simp] theorem State.consume_drainSt (s : State) (v : Via) : (s.consume v).drainSt = s.drainSt := by
  unfold State.consume; split <;> rfl
@[simp] theorem State.consume_core (s : State) (v : Via) : (s.consume v).core = s.core := by
  unfold State.consume; split <;> rfl
@[simp] theorem State.consume_link (s : State) (v : Via) : (s.consume v).link = s.link := by
  unfold State.consume; split <;> rfl
@[simp] theorem State.consume_links (s : State) (v : Via) : (s.consume v).links = s.links := by
  unfold State.consume; split <;> rfl
@[simp] theorem State.consume_fabric (s : State) (v : Via) : (s.consume v).fabric = s.fabric := by
  unfold State.consume; split <;> rfl
@[simp] theorem State.consume_eth (s : State) (v : Via) : (s.consume v).eth = s.eth := by
  unfold State.consume; split <;> rfl
@[simp] theorem State.consume_pool (s : State) (v : Via) : (s.consume v).pool = s.pool := by
  unfold State.consume; split <;> rfl
@[simp] theorem State.consume_ford (s : State) (v : Via) : (s.consume v).ford = s.ford := by
  unfold State.consume; split <;> rfl
@[simp] theorem State.consume_cyn (s : State) (v : Via) : (s.consume v).cyn = s.cyn := by
  unfold State.consume; split <;> rfl
@[simp] theorem State.consume_free (s : State) (v : Via) : (s.consume v).free = s.free := by
  unfold State.consume; split <;> rfl
@[simp] theorem State.consume_out (s : State) (v : Via) : (s.consume v).out = s.out := by
  unfold State.consume; split <;> rfl
@[simp] theorem State.consume_pending (s : State) (v : Via) : (s.consume v).pending = s.pending := by
  unfold State.consume; split <;> rfl

@[simp] theorem State.advanceTo_fuse (s : State) (t : Nat) : (s.advanceTo t).fuse = s.fuse := by
  unfold State.advanceTo; split <;> rfl
@[simp] theorem State.advanceTo_rst (s : State) (t : Nat) : (s.advanceTo t).rst = s.rst := by
  unfold State.advanceTo; split <;> rfl
@[simp] theorem State.advanceTo_svc (s : State) (t : Nat) : (s.advanceTo t).svc = s.svc := by
  unfold State.advanceTo; split <;> rfl
@[simp] theorem State.advanceTo_dev (s : State) (t : Nat) : (s.advanceTo t).dev = s.dev := by
  unfold State.advanceTo; split <;> rfl
@[simp] theorem State.advanceTo_mbx (s : State) (t : Nat) : (s.advanceTo t).mbx = s.mbx := by
  unfold State.advanceTo; split <;> rfl
@[simp] theorem State.advanceTo_ram (s : State) (t : Nat) : (s.advanceTo t).ram = s.ram := by
  unfold State.advanceTo; split <;> rfl
@[simp] theorem State.advanceTo_gpio (s : State) (t : Nat) : (s.advanceTo t).gpio = s.gpio := by
  unfold State.advanceTo; split <;> rfl
@[simp] theorem State.advanceTo_smb (s : State) (t : Nat) : (s.advanceTo t).smb = s.smb := by
  unfold State.advanceTo; split <;> rfl
@[simp] theorem State.advanceTo_tap (s : State) (t : Nat) : (s.advanceTo t).tap = s.tap := by
  unfold State.advanceTo; split <;> rfl
@[simp] theorem State.advanceTo_sec (s : State) (t : Nat) : (s.advanceTo t).sec = s.sec := by
  unfold State.advanceTo; split <;> rfl
@[simp] theorem State.advanceTo_pwr (s : State) (t : Nat) : (s.advanceTo t).pwr = s.pwr := by
  unfold State.advanceTo; split <;> rfl
@[simp] theorem State.advanceTo_flt (s : State) (t : Nat) : (s.advanceTo t).flt = s.flt := by
  unfold State.advanceTo; split <;> rfl
@[simp] theorem State.advanceTo_pace (s : State) (t : Nat) : (s.advanceTo t).pace = s.pace := by
  unfold State.advanceTo; split <;> rfl
@[simp] theorem State.advanceTo_mem (s : State) (t : Nat) : (s.advanceTo t).mem = s.mem := by
  unfold State.advanceTo; split <;> rfl
@[simp] theorem State.advanceTo_basin (s : State) (t : Nat) : (s.advanceTo t).basin = s.basin := by
  unfold State.advanceTo; split <;> rfl
@[simp] theorem State.advanceTo_ext (s : State) (t : Nat) : (s.advanceTo t).ext = s.ext := by
  unfold State.advanceTo; split <;> rfl
@[simp] theorem State.advanceTo_valleys (s : State) (t : Nat) : (s.advanceTo t).valleys = s.valleys := by
  unfold State.advanceTo; split <;> rfl
@[simp] theorem State.advanceTo_drainSt (s : State) (t : Nat) : (s.advanceTo t).drainSt = s.drainSt := by
  unfold State.advanceTo; split <;> rfl
@[simp] theorem State.advanceTo_core (s : State) (t : Nat) : (s.advanceTo t).core = s.core := by
  unfold State.advanceTo; split <;> rfl
@[simp] theorem State.advanceTo_link (s : State) (t : Nat) : (s.advanceTo t).link = s.link := by
  unfold State.advanceTo; split <;> rfl
@[simp] theorem State.advanceTo_links (s : State) (t : Nat) : (s.advanceTo t).links = s.links := by
  unfold State.advanceTo; split <;> rfl
@[simp] theorem State.advanceTo_fabric (s : State) (t : Nat) : (s.advanceTo t).fabric = s.fabric := by
  unfold State.advanceTo; split <;> rfl
@[simp] theorem State.advanceTo_eth (s : State) (t : Nat) : (s.advanceTo t).eth = s.eth := by
  unfold State.advanceTo; split <;> rfl
@[simp] theorem State.advanceTo_mgmt (s : State) (t : Nat) : (s.advanceTo t).mgmt = s.mgmt := by
  unfold State.advanceTo; split <;> rfl
@[simp] theorem State.advanceTo_pool (s : State) (t : Nat) : (s.advanceTo t).pool = s.pool := by
  unfold State.advanceTo; split <;> rfl
@[simp] theorem State.advanceTo_ford (s : State) (t : Nat) : (s.advanceTo t).ford = s.ford := by
  unfold State.advanceTo; split <;> rfl
@[simp] theorem State.advanceTo_cyn (s : State) (t : Nat) : (s.advanceTo t).cyn = s.cyn := by
  unfold State.advanceTo; split <;> rfl
@[simp] theorem State.advanceTo_free (s : State) (t : Nat) : (s.advanceTo t).free = s.free := by
  unfold State.advanceTo; split <;> rfl
@[simp] theorem State.advanceTo_out (s : State) (t : Nat) : (s.advanceTo t).out = s.out := by
  unfold State.advanceTo; split <;> rfl
@[simp] theorem State.advanceTo_pending (s : State) (t : Nat) : (s.advanceTo t).pending = s.pending := by
  unfold State.advanceTo; split <;> rfl

@[simp] theorem State.updReq_fuse (s : State) (i : Nat) (f : Request → Request) : (s.updReq i f).fuse = s.fuse := by
  unfold State.updReq; split <;> rfl
@[simp] theorem State.updReq_rst (s : State) (i : Nat) (f : Request → Request) : (s.updReq i f).rst = s.rst := by
  unfold State.updReq; split <;> rfl
@[simp] theorem State.updReq_svc (s : State) (i : Nat) (f : Request → Request) : (s.updReq i f).svc = s.svc := by
  unfold State.updReq; split <;> rfl
@[simp] theorem State.updReq_dev (s : State) (i : Nat) (f : Request → Request) : (s.updReq i f).dev = s.dev := by
  unfold State.updReq; split <;> rfl
@[simp] theorem State.updReq_mbx (s : State) (i : Nat) (f : Request → Request) : (s.updReq i f).mbx = s.mbx := by
  unfold State.updReq; split <;> rfl
@[simp] theorem State.updReq_ram (s : State) (i : Nat) (f : Request → Request) : (s.updReq i f).ram = s.ram := by
  unfold State.updReq; split <;> rfl
@[simp] theorem State.updReq_gpio (s : State) (i : Nat) (f : Request → Request) : (s.updReq i f).gpio = s.gpio := by
  unfold State.updReq; split <;> rfl
@[simp] theorem State.updReq_smb (s : State) (i : Nat) (f : Request → Request) : (s.updReq i f).smb = s.smb := by
  unfold State.updReq; split <;> rfl
@[simp] theorem State.updReq_tap (s : State) (i : Nat) (f : Request → Request) : (s.updReq i f).tap = s.tap := by
  unfold State.updReq; split <;> rfl
@[simp] theorem State.updReq_sec (s : State) (i : Nat) (f : Request → Request) : (s.updReq i f).sec = s.sec := by
  unfold State.updReq; split <;> rfl
@[simp] theorem State.updReq_pwr (s : State) (i : Nat) (f : Request → Request) : (s.updReq i f).pwr = s.pwr := by
  unfold State.updReq; split <;> rfl
@[simp] theorem State.updReq_flt (s : State) (i : Nat) (f : Request → Request) : (s.updReq i f).flt = s.flt := by
  unfold State.updReq; split <;> rfl
@[simp] theorem State.updReq_time (s : State) (i : Nat) (f : Request → Request) : (s.updReq i f).time = s.time := by
  unfold State.updReq; split <;> rfl
@[simp] theorem State.updReq_pace (s : State) (i : Nat) (f : Request → Request) : (s.updReq i f).pace = s.pace := by
  unfold State.updReq; split <;> rfl
@[simp] theorem State.updReq_mem (s : State) (i : Nat) (f : Request → Request) : (s.updReq i f).mem = s.mem := by
  unfold State.updReq; split <;> rfl
@[simp] theorem State.updReq_basin (s : State) (i : Nat) (f : Request → Request) : (s.updReq i f).basin = s.basin := by
  unfold State.updReq; split <;> rfl
@[simp] theorem State.updReq_ext (s : State) (i : Nat) (f : Request → Request) : (s.updReq i f).ext = s.ext := by
  unfold State.updReq; split <;> rfl
@[simp] theorem State.updReq_valleys (s : State) (i : Nat) (f : Request → Request) : (s.updReq i f).valleys = s.valleys := by
  unfold State.updReq; split <;> rfl
@[simp] theorem State.updReq_drainSt (s : State) (i : Nat) (f : Request → Request) : (s.updReq i f).drainSt = s.drainSt := by
  unfold State.updReq; split <;> rfl
@[simp] theorem State.updReq_link (s : State) (i : Nat) (f : Request → Request) : (s.updReq i f).link = s.link := by
  unfold State.updReq; split <;> rfl
@[simp] theorem State.updReq_links (s : State) (i : Nat) (f : Request → Request) : (s.updReq i f).links = s.links := by
  unfold State.updReq; split <;> rfl
@[simp] theorem State.updReq_fabric (s : State) (i : Nat) (f : Request → Request) : (s.updReq i f).fabric = s.fabric := by
  unfold State.updReq; split <;> rfl
@[simp] theorem State.updReq_eth (s : State) (i : Nat) (f : Request → Request) : (s.updReq i f).eth = s.eth := by
  unfold State.updReq; split <;> rfl
@[simp] theorem State.updReq_mgmt (s : State) (i : Nat) (f : Request → Request) : (s.updReq i f).mgmt = s.mgmt := by
  unfold State.updReq; split <;> rfl
@[simp] theorem State.updReq_pool (s : State) (i : Nat) (f : Request → Request) : (s.updReq i f).pool = s.pool := by
  unfold State.updReq; split <;> rfl
@[simp] theorem State.updReq_ford (s : State) (i : Nat) (f : Request → Request) : (s.updReq i f).ford = s.ford := by
  unfold State.updReq; split <;> rfl
@[simp] theorem State.updReq_cyn (s : State) (i : Nat) (f : Request → Request) : (s.updReq i f).cyn = s.cyn := by
  unfold State.updReq; split <;> rfl
@[simp] theorem State.updReq_free (s : State) (i : Nat) (f : Request → Request) : (s.updReq i f).free = s.free := by
  unfold State.updReq; split <;> rfl
@[simp] theorem State.updReq_out (s : State) (i : Nat) (f : Request → Request) : (s.updReq i f).out = s.out := by
  unfold State.updReq; split <;> rfl
@[simp] theorem State.updReq_pending (s : State) (i : Nat) (f : Request → Request) : (s.updReq i f).pending = s.pending := by
  unfold State.updReq; split <;> rfl

@[simp] theorem State.updThread_fuse (s : State) (i : Nat) (f : Thread → Thread) : (s.updThread i f).fuse = s.fuse := by
  unfold State.updThread; split <;> rfl
@[simp] theorem State.updThread_rst (s : State) (i : Nat) (f : Thread → Thread) : (s.updThread i f).rst = s.rst := by
  unfold State.updThread; split <;> rfl
@[simp] theorem State.updThread_svc (s : State) (i : Nat) (f : Thread → Thread) : (s.updThread i f).svc = s.svc := by
  unfold State.updThread; split <;> rfl
@[simp] theorem State.updThread_dev (s : State) (i : Nat) (f : Thread → Thread) : (s.updThread i f).dev = s.dev := by
  unfold State.updThread; split <;> rfl
@[simp] theorem State.updThread_mbx (s : State) (i : Nat) (f : Thread → Thread) : (s.updThread i f).mbx = s.mbx := by
  unfold State.updThread; split <;> rfl
@[simp] theorem State.updThread_ram (s : State) (i : Nat) (f : Thread → Thread) : (s.updThread i f).ram = s.ram := by
  unfold State.updThread; split <;> rfl
@[simp] theorem State.updThread_gpio (s : State) (i : Nat) (f : Thread → Thread) : (s.updThread i f).gpio = s.gpio := by
  unfold State.updThread; split <;> rfl
@[simp] theorem State.updThread_smb (s : State) (i : Nat) (f : Thread → Thread) : (s.updThread i f).smb = s.smb := by
  unfold State.updThread; split <;> rfl
@[simp] theorem State.updThread_tap (s : State) (i : Nat) (f : Thread → Thread) : (s.updThread i f).tap = s.tap := by
  unfold State.updThread; split <;> rfl
@[simp] theorem State.updThread_sec (s : State) (i : Nat) (f : Thread → Thread) : (s.updThread i f).sec = s.sec := by
  unfold State.updThread; split <;> rfl
@[simp] theorem State.updThread_pwr (s : State) (i : Nat) (f : Thread → Thread) : (s.updThread i f).pwr = s.pwr := by
  unfold State.updThread; split <;> rfl
@[simp] theorem State.updThread_flt (s : State) (i : Nat) (f : Thread → Thread) : (s.updThread i f).flt = s.flt := by
  unfold State.updThread; split <;> rfl
@[simp] theorem State.updThread_time (s : State) (i : Nat) (f : Thread → Thread) : (s.updThread i f).time = s.time := by
  unfold State.updThread; split <;> rfl
@[simp] theorem State.updThread_pace (s : State) (i : Nat) (f : Thread → Thread) : (s.updThread i f).pace = s.pace := by
  unfold State.updThread; split <;> rfl
@[simp] theorem State.updThread_mem (s : State) (i : Nat) (f : Thread → Thread) : (s.updThread i f).mem = s.mem := by
  unfold State.updThread; split <;> rfl
@[simp] theorem State.updThread_basin (s : State) (i : Nat) (f : Thread → Thread) : (s.updThread i f).basin = s.basin := by
  unfold State.updThread; split <;> rfl
@[simp] theorem State.updThread_ext (s : State) (i : Nat) (f : Thread → Thread) : (s.updThread i f).ext = s.ext := by
  unfold State.updThread; split <;> rfl
@[simp] theorem State.updThread_valleys (s : State) (i : Nat) (f : Thread → Thread) : (s.updThread i f).valleys = s.valleys := by
  unfold State.updThread; split <;> rfl
@[simp] theorem State.updThread_drainSt (s : State) (i : Nat) (f : Thread → Thread) : (s.updThread i f).drainSt = s.drainSt := by
  unfold State.updThread; split <;> rfl
@[simp] theorem State.updThread_link (s : State) (i : Nat) (f : Thread → Thread) : (s.updThread i f).link = s.link := by
  unfold State.updThread; split <;> rfl
@[simp] theorem State.updThread_links (s : State) (i : Nat) (f : Thread → Thread) : (s.updThread i f).links = s.links := by
  unfold State.updThread; split <;> rfl
@[simp] theorem State.updThread_fabric (s : State) (i : Nat) (f : Thread → Thread) : (s.updThread i f).fabric = s.fabric := by
  unfold State.updThread; split <;> rfl
@[simp] theorem State.updThread_eth (s : State) (i : Nat) (f : Thread → Thread) : (s.updThread i f).eth = s.eth := by
  unfold State.updThread; split <;> rfl
@[simp] theorem State.updThread_mgmt (s : State) (i : Nat) (f : Thread → Thread) : (s.updThread i f).mgmt = s.mgmt := by
  unfold State.updThread; split <;> rfl
@[simp] theorem State.updThread_pool (s : State) (i : Nat) (f : Thread → Thread) : (s.updThread i f).pool = s.pool := by
  unfold State.updThread; split <;> rfl
@[simp] theorem State.updThread_ford (s : State) (i : Nat) (f : Thread → Thread) : (s.updThread i f).ford = s.ford := by
  unfold State.updThread; split <;> rfl
@[simp] theorem State.updThread_cyn (s : State) (i : Nat) (f : Thread → Thread) : (s.updThread i f).cyn = s.cyn := by
  unfold State.updThread; split <;> rfl
@[simp] theorem State.updThread_free (s : State) (i : Nat) (f : Thread → Thread) : (s.updThread i f).free = s.free := by
  unfold State.updThread; split <;> rfl
@[simp] theorem State.updThread_out (s : State) (i : Nat) (f : Thread → Thread) : (s.updThread i f).out = s.out := by
  unfold State.updThread; split <;> rfl
@[simp] theorem State.updThread_pending (s : State) (i : Nat) (f : Thread → Thread) : (s.updThread i f).pending = s.pending := by
  unfold State.updThread; split <;> rfl

@[simp] theorem State.updSq_fuse (s : State) (i : Nat) (f : Sq → Sq) : (s.updSq i f).fuse = s.fuse := by
  unfold State.updSq; split <;> rfl
@[simp] theorem State.updSq_rst (s : State) (i : Nat) (f : Sq → Sq) : (s.updSq i f).rst = s.rst := by
  unfold State.updSq; split <;> rfl
@[simp] theorem State.updSq_svc (s : State) (i : Nat) (f : Sq → Sq) : (s.updSq i f).svc = s.svc := by
  unfold State.updSq; split <;> rfl
@[simp] theorem State.updSq_dev (s : State) (i : Nat) (f : Sq → Sq) : (s.updSq i f).dev = s.dev := by
  unfold State.updSq; split <;> rfl
@[simp] theorem State.updSq_mbx (s : State) (i : Nat) (f : Sq → Sq) : (s.updSq i f).mbx = s.mbx := by
  unfold State.updSq; split <;> rfl
@[simp] theorem State.updSq_ram (s : State) (i : Nat) (f : Sq → Sq) : (s.updSq i f).ram = s.ram := by
  unfold State.updSq; split <;> rfl
@[simp] theorem State.updSq_gpio (s : State) (i : Nat) (f : Sq → Sq) : (s.updSq i f).gpio = s.gpio := by
  unfold State.updSq; split <;> rfl
@[simp] theorem State.updSq_smb (s : State) (i : Nat) (f : Sq → Sq) : (s.updSq i f).smb = s.smb := by
  unfold State.updSq; split <;> rfl
@[simp] theorem State.updSq_tap (s : State) (i : Nat) (f : Sq → Sq) : (s.updSq i f).tap = s.tap := by
  unfold State.updSq; split <;> rfl
@[simp] theorem State.updSq_sec (s : State) (i : Nat) (f : Sq → Sq) : (s.updSq i f).sec = s.sec := by
  unfold State.updSq; split <;> rfl
@[simp] theorem State.updSq_pwr (s : State) (i : Nat) (f : Sq → Sq) : (s.updSq i f).pwr = s.pwr := by
  unfold State.updSq; split <;> rfl
@[simp] theorem State.updSq_flt (s : State) (i : Nat) (f : Sq → Sq) : (s.updSq i f).flt = s.flt := by
  unfold State.updSq; split <;> rfl
@[simp] theorem State.updSq_time (s : State) (i : Nat) (f : Sq → Sq) : (s.updSq i f).time = s.time := by
  unfold State.updSq; split <;> rfl
@[simp] theorem State.updSq_pace (s : State) (i : Nat) (f : Sq → Sq) : (s.updSq i f).pace = s.pace := by
  unfold State.updSq; split <;> rfl
@[simp] theorem State.updSq_mem (s : State) (i : Nat) (f : Sq → Sq) : (s.updSq i f).mem = s.mem := by
  unfold State.updSq; split <;> rfl
@[simp] theorem State.updSq_basin (s : State) (i : Nat) (f : Sq → Sq) : (s.updSq i f).basin = s.basin := by
  unfold State.updSq; split <;> rfl
@[simp] theorem State.updSq_ext (s : State) (i : Nat) (f : Sq → Sq) : (s.updSq i f).ext = s.ext := by
  unfold State.updSq; split <;> rfl
@[simp] theorem State.updSq_valleys (s : State) (i : Nat) (f : Sq → Sq) : (s.updSq i f).valleys = s.valleys := by
  unfold State.updSq; split <;> rfl
@[simp] theorem State.updSq_drainSt (s : State) (i : Nat) (f : Sq → Sq) : (s.updSq i f).drainSt = s.drainSt := by
  unfold State.updSq; split <;> rfl
@[simp] theorem State.updSq_link (s : State) (i : Nat) (f : Sq → Sq) : (s.updSq i f).link = s.link := by
  unfold State.updSq; split <;> rfl
@[simp] theorem State.updSq_links (s : State) (i : Nat) (f : Sq → Sq) : (s.updSq i f).links = s.links := by
  unfold State.updSq; split <;> rfl
@[simp] theorem State.updSq_fabric (s : State) (i : Nat) (f : Sq → Sq) : (s.updSq i f).fabric = s.fabric := by
  unfold State.updSq; split <;> rfl
@[simp] theorem State.updSq_eth (s : State) (i : Nat) (f : Sq → Sq) : (s.updSq i f).eth = s.eth := by
  unfold State.updSq; split <;> rfl
@[simp] theorem State.updSq_mgmt (s : State) (i : Nat) (f : Sq → Sq) : (s.updSq i f).mgmt = s.mgmt := by
  unfold State.updSq; split <;> rfl
@[simp] theorem State.updSq_pool (s : State) (i : Nat) (f : Sq → Sq) : (s.updSq i f).pool = s.pool := by
  unfold State.updSq; split <;> rfl
@[simp] theorem State.updSq_ford (s : State) (i : Nat) (f : Sq → Sq) : (s.updSq i f).ford = s.ford := by
  unfold State.updSq; split <;> rfl
@[simp] theorem State.updSq_cyn (s : State) (i : Nat) (f : Sq → Sq) : (s.updSq i f).cyn = s.cyn := by
  unfold State.updSq; split <;> rfl
@[simp] theorem State.updSq_free (s : State) (i : Nat) (f : Sq → Sq) : (s.updSq i f).free = s.free := by
  unfold State.updSq; split <;> rfl
@[simp] theorem State.updSq_out (s : State) (i : Nat) (f : Sq → Sq) : (s.updSq i f).out = s.out := by
  unfold State.updSq; split <;> rfl
@[simp] theorem State.updSq_pending (s : State) (i : Nat) (f : Sq → Sq) : (s.updSq i f).pending = s.pending := by
  unfold State.updSq; split <;> rfl

@[simp] theorem State.updCq_fuse (s : State) (i : Nat) (f : Cq → Cq) : (s.updCq i f).fuse = s.fuse := by
  unfold State.updCq; split <;> rfl
@[simp] theorem State.updCq_rst (s : State) (i : Nat) (f : Cq → Cq) : (s.updCq i f).rst = s.rst := by
  unfold State.updCq; split <;> rfl
@[simp] theorem State.updCq_svc (s : State) (i : Nat) (f : Cq → Cq) : (s.updCq i f).svc = s.svc := by
  unfold State.updCq; split <;> rfl
@[simp] theorem State.updCq_dev (s : State) (i : Nat) (f : Cq → Cq) : (s.updCq i f).dev = s.dev := by
  unfold State.updCq; split <;> rfl
@[simp] theorem State.updCq_mbx (s : State) (i : Nat) (f : Cq → Cq) : (s.updCq i f).mbx = s.mbx := by
  unfold State.updCq; split <;> rfl
@[simp] theorem State.updCq_ram (s : State) (i : Nat) (f : Cq → Cq) : (s.updCq i f).ram = s.ram := by
  unfold State.updCq; split <;> rfl
@[simp] theorem State.updCq_gpio (s : State) (i : Nat) (f : Cq → Cq) : (s.updCq i f).gpio = s.gpio := by
  unfold State.updCq; split <;> rfl
@[simp] theorem State.updCq_smb (s : State) (i : Nat) (f : Cq → Cq) : (s.updCq i f).smb = s.smb := by
  unfold State.updCq; split <;> rfl
@[simp] theorem State.updCq_tap (s : State) (i : Nat) (f : Cq → Cq) : (s.updCq i f).tap = s.tap := by
  unfold State.updCq; split <;> rfl
@[simp] theorem State.updCq_sec (s : State) (i : Nat) (f : Cq → Cq) : (s.updCq i f).sec = s.sec := by
  unfold State.updCq; split <;> rfl
@[simp] theorem State.updCq_pwr (s : State) (i : Nat) (f : Cq → Cq) : (s.updCq i f).pwr = s.pwr := by
  unfold State.updCq; split <;> rfl
@[simp] theorem State.updCq_flt (s : State) (i : Nat) (f : Cq → Cq) : (s.updCq i f).flt = s.flt := by
  unfold State.updCq; split <;> rfl
@[simp] theorem State.updCq_time (s : State) (i : Nat) (f : Cq → Cq) : (s.updCq i f).time = s.time := by
  unfold State.updCq; split <;> rfl
@[simp] theorem State.updCq_pace (s : State) (i : Nat) (f : Cq → Cq) : (s.updCq i f).pace = s.pace := by
  unfold State.updCq; split <;> rfl
@[simp] theorem State.updCq_mem (s : State) (i : Nat) (f : Cq → Cq) : (s.updCq i f).mem = s.mem := by
  unfold State.updCq; split <;> rfl
@[simp] theorem State.updCq_basin (s : State) (i : Nat) (f : Cq → Cq) : (s.updCq i f).basin = s.basin := by
  unfold State.updCq; split <;> rfl
@[simp] theorem State.updCq_ext (s : State) (i : Nat) (f : Cq → Cq) : (s.updCq i f).ext = s.ext := by
  unfold State.updCq; split <;> rfl
@[simp] theorem State.updCq_valleys (s : State) (i : Nat) (f : Cq → Cq) : (s.updCq i f).valleys = s.valleys := by
  unfold State.updCq; split <;> rfl
@[simp] theorem State.updCq_drainSt (s : State) (i : Nat) (f : Cq → Cq) : (s.updCq i f).drainSt = s.drainSt := by
  unfold State.updCq; split <;> rfl
@[simp] theorem State.updCq_link (s : State) (i : Nat) (f : Cq → Cq) : (s.updCq i f).link = s.link := by
  unfold State.updCq; split <;> rfl
@[simp] theorem State.updCq_links (s : State) (i : Nat) (f : Cq → Cq) : (s.updCq i f).links = s.links := by
  unfold State.updCq; split <;> rfl
@[simp] theorem State.updCq_fabric (s : State) (i : Nat) (f : Cq → Cq) : (s.updCq i f).fabric = s.fabric := by
  unfold State.updCq; split <;> rfl
@[simp] theorem State.updCq_eth (s : State) (i : Nat) (f : Cq → Cq) : (s.updCq i f).eth = s.eth := by
  unfold State.updCq; split <;> rfl
@[simp] theorem State.updCq_mgmt (s : State) (i : Nat) (f : Cq → Cq) : (s.updCq i f).mgmt = s.mgmt := by
  unfold State.updCq; split <;> rfl
@[simp] theorem State.updCq_pool (s : State) (i : Nat) (f : Cq → Cq) : (s.updCq i f).pool = s.pool := by
  unfold State.updCq; split <;> rfl
@[simp] theorem State.updCq_ford (s : State) (i : Nat) (f : Cq → Cq) : (s.updCq i f).ford = s.ford := by
  unfold State.updCq; split <;> rfl
@[simp] theorem State.updCq_cyn (s : State) (i : Nat) (f : Cq → Cq) : (s.updCq i f).cyn = s.cyn := by
  unfold State.updCq; split <;> rfl
@[simp] theorem State.updCq_free (s : State) (i : Nat) (f : Cq → Cq) : (s.updCq i f).free = s.free := by
  unfold State.updCq; split <;> rfl
@[simp] theorem State.updCq_out (s : State) (i : Nat) (f : Cq → Cq) : (s.updCq i f).out = s.out := by
  unfold State.updCq; split <;> rfl
@[simp] theorem State.updCq_pending (s : State) (i : Nat) (f : Cq → Cq) : (s.updCq i f).pending = s.pending := by
  unfold State.updCq; split <;> rfl

@[simp] theorem State.updCtx_fuse (s : State) (i : Nat) (f : Context → Context) : (s.updCtx i f).fuse = s.fuse := by
  unfold State.updCtx; split <;> rfl
@[simp] theorem State.updCtx_rst (s : State) (i : Nat) (f : Context → Context) : (s.updCtx i f).rst = s.rst := by
  unfold State.updCtx; split <;> rfl
@[simp] theorem State.updCtx_svc (s : State) (i : Nat) (f : Context → Context) : (s.updCtx i f).svc = s.svc := by
  unfold State.updCtx; split <;> rfl
@[simp] theorem State.updCtx_dev (s : State) (i : Nat) (f : Context → Context) : (s.updCtx i f).dev = s.dev := by
  unfold State.updCtx; split <;> rfl
@[simp] theorem State.updCtx_mbx (s : State) (i : Nat) (f : Context → Context) : (s.updCtx i f).mbx = s.mbx := by
  unfold State.updCtx; split <;> rfl
@[simp] theorem State.updCtx_ram (s : State) (i : Nat) (f : Context → Context) : (s.updCtx i f).ram = s.ram := by
  unfold State.updCtx; split <;> rfl
@[simp] theorem State.updCtx_gpio (s : State) (i : Nat) (f : Context → Context) : (s.updCtx i f).gpio = s.gpio := by
  unfold State.updCtx; split <;> rfl
@[simp] theorem State.updCtx_smb (s : State) (i : Nat) (f : Context → Context) : (s.updCtx i f).smb = s.smb := by
  unfold State.updCtx; split <;> rfl
@[simp] theorem State.updCtx_tap (s : State) (i : Nat) (f : Context → Context) : (s.updCtx i f).tap = s.tap := by
  unfold State.updCtx; split <;> rfl
@[simp] theorem State.updCtx_sec (s : State) (i : Nat) (f : Context → Context) : (s.updCtx i f).sec = s.sec := by
  unfold State.updCtx; split <;> rfl
@[simp] theorem State.updCtx_pwr (s : State) (i : Nat) (f : Context → Context) : (s.updCtx i f).pwr = s.pwr := by
  unfold State.updCtx; split <;> rfl
@[simp] theorem State.updCtx_flt (s : State) (i : Nat) (f : Context → Context) : (s.updCtx i f).flt = s.flt := by
  unfold State.updCtx; split <;> rfl
@[simp] theorem State.updCtx_time (s : State) (i : Nat) (f : Context → Context) : (s.updCtx i f).time = s.time := by
  unfold State.updCtx; split <;> rfl
@[simp] theorem State.updCtx_pace (s : State) (i : Nat) (f : Context → Context) : (s.updCtx i f).pace = s.pace := by
  unfold State.updCtx; split <;> rfl
@[simp] theorem State.updCtx_mem (s : State) (i : Nat) (f : Context → Context) : (s.updCtx i f).mem = s.mem := by
  unfold State.updCtx; split <;> rfl
@[simp] theorem State.updCtx_basin (s : State) (i : Nat) (f : Context → Context) : (s.updCtx i f).basin = s.basin := by
  unfold State.updCtx; split <;> rfl
@[simp] theorem State.updCtx_ext (s : State) (i : Nat) (f : Context → Context) : (s.updCtx i f).ext = s.ext := by
  unfold State.updCtx; split <;> rfl
@[simp] theorem State.updCtx_valleys (s : State) (i : Nat) (f : Context → Context) : (s.updCtx i f).valleys = s.valleys := by
  unfold State.updCtx; split <;> rfl
@[simp] theorem State.updCtx_drainSt (s : State) (i : Nat) (f : Context → Context) : (s.updCtx i f).drainSt = s.drainSt := by
  unfold State.updCtx; split <;> rfl
@[simp] theorem State.updCtx_link (s : State) (i : Nat) (f : Context → Context) : (s.updCtx i f).link = s.link := by
  unfold State.updCtx; split <;> rfl
@[simp] theorem State.updCtx_links (s : State) (i : Nat) (f : Context → Context) : (s.updCtx i f).links = s.links := by
  unfold State.updCtx; split <;> rfl
@[simp] theorem State.updCtx_fabric (s : State) (i : Nat) (f : Context → Context) : (s.updCtx i f).fabric = s.fabric := by
  unfold State.updCtx; split <;> rfl
@[simp] theorem State.updCtx_eth (s : State) (i : Nat) (f : Context → Context) : (s.updCtx i f).eth = s.eth := by
  unfold State.updCtx; split <;> rfl
@[simp] theorem State.updCtx_mgmt (s : State) (i : Nat) (f : Context → Context) : (s.updCtx i f).mgmt = s.mgmt := by
  unfold State.updCtx; split <;> rfl
@[simp] theorem State.updCtx_pool (s : State) (i : Nat) (f : Context → Context) : (s.updCtx i f).pool = s.pool := by
  unfold State.updCtx; split <;> rfl
@[simp] theorem State.updCtx_ford (s : State) (i : Nat) (f : Context → Context) : (s.updCtx i f).ford = s.ford := by
  unfold State.updCtx; split <;> rfl
@[simp] theorem State.updCtx_cyn (s : State) (i : Nat) (f : Context → Context) : (s.updCtx i f).cyn = s.cyn := by
  unfold State.updCtx; split <;> rfl
@[simp] theorem State.updCtx_free (s : State) (i : Nat) (f : Context → Context) : (s.updCtx i f).free = s.free := by
  unfold State.updCtx; split <;> rfl
@[simp] theorem State.updCtx_out (s : State) (i : Nat) (f : Context → Context) : (s.updCtx i f).out = s.out := by
  unfold State.updCtx; split <;> rfl
@[simp] theorem State.updCtx_pending (s : State) (i : Nat) (f : Context → Context) : (s.updCtx i f).pending = s.pending := by
  unfold State.updCtx; split <;> rfl

/-- Device time after it has run on. -/
@[simp] theorem State.advanceTo_now (s : State) (t : Nat) : (s.advanceTo t).now = max s.now t := by
  unfold State.advanceTo State.now; split <;> simp_all [Time.run] <;> omega

/-- Taking a request changes neither device time nor what reads none of the rings. -/
@[simp] theorem State.consume_now (s : State) (v : Via) : (s.consume v).now = s.now := by simp [State.now]
@[simp] theorem State.consume_profile (s : State) (v : Via) (n : Nat) : (s.consume v).profile n = s.profile n := by
  simp [State.profile, State.valley]
@[simp] theorem State.consume_valley (s : State) (v : Via) (n : Nat) : (s.consume v).valley n = s.valley n := by
  simp [State.valley]
@[simp] theorem State.consume_group (s : State) (v : Via) (g : Nat) : (s.consume v).group g = s.group g := by
  simp [State.group]

end Sys2Proof.Machine
end

