-- ==== Sys2Proof/Laws/Posts.lean ====
section
/-! SUPPORT. What posting a response, a notification or an interrupt can change, and what recording a fault event can. -/
namespace Sys2Proof.Machine
open Sys2Proof

theorem Posts.refl (s : State) : Posts s s := by constructor <;> rfl

theorem Posts.trans {a b c : State} (h : Posts a b) (g : Posts b c) : Posts a c where
  fuse := g.fuse.trans h.fuse
  rst := g.rst.trans h.rst
  dev := g.dev.trans h.dev
  svc := g.svc.trans h.svc
  gpio := g.gpio.trans h.gpio
  tap := g.tap.trans h.tap
  sec := g.sec.trans h.sec
  pwr := g.pwr.trans h.pwr
  flt := g.flt.trans h.flt
  time := g.time.trans h.time
  pace := g.pace.trans h.pace
  mem := g.mem.trans h.mem
  basin := g.basin.trans h.basin
  ext := g.ext.trans h.ext
  valleys := g.valleys.trans h.valleys
  drainSt := g.drainSt.trans h.drainSt
  core := g.core.trans h.core
  links := g.links.trans h.links
  fabric := g.fabric.trans h.fabric
  eth := g.eth.trans h.eth
  pool := g.pool.trans h.pool
  ford := g.ford.trans h.ford
  cyn := g.cyn.trans h.cyn
  free := g.free.trans h.free
  pending := g.pending.trans h.pending
  link := by
    have e := g.link
    have d := h.link
    rw [← d, ← e]

theorem Posts.foldl {α : Type} {s0 s : State} {g : State → α → State} (l : List α) (h : Posts s0 s)
    (hg : ∀ t x, Posts t (g t x)) : Posts s0 (l.foldl g s) := by
  induction l generalizing s with
  | nil => exact h
  | cons x l ih => exact ih (h.trans (hg s x))

theorem State.emit_posts (s : State) (o : Output) : Posts s (s.emit o) := by constructor <;> rfl

theorem State.updBox_posts (s : State) (n : Nat) (f : Mbx → Mbx) : Posts s (s.updBox n f) := by constructor <;> rfl

theorem State.msix_posts (s : State) (v : Nat) : Posts s (s.msix v) := by
  unfold State.msix
  repeat' split
  all_goals constructor <;> rfl

theorem State.irq_posts (s : State) (n b : Nat) : Posts s (s.irq n b) := by
  unfold State.irq
  dsimp only
  split
  · exact .trans (b := s.setBox n _) (by constructor <;> rfl) (State.msix_posts _ _)
  · constructor <;> rfl

theorem State.smbItem_posts (s : State) (b : Bool) (m : Bytes) : Posts s (s.smbItem b m) := by constructor <;> rfl

/-- Taking a request also counts as the turn of its mailbox. -/
theorem State.consume_posts (s : State) (v : Via) : Posts { s with svc := s.svc.serviced v } (s.consume v) := by
  unfold State.consume
  split <;> constructor <;> rfl

theorem State.postRsp_posts (s : State) (v : Via) (seq : Nat) (m : Bytes) : Posts s (s.postRsp v seq m) := by
  unfold State.postRsp
  dsimp only
  split
  · exact .trans (b := { s with ram := _ }) (by constructor <;> rfl) (.trans (State.updBox_posts _ _ _) (State.irq_posts _ _ _))
  · exact State.smbItem_posts _ _ _
  · constructor <;> rfl

theorem State.respond_posts (t s : State) (r : Req) (st : St) (d : Nat) (p : Bytes) : Posts t (t.respond s r st d p) :=
  State.postRsp_posts _ _ _ _

theorem State.ntfRing_posts (s : State) (n : Nat) (b : Bool) (m : Bytes) : Posts s (s.ntfRing n b m) := by
  unfold State.ntfRing
  dsimp only
  split
  · exact .trans (b := { s with ram := _ }) (by constructor <;> rfl) (.trans (State.updBox_posts _ _ _) (State.irq_posts _ _ _))
  · split <;> constructor <;> rfl

theorem State.ntfSmb_posts (s : State) (b : Bool) (m : Bytes) : Posts s (s.ntfSmb b m) := by
  unfold State.ntfSmb
  repeat' split
  all_goals constructor <;> rfl

theorem State.ntfNet_posts (s : State) (n : Nat) (m : Bytes) : Posts s (s.ntfNet n m) := by
  unfold State.ntfNet
  split
  · constructor <;> rfl
  · dsimp only
    split <;> constructor <;> rfl

theorem State.notify_posts (s : State) (n : Nat) (m : Bytes) : Posts s (s.notify n m) := by
  unfold State.notify
  have h := (State.ntfRing_posts s n false m).trans (State.ntfNet_posts _ n m)
  dsimp only
  split
  · exact h.trans (State.ntfSmb_posts _ _ _)
  · exact h

theorem State.flushNtf_posts (s : State) (n : Nat) : Posts s (s.flushNtf n) := by
  unfold State.flushNtf
  dsimp only
  have h := Posts.foldl (s.box n).heldNtf (State.updBox_posts s n fun b => { b with heldNtf := [] })
    (g := fun s m => s.ntfRing n true m) fun _ _ => State.ntfRing_posts _ _ _ _
  split
  · exact h.trans (.trans (State.updBox_posts _ _ _) (State.ntfRing_posts _ _ _ _))
  · exact h

theorem State.event_posts (s : State) (a b u : Nat) (d : Bytes) (v : Option Nat) : Posts s (s.event a b u d v) := by
  unfold State.event
  dsimp only
  split
  · constructor <;> rfl
  · split
    · exact (State.notify_posts _ _ _).trans (State.notify_posts _ _ _)
    · exact State.notify_posts _ _ _

theorem State.done_posts (s : State) (d : Deferred) (st : St) (x : Nat) (p : Bytes) : Posts s (s.done d st x p) := by
  unfold State.done
  dsimp only
  split
  · constructor <;> rfl
  · refine .trans (State.updBox_posts s d.via.mbx fun b => { b with deferred := b.deferred.erase d }) ?_
    split
    · exact State.ntfRing_posts _ _ _ _
    · exact State.ntfSmb_posts _ _ _
    · exact State.ntfNet_posts _ _ _

theorem State.doneOpt_posts (s : State) (d : Option Deferred) (st : St) (x : Nat) (p : Bytes) :
    Posts s (s.doneOpt d st x p) := by
  unfold State.doneOpt
  split
  · exact State.done_posts _ _ _ _ _
  · constructor <;> rfl

theorem State.endDeferred_posts (s : State) (st : St) (k : Deferred → Bool) : Posts s (s.endDeferred st k) :=
  Posts.foldl _ (.refl s) fun _ _ => State.done_posts _ _ _ _ _

/-- A change of state: the device state and the ready pin, then interrupts and notifications (R56, R96). -/
theorem State.enter_posts (s : State) (st : DevState) (reason : Nat) :
    Posts (s.noteEdges { s with dev := { s.dev with
      st, prev := s.dev.st, since := s.now, rejectDetail := if st == .configRejected then reason else 0 } })
      (s.enter st reason) := by
  unfold State.enter
  dsimp only
  generalize s.noteEdges { s with dev := { s.dev with
      st, prev := s.dev.st, since := s.now, rejectDetail := if st == .configRejected then reason else 0 } } = t
  split
  · exact Posts.foldl _ (.refl _) fun _ _ => State.irq_posts _ _ _
  · exact Posts.foldl _ (Posts.foldl _ (.refl _) fun _ _ => State.irq_posts _ _ _) fun _ _ => State.notify_posts _ _ _

theorem Posts.recorded {s t : State} (h : Posts s t) : Recorded s t :=
  ⟨h.fuse, h.rst, h.dev, h.svc, h.gpio, h.tap, h.sec, h.pwr, h.time, h.pace, h.mem, h.basin, h.ext, h.valleys, h.drainSt, h.core, h.links, h.fabric, h.eth, h.pool, h.ford, h.cyn, h.free, h.pending,
    h.link⟩

theorem Recorded.refl (s : State) : Recorded s s := by constructor <;> rfl

theorem Recorded.trans {a b c : State} (h : Recorded a b) (g : Recorded b c) : Recorded a c where
  fuse := g.fuse.trans h.fuse
  rst := g.rst.trans h.rst
  dev := g.dev.trans h.dev
  svc := g.svc.trans h.svc
  gpio := g.gpio.trans h.gpio
  tap := g.tap.trans h.tap
  sec := g.sec.trans h.sec
  pwr := g.pwr.trans h.pwr
  time := g.time.trans h.time
  pace := g.pace.trans h.pace
  mem := g.mem.trans h.mem
  basin := g.basin.trans h.basin
  ext := g.ext.trans h.ext
  valleys := g.valleys.trans h.valleys
  drainSt := g.drainSt.trans h.drainSt
  core := g.core.trans h.core
  links := g.links.trans h.links
  fabric := g.fabric.trans h.fabric
  eth := g.eth.trans h.eth
  pool := g.pool.trans h.pool
  ford := g.ford.trans h.ford
  cyn := g.cyn.trans h.cyn
  free := g.free.trans h.free
  pending := g.pending.trans h.pending
  link := by
    have e := g.link
    have d := h.link
    rw [← d, ← e]

theorem Recorded.foldl {α : Type} {s0 s : State} {g : State → α → State} (l : List α) (h : Recorded s0 s)
    (hg : ∀ t x, Recorded t (g t x)) : Recorded s0 (l.foldl g s) := by
  induction l generalizing s with
  | nil => exact h
  | cons x l ih => exact ih (h.trans (hg s x))

theorem State.stage_recorded (s : State) (e : FaultEv) : Recorded s (s.stage e).1 := by
  unfold State.stage
  dsimp only
  split
  · constructor <;> rfl
  · repeat' split
    all_goals constructor <;> rfl

theorem State.requestTest_recorded (s : State) (u : UnitRef) (n : Nat) : Recorded s (s.requestTest u n) := by
  unfold State.requestTest
  repeat' split
  all_goals constructor <;> rfl

theorem State.failProbation_recorded (s : State) (u : UnitRef) : Recorded s (s.failProbation u) := by
  unfold State.failProbation
  split
  · constructor <;> rfl
  · exact (State.stage_recorded s _).trans (.trans (b := { (s.stage _).1 with flt := _ }) (by constructor <;> rfl)
      (State.done_posts _ _ _ _ _).recorded)

/-- An ERROR event changes the fault handling and what posting changes, nothing else. -/
theorem State.error_recorded (s : State) (e : FaultEv) (us : List UnitRef) : Recorded s (s.error e us) :=
  Recorded.foldl _ (State.stage_recorded _ _) fun _ _ =>
    (State.failProbation_recorded _ _).trans (State.requestTest_recorded _ _ _)

end Sys2Proof.Machine
end

