-- ==== Sys2Proof/WellFormed.lean ====
section
/-! DEFINITION. Well-formed commands: every operand that numbers a unit, a register, an address or a length
lies in the range the spec gives it. Identities that the model gives its own operations (threads, bags,
operations, tags) and measured values carry no bound. -/
namespace Sys2Proof

/-- Each of a list, or an operand that may be absent, passes a check. -/
def all {α : Type} (f : α → Bool) (l : List α) : Bool := l.all f
def opt {α : Type} (f : α → Bool) (x : Option α) : Bool := (x.map f).getD true

/-- R42, R44: nine mailboxes; the two-wire bus carries the DM mailbox alone. -/
def viaOk (v : Via) : Bool :=
  v.mbx < 9 && (match v.xport with | .bar0 => true | .twoWire => v.mbx = 8 | .network src => src < 2 ^ 144)
/-- Table 18.1: the classes of units. -/
def unitOk (u : UnitRef) : Bool := 1 ≤ u.cls && u.cls < 16 && u.idx < 256
/-- R42. -/
def isMbx (n : Nat) : Bool := n < 9
/-- 00_scope: V0 to V7; a packet carries its requesting valley as TAG. -/
def isValley (n : Nat) : Bool := n < 8
/-- 00_scope: G0 to G31. -/
def isGlen (n : Nat) : Bool := n < 32
/-- 00_scope: CK0 to CK63. -/
def isCreek (n : Nat) : Bool := n < 64
/-- R140. -/
def isGroup (n : Nat) : Bool := n < 16
/-- Table 13.4: contexts 0 to 127, control cores 0 to 3. -/
def isStateErr : StateErr → Bool
  | .context c core => c < 128 && core < 4
  | .shared core => core < 4
  | .frontEnd => true
/-- R690: the staging queue has 64 entries. -/
def isRecordLoss : RecordLoss → Bool
  | .staged i => i < 64
  | _ => true
/-- R142. -/
def isBucket (n : Nat) : Bool := n < 256
/-- R400. -/
def isQueue (n : Nat) : Bool := n < 4096
/-- R363. -/
def isObject (n : Nat) : Bool := n < 131072
/-- R634. -/
def isRing (n : Nat) : Bool := n < 128
/-- R583. -/
def isEndpoint (n : Nat) : Bool := n < 512
/-- R581. -/
def isEth (n : Nat) : Bool := n < 2
/-- R269. -/
def isEngine (n : Nat) : Bool := n < 4
/-- 05: packages L0 to L7. -/
def isPackage (n : Nat) : Bool := n < 8
/-- R576. -/
def isVector (n : Nat) : Bool := n < 2048
/-- R638. -/
def isPipe (n : Nat) : Bool := n < 8
/-- 02: NODE_ID 0 to 255. -/
def isNode (n : Nat) : Bool := n < 256
/-- R208. -/
def isSet (n : Nat) : Bool := n < 256
/-- R270. -/
def isStream (n : Nat) : Bool := n < 64
/-- R789. -/
def isPin (n : Nat) : Bool := n < 32
/-- 03: a replica in each glen, in the control cores and in the Basin. -/
def isReplica (n : Nat) : Bool := n < 34
/-- the four cores of the two control-core pairs. -/
def isCore (n : Nat) : Bool := n < 4
/-- R764: the control-core pairs. -/
def isPair (n : Nat) : Bool := n < 2
/-- R112. -/
def isDomain (n : Nat) : Bool := n < 128
/-- R112. -/
def isTransport (n : Nat) : Bool := n < 3
/-- one byte of a message. -/
def isByte (n : Nat) : Bool := n < 256
/-- a UDP port. -/
def isUdp (n : Nat) : Bool := n < 65536
/-- R513: CTX 0 to 127. -/
def isContext (n : Nat) : Bool := n < 128
/-- R639. -/
def isCyn (n : Nat) : Bool := n < 64
/-- R359. -/
def isReg (n : Nat) : Bool := n < 32
/-- 00_scope: P0 to P7. -/
def isPass (n : Nat) : Bool := n < 8
/-- R517. -/
def isLaneNo (n : Nat) : Bool := n < 7
/-- one lane of a port or channel. -/
def isLane (n : Nat) : Bool := n < 16
/-- R520: a frame carries 64 flits. -/
def isFlit (n : Nat) : Bool := n < 64
/-- R520: the codewords of a frame. -/
def isBlock (n : Nat) : Bool := n < 16
/-- 05: stacks H0 to H3. -/
def isStack (n : Nat) : Bool := n < 4
/-- 05: HBM pseudo-channels. -/
def isPseudo (n : Nat) : Bool := n < 128
/-- 05: LPDDR channels. -/
def isLpChannel (n : Nat) : Bool := n < 32
/-- log 28. -/
def isSnoop (n : Nat) : Bool := n < 3
/-- 14: CLASS is two bits. -/
def isClass (n : Nat) : Bool := n < 4
/-- R576. -/
def isBar0 (n : Nat) : Bool := n < 67108864
/-- 32 bits. -/
def isWord (n : Nat) : Bool := n < 4294967296
/-- 64 bits. -/
def isWord64 (n : Nat) : Bool := n < 18446744073709551616
/-- R135: a local address has 48 bits, a line of 256 bytes 40. -/
def isEcc : Ecc → Bool
  | .corrected a | .uncorrectable a => a < 281474976710656
  | .tag l => l < 1099511627776
  | .tracker => true
/-- R308: an offset of a lane store by lane, an offset of glen scratch (R361), a weight unit (R311). -/
def isGlenErr : GlenErr → Bool
  | .laneFixed a | .laneLost a | .scratchFixed a | .scratchLost a => a < 2097152
  | .ownership u => u < 64
  | .parity => true
/-- R135: a 64-bit address. -/
def isAddress (n : Nat) : Bool := n < 18446744073709551616
/-- R370: N of an ACQUIRE. -/
def isCount (n : Nat) : Bool := 1 ≤ n && n ≤ 4294967296
/-- R365: sizes of a thread's access. -/
def isSize (n : Nat) : Bool := n = 1 || n = 2 || n = 4 || n = 8 || n = 16
/-- R100: one measured delay for each glen. -/
def isPaces (l : List Nat) : Bool := l.length = 32
/-- R148: a CXL access moves one 64-byte line. -/
def isLine (d : Bytes) : Bool := d.length = 64
/-- R250, Tables 8.5 and 8.6: a Creek descriptor has 64 bytes, a Plain one 32. -/
def isDesc (d : Bytes) : Bool := d.length = if d.head? = some 1#8 then 64 else 32
/-- R398: a task record has 64 bytes. -/
def isRecord (d : Bytes) : Bool := d.length = 64
/-- An IPv4 or IPv6 address. -/
def isAddr (d : Bytes) : Bool := d.length = 4 || d.length = 16

/-- The command is well formed. -/
def Instr.wf : Instr → Bool
  | .pwrokFall => true
  | .pwrokRise _ => true
  | .resetNAssert => true
  | .resetNDeassert _ => true
  | .perstNAssert => true
  | .perstNDeassert _ => true
  | .pcieHotReset => true
  | .functionLevelReset => true
  | .internalResetHoldExpire _ => true
  | .strapSample => true
  | .powerLoss => true
  | .selftestDone _ _ failed => all unitOk failed
  | .fwLoadDone _ => true
  | .memTrainingDone spared _ failedPc failedCh =>
    all isStack spared && all isPseudo failedPc && all isLpChannel failedCh
  | .pcieConfigRequest => true
  | .mbxDoorbellWrite n _ => isMbx n
  | .mbxRspConsWrite n _ => isMbx n
  | .mbxNtfConsWrite n _ => isMbx n
  | .mbxRequestSlotError n _ => isMbx n
  | .badOpcodeRequest via => viaOk via
  | .mbxHeartbeatAdvance => true
  | .heartbeatWatchdogExpire => true
  | .lockstepMismatch core => isCore core
  | .devIdentify via => viaOk via
  | .devStatus via => viaOk via
  | .devPing via => viaOk via
  | .configBegin via => viaOk via
  | .configChunk via => viaOk via
  | .configCommit via => viaOk via
  | .configAbort via => viaOk via
  | .configRead via => viaOk via
  | .configStagingTimeout => true
  | .configCheckDone => true
  | .devDrain via => viaOk via
  | .drainComplete => true
  | .drainLimitExpire => true
  | .devReset via => viaOk via
  | .devResetStart => true
  | .paceSample glens _ _ _ _ => isPaces glens
  | .vcoreTargetLower => true
  | .ownAdmissionHoldback valley => isValley valley
  | .holdbackRelease valley => isValley valley
  | .replicaFault replica => isReplica replica
  | .paceLowSet => true
  | .paceLowClear => true
  | .referenceLost => true
  | .referenceReturn => true
  | .ptpAnnounceReceive port domain transport _ _ _ _ _ _ _ => isEth port && isDomain domain && isTransport transport
  | .ptpSyncReceive port domain transport _ _ _ => isEth port && isDomain domain && isTransport transport
  | .ptpDelayRespReceive port domain _ _ _ => isEth port && isDomain domain
  | .ptpSyncTimeout => true
  | .ppsInEdge pin _ => isPin pin
  | .ppsOutPulse => true
  | .paceQuery via => viaOk via
  | .governorSet via => viaOk via
  | .timePtpSet via => viaOk via
  | .timeQuery via => viaOk via
  | .paceMinRead => true
  | .paceTimeLoRead => true
  | .paceTimeStatusRead => true
  | .batchBoundary valley => isValley valley
  | .boundaryAutoTimer valley => isValley valley
  | .epochRetainExpire set => isSet set
  | .bsnGroupModeSet via => viaOk via
  | .bsnWaysSet via => viaOk via
  | .bsnQuery via => viaOk via
  | .bsnFlush via => viaOk via
  | .bsnFlushDone valley => isValley valley
  | .basinWritebackDone group => isGroup group.1 && all isEcc group.2
  | .basinGroupZeroed group => isGroup group
  | .basinBucketFlip bucket => isBucket bucket
  | .memHostWindowSet via => viaOk via
  | .cxlSnoop addr kind store => isAddress addr && isSnoop kind && opt isLine store
  | .cxlMemRead addr _ => isAddress addr.1 && all isEcc addr.2
  | .cxlMemWrite addr data _ => isAddress addr && isLine data
  | .cxlBiResponse addr data => isAddress addr && opt isLine data
  | .memQuery via => viaOk via
  | .memChannelRetire via => viaOk via
  | .memHbmRepairSoft via => viaOk via
  | .memHbmRepairHard via => viaOk via
  | .memHbmRepairCancelHard via => viaOk via
  | .softRepairDone _ _ => true
  | .memoryRefreshTick _ unit _ => isPackage unit
  | .lpddrMr4Poll pkg _ _ => isPackage pkg
  | .patrolScrubStep _ => true
  | .eccCorrectionBurst _ channel lane _ => isPseudo channel && opt isLane lane
  | .tblSetCreate via => viaOk via
  | .tblSetDestroy via => viaOk via
  | .tblCreate via => viaOk via
  | .tblDestroy via => viaOk via
  | .tblQuery via => viaOk via
  | .tblRowmapLoad via => viaOk via
  | .creekBagDispatch creek => isCreek creek
  | .creekFetchComplete _ pos => all isEcc pos.2
  | .creekBagComplete _ _ => true
  | .remoteLookupRequest src tag _ => isNode src && isValley tag
  | .epochWaitExpire node _ => isNode node
  | .remoteLookupResponse src _ => isNode src
  | .remoteOperationTimeout _ => true
  | .hwtStreamOpen via => viaOk via
  | .hwtStreamClose via => viaOk via
  | .hwtStreamShutdownDone stream => isStream stream
  | .hwtRecordOverwrite set => isSet set
  | .hwtRecordAddDelta set => isSet set
  | .hwtRecordExport set => isSet set
  | .hwtRecordFence set => isSet set
  | .headwaterEngineFault engine set => isEngine engine && opt isSet set
  | .epochAdvance via => viaOk via
  | .epochSealStaged set => isSet set
  | .epochCatchupDone set => isSet set
  | .epochQuery via => viaOk via
  | .reflowStartPlan via => viaOk via
  | .reflowStartTrack via => viaOk via
  | .reflowStepCopied set => isSet set
  | .reflowResume via => viaOk via
  | .reflowAbandon via => viaOk via
  | .reflowQuery via => viaOk via
  | .plainChainStart glen => isGlen glen
  | .plainChainComplete _ _ errs => all isGlenErr errs
  | .checkedChainCompare _ _ => true
  | .weightLoadStart glen => isGlen glen.1 && all isEcc glen.2.1 && all isGlenErr glen.2.2
  | .weightLoadComplete _ => true
  | .threadLoadScratch _ off size dst _ => isAddress off.1 && isSize size && isReg dst && all isGlenErr off.2
  | .threadStoreScratch _ off size src _ => isAddress off && isSize size && isReg src
  | .threadLoadGlobal _ addr size dst _ => isAddress addr && isSize size && isReg dst
  | .globalLoadDataReturn t => all isEcc t.2
  | .threadStoreGlobal _ addr size src _ => isAddress addr && isSize size && isReg src
  | .threadIssue _ desc _ => isDesc desc
  | .issueQueueSpace _ => true
  | .syncRead _ _ dst _ => isReg dst
  | .syncAdd _ _ _ _ => true
  | .syncSet _ _ _ _ => true
  | .syncWaitGe _ _ _ us dst _ => isWord us && isReg dst
  | .syncAcquire _ _ n us dst _ => isCount n && isWord us && isReg dst
  | .syncWaitTimeout _ => true
  | .threadEnqueue _ record _ => isRecord record
  | .fenceLocal _ _ => true
  | .fenceGlobal _ _ => true
  | .fenceComplete _ => true
  | .threadExit _ => true
  | .threadArithmetic _ dst value _ => isReg dst && isWord64 value.1
  | .remoteSignalReceive src tag _ => isNode src && isValley tag
  | .remoteSignalAnswer node _ status => isNode node && isByte status
  | .remoteSignalTimeout _ => true
  | .synAddWrite obj _ _ => isObject obj
  | .synSetWrite obj _ _ => isObject obj
  | .synNotifyAtWrite obj _ _ => isObject obj
  | .synArmWrite obj _ => isObject obj
  | .syncNotifyPost q => isQueue q
  | .synValueRead obj => isObject obj.1
  | .synStatusRead obj => isObject obj
  | .sqCreate via => viaOk via
  | .sqDestroy via => viaOk via
  | .cqCreate via => viaOk via
  | .cqDestroy via => viaOk via
  | .handleTableSet via => viaOk via
  | .queueQuery via => viaOk via
  | .cfeSqDoorbellWrite q _ => isQueue q
  | .cfeCqHeadWrite q _ => isQueue q
  | .cfeCqArmWrite q _ => isQueue q
  | .cqCoalesceTimer q => isQueue q
  | .cqEntryPost q => isQueue q
  | .launch sq => isQueue sq
  | .boundary sq => isQueue sq
  | .signal sq => isQueue sq
  | .nop sq => isQueue sq
  | .invalidCommand sq => isQueue sq
  | .graphStore via => viaOk via
  | .graphPatchStructural via => viaOk via
  | .graphPatchIndirect via => viaOk via
  | .graphPatchSetEntry via => viaOk via
  | .graphPatchActivate via => viaOk via
  | .graphPatchDiscard via => viaOk via
  | .graphRetire via => viaOk via
  | .valleyStart via => viaOk via
  | .valleyStop via => viaOk via
  | .valleyStopDone valley => isValley valley
  | .valleyStopLimitExpire valley => isValley valley
  | .valleyQuery via => viaOk via
  | .valleyProfileSet via => viaOk via
  | .narrowsSet via => viaOk via
  | .ctxCreate via => viaOk via
  | .ctxDestroy via => viaOk via
  | .ctxQuery via => viaOk via
  | .schedulerTick valley time => isValley valley && opt isStateErr time.2
  | .contextSaveDone valley ctx _ => isValley valley && isContext ctx
  | .contextRestoreDone valley ctx _ => isValley valley && isContext ctx
  | .passLinkEnable via => viaOk via
  | .passLinkDisable via => viaOk via
  | .passDisableDrained port => isPass port
  | .passLinkQuery via => viaOk via
  | .passScheduleSet via => viaOk via
  | .passRouteSet via => viaOk via
  | .passKeySet via => viaOk via
  | .passBackoffExpire port => isPass port
  | .passTrainLock port failed => isPass port && all isLaneNo failed
  | .passTrainTimeout port => isPass port
  | .passAlignLock port _ => isPass port
  | .passLinkInitReceive port _ => isPass port
  | .passEchoReceive port _ _ => isPass port
  | .passEchoAnsReceive port _ _ => isPass port
  | .passEchoTimer port => isPass port
  | .passFrameReceive port _ _ _ failed lane => isPass port && all isBlock failed && opt isLane lane.1 && opt isFlit lane.2
  | .passMarkerLoss port => isPass port
  | .passFrameTransmit port _ _ _ => isPass port
  | .passReplayTimer port => isPass port
  | .passRoundTick => true
  | .passScheduleBoundary => true
  | .passRouteEffective => true
  | .passPacketForward port dest src tag cls hops kind _ _ =>
    isPass port && isNode dest && isNode src && isValley tag && isClass cls && isByte hops && isByte kind
  | .passPacketHoldTimeout port => isPass port
  | .passReadRequest src tag _ => isNode src && isValley tag
  | .passWriteRequest src tag _ _ => isNode src && isValley tag
  | .passPushRequest src tag _ => isNode src && isValley tag
  | .passAnswerReceive src kind _ _ => isNode src && isByte kind
  | .requestDatagramReceive endpoint addr port _ => isEndpoint endpoint && isAddr addr && isUdp port
  | .datagramResponseSend endpoint => isEndpoint endpoint
  | .updateDatagramReceive endpoint addr port _ => isEndpoint endpoint && isAddr addr && isUdp port
  | .mgmtDatagramReceive eth addr port _ => isEth eth && isAddr addr && isUdp port
  | .ethControlPacket port kind target _ => isEth port && isByte kind && isAddr target
  | .roceCnpReceive endpoint => opt isEndpoint endpoint
  | .roceRateRecover endpoint => opt isEndpoint endpoint
  | .poolRdmaCompletion _ => true
  | .poolQpError => true
  | .ethPortDown port => isEth port
  | .ethPortUp port => isEth port
  | .hostLinkDlDown => true
  | .hostLinkUp _ _ _ _ => true
  | .msixVectorUnmask vector => isVector vector
  | .pcieDStateChange _ => true
  | .netPortSet via => viaOk via
  | .netEndpointCreate via => viaOk via
  | .netEndpointDestroy via => viaOk via
  | .hostLinkQuery via => viaOk via
  | .poolNodeSet via => viaOk via
  | .fordPersonalitySet via => viaOk via
  | .fordRingCreate via => viaOk via
  | .fordRingDestroy via => viaOk via
  | .fordShardSet via => viaOk via
  | .fordQuery via => viaOk via
  | .fordLookup sq => isQueue sq
  | .fordVecSend sq => isQueue sq
  | .fordVecRecv sq => isQueue sq
  | .fordRowPut sq => isQueue sq
  | .fordRowGet sq => isQueue sq
  | .fordRingPoll ring => isRing ring
  | .fordInLookup ring _ => isRing ring
  | .fordInRowGet ring _ => isRing ring
  | .fordInVec ring => isRing ring
  | .fordInRowPut ring => isRing ring
  | .fordInAnswer ring _ => isRing ring
  | .fordExchangeTimeout ring _ => isRing ring
  | .cynCtxEnable via => viaOk via
  | .cynCtxDisable via => viaOk via
  | .cynCtxShutdownDone ctx => isCyn ctx
  | .cynKeyLoad via => viaOk via
  | .cynTriplesLoad via => viaOk via
  | .cynQuery via => viaOk via
  | .cynLinear sq => isQueue sq
  | .cynMul sq => isQueue sq
  | .cynRelin sq => isQueue sq
  | .cynRescale sq => isQueue sq
  | .cynScore sq => isQueue sq
  | .cynSsLinear sq => isQueue sq
  | .cynSsMask sq => isQueue sq
  | .cynSsCombine sq => isQueue sq
  | .cynOperationStart valley => isValley valley.1
  | .cynOperationComplete pipe _ => isPipe pipe
  | .faultRecordWrite commit => all isRecordLoss commit.2
  | .targetedTestStart unit => unitOk unit
  | .targetedTestDone unit _ => unitOk unit
  | .probationDone unit _ => unitOk unit
  | .testWindowOpen => true
  | .testWindowClose => true
  | .packTestComplete unit _ _ _ => unitOk unit
  | .fltRingConsWrite _ => true
  | .fltRecordRead via => viaOk via
  | .fltRecordRelease via => viaOk via
  | .fltCheckedSet via => viaOk via
  | .fltSelftestRun via => viaOk via
  | .fltUnitReadmit via => viaOk via
  | .fltPackLoad via => viaOk via
  | .fltWindowSet via => viaOk via
  | .fltCperRead via => viaOk via
  | .secLifecycleSet via => viaOk via
  | .lifecycleReturnDone => true
  | .secOtpRead via => viaOk via
  | .secOtpProgram via => viaOk via
  | .otpProgramDone _ => true
  | .secFwUpdateBegin via => viaOk via
  | .secFwUpdateChunk via => viaOk via
  | .secFwUpdateCommit via => viaOk via
  | .flashCommitDone => true
  | .fwUpdateSessionTimeout => true
  | .secAccessSet via => viaOk via
  | .spdmGetVersion => true
  | .spdmGetCapabilities => true
  | .spdmNegotiateAlgorithms => true
  | .spdmGetDigests => true
  | .spdmGetCertificate => true
  | .spdmChallenge => true
  | .spdmGetMeasurements => true
  | .pwrStateSet via => viaOk via
  | .pwrQuery via => viaOk via
  | .pwrLimitSet via => viaOk via
  | .powerWindow _ _ => true
  | .throttleInAssert => true
  | .throttleInRelease => true
  | .glenGate glen => isGlen glen
  | .thermalSupplyFault => true
  | .vcoreDeviation => true
  | .standbyWritebackDone => true
  | .standbySelfRefreshDone => true
  | .standbyEntryDone => true
  | .standbyWakeVcore => true
  | .standbyWakeMemoryDone => true
  | .standbyWakeDone => true
  | .dbgUnlock via => viaOk via
  | .dbgLock via => viaOk via
  | .dbgTelemetryRead via => viaOk via
  | .debugDurationExpire => true
  | .traceTick => true
  | .tapBypass => true
  | .tapIdcode => true
  | .tapSamplePreload _ => true
  | .tapExtest _ => true
  | .tapClamp => true
  | .tapHighz => true
  | .dapCoreHalt pair => isPair pair
  | .dapCoreResume pair => isPair pair
  | .dapMemoryAccess addr _ _ => isWord addr
  | .gpioOutLatchWrite _ => true
  | .gpioOutSetWrite _ => true
  | .gpioOutClrWrite _ => true
  | .gpioPadEdge pin _ => isPin pin
  | .triggerInEdge pin _ _ => isPin pin
  | .gpioTrigTimeLoRead => true
  | .ledBlinkTimer _ => true
  | .brdGpioSet via => viaOk via
  | .brdGpioQuery via => viaOk via
  | .brdSensorRead via => viaOk via
  | .brdSmbSet via => viaOk via
  | .smbDevId => true
  | .smbDevCaps => true
  | .smbStatus => true
  | .smbReset kind confirm _ => isByte kind && isByte confirm
  | .smbMctp source _ _ => isByte source
  | .mctpArbitrationLost => true
  | .smbMbxWrite flags _ _ => isByte flags
  | .smbMbxRead => true
  | .smbMbxAdvance seq _ => isByte seq
  | .smbAlertResponse => true
  | .smbBusTimeout => true
  | .smbErrorsRead => true
  | .registerWrite offset _ => isBar0 offset
  | .passAlignTimeout port => isPass port
  | .channelPowerDown _ channel => isPseudo channel
  | .queuePairError endpoint => isEndpoint endpoint

end Sys2Proof
end

