-- ==== Sys2Proof/Tests/Slice0.lean ====
section
/-! SUPPORT. Tests: what the checks of WellFormed refuse; for each statement of the obligations, a state and operands that
meet its hypotheses together, clause by clause; and effects worked out by hand from the rules named. -/
namespace Sys2Proof.Tests
open Sys2Proof Sys2Proof.Machine

/- One test after another: each is evaluated by the kernel, and all at once they would each hold a thread. -/
set_option Elab.async false

/-! ## Builders -/

/-- A device in coherent mode that serves. -/
def ready : State := { State.reset with
  dev := { State.reset.dev with st := .ready, everReady := true }
  link := { State.reset.link with standalone := false, up := true, cxlActive := true, cxlEnabled := true } }

/-- The same in another state of the device, and as a standalone module. -/
def inSt (st : DevState) (s : State := ready) : State := { s with dev := { s.dev with st } }
def alone : State := { ready with link := { ready.link with standalone := true } }

/-- `n` bytes, zero but for fields given as offset, size and value. -/
def pl (n : Nat) (l : List (Nat × Nat × Nat)) : Bytes :=
  l.foldl (fun p f => p.take f.1 ++ leBytes f.2.1 f.2.2 ++ p.drop (f.1 + f.2.1)) (zeros n)

/-- Request `m` with a payload on mailbox `n`, and a state in which it waits there. -/
def rq (m : Msg) (n : Nat) (p : Bytes) : Req := { via := ⟨n, .bar0⟩, op := m.op, tag := 1, len := p.length, ver := 1, pay := p }
def ask (r : Req) (s : State) : State := { s with
  mbx := put s.mbx r.via.mbx { s.box r.via.mbx with doorbell := (s.box r.via.mbx).reqCons + 1 }
  ram := wrN s.ram (reqSlot r.via.mbx (s.box r.via.mbx))
    (leBytes 2 r.op ++ leBytes 2 r.tag ++ leBytes 2 r.len ++ leBytes 1 r.ver ++ zeros 9 ++ r.pay) }

/-- The request is accepted: `Accepted`, as a value that can be computed. -/
def okB (m : Msg) (r : Req) (s : State) : Bool :=
  (s.nextRaw r.via).map (parseReq r.via) = some r && r.op = m.op && m.check r (s.consume r.via) = none &&
  s.sec.returning = none && decide (((s.consume r.via).box r.via.mbx).deferred.length < 8)

theorem accepted_of_okB {m : Msg} {r : Req} {s : State} (h : okB m r s = true) : Accepted m r s := by
  simp only [okB, Bool.and_eq_true, decide_eq_true_eq] at h
  exact ⟨h.1.1.1.1, h.1.1.1.2, h.1.1.2, h.1.2, h.2⟩

/-- A request of this form waits in the state built from `s`, is accepted there, and the rest holds. -/
def W (m : Msg) (n : Nat) (p : Bytes) (s : State) (rest : Req → State → Bool := fun _ _ => true) : Bool :=
  let r := rq m n p
  let t := ask r s
  okB m r t && rest r t

/-! ## Hypotheses that can be met -/

theorem wit_MailboxIndexWrites : [
    ready.bar0,
    decide (8 < 9),
    decide ((ready.setBox 8 { rspIdxErr := true, ntfIdxErr := true }).box 8
    = { rspIdxErr := true, ntfIdxErr := true })].all id = true := by decide +kernel

theorem wit_RequestsWithoutAMessage : [
    (let s := ask (rq devPing 8 []) ready; (s.nextRaw ⟨8, .bar0⟩).isSome),
    (let r : Req := { rq devPing 0 [] with op := 0x0085 }; let s := ask r ready
      (s.nextRaw r.via).map (parseReq r.via) = some r && !(requestOpcodes.contains r.op) && decide (0x0084 < r.op)),
    (let r : Req := { rq devPing 0 [] with op := 0x0081 }; let s := ask r ready
      (s.nextRaw r.via).map (parseReq r.via) = some r && decide (r.pay.length = r.len))].all id = true := by decide +kernel

theorem wit_DeviceQueries : [
    W devIdentify 8 [] ready,
    W devPing 0 (zeros 4) ready,
    W configRead 8 (pl 8 [(0, 4, 7), (4, 4, 1)]) { ready with dev := { ready.dev with lastGen := 7, acceptedImage := zeros 449 } }
      (fun r s => u32 r.pay 0 = s.dev.lastGen && 448 * u32 r.pay 4 < s.dev.acceptedImage.length),
    W devStatus 3 [] ready].all id = true := by decide +kernel

def await : State := inSt .awaitConfig
/-- An image of one chunk, staged by the host but for its chunk; and staged whole. -/
def opened : Staging := { xport := .bar0, generation := 1, length := 4, count := 1, crc := crc32c (zeros 4), idleFrom := 0 }
def staged : Staging := { opened with chunks := [(0, zeros 4)] }
/-- The smallest image: node 5 and one valley (R91, R92). -/
def image : Bytes := pl 60 [(0, 4, 0x4746434F), (4, 2, 1), (6, 2, 2), (8, 4, 1), (16, 2, 1), (18, 2, 4), (20, 2, 5),
  (24, 2, 0x0101), (26, 2, 32), (30, 1, 84), (32, 4, 1), (36, 2, 1), (44, 4, 64), (48, 1, 1), (49, 1, 1)]
def checking (b : Bytes) : State := { inSt .configCheck with
  dev := { (inSt .configCheck).dev with memTrained := true, commit := some { image := b, generation := 1, done := none } } }

theorem wit_Configuration : [
    W configBegin 8 (pl 16 [(0, 4, 1), (4, 4, 452), (8, 4, 2)]) await (fun r s => decide (s.dev.lastGen < u32 r.pay 0) &&
      s.dev.staging.isNone && u32 r.pay 8 = ceilDiv (u32 r.pay 4) 448),
    W configChunk 8 (pl 20 [(0, 4, 1), (8, 2, 4), (12, 4, (crc32c (zeros 4)).toNat)]) (await.setStaging (some opened)) (fun r s =>
      s.dev.staging = some opened && opened.generation = u32 r.pay 0 && u32 r.pay 4 < opened.count &&
      u16 r.pay 8 = opened.chunkLen (u32 r.pay 4) && (crc32c (r.pay.drop 16)).toNat = u32 r.pay 12),
    W configCommit 8 (pl 8 [(0, 4, 1), (4, 4, (crc32c (zeros 4)).toNat)]) (await.setStaging (some staged)) (fun r s =>
      s.dev.staging = some staged && staged.generation = u32 r.pay 0 && staged.fails (u32 r.pay 4) = none),
    W configCommit 8 (pl 8 [(0, 4, 1)]) (await.setStaging (some opened)) (fun r s =>
      s.dev.staging = some opened && opened.generation = u32 r.pay 0 && (opened.fails (u32 r.pay 4)).isSome),
    W configAbort 8 (pl 4 [(0, 4, 1)]) (await.setStaging (some opened)) (fun r _ => opened.generation = u32 r.pay 0),
    ((checking image).checkImage image 1).toOption.isSome, ((checking []).checkImage [] 1).toOption.isNone].all id = true := by decide +kernel

/-- A device that a cold reset holds; the same released but for its last source. -/
def held : State := State.reset
def released : State := { State.reset with rst := { State.reset.rst with pwrok := true, resetN := true, perstN := true, off := false, internal := none } }

theorem wit_Resets : [
    decide (¬ (ready.dev.st = .reset ∧ ready.rst.cold)),
    { ready with rst := { ready.rst with pwrok := true } }.rst.pwrok,
    released.rst.resetN,
    !released.rst.off,
    ({ released with rst := { released.rst with first := false } }).rst.perstN,
    alone.link.standalone,
    ready.link.up,
    ready.fwRun,
    !(({ ready with rst := released.rst }).pecFails true .good),
    W devReset 8 (pl 8 [(0, 1, 1), (4, 4, 0xC0DA)]) ready (fun _ s => s.dev.resetPending.isNone),
    ({ ready with dev := { ready.dev with resetPending := some 2 } }).dev.resetPending = some 2,
    { held with rst := { held.rst with resetN := true, off := true } }.rst.off && ({ ready with dev := { ready.dev with resetPending := some 1 } }).dev.resetPending = some 1,
    released.rst.resetN && released.rst.perstN && !released.rst.off && released.rst.first].all id = true := by decide +kernel

theorem wit_ReleaseOfReset : [
    !released.heldInReset,
    released.dev.st = .reset,
    held.heldInReset,
    ({ State.reset with rst := { State.reset.rst with internal := some true, cold := true } }).rst.internal.isSome,
    (let s : State := { ready with rst := { released.rst with strapsDue := true, first := false } }
     s.rst.strapsDue && decide (s.dev.st ≠ .reset) && !s.rst.first),
    (let s : State := { State.reset with rst := { State.reset.rst with internal := some false, cold := false } }; s.rst.internal.isSome && !s.rst.cold),
    released.flt.staged = [] && !released.rst.fused && { ready with fuse := { ready.fuse with caps := 0 } }.hasCxl = false].all id = true := by decide +kernel

/-- A deferred operation of the DM mailbox. -/
def dfd : Deferred := (rq devDrain 8 []).deferred
def draining (d : Drain) : State := { inSt .draining with dev := { (inSt .draining).dev with drain := some d } }
def waking (w : Wake) : State := { inSt .standby with pwr := { (inSt .standby).pwr with wake := some w } }

/-- What FW_LOAD takes: any image in the directory whose format, key and signature are good. -/
theorem wit_FwLoad (e : FlashImage) (h : (inSt .fwLoad).fwValid e.bytes = true) (k : e.crcOk = true) :
    let s : State := { inSt .fwLoad with sec := { (inSt .fwLoad).sec with flash := [(1, e)] } }
    (s.fwEntries.find? fun x => s.fwValid x.2.bytes) = some (1, e) := by
  have h' : ({ inSt .fwLoad with sec := { (inSt .fwLoad).sec with flash := [(1, e)] } } : State).fwValid e.bytes = true := h
  simp [State.fwEntries, k, h']

theorem wit_BringUp : [
    (let s := inSt .selftest; s.dev.st = .selftest && !s.rst.strapsDue && !allGroupsFail [] && allGroupsFail ((List.range 64).map fun i => ⟨3, i⟩)),
    (inSt .fwLoad).fwEntries = [],
    ({ ready with ext := { ready.ext with training := true } }).ext.training,
    ready.firmwareRuns, decide (ready.dev.st ≠ .reset),
    (inSt .fwLoad).dev.st = .fwLoad && !(inSt .fwLoad).link.standalone && !(inSt .selftest).rst.strapsDue].all id = true := by decide +kernel

theorem wit_DrainingAndStandby : [
    W devDrain 8 (pl 8 [(0, 1, 1)]) ready (fun r s => u8 r.pay 0 = 1 && !s.link.decoder && s.tap.halted = []),
    (let s := draining { standby := true, done := dfd, deadline := some 0 }; s.dev.st = .draining && s.core.reqs = []),
    (let s := draining { standby := false, done := dfd, deadline := none }; s.core.reqs = [] && !s.link.standalone),
    (let s := draining { standby := true, done := dfd, deadline := none, phase := 3 }; s.dev.st = .draining && s.dev.drain.isSome),
    (let s := waking { target := .active, done := dfd, start := 0, phase := 2 }; s.dev.st = .standby && s.pwr.wake.isSome)
    ,
    (draining { standby := true, done := dfd, deadline := none }).core.reqs = [] && W devDrain 8 (pl 8 []) ready (fun r _ => u8 r.pay 0 = 0),
    [1, 2].all (fun p => (draining { standby := true, done := dfd, deadline := none, phase := p }).dev.drain.any (·.phase = p)),
    [0, 1].all (fun p => (waking { target := .active, done := dfd, start := 0, phase := p }).pwr.wake.any (·.phase = p))].all id = true := by decide +kernel

theorem wit_Governor : [
    ({ ready with pace := { ready.pace with lowerDue := true } }).governed && !ready.pwr.holdTarget,
    (let s := ready.setPaceValley 7 { ownDue := true, releaseDue := true }; (s.paceValley 7).ownDue && !(s.paceValley 7).own && (s.paceValley 7).releaseDue),
    (let s : State := { ready with pace := { ready.pace with raw := [(31, 1023)] } }
     s.hasGlen 31 && !s.pace.faulty.contains 31 && lookD s.pace.raw 31 512 = 1023),
    ({ ready with pace := { ready.pace with lowDue := true } }).pace.lowDue && !ready.pace.low,
    (let s : State := { ready with pace := { ready.pace with clearDue := true, low := true } }; s.pace.clearDue && s.pace.low)
    ,
    [32, 33].all (fun i => (let s : State := { ready with pace := { ready.pace with devRun := [(32, 16)], raw := [(33, 0)] } }
     i ∉ s.pace.faulty && (lookD s.pace.raw i 512 = 0 || decide (16 ≤ lookD s.pace.devRun i 0)))),
    !ready.pace.low && (List.range 8).all fun u => !(ready.paceValley u).holdsLower].all id = true := by decide +kernel

/-- With a pin that takes PPS. -/
def pps : State := { ready with gpio := { ready.gpio with map := [(5, { func := 3 })] } }

theorem wit_PaceMessages : [
    W governorSet 8 (pl 72 ([(0, 2, 700), (2, 2, 850), (4, 1, 5), (6, 1, 16)] ++ (List.range 8).flatMap fun v =>
      [(10 + 8 * v, 2, 767), (12 + 8 * v, 2, 1), (14 + 8 * v, 2, 1)])) ready,
    W timePtpSet 8 (pl 24 [(4, 4, 1), (8, 2, 1)]) ready (fun r _ => u8 r.pay 0 ≠ 3),
    W paceQuery 7 [] ready, W timeQuery 0 [] ready, ready.bar0,
    W timePtpSet 8 (pl 24 [(0, 1, 3), (4, 4, 1), (8, 2, 1)]) pps (fun r s => u8 r.pay 0 = 3 && s.pinsOf 3 ≠ [])].all id = true := by decide +kernel

/-- A clock that disciplines its time by PTP on port 0, and its master. -/
def ptp : State := { ready with
  time := { ready.time with cfg := { mode := 1 }, sync := 2, lastSync := some (0, 0) }, eth := [(0, { ready.ethPort 0 with up := true })] }

theorem wit_TimeDiscipline : [
    ptp.ptpFor 0 0 0 && ptp.time.master.isNone && ptp.time.lastSync.isSome && !ptp.time.refLost && ptp.time.sync = 2,
    (let s : State := { ready with time := { ready.time with cfg := { mode := 3 }, ppsNext := some 1 }, gpio := { ready.gpio with map := [(5, { func := 3 })] } }
     s.pinsOf 3 = [5] && s.time.ppsNext = some 1),
    decide (ready.dev.st ≠ .reset) && ready.fwRun && !ready.time.refLost,
    ({ ready with time := { ready.time with refLost := true } }).time.refLost, ready.dev.everReady,
    (let s : State := { ptp with time := { ptp.time with delayReq := true, lastSync := some (5, 9), master := some { priority1 := 0, clockClass := 0, accuracy := 0, variance := 0, priority2 := 0, identity := 7, stepsRemoved := 0, sender := 3 } } }
     s.ptpFor 0 0 s.time.cfg.transport && s.time.delayReq && s.time.lastSync = some (5, 9) && s.time.master.any (·.sender = 3)),
    ({ ptp with time := { ptp.time with settled := true } } : State).time.settled].all id = true := by decide +kernel

theorem wit_PinsAndBoard : [
    ready.bar0,
    (let s : State := { ready with gpio := { ready.gpio with map := [(31, { func := 8 })] } }; s.pinsOf 8 = [31] && s.fwRun),
    W brdGpioSet 8 (pl 12 [(4, 4, 1), (8, 4, 1)]) ready, W brdGpioQuery 8 [] ready, W brdSensorRead 8 [] ready,
    W brdSmbSet 8 (pl 8 []) ready,
    decide (31 < 32) && ready.dev.st ≠ .reset].all id = true := by decide +kernel

def item : SmbItem := { isNtf := false, bytes := zeros 254 }
def onBus (l : List SmbItem) : State := { ready with smb := { ready.smb with items := l, alert := true } }

theorem wit_TwoWireBus : [
    ready.smbLive && !State.reset.smbLive && ready.fwRun && ready.bar0 && !ready.smb.timeoutDis,
    (let s : State := { onBus [] with gpio := { ready.gpio with map := [(9, { func := 10 })] } }; s.smb.alert && s.pinsOf 10 = [9]),
    !ready.pecFails false .good && ready.pecFails false .bad && (zeros 512).length = 512,
    (let s := onBus [item]; s.smb.seq.toNat = 0 && s.smb.pos + 253 < item.bytes.length),
    (let s := onBus [{ item with bytes := zeros 253 }]; decide ((zeros 253).length ≤ s.smb.pos + 253)),
    (let s : State := { ready with smb := { ready.smb with mctpOut := [(0, .errorBusy)], mctpLosses := 7 } }; s.smb.mctpLosses = 7)
    ].all id = true := by decide +kernel

def debugging : State := { ready with pwr := { ready.pwr with dbgLevel := 2 }, tap := { ready.tap with halted := [1] } }

theorem wit_DebugPort : [
    ready.tapOpen, (let s : State := { ready with sec := { ready.sec with life := { provisioned := true, deployed := true } } }; !s.tapOpen),
    decide (2 ≤ debugging.pwr.dbgLevel) && !debugging.tap.halted.contains 0 && debugging.tap.halted.contains 1,
    rangeAll debugging.populated hbmBase 4 && !debugging.poisoned hbmBase 4 && decide (ready.pwr.dbgLevel < 2),
    W dbgUnlock 8 (pl 136 [(0, 1, 1), (4, 4, 604800)]) ready,
    W dbgUnlock 8 (pl 136 [(0, 1, 2)]) { ready with sec := { ready.sec with life := { provisioned := true, deployed := true } } }
      (fun r s => s.tokenKey (u8 r.pay 0) = some none && (((s.consume r.via).authorise r 8 none).2).isSome),
    W dbgLock 8 (pl 4 []) debugging, ({ ready with pwr := { ready.pwr with dbgDeadline := some 1 } }).pwr.dbgDeadline.isSome,
    W dbgTelemetryRead 8 (pl 16 [(0, 1, 1), (12, 4, 4)]) ready (fun r s => s.pwr.dbgLevel < selectLevel (u8 r.pay 0)),
    W dbgTelemetryRead 8 (pl 16 [(12, 4, 448)]) debugging (fun _ s => 1 ≤ s.pwr.dbgLevel),
    W dbgTelemetryRead 8 (pl 16 [(0, 1, 1), (12, 4, 448)]) debugging (fun r _ => u8 r.pay 0 = 1),
    W dbgTelemetryRead 8 (pl 16 [(0, 1, 2), (4, 8, hbmBase), (12, 4, 448)]) debugging (fun r s =>
      u8 r.pay 0 = 2 && rangeAll s.populated (u64 r.pay 4) (u32 r.pay 12) && !s.poisoned (u64 r.pay 4) (u32 r.pay 12)),
    W dbgTelemetryRead 8 (pl 16 [(0, 1, 3), (12, 4, 4)]) { ready with pwr := { ready.pwr with dbgLevel := 3 } } (fun r s => u8 r.pay 0 = 3 && decide (3 ≤ s.pwr.dbgLevel))].all id = true := by decide +kernel

/-- A valley that runs, with one glen, one HBM region and sync objects. -/
def prof : Profile := { glens := 1, hbmRegions := 1, lpdRegions := 1, cynPipes := 1, syncFirst := 0, syncCount := 64, ctxMax := 4, hwtShare := 1 }
def running : State := { ready with valleys := [(0, { profile := some prof, st := .running })] }
def withGroup (g : Nat) (x : Group) : State := { running with basin := { running.basin with groups := put running.basin.groups g x } }
def change : GroupChange := { toScratch := false, owner := none, waiting := [0], done := dfd }

/-- Group 0 leaves CACHE mode. -/
def leaving : State := withGroup 0 { change := some { change with toScratch := true, phase := 1 } }

theorem wit_Basin : [
    W bsnGroupModeSet 8 (pl 4 [(0, 1, 15), (2, 1, 255)]) (withGroup 15 { scratch := true, owner := some 0 }) (fun r s =>
      let g := s.group (u8 r.pay 0); !g.retired && g.change = none && g.scratch && g.owner = some 0 && s.groupHeld (u8 r.pay 0) = none),
    W bsnWaysSet 8 (pl 20 [(0, 1, 0), (4, 2, 1)]) running (fun r s =>
      (s.group (u8 r.pay 0)).change = none && !(s.group (u8 r.pay 0)).scratch && !s.waysMixed (waysOf r.pay 4)),
    (let s := withGroup 0 { change := some { change with phase := 2 } }; (s.group 0).change.isSome && s.unreachable [] = []),
    (let s := withGroup 0 { change := some { change with phase := 2, toScratch := true } }; !(s.group 0).scratch),
    (let s : State := { ready with basin := { ready.basin with bucket := [(255, 0)], moving := [(255, 1)] } }
     look s.basin.moving 255 = some 1 && look s.basin.bucket 255 = some 0 && s.cacheGroups ≠ []),
    W bsnFlush 0 (pl 24 [(0, 8, hbmBase), (8, 8, 256)]) running (fun r s => look s.basin.flushes r.via.mbx = none),
    W bsnQuery 8 [] ready,
    W memHostWindowSet 8 (pl 20 [(8, 8, 2 ^ 28)]) running (fun r s => s.link.cxlActive && u64 r.pay 8 ≠ 0 &&
      s.inTier (u8 r.pay 16) 2 (hbmBase + u64 r.pay 0) (u64 r.pay 8) && !s.link.decoder),
    W bsnGroupModeSet 8 (pl 4 [(0, 1, 0), (2, 1, 255)]) running (fun r s => let g := s.group (u8 r.pay 0); !g.scratch && g.owner = none && g.change = none),
    W bsnGroupModeSet 8 (pl 4 [(0, 1, 0), (1, 1, 1), (2, 1, 0)]) running (fun r s => let g := s.group (u8 r.pay 0); !g.scratch && g.change = none && g.holders = []),
    W bsnWaysSet 8 (pl 20 []) running (fun r s => (s.group (u8 r.pay 0)).change = none && ((waysOf r.pay 4).filter fun e => lookD (s.group (u8 r.pay 0)).ways e.1 0 ≠ e.2) = []),
    (let s := leaving; (s.group 0).change.any (fun c => c.toScratch && c.phase = 1 && c.ways = []) && !(s.group 0).scratch && s.unreachable (s.groupLines 0) = []),
    (let s := { leaving with basin := { leaving.basin with lines := [(0x3FFFFFFFFFFF, { group := 0, set := 0, way := 0, valley := 0, stamp := 0, dirty := true })] } }
     s.unreachable (s.groupLines 0) ≠ []),
    (let s := withGroup 0 { scratch := true, owner := some 0, change := some { change with phase := 1 } }; (s.group 0).scratch && (s.group 0).change.any (·.phase = 1)),
    (let s := withGroup 0 { change := some { change with phase := 2 } }
     let s := { s with basin := { s.basin with moving := [(lineBucket 0x3FFFFFFFFFFF, 0)], lines := [(0x3FFFFFFFFFFF, { group := 1, set := 0, way := 0, valley := 0, stamp := 0, dirty := true })] } }
     s.unreachable ((s.basin.lines.filter fun l => (look s.basin.moving (lineBucket l.1)) = some 0).map (·.1)) ≠ []),
    look ({ running with basin := { running.basin with flushes := [(0, { base := hbmBase, length := 256, invalidate := true, done := dfd })] } } : State).basin.flushes 0
      = some { base := hbmBase, length := 256, invalidate := true, done := dfd },
    W memHostWindowSet 8 (pl 20 []) running (fun r s => u64 r.pay 8 = 0 && !s.link.decoder)].all id = true := by decide +kernel

def windowed : State := { ready with basin := { ready.basin with winSize := 2 ^ 20, biPending := [hbmBase / 64] } }

theorem wit_HostAccess : [
    ready.cxlServes && inHost hostBase && look ready.basin.lines (hostBase / 256) = none,
    windowed.cxlServes && windowed.inWindow (hbmBase + 2 ^ 20 - 1), windowed.basin.biPending.contains (hbmBase / 64)
    ,
    (let s : State := { ready with basin := { ready.basin with lines := [(hostBase / 256, { group := 0, set := 0, way := 0, valley := 0, stamp := 0, sectors := [.modified] })] } }
     s.cxlServes && (look s.basin.lines (hostBase / 256)).any fun l => l.sectors.getD (hostBase / 64 % 4) .invalid = .modified),
    windowed.basin.hostReads = [] && decide (windowed.basin.tracker.length < trackerSize) && !windowed.inWindow (hbmBase + 2 ^ 20),
    ({ windowed with basin := { windowed.basin with hostReads := [(hbmBase / 64, true)] } } : State).basin.hostReads ≠ [],
    (let s : State := { windowed with basin := { windowed.basin with hostReads := [(hbmBase / 64 + 1, true)] } }
     let w := ({ s with basin := { s.basin with biPending := s.basin.biPending.erase (hbmBase / 64), tracker := s.basin.tracker.filter fun e => e.line ≠ hbmBase / 64 } } : State).releaseWrites.releaseSyncs
     w.basin.hostReads = [(hbmBase / 64 + 1, true)] && decide (w.basin.tracker.length < trackerSize)),
    windowed.releaseWrites.releaseSyncs.basin.hostReads = []].all id = true := by decide +kernel

/-- Row 0 of bank 0 repaired softly, and promised for a hard repair. -/
def promised : State := { ready with ext := { ready.ext with soft := [(0, 0, 0, 0)], hstacks := [(0, { hardPending := [(0, 0, 0)] })] } }

theorem wit_ExternalMemory : [
    W memQuery 8 [] ready,
    W memChannelRetire 8 (pl 4 [(1, 1, 127), (2, 1, 1)]) running (fun r s => !s.ext.hbmGone.contains (u8 r.pay 1 % 16) && s.ext.retires = []),
    W (repairMsg softRun) 8 (pl 12 [(0, 1, 3)]) ready (fun r s => !(repairAt r.pay).gone s && (repairAt r.pay).softRow s = none),
    W (repairMsg hardRun) 8 (pl 12 [(3, 1, 1)]) ready (fun r s => !(repairAt r.pay).gone s && !(repairAt r.pay).pending s),
    W (repairMsg cancelHardRun) 8 (pl 12 [(3, 1, 2)]) ready (fun r s => !(repairAt r.pay).gone s),
    (let s : State := { ready with ext := { ready.ext with softBusy := some { stack := 0, pc := 0, bank := 0, row := 0, done := dfd } } }; s.ext.softBusy.isSome),
    ({ ready with dev := { ready.dev with memTrained := true } }).memoryOn && ready.hasLpd,
    W memChannelRetire 8 (pl 4 [(1, 1, 3)]) { running with ext := { running.ext with hbmGone := [3] } } (fun r s => s.ext.hbmGone.contains (u8 r.pay 1 % 16)),
    W memChannelRetire 8 (pl 4 [(0, 1, 1), (1, 1, 31)]) running (fun r s => !s.ext.lpdGone.contains (u8 r.pay 1 % 8) && s.ext.retires = [] && !s.regionInUse true (u8 r.pay 1 % 8)),
    W (repairMsg softRun) 8 (pl 12 []) promised (fun r s => (repairAt r.pay).pending s && (repairAt r.pay).softRow s ≠ none),
    W (repairMsg hardRun) 8 (pl 12 [(3, 1, 1)]) promised (fun r s => (repairAt r.pay).pending s),
    W (repairMsg hardRun) 8 (pl 12 [(3, 1, 1)]) { promised with ext := { promised.ext with hstacks := [] } } (fun r s => !(repairAt r.pay).pending s && (repairAt r.pay).softRow s ≠ none && decide ((s.stack 0).hardPending.length < 2)),
    (let s : State := { ready with dev := { ready.dev with memTrained := true }, pwr := { ready.pwr with st := .dormant } }
     s.memoryOn && s.pwr.st = .dormant && s.hasStack 3 && s.hasPkg 7 && s.hasLpdCh 31 && s.ext.poweredDown = [] && s.ext.scrubHours ≠ 0 && s.populated (scrubAt s.ext.scrubPos) && s.ext.softBusy = none),
    (let s : State := { ready with pwr := { ready.pwr with st := .dormant } }; s.governed && s.hasGlen 31 && s.core.threads = [] && s.core.bags = [] && s.core.plain = [])].all id = true := by decide +kernel

/-- Where the stack has a hard repair resource left, a hard repair is accepted. -/
theorem wit_HardRepair (h : Config.hardResources 0 0 0 ≠ 0) : (repairAt (pl 12 [(3, 1, 1)])).spares ready ≠ 0 := by
  have e : (repairAt (pl 12 [(3, 1, 1)])).spares ready = Config.hardResources 0 0 0 := by rfl
  rw [e]; exact h

def inLife (n : Nat) (s : State := ready) : State := { s with sec := { s.sec with
  life := { provisioned := decide (1 ≤ n), deployed := decide (2 ≤ n), returned := decide (3 ≤ n) } } }
/-- A configuration image of its header alone, as one chunk. -/
def cfgImage : Bytes := pl 16 [(0, 4, 0x4746434F), (4, 2, 1), (8, 4, 1)]
def session (chunks : TMap Bytes) : Staging := {
  xport := .bar0, generation := 1, length := 16, count := 1, crc := crc32c cfgImage, chunks, target := 1 }
def updating (g : Staging) (s : State := ready) : State := { s with sec := { s.sec with update := some g } }
def otpProg : OtpProg := { setting := 3, slot := 3, entry := { valid := false, writer := 0, lifecycle := 0, fwVersion := 0, value := zeros 32 }, done := dfd }

theorem wit_OwnersAndFlash : [
    W secOtpRead 8 (pl 4 []) ready (fun r s => u8 r.pay 0 = 0 && s.dev.st ≠ .faultHold),
    W secOtpRead 8 (pl 4 [(0, 1, 0x17)]) ready (fun r _ => u8 r.pay 0 ≠ 0), W secOtpRead 8 (pl 4 [(0, 1, 4), (1, 1, 31)]) ready,
    W secOtpProgram 8 (pl 164 [(0, 1, 3)]) ready (fun r s => decide (s.sec.life.code < 2) && s.sec.otpProg = none && !s.sec.life.returned &&
      !s.otpSame (u8 r.pay 0) (slice r.pay 4 32) && (List.range (otpSlots (u8 r.pay 0))).find? (fun i => (s.otpSlot (u8 r.pay 0) i).isNone) = some 0),
    W secOtpProgram 8 (pl 164 [(0, 1, 3)]) (inLife 2) (fun r s => s.sec.life.code = 2 && !s.sec.life.returned && s.sec.otpProg = none &&
      ((s.consume r.via).authorise r 36 s.ownerKey).2 = some 2),
    ({ ready with sec := { ready.sec with otpProg := some otpProg } }).sec.otpProg = some otpProg,
    W secFwUpdateBegin 8 (pl 20 [(4, 4, 1), (8, 4, 7340032), (12, 4, 16384)]) ready (fun _ s => s.sec.update = none),
    W secFwUpdateBegin 8 (pl 20 [(0, 1, 1), (4, 4, 1), (8, 4, 16), (12, 4, 1)]) (updating (session [])) (fun r _ => r.via.xport = .bar0),
    W secFwUpdateChunk 8 (pl 16 [(0, 4, 1), (8, 2, 16), (12, 4, (crc32c cfgImage).toNat)] ++ cfgImage) (updating (session [])) (fun r s =>
      s.sec.update = some (session []) && (crc32c (r.pay.drop 16)).toNat = u32 r.pay 12 && (session []).chunkLen 0 = 16),
    (let g := session [(0, cfgImage)]
     W secFwUpdateCommit 8 (pl 8 [(0, 4, 1), (4, 4, (crc32c cfgImage).toNat)]) (updating g) (fun r s =>
      s.sec.flashCommit = none && g.fails (u32 r.pay 4) = none && s.imageFails g g.image = none)),
    (let g := session []
     W secFwUpdateCommit 8 (pl 8 [(0, 4, 1), (4, 4, (crc32c cfgImage).toNat)]) (updating g) (fun r s =>
      s.sec.flashCommit = none && g.fails (u32 r.pay 4) = some (rejectCode 1 0))),
    W secOtpRead 8 (pl 4 []) (inSt .faultHold) (fun r s => u8 r.pay 0 = 0 && s.dev.st = .faultHold),
    W secOtpProgram 8 (pl 164 [(0, 1, 3)]) { ready with sec := { ready.sec with otp := [(0x300, { otpProg.entry with valid := true })] } } (fun r s => s.otpSame (u8 r.pay 0) (slice r.pay 4 32)),
    (let g := { session [(0, zeros 16)] with crc := crc32c (zeros 16) }
     W secFwUpdateCommit 8 (pl 8 [(0, 4, 1), (4, 4, (crc32c (zeros 16)).toNat)]) (updating g) (fun r s =>
      g.fails (u32 r.pay 4) = none && (s.imageFails g g.image).isSome)),
    ({ ready with sec := { ready.sec with flashCommit := some { target := 1, image := { generation := 1, crcOk := true, bytes := [] }, raiseTo := some 3, done := dfd } } } : State).sec.flashCommit.isSome].all id = true := by decide +kernel

theorem wit_AccessAndLifecycle : [
    W secAccessSet 8 (pl 8 [(0, 1, 1), (2, 2, 0xFFFF)]) ready (fun r s => u8 r.pay 0 ∈ s.transports && (s.setMask (u8 r.pay 0) (u16 r.pay 2)).keepsSecurity),
    W secAccessSet 8 (pl 8 [(0, 1, 2)]) ready (fun r s => u8 r.pay 0 ∉ s.transports),
    W secLifecycleSet 8 (pl 228 [(0, 1, 1)]) (inLife 0) (fun r s => u8 r.pay 0 = 1 && s.sec.life.code = 0 && s.sec.otpProg = none),
    W secLifecycleSet 8 (pl 228 [(0, 1, 2)]) (inLife 1) (fun r s => u8 r.pay 0 = 2 && s.sec.life.code = 1 && s.sec.otpProg = none),
    ({ ready with sec := { ready.sec with returning := some dfd } }).sec.returning.isSome,
    ({ ready with smb := { ready.smb with mctpIn := [(9, .getVersion)] } }).smb.mctpIn ≠ [],
    decide (0 ≤ ready.certChain.length),
    W secLifecycleSet 8 (pl 228 [(0, 1, 3)]) (inLife 0) (fun r s => u8 r.pay 0 = 3 && decide (s.sec.life.code < 3) && s.sec.flashCommit = none),
    W secLifecycleSet 8 (pl 228 [(0, 1, 3)]) (inLife 2) (fun r s => u8 r.pay 0 = 3 && ((s.consume r.via).authorise r 100 s.ownerKey).2 = some 2),
    W secLifecycleSet 8 (pl 228 [(0, 1, 1)]) (inLife 1) (fun r s => u8 r.pay 0 = s.sec.life.code)].all id = true := by decide +kernel

def hot : State := { ready with gpio := { ready.gpio with ext := 0x40000000 } }
def cool : State := { hot with gpio := { hot.gpio with ext := 0 }, pwr := { hot.pwr with throttle := true } }

theorem wit_Power : [
    W pwrStateSet 8 (pl 4 [(0, 1, 2)]) ready (fun _ s => s.dev.st ≠ .standby),
    W pwrStateSet 8 (pl 4 []) (inSt .standby) (fun _ s => s.dev.st = .standby && s.pwr.wake = none),
    W pwrQuery 8 [] ready, W pwrLimitSet 8 (pl 16 [(0, 2, 700), (2, 2, 100), (4, 2, 600), (6, 2, 900), (8, 1, 100), (10, 2, 10000)]) ready,
    decide (ready.dev.st ≠ .reset) && !ready.pwr.sensorFail, hot.input 5 && !hot.pwr.throttle && hot.governed,
    !cool.input 5 && cool.pwr.throttle && cool.governed,
    (let s : State := { ready with pace := { ready.pace with meas := 25, target := 51 } }; s.governed && !s.pwr.holdTarget && decide (s.pace.meas + 25 < s.pace.target)),
    (let s : State := { ready with pace := { ready.pace with meas := 51, target := 25 } }; decide (s.pace.target + 25 < s.pace.meas))
    ,
    (let s : State := { ready with pace := { ready.pace with meas := 25, target := 51 }, pwr := { ready.pwr with powerOver := true } }; s.governed && s.pwr.powerOver && decide (s.limitW * 1000 < s.limitW * 1000 + 1))].all id = true := by decide +kernel

/-- `n` records unread, and a ring with staged events. -/
def unread (n : Nat) : State := { ready with flt := { ready.flt with nextSeq := n + 1 } }
def stagedEv : State := { unread 255 with flt := { (unread 255).flt with staged := [{ kind := 1 }] } }
def writing : State := { unread 255 with flt := { (unread 255).flt with writing := some { kind := 7 } } }

theorem wit_FaultRing : [
    stagedEv.flt.writing = none && stagedEv.flt.staged = [{ kind := 1 }] && stagedEv.flt.unread = 255,
    writing.flt.writing = some { kind := 7 } && decide (writing.flt.unread < 256),
    (unread 256).flt.unread = 256 && !(unread 256).flt.urgent,
    (unread 5).bar0 && decide (((5 : W32) - (unread 5).flt.ringCons).toNat ≤ (unread 5).flt.unread),
    (unread 5).bar0 && decide ((unread 5).flt.unread < ((6 : W32) - (unread 5).flt.ringCons).toNat),
    W fltRecordRead 7 (pl 12 [(0, 8, 2 ^ 64 - 1), (8, 1, 3)]) (unread 5),
    W fltRecordRelease 8 (pl 8 [(0, 4, 5)]) (unread 5), W fltCperRead 8 (pl 8 []) (unread 5),
    (let s : State := { writing with flt := { writing.flt with nextSeq := 257, writing := some { kind := 1, scope := 3 } } }; s.flt.unread = 256 && s.flt.urgent),
    decide (0 < stagedEv.flt.staged.length) && decide (stagedEv.flt.staged.length ≤ 63),
    [RecordLoss.indices].contains RecordLoss.indices && !([RecordLoss.staged 0].contains RecordLoss.indices)].all id = true := by decide +kernel

def testing (ts : List UnitTest) (rs : List Readmit := []) (gone : List UnitRef := []) : State := { ready with
  flt := { ready.flt with tests := ts, readmits := rs, retired := gone } }
def glen (n : Nat) : UnitRef := ⟨1, n⟩

theorem wit_UnitTests : [
    (let s := testing [{ unit := glen 31 }]; s.canTest && s.flt.tests.find? (fun t => t.unit = glen 31 && !t.running) = some { unit := glen 31 }),
    (let s := testing [{ unit := glen 31, running := true }]
     s.flt.readmits = [] && !s.isRetired 1 31 && s.dev.st = .ready && s.flt.tests.find? (fun t => t.unit = glen 31 && t.running) = some { unit := glen 31, running := true }),
    (let x : Readmit := { unit := glen 0, done := dfd, phase := 1 }; (testing [] [x]).flt.readmits.find? (fun r => r.unit = glen 0 && r.phase = 1) = some x),
    W fltSelftestRun 8 (pl 4 [(0, 1, 1), (2, 2, 31)]) ready (fun _ s => s.flt.tests = []),
    W fltUnitReadmit 8 (pl 4 [(0, 1, 1), (2, 2, 31)]) (testing [] [] [glen 31]) (fun r s =>
      s.isRetired (u8 r.pay 0) (u16 r.pay 2) && s.flt.readmits = [] && s.flt.tests = []),
    W fltCheckedSet 8 (pl 4 [(1, 1, 5)]) running (fun r s => (s.profile (u8 r.pay 0)).isSome && s.nextFraction (u8 r.pay 0) ≠ u8 r.pay 1)
    ,
    [⟨4, 127⟩, ⟨5, 31⟩, ⟨10, 3⟩].all fun u => (let s := testing [{ unit := u, running := true }]
     s.flt.tests.any (fun t => t.unit = u && t.running) && s.flt.readmits = [] && !s.isRetired u.cls u.idx),
    (let x : Readmit := { unit := glen 0, done := dfd }; let s := testing [{ unit := glen 0, running := true }] [x] [glen 0]
     s.isRetired 1 0 && s.flt.readmits.find? (fun r => r.unit = glen 0 && r.phase = 0) = some x),
    W fltUnitReadmit 8 (pl 4 [(0, 1, 1), (2, 2, 31)]) ready (fun r s => !s.isRetired (u8 r.pay 0) (u16 r.pay 2)),
    W fltCheckedSet 8 (pl 4 []) running (fun r s => (s.profile (u8 r.pay 0)).isSome && s.nextFraction (u8 r.pay 0) = u8 r.pay 1),
    W fltSelftestRun 8 (pl 4 [(0, 1, 1), (2, 2, 31)]) (testing [{ unit := glen 31 }]) (fun _ s => s.flt.tests.any fun t => t.unit = glen 31)].all id = true := by decide +kernel

def win : Window := { periodMs := 1000, offsetMs := 0, lengthMs := 1, classes := 2, share := 8 }
def inWin : State := { ready with flt := { ready.flt with
  window := some win, windowOpen := true, pack := some { id := 1, version := 1, tests := 1, classes := 2 } } }

theorem wit_TestWindows : [
    (let s : State := { ready with flt := { ready.flt with window := some win } }
     (s.flt.windowNext <|> s.flt.window) = some win && !s.flt.windowOpen && s.canTest),
    inWin.flt.windowOpen && inWin.canTest && win.classes.getLsbD 1 && inWin.packTurn 1 = some 0,
    W fltPackLoad 8 (pl 16 [(12, 1, 1)]) ready (fun r s => bit (u8 r.pay 12) 0 && !s.flt.windowOpen),
    W fltPackLoad 8 (pl 16 [(0, 8, hbmBase), (8, 4, 64)]) ready (fun r s => !bit (u8 r.pay 12) 0 &&
      inHbm (u64 r.pay 0) && inHbm (u64 r.pay 0 + u32 r.pay 8 - 1) && rangeAll s.populated (u64 r.pay 0) (u32 r.pay 8)),
    W fltWindowSet 8 (pl 16 [(0, 4, 86400000), (4, 4, 86399999), (8, 4, 21600000), (14, 1, 8)]) ready,
    W fltPackLoad 8 (pl 16 [(0, 8, hostBase), (8, 4, 64)]) ready (fun r s => inHost (u64 r.pay 0) && inHost (u64 r.pay 0 + u32 r.pay 8 - 1) && rangeAll s.populated (u64 r.pay 0) (u32 r.pay 8)),
    W fltPackLoad 8 (pl 16 [(12, 1, 1)]) inWin (fun _ s => s.flt.windowOpen) && inWin.flt.window = some win].all id = true := by decide +kernel

def setValley (v : Nat) (x : Valley) : State := { ready with valleys := [(v, x)] }
def v0 : Valley := { profile := some prof, st := .running }
def ctxPay (id units first lanes : Nat) : Bytes := pl 40 [(0, 2, id), (4, 1, units), (8, 1, first), (9, 1, lanes)]
def cx : Context := { create := ctxPay 0 0 0 0 }
def withCtx (c : Context) (s : State := running) : State := { s with core := { s.core with ctxs := [(ctxKey 0 0, c)] } }
def stopped (s : State := ready) : State := { s with valleys := [(0, { v0 with st := .stopped })] }
def profPay : Bytes := pl 32 [(1, 1, 1), (2, 1, 84), (4, 4, 1), (8, 2, 1), (10, 1, 1), (11, 1, 1), (12, 4, 0), (16, 4, 64), (20, 1, 4), (21, 1, 64)]

theorem wit_ContextsAndValleys : [
    W ctxCreate 0 (ctxPay 127 32 0 64) running (fun r s =>
      let c : Context := { create := r.pay, since := s.now }
      !s.ctxConflict r.via.mbx c (ctxKey r.via.mbx (u16 r.pay 0)) && s.profile 0 = some prof && decide (s.ctxCount 0 < prof.ctxMax) &&
      s.scratchRun 0 c.scrUnits = some 0),
    W ctxCreate 0 (ctxPay 1 0 0 0) (withCtx cx) (fun r s =>
      let c : Context := { create := r.pay, since := s.now }
      !s.ctxConflict r.via.mbx c (ctxKey r.via.mbx (u16 r.pay 0)) && s.scratchRun 0 c.scrUnits = some 0),
    W ctxDestroy 0 (pl 4 [(0, 2, 127)]) running (fun r s => look s.core.ctxs (ctxKey r.via.mbx (u16 r.pay 0)) = none),
    W ctxDestroy 0 (pl 4 []) (withCtx cx) (fun r s => look s.core.ctxs (ctxKey r.via.mbx (u16 r.pay 0)) = some cx && s.core.sqs = []),
    W ctxQuery 0 (pl 4 []) running, W valleyStart 8 (pl 4 []) stopped (fun r s => (s.valley (u8 r.pay 0)).st = .stopped),
    W valleyStart 8 (pl 4 []) ready (fun r s => (s.valley (u8 r.pay 0)).st = .noProfile),
    W valleyStop 8 (pl 8 []) running (fun r s => (s.valley (u8 r.pay 0)).st = .running),
    W valleyStop 8 (pl 8 [(4, 4, 60000)]) running (fun r s => (s.valley (u8 r.pay 0)).st = .running),
    (let s := setValley 0 { v0 with st := .stopping }; (s.valley 0).st = .stopping && s.inflight 0 = 0 && (s.valley 0).shut.held = none),
    (let s := setValley 0 { v0 with st := .stopping, limit := some 5 }; (s.valley 0).st = .stopping && (s.valley 0).limit = some 5),
    W valleyProfileSet 8 profPay ready (fun r s =>
      let p := { profileOf r.pay with personality := s.resolvePersonality (profileOf r.pay).personality }
      s.profile (u8 r.pay 0) = none && (s.valley (u8 r.pay 0)).changes = [] && (s.valley (u8 r.pay 0)).retiring = [] &&
      p.personality = 84 && s.profiles = [] && decide (p.hwtShare + (((List.range 8).filter (· ≠ u8 r.pay 0)).map fun u =>
        ((s.profile u).map (·.hwtShare)).getD 0).sum ≤ 64) && ratesOk [(0, p)] s.narrowsOf),
    W narrowsSet 8 (pl 20 [(8, 4, 4), (16, 4, 65536)]) { ready with valleys := [(0, { v0 with profile := some { prof with separate := false } })] } (fun r s =>
      s.profile (u8 r.pay 0) = some { prof with separate := false } && ratesOk ((List.range 8).filterMap fun u =>
        ((s.profiles.filter fun e => e.1 = u).head?).map fun e => (u, e.2)) (fun u => if u = u8 r.pay 0 then r.pay.drop 4 else s.narrowsOf u)),
    W valleyQuery 0 (pl 4 []) ready,
    W valleyStart 8 (pl 4 []) running (fun r s => (s.valley (u8 r.pay 0)).st = .running),
    W valleyStart 8 (pl 4 []) (setValley 0 { v0 with st := .stopping }) (fun r s => (s.valley (u8 r.pay 0)).st = .stopping && (s.valley (u8 r.pay 0)).shut.held = none),
    W valleyStop 8 (pl 8 []) stopped && W valleyStop 8 (pl 8 []) ready,
    W valleyStop 8 (pl 8 []) (setValley 0 { v0 with st := .stopping, shut := { dones := [dfd], held := some (dfd, []) } }) (fun r s => (s.valley (u8 r.pay 0)).shut.held.isSome),
    (let s := setValley 0 { v0 with st := .stopping, shut := { dones := [dfd], held := some (dfd, []) } }; s.inflight 0 = 0 && (s.valley 0).shut.held.isSome),
    W valleyProfileSet 8 profPay stopped (fun r s =>
      let p := { profileOf r.pay with personality := s.resolvePersonality (profileOf r.pay).personality }
      p.personality = s.nextPersonality 0 prof && s.profile 0 = some prof && decide (s.ctxCount 0 ≤ p.ctxMax) && !s.regionHeld 0 prof p && s.core.ctxs = [] &&
      ratesOk ((0, p) :: (List.range 8).filterMap fun u => if u = 0 then none else (s.nextProfile u).map fun q => (u, q)) s.narrowsOf)].all id = true := by decide +kernel

theorem wit_BoundariesAndSwitches : [
    (running.profile 0).isSome,
    (let s := setValley 0 { v0 with autoUs := 1, changes := [{ change := .checked 1, since := 7 }] }
     ((s.valley 0).changes.filter (·.ready)).map (·.since) = [7] && (s.valley 0).autoUs ≠ 0),
    (let x : TSet := { valley := 0, create := zeros 96, newest := 2, oldLive := true }
     let s : State := { running with core := { running.core with sets := [(0, x)] } }
     look s.core.sets 0 = some x && x.oldLive && s.stampedWith 0 x.oldest = 0 && s.session 0 false = none && x.advance = none),
    (running.valley 0).st = .running && running.servesPeers && !running.switching 0,
    look (withCtx { cx with st := .restoring }).core.ctxs 0 = some { cx with st := .restoring } && !running.areaLost 0 cx true,
    (let s := withCtx { cx with st := .saving }; look s.core.ctxs (ctxKey 0 0) = some { cx with st := .saving } && s.canSave 0 && !s.areaLost 0 cx false),
    look running.core.ctxs (ctxKey 0 0) = none,
    (let x : TSet := { valley := 0, create := zeros 96, newest := 2, oldLive := true }
     let s : State := { running with core := { running.core with sets := [(0, x)], reqs := [(1, { valley := 0, ctx := 0, origin := .sq 0, tag := 0, op := 1, stamp := { epochs := [(0, x.oldest)] } })] } }
     s.stampedWith 0 x.oldest ≠ 0),
    (let c := { cx with create := pl 40 [(16, 8, hbmBase), (24, 8, 64)] }; (running.poison hbmBase 64).areaLost 0 c true && !running.areaLost 0 c true && ({ running with ext := { running.ext with hbmGone := [0] } } : State).areaLost 0 c false),
    !({ running with dev := { running.dev with st := .standby } }).servesPeers && cx.next ≠ some (ctxKey 0 0)].all id = true := by decide +kernel

def sq (ctx : Nat) : Sq := { update := false, kernel := false, ctx, cq := 0, ring := 0, log2 := 4, prio := 0, weight := 1, maxIn := 65535 }
def cq : Cq := { log2 := 4, vector := 9, count := 1, ns := 0, ring := 4096 }
def queues (q : Sq) (c : Cq) : State := let s := withCtx cx; { s with core := { s.core with sqs := [(0, q)], cqs := [(0, c)] } }
def notices (d : Due) : State := let s := queues (sq 0) cq; { s with core := { s.core with due := [d] } }
def post : Due := { cq := 0, kind := 0, a := 0, b := some 0, c := 0 }
def notify : Due := { cq := 0, kind := 1, a := 0, b := none, c := 5, held := false }

/-- With the host's link down. -/
def dark (s : State) : State := { s with link := { s.link with up := false } }

theorem wit_Queues : [
    W sqCreate 0 (pl 24 [(6, 2, 1), (16, 1, 15), (18, 1, 16)]) { queues (sq 0) cq with core := { (queues (sq 0) cq).core with sqs := [], cqs := [(1, cq)] } } (fun r s =>
      !s.link.standalone && s.link.cxlActive && look s.core.sqs (u16 r.pay 0) = none && (look s.core.cqs (sqOf r.pay).cq).isSome &&
      (look s.core.ctxs (ctxKey r.via.mbx (sqOf r.pay).ctx)).isSome),
    W sqDestroy 0 (pl 4 []) (queues (sq 0) cq) (fun r s => look s.core.sqs (u16 r.pay 0) = some (sq 0)),
    W cqCreate 0 (pl 24 [(0, 2, 511), (2, 1, 16), (4, 2, 2047), (6, 2, 256), (8, 4, 1000000)]) ready (fun r s =>
      !s.link.standalone && s.link.cxlActive && look s.core.cqs (u16 r.pay 0) = none),
    W cqDestroy 0 (pl 4 []) { ready with core := { ready.core with cqs := [(0, cq)] } } (fun r s => look s.core.cqs (u16 r.pay 0) = some cq && s.core.sqs = []),
    W handleTableSet 0 (pl 16 [(4, 4, 1), (8, 8, hbmBase)]) (withCtx cx) (fun r s => look s.core.ctxs (ctxKey r.via.mbx (u16 r.pay 0)) = some cx),
    W queueQuery 0 (pl 4 [(2, 1, 1)]) running,
    (let s := queues (sq 0) cq; look s.core.sqs 0 = some (sq 0) && s.bar0 && (sq 0).st = 1 && decide (((16 : W32) - (sq 0).cons).toNat ≤ 2 ^ (sq 0).log2)),
    decide (2 ^ (sq 0).log2 < ((17 : W32) - (sq 0).cons).toNat),
    (let c := { cq with tail := 16 }; let s := queues (sq 0) c; look s.core.cqs 0 = some c && s.bar0 && decide (((16 : W32) - c.head).toNat ≤ c.unread)),
    (let c := { cq with tail := 16 }; decide (c.unread < ((17 : W32) - c.head).toNat)), ((1 : W32).getLsbD 0),
    (let c := { cq with tail := 1, armed := true, firstAt := some 3 }; look (queues (sq 0) c).core.cqs 0 = some c && c.unread ≠ 0),
    (let s := notices post; !cq.corrupt && s.nextDue 0 cq false = some post && !s.pwr.d3hot && s.populated (hostBase + 4096) && s.link.up),
    (notices notify).nextDue 0 cq true = some notify,
    W sqDestroy 0 (pl 4 []) running (fun r s => look s.core.sqs (u16 r.pay 0) = none),
    W cqDestroy 0 (pl 4 []) running (fun r s => look s.core.cqs (u16 r.pay 0) = none),
    (let q := { sq 0 with st := 2, err := 1 }; look (queues q cq).core.sqs 0 = some q && decide (((16 : W32) - q.cons).toNat ≤ 2 ^ q.log2)),
    (let s := dark (notices post); s.nextDue 0 cq false = some post && !s.link.up),
    (let c := { cq with corrupt := true }; (queues (sq 0) c).core.cqs = [(0, c)] && (notices post).core.due.find? (fun d => d.cq = 0 && d.kind ≠ 1) = some post)].all id = true := by decide +kernel

def obj (x : SyncObj) : State := { running with core := { running.core with sync := [(63, x)] } }
def remote (kind : Nat) : State := { running with core := { running.core with
  remote := [(0, { use := .signal 0, req := 0, glen := 0, kind, node := 7, sent := 5, tag := 3 })] } }

theorem wit_SyncObjects : [
    running.syncWritable 63 && running.syncReadable 63 && (obj { poisoned := true }).syncWritable 63, !running.syncReadable 64 && running.bar0,
    (let s := obj { ctrl := BitVec.ofNat 32 (2 ^ 16 + 2 ^ 31) }; let m := pl 16 [(2, 2, 63), (8, 8, 1)]
     s.servesPeers && decide (16 ≤ m.length) && s.syncIndex (u8 m 4) (s.bndNow 0) (u16 m 2) = some 63 && !s.inTransit 63 &&
      (s.obj 63).ctrl.getLsbD 16 && (s.obj 63).ctrl.getLsbD (24 + 7) && !(s.obj 63).poisoned),
    !(running.obj 63).ctrl.getLsbD 16,
    ((remote 3).core.remote.find? (fun m => m.2.kind = 3 && m.2.tag = 3 && m.2.node = 7)).isSome,
    (let s := obj { ctrl := BitVec.ofNat 32 (2 ^ 16 + 2 ^ 31), poisoned := true }; (s.obj 63).poisoned && (s.obj 63).ctrl.getLsbD 31),
    running.syncIndex 0 (running.bndNow 0) 64 = none && decide ((zeros 12).length < 16),
    (setValley 0 { v0 with retiring := [{ bnd := 0, what := .profile prof { prof with syncCount := 63 } }] }).inTransit 63,
    running.syncValley 63 = some 0 && !(0 : W32).getLsbD 0].all id = true := by decide +kernel

/-- A command whose first slot holds these fields, alone in queue 0. -/
def cmd (l : List (Nat × Nat × Nat)) : State :=
  let s := queues { sq 0 with prod := 1 } cq
  { s with mem := wrN s.mem hostBase (pl 128 l) }
def admitsB (ok : Nat → Bool) (n : Nat) (s : State) (rest : Sq → State → Bool := fun _ _ => true) : Bool :=
  match look s.core.sqs n with
  | none => false
  | some q => s.admits (n / 512) && s.cqSpare q && s.isNext (n / 512) n && s.link.up &&
    !s.poisoned (hostBase + q.ring + q.cons.toNat % 2 ^ q.log2 * 128) 128 && ok (s.command q).op && rest q s
def taken (k : CmdKind) (q : Sq) (s : State) : Option (Nat × Nat) :=
  let x := s.takeCommand k 0 q
  x.2.2.checkCommand k q (s.command q) x.2.1

theorem admits_of {ok : Nat → Bool} {n : Nat} {q : Sq} {s : State} (h : look s.core.sqs n = some q)
    (a : admitsB ok n s = true) : Admits (fun o => ok o = true) n q s := by
  simp only [admitsB, h, Bool.and_eq_true, Bool.not_eq_true', decide_eq_true_eq, Bool.and_true] at a
  exact ⟨h, a.1.1.1.1.1, a.1.1.1.1.2, a.1.1.1.2, a.1.1.2, a.1.2, a.2⟩

/-- The same in a chain that has failed. -/
def cancelled (l : List (Nat × Nat × Nat)) : State := let s := cmd l
  { s with core := { s.core with sqs := s.core.sqs.map fun e => (e.1, { e.2 with chainOk := some false }) } }

/-- A launch naming one handle, whose entry the host holds. -/
def heldLaunch : State :=
  let s := cmd [(0, 1, 1), (3, 1, 1), (10, 2, 4)]
  { s with core := { s.core with ctxs := [(ctxKey 0 0, { cx with handles := some (hbmBase, 1) })] }
           basin := { s.basin with tracker := [{ line := hbmBase / 64, exclusive := true }] } }

theorem wit_FrontEnd : [
    admitsB (· = 1) 0 (cmd [(0, 1, 1)]) (fun q s => s.heldEntries 0 (q.ctxFor (s.command q)) (s.command q) = []),
    admitsB (· = 1) 0 heldLaunch (fun q s => s.heldEntries 0 (q.ctxFor (s.command q)) (s.command q) ≠ []), admitsB (· = 2) 0 (cmd [(0, 1, 2)]) (fun q s => taken boundaryKind q s = none),
    admitsB (· = 3) 0 (cmd [(0, 1, 3), (10, 2, 8), (12, 4, 63)]) (fun q s =>
      taken (signalKind (s.command q).set) q s = none && s.syncIndex 0 (s.bndNow 0) (s.command q).arg = some 63),
    admitsB (· = 4) 0 (cmd [(0, 1, 4)]) (fun q s => taken nopKind q s = none),
    admitsB (· = 4) 0 (cmd [(0, 1, 4), (12, 4, 1)]) (fun q s => taken nopKind q s = some (0x16, 0)),
    admitsB (fun o => !knownOp o) 0 (cmd [(0, 1, 5)]) (fun q _ => q.chainOk ≠ some false),
    admitsB (· = 2) 0 (cmd [(0, 1, 2), (12, 4, 1)]) (fun q s => taken boundaryKind q s = some (0x16, 0)),
    admitsB (· = 3) 0 (cmd [(0, 1, 3), (10, 2, 8), (12, 4, 64)]) (fun q s => (taken (signalKind false) q s).isSome),
    admitsB (fun o => !knownOp o) 0 (cancelled [(0, 1, 5)]) (fun q s => q.chainOk = some false && !(s.command q).always),
    (let s := cmd [(0, 1, 4)]; let t := { s with core := { s.core with cqs := [(0, { cq with reserved := 16 })] } }
     t.admits 0 && (look t.core.sqs 0).any fun q => t.hasCommand q && !t.cqSpare q),
    (let s := dark (cmd [(0, 1, 4)]); s.admits 0 && s.isNext 0 0 && !s.link.up && (look s.core.sqs 0).any s.cqSpare),
    !(cmd []).admits 1 && (look (cmd [(0, 1, 4)]).core.sqs 0).any (cmd [(0, 1, 4)]).cqSpare && !(queues (sq 0) cq).isNext 0 0].all id = true := by decide +kernel

/-- Graph 0 of context 0: one version, of one block of code. -/
def graphImage : Bytes := pl 68 [(0, 4, 0x47524150), (4, 2, 1), (8, 4, 4), (16, 4, 1)]
def ver : GraphVer := { num := 1, record := hbmBase, blocks := [hbmBase + 4096], entry := 0, threads := 1 }
def graph0 : Graph := {
  arena := hbmBase, bytes := 5 * 4096, indir := hbmBase + 65536, indirCount := 2, codeBytes := 4, personality := 84, units := 5, vers := [ver]
  current := some 1 }
def withGraph (g : Graph) : State := withCtx { cx with graphs := [(0, g)] }
def target (r : Req) (s : State) (busy faulted : Bool) (g : Graph) : Bool := match (s.consume r.via).patchTarget r busy faulted with
  | .ok x => x = g
  | _ => false
def storePay : Bytes := pl 48 [(4, 4, 68), (8, 8, hbmBase), (16, 8, hbmBase + 8192), (24, 8, 8192), (44, 4, (crc32c graphImage).toNat)]
def pend : Graph := { graph0 with vers := [ver, { ver with num := 2, record := hbmBase + 8192 }], pendingVer := some 2 }

theorem wit_GraphMessages : [
    (let s := withCtx cx
     W graphStore 0 storePay { s with mem := wrN s.mem hbmBase graphImage } (fun r s => !s.arenaMeets 0 (u64 r.pay 16) (u64 r.pay 24) &&
      s.imageBad 0 r.pay (s.bytes (u64 r.pay 8) (u32 r.pay 4)) = none && s.core.tables = [])),
    W (graphPatch patchStructural) 0 (pl 20 [(8, 2, 4)]) (withGraph graph0) (fun r s => target r s true true graph0 &&
      decide (u32 r.pay 4 + u16 r.pay 8 ≤ graph0.codeBytes) && (graph0.withPending.bind (patchBlocks 0 (r.pay.drop 16) (s.consume r.via))).isSome),
    W (graphPatch patchIndirect) 0 (pl 24 [(3, 1, 1), (4, 4, 1), (8, 2, 8)]) (withGraph graph0) (fun r s => target r s false true graph0 &&
      decide (u32 r.pay 4 + u16 r.pay 8 / 8 ≤ graph0.indirCount)),
    W (graphPatch patchEntry) 0 (pl 24 [(3, 1, 2), (8, 2, 8), (20, 4, 65536)]) (withGraph graph0) (fun r s => target r s true true graph0 &&
      (graph0.withPending.bind fun y => y.pendingVer.bind y.ver).isSome),
    W (graphPatch patchActivate) 0 (pl 16 [(3, 1, 3)]) (withGraph pend) (fun r s => target r s true true pend && pend.pendingVer.isSome),
    W (graphPatch patchDiscard) 0 (pl 16 [(3, 1, 4)]) (withGraph pend) (fun r s => target r s false false pend && (s.valley 0).changes = []),
    W graphRetire 0 (pl 4 []) (withGraph graph0) (fun r s => s.graph (ctxKey 0 0) (u8 r.pay 2) = some graph0),
    W graphRetire 0 (pl 4 []) (withCtx cx) (fun r s => s.graph (ctxKey 0 0) (u8 r.pay 2) = none),
    !pend.armed && !pend.retiring && pend.vers.all (fun v => !v.lost && !(withGraph pend).poisoned v.record 4096)].all id = true := by decide +kernel

/-- Thread 1 of request 0 in a context with a scratch range, whose handle table permits the first page of HBM. -/
def request : Request := { valley := 0, ctx := 0, origin := .sq 0, tag := 0, op := 1, stamp := { handles := some (hbmBase + 8192, 1) } }
def thread : Thread := { req := 0, glen := 0 }
def scx : Context := { cx with create := ctxPay 0 1 0 64, scrBase := 0 }
def threads (x : Thread) : State :=
  let s := withCtx scx
  { s with dev := { s.dev with nodeId := 0 }
           mem := wrN s.mem (hbmBase + 8192) (leBytes 8 (hbmBase + 7 * 2 ^ 56) ++ leBytes 8 4096)
           core := { s.core with reqs := [(0, request)], threads := [(1, x)] } }
def runsB (s : State) : Bool := look s.core.threads 1 = some thread && look s.core.reqs 0 = some request && s.ctxOf request = some scx &&
  scx.st = .resident && !s.fenced 1 0
def T : State := threads thread
theorem runs : Runs 1 thread request scx T := by constructor <;> decide +kernel

/-- The host holds the line of an address. -/
def recalled (a : Nat) (s : State) : State := { s with basin := { s.basin with tracker := [{ line := a / 64, exclusive := true }] } }

theorem wit_ThreadAccess : [
    runsB T, accessOk 65520 16 && scx.inScratchRange 65520 16, !(accessOk 65536 16 && scx.inScratchRange 65536 16), !accessOk 1 2,
    T.barred request hbmBase 16 false = none && T.barred request (hbmBase + 4080) 16 true = none && !T.isRemote hbmBase && !T.hostWaits (localOf hbmBase),
    T.barred request (hbmBase + 4096) 16 false = some (0x19, 0xFFFF),
    (let s := threads { thread with wait := .load hbmBase 16 2 }; s.hostHolds (localOf hbmBase) 16 false = [] && s.barred request hbmBase 16 false = none)
    ,
    ({ T with core := { T.core with scratchPoison := [4095] } }).scratchPoisoned 0 65520 16,
    (let s : State := { T with dev := { T.dev with nodeId := 7 } }; s.isRemote hbmBase && s.barred request hbmBase 16 true = none),
    (let s := recalled hbmBase (threads { thread with wait := .load hbmBase 16 2 }); s.hostHolds (localOf hbmBase) 16 false ≠ []),
    (threads { thread with wait := .load (hbmBase + 4096) 16 2 }).barred request (hbmBase + 4096) 16 false = some (0x19, 0xFFFF)].all id = true := by decide +kernel

def blocked (w : Wait) : State := threads { thread with wait := w }
def tasks (k : Task) : State := { T with core := { T.core with threads := [], tasks := [(1, k)] } }

/-- A write of context 0 waits for the host. -/
def writing0 (s : State) : State := { s with basin := { s.basin with biWrites := [{ addr := 64, data := zeros 4, who := some (0, 0) }] } }

theorem wit_ThreadSync : [
    runsB T && !refBad 63 && !bit 63 32 && T.syncIndex 0 0 (63 % 2 ^ 14) = some 63 && !(T.obj 63).poisoned,
    (let s : State := { T with core := { T.core with sync := [(63, { poisoned := true })] } }; runsB s && (s.obj 63).poisoned),
    refBad (2 ^ 14) && T.syncIndex 0 0 64 = none,
    (let ref := 2 ^ 32 + 7 * 2 ^ 24; !refBad ref && bit ref 32 && decide (ref / 2 ^ 24 % 256 ≠ T.dev.nodeId) && !T.unacked 1 (some 7) && decide (T.signalsOut 0 < 256)),
    (look (blocked (.ge 63 1 0 10 0 true)).core.threads 1).isSome, (look (blocked (.acquire 63 1 0 10 0 true)).core.threads 1).isSome,
    (let k : Task := { req := 0, queue := none, glen := 0, record := zeros 64, ready := false }
     look (tasks k).core.tasks 1 = some k && look (tasks k).core.threads 1 = none && look (tasks k).core.reqs 0 = some request),
    runsB (writing0 T) && (writing0 T).writesPend 0 && !T.writesPend 0,
    (let ref := 2 ^ 32 + 63; bit ref 32 && decide (ref / 2 ^ 24 % 256 = T.dev.nodeId)) && refBad (2 ^ 33 + 2 ^ 32),
    (let s : State := { T with core := { T.core with remote := [(0, { use := .store 1, req := 0, glen := 0, kind := 7, node := 7, sent := 0, tag := 0 })] } }; runsB s && s.unacked 1 (some 7)),
    (look (blocked (.ge 63 1 0 10 0 true)).core.threads 1).any Thread.holdsEntry && decide (1000000 < 1000001)].all id = true := by decide +kernel

def desc (op : Nat) : Bytes := pl 64 [(0, 1, op)]
def bag : Bag := { req := 0, glen := 0, creek := 0, desc := desc 1 }
def rec63 (flag : Nat) : Bytes := pl 64 [(4, 1, 0xFF), (5, 1, flag), (8, 4, 63)]

/-- The thread's request runs a graph, the code of which is poisoned. -/
def coded : Request := { request with stamp := { request.stamp with graph := some (0, 1) } }
def lostCode : State := let s := T.poison (hbmBase + 4096) 64
  { s with core := { s.core with reqs := [(0, coded)], ctxs := [(ctxKey 0 0, { scx with graphs := [(0, graph0)] })] } }

theorem wit_ThreadFlow : [
    runsB T, u8 (desc 0x10) 0 = 0x10 && u8 (desc 0x11) 0 = 0x11 && decide (T.queuedPlain 0 < 256),
    (let s : State := { T with core := { T.core with bags := (List.range 256).map fun i => (i, { bag with creek := i % 2 }) } }
     u8 (desc 1) 0 = 1 && pickMin s.queuedBags (s.creeksOf 0) = some 0 && s.queuedBags 0 = 128),
    (let s := blocked (.issue (desc 0x10)); s.resident request && (s.issue thread request (desc 0x10)).isSome),
    !T.taskBad 0 0 (rec63 0), !T.taskBad 0 0 (rec63 1) && (T.syncIndex 0 0 63).isSome && decide (T.entries 0 < 4096) && !(T.obj 63).poisoned,
    !(blocked (.fence true)).unacked 1 none,
    ({ blocked (.fence true) with core := { (blocked (.fence true)).core with
      remote := [(0, { use := .store 1, req := 0, glen := 0, kind := 2, node := 7, sent := 0, tag := 0 })] } }).unacked 1 none,
    decide (256 ≤ ({ T with core := { T.core with plain := (List.range 256).map fun i => (i, { req := 0, ctx := 0, glen := 0, desc := desc 0x10 }) } } : State).queuedPlain 0),
    pickMin T.queuedBags (T.creeksOf 0) = some 0 && decide (T.queuedBags 0 < 128) && ({ T with flt := { T.flt with retired := [⟨2, 0⟩, ⟨2, 1⟩] } } : State).creeksOf 0 = [],
    u8 (desc 7) 0 ≠ 1 && u8 (desc 7) 0 ≠ 0x10 && u8 (desc 7) 0 ≠ 0x11,
    T.taskBad 0 0 (pl 64 [(4, 1, 0xFF), (5, 1, 1), (8, 4, 64)]) && ({ T with core := { T.core with sync := [(63, { poisoned := true })] } }.obj 63).poisoned,
    (blocked (.fence false)).writesPend 0 = false && (writing0 (blocked (.fence true))).writesPend 0,
    look lostCode.core.threads 1 = some thread && look lostCode.core.reqs 0 = some coded && lostCode.codeLost coded 0 = some (hbmBase + 4096, 0x17) && lostCode.nextTurn 0 = some 1].all id = true := by decide +kernel

/-- Set 0 with table 0: 64 rows of 8 binary16 elements, one row a block, its map in HBM. -/
def tabPay (flags : Nat) : Bytes := pl 40 [(1, 1, flags), (4, 2, 8), (6, 1, 1), (8, 8, 64), (24, 8, hbmBase + 65536)]
def tset : TSet := { valley := 0, create := pl 12 [(1, 1, 1), (2, 1, 1), (4, 4, 2), (8, 2, 1000)], newest := 2 }
def table : Table := { create := tabPay 0, from_ := some 0 }
def tables (x : TSet := tset) (t : Table := table) (s : State := running) : State := { s with core := { s.core with sets := [(0, x)], tables := [(0, t)] } }
def setOnly : State := { running with core := { running.core with sets := [(0, tset)] } }

theorem wit_TableMessages : [
    W tblSetCreate 0 (pl 12 [(4, 4, 0xFFFFFFFE), (8, 2, 1000)]) running (fun r s => look s.core.sets (u8 r.pay 0) = none),
    W tblSetDestroy 0 (pl 4 []) setOnly (fun r s => look s.core.sets (u8 r.pay 0) = some tset && !tset.destroying),
    W tblCreate 0 (tabPay 0) setOnly (fun r s => s.ownSet 0 (u8 r.pay 0) = some tset && s.profile 0 = some prof &&
      look s.core.tables (tableKey 0 0) = none && offers 84 1 0),
    W tblDestroy 0 (pl 4 []) tables (fun r s => s.ownSet 0 (u8 r.pay 0) = some tset && look s.core.tables (tableKey 0 0) = some table),
    W tblQuery 0 (pl 4 []) tables, W tblRowmapLoad 0 (pl 32 [(4, 4, 1), (8, 8, 63)]) tables (fun r s => s.mapThere { valley := 0, bnd := 0, creek := 0 } table &&
      decide (u64 r.pay 8 + u32 r.pay 4 ≤ table.slots) && s.entryOk 0 table 0),
    W tblSetDestroy 0 (pl 4 []) running (fun r s => look s.core.sets (u8 r.pay 0) = none),
    W tblDestroy 0 (pl 4 []) setOnly (fun _ s => look s.core.tables (tableKey 0 0) = none),
    W tblQuery 0 (pl 4 [(2, 2, 0xFFFF)]) tables (fun r s => u16 r.pay 2 = 0xFFFF && s.ownSet 0 0 = some tset),
    W tblCreate 0 (tabPay 1) setOnly (fun r s => (s.consume r.via).adoptFails 0 (u32 tset.create 4) { create := tabPay 1, adopted := true } = none),
    W tblRowmapLoad 0 (pl 24 [(1, 1, 1), (4, 4, 1), (8, 8, 63), (16, 8, hbmBase)]) tables (fun _ s => !s.poisoned hbmBase 8 && s.entryOk 0 table (u64 (s.bytes hbmBase 8) 0))].all id = true := by decide +kernel

def bags (b : Bag) : State := let s := tables tset table T; { s with core := { s.core with bags := [(1, b)] } }
def onBag (kind : Nat) (b : List (Nat × Bag)) : State := let s := bags bag; { s with core := { s.core with
  bags := b, remote := [(4, { use := .lookup 1 [0], req := 0, glen := 0, kind, node := 7, sent := 0, tag := 3 })] } }
def peer (e : Nat) : PeerLookup := { node := 7, tag := 0, reqTag := 3, set := 0, table := 0, epoch := e, rows := [0] }
def peers (s : State) (p : PeerLookup) : State := { s with core := { s.core with peers := [p] } }
def whole : Bag := { bag with running := true, resolved := true }

theorem wit_CreekBags : [
    !(bags bag).isRetired 2 0 && !(bags bag).fenced 2 0 && (bags bag).peersOn 0 = [] && (bags bag).nextBag 0 = some 1,
    (let p := { peer 2 with creek := some 0 }; (peers (bags bag) p).peersOn 0 = [p] && (peers (bags bag) p).nextBag 0 = some 1),
    (let b := { whole with positions := [(0, .row 0 0 0 hbmBase 0)] }
     look b.positions 0 = some (.row 0 0 0 hbmBase 0) && look (bags b).core.tables b.key = some table && !(bags b).hostWaits hbmBase &&
      (bags b).hostHolds hbmBase table.stride false = []),
    whole.done && whole.err = none && whole.status % 8 = 0 && scx.inScratchRange whole.status 8, !bag.done,
    (let m := pl 80 [(3, 1, 8)]; T.servesPeers && decide (1 ≤ u8 m 3) && decide (u8 m 3 ≤ 8) && decide (16 + 8 * u8 m 3 ≤ m.length)),
    (bags bag).peerTable (peer 2) = some (tset, table) && !epochAfter tset.oldest 2 && !epochAfter 2 tset.newest,
    epochAfter tset.oldest 0 && !epochAfter tset.oldest 3 && epochAfter 3 tset.newest, T.peerTable (peer 2) = none,
    ((onBag 1 []).remoteOf 7 3 [1]).isSome && ((onBag 1 [(1, bag)]).remoteOf 7 3 [1]).isSome && decide (table.fmt ≠ 2),
    (onBag 1 [(1, bag)]).core.remote ≠ [],
    (let s := peers (bags bag) (peer 3); s.core.peers.find? (fun p => p.node = 7 && p.reqTag = 3 && p.creek.isNone) = some (peer 3)),
    (peers T { peer 2 with creek := some 0 }).nextBag 0 = none && (peers T { peer 2 with creek := some 0 }).peersOn 0 ≠ [] && T.peersOn 0 = [],
    (let s := recalled hbmBase (bags { whole with positions := [(0, .row 0 0 0 hbmBase 0)] }); s.hostHolds hbmBase table.stride false ≠ []),
    look ({ whole with positions := [(0, .dflt)] } : Bag).positions 0 = some .dflt,
    !(bags whole).bagLost whole request && (bags whole).bagLost { whole with homes := [2 ^ 60] } request && request.latch = none && ({ whole with err := some 0x12 } : Bag).err = some 0x12,
    (let m := pl 80 [(3, 1, 9)]; decide (8 < u8 m 3)) && T.valleyCreeks 0 ≠ [] && ready.valleyCreeks 0 = [],
    (let m := pl 80 [(0, 2, 3), (3, 1, table.fmt), (4, 2, table.width), (6, 1, table.group)]
     u8 m 3 = table.fmt && u16 m 4 = table.width && u8 m 6 = table.group && ((onBag 1 [(1, bag)]).remoteOf 7 (u16 m 0) [1]).isSome)].all id = true := by decide +kernel

/-- A chain of one wave of one FP16 lane, and loads of lane 0 from scratch and from HBM. -/
def chainDesc : Bytes := pl 32 [(0, 1, 0x10), (1, 1, 2), (2, 1, 0xF), (4, 1, 1), (5, 1, 1), (6, 2, 1), (10, 2, 0xFFFF), (16, 4, 32768), (24, 4, 0xFFFFFFFF)]
def loadDesc (flag src : Nat) : Bytes := pl 32 [(0, 1, 0x11), (1, 1, flag), (3, 1, 1), (4, 2, 256), (8, 8, src), (16, 4, 0xFFFFFFFF)]
def op (d : Bytes) : PlainOp := { req := 0, ctx := 0, glen := 0, desc := d }
def plain (o : PlainOp) : State := { T with core := { T.core with plain := [(0, o)] } }
def going (d : Bytes) : PlainOp := { op d with running := true }

theorem wit_PlainRow : [
    (let o := op chainDesc; (plain o).plainHead 0 = some (0, o) && !o.isLoad && decide ((plain o).banksUsed 0 < 32) &&
      (plain o).ctxOf request = some scx && scx.st = .resident && !T.chainBad request scx o),
    T.chainBad request scx (op (desc 0x10)),
    (let o := going chainDesc; look (plain o).core.plain 0 = some o && o.running && !o.isLoad && !o.checked && o.err = none),
    (let o := { going chainDesc with checked := true }; o.checked && !o.compared && o.partner = o.glen && o.err = none),
    (let o := op (loadDesc 1 0); (plain o).plainHead 0 = some (0, o) && o.isLoad && !(plain o).loadBad request scx o && o.fromScratch &&
      !(plain o).sharedUnits 0 0 o.laneOff o.bytes),
    (let o := op (loadDesc 0 hbmBase); o.isLoad && !(plain o).loadBad request scx o && !o.fromScratch && scx.logOn 0 = [] &&
      (plain o).hostHolds (localOf o.src) 256 false = [] && (match ((plain o).loadSource 0 o request).2 with | .ok _ => true | _ => false)),
    (let o := going (loadDesc 1 0); o.running && o.isLoad && o.err = none && (plain o).loadReady 0),
    (let o := op chainDesc; !T.chainBad request scx o && o.meetsReload { scx with reload := [0] } && !o.meetsReload scx),
    Machine.GlenErr.lost .parity && !(Machine.GlenErr.lost (.laneFixed 3)) && ({ request with latch := some (9, 0) } : Request).latch.isSome,
    (let o := { going chainDesc with checked := true, partner := 9 }; decide (o.partner ≠ o.glen) && 9 ∉ (plain o).openGlens 0 0),
    (let o := op (loadDesc 0 (hbmBase + 65536)); (match ((plain o).loadSource 0 o request).2 with | .error e => e.1 = 0x19 | _ => false)),
    (let o := op (loadDesc 0 hbmBase); let s := recalled hbmBase (plain o); !(s.hostHolds (localOf o.src) 256 false).isEmpty),
    (let o := op (desc 0x11); o.isLoad && (plain o).loadBad request scx o),
    (let o := { going (loadDesc 0 (lpdBase + 2 ^ 40)) with }; !o.fromScratch && !rangeAll ((plain o).populatedFor 0 0) (localOf o.src) 256)].all id = true := by decide +kernel

def openPay : Bytes := pl 64 [(0, 1, 63), (1, 1, 1), (3, 1, 2), (24, 8, hbmBase + 2 ^ 20), (32, 8, 4096)]
def stream (st : Nat := 1) (inbox : List Inbox := []) : Stream := { valley := 0, payload := streamPayload openPay, st, inbox }
def streams (x : Stream) (s : State := tables) : State := { s with core := { s.core with streams := [(63, x)] } }
def record (o row : Nat) : Bytes := pl 128 [(0, 1, o), (8, 8, row), (18, 2, 8), (24, 4, 0xFFFFFFFF)]
def fed (o row : Nat) : Stream := stream 1 [{ bytes := record o row }]

theorem wit_StreamsAndUpdates : [
    W hwtStreamOpen 0 openPay tables (fun r s => look s.core.streams 63 = none && s.ownSet 0 0 = some tset && s.sourceOk 0 (streamPayload r.pay)),
    W hwtStreamOpen 0 openPay (streams (stream 0)) (fun _ s => look s.core.streams 63 = some (stream 0)),
    W hwtStreamOpen 0 openPay (streams (stream 1)) (fun _ s => look s.core.streams 63 = some (stream 1)),
    W hwtStreamClose 0 (pl 4 [(0, 1, 63)]) (streams (stream 1)) (fun _ s => look s.core.streams 63 = some (stream 1)),
    (let x := stream 2; (streams x).core.streams = [(63, x)] && x.shut.held = none),
    [0, 1, 2, 3, 4, 5].all (fun o => (streams (fed o 0)).takesRecords 0 = some 0 && (streams (fed o 0)).nextStream 0 = some (63, fed o 0) &&
      (streams (fed o 0)).peekRecord (fed o 0) = some (record o 0) && (fed o 0).source = 1),
    T.recordTable (fed 1 0) (record 1 0) = none, tables.recordTable (fed 1 64) (record 1 64) = some (tset, table) &&
      !table.rangeBad (record 1 64) 0 && tables.syncOk 0 0 (recSync (record 1 64)) && decide (table.rows ≤ recRow (record 1 64)),
    W hwtStreamOpen 0 openPay (streams (stream 2)) (fun _ s => look s.core.streams 63 = some (stream 2) && (stream 2).shut.held = none),
    W hwtStreamClose 0 (pl 4 [(0, 1, 64)]) running (fun r s => decide (63 < u8 r.pay 0) && look s.core.streams 64 = none),
    W hwtStreamClose 0 (pl 4 [(0, 1, 63)]) (streams { stream 2 with shut := { dones := [dfd], held := some (dfd, streamPayload openPay) } }) (fun _ s =>
      (look s.core.streams 63).any fun x => x.shut.held.isSome && streamField s 0 (streamPayload openPay) = none),
    (tables.recordTable (fed 4 0) (record 4 0)).isSome && T.recordTable (fed 4 0) (record 4 0) = none && !tables.syncOk 0 0 64,
    tables.takesRecords 0 = none && decide ((0 : Nat) < 4),
    (let s := streams (fed 1 0); s.recordsWait 0 0 && s.recordTurn 0 = some 0 && s.turnOwner (s.hwTurn 0).1 = some 0 && s.turnOwner 1 = none),
    (let x : Stream := { fed 1 0 with payload := (fed 1 0).payload.set 1 0 }; x.source = 0)].all id = true := by decide +kernel

def advancing (n : Nat) : TSet := { tset with advance := some { phase := n, done := none, target := 3, retainUs := 0 } }
def advancePay : Bytes := pl 24 [(4, 4, 3), (8, 4, 100000)]

theorem wit_EpochAdvances : [
    W epochAdvance 0 advancePay tables (fun r s => s.ownSet 0 0 = some tset && tset.advance = none && u32 r.pay 4 = epochNext tset.newest &&
      ((s.consume r.via).register 0 0).isSome),
    W epochAdvance 0 advancePay (tables (advancing 1)) (fun _ s => s.ownSet 0 0 = some (advancing 1)),
    (tables (advancing 2)).core.sets = [(0, advancing 2)], (tables (advancing 3)).catchList 0 (advancing 3) = [],
    (let x : TSet := { advancing 3 with cN := [(0, 2 ^ 60 + hbmBase)] }; (tables x).catchList 0 x ≠ []),
    W epochQuery 0 (pl 4 []) tables,
    W epochAdvance 0 advancePay tables (fun r s => (((s.consume r.via).register 0 (u64 r.pay 16)).bind fun t => look t.core.sets 0) = some tset),
    ({ advancing 3 with journal := 4096 } : TSet).journal ≠ 0 && !tables.journalThere 4096,
    (let s := (tables (advancing 3)).poison (hbmBase + 65536) 16; s.slotLost (advancing 3) 0 0 none && !tables.slotLost (advancing 3) 0 0 none)].all id = true := by decide +kernel

def journal : Nat := hbmBase + 2 ^ 22
def header : Bytes := let h := pl 60 [(0, 4, journalMagic), (4, 2, 1), (12, 4, 2)]; h ++ leBytes 4 (crc32c h).toNat
def session0 (track : Bool) : Session := { set := 0, table := 0, track, journal }
def reflowing (y : Session) : State := { tables with core := { tables.core with sessions := [y] } }
def kept : State := let s := tables { tset with journal } { table with adopted := true }
  { s with mem := wrN s.mem journal header, core := { s.core with journals := [journal] } }

theorem wit_ReflowSessions : [
    W (reflowStart (fun r s => planField s r.via.mbx r.pay) startPlan) 0
      (pl 48 [(8, 4, 1), (12, 4, 1), (16, 8, hbmBase), (24, 8, journal), (32, 8, 192)]) tables (fun r s =>
      s.reflowTable 0 r.pay = some (tset, table) && s.session 0 false = none && !s.poisoned hbmBase 16 && ((s.consume r.via).register 0 journal).isSome),
    W (reflowStart (fun r s => trackField s r.via.mbx r.pay) startTrack) 0 (pl 48 [(1, 1, 1), (40, 8, hbmBase)]) tables (fun r s =>
      s.reflowTable 0 r.pay = some (tset, table) && s.session 0 true = none),
    (let s := reflowing (session0 false); s.session 0 false = some (session0 false) && s.serving && s.journalThere journal),
    (let y := { session0 false with journal := 0 }; (reflowing y).session 0 false = some y && !(reflowing y).journalThere 0),
    W reflowResume 0 (pl 8 [(0, 8, journal)]) kept (fun _ s => s.journalHeader journal = some header && s.session 0 false = none),
    (let s : State := { kept with core := { kept.core with sessions := [session0 false] } }
     W reflowAbandon 0 (pl 8 [(0, 8, journal)]) s (fun _ s => (s.journalSet journal).isSome && s.session 0 false = some (session0 false))),
    W reflowAbandon 0 (pl 8 [(0, 8, journal)]) tables (fun _ s => s.journalSet journal = none), W reflowQuery 0 (pl 8 []) tables,
    W (reflowStart (fun r s => planField s r.via.mbx r.pay) startPlan) 0
      (pl 48 [(8, 4, 1), (12, 4, 1), (16, 8, hbmBase), (24, 8, journal), (32, 8, 192)]) (reflowing (session0 false)) (fun _ s => (s.session 0 false).isSome),
    W (reflowStart (fun r s => trackField s r.via.mbx r.pay) startTrack) 0 (pl 48 [(1, 1, 1), (40, 8, hbmBase)]) (reflowing (session0 true)) (fun _ s => (s.session 0 true).isSome),
    W reflowAbandon 0 (pl 8 [(0, 8, journal)]) kept (fun _ s => (s.journalSet journal).isSome && s.session 0 false = none),
    W reflowAbandon 0 (pl 8 []) tables (fun _ s => s.trackOf 0 0 = []) && W reflowAbandon 0 (pl 8 []) (reflowing (session0 true)) (fun _ s => s.trackOf 0 0 = [session0 true]),
    W reflowAbandon 0 (pl 8 []) { tables with core := { tables.core with sessions := [session0 true, session0 true] } } (fun _ s => (s.trackOf 0 0).length = 2)].all id = true := by decide +kernel

def onLink (l : PassLink) (s : State := ready) : State := { s with links := [(7, l)] }
def linkSt (st : LinkState) : State := onLink { st }

theorem wit_PassBringUp : [
    ready.servesPeers, ([.backoff, .train, .retrain, .align, .init, .up, .shuttingDown, .disabled] : List LinkState).all (fun t => (linkSt t).plink 7 = { st := t }),
    (List.range 6).all (fun x => let m := ((linkSt .train).plink 7).map; laneOf m 6 ≠ x && spareLane m x ≠ m),
    ((onLink { st := .align, greeted := true }).plink 7).greeted,
    u8 (pl 12 [(0, 1, 5)]) 0 ≠ (linkSt .init).dev.nodeId && !((linkSt .init).plink 7).again && ((linkSt .init).plink 7).reason ≠ 6,
    (let s := linkSt .init; u8 (pl 12 [(0, 1, 5)]) 0 = { s with dev := { s.dev with nodeId := 5 } }.dev.nodeId),
    ((linkSt .align).plink 7).sends, (let l : PassLink := { st := .up, echoes := [(0, 9)] }; look ((onLink l).plink 7).echoes (u32 (zeros 8) 0) = some 9),
    ((onLink { st := .retrain, failed := 2 }).plink 7).failed = 2 && ((onLink { st := .init, reason := 6 }).plink 7).reason = 6,
    (let l : PassLink := { st := .init, echoes := [(0, 9)], trips := List.replicate 7 100 }; (l.trips.length = 7 && look l.echoes 0 = some 9)),
    (let s := onLink { st := .init, greeted := true, trips := List.replicate 8 3, partner := some { node := 5, port := 0, incarnation := 0 } }
     ((s.plink 7).greeted && (s.plink 7).hold = none && decide (8 ≤ (s.plink 7).trips.length))),
    (let l : PassLink := { st := .init, greeted := true, encrypt := true, trips := List.replicate 8 3 }; l.hold ≠ none)].all id = true := by decide +kernel

def waitingChange : FabricChange := { gen := 1, round := 0, bytes := zeros 260, done := dfd }

theorem wit_PassMessages : [
    W passLinkEnable 8 (pl 4 [(0, 1, 7)]) (linkSt .disabled), W passLinkEnable 8 (pl 4 [(0, 1, 7)]) (linkSt .up),
    W passLinkDisable 8 (pl 4 [(0, 1, 7), (1, 1, 1)]) (linkSt .up) (fun _ s => (s.plink 7).st = .up),
    W passLinkDisable 8 (pl 4 [(0, 1, 7)]) (linkSt .disabled), W passLinkQuery 8 (pl 4 [(0, 1, 7)]) ready, W passLinkQuery 8 (pl 4 [(0, 1, 0xFF)]) ready,
    W passScheduleSet 8 (pl 16 [(0, 4, 1), (8, 8, 2 ^ 16)] ++ List.replicate 8 0xFF) running (fun r s =>
      s.fabric.sched = none && decide (s.fabric.schedGen < u32 r.pay 0) && !s.unscheduled (slice r.pay 16 8)),
    W passRouteSet 8 (pl 16 [(0, 4, 1), (4, 8, 2 ^ 16), (12, 1, 1)] ++ List.replicate 256 0xFF) ready (fun r s =>
      s.fabric.routing = none && decide (s.fabric.routeGen < u32 r.pay 0)),
    W passKeySet 8 (pl 48 [(0, 1, 7), (1, 1, 1), (2, 1, 1)]) ready (fun r s => !(s.plink 7).inUse (u8 r.pay 1) && !bit (u8 r.pay 2) 1),
    W passLinkEnable 8 (pl 4 [(0, 1, 7), (1, 1, 1)]) (linkSt .up) (fun r s => (s.plink 7).encrypt ≠ bit (u8 r.pay 1) 0) && W passLinkEnable 8 (pl 4 [(0, 1, 7)]) (linkSt .retired),
    W passLinkEnable 8 (pl 4 [(0, 1, 7)]) (linkSt .shuttingDown) (fun _ s => (s.plink 7).shut.held = none),
    W passLinkEnable 8 (pl 4 [(0, 1, 7)]) (onLink { st := .shuttingDown, shut := { dones := [], held := some (dfd, []) } }),
    W passLinkDisable 8 (pl 4 [(0, 1, 7)]) (onLink { st := .shuttingDown, shut := { dones := [], held := some (dfd, []) } }),
    W passScheduleSet 8 (pl 16 [(0, 4, 1), (8, 8, 2 ^ 16)] ++ List.replicate 8 0xFF) { ready with fabric := { schedGen := 1 } } (fun r s => s.fabric.sched = none && decide (u32 r.pay 0 ≤ s.fabric.schedGen)),
    W passScheduleSet 8 (pl 16 [(0, 4, 1), (8, 8, 2 ^ 16)] ++ List.replicate 8 0xFF) { ready with fabric := { sched := some waitingChange } } (fun _ s => s.fabric.sched.isSome),
    W passRouteSet 8 (pl 16 [(0, 4, 1), (4, 8, 2 ^ 16), (12, 1, 1)] ++ List.replicate 256 0xFF) { ready with fabric := { routeGen := 1 } } (fun r s => decide (u32 r.pay 0 ≤ s.fabric.routeGen)),
    W passRouteSet 8 (pl 16 [(0, 4, 1), (4, 8, 2 ^ 16), (12, 1, 1)] ++ List.replicate 256 0xFF) { ready with fabric := { routing := some waitingChange } } (fun _ s => s.fabric.routing.isSome),
    W passKeySet 8 (pl 48 [(0, 1, 7), (1, 1, 1), (2, 1, 2)]) ready (fun r _ => !bit (u8 r.pay 2) 0)].all id = true := by decide +kernel

def packet (d : Nat) : Packet := { dest := d, src := 0, tag := 0, kind := 5, msg := zeros 16 }
def queued (d : Nat) : Queued := { chan := 0, input := none, packet := packet d, since := 0 }
def frame : Bytes := let f := fit 60 (marker ++ zeros 52); fit 4160 (f ++ leBytes 4 (crc32c (slice f 8 52)).toNat)
def fchange : FabricChange := { gen := 1, round := 0, bytes := zeros 260, done := dfd }
def fabric (f : Fabric) : State := { ready with fabric := f }

theorem wit_PassFrames : [
    (linkSt .up).passUp 7, ((onLink { st := .up, queue := [queued 3] }).plink 7).queue = [queued 3], (queued 0xFFFF).packet.dest = ready.dev.nodeId,
    (queued 3).packet.dest ≠ ready.dev.nodeId && decide ((fabric { hopLimit := 0 }).fabric.hopLimit < (queued 3).packet.hops + 1),
    ((linkSt .up).plink 7).receives && !((linkSt .up).plink 7).encrypt && headerValid (fit 4160 frame) [] && !bit (u16 (fit 4160 frame) 16) 6,
    !((linkSt .align).plink 7).receives, (let t := ((linkSt .up).advanceTo 5).flushOutbox; (t.plink 7).sends),
    (let l : PassLink := { st := .up, unacked := [zeros 1] }; ((onLink l).plink 7).unacked ≠ []),
    (fabric { topology := 1, root := 0xFFFF }).isRoot, decide (fchange.round ≤ (fabric { sched := some fchange }).round),
    (fabric { routing := some fchange }).fabric.routing = some fchange,
    ready.egress 3 = none && ({ linkSt .up with fabric := { (linkSt .up).fabric with routes := some (List.replicate 256 7) } } : State).egress 3 = some 7,
    !headerValid (fit 4160 (frame.set 16 64)) [] && ((onLink { st := .up, encrypt := true }).plink 7).decrypt (fit 4160 frame) = none,
    (let f := fit 60 ((marker ++ zeros 52).set 16 64); let g := fit 4160 (f ++ leBytes 4 (crc32c (slice f 8 52)).toNat)
     headerValid g [] && bit (u16 g 16) 6),
    !((linkSt .disabled).plink 7).sends && (fabric { topology := 1 }).fabric.topology ≠ 0,
    (let s := { onLink { st := .up, partner := some { node := 5, port := 0, incarnation := 0, rootHops := 0 } } with fabric := { topology := 1, root := 3, step := 2, inRun := 16, samples := 2, sum := 10 } }
     !s.isRoot && s.parent = some 7 && decide (2 ≤ s.fabric.step) && decide (16 ≤ s.fabric.inRun)),
    !(fabric { topology := 1, root := 3 }).isRoot && (fabric { topology := 1, root := 3 }).parent = none,
    (let s : State := { ready with time := { ready.time with now := 10 ^ 9 } }; decide (s.fabric.boundary < s.round / 1024)) && decide (ready.round / 1024 ≤ ready.fabric.boundary)].all id = true := by decide +kernel

def access (a n : Nat) (d : Bytes) : Bytes := pl 16 [(4, 4, n), (8, 8, a)] ++ d
def waits (kind : Nat) : State := { running with core := { running.core with
  remote := [(4, { use := .store 1, req := 0, glen := 0, kind, node := 7, sent := 0, tag := 0 })] } }

theorem wit_PassRequests : [
    (let m := access hbmBase 4096 []; running.servesPeers && !accessShort m false && running.peerRange 0 (u64 m 8) (u32 m 4) && !running.poisoned (u64 m 8) (u32 m 4)),
    (let m := access hbmBase 4 (zeros 4); !accessShort m true && running.peerRange 0 (u64 m 8) (u32 m 4)),
    accessShort (access hbmBase 4097 []) false && accessShort (access hbmBase 4 (zeros 3)) true, decide ((zeros 131).length < 132),
    (let m := access hbmBase 4 []; !accessShort m false && !running.peerRange 1 (u64 m 8) (u32 m 4)),
    (let m := 63 :: zeros 131; decide (132 ≤ m.length) && (streams { stream 1 with payload := (stream 1).payload.set 6 0xFF }).pushOk 7 0 (u8 m 0)),
    ((waits 7).remoteOf 7 (u32 (zeros 8) 0) [7]).isSome, ((waits 5).remoteOf 7 (u32 (zeros 8) 0) [5]).isSome,
    running.remoteOf 7 (answerOf 6 (zeros 8)).2 [(answerOf 6 (zeros 8)).1] = none,
    (running.poison hbmBase 4).poisoned hbmBase 4 && (memUnit hbmBase).isSome && memUnit lpdBase ≠ memUnit hbmBase,
    running.pushOk 7 0 63 = false,
    [2, 4, 6, 8].all (fun k => ((waits (k - 1)).remoteOf 7 (answerOf k (zeros 16)).2 [(answerOf k (zeros 16)).1]).isSome),
    (let m := pl 8 [(4, 1, 7)]; ((waits 7).core.remote.find? (fun x => x.2.kind = u8 m 4 && x.2.tag = u32 m 0 && x.2.node = 7)).isSome && running.core.remote = [])].all id = true := by decide +kernel

def ethUp : State := { alone with eth := [(1, { up := true, cfg := pl 72 [(1, 1, 1), (8, 2, 1500), (12, 4, 0x0101A8C0), (24, 8, 0xFE80)] })] }

def target4 : Bytes := leBytes 4 0x0101A8C0

theorem wit_HostAndEthernetLinks : [
    !ready.link.standalone && ready.link.up, (let s : State := { ready with link := { ready.link with pendingVec := [2047] } }
      s.bar0 && s.link.up && decide (2047 ∉ s.link.unmasked) && s.link.pendingVec = [2047]),
    !ready.link.standalone && ready.fwRun && ready.link.up, W hostLinkQuery 8 [] ready, (ethUp.ethPort 1).up && ethUp.firmwareRuns,
    (let s : State := { ethUp with eth := [(1, { cfg := pl 72 [(1, 1, 1)] })] }; !(s.ethPort 1).up && u8 (s.ethPort 1).cfg 1 ≠ 0 && s.dev.everReady),
    W netPortSet 8 (pl 72 [(0, 1, 1), (1, 1, 2), (8, 2, 9216)]) ready,
    slice (ethUp.ethPort 1).cfg 12 4 = leBytes 4 0x0101A8C0 && leNat (leBytes 4 0x0101A8C0) ≠ 0,
    leNat (slice (ethUp.ethPort 1).cfg 24 16) ≠ 0,
    decide (4 ≤ 5) && target4 ≠ slice (ethUp.ethPort 0).cfg 12 4 && ethUp.networkServes && ethUp.hasEth].all id = true := by decide +kernel

def epPay (kind udp : Nat) : Bytes := pl 48 [(2, 1, kind), (3, 1, 1), (6, 2, udp), (8, 2, 16), (10, 1, 3), (11, 1, 16), (44, 1, 3)]
def endpoint (kind : Nat) : Endpoint := { create := epPay kind 5000 }
def scxRa : Context := { scx with create := pl 40 [(4, 1, 1), (6, 2, 32), (9, 1, 64)] }
def netReady (eps : TMap Endpoint := []) : State := let s := withCtx scxRa; { s with
  eth := [(1, { up := true, cfg := zeros 72 })], core := { s.core with eps, reqs := [(0, { request with origin := .net 0 0, ended := true, latch := some (0, 0) })] } }
def pooled : State := { alone with pool := { alone.pool with cfg := some (pl 56 [(12, 1, 1), (40, 8, 2 ^ 30)]) } }

/-- A request over the two-wire bus. -/
def W2 (m : Msg) (p : Bytes) (s : State) (rest : Req → State → Bool := fun _ _ => true) : Bool :=
  let r := { rq m 8 p with via := ⟨8, .twoWire⟩ }
  let t : State := { s with smb := { s.smb with
    requests := [leBytes 2 r.op ++ leBytes 2 r.tag ++ leBytes 2 r.len ++ leBytes 1 r.ver ++ zeros 9 ++ r.pay] } }
  okB m r t && rest r t

theorem wit_NetworkEndpoints : [
    W netEndpointCreate 0 (epPay 0 5000) netReady (fun r s => look s.core.ctxs (ctxKey 0 0) = some scxRa && look s.core.eps 0 = none &&
      (s.ethPort (u8 r.pay 3)).up && scxRa.raCount ≠ 0 && !udpBad 5000 && !s.udpUsed 1 5000),
    W netEndpointCreate 0 (epPay 3 0) netReady (fun r _ => u8 r.pay 2 % 2 = 1),
    W netEndpointDestroy 0 (pl 4 []) (netReady [(0, endpoint 0)]) (fun _ s => look s.core.eps 0 = some (endpoint 0) && s.core.streams = []),
    W netEndpointDestroy 0 (pl 4 [(0, 2, 63)]) netReady, (endpoint 1).rdma && !(endpoint 1).err && decide ({ endpoint 1 with rate := 999999 }.rate < 1000000),
    pooled.pool.cfg ≠ none && !pooled.pool.qpErr, W poolNodeSet 8 (pl 56 [(1, 1, 1)]) ready (fun _ s => !s.link.standalone),
    W2 poolNodeSet (pl 56 [(1, 1, 1)]) alone (fun r s => s.link.standalone && s.ford.rings = [] && bit (u8 r.pay 1) 0),
    W2 poolNodeSet (pl 56 [(12, 1, 1), (40, 8, 4096)]) alone (fun r s => s.link.standalone && s.ford.rings = [] && !bit (u8 r.pay 1) 0),
    W netEndpointDestroy 0 (pl 4 []) (netReady [(0, { endpoint 0 with closing := some dfd })]) (fun _ s => s.core.streams = []),
    W netEndpointDestroy 0 (pl 4 []) (let s := netReady [(0, endpoint 2)]; { s with core := { s.core with streams := [(63, { stream 1 with payload := (stream 1).payload.set 1 2 })] } })
      (fun r s => s.core.streams.any fun x => x.2.st ≠ 0 && x.2.source = 2 && x.2.queue = u16 r.pay 0),
    decide (1000000 ≤ (endpoint 1).rate) && decide (({ pooled.pool with rate := 5 } : Pool).rate < 1000000)].all id = true := by decide +kernel

def netMsg (kind n : Nat) : Bytes := pl 32 [(0, 4, netMagic), (4, 1, 1), (5, 1, kind), (11, 1, n)]
def src0 : Bytes := zeros 16
def managed : State := { ethUp with mgmt := { ethUp.mgmt with port := some 623, cfg := pl 32 [(0, 1, 2)] } }
def mgmtMsg : Bytes := pl 32 [(0, 4, 0x54474D4F), (4, 1, 1), (6, 1, 8)]

/-- A request in one datagram, and an endpoint that holds one. -/
def netReq (op resp : Nat) : NetMsg := { addr := src0, port := 9, bytes := pl 48 [(0, 4, netMagic), (4, 1, 1), (7, 1, resp), (32, 1, op)] }
def sent (m : NetMsg) : State := let s := netReady [(0, { endpoint 0 with buf := [m] })]; { s with core := { s.core with turnValley := 7, reqs := [] } }

theorem wit_Datagrams : [
    (let e := endpoint 0; let s := netReady [(0, e)]; look s.core.eps 0 = some e && decide (e.kind < 2) && (s.ethPort e.port).up && e.closing = none &&
      !e.err && e.accepts src0 && netHeader (netMsg 0 0) 0 && decide (e.buf.length < u16 e.create 8)),
    !netHeader (netMsg 1 0) 0, (let e : Endpoint := { endpoint 0 with create := pl 48 [(3, 1, 1), (8, 2, 16), (32, 1, 128)] }; !e.accepts (1 :: zeros 15)),
    (let e : Endpoint := { endpoint 0 with buf := List.replicate 16 { addr := src0, port := 0, bytes := [] } }; decide (u16 e.create 8 ≤ e.buf.length)),
    (let e := endpoint 2; let b := netMsg 2 8 ++ zeros 1024; decide (2 ≤ e.kind) && e.accepts src0 && netHeader b 2 && decide (b.length = 32 + 128 * u8 b 11)),
    (let s := netReady [(0, endpoint 0)]; (s.core.reqs.find? (fun r => r.2.ended && (match r.2.origin with | .net e _ => e = 0 | .sq _ => false))).isSome),
    managed.link.standalone && managed.mgmt.port ≠ none && managed.dev.everReady && (managed.ethPort 1).up && bit (u8 managed.mgmt.cfg 0) 1,
    inPrefix (u8 managed.mgmt.cfg 6) (fit 16 src0) (slice managed.mgmt.cfg 8 16) && managed.mgmt.kept = [] && decide (managed.mgmtWaiting 8 < 8) &&
      u32 mgmtMsg 0 = 0x54474D4F && u8 mgmtMsg 4 = 1 && u8 mgmtMsg 5 = 0 && decide (u8 mgmtMsg 6 ≤ 8),
    !inPrefix 128 (fit 16 (1 :: zeros 15)) (zeros 16),
    (let s := sent (netReq 1 0xFF); s.admits 0 && s.isNext 0 4096 && s.heldInputs (kindOf (netCmd (netReq 1 0xFF).bytes) 0) 0 0 (netCmd (netReq 1 0xFF).bytes) = []),
    respRefuse (netReq 4 0xFF).bytes [] = none && (respRefuse (netReq 4 0).bytes [zeros 16]).isSome && netBad (netReq 4 0).bytes (netCmd (netReq 4 0).bytes),
    (let e : Endpoint := { endpoint 2 with buf := List.replicate 16 { addr := src0, port := 0, bytes := [] } }; decide (u16 e.create 8 ≤ e.buf.length) && !netHeader (netMsg 1 8) 2),
    (withCtx cx).core.reqs = [] && ((netReady [(0, endpoint 0)]).ethPort 1).up,
    ({ managed with mgmt := { managed.mgmt with kept := [(8, 0, 0, [])] } } : State).mgmt.kept.find? (fun k => k.1 = 8 && k.2.1 = 0 && k.2.2.1 = 0) = some (8, 0, 0, []),
    decide (8 ≤ ({ managed with mgmt := { managed.mgmt with queue := List.replicate 8 { mbx := 8, src := 9, seq := 0, msg := [] } } } : State).mgmtWaiting 8)].all id = true := by decide +kernel

def ringPay : Bytes := pl 32 [(1, 1, 32), (2, 1, 6), (3, 1, 1), (24, 8, 1064960)]
def ring0 : Ring := { create := ringPay }
def rings (x : Ring) (s : State := running) : State := { s with ford := { s.ford with rings := [(0, x)] } }
def shardPay (kind : Nat) : Bytes := pl 32 [(1, 1, kind), (3, 1, 1), (4, 4, 9), (8, 2, 8)]
def job : FordJob := { ring := 0, desc := pl 48 [], src := 0, dst := 0, room := 4096 }
def jobs (j : FordJob) (op : Nat) : State := let s := rings ring0 T; { s with
  ford := { s.ford with jobs := [(0, j)] }, core := { s.core with reqs := [(0, { request with op })] } }

def manyRings : State := { running with ford := { running.ford with rings := (List.range 64).map fun i => (i + 1, ring0) } }
/-- A handle entry that permits the first page of HBM. -/
def page0 : Bytes := leBytes 8 (hbmBase + 7 * 2 ^ 56) ++ leBytes 8 4096

theorem wit_FordCommands : [
    W fordPersonalitySet 8 (pl 4 [(1, 1, 84)]) running (fun r s => s.profile 0 = some prof && s.nextPersonality 0 prof = u8 r.pay 1),
    W fordPersonalitySet 8 (pl 4 [(1, 1, 32)]) (setValley 0 { v0 with profile := some { prof with cynPipes := 0 } }) (fun r s =>
      s.nextPersonality 0 { prof with cynPipes := 0 } ≠ u8 r.pay 1 && s.core.tables = []),
    W fordPersonalitySet 8 (pl 4 [(1, 1, 21)]) ready (fun r s => s.profile (u8 r.pay 0) = none),
    W fordRingCreate 0 ringPay running (fun r s => let x : Ring := { create := r.pay, polledAt := s.now }
      s.ring 0 = none && !s.ringLost x.base x.bytes && s.link.cxlEnabled && bit (u8 r.pay 3) 0),
    W fordRingCreate 0 (ringPay.set 3 0) running (fun r s => let x : Ring := { create := r.pay, polledAt := s.now }; u32 (s.ringRead x.base 16) 0 ≠ 0x44524F46),
    W fordRingDestroy 0 (pl 4 []) (rings ring0) (fun _ s => s.ring 0 = some ring0 && !s.ringLost ring0.base 64),
    W fordRingDestroy 0 (pl 4 [(0, 1, 15)]) running (fun r s => s.ring (u8 r.pay 0) = none),
    W fordShardSet 0 (shardPay 0xFF) running (fun r _ => u8 r.pay 1 = 0xFF),
    W fordShardSet 0 (shardPay 0) (rings ring0) (fun r s => s.ring 0 = some ring0 && !s.shardConflict 0 ring0 r.pay),
    W fordQuery 8 (pl 4 []) (rings ring0), W fordQuery 8 (pl 4 [(0, 1, 127)]) ready,
    [0x20, 0x21, 0x22, 0x23, 0x24].all (fun o => admitsB (· = o) 0 (cmd [(0, 1, o)])),
    (rings ring0 T).ring (u8 (request.fordDesc 0) 0) = some ring0 && !T.isRetired 8 0 && decide (ring0.gen ≠ request.stamp.personality),
    (let s : State := { rings ring0 T with ford := { (rings ring0 T).ford with shards := [(0, shardPay 0)] } }; s.fordShard 0 (request.fordDesc 0) ≠ none),
    (let s := jobs job 0x21; s.ring 0 = some ring0 && job.data = [] && ring0.st = 1 && !ring0.full && ring0.exch = [] && !s.hostWaits hostBase &&
      ring0.place 0 ≠ none && !s.ringLost ring0.base ring0.bytes),
    W fordRingCreate 0 ringPay (rings ring0) (fun _ s => s.ring 0 ≠ none) && W fordRingCreate 0 ringPay manyRings (fun _ s => s.ring 0 = none && s.ford.rings.length = 64),
    W fordRingCreate 0 ringPay { running with link := { running.link with cxlEnabled := false } } (fun _ s => !s.link.standalone && !s.link.cxlEnabled),
    W fordRingCreate 0 (ringPay.set 3 0) { running with mem := wrN [] hostBase (pl 16 [(0, 4, 0x44524F46), (5, 1, 1), (8, 1, 9)]) } (fun r s =>
      let h := s.ringRead ({ create := r.pay } : Ring).base 16; u32 h 0 = 0x44524F46 && u8 h 5 = 1 && u8 h 8 ≠ s.dev.nodeId && !bit (u8 r.pay 3) 0),
    W fordRingDestroy 0 (pl 4 []) (rings { ring0 with st := 2 }) (fun _ s => (s.ring 0).any fun x => x.st = 2 && x.exch = []),
    W fordShardSet 0 (shardPay 0) running (fun _ s => s.ring 0 = none) && W fordShardSet 0 (shardPay 0) (rings { ring0 with st := 2 }),
    W fordQuery 8 (pl 4 [(0, 1, 0xFF)]) (rings ring0) && W fordPersonalitySet 8 (pl 4 [(1, 1, 32)]) running (fun _ s => s.nextPersonality 0 prof ≠ 32 && prof.cynPipes ≠ 0),
    ({ T with flt := { T.flt with retired := [⟨8, 0⟩] } } : State).isRetired 8 0 && !offersFmt 32 9 && T.fordShard 0 (zeros 48) = none,
    (match (rings ring0 T).fordRange request [page0] 0 0 64 false, (rings ring0 T).fordRange request [page0] 0 4096 64 false with | .ok a, .error _ => a = hbmBase | _, _ => false),
    (let s := jobs { job with posted := true } 0x21; (s.fordJobs 0).length = 1 && !s.testing 8 0) && ({ T with flt := { T.flt with tests := [{ unit := ⟨8, 0⟩, running := true }] } } : State).testing 8 0,
    look (jobs job 0x21).ford.jobs 0 = some job && (look (jobs job 0x21).core.reqs 0).isSome].all id = true := by decide +kernel

def entry (l : List (Nat × Nat × Nat)) : Bytes := let e := pl 60 l; e ++ leBytes 4 (crc32c e).toNat
/-- A ring whose next IN entry is this one, on a device that still holds what is given. -/
def coming (l : List (Nat × Nat × Nat)) (x : Ring := ring0) (s : State := tables) : State :=
  let s := rings { x with inProd := 1 } s
  { s with mem := wrN s.mem (hostBase + 8192) (entry ([(1, 1, 1), (3, 1, 32)] ++ l))
           ford := { s.ford with shards := [(0, shardPay 1)] } }
def incoming (l : List (Nat × Nat × Nat)) (s : State) (rest : Ring → Bytes → Bool) : Bool :=
  let t := State.skipBad 0 65536 s
  match t.ring 0, t.inEntry 0 with
  | some x, some e => (s.link.standalone || !s.pwr.d3hot) && !t.ringLost (x.inAt x.inCons) 64 && e = entry ([(1, 1, 1), (3, 1, 32)] ++ l) && rest x e
  | _, _ => false
def inB (l : List (Nat × Nat × Nat)) (rest : Ring → Bytes → State → Bool) (x : Ring := ring0) (s : State := tables) : Bool :=
  incoming l (coming l x s) fun x e => rest x e (coming l x s)
def fresh (x : Ring) (e : Bytes) : Bool := !x.full && !entBad x e
def asked : Exchange := { req := 0, job, op := 1, sent := 0, rspAt := 65536, rspLen := 64 }

theorem wit_FordEntries : [
    (let s := jobs job 0x20; s.polls 0 ring0 && !s.link.standalone && !s.pwr.d3hot && !s.ringLost ring0.base 512),
    (let s : State := { pooled with pool := { pooled.pool with ops := [{ write := false, ring := 0, off := 0, bytes := 4 }] } }; s.pool.ops ≠ [] && !s.pool.qpErr),
    inB [(0, 1, 1), (8, 4, 9)] fun x e t => fresh x e && (t.localTable 0 e).isSome && epochStatus tset (entEpoch e) = none && offers (entGen e) 1 0,
    inB [(0, 1, 3), (8, 4, 9), (24, 4, 2)] fun x e t => fresh x e && (t.localTable 0 e).isSome && epochStatus tset (entEpoch e) = none,
    [1, 3].all fun o => inB [(0, 1, o), (8, 4, 8)] fun x e t => fresh x e && t.localTable 0 e = none,
    inB [(0, 1, 1), (8, 4, 9), (24, 4, 1)] fun x e t => fresh x e && (t.localTable 0 e).isSome && epochStatus tset (entEpoch e) = some 2,
    inB [(0, 1, 1), (8, 4, 9), (24, 4, 3)] fun x e t => fresh x e && (t.localTable 0 e).isSome && epochStatus tset (entEpoch e) = some 3,
    inB [(0, 1, 7)] fun x e t => fresh x e && t.ford.jobs = [],
    inB [(0, 1, 7)] (fun x e t => fresh x e && (t.takeIn 0).ford.jobs = [(0, job)] && u32 job.desc 44 = entTable e) ring0 (jobs job 0x22),
    inB [(0, 1, 5)] fun x _ _ => !x.full,
    inB [(0, 1, 2), (4, 4, 3)] (fun x e t => entOp e = 2 && look x.exch (entXid e) = some asked && !(t.takeIn 0).ringLost asked.rspAt (max 1 asked.rspLen)) { ring0 with exch := [(3, asked)] },
    inB [(0, 1, 8), (4, 4, 3)] fun x e _ => look x.exch (entXid e) = none,
    look ({ ring0 with exch := [(3, asked)] } : Ring).exch 3 = some asked,
    (let there := fun a => rangeAll ((rings ring0 T).populatedFor request.valley request.stamp.bnd) a 64;
      there hbmBase && !there job.dst && decide (64 ≤ job.room) && decide (({ job with room := 0 } : FordJob).room < 64)),
    inB [(0, 1, 1), (3, 1, 84), (8, 4, 9)] fun x e _ => entBad x e,
    inB [(0, 1, 1), (8, 4, 9)] (fun x e t => !entBad x e && (t.localTable 0 e).any fun y => !offers (entGen e) y.2.2.fmt y.2.2.group) ring0
      (tables tset { table with create := (tabPay 0).set 6 7 }),
    inB [(0, 1, 1), (8, 4, 9)] (fun x _ _ => x.full) { ring0 with outProd := 64 },
    inB [(0, 1, 9)] (fun x e _ => !x.full && decide (8 < entOp e)) && inB [(0, 1, 7)] (fun x e t => !entBad x e && x.held.length = 256 && t.ford.jobs = []) { ring0 with held := List.replicate 256 (zeros 64) },
    inB [(0, 1, 4), (4, 4, 3)] (fun x e _ => look x.exch (entXid e) = some asked && entOp e ≠ asked.op + 1) { ring0 with exch := [(3, asked)] },
    (running.poison hostBase 64).ringLost ring0.base 512 && !running.ringLost ring0.base 512,
    (let b := { table with create := (tabPay 0).set 31 8 }; !tables.mapThere { valley := 0, bnd := 0, creek := 0 } b) && tables.mapThere { valley := 0, bnd := 0, creek := 0 } table && decide (table.rows ≤ 64),
    badEntry6 (15 * 2 ^ 60) && isT3 (4 * 2 ^ 60), !badEntry6 (2 ^ 60 + hbmBase) && tierOf (2 ^ 60 + hbmBase) ≠ 0,
    (let e := pl 64 [(0, 1, 7), (12, 4, 1)]; entCount e = u32 (pl 48 [(8, 4, 1)]) 8 && entCount e ≠ u32 (zeros 48) 8),
    asked.op + 1 = 2 && entStatus (pl 64 [(2, 1, 5)]) ≠ 0 && entStatus (zeros 64) = 0].all id = true := by decide +kernel

/-- Canyon context 0, of secret shares, with a pool of two triples; and one of ciphertexts. -/
def ssPay : Bytes := pl 48 [(1, 1, 2), (32, 8, hbmBase + 2 ^ 24), (40, 4, 2)]
def ss : CynCtx := { pay := cynPay ssPay }
def rlwe : CynCtx := { pay := pl 48 [(4, 1, 12), (5, 1, 1), (16, 8, hbmBase + 2 ^ 24), (24, 8, 131200)] }
def withCyn (x : CynCtx) (s : State := T) : State := { s with cyn := { s.cyn with ctxs := [(0, x)] } }
def keyHead (x : CynCtx) : Bytes :=
  let h := pl 60 [(0, 4, 0x594B5943), (4, 1, 1), (6, 1, x.log2), (7, 1, x.limbs), (8, 4, x.crc)]
  h ++ leBytes 4 (crc32c h).toNat

/-- A context that shuts down. -/
def cynEnding (h : Option (Deferred × Bytes)) : State := withCyn { ss with st := 2, shut := { dones := [dfd], held := h } }

theorem wit_CanyonMessages : ([
    W cynCtxEnable 0 ssPay (withCtx cx) (fun r s => s.cynCtx (u8 r.pay 0) = none && u8 r.pay 1 = 2 && u64 r.pay 24 = 0 && s.profile 0 = some prof &&
      prof.cynPipes ≠ 0 && look s.core.ctxs (ctxKey 0 0) = some cx && s.cyn.ctxs = [] && s.inRegion 0 (u64 r.pay 32) 50 && !s.claimed 0 (u64 r.pay 32) 50),
    W cynCtxEnable 0 ssPay (withCyn ss) (fun r s => s.cynCtx 0 = some ss && ss.st = 1 && ss.pay = cynPay r.pay),
    W cynCtxEnable 0 ssPay (withCyn rlwe) (fun r s => s.cynCtx 0 = some rlwe && rlwe.pay ≠ cynPay r.pay),
    W cynCtxDisable 0 (pl 4 []) (withCyn ss) (fun _ s => s.cynCtx 0 = some ss), W cynCtxDisable 0 (pl 4 []) running (fun _ s => s.cynCtx 0 = none),
    (let x := { ss with st := 2, shut := { dones := [dfd], held := none } }; (withCyn x).cynCtx 0 = some x && (withCyn x).cynJobs 0 = []),
    W cynKeyLoad 0 (pl 24 [(1, 1, 1), (8, 8, hbmBase), (16, 8, 65600)]) (withCyn rlwe) (fun r s => rlwe.mode ≠ 2 &&
      s.t1OrHost 0 (u64 r.pay 8) (u64 r.pay 16) && !s.keyBusy 0 1),
    W cynKeyLoad 0 (pl 24 [(2, 1, 1)]) (withCyn rlwe) (fun r _ => bit (u8 r.pay 2) 0),
    (let p := pl 24 [(8, 8, hbmBase), (16, 8, 65600)]; !bit (u8 p 2) 0 && u64 p 16 = keyBytes rlwe.log2 rlwe.limbs && !T.poisoned (u64 p 8) (u64 p 16)),
    (let s := { T with mem := wrN T.mem hbmBase (keyHead rlwe) }; keyGood rlwe (s.bytes hbmBase 64)), !keyGood rlwe (zeros 64),
    W cynTriplesLoad 0 (pl 16 [(4, 4, 1), (8, 8, hbmBase)]) (withCyn ss) (fun r s => s.t1OrHost 0 (u64 r.pay 8) 24 && decide (1 ≤ ss.cap) &&
      s.triple ss ss.loadIdx = 0 && !s.poisoned (u64 r.pay 8) 24), W cynQuery 0 (pl 4 []) (withCyn ss),
    W cynCtxEnable 0 ssPay (cynEnding none) (fun _ s => (s.cynCtx 0).any fun x => x.st ≠ 1 && x.shut.held = none) && W cynCtxEnable 0 ssPay (cynEnding (some (dfd, ssPay))),
    W cynCtxDisable 0 (pl 4 []) (cynEnding none) && W cynCtxDisable 0 (pl 4 []) (cynEnding (some (dfd, ssPay))) && (cynEnding none).cynJobs 0 = [],
    W cynKeyLoad 0 (pl 24 [(1, 1, 1), (8, 8, hbmBase), (16, 8, 65600)]) running (fun _ s => s.cynCtx 0 = none) && W cynKeyLoad 0 (pl 24 [(2, 1, 1)]) (withCyn ss) (fun _ _ => ss.mode = 2),
    W cynTriplesLoad 0 (pl 16 [(4, 4, 3), (8, 8, hbmBase)]) (withCyn ss) (fun r _ => decide (ss.cap < u32 r.pay 4)) && W cynTriplesLoad 0 (pl 16 []) (withCyn rlwe) (fun _ _ => rlwe.mode ≠ 2),
    W cynTriplesLoad 0 (pl 16 [(4, 4, 1), (8, 8, hbmBase)]) ((withCyn ss).poison hbmBase 24) (fun _ s => s.poisoned hbmBase 24),
    W cynQuery 0 (pl 4 []) running (fun _ s => s.cynCtx 0 = none),
    badLimb (2 ^ 12) [0] = some 0 && badLimb (2 ^ 12) [] = none && u64 (cynPay (ssPay.set 24 1)) 24 ≠ 0] : List Bool).all id = true := by decide +kernel

/-- A share operand of one element, and a descriptor of SS_LINEAR that adds a scalar to the share at offset 0 of handle 0
and writes it at offset 128. -/
def shareHdr : Bytes := let h := pl 60 [(0, 4, 0x54435943), (4, 1, 1), (5, 1, 2), (16, 8, 1), (32, 8, 72)]; h ++ leBytes 4 (crc32c h).toNat
def addDesc : Bytes := pl 64 [(1, 1, 2), (24, 8, 128 * 2 ^ 32)]
def page : Bytes := leBytes 8 (hbmBase + 7 * 2 ^ 56) ++ leBytes 8 4096
def operands (h : Bytes) (x : CynCtx := ss) : State := let s := withCyn x; { s with mem := wrN s.mem hbmBase h }
def cynReq : Request := { request with op := 0x2D, inline := addDesc }
def cynJob : CynJob := { valley := 0, ctx := 0, op := 0x2D, desc := addDesc, in0 := hbmBase, in1 := 0, out0 := hbmBase + 128, out1 := 0, hdr0 := shareHdr, hdr1 := [] }
def argsB (s : State) (rest : CynArgs → Bool) : Bool := match s.cynArgs 0x2D cynReq [page] (cynReq.cynDesc 0) with
  | .ok a => rest a
  | .error _ => false
def cynRun (j : CynJob) (s : State := operands shareHdr) : State := { s with
  cyn := { s.cyn with jobs := [(0, j)] }, core := { s.core with reqs := [(0, cynReq)] } }

theorem wit_CanyonCommands : ([
    [0x28, 0x29, 0x2A, 0x2B, 0x2C, 0x2D, 0x2E, 0x2F].all (fun o => admitsB (· = o) 0 (cmd [(0, 1, o)])),
    cynRefuse 0 (operands shareHdr) cynReq = none, cynRefuse 0 T cynReq = some (0x0A, 0),
    argsB (operands shareHdr) fun a => ss.hdrRefuse a.hdr0 = none && !takesIn1 0x2D 2 && ss.fits 0x2D 2 0 a.hdr0 a.hdr1 &&
      (operands shareHdr).tripleRefuse 0 ss 0x2D a.hdr0 = none,
    argsB (operands (zeros 64)) fun a => ss.hdrRefuse a.hdr0 = some 0x16, argsB (operands shareHdr rlwe) fun a => !rlwe.fits 0x2D 2 0 a.hdr0 a.hdr1,
    (let s := cynRun cynJob; cynJob.pipe = none && (s.cynPipes 0).find? (fun p => !s.fenced 9 p) = some 0 && s.cynCtx 0 = some ss),
    (let s := operands shareHdr; let t := (s.fetch 0 cynJob.in0 cynJob.bytes0).fetch 0 cynJob.in1 cynJob.bytes1
     !t.poisoned cynJob.in0 cynJob.bytes0 && !t.poisoned cynJob.in1 cynJob.bytes1 && rangeAll t.populated cynJob.in0 cynJob.bytes0 && cynJob.bytes1 = 0),
    (let j := { cynJob with op := 0x28, pipe := some 0 }; (cynRun j).cynCtx 0 = some ss && !j.dead && j.err = none),
    (let j := { cynJob with op := 0x28, pipe := some 0, err := some 0x17 }; !j.dead && j.err = some 0x17),
    (let s := cynRun { cynJob with pipe := some 0 } T; s.cynCtx 0 = none),
    (match ((operands shareHdr).poison hbmBase 64).cynArgs 0x2D cynReq [page] (cynReq.cynDesc 0) with | .error e => e = 0x17 | .ok _ => false),
    (match (operands shareHdr).cynArgs 0x2D cynReq [] (cynReq.cynDesc 0) with | .error e => e ≠ 0x17 && e ≠ 0x11 | .ok _ => false),
    (operands shareHdr).tripleRefuse 0 ss 0x2E shareHdr ≠ none && (cynRun cynJob).cynHeld cynJob ss = [] && (recalled hbmBase (cynRun cynJob)).cynHeld cynJob ss ≠ [],
    (let s := (cynRun cynJob).poison hbmBase 72; s.poisoned cynJob.in0 cynJob.bytes0) && ({ cynJob with in0 := hbmBase + 2 ^ 50 } : CynJob).places.any (fun a => a.2 ≠ 0 && !rangeAll T.populated a.1 a.2),
    ({ cynJob with dead := true } : CynJob).dead && (look (cynRun cynJob).core.reqs 0).isSome] : List Bool).all id = true := by decide +kernel

/-- A ciphertext at level 0, which RESCALE refuses. -/
def lowHdr : Bytes :=
  let h := pl 60 [(0, 4, 0x54435943), (4, 1, 1), (6, 1, 2), (7, 1, 12), (8, 1, 2), (32, 8, 131136)]
  h ++ leBytes 4 (crc32c h).toNat
def deep : CynCtx := { pay := pl 48 [(4, 1, 12), (5, 1, 2), (16, 8, hbmBase + 2 ^ 24), (24, 8, 2 ^ 20)] }
theorem wit_LevelRefuse : ([
    (match (operands lowHdr deep).cynArgs 0x2B { cynReq with op := 0x2B, inline := pl 64 [(24, 8, 2 ^ 18 * 2 ^ 32)] }
        [leBytes 8 (hbmBase + 7 * 2 ^ 56) ++ leBytes 8 (2 ^ 20)] (pl 64 [(24, 8, 2 ^ 18 * 2 ^ 32)]) with
     | .ok a => deep.mode = 0 && deep.hdrRefuse a.hdr0 = none && deep.fits 0x2B 0 0 a.hdr0 a.hdr1 && levelRefuse 0x2B 0 a.hdr0 a.hdr1 = some 0x0B
     | .error _ => false)] : List Bool).all id = true := by decide +kernel

theorem wit_CombineMultiplies : ([
    (let t : Triple := ⟨5, 2 ^ 64 - 1, 7⟩; let u : Triple := ⟨6, 3, 15⟩; (t.c + u.c : W64) = (t.a + u.a) * (t.b + u.b))] : List Bool).all id = true := by decide +kernel

theorem wit_RescaleDivides : ([
    primeLimb 3 && primeLimb 97, decide (97 % 2 = 1), decide ((-50 : Int) % 97 = 47)] : List Bool).all id = true := by decide +kernel

theorem wit_RegisterWrites : ([
    ready.bar0 && !alone.bar0, decide ((zeros 4).length = 4 ∧ (zeros 8).length = 8)] : List Bool).all id = true := by decide +kernel

def ring (n : Nat) (b : Mbx) : State := { ready with mbx := [(n, b)] }

theorem wit_FullNotificationRing : ([
    ((((ring 8 { ntfProd := 16 }).box 8).ntfProd - ((ring 8 { ntfProd := 16 }).box 8).ntfCons).toNat = 16),
    (let b : Mbx := { ntfProd := 16, ntfCons := 2, heldNtf := [zeros 32], ntfLost := 255 }
     (ring 8 b).box 8 = b && !b.ntfIdxErr && decide ((b.ntfProd - b.ntfCons).toNat + b.heldNtf.length < 16)),
    (let b : Mbx := { ntfProd := 15 }; decide ((b.ntfProd - b.ntfCons).toNat < 16) && !b.ntfIdxErr && b.heldNtf = [])] : List Bool).all id = true := by decide +kernel

def asks (m : Msg) (f : Req → Req) (s : State := ready) : Option (St × Nat) :=
  let r := f (rq m 8 [])
  let t := ask r s
  if (t.nextRaw r.via).map (parseReq r.via) = some r && r.op = m.op then m.check r (t.consume r.via) else none
def busy : State := { ready with mbx := [(8, { deferred := [dfd] })] }

theorem wit_RequestChecks : ([
    asks devIdentify (fun r => { r with len := 4, pay := zeros 4 }) = some (.badLength, 0),
    asks { devIdentify with absent := fun _ _ => true } id = some (.unitAbsent, 0),
    asks { devIdentify with denied := fun _ _ => true } id = some (.denied, 0),
    asks devDrain (fun r => { r with len := 8, pay := zeros 8 }) (inSt .awaitConfig) = some (.notReady, 0),
    asks { devIdentify with notReady := fun _ _ => true } id = some (.notReady, 0),
    asks devIdentify (fun r => { r with tag := 0 }) = some (.badField, 2),
    asks devIdentify (fun r => { r with ver := 2 }) = some (.badField, 6),
    asks { devIdentify with field := fun _ _ => some 0 } id = some (.badField, 16),
    asks devIdentify id busy = some (.conflict, 0)] : List Bool).all id = true := by decide +kernel

theorem wit_QueriesChangeNothing : ([
    W devIdentify 8 [] ready (fun r s => match exec (.devIdentify r.via) s with | .next _ => true | _ => false)] : List Bool).all id = true := by decide +kernel

theorem wit_StepRunsTheFront :
    ({ ready with pending := [.flashCommitDone] }).pending = .flashCommitDone :: [] ∧ ready.pending = [] := ⟨rfl, rfl⟩

/-- For CommandsInOrder, StepKeepsCanonical and StepKeepsIdentity: a step that completes. -/
theorem wit_Steps : step { ready with pending := [.flashCommitDone] } = .next ready := rfl

/-- A state with something in a memory that is canonical. -/
theorem wit_StepKeepsCanonical : (cmd [(0, 1, 4)]).Canonical := by
  constructor
  · decide +kernel
  · decide +kernel
  · decide +kernel
  · decide +kernel
  · decide +kernel
  · intro l h; cases h

/-! ## Ill-formed commands -/

def v9 : Via := ⟨9, .bar0⟩
def line63 : Bytes := zeros 63

theorem test_viaOk_refuses : Instr.wf (.devPing v9) = false ∧ Instr.wf (.devPing ⟨7, .twoWire⟩) = false ∧
  Instr.wf (.devPing ⟨8, .network (2 ^ 144)⟩) = false ∧ Instr.wf (.devPing ⟨8, .twoWire⟩) = true := by decide
theorem test_unitOk_refuses : Instr.wf (.targetedTestStart ⟨0, 0⟩) = false ∧ Instr.wf (.targetedTestStart ⟨16, 0⟩) = false ∧
  Instr.wf (.selftestDone false false [⟨1, 256⟩]) = false := by decide
theorem test_isMbx_refuses : Instr.wf (.mbxDoorbellWrite 9 0) = false := by decide
theorem test_isValley_refuses : Instr.wf (.batchBoundary 8) = false := by decide
theorem test_isGlen_refuses : Instr.wf (.plainChainStart 32) = false := by decide
theorem test_isCreek_refuses : Instr.wf (.creekBagDispatch 64) = false := by decide
theorem test_isGroup_refuses : Instr.wf (.basinWritebackDone (16, [])) = false := by decide
theorem test_isBucket_refuses : Instr.wf (.basinBucketFlip 256) = false := by decide
theorem test_isQueue_refuses : Instr.wf (.launch 4096) = false := by decide
theorem test_isObject_refuses : Instr.wf (.synValueRead (131072, false)) = false := by decide
theorem test_isRing_refuses : Instr.wf (.fordRingPoll 128) = false := by decide
theorem test_isEndpoint_refuses : Instr.wf (.datagramResponseSend 512) = false := by decide
theorem test_isEth_refuses : Instr.wf (.ethPortDown 2) = false := by decide
theorem test_isEngine_refuses : Instr.wf (.headwaterEngineFault 4 none) = false := by decide
theorem test_isPackage_refuses : Instr.wf (.lpddrMr4Poll 8 0 0) = false := by decide
theorem test_isVector_refuses : Instr.wf (.msixVectorUnmask 2048) = false := by decide
theorem test_isPipe_refuses : Instr.wf (.cynOperationComplete 8 false) = false := by decide
theorem test_isNode_refuses : Instr.wf (.epochWaitExpire 256 0) = false := by decide
theorem test_isSet_refuses : Instr.wf (.epochSealStaged 256) = false := by decide
theorem test_isStream_refuses : Instr.wf (.hwtStreamShutdownDone 64) = false := by decide
theorem test_isPin_refuses : Instr.wf (.gpioPadEdge 32 true) = false := by decide
theorem test_isReplica_refuses : Instr.wf (.replicaFault 34) = false := by decide
theorem test_isCore_refuses : Instr.wf (.lockstepMismatch 4) = false := by decide
theorem test_isPair_refuses : Instr.wf (.dapCoreHalt 2) = false := by decide
theorem test_isDomain_refuses : Instr.wf (.ptpDelayRespReceive 0 128 0 0 0) = false := by decide
theorem test_isTransport_refuses : Instr.wf (.ptpAnnounceReceive 0 0 3 0 0 0 0 0 (0, 0) 0) = false := by decide
theorem test_isClass_refuses : Instr.wf (.passPacketForward 0 0 0 0 4 0 0 false []) = false := by decide
theorem test_isByte_refuses : Instr.wf (.passAnswerReceive 0 256 [] false) = false := by decide
theorem test_isUdp_isAddr_refuse : Instr.wf (.requestDatagramReceive 0 (zeros 4) 65536 none) = false ∧
  Instr.wf (.requestDatagramReceive 0 (zeros 5) 0 none) = false := by decide
theorem test_isContext_refuses : Instr.wf (.contextSaveDone 0 128 0) = false := by decide
theorem test_isCyn_refuses : Instr.wf (.cynCtxShutdownDone 64) = false := by decide
theorem test_isReg_isSize_isAddress_refuse : Instr.wf (.threadLoadScratch 0 (0, []) 4 32 0) = false ∧
  Instr.wf (.threadLoadScratch 0 (0, []) 3 0 0) = false ∧ Instr.wf (.threadLoadScratch 0 ((2 ^ 64), []) 4 0 0) = false := by decide
theorem test_isPass_isLaneNo_refuse : Instr.wf (.passTrainLock 8 []) = false ∧ Instr.wf (.passTrainLock 0 [7]) = false := by decide
theorem test_isBlock_isLane_refuse : Instr.wf (.passFrameReceive 0 0 [] 0 [16] (none, none)) = false ∧
  Instr.wf (.passFrameReceive 0 0 [] 0 [] ((some 16), none)) = false := by decide
theorem test_isStack_isPseudo_isLpChannel_refuse : Instr.wf (.memTrainingDone [4] [] [] []) = false ∧
  Instr.wf (.memTrainingDone [] [] [128] []) = false ∧ Instr.wf (.memTrainingDone [] [] [] [32]) = false := by decide
theorem test_isSnoop_isLine_refuse : Instr.wf (.cxlSnoop 0 3 none) = false ∧ Instr.wf (.cxlSnoop 0 2 (some line63)) = false ∧
  Instr.wf (.cxlMemWrite 0 line63 false) = false := by decide
theorem test_isBar0_refuses : Instr.wf (.registerWrite 67108864 ([], false)) = false := by decide
theorem test_isWord_refuses : Instr.wf (.dapMemoryAccess (2 ^ 32) 4 none) = false := by decide
theorem test_isWord64_refuses : Instr.wf (.threadArithmetic 0 0 ((2 ^ 64), none) 0) = false := by decide
theorem test_isCount_refuses : Instr.wf (.syncAcquire 0 0 0 0 0 0) = false ∧ Instr.wf (.syncAcquire 0 0 (2 ^ 32 + 1) 0 0 0) = false := by decide
theorem test_isPaces_refuses : Instr.wf (.paceSample (List.replicate 31 0) 0 0 0 0) = false := by decide
theorem test_isDesc_refuses : Instr.wf (.threadIssue 0 (1#8 :: zeros 31) 0) = false ∧ Instr.wf (.threadIssue 0 (0x10#8 :: zeros 63) 0) = false := by decide
theorem test_isRecord_refuses : Instr.wf (.threadEnqueue 0 line63 0) = false := by decide

/-! ## Effects worked out by hand from the rules named -/

/-- The command completes, in a state of which this holds. -/
def after (c : Instr) (s : State) (p : State → Bool) : Bool := match exec c s with
  | .next t => p t
  | _ => false

/-- The reset of a GPIO latch bit by CLR and its setting by SET (Table 21.14). -/
theorem test_gpio_latch : after (.gpioOutSetWrite 5) ready (fun s => s.gpio.latch = 5 && after (.gpioOutClrWrite 4) s (·.gpio.latch = 1)) = true := by decide +kernel
/-- R371: an add is modulo 2^64. -/
theorem test_sync_add_wraps : after (.synAddWrite 63 2 false) (obj { value := BitVec.ofNat 64 (2 ^ 64 - 1) }) (fun s => (s.obj 63).value = 1) = true := by decide +kernel
/-- R376: the high half alone changes no value. -/
theorem test_sync_high_half : after (.synAddWrite 63 2 true) (obj { value := 7 }) (fun s => (s.obj 63).value = 7 && (s.obj 63).sizeErr) = true := by decide +kernel
/-- R411: 17 commands do not fit a ring of 16. -/
theorem test_doorbell_beyond_ring : after (.cfeSqDoorbellWrite 0 17) (queues (sq 0) cq) (fun s => (look s.core.sqs 0).map (fun q => (q.st, q.err)) = some (2, 1)) = true := by decide +kernel
/-- R694: 5 of 5 records are consumed, and 6 of 5 are not. -/
theorem test_ring_cons : after (.fltRingConsWrite 5) (unread 5) (·.flt.unread = 0) = true ∧
  after (.fltRingConsWrite 6) (unread 5) (fun t => t.flt.unread = 5 && t.flt.consErr) = true := by decide +kernel
/-- R751: THROTTLE_IN asserted is counted. -/
theorem test_throttle_counts : after .throttleInAssert hot (fun s => s.pwr.throttle && s.pwr.throttleEvents = 1) = true := by decide +kernel
/-- R233: serial arithmetic passes from 0xFFFFFFFE to 1. -/
theorem test_epoch_wraps : epochNext 0xFFFFFFFE = 1 ∧ epochPrev 1 = 0xFFFFFFFE ∧ epochAfter 1 0xFFFFFFFE ∧
  epochAfter 0xFFFFFFFE 1 = false := by decide +kernel
/-- R558: sparing lane 2 sends it over lane 6, the rest as they were. -/
theorem test_spare_lane : (List.range 7).map (laneOf (spareLane 0x001AC688 2)) = [0, 1, 6, 3, 4, 5, 2] := by decide +kernel
/-- R653: modulo 97, dropping limb 5: 13 ≡ 3 = −2 centred, and (13 + 2) ÷ 5 = 3. -/
theorem test_rescale : rescaleLimb 97 5 [13] [3] = [3] := by decide +kernel
/-- R658: sizes of a relinearisation key of one limb of 4,096 coefficients. -/
theorem test_key_bytes : keyBytes 12 1 = 65600 := by decide
/-- R211: 64 FP16 elements take 128 bytes, and a row ends with 4 bytes more, rounded up to 16. -/
theorem test_row_stride : rowStride 2 64 = 144 ∧ payloadBytes 8 64 = 66 := by decide
/-- binary16 1.5 is 0x3E00, 2^−24 is 0x0001; E5M2 1.0 is 0x3C. -/
theorem test_formats : fp16.narrow 84 (.fin false 3 2) = 0x3E00 ∧ fp16.narrow 84 (.fin false 1 (2 ^ 24)) = 1 ∧
  e5m2.narrow 84 (.fin false 1 1) = 0x3C ∧ fp16.narrow 84 (.fin false 2049 2048) = 0x3C01 ∧
  fp16.narrow 32 (.fin false 2049 2048) = 0x3C00 ∧ fp16.narrow 21 (.fin false 2049 2048) = 0x3C00 := by decide +kernel
/-- CRC-32C of the string 123456789, its published check value. -/
theorem test_crc32c : crc32c [0x31, 0x32, 0x33, 0x34, 0x35, 0x36, 0x37, 0x38, 0x39] = 0xE3069283 := by decide +kernel
/-- R359: register 0 to 31, an arithmetic result in its register alone. -/
theorem test_arithmetic : after (.threadArithmetic 1 3 (9, none) 4) T (fun s => (look s.core.threads 1).map (fun x => (x.pc, x.regs)) = some (4, [(3, 9)])) = true := by decide +kernel
/-- R595: the link down clears the function's enables. -/
theorem test_link_down : after .hostLinkDlDown ready (fun s => !s.link.up && !s.link.cxlEnabled && s.link.dlDowns = 1) = true := by decide +kernel
/-- R645: one word of two parties' combined product, 20 × 30, with triples of 6 × 7. -/
theorem test_combine : combineWord true ⟨5, 4, 40⟩ (20 - 6) (30 - 7) + combineWord false ⟨1, 3, 2⟩ (20 - 6) (30 - 7) = 600 := by decide +kernel
/-- The worked example of 06: OUT_FMT INT8, OUT_RSCALE 2.0 and OUT_ZERO −2 convert 2.25, as 4.5, to 3, or to 2. -/
theorem test_requantise : satInt 84 (-128) 127 (-2) (.fin false 9 2) = 3 ∧ satInt 32 (-128) 127 (-2) (.fin false 9 2) = 2 ∧
  satInt 21 (-128) 127 (-2) (.fin false 9 2) = 2 := by decide +kernel

end Sys2Proof.Tests
end

section
/-! SUPPORT. The rules of a mailbox's own fields: what a write of one reads back as, and what an interrupt leaves (02). -/
namespace Sys2Proof.Machine
open Sys2Proof

@[simp] theorem State.box_setBox (s : State) (n : Nat) (b : Mbx) : (s.setBox n b).box n = b := by
  simp [State.box, lookD, look_put_self]

@[simp] theorem State.box_updBox (s : State) (n : Nat) (f : Mbx → Mbx) : (s.updBox n f).box n = f (s.box n) :=
  State.box_setBox s n _

@[simp] theorem State.box_msix (s : State) (v n : Nat) : (s.msix v).box n = s.box n := by
  unfold State.msix
  repeat' split
  all_goals rfl

/-- Of its own pair an interrupt changes the cause bits alone (R57). -/
theorem State.box_irq (s : State) (n k : Nat) :
    (s.irq n k).box n = { s.box n with irqStat := (s.box n).irqStat ||| 1 <<< k } := by
  unfold State.irq
  dsimp only
  split <;> simp

end Sys2Proof.Machine
end

section
/-! SUPPORT. The notification ring of a mailbox (R77, R79): when an entry is posted, kept back or dropped, and how much of the
room a run of posted entries takes. -/
namespace Sys2Proof.Machine
open Sys2Proof

/-- The ring takes an entry now and `k` more after it: so much space is free, its consumer index is valid, and nothing kept
back goes first. -/
structure Mbx.NtfRoom (k : Nat) (b : Mbx) : Prop where
  space : (b.ntfProd - b.ntfCons).toNat + k < 16
  valid : b.ntfIdxErr = false
  none_held : b.heldNtf = []

theorem Mbx.not_ntfRoom_of_full {b : Mbx} (k : Nat) (h : (b.ntfProd - b.ntfCons).toNat = 16) : ¬ b.NtfRoom k :=
  fun r => by have := r.space; omega

theorem Mbx.not_ntfRoom_of_idxErr {b : Mbx} (k : Nat) (h : b.ntfIdxErr = true) : ¬ b.NtfRoom k :=
  fun r => by simp [r.valid] at h

theorem Mbx.NtfRoom.mono {j k : Nat} {b : Mbx} (h : b.NtfRoom k) (le : j ≤ k) : b.NtfRoom j :=
  ⟨by have := h.space; omega, h.valid, h.none_held⟩

/-- The test that `State.ntfRing` makes is for room for one entry. -/
theorem Mbx.ntfRoom_zero_iff (b : Mbx) :
    ((b.ntfProd - b.ntfCons).toNat < 16 && !b.ntfIdxErr && b.heldNtf.isEmpty) = true ↔ b.NtfRoom 0 := by
  simp only [Bool.and_eq_true, decide_eq_true_eq, Bool.not_eq_true', List.isEmpty_iff]
  exact ⟨fun ⟨⟨a, c⟩, e⟩ => ⟨a, c, e⟩, fun h => ⟨⟨h.space, h.valid⟩, h.none_held⟩⟩

/-- The test that `State.flushNtf` makes is for a count to post and room for its entry. -/
theorem Mbx.ntfLost_due_iff (b : Mbx) :
    (b.ntfLost > 0 && b.heldNtf.isEmpty && !b.ntfIdxErr && (b.ntfProd - b.ntfCons).toNat < 16) = true ↔
      0 < b.ntfLost ∧ b.NtfRoom 0 := by
  rw [← Mbx.ntfRoom_zero_iff]
  simp only [Bool.and_eq_true, decide_eq_true_eq]
  exact ⟨fun ⟨⟨⟨lost, none_held⟩, valid⟩, space⟩ => ⟨lost, ⟨space, valid⟩, none_held⟩,
    fun ⟨lost, ⟨space, valid⟩, none_held⟩ => ⟨⟨⟨lost, none_held⟩, valid⟩, space⟩⟩

/-- `s` with a notification in the ring's next slot. -/
def State.putNtf (s : State) (n : Nat) (m : Bytes) : State :=
  { s with ram := wrN (zeroN s.ram (ntfSlot n (s.box n)) 64) (ntfSlot n (s.box n)) m }

@[simp] theorem State.box_putNtf (s : State) (n i : Nat) (m : Bytes) : (s.putNtf n m).box i = s.box i := rfl

theorem State.ntfRing_posted {s : State} {n : Nat} (h : (s.box n).NtfRoom 0) (isDone : Bool) (m : Bytes) :
    s.ntfRing n isDone m = ((s.putNtf n m).updBox n fun b => { b with ntfProd := b.ntfProd + 1 }).irq n 1 :=
  if_pos ((Mbx.ntfRoom_zero_iff _).2 h)

theorem State.ntfRing_kept {s : State} {n : Nat} (h : ¬ (s.box n).NtfRoom 0) (m : Bytes) :
    s.ntfRing n true m = s.updBox n fun b => { b with heldNtf := b.heldNtf ++ [m] } :=
  if_neg (mt (Mbx.ntfRoom_zero_iff _).1 h)

theorem State.ntfRing_dropped {s : State} {n : Nat} (h : ¬ (s.box n).NtfRoom 0) (m : Bytes) :
    s.ntfRing n false m = s.updBox n fun b => { b with ntfLost := satAdd 255 b.ntfLost 1 } :=
  if_neg (mt (Mbx.ntfRoom_zero_iff _).1 h)

/-- Of its mailbox a posted entry changes the producer index and the cause bits alone. -/
theorem State.box_ntfRing_posted {s : State} {n : Nat} (h : (s.box n).NtfRoom 0) (isDone : Bool) (m : Bytes) :
    (s.ntfRing n isDone m).box n =
      { s.box n with ntfProd := (s.box n).ntfProd + 1, irqStat := (s.box n).irqStat ||| 1 <<< 1 } := by
  rw [State.ntfRing_posted h, State.box_irq]
  simp

/-- A posted entry takes one place of the room and none of the count of lost ones. -/
theorem State.ntfRing_room {s : State} {n k : Nat} (h : (s.box n).NtfRoom (k + 1)) (isDone : Bool) (m : Bytes) :
    ((s.ntfRing n isDone m).box n).NtfRoom k ∧ ((s.ntfRing n isDone m).box n).ntfLost = (s.box n).ntfLost := by
  rw [State.box_ntfRing_posted (h.mono (Nat.zero_le _))]
  refine ⟨⟨?_, h.valid, h.none_held⟩, rfl⟩
  have space := h.space
  dsimp only
  bv_omega

/-- With room for all of `l` and one entry more, the room for that one is left after `l`. -/
theorem State.ntfRing_foldl_room (n : Nat) (isDone : Bool) (l : List Bytes) {s : State} (h : (s.box n).NtfRoom l.length) :
    ((l.foldl (fun s m => s.ntfRing n isDone m) s).box n).NtfRoom 0 ∧
      ((l.foldl (fun s m => s.ntfRing n isDone m) s).box n).ntfLost = (s.box n).ntfLost := by
  induction l generalizing s with
  | nil => exact ⟨h, rfl⟩
  | cons m l ih =>
    obtain ⟨room, lost⟩ := State.ntfRing_room h isDone m
    obtain ⟨last, same⟩ := ih room
    exact ⟨last, same.trans lost⟩

/-- What was kept back in ring `n` posted anew, from an empty list. -/
def State.postHeld (s : State) (n : Nat) : State :=
  (s.box n).heldNtf.foldl (fun s m => s.ntfRing n true m) (s.updBox n fun b => { b with heldNtf := [] })

/-- Where room is left after what was kept back, NTF_LOST follows with the count of lost entries (R79). -/
theorem State.flushNtf_lost {s : State} {n : Nat} (room : ((s.postHeld n).box n).NtfRoom 0)
    (lost : 0 < ((s.postHeld n).box n).ntfLost) :
    s.flushNtf n = ((s.postHeld n).updBox n fun b => { b with ntfLost := 0 }).ntfRing n false
      (message 0x0082 0 0 0 (leBytes 4 ((s.postHeld n).box n).ntfLost)) :=
  if_pos ((Mbx.ntfLost_due_iff _).2 ⟨lost, room⟩)

end Sys2Proof.Machine
end

section
/-! SUPPORT. Requests that carry no message the device serves: an index error keeps every BAR0 request back (R77), and what is
answered for a slot error and for an opcode that no request may carry (R47, R78). -/
namespace Sys2Proof.Machine
open Sys2Proof

/-- While a request or response index error stands, no request is read from the ring (R77). -/
theorem State.nextRaw_bar0_of_idxErr {s : State} {n : Nat} (h : (s.box n).reqIdxErr ∨ (s.box n).rspIdxErr) :
    s.nextRaw ⟨n, .bar0⟩ = none := by
  have raw : s.rawAt ⟨n, .bar0⟩ = none := by
    rcases h with h | h <;> simp [State.rawAt, h]
  simp [State.nextRaw, raw]

/-- No notification opcode is one that a request may carry. -/
theorem notification_not_mem_requestOpcodes {op : Nat} (lo : 0x0081 ≤ op) (hi : op ≤ 0x0084) : op ∉ requestOpcodes := by
  have apart : ∀ o ∈ requestOpcodes, o < 0x0081 ∨ 0x0084 < o := by decide
  intro h
  have := apart op h
  omega

/-- The status of a request whose opcode no request may carry: steps 1, 2 and 4 of R47. -/
def Req.unlistedStatus (r : Req) : St :=
  if r.op < 0x0081 ∨ 0x0084 < r.op then .badOpcode
  else if r.len % 4 ≠ 0 ∨ 496 < r.len ∨ r.pay.length ≠ r.len then .badLength
  else .denied

theorem exec_badOpcodeRequest_unlisted {r : Req} {s : State} (w : (s.nextRaw r.via).map (parseReq r.via) = some r)
    (o : r.op ∉ requestOpcodes) :
    exec (.badOpcodeRequest r.via) s = .next ((s.consume r.via).respond s r r.unlistedStatus) := by
  change execBadOpcodeRequest r.via s = _
  obtain ⟨raw, h, e⟩ := Option.map_eq_some_iff.1 w
  simp [execBadOpcodeRequest, h, e, o, State.respond, Req.unlistedStatus, or_assoc]

theorem exec_mbxRequestSlotError_next {n : Nat} {s : State} {raw : Bytes} (inHeader : Bool)
    (h : s.nextRaw ⟨n, .bar0⟩ = some raw) :
    exec (.mbxRequestSlotError n inHeader) s = .next
      (((s.error { source := 0, event := 2, cls := 0x0E, unit := n } [{ cls := 0x0E, idx := n }]).consume ⟨n, .bar0⟩).postRsp
        ⟨n, .bar0⟩ 0 (message (if inHeader then 0 else u16 raw 0) (if inHeader then 0 else u16 raw 2)
          St.checkFailed.code 0xFFFFFFFF [])) := by
  change execMbxRequestSlotError n inHeader s = _
  cases inHeader <;> simp [execMbxRequestSlotError, h]

end Sys2Proof.Machine
end

section
/-! SUPPORT. The order of the checks of R47: the status of each, once those before it pass. -/
namespace Sys2Proof.Machine
open Sys2Proof

/-- LENGTH or the payload is not as the message defines it (R45). -/
def Msg.Misfits (m : Msg) (r : Req) : Prop :=
  r.len % 4 ≠ 0 ∨ 496 < r.len ∨ r.pay.length ≠ r.len ∨ m.len r.len r.pay = false

theorem Msg.check_misfit {m : Msg} {r : Req} (s : State) (h : m.Misfits r) : m.check r s = some (.badLength, 0) := by
  refine if_pos ?_
  simpa [Msg.Misfits, or_assoc] using h

/-- Once LENGTH passes, the checks that follow it decide. -/
theorem Msg.check_fits {m : Msg} {r : Req} (s : State) (h : ¬ m.Misfits r) :
    m.check r s =
      if m.absent r s then some (.unitAbsent, 0)
      else if m.refuses r s then some (.denied, 0)
      else ((accepts s.dev.st m.cls m.op).map fun st => (st, 0)).or
        (if m.notReady r s then some (.notReady, 0)
        else if r.tag = 0 then some (.badField, 2)
        else if r.ver ≠ 1 then some (.badField, 6)
        else ((m.field r s).map fun o => (.badField, 16 + o)).or
          (if ∃ d ∈ (s.box r.via.mbx).deferred, d.tag = r.tag ∧ d.via = r.via then some (.conflict, 0) else none)) := by
  have fits : ¬ (r.len % 4 ≠ 0 || r.len > 496 || r.pay.length ≠ r.len || !m.len r.len r.pay) = true := by
    simpa [Msg.Misfits, or_assoc] using h
  unfold Msg.check
  rw [if_neg fits]
  cases accepts s.dev.st m.cls m.op <;> cases m.field r s <;> simp

end Sys2Proof.Machine
end

section
/-! PROOFS. The statements about the mailbox rings and the checks of a request (02). -/
open Sys2Proof Sys2Proof.Machine

/-- Settles O53, by the count of the entries that a run of posted notifications adds to the ring. -/
theorem fullNotificationRing : Obligations.FullNotificationRing := by
  unfold Obligations.FullNotificationRing
  refine ⟨fun n m s full => ?_, fun n k l s _ held lost valid space => ?_, fun n m s _ space valid held isDone => ?_⟩
  · have none_left := Mbx.not_ntfRoom_of_full 0 full
    exact ⟨State.ntfRing_kept none_left m, State.ntfRing_dropped none_left m⟩
  · subst held
    have start : ((s.updBox n fun b => { b with heldNtf := [] }).box n).NtfRoom (s.box n).heldNtf.length := by
      rw [State.box_updBox]
      exact ⟨space, valid, rfl⟩
    obtain ⟨room, same⟩ := State.ntfRing_foldl_room n true _ start
    have count : ((s.postHeld n).box n).ntfLost = k + 1 := same.trans (by simpa using lost)
    rw [State.flushNtf_lost room (by omega), count]
    rfl
  · exact State.ntfRing_posted ⟨space, valid, held⟩ isDone m

/-- Settles O54, along the order of R47: each check decides once those before it pass. -/
theorem requestChecks : Obligations.RequestChecks := by
  unfold Obligations.RequestChecks
  refine ⟨fun m r st d s waits op refused => ?_, fun m r s => ?_⟩
  · rw [serve, serveIf_answer waits op rfl, Msg.answer_refused refused]
  · refine ⟨Msg.check_misfit s, fun fits absent => ?_, fun fits there refused => ?_,
      fun st fits there allowed state => ?_, fun fits there allowed state => ?_⟩
    · simp [Msg.check_fits s fits, absent]
    · simp [Msg.check_fits s fits, there, refused]
    · simp [Msg.check_fits s fits, there, allowed, state]
    · rw [Msg.check_fits s fits]
      simp only [there, allowed, state]
      refine ⟨fun h => ?_, fun ready tag => ?_, fun ready tag ver => ?_, fun o ready tag ver field => ?_,
        fun ready tag ver field held => ?_, fun ready tag ver field free => ?_⟩
      · simp [h]
      · simp [ready, tag]
      · simp [ready, tag, ver]
      · simp [ready, tag, ver, field]
      · simp [ready, tag, ver, field, held]
      · simp [ready, tag, ver, field, free]

/-- Settles O1: each write is its register's definition where BAR0 answers, and an index error stops its ring. -/
theorem mailboxIndexWrites : Obligations.MailboxIndexWrites := by
  unfold Obligations.MailboxIndexWrites
  refine ⟨fun n v s on lt => ?_, fun n v s on lt => ?_, fun n v s on lt => ?_,
    fun n s err => State.nextRaw_bar0_of_idxErr err, fun n m s err => ?_⟩
  · change execMbxDoorbellWrite n v s = _
    simp [execMbxDoorbellWrite, on, lt, State.updBox]
  · change execMbxRspConsWrite n v s = _
    simp [execMbxRspConsWrite, on, lt, State.updBox]
  · change execMbxNtfConsWrite n v s = _
    simp [execMbxNtfConsWrite, on, lt, State.updBox]
  · have stopped := Mbx.not_ntfRoom_of_idxErr 0 err
    exact ⟨State.ntfRing_kept stopped m, State.ntfRing_dropped stopped m⟩

/-- Settles O2: what a slot error and an opcode that no request may carry are answered with. -/
theorem requestsWithoutAMessage : Obligations.RequestsWithoutAMessage := by
  unfold Obligations.RequestsWithoutAMessage
  refine ⟨fun n inHeader s raw next => exec_mbxRequestSlotError_next inHeader next, fun r s waits unlisted out => ?_,
    fun r s waits lo hi quad short whole => ?_⟩
  · have status : r.unlistedStatus = .badOpcode := if_pos out
    rw [← status]
    exact exec_badOpcodeRequest_unlisted waits unlisted
  · have status : r.unlistedStatus = .denied := by
      unfold Req.unlistedStatus
      rw [if_neg (by omega), if_neg (by omega)]
    rw [← status]
    exact exec_badOpcodeRequest_unlisted waits (notification_not_mem_requestOpcodes lo hi)
end

section
/-! SUPPORT. Arithmetic modulo a limb (R640, R653): a number that passes the test of a limb is a prime, the powers and the
inverse that the model computes, and the centred residue. -/
namespace Sys2Proof.Machine
open Sys2Proof

/-- No number tried, up to the square root, divides. -/
theorem not_dvd_of_noDivisor {q : Nat} : ∀ {k d m : Nat},
    noDivisor q k d = true → d ≤ m → m < d + k → m * m ≤ q → ¬ m ∣ q
  | 0, _, _, _, le, lt, _ => by omega
  | k + 1, d, m, h, le, lt, sq => by
    have dd : ¬ q < d * d := fun big => absurd (Nat.mul_le_mul le le) (by omega)
    rw [noDivisor, if_neg dd] at h
    split at h
    · cases h
    next here =>
      rcases Nat.eq_or_lt_of_le le with rfl | more
      · exact fun dvd => here (Nat.mod_eq_zero_of_dvd dvd)
      · exact not_dvd_of_noDivisor h more (by omega) sq

theorem primeLimb_iff {q : Nat} : primeLimb q = true ↔ 2 ≤ q ∧ q < 2 ^ 60 ∧ noDivisor q (2 ^ 30) 2 = true := by
  simp only [primeLimb, Bool.and_eq_true, decide_eq_true_eq, and_assoc]

/-- A prime number. -/
structure PrimeNumber (q : Nat) : Prop where
  two_le : 2 ≤ q
  not_dvd : ∀ m, 2 ≤ m → m < q → ¬ m ∣ q

theorem primeNumber_of_sq_le {q : Nat} (two : 2 ≤ q) (none : ∀ m, 2 ≤ m → m * m ≤ q → ¬ m ∣ q) : PrimeNumber q := by
  refine ⟨two, fun m lo lt dvd => ?_⟩
  obtain ⟨n, rfl⟩ := dvd
  have lo' : 2 ≤ n := by
    rcases n with _ | _ | n <;> omega
  rcases Nat.le_total m n with le | le
  · exact none m lo (Nat.mul_le_mul_left m le) (Nat.dvd_mul_right m n)
  · exact none n lo' (Nat.mul_le_mul_right n le) (Nat.dvd_mul_left n m)

/-- The divisors tried reach the square root of every number below 2^60. -/
theorem primeLimb_prime {q : Nat} (h : primeLimb q = true) : PrimeNumber q := by
  obtain ⟨two, small, none⟩ := primeLimb_iff.1 h
  refine primeNumber_of_sq_le two fun m lo sq => ?_
  have reach : m < 2 ^ 30 := Nat.lt_of_not_le fun big => by
    have := Nat.mul_le_mul big big
    omega
  exact not_dvd_of_noDivisor none lo (Nat.lt_add_left 2 reach) sq

theorem PrimeNumber.coprime_of_not_dvd {q x : Nat} (prime : PrimeNumber q) (unit : ¬ q ∣ x) : Nat.Coprime q x := by
  have left : Nat.gcd q x ∣ q := Nat.gcd_dvd_left q x
  have pos : 0 < q := Nat.lt_of_lt_of_le (by decide) prime.two_le
  have upper : Nat.gcd q x ≠ q := fun same => unit (same ▸ Nat.gcd_dvd_right q x)
  have le := Nat.le_of_dvd pos left
  have lower := Nat.pos_of_dvd_of_pos left pos
  have one : ¬ 2 ≤ Nat.gcd q x := fun lo => prime.not_dvd _ lo (by omega) left
  exact Nat.coprime_iff_gcd_eq_one.2 (by omega)

theorem PrimeNumber.not_dvd_of_ne {p q : Nat} (hp : PrimeNumber p) (hq : PrimeNumber q) (ne : q ≠ p) : ¬ q ∣ p := by
  intro dvd
  have lo := hp.two_le
  have le := Nat.le_of_dvd (by omega) dvd
  exact hp.not_dvd q hq.two_le (by omega) dvd

/-! ## Fermat's little theorem, from core Lean alone: multiplying by a unit permutes the residues that are not zero -/

theorem mod_eq_of_mul_mod_eq_of_le {q p a b : Nat} (cop : Nat.Coprime q p) (le : a ≤ b) (e : p * a % q = p * b % q) :
    a % q = b % q := by
  have whole : q ∣ p * (b - a) := by
    rw [Nat.mul_sub]
    exact Nat.dvd_of_mod_eq_zero (Nat.sub_mod_eq_zero_of_mod_eq e.symm)
  obtain ⟨k, hk⟩ := cop.dvd_of_dvd_mul_left whole
  rw [show b = a + q * k by omega, Nat.add_mul_mod_self_left]

theorem mod_eq_of_mul_mod_eq {q p a b : Nat} (cop : Nat.Coprime q p) (e : p * a % q = p * b % q) : a % q = b % q := by
  rcases Nat.le_total a b with le | le
  · exact mod_eq_of_mul_mod_eq_of_le cop le e
  · exact (mod_eq_of_mul_mod_eq_of_le cop le e.symm).symm

/-- A list without repetition within one that is no longer holds all of it. -/
theorem perm_of_nodup_of_subset : ∀ {l m : List Nat}, l.Nodup → (∀ a ∈ l, a ∈ m) → m.length ≤ l.length → l.Perm m
  | [], m, _, _, len => by
    rw [List.length_eq_zero_iff.1 (Nat.le_zero.1 len)]
  | a :: l, m, nodup, sub, len => by
    obtain ⟨fresh, nodup⟩ := List.nodup_cons.1 nodup
    have mem : a ∈ m := sub a List.mem_cons_self
    have rest : ∀ b ∈ l, b ∈ m.erase a := fun b hb => by
      have ne : b ≠ a := fun same => fresh (same ▸ hb)
      exact (List.mem_erase_of_ne ne).2 (sub b (List.mem_cons_of_mem a hb))
    have shorter : (m.erase a).length ≤ l.length := by
      rw [List.length_erase_of_mem mem]
      rw [List.length_cons] at len
      omega
    exact ((perm_of_nodup_of_subset nodup rest shorter).cons a).trans (List.perm_cons_erase mem).symm

/-- The residues that are not zero. -/
def units (q : Nat) : List Nat := List.range' 1 (q - 1)

theorem mem_units {q i : Nat} : i ∈ units q ↔ 1 ≤ i ∧ i < q := by
  rw [units, List.mem_range'_1]
  omega

theorem PrimeNumber.coprime_of_mem_units {q i : Nat} (prime : PrimeNumber q) (h : i ∈ units q) : Nat.Coprime q i := by
  obtain ⟨lo, hi⟩ := mem_units.1 h
  exact prime.coprime_of_not_dvd (Nat.not_dvd_of_pos_of_lt lo hi)

theorem nodup_map_mul_units {q x : Nat} (cop : Nat.Coprime q x) : ((units q).map fun i => x * i % q).Nodup := by
  have nodup : (units q).Nodup := List.nodup_range' 1
  refine List.pairwise_map.2 (nodup.imp_of_mem fun {a b} ha hb ne same => ne ?_)
  have cancelled := mod_eq_of_mul_mod_eq cop same
  rwa [Nat.mod_eq_of_lt (mem_units.1 ha).2, Nat.mod_eq_of_lt (mem_units.1 hb).2] at cancelled

theorem PrimeNumber.mul_mod_mem_units {q x i : Nat} (prime : PrimeNumber q) (cop : Nat.Coprime q x) (h : i ∈ units q) :
    x * i % q ∈ units q := by
  have two := prime.two_le
  have both : Nat.Coprime q (x * i) := cop.mul_right (prime.coprime_of_mem_units h)
  have nonzero : x * i % q ≠ 0 := fun zero => by
    have := Nat.Coprime.eq_one_of_dvd both (Nat.dvd_of_mod_eq_zero zero)
    omega
  exact mem_units.2 ⟨Nat.pos_of_ne_zero nonzero, Nat.mod_lt _ (by omega)⟩

theorem PrimeNumber.map_mul_units_perm {q x : Nat} (prime : PrimeNumber q) (cop : Nat.Coprime q x) :
    ((units q).map fun i => x * i % q).Perm (units q) := by
  refine perm_of_nodup_of_subset (nodup_map_mul_units cop) (fun a ha => ?_) (Nat.le_of_eq (List.length_map _).symm)
  obtain ⟨i, hi, rfl⟩ := List.mem_map.1 ha
  exact prime.mul_mod_mem_units cop hi

theorem prod_map_mul_mod (q x : Nat) : ∀ l : List Nat,
    (l.map fun i => x * i % q).prod % q = l.prod * x ^ l.length % q
  | [] => by rw [List.map_nil, List.length_nil, Nat.pow_zero, Nat.mul_one]
  | i :: l => by
    have regroup : x * i * (l.prod * x ^ l.length) = i * l.prod * (x ^ l.length * x) := by ac_rfl
    rw [List.map_cons, List.prod_cons, List.prod_cons, List.length_cons, Nat.pow_succ, Nat.mod_mul_mod, ← Nat.mul_mod_mod,
      prod_map_mul_mod q x l, Nat.mul_mod_mod, regroup]

theorem coprime_prod {q : Nat} : ∀ {l : List Nat}, (∀ i ∈ l, Nat.Coprime q i) → Nat.Coprime q l.prod
  | [], _ => Nat.coprime_one_right q
  | i :: l, h => by
    rw [List.prod_cons]
    exact (h i List.mem_cons_self).mul_right (coprime_prod fun j hj => h j (List.mem_cons_of_mem i hj))

theorem PrimeNumber.pow_sub_one_mod {q x : Nat} (prime : PrimeNumber q) (unit : ¬ q ∣ x) : x ^ (q - 1) % q = 1 % q := by
  have cop := prime.coprime_of_not_dvd unit
  refine mod_eq_of_mul_mod_eq (coprime_prod fun i hi => prime.coprime_of_mem_units hi) ?_
  calc (units q).prod * x ^ (q - 1) % q
      = (units q).prod * x ^ (units q).length % q := by rw [units, List.length_range']
    _ = ((units q).map fun i => x * i % q).prod % q := (prod_map_mul_mod q x _).symm
    _ = (units q).prod % q := by rw [(prime.map_mul_units_perm cop).prod_nat]
    _ = (units q).prod * 1 % q := by rw [Nat.mul_one]

/-! ## Powers and the inverse as the model computes them -/

/-- One bit of the exponent, from the highest down: square, and multiply where the bit is set. -/
def powStep (q x e a i : Nat) : Nat := a * a % q * (if bit e (63 - i) then x else 1) % q

theorem powMod_eq_foldl (q x e : Nat) : powMod q x e = (List.range 64).foldl (powStep q x e) (1 % q) := rfl

theorem powStep_pow (q x e n i : Nat) :
    powStep q x e (x ^ n % q) i = x ^ (2 * n + b2n (bit e (63 - i))) % q := by
  unfold powStep b2n
  split
  · rw [← Nat.mul_mod, Nat.mod_mul_mod, Nat.two_mul, Nat.pow_succ, Nat.pow_add]
  · rw [← Nat.mul_mod, Nat.mul_one, Nat.mod_mod, Nat.two_mul, Nat.add_zero, Nat.pow_add]

/-- After `n` of the 64 bits the exponent's `n` highest bits have been used. -/
theorem foldl_powStep (q x e : Nat) (he : e < 2 ^ 64) : ∀ n ≤ 64,
    (List.range n).foldl (powStep q x e) (1 % q) = x ^ (e / 2 ^ (64 - n)) % q
  | 0, _ => by rw [Nat.sub_zero, Nat.div_eq_of_lt he, Nat.pow_zero, List.range_zero, List.foldl_nil]
  | n + 1, le => by
    have halves : e / 2 ^ (64 - n) = e / 2 ^ (63 - n) / 2 := by
      rw [Nat.div_div_eq_div_mul, ← Nat.pow_succ, show (63 - n).succ = 64 - n by omega]
    have low : b2n (bit e (63 - n)) = e / 2 ^ (63 - n) % 2 := by
      unfold bit b2n
      rcases Nat.mod_two_eq_zero_or_one (e / 2 ^ (63 - n)) with h | h <;> rw [h] <;> rfl
    rw [List.range_succ, List.foldl_append, List.foldl_cons, List.foldl_nil, foldl_powStep q x e he n (by omega),
      powStep_pow, low, halves, Nat.div_add_mod, show 64 - (n + 1) = 63 - n by omega]

theorem powMod_eq_pow_mod {e : Nat} (q x : Nat) (he : e < 2 ^ 64) : powMod q x e = x ^ e % q := by
  rw [powMod_eq_foldl, foldl_powStep q x e he 64 (Nat.le_refl 64), Nat.sub_self, Nat.pow_zero, Nat.div_one]

/-- The inverse is one by Fermat's little theorem. -/
theorem invMod_mul_self {q x : Nat} (prime : PrimeNumber q) (small : q < 2 ^ 60) (unit : ¬ q ∣ x) :
    invMod q x * x % q = 1 % q := by
  have two := prime.two_le
  calc invMod q x * x % q
      = x ^ (q - 2) * x % q := by
        rw [invMod, powMod_eq_pow_mod q _ (by omega), ← Nat.pow_mod, Nat.mod_mul_mod]
    _ = x ^ (q - 1) % q := by rw [← Nat.pow_succ, show (q - 2).succ = q - 1 by omega]
    _ = 1 % q := prime.pow_sub_one_mod unit

/-- A centred residue is the residue, less the modulus or not. -/
theorem dvd_sub_centred (q r : Nat) : (q : Int) ∣ r - centred q r := by
  unfold centred
  split
  · exact ⟨0, by omega⟩
  · exact ⟨1, by omega⟩

/-- An odd modulus has no tie. -/
theorem two_mul_natAbs_centred_lt {q r : Nat} (odd : q % 2 = 1) (lt : r < q) : 2 * (centred q r).natAbs < q := by
  unfold centred
  split <;> omega

/-- What RESCALE makes of one coefficient with residue `y` in the limb dropped. -/
def rescaleCoeff (q last x y : Nat) : Nat := (((x : Int) - centred last y) % (q : Int)).toNat * invMod q last % q

theorem rescaleLimb_eq_zipWith (q last : Nat) (c r : List Nat) :
    rescaleLimb q last c r = c.zipWith (rescaleCoeff q last) r := rfl

theorem rescaleCoeff_lt {q : Nat} (pos : 0 < q) (last x y : Nat) : rescaleCoeff q last x y < q := Nat.mod_lt _ pos

theorem rescaleCoeff_mul {q last : Nat} (prime : PrimeNumber q) (small : q < 2 ^ 60) (unit : ¬ q ∣ last) (x y : Nat) :
    ((rescaleCoeff q last x y * last : Nat) : Int) % q = ((x : Int) - centred last y) % q := by
  have two := prime.two_le
  have cancel (t : Nat) : t * invMod q last % q * last % q = t % q := by
    rw [Nat.mod_mul_mod, Nat.mul_assoc, ← Nat.mul_mod_mod, invMod_mul_self prime small unit, Nat.mul_mod_mod, Nat.mul_one]
  rw [rescaleCoeff, ← Int.natCast_emod, cancel, Int.natCast_emod, Int.toNat_of_nonneg (Int.emod_nonneg _ (by omega)),
    Int.emod_emod]

theorem getD_zipWith_of_lt (f : Nat → Nat → Nat) {c r : List Nat} (same : c.length = r.length) {k : Nat}
    (lt : k < c.length) : (c.zipWith f r).getD k 0 = f (c.getD k 0) (r.getD k 0) := by
  have lt' : k < r.length := same ▸ lt
  rw [List.getD_eq_getElem?_getD, List.getD_eq_getElem?_getD, List.getD_eq_getElem?_getD, List.getElem?_zipWith,
    List.getElem?_eq_getElem lt, List.getElem?_eq_getElem lt']
  rfl

end Sys2Proof.Machine
end

section
/-! PROOFS. The statement about RESCALE (17). -/
open Sys2Proof Sys2Proof.Machine

/-- Settles O51: the dropped limb's inverse is Fermat's, and a centred residue is less than half of an odd limb. -/
theorem rescaleDivides : Obligations.RescaleDivides := by
  unfold Obligations.RescaleDivides
  refine ⟨fun q last c r hq hlast ne same => ?_, fun last r c odd lt residue => ?_⟩
  · obtain ⟨two, small, -⟩ := primeLimb_iff.1 hq
    have prime := primeLimb_prime hq
    have unit := (primeLimb_prime hlast).not_dvd_of_ne prime ne
    rw [rescaleLimb_eq_zipWith]
    refine ⟨by rw [List.length_zipWith, ← same, Nat.min_self], fun k hk => ?_⟩
    rw [getD_zipWith_of_lt _ same hk]
    exact ⟨rescaleCoeff_lt (by omega) .., rescaleCoeff_mul prime small unit ..⟩
  · have whole : (last : Int) ∣ c - r := Int.dvd_self_sub_of_emod_eq residue
    obtain ⟨k, hk⟩ : (last : Int) ∣ c - r + (r - centred last r) := Int.dvd_add whole (dvd_sub_centred last r)
    have rest : c - last * k = centred last r := by omega
    exact ⟨k, by omega, rest ▸ two_mul_natAbs_centred_lt odd lt⟩
end

section
/-! SUPPORT. What every command does: it completes, and keeps the fused identity, the waiting commands and canonical memories. -/
namespace Sys2Proof.Machine
open Sys2Proof

theorem execThreadStoreGlobal_next (t addr size src next : Nat) (s : State) :
    ∃ u, execThreadStoreGlobal t addr size src next s = .next u := by
  unfold execThreadStoreGlobal
  split <;> exact ⟨_, rfl⟩

theorem execSyncAdd_next (t : Nat) (ref n : W64) (next : Nat) (s : State) : ∃ u, execSyncAdd t ref n next s = .next u := by
  unfold execSyncAdd
  split <;> exact ⟨_, rfl⟩

/-- No command stops the device. -/
theorem exec_next (i : Instr) (s : State) : ∃ t, exec i s = .next t := by
  cases i with
  | threadStoreGlobal t addr size src next => exact execThreadStoreGlobal_next ..
  | syncAdd t ref n next => exact execSyncAdd_next ..
  | _ => exact ⟨_, rfl⟩

/-- Every command keeps the fused identity, the waiting commands and canonical memories. -/
theorem exec_keeps (i : Instr) (s : State) : KeepsOut s (exec i s) := by
  cases i with
  | pwrokFall => exact execPwrokFall_keeps
  | pwrokRise => exact execPwrokRise_keeps ..
  | resetNAssert => exact execResetNAssert_keeps
  | resetNDeassert => exact execResetNDeassert_keeps ..
  | perstNAssert => exact execPerstNAssert_keeps
  | perstNDeassert => exact execPerstNDeassert_keeps ..
  | pcieHotReset => exact execPcieHotReset_keeps
  | functionLevelReset => exact execFunctionLevelReset_keeps
  | internalResetHoldExpire => exact execInternalResetHoldExpire_keeps ..
  | strapSample => exact execStrapSample_keeps
  | powerLoss => exact execPowerLoss_keeps
  | selftestDone => exact execSelftestDone_keeps ..
  | fwLoadDone => exact execFwLoadDone_keeps ..
  | memTrainingDone => exact execMemTrainingDone_keeps ..
  | pcieConfigRequest => exact execPcieConfigRequest_keeps
  | mbxDoorbellWrite => exact execMbxDoorbellWrite_keeps ..
  | mbxRspConsWrite => exact execMbxRspConsWrite_keeps ..
  | mbxNtfConsWrite => exact execMbxNtfConsWrite_keeps ..
  | mbxRequestSlotError => exact execMbxRequestSlotError_keeps ..
  | badOpcodeRequest => exact execBadOpcodeRequest_keeps ..
  | mbxHeartbeatAdvance => exact execMbxHeartbeatAdvance_keeps
  | heartbeatWatchdogExpire => exact execHeartbeatWatchdogExpire_keeps
  | lockstepMismatch => exact execLockstepMismatch_keeps ..
  | devIdentify => exact execDevIdentify_keeps ..
  | devStatus => exact execDevStatus_keeps ..
  | devPing => exact execDevPing_keeps ..
  | configBegin => exact execConfigBegin_keeps ..
  | configChunk => exact execConfigChunk_keeps ..
  | configCommit => exact execConfigCommit_keeps ..
  | configAbort => exact execConfigAbort_keeps ..
  | configRead => exact execConfigRead_keeps ..
  | configStagingTimeout => exact execConfigStagingTimeout_keeps
  | configCheckDone => exact execConfigCheckDone_keeps
  | devDrain => exact execDevDrain_keeps ..
  | drainComplete => exact execDrainComplete_keeps
  | drainLimitExpire => exact execDrainLimitExpire_keeps
  | devReset => exact execDevReset_keeps ..
  | devResetStart => exact execDevResetStart_keeps
  | paceSample => exact execPaceSample_keeps ..
  | vcoreTargetLower => exact execVcoreTargetLower_keeps
  | ownAdmissionHoldback => exact execOwnAdmissionHoldback_keeps ..
  | holdbackRelease => exact execHoldbackRelease_keeps ..
  | replicaFault => exact execReplicaFault_keeps ..
  | paceLowSet => exact execPaceLowSet_keeps
  | paceLowClear => exact execPaceLowClear_keeps
  | referenceLost => exact execReferenceLost_keeps
  | referenceReturn => exact execReferenceReturn_keeps
  | ptpAnnounceReceive => exact execPtpAnnounceReceive_keeps ..
  | ptpSyncReceive => exact execPtpSyncReceive_keeps ..
  | ptpDelayRespReceive => exact execPtpDelayRespReceive_keeps ..
  | ptpSyncTimeout => exact execPtpSyncTimeout_keeps
  | ppsInEdge => exact execPpsInEdge_keeps ..
  | ppsOutPulse => exact execPpsOutPulse_keeps
  | paceQuery => exact execPaceQuery_keeps ..
  | governorSet => exact execGovernorSet_keeps ..
  | timePtpSet => exact execTimePtpSet_keeps ..
  | timeQuery => exact execTimeQuery_keeps ..
  | paceMinRead => exact execPaceMinRead_keeps
  | paceTimeLoRead => exact execPaceTimeLoRead_keeps
  | paceTimeStatusRead => exact execPaceTimeStatusRead_keeps
  | batchBoundary => exact execBatchBoundary_keeps ..
  | boundaryAutoTimer => exact execBoundaryAutoTimer_keeps ..
  | epochRetainExpire => exact execEpochRetainExpire_keeps ..
  | bsnGroupModeSet => exact execBsnGroupModeSet_keeps ..
  | bsnWaysSet => exact execBsnWaysSet_keeps ..
  | bsnQuery => exact execBsnQuery_keeps ..
  | bsnFlush => exact execBsnFlush_keeps ..
  | bsnFlushDone => exact execBsnFlushDone_keeps ..
  | basinWritebackDone => exact execBasinWritebackDone_keeps ..
  | basinGroupZeroed => exact execBasinGroupZeroed_keeps ..
  | basinBucketFlip => exact execBasinBucketFlip_keeps ..
  | memHostWindowSet => exact execMemHostWindowSet_keeps ..
  | cxlSnoop => exact execCxlSnoop_keeps ..
  | cxlMemRead => exact execCxlMemRead_keeps ..
  | cxlMemWrite => exact execCxlMemWrite_keeps ..
  | cxlBiResponse addr data =>
    have kept := execCxlBiResponse_keeps addr data (s := s)
    exact kept
  | memQuery => exact execMemQuery_keeps ..
  | memChannelRetire => exact execMemChannelRetire_keeps ..
  | memHbmRepairSoft => exact execMemHbmRepairSoft_keeps ..
  | memHbmRepairHard => exact execMemHbmRepairHard_keeps ..
  | memHbmRepairCancelHard => exact execMemHbmRepairCancelHard_keeps ..
  | softRepairDone => exact execSoftRepairDone_keeps ..
  | memoryRefreshTick => exact execMemoryRefreshTick_keeps ..
  | lpddrMr4Poll => exact execLpddrMr4Poll_keeps ..
  | patrolScrubStep => exact execPatrolScrubStep_keeps ..
  | eccCorrectionBurst => exact execEccCorrectionBurst_keeps ..
  | tblSetCreate => exact execTblSetCreate_keeps ..
  | tblSetDestroy => exact execTblSetDestroy_keeps ..
  | tblCreate => exact execTblCreate_keeps ..
  | tblDestroy => exact execTblDestroy_keeps ..
  | tblQuery => exact execTblQuery_keeps ..
  | tblRowmapLoad => exact execTblRowmapLoad_keeps ..
  | creekBagDispatch => exact execCreekBagDispatch_keeps ..
  | creekFetchComplete => exact execCreekFetchComplete_keeps ..
  | creekBagComplete => exact execCreekBagComplete_keeps ..
  | remoteLookupRequest => exact execRemoteLookupRequest_keeps ..
  | epochWaitExpire => exact execEpochWaitExpire_keeps ..
  | remoteLookupResponse => exact execRemoteLookupResponse_keeps ..
  | remoteOperationTimeout => exact execRemoteOperationTimeout_keeps ..
  | hwtStreamOpen => exact execHwtStreamOpen_keeps ..
  | hwtStreamClose => exact execHwtStreamClose_keeps ..
  | hwtStreamShutdownDone => exact execHwtStreamShutdownDone_keeps ..
  | hwtRecordOverwrite => exact execHwtRecordOverwrite_keeps ..
  | hwtRecordAddDelta => exact execHwtRecordAddDelta_keeps ..
  | hwtRecordExport => exact execHwtRecordExport_keeps ..
  | hwtRecordFence => exact execHwtRecordFence_keeps ..
  | headwaterEngineFault => exact execHeadwaterEngineFault_keeps ..
  | epochAdvance => exact execEpochAdvance_keeps ..
  | epochSealStaged => exact execEpochSealStaged_keeps ..
  | epochCatchupDone => exact execEpochCatchupDone_keeps ..
  | epochQuery => exact execEpochQuery_keeps ..
  | reflowStartPlan => exact execReflowStartPlan_keeps ..
  | reflowStartTrack => exact execReflowStartTrack_keeps ..
  | reflowStepCopied => exact execReflowStepCopied_keeps ..
  | reflowResume => exact execReflowResume_keeps ..
  | reflowAbandon => exact execReflowAbandon_keeps ..
  | reflowQuery => exact execReflowQuery_keeps ..
  | plainChainStart => exact execPlainChainStart_keeps ..
  | plainChainComplete => exact execPlainChainComplete_keeps ..
  | checkedChainCompare => exact execCheckedChainCompare_keeps ..
  | weightLoadStart => exact execWeightLoadStart_keeps ..
  | weightLoadComplete => exact execWeightLoadComplete_keeps ..
  | threadLoadScratch => exact execThreadLoadScratch_keeps ..
  | threadStoreScratch => exact execThreadStoreScratch_keeps ..
  | threadLoadGlobal => exact execThreadLoadGlobal_keeps ..
  | globalLoadDataReturn => exact execGlobalLoadDataReturn_keeps ..
  | threadStoreGlobal => exact execThreadStoreGlobal_keeps ..
  | threadIssue => exact execThreadIssue_keeps ..
  | issueQueueSpace => exact execIssueQueueSpace_keeps ..
  | syncRead => exact execSyncRead_keeps ..
  | syncAdd => exact execSyncAdd_keeps ..
  | syncSet => exact execSyncSet_keeps ..
  | syncWaitGe => exact execSyncWaitGe_keeps ..
  | syncAcquire => exact execSyncAcquire_keeps ..
  | syncWaitTimeout => exact execSyncWaitTimeout_keeps ..
  | threadEnqueue => exact execThreadEnqueue_keeps ..
  | fenceLocal => exact execFenceLocal_keeps ..
  | fenceGlobal => exact execFenceGlobal_keeps ..
  | fenceComplete => exact execFenceComplete_keeps ..
  | threadExit => exact execThreadExit_keeps ..
  | threadArithmetic => exact execThreadArithmetic_keeps ..
  | remoteSignalReceive => exact execRemoteSignalReceive_keeps ..
  | remoteSignalAnswer => exact execRemoteSignalAnswer_keeps ..
  | remoteSignalTimeout => exact execRemoteSignalTimeout_keeps ..
  | synAddWrite => exact execSynAddWrite_keeps ..
  | synSetWrite => exact execSynSetWrite_keeps ..
  | synNotifyAtWrite => exact execSynNotifyAtWrite_keeps ..
  | synArmWrite => exact execSynArmWrite_keeps ..
  | syncNotifyPost => exact execSyncNotifyPost_keeps ..
  | synValueRead => exact execSynValueRead_keeps ..
  | synStatusRead => exact execSynStatusRead_keeps ..
  | sqCreate => exact execSqCreate_keeps ..
  | sqDestroy => exact execSqDestroy_keeps ..
  | cqCreate => exact execCqCreate_keeps ..
  | cqDestroy => exact execCqDestroy_keeps ..
  | handleTableSet => exact execHandleTableSet_keeps ..
  | queueQuery => exact execQueueQuery_keeps ..
  | cfeSqDoorbellWrite => exact execCfeSqDoorbellWrite_keeps ..
  | cfeCqHeadWrite => exact execCfeCqHeadWrite_keeps ..
  | cfeCqArmWrite => exact execCfeCqArmWrite_keeps ..
  | cqCoalesceTimer => exact execCqCoalesceTimer_keeps ..
  | cqEntryPost => exact execCqEntryPost_keeps ..
  | launch => exact execLaunch_keeps ..
  | boundary => exact execBoundary_keeps ..
  | signal => exact execSignal_keeps ..
  | nop => exact execNop_keeps ..
  | invalidCommand => exact execInvalidCommand_keeps ..
  | graphStore => exact execGraphStore_keeps ..
  | graphPatchStructural => exact execGraphPatchStructural_keeps ..
  | graphPatchIndirect => exact execGraphPatchIndirect_keeps ..
  | graphPatchSetEntry => exact execGraphPatchSetEntry_keeps ..
  | graphPatchActivate => exact execGraphPatchActivate_keeps ..
  | graphPatchDiscard => exact execGraphPatchDiscard_keeps ..
  | graphRetire => exact execGraphRetire_keeps ..
  | valleyStart => exact execValleyStart_keeps ..
  | valleyStop => exact execValleyStop_keeps ..
  | valleyStopDone => exact execValleyStopDone_keeps ..
  | valleyStopLimitExpire => exact execValleyStopLimitExpire_keeps ..
  | valleyQuery => exact execValleyQuery_keeps ..
  | valleyProfileSet => exact execValleyProfileSet_keeps ..
  | narrowsSet => exact execNarrowsSet_keeps ..
  | ctxCreate => exact execCtxCreate_keeps ..
  | ctxDestroy => exact execCtxDestroy_keeps ..
  | ctxQuery => exact execCtxQuery_keeps ..
  | schedulerTick => exact execSchedulerTick_keeps ..
  | contextSaveDone => exact execContextSaveDone_keeps ..
  | contextRestoreDone => exact execContextRestoreDone_keeps ..
  | passLinkEnable => exact execPassLinkEnable_keeps ..
  | passLinkDisable => exact execPassLinkDisable_keeps ..
  | passDisableDrained => exact execPassDisableDrained_keeps ..
  | passLinkQuery => exact execPassLinkQuery_keeps ..
  | passScheduleSet => exact execPassScheduleSet_keeps ..
  | passRouteSet => exact execPassRouteSet_keeps ..
  | passKeySet => exact execPassKeySet_keeps ..
  | passBackoffExpire => exact execPassBackoffExpire_keeps ..
  | passTrainLock => exact execPassTrainLock_keeps ..
  | passTrainTimeout => exact execPassTrainTimeout_keeps ..
  | passAlignLock => exact execPassAlignLock_keeps ..
  | passLinkInitReceive => exact execPassLinkInitReceive_keeps ..
  | passEchoReceive => exact execPassEchoReceive_keeps ..
  | passEchoAnsReceive => exact execPassEchoAnsReceive_keeps ..
  | passEchoTimer => exact execPassEchoTimer_keeps ..
  | passFrameReceive => exact execPassFrameReceive_keeps ..
  | passMarkerLoss => exact execPassMarkerLoss_keeps ..
  | passFrameTransmit => exact execPassFrameTransmit_keeps ..
  | passReplayTimer => exact execPassReplayTimer_keeps ..
  | passRoundTick => exact execPassRoundTick_keeps
  | passScheduleBoundary => exact execPassScheduleBoundary_keeps
  | passRouteEffective => exact execPassRouteEffective_keeps
  | passPacketForward => exact execPassPacketForward_keeps ..
  | passPacketHoldTimeout => exact execPassPacketHoldTimeout_keeps ..
  | passReadRequest => exact execPassReadRequest_keeps ..
  | passWriteRequest => exact execPassWriteRequest_keeps ..
  | passPushRequest => exact execPassPushRequest_keeps ..
  | passAnswerReceive => exact execPassAnswerReceive_keeps ..
  | requestDatagramReceive => exact execRequestDatagramReceive_keeps ..
  | datagramResponseSend => exact execDatagramResponseSend_keeps ..
  | updateDatagramReceive => exact execUpdateDatagramReceive_keeps ..
  | mgmtDatagramReceive => exact execMgmtDatagramReceive_keeps ..
  | ethControlPacket => exact execEthControlPacket_keeps ..
  | roceCnpReceive => exact execRoceCnpReceive_keeps ..
  | roceRateRecover => exact execRoceRateRecover_keeps ..
  | poolRdmaCompletion => exact execPoolRdmaCompletion_keeps ..
  | poolQpError => exact execPoolQpError_keeps
  | ethPortDown => exact execEthPortDown_keeps ..
  | ethPortUp => exact execEthPortUp_keeps ..
  | hostLinkDlDown => exact execHostLinkDlDown_keeps
  | hostLinkUp => exact execHostLinkUp_keeps ..
  | msixVectorUnmask => exact execMsixVectorUnmask_keeps ..
  | pcieDStateChange => exact execPcieDStateChange_keeps ..
  | netPortSet => exact execNetPortSet_keeps ..
  | netEndpointCreate => exact execNetEndpointCreate_keeps ..
  | netEndpointDestroy => exact execNetEndpointDestroy_keeps ..
  | hostLinkQuery => exact execHostLinkQuery_keeps ..
  | poolNodeSet => exact execPoolNodeSet_keeps ..
  | fordPersonalitySet => exact execFordPersonalitySet_keeps ..
  | fordRingCreate => exact execFordRingCreate_keeps ..
  | fordRingDestroy => exact execFordRingDestroy_keeps ..
  | fordShardSet => exact execFordShardSet_keeps ..
  | fordQuery => exact execFordQuery_keeps ..
  | fordLookup => exact execFordLookup_keeps ..
  | fordVecSend => exact execFordVecSend_keeps ..
  | fordVecRecv => exact execFordVecRecv_keeps ..
  | fordRowPut => exact execFordRowPut_keeps ..
  | fordRowGet => exact execFordRowGet_keeps ..
  | fordRingPoll => exact execFordRingPoll_keeps ..
  | fordInLookup => exact execFordInLookup_keeps ..
  | fordInRowGet => exact execFordInRowGet_keeps ..
  | fordInVec => exact execFordInVec_keeps ..
  | fordInRowPut => exact execFordInRowPut_keeps ..
  | fordInAnswer => exact execFordInAnswer_keeps ..
  | fordExchangeTimeout => exact execFordExchangeTimeout_keeps ..
  | cynCtxEnable => exact execCynCtxEnable_keeps ..
  | cynCtxDisable => exact execCynCtxDisable_keeps ..
  | cynCtxShutdownDone => exact execCynCtxShutdownDone_keeps ..
  | cynKeyLoad => exact execCynKeyLoad_keeps ..
  | cynTriplesLoad => exact execCynTriplesLoad_keeps ..
  | cynQuery => exact execCynQuery_keeps ..
  | cynLinear => exact execCynLinear_keeps ..
  | cynMul => exact execCynMul_keeps ..
  | cynRelin => exact execCynRelin_keeps ..
  | cynRescale => exact execCynRescale_keeps ..
  | cynScore => exact execCynScore_keeps ..
  | cynSsLinear => exact execCynSsLinear_keeps ..
  | cynSsMask => exact execCynSsMask_keeps ..
  | cynSsCombine => exact execCynSsCombine_keeps ..
  | cynOperationStart => exact execCynOperationStart_keeps ..
  | cynOperationComplete => exact execCynOperationComplete_keeps ..
  | faultRecordWrite => exact execFaultRecordWrite_keeps ..
  | targetedTestStart => exact execTargetedTestStart_keeps ..
  | targetedTestDone => exact execTargetedTestDone_keeps ..
  | probationDone => exact execProbationDone_keeps ..
  | testWindowOpen => exact execTestWindowOpen_keeps
  | testWindowClose => exact execTestWindowClose_keeps
  | packTestComplete => exact execPackTestComplete_keeps ..
  | fltRingConsWrite => exact execFltRingConsWrite_keeps ..
  | fltRecordRead => exact execFltRecordRead_keeps ..
  | fltRecordRelease => exact execFltRecordRelease_keeps ..
  | fltCheckedSet => exact execFltCheckedSet_keeps ..
  | fltSelftestRun => exact execFltSelftestRun_keeps ..
  | fltUnitReadmit => exact execFltUnitReadmit_keeps ..
  | fltPackLoad => exact execFltPackLoad_keeps ..
  | fltWindowSet => exact execFltWindowSet_keeps ..
  | fltCperRead => exact execFltCperRead_keeps ..
  | secLifecycleSet => exact execSecLifecycleSet_keeps ..
  | lifecycleReturnDone => exact execLifecycleReturnDone_keeps
  | secOtpRead => exact execSecOtpRead_keeps ..
  | secOtpProgram => exact execSecOtpProgram_keeps ..
  | otpProgramDone => exact execOtpProgramDone_keeps ..
  | secFwUpdateBegin => exact execSecFwUpdateBegin_keeps ..
  | secFwUpdateChunk => exact execSecFwUpdateChunk_keeps ..
  | secFwUpdateCommit => exact execSecFwUpdateCommit_keeps ..
  | flashCommitDone => exact execFlashCommitDone_keeps
  | fwUpdateSessionTimeout => exact execFwUpdateSessionTimeout_keeps
  | secAccessSet => exact execSecAccessSet_keeps ..
  | spdmGetVersion => exact execSpdmGetVersion_keeps s
  | spdmGetCapabilities => exact execSpdmGetCapabilities_keeps s
  | spdmNegotiateAlgorithms => exact execSpdmNegotiateAlgorithms_keeps s
  | spdmGetDigests => exact execSpdmGetDigests_keeps s
  | spdmGetCertificate => exact execSpdmGetCertificate_keeps s
  | spdmChallenge => exact execSpdmChallenge_keeps s
  | spdmGetMeasurements => exact execSpdmGetMeasurements_keeps s
  | pwrStateSet => exact execPwrStateSet_keeps ..
  | pwrQuery => exact execPwrQuery_keeps ..
  | pwrLimitSet => exact execPwrLimitSet_keeps ..
  | powerWindow => exact execPowerWindow_keeps ..
  | throttleInAssert => exact execThrottleInAssert_keeps
  | throttleInRelease => exact execThrottleInRelease_keeps
  | glenGate => exact execGlenGate_keeps ..
  | thermalSupplyFault => exact execThermalSupplyFault_keeps
  | vcoreDeviation => exact execVcoreDeviation_keeps
  | standbyWritebackDone => exact execStandbyWritebackDone_keeps
  | standbySelfRefreshDone => exact execStandbySelfRefreshDone_keeps
  | standbyEntryDone => exact execStandbyEntryDone_keeps
  | standbyWakeVcore => exact execStandbyWakeVcore_keeps
  | standbyWakeMemoryDone => exact execStandbyWakeMemoryDone_keeps
  | standbyWakeDone => exact execStandbyWakeDone_keeps
  | dbgUnlock => exact execDbgUnlock_keeps ..
  | dbgLock => exact execDbgLock_keeps ..
  | dbgTelemetryRead => exact execDbgTelemetryRead_keeps ..
  | debugDurationExpire => exact execDebugDurationExpire_keeps
  | traceTick => exact execTraceTick_keeps
  | tapBypass => exact execTapBypass_keeps
  | tapIdcode => exact execTapIdcode_keeps
  | tapSamplePreload => exact execTapSamplePreload_keeps ..
  | tapExtest => exact execTapExtest_keeps ..
  | tapClamp => exact execTapClamp_keeps
  | tapHighz => exact execTapHighz_keeps
  | dapCoreHalt => exact execDapCoreHalt_keeps ..
  | dapCoreResume => exact execDapCoreResume_keeps ..
  | dapMemoryAccess => exact execDapMemoryAccess_keeps ..
  | gpioOutLatchWrite => exact execGpioOutLatchWrite_keeps ..
  | gpioOutSetWrite => exact execGpioOutSetWrite_keeps ..
  | gpioOutClrWrite => exact execGpioOutClrWrite_keeps ..
  | gpioPadEdge => exact execGpioPadEdge_keeps ..
  | triggerInEdge => exact execTriggerInEdge_keeps ..
  | gpioTrigTimeLoRead => exact execGpioTrigTimeLoRead_keeps
  | ledBlinkTimer => exact execLedBlinkTimer_keeps ..
  | brdGpioSet => exact execBrdGpioSet_keeps ..
  | brdGpioQuery => exact execBrdGpioQuery_keeps ..
  | brdSensorRead => exact execBrdSensorRead_keeps ..
  | brdSmbSet => exact execBrdSmbSet_keeps ..
  | smbDevId => exact execSmbDevId_keeps
  | smbDevCaps => exact execSmbDevCaps_keeps
  | smbStatus => exact execSmbStatus_keeps
  | smbReset => exact execSmbReset_keeps ..
  | smbMctp => exact execSmbMctp_keeps ..
  | mctpArbitrationLost => exact execMctpArbitrationLost_keeps
  | smbMbxWrite => exact execSmbMbxWrite_keeps ..
  | smbMbxRead => exact execSmbMbxRead_keeps
  | smbMbxAdvance => exact execSmbMbxAdvance_keeps ..
  | smbAlertResponse => exact execSmbAlertResponse_keeps
  | smbBusTimeout => exact execSmbBusTimeout_keeps
  | smbErrorsRead => exact execSmbErrorsRead_keeps
  | registerWrite => exact execRegisterWrite_keeps ..
  | passAlignTimeout => exact execPassAlignTimeout_keeps ..
  | channelPowerDown => exact execChannelPowerDown_keeps ..
  | queuePairError => exact execQueuePairError_keeps ..

/-- A step takes the waiting command in front and no other. -/
theorem step_cons {c : Instr} {q : List Instr} {s : State} (h : s.pending = c :: q) :
    ∃ t, step s = .next t ∧ Keeps { s with pending := q } t := by
  obtain ⟨t, done⟩ := exec_next c { s with pending := q }
  exact ⟨t, by rw [step, h]; exact done, (exec_keeps c _).keeps t done⟩

theorem step_nil {s : State} (h : s.pending = []) : step s = .next s := by
  rw [step, h]

/-- A step keeps all but the waiting commands, of which it takes the first, if any. -/
theorem step_keeps {s t : State} (h : step s = .next t) : Keeps { s with pending := s.pending.tail } t := by
  cases waits : s.pending with
  | nil =>
    rw [step_nil waits] at h
    injection h with same
    subst same
    exact ⟨rfl, waits, fun ⟨mem, ram, scratch, lanes, pool, lines⟩ => ⟨mem, ram, scratch, lanes, pool, lines⟩⟩
  | cons c q =>
    obtain ⟨u, done, kept⟩ := step_cons waits
    rw [h] at done
    injection done with same
    exact same ▸ kept

end Sys2Proof.Machine
end

section
/-! PROOFS. The statements about a step and the order of the commands. -/
open Sys2Proof Sys2Proof.Machine

/-- Settles O58: every meaning keeps canonical memories, whatever waits. -/
theorem stepKeepsCanonical : Obligations.StepKeepsCanonical := by
  unfold Obligations.StepKeepsCanonical
  intro s t h ⟨mem, ram, scratch, lanes, pool, lines⟩
  exact (step_keeps h).canonical ⟨mem, ram, scratch, lanes, pool, lines⟩

/-- Settles O59: every meaning keeps the fused identity. -/
theorem stepKeepsIdentity : Obligations.StepKeepsIdentity := by
  unfold Obligations.StepKeepsIdentity
  exact fun s t h => (step_keeps h).ident

/-- Settles O60, by induction on the commands taken: no meaning changes the queue's rest. -/
theorem commandsInOrder : Obligations.CommandsInOrder := by
  unfold Obligations.CommandsInOrder
  intro q
  induction q with
  | nil => exact fun rest s waits => ⟨s, rfl, waits⟩
  | cons c q ih =>
    intro rest s waits
    obtain ⟨t, done, kept⟩ := step_cons waits
    obtain ⟨u, run, left⟩ := ih rest t kept.pending
    refine ⟨u, ?_, left⟩
    rw [List.length_cons, steps, done]
    exact run

/-- Settles O56: the step's own equations, and each command's completion. -/
theorem stepRunsTheFront : Obligations.StepRunsTheFront := by
  unfold Obligations.StepRunsTheFront
  refine ⟨fun c q s waits => ?_, fun s => step_nil, exec_next⟩
  rw [step, waits]
end

section
/-! PROOFS. What the two parties of Beaver's product combine (17). -/
open Sys2Proof Sys2Proof.Machine

/-- Settles O50, by distributing the products in the ring of 64-bit words. -/
theorem combineMultiplies : Obligations.CombineMultiplies := by
  unfold Obligations.CombineMultiplies
  rintro x y _ _ _ t u rfl rfl rfl product
  simp only [combineWord, if_true, Bool.false_eq_true, if_false]
  grind
end

section
/-! SUPPORT. Queries (R49): a message whose meaning draws free values at most changes nothing but what posting changes. -/
namespace Sys2Proof.Machine
open Sys2Proof

/-- An answer at once that leaves the state as it was, but for free values drawn. -/
structure AnswersOnly (s : State) (x : Res) : Prop where
  same : x.s = { s with free := x.s.free }
  now : x.st ≠ .pending
  after : x.after = id

theorem AnswersOnly.okay (s : State) (pay : Bytes) : AnswersOnly s (Res.okay s pay) := ⟨rfl, nofun, rfl⟩

theorem AnswersOnly.fail (s : State) {st : St} (d : Nat) (now : st ≠ .pending) : AnswersOnly s (Res.fail s st d) :=
  ⟨rfl, now, rfl⟩

theorem AnswersOnly.field (s : State) (off : Nat) : AnswersOnly s (Res.field s off) := ⟨rfl, nofun, rfl⟩

/-- A message that only answers. -/
def Msg.Query (m : Msg) : Prop := ∀ r s, AnswersOnly s (m.run r s)

/-- No check of R47 puts a request off. -/
theorem Msg.check_ne_pending {m : Msg} {r : Req} {s : State} {st : St} {d : Nat} (h : m.check r s = some (st, d)) :
    st ≠ .pending := by
  rintro rfl
  unfold Msg.check at h
  repeat' split at h
  all_goals simp_all
  next state => unfold accepts at state; repeat' split at state
                all_goals simp at state

theorem Msg.Query.reply {m : Msg} (q : m.Query) (r : Req) (s : State) : AnswersOnly s (m.reply r s) := by
  have run := q r s
  unfold Msg.reply
  split
  next st d refused => exact .fail s d (Msg.check_ne_pending refused)
  next =>
    split
    · exact .fail s 0 (by decide)
    · simpa [run.now] using run

theorem Posts.setCounters {s t : State} (h : Posts s t) (v : Service) (f : Nat) :
    Posts { s with svc := v, free := f } { t with svc := v, free := f } :=
  { h with svc := rfl, free := rfl }

theorem Msg.Query.answer {m : Msg} (q : m.Query) (r : Req) (s : State) :
    Posts { s with svc := (m.answer r s).svc, free := (m.answer r s).free } (m.answer r s) := by
  obtain ⟨same, -, after⟩ := q.reply r (s.consume r.via)
  have posted : Posts (m.reply r (s.consume r.via)).s (m.answer r s) := by
    unfold Msg.answer
    dsimp only
    rw [after]
    exact State.postRsp_posts ..
  rw [same] at posted
  exact ((State.consume_posts s r.via).setCounters _ _).trans (posted.setCounters _ _)

theorem serve_query {m : Msg} (q : m.Query) {via : Via} {s t : State} (h : serve m via s = .next t) :
    Posts { s with svc := t.svc, free := t.free } t := by
  injection h with h
  split at h
  · subst h
    exact .refl s
  · dsimp only at h
    split at h
    · subst h
      exact q.answer ..
    · subst h
      exact .refl s

theorem devIdentify_query : devIdentify.Query := fun _ _ => .okay ..
theorem devPing_query : devPing.Query := fun _ _ => .okay ..
theorem devStatus_query : devStatus.Query := fun _ _ => .okay ..
theorem paceQuery_query : paceQuery.Query := fun _ _ => .okay ..
theorem timeQuery_query : timeQuery.Query := fun _ _ => .okay ..
theorem brdGpioQuery_query : brdGpioQuery.Query := fun _ _ => .okay ..
theorem brdSensorRead_query : brdSensorRead.Query := fun _ _ => .okay ..
theorem pwrQuery_query : pwrQuery.Query := fun _ _ => .okay ..
theorem bsnQuery_query : bsnQuery.Query := fun _ _ => .okay ..
theorem memQuery_query : memQuery.Query := fun _ _ => .okay ..
theorem fltRecordRead_query : fltRecordRead.Query := fun _ _ => .okay ..
theorem reflowQuery_query : reflowQuery.Query := fun _ _ => .okay ..
theorem ctxQuery_query : ctxQuery.Query := fun _ _ => .okay ..
theorem valleyQuery_query : valleyQuery.Query := fun _ _ => .okay ..
theorem queueQuery_query : queueQuery.Query := fun _ _ => .okay ..
theorem passLinkQuery_query : passLinkQuery.Query := fun _ _ => .okay ..
theorem hostLinkQuery_query : hostLinkQuery.Query := fun _ _ => .okay ..
theorem cynQuery_query : cynQuery.Query := fun _ _ => .okay ..

theorem configRead_query : configRead.Query := by
  intro r s
  dsimp only [configRead]
  split
  · exact .fail s 0 nofun
  · split
    · exact .field ..
    · exact .okay ..

/-- The bytes of another selector are free values, which are drawn. -/
theorem dbgTelemetryRead_query : dbgTelemetryRead.Query := by
  intro r s
  dsimp only [dbgTelemetryRead]
  split
  · exact .fail s 0 nofun
  · split
    · exact .okay ..
    · exact .okay ..
    · split
      · exact .field ..
      · split
        · exact .fail s 0 nofun
        · exact .okay ..
    · exact ⟨rfl, nofun, rfl⟩

theorem fltCperRead_query : fltCperRead.Query := by
  intro r s
  dsimp only [fltCperRead]
  split
  · exact .okay ..
  · exact .fail s 0 nofun

theorem tblQuery_query : tblQuery.Query := by
  intro r s
  dsimp only [tblQuery]
  split
  · exact .fail s 0 nofun
  · split
    · exact .okay ..
    · split
      · exact .okay ..
      · exact .fail s 0 nofun

theorem epochQuery_query : epochQuery.Query := by
  intro r s
  dsimp only [epochQuery]
  split
  · exact .okay ..
  · exact .fail s 0 nofun

theorem fordQuery_query : fordQuery.Query := by
  intro r s
  dsimp only [fordQuery]
  split
  · exact .okay ..
  · split <;> exact .okay ..

end Sys2Proof.Machine
end

section
/-! PROOFS. The statement about queries (R49). -/
open Sys2Proof Sys2Proof.Machine

/-- Settles O55: each of the messages only answers. -/
theorem queriesChangeNothing : Obligations.QueriesChangeNothing := by
  unfold Obligations.QueriesChangeNothing
  intro via c s t mem h
  simp only [List.mem_cons, List.not_mem_nil, or_false] at mem
  rcases mem with rfl | rfl | rfl | rfl | rfl | rfl | rfl | rfl | rfl | rfl | rfl | rfl | rfl | rfl | rfl | rfl | rfl | rfl |
    rfl | rfl | rfl | rfl | rfl | rfl
  · exact serve_query devIdentify_query h
  · exact serve_query devPing_query h
  · exact serve_query devStatus_query h
  · exact serve_query configRead_query h
  · exact serve_query paceQuery_query h
  · exact serve_query timeQuery_query h
  · exact serve_query brdGpioQuery_query h
  · exact serve_query brdSensorRead_query h
  · exact serve_query pwrQuery_query h
  · exact serve_query dbgTelemetryRead_query h
  · exact serve_query bsnQuery_query h
  · exact serve_query memQuery_query h
  · exact serve_query fltRecordRead_query h
  · exact serve_query fltCperRead_query h
  · exact serve_query tblQuery_query h
  · exact serve_query epochQuery_query h
  · exact serve_query reflowQuery_query h
  · exact serve_query ctxQuery_query h
  · exact serve_query valleyQuery_query h
  · exact serve_query queueQuery_query h
  · exact serve_query passLinkQuery_query h
  · exact serve_query hostLinkQuery_query h
  · exact serve_query fordQuery_query h
  · exact serve_query cynQuery_query h
end

section
/-! SUPPORT. What an accepted request's command does, by what its meaning answers; and what acceptance says of the request. -/
namespace Sys2Proof.Machine
open Sys2Proof

section
variable {m : Msg} {r : Req} {s t : State} {st : St} {d : Nat} {pay : Bytes} {after : State → State}

/-- An accepted request that is answered at once, with what follows the answer. -/
theorem serve_then (h : Accepted m r s) (e : m.run r (s.consume r.via) = ⟨t, st, d, pay, after⟩) (now : st ≠ .pending) :
    serve m r.via s = .next (after (t.respond s r st d pay)) := by
  rw [serve_now h (by rw [e]; exact now), e]

theorem serve_okay (h : Accepted m r s) (e : m.run r (s.consume r.via) = Res.okay t pay) :
    serve m r.via s = .next (t.respond s r .ok 0 pay) :=
  serve_then h e nofun

theorem serve_fail (h : Accepted m r s) (e : m.run r (s.consume r.via) = Res.fail t st d) (now : st ≠ .pending) :
    serve m r.via s = .next (t.respond s r st d) :=
  serve_then h e now

/-- An accepted request whose outcome is deferred, with what follows the answer. -/
theorem serve_pending (h : Accepted m r s) (e : m.run r (s.consume r.via) = ⟨t, .pending, d, pay, after⟩) :
    serve m r.via s = .next (after ((t.deferring r).respond s r .pending d pay)) := by
  rw [serve_later h (by rw [e]), e]

theorem serve_pend (h : Accepted m r s) (e : m.run r (s.consume r.via) = Res.pend t) :
    serve m r.via s = .next ((t.deferring r).respond s r .pending) :=
  serve_pending h e

/-- A request that every check of R47 accepts fits its message, is not refused, and comes in a state that takes it. -/
theorem Msg.check_none (h : m.check r s = none) :
    ¬ m.Misfits r ∧ m.absent r s = false ∧ m.refuses r s = false ∧ accepts s.dev.st m.cls m.op = none ∧
      m.notReady r s = false ∧ m.field r s = none := by
  have fits : ¬ m.Misfits r := fun bad => by simp [Msg.check_misfit s bad] at h
  rw [Msg.check_fits s fits] at h
  split at h <;> try contradiction
  next there =>
    split at h <;> try contradiction
    next allowed =>
      cases state : accepts s.dev.st m.cls m.op with
      | some st => simp [state] at h
      | none =>
        simp only [state, Option.map_none, Option.none_or] at h
        split at h <;> try contradiction
        next ready =>
          split at h <;> try contradiction
          split at h <;> try contradiction
          cases field : m.field r s with
          | some o => simp [field] at h
          | none => exact ⟨fits, by simpa using there, by simpa using allowed, rfl, by simpa using ready, rfl⟩

theorem Accepted.fits (h : Accepted m r s) : ¬ m.Misfits r := (Msg.check_none h.checks).1

theorem Accepted.len (h : Accepted m r s) : m.len r.len r.pay = true ∧ r.pay.length = r.len := by
  have fits := h.fits
  simp only [Msg.Misfits, not_or, Bool.not_eq_false, Decidable.not_not] at fits
  exact ⟨fits.2.2.2, fits.2.2.1⟩

theorem Accepted.field (h : Accepted m r s) : m.field r (s.consume r.via) = none := by
  obtain ⟨-, -, -, -, -, field⟩ := Msg.check_none h.checks
  exact field

theorem Accepted.allowed (h : Accepted m r s) : m.refuses r (s.consume r.via) = false := by
  obtain ⟨-, -, allowed, -⟩ := Msg.check_none h.checks
  exact allowed

theorem Accepted.there (h : Accepted m r s) : m.absent r (s.consume r.via) = false := by
  obtain ⟨-, there, -⟩ := Msg.check_none h.checks
  exact there

theorem Accepted.state (h : Accepted m r s) : accepts s.dev.st m.cls m.op = none := by
  obtain ⟨-, -, -, state, -⟩ := Msg.check_none h.checks
  rwa [State.consume_dev] at state

/-- A message of mailbox DM alone comes by mailbox 8. -/
theorem Accepted.mbx_eq (h : Accepted m r s) (dm : m.mark = .dm) : r.via.mbx = 8 := by
  have allowed := h.allowed
  simp only [Msg.refuses, dm, Bool.or_eq_false_iff, bne_eq_false_iff_eq] at allowed
  exact allowed.1.1

/-- A message of the valleys' mailboxes does not come by mailbox 8. -/
theorem Accepted.mbx_ne (h : Accepted m r s) (v : m.mark = .v) : r.via.mbx ≠ 8 := by
  have allowed := h.allowed
  simp only [Msg.refuses, v, Bool.or_eq_false_iff, beq_eq_false_iff_ne] at allowed
  exact allowed.1.1

/-- No role or resource refuses the request (R43). -/
theorem Accepted.denied (h : Accepted m r s) : m.denied r (s.consume r.via) = false := by
  have allowed := h.allowed
  simp only [Msg.refuses, Bool.or_eq_false_iff] at allowed
  exact allowed.2

end

@[simp] theorem State.consume_devId (s : State) (v : Via) : (s.consume v).devId = s.devId := by simp [State.devId]
@[simp] theorem State.consume_devCaps (s : State) (v : Via) : (s.consume v).devCaps = s.devCaps := by simp [State.devCaps]

end Sys2Proof.Machine
end

section
/-! PROOFS. The statement about the device's own queries (02). -/
open Sys2Proof Sys2Proof.Machine

/-- Settles O3: each meaning answers from the state it finds. -/
theorem deviceQueries : Obligations.DeviceQueries := by
  unfold Obligations.DeviceQueries
  refine ⟨fun r s h => ?_, fun r s h => serve_okay h rfl, fun r s h gen inside => ?_, fun r s h => ?_⟩
  · exact serve_okay h (by simp [devIdentify])
  · have some_left : slice s.dev.acceptedImage (448 * u32 r.pay 4) 448 ≠ [] := by
      simp [slice]; omega
    refine serve_okay h ?_
    simp only [configRead, State.consume_dev, gen, ne_eq, not_true, if_false, List.isEmpty_iff, some_left]
    simp [slice]
  · refine ⟨_, serve_okay h rfl, ?_⟩
    simp [leBytes, zeros, slice, State.now]
end

section
/-! SUPPORT. What a reset loses and keeps (R73, R164, R744): its steps before the state begins anew write memory, the Basin,
the free values and chapter 19 alone. -/
namespace Sys2Proof.Machine
open Sys2Proof

/-- What the first steps of a reset leave: all but memory, the Basin, a torn soft repair, free values and the work of
chapter 19 that was under way, which they end. -/
structure Torn (s t : State) : Prop where
  fuse : t.fuse = s.fuse
  rst : t.rst = s.rst
  dev : t.dev = s.dev
  gpio : t.gpio = s.gpio
  smb : t.smb = s.smb
  flt : t.flt = s.flt
  time : t.time = s.time
  ext : { t.ext with softTorn := s.ext.softTorn } = s.ext
  core : t.core = s.core
  pending : t.pending = s.pending
  life : t.sec.life = s.sec.life
  svnFloor : t.sec.svnFloor = s.sec.svnFloor
  otp : s.sec.otpProg = none → t.sec.otp = s.sec.otp ∧ t.sec.otpProg = none

theorem Torn.refl (s : State) : Torn s s := by constructor <;> simp

theorem Torn.trans {a b c : State} (h : Torn a b) (g : Torn b c) : Torn a c where
  fuse := g.fuse.trans h.fuse
  rst := g.rst.trans h.rst
  dev := g.dev.trans h.dev
  gpio := g.gpio.trans h.gpio
  smb := g.smb.trans h.smb
  flt := g.flt.trans h.flt
  time := g.time.trans h.time
  ext := by rw [← h.ext, ← g.ext]
  core := g.core.trans h.core
  pending := g.pending.trans h.pending
  life := g.life.trans h.life
  svnFloor := g.svnFloor.trans h.svnFloor
  otp := fun idle => by
    obtain ⟨same, still⟩ := h.otp idle
    obtain ⟨same', still'⟩ := g.otp still
    exact ⟨same'.trans same, still'⟩

theorem State.stopFlashCommit_torn (s : State) : Torn s s.stopFlashCommit := by
  unfold State.stopFlashCommit
  split
  · exact .refl s
  · constructor <;> simp [State.drawNat]

theorem State.stopOtp_torn (s : State) : Torn s s.stopOtp := by
  unfold State.stopOtp
  split
  · exact .refl s
  · next under => constructor <;> simp [State.drawNat, under]

theorem State.stopReturn_torn (s : State) : Torn s s.stopReturn := by
  unfold State.stopReturn
  split
  · exact .refl s
  · constructor <;> simp [State.drawNat]

theorem State.loseLine_torn (s : State) (l : Nat) : Torn s (s.loseLine l) := by
  unfold State.loseLine
  split
  · constructor <;> simp
  · exact .refl s

theorem State.loseAll_torn (s : State) : Torn s s.loseAll := by
  unfold State.loseAll
  generalize s.basin.lines.map (·.1) = l
  induction l generalizing s with
  | nil => exact .refl s
  | cons x l ih => exact (s.loseLine_torn x).trans (ih _)

theorem State.tearSoft_torn (s : State) : Torn s s.tearSoft := by
  unfold State.tearSoft
  split
  · exact .refl s
  · constructor <;> simp [State.drawNat]

theorem State.stopSecure_torn (s : State) : Torn s s.stopFlashCommit.stopOtp :=
  s.stopFlashCommit_torn.trans (State.stopOtp_torn _)

theorem State.stopAll_torn (s : State) : Torn s s.stopFlashCommit.stopOtp.stopReturn.loseAll.tearSoft :=
  (((s.stopSecure_torn).trans (State.stopReturn_torn _)).trans (State.loseAll_torn _)).trans (State.tearSoft_torn _)

/-- What a cold reset leaves (R73). -/
theorem State.toReset_cold (s : State) : s.toReset true = s.coldReset := by simp [State.toReset]

/-- A warm reset is one where no cold one runs. -/
theorem State.toReset_warm {s : State} (h : ¬ (s.dev.st = .reset ∧ s.rst.cold)) : s.toReset false = s.warmReset := by
  simp only [State.toReset, Bool.false_or, Bool.and_eq_true, decide_eq_true_eq]
  exact if_neg h

theorem State.toReset_st (s : State) (cold : Bool) : (s.toReset cold).dev.st = .reset := by
  unfold State.toReset
  split <;> rfl

theorem State.toReset_internal (s : State) (cold : Bool) : (s.toReset cold).rst.internal = s.rst.internal := by
  unfold State.toReset
  split
  · exact (congrArg Rst.internal s.stopSecure_torn.rst :)
  · exact (congrArg Rst.internal s.stopAll_torn.rst :)

end Sys2Proof.Machine
end

section
/-! PROOFS. The statement about resets (22, 20, 05). -/
open Sys2Proof Sys2Proof.Machine

/-- Settles O5: what a reset keeps is what its first steps leave; what begins one is that command's own definition. -/
theorem resets : Obligations.Resets := by
  unfold Obligations.Resets
  refine ⟨fun s => ?_, fun s warm => ?_, fun s on => ?_, fun s high rails => ?_, fun s high off => ?_,
    fun s high rails known mode => ?_, fun s high noted => ?_, fun s mode up => ?_, fun s mode up fw => ?_,
    fun kind pec s rails good kinds weaker => ?_, fun cold s => ?_, fun r s h => ?_, fun s noted => ?_, fun s noted => ?_⟩
  · obtain ⟨fuse, rst, dev, gpio, smb, flt, time, ext, core, pending, life, svnFloor, otp⟩ := s.stopSecure_torn
    rw [State.toReset_cold]
    exact ⟨rfl, rfl, fuse, rfl, rfl, rfl, rfl, rfl, rfl, rfl, rfl, life, fun idle => (otp idle).1, svnFloor, rfl, rfl,
      (congrArg Gpio.ext gpio :), pending⟩
  · obtain ⟨fuse, rst, dev, gpio, smb, flt, time, ext, core, pending, life, svnFloor, otp⟩ := s.stopAll_torn
    rw [State.toReset_warm warm]
    exact ⟨rfl, rfl, (congrArg (·.now) time :), (congrArg (·.nextSeq) flt :), (congrArg (·.ringCons) flt :),
      (congrArg (·.transient) flt :), (congrArg (·.lasting) flt :), rfl,
      (congrArg (fun f => satAdd 0xFFFFFFFF f.lost f.unwritten) flt :), (congrArg (·.poison) ext :), (congrArg (·.soft) ext :),
      (congrArg (·.hstacks) ext :), (congrArg (·.pcRetired) ext :), (congrArg (·.chRetired) ext :), life,
      fun idle => (otp idle).1, (congrArg (fun c => ({ journals := c.journals } : Core)) core :), rfl, rfl, fuse,
      (congrArg (·.straps) gpio :), (congrArg (·.addrPins) smb :), pending⟩
  · change execPwrokFall s = _
    simp [execPwrokFall, on]
  · change execResetNAssert s = _
    simp_all [execResetNAssert]
  · change execResetNAssert s = _
    simp_all [execResetNAssert]
  · change execPerstNAssert s = _
    simp_all [execPerstNAssert]
  · change execPerstNAssert s = _
    have stays : (s.rst.off || s.rst.first || s.link.standalone) = true := by simpa [or_assoc] using noted
    simp [execPerstNAssert, high, stays]
  · change execPcieHotReset s = _
    simp [execPcieHotReset, mode, up]
  · change execFunctionLevelReset s = _
    simp [execFunctionLevelReset, mode, up, fw]
  · change execSmbReset kind 0xC0DA pec s = _
    have known : (!(kind = 1 || kind = 2)) = false := by rcases kinds with rfl | rfl <;> rfl
    have begins : (s.dev.st = .reset && !(kind = 2 && !s.rst.cold)) = false := by
      rcases weaker with out | ⟨rfl, warm⟩
      · simp [out]
      · simp [warm]
    simp only [execSmbReset, rails, good, known, begins]
    rfl
  · simp [State.internalReset, State.toReset_internal, State.toReset_st]
  · exact serve_okay h (by simp [devReset])
  · change execDevResetStart s = _
    simp [execDevResetStart, noted]
  · change execDevResetStart s = _
    simp [execDevResetStart, noted]
end

section
/-! SUPPORT. The release of reset (R709, R786): the record staged on an empty queue, and entering a state. -/
namespace Sys2Proof.Machine
open Sys2Proof

/-- Entering a state changes the device part, the edges that the pads show and what posting changes alone. -/
theorem State.enter_rst (s : State) (st : DevState) (n : Nat) : (s.enter st n).rst = s.rst := (s.enter_posts st n).rst
theorem State.enter_fuse (s : State) (st : DevState) (n : Nat) : (s.enter st n).fuse = s.fuse := (s.enter_posts st n).fuse
theorem State.enter_mem (s : State) (st : DevState) (n : Nat) : (s.enter st n).mem = s.mem := (s.enter_posts st n).mem
theorem State.enter_flt (s : State) (st : DevState) (n : Nat) : (s.enter st n).flt = s.flt := (s.enter_posts st n).flt
theorem State.enter_dev (s : State) (st : DevState) (reason : Nat) : (s.enter st reason).dev =
    { s.dev with st, prev := s.dev.st, since := s.now, rejectDetail := if st == .configRejected then reason else 0 } :=
  (s.enter_posts st reason).dev

/-- Into an empty queue an event is staged as it is, with the time. -/
theorem State.stage_empty {s : State} (empty : s.flt.staged = []) (e : FaultEv) :
    (s.stage e).1 = { s with flt := { s.flt with staged := [{ e with first := s.now, last := s.now }] } } := by
  have room (p : Prop) [Decidable p] : 0 < if p then 64 else 63 := by split <;> omega
  simp only [State.stage, empty, coalesceAt, List.length_nil, List.nil_append, room, if_true]

theorem State.flushSmb_posts (s : State) : Posts s s.flushSmb := by
  have held := Posts.foldl s.smb.heldNtf (s := { s with smb := { s.smb with heldNtf := [] } })
    (g := fun s m => s.ntfSmb true m) (s0 := s) (by constructor <;> rfl) fun _ _ => State.ntfSmb_posts _ _ _
  unfold State.flushSmb
  dsimp only
  generalize s.smb.heldNtf.foldl _ _ = t at held
  split
  · exact held.trans (.trans (b := { t with smb := { t.smb with ntfLost := 0 } }) (by constructor <;> rfl)
      (State.ntfSmb_posts _ _ _))
  · exact held

theorem State.zeroRings_posts (s : State) : Posts s.clearRings s.zeroRings :=
  Posts.foldl _ (State.flushSmb_posts _) State.flushNtf_posts

/-- FAULT_HOLD at the release leaves what the rings' clearing leaves. -/
theorem State.holdAtStart_frame (s : State) : s.holdAtStart.rst = s.rst ∧ s.holdAtStart.fuse = s.fuse ∧
    s.holdAtStart.mem = s.mem ∧ s.holdAtStart.flt = s.flt ∧ s.holdAtStart.dev.warmLast = s.dev.warmLast ∧
    s.holdAtStart.dev.st = .faultHold := by
  have z := s.zeroRings_posts
  unfold State.holdAtStart
  rw [State.enter_rst, State.enter_fuse, State.enter_mem, State.enter_flt, State.enter_dev]
  have dev : s.zeroRings.dev = s.dev := z.dev
  refine ⟨z.rst, z.fuse, z.mem, z.flt, ?_, rfl⟩
  rw [dev]

theorem State.attachStandalone_advanceTo (s : State) (t : Nat) (strap : Bool) :
    (s.advanceTo t).attachStandalone strap = s.attachStandalone strap := by
  simp [State.attachStandalone, State.isModule, State.hasCxl, State.present, State.devCaps, State.otpValue, State.otpDeciding, State.lastSlot, State.otpSlot]

/-- The strap does not decide on a module, or on a part without CXL. -/
theorem State.attachStandalone_of {s : State} (only : s.isModule ∨ s.hasCxl = false) (strap : Bool) :
    s.attachStandalone strap = true := by
  rcases only with module | none
  · simp [State.attachStandalone, module]
  · simp [State.attachStandalone, none]

/-- The state that the last source's release makes, before its record. -/
def State.releasing (s : State) (f : FuseRead) : State := { s with
  fuse := { s.fuse with checkOk := if s.rst.fused then s.fuse.checkOk else f.capsOk }
  sec := { s.sec with voteCorrected := s.sec.voteCorrected || f.voteSplit, ownerKeyOk := f.keyOk }
  dev := { s.dev with warmLast := !s.rst.cold }
  pace := { s.pace with at_ := s.now }
  rst := { s.rst with strapsDue := true, lost := 0, fused := true } }

/-- The RESET record (R709). -/
def State.resetEvent (s : State) : FaultEv :=
  { kind := 8, source := 0x0A, count := s.rst.lost, syndrome := if s.rst.cold then 2 else 1 }

/-- The last source's release, in RESET. -/
theorem State.unreset_last {s : State} (f : FuseRead) (free : s.heldInReset = false) (rst : s.dev.st = .reset) :
    s.unreset f = if (s.releasing f).fuse.checkOk then ((s.releasing f).stage s.resetEvent).1.enter .selftest 0
      else ((s.releasing f).stage s.resetEvent).1.holdAtStart := by
  have begins : ¬ (s.heldInReset || decide (s.dev.st ≠ .reset)) = true := by simp [free, rst]
  unfold State.unreset
  rw [if_neg begins]
  rfl

/-- Whatever the check code says, the release leaves the parts named. -/
theorem State.unreset_frame {s : State} (f : FuseRead) (free : s.heldInReset = false) (rst : s.dev.st = .reset)
    (empty : s.flt.staged = []) (t : State) (released : s.unreset f = t) :
    t.rst = (s.releasing f).rst ∧ t.fuse = (s.releasing f).fuse ∧ t.mem = s.mem ∧ t.dev.warmLast = !s.rst.cold ∧
    t.dev.st = (if (s.releasing f).fuse.checkOk then .selftest else .faultHold) ∧
    t.flt.staged = [{ s.resetEvent with first := s.now, last := s.now }] := by
  have staged : ((s.releasing f).stage s.resetEvent).1.flt.staged = [{ s.resetEvent with first := s.now, last := s.now }] := by
    rw [State.stage_empty (s := s.releasing f) empty]
    rfl
  have left := State.stage_recorded (s.releasing f) s.resetEvent
  rw [State.unreset_last f free rst] at released
  generalize ((s.releasing f).stage s.resetEvent).1 = u at staged left released
  have warm : u.dev.warmLast = !s.rst.cold := by rw [left.dev]; rfl
  subst released
  split
  · rw [State.enter_rst, State.enter_fuse, State.enter_mem, State.enter_flt, State.enter_dev]
    exact ⟨left.rst, left.fuse, left.mem, warm, rfl, staged⟩
  · obtain ⟨hrst, hfuse, hmem, hflt, hwarm, hst⟩ := u.holdAtStart_frame
    exact ⟨hrst.trans left.rst, hfuse.trans left.fuse, hmem.trans left.mem, hwarm.trans warm, hst, by rw [hflt]; exact staged⟩

end Sys2Proof.Machine
end

section
/-! PROOFS. The statement about the release of reset (22, 00, 21). -/
open Sys2Proof Sys2Proof.Machine

/-- Settles O6: the release is one definition, which each source's command calls. -/
theorem releaseOfReset : Obligations.ReleaseOfReset := by
  unfold Obligations.ReleaseOfReset
  refine ⟨fun f s held => ?_, fun f s free rst empty => ?_, fun f s => rfl, fun f s => rfl, fun f s => rfl,
    fun f s held cold => ?_, fun f s held warm => ?_, fun s => ?_, fun s due out settled => ?_, fun strap s only => ?_⟩
  · simp [State.unreset, held]
  · obtain ⟨hrst, hfuse, hmem, hwarm, hst, hstaged⟩ := State.unreset_frame f free rst empty _ rfl
    refine ⟨by rw [hrst]; rfl, by rw [hrst]; rfl, by rw [hfuse]; rfl, hmem, hwarm, hst, fun bad => ?_, _, by rw [hstaged]; exact .head _, rfl, rfl, rfl⟩
    exact if_neg (by rw [hfuse]; exact Bool.eq_false_iff.1 bad)
  · obtain ⟨k, held⟩ := Option.isSome_iff_exists.1 held
    change execInternalResetHoldExpire f s = _
    simp [execInternalResetHoldExpire, held, cold]
  · obtain ⟨k, held⟩ := Option.isSome_iff_exists.1 held
    change execInternalResetHoldExpire f s = _
    simp [execInternalResetHoldExpire, held, warm]
  · obtain ⟨t, done⟩ := exec_next .powerLoss s
    refine ⟨t, done, ?_⟩
    have kept := (exec_keeps .powerLoss s).keeps t done
    change execPowerLoss s = _ at done
    injection done with done
    subst done
    refine ⟨rfl, rfl, rfl, rfl, rfl, rfl, ?_, kept.pending⟩
    exact List.forall_mem_map.2 fun _ _ => rfl
  · change execStrapSample s = _
    have stays (strap : Bool) : (s.rst.first && !(s.advanceTo (s.dev.since + 5000)).attachStandalone strap && !s.rst.perstN) = false := by
      rcases settled with known | module | none | high
      · simp [known]
      · simp [State.attachStandalone_advanceTo, State.attachStandalone_of (.inl module)]
      · simp [State.attachStandalone_advanceTo, State.attachStandalone_of (.inr none)]
      · simp [high]
    simp [execStrapSample, due, out, stays]
  · exact State.attachStandalone_of only strap
end

section
/-! SUPPORT. What accesses to memory can change: memory and the Basin, external memory but for its training and its
self-refresh, what recording and posting change, and READY turned into DEGRADED where a channel is retired (R194). -/
namespace Sys2Proof.Machine
open Sys2Proof

/-- `t` is `s` but for memory, the Basin, external memory, counters, the device state, pad edges, recording and posting. -/
structure MemoryOnly (s t : State) : Prop where
  fuse : t.fuse = s.fuse
  rst : t.rst = s.rst
  svc : t.svc = s.svc
  tap : t.tap = s.tap
  sec : t.sec = s.sec
  time : t.time = s.time
  pace : t.pace = s.pace
  valleys : t.valleys = s.valleys
  drainSt : t.drainSt = s.drainSt
  core : t.core = s.core
  links : t.links = s.links
  fabric : t.fabric = s.fabric
  eth : t.eth = s.eth
  pool : t.pool = s.pool
  ford : t.ford = s.ford
  cyn : t.cyn = s.cyn
  free : t.free = s.free
  pending : t.pending = s.pending
  link : { t.link with pendingVec := s.link.pendingVec } = s.link
  pwr : { t.pwr with counters := s.pwr.counters } = s.pwr
  dev : { t.dev with st := s.dev.st, prev := s.dev.prev, since := s.dev.since, rejectDetail := s.dev.rejectDetail } = s.dev
  gpio : { t.gpio with edge := s.gpio.edge } = s.gpio
  training : t.ext.training = s.ext.training
  selfRefresh : t.ext.selfRefresh = s.ext.selfRefresh

theorem Recorded.memoryOnly {s t : State} (h : Recorded s t) : MemoryOnly s t :=
  { h with pwr := by rw [h.pwr], dev := by rw [h.dev], gpio := by rw [h.gpio], training := by rw [h.ext], selfRefresh := by rw [h.ext] }

theorem Posts.memoryOnly {s t : State} (h : Posts s t) : MemoryOnly s t := h.recorded.memoryOnly

theorem MemoryOnly.refl (s : State) : MemoryOnly s s := (Posts.refl s).memoryOnly

theorem MemoryOnly.trans {a b c : State} (h : MemoryOnly a b) (g : MemoryOnly b c) : MemoryOnly a c where
  fuse := g.fuse.trans h.fuse
  rst := g.rst.trans h.rst
  svc := g.svc.trans h.svc
  tap := g.tap.trans h.tap
  sec := g.sec.trans h.sec
  time := g.time.trans h.time
  pace := g.pace.trans h.pace
  valleys := g.valleys.trans h.valleys
  drainSt := g.drainSt.trans h.drainSt
  core := g.core.trans h.core
  links := g.links.trans h.links
  fabric := g.fabric.trans h.fabric
  eth := g.eth.trans h.eth
  pool := g.pool.trans h.pool
  ford := g.ford.trans h.ford
  cyn := g.cyn.trans h.cyn
  free := g.free.trans h.free
  pending := g.pending.trans h.pending
  link := by rw [← h.link, ← g.link]
  pwr := by rw [← h.pwr, ← g.pwr]
  dev := by rw [← h.dev, ← g.dev]
  gpio := by rw [← h.gpio, ← g.gpio]
  training := g.training.trans h.training
  selfRefresh := g.selfRefresh.trans h.selfRefresh

theorem MemoryOnly.foldl {α : Type} {s0 s : State} {g : State → α → State} (l : List α) (h : MemoryOnly s0 s)
    (hg : ∀ t x, MemoryOnly t (g t x)) : MemoryOnly s0 (l.foldl g s) := by
  induction l generalizing s with
  | nil => exact h
  | cons x l ih => exact ih (h.trans (hg s x))

theorem MemoryOnly.write {s0 x : State} {mbx : TMap Mbx} {ram mem : Mem} {smb : Smb} {flt : Flt} {basin : Basin} {ext : ExtMem}
    {mgmt : Mgmt} {out : List Output} (h : MemoryOnly s0 x) (tr : ext.training = x.ext.training)
    (sr : ext.selfRefresh = x.ext.selfRefresh) :
    MemoryOnly s0 { x with mbx, ram, mem, smb, flt, basin, ext, mgmt, out } :=
  { h with training := tr.trans h.training, selfRefresh := sr.trans h.selfRefresh }

theorem Posts.standalone {s t : State} (h : Posts s t) : t.link.standalone = s.link.standalone := by
  rw [← h.link]

theorem State.enter_standalone (s : State) (st : DevState) (n : Nat) : (s.enter st n).link.standalone = s.link.standalone :=
  (s.enter_posts st n).standalone

theorem State.zeroRings_standalone (s : State) : s.zeroRings.link.standalone = s.link.standalone :=
  s.zeroRings_posts.standalone

theorem Recorded.write {s0 x : State} {mbx : TMap Mbx} {ram : Mem} {smb : Smb} {flt : Flt} {mgmt : Mgmt} {out : List Output}
    (h : Recorded s0 x) : Recorded s0 { x with mbx, ram, smb, flt, mgmt, out } :=
  { h with }

section
variable {s0 s : State}

theorem State.enter_memoryOnly (st : DevState) (n : Nat) (h : MemoryOnly s0 s) : MemoryOnly s0 (s.enter st n) :=
  h.trans (.trans (by constructor <;> rfl) (s.enter_posts st n).memoryOnly)

theorem State.event_memoryOnly (a b u : Nat) (d : Bytes) (v : Option Nat) (h : MemoryOnly s0 s) :
    MemoryOnly s0 (s.event a b u d v) := h.trans (State.event_posts ..).memoryOnly

theorem State.stage_memoryOnly (e : FaultEv) (h : MemoryOnly s0 s) : MemoryOnly s0 (s.stage e).1 :=
  h.trans (s.stage_recorded e).memoryOnly

theorem State.clearPoison_memoryOnly (a n : Nat) (h : MemoryOnly s0 s) : MemoryOnly s0 (s.clearPoison a n) := by
  unfold State.clearPoison
  split
  · exact .write h rfl rfl
  · exact .write h rfl rfl

theorem State.loseRegion_memoryOnly (lpddr : Bool) (r : Nat) (h : MemoryOnly s0 s) : MemoryOnly s0 (s.loseRegion lpddr r) := by
  have dropped : MemoryOnly s0 (s.dropRegion lpddr r) := .write h rfl rfl
  unfold State.loseRegion
  dsimp only
  split
  · exact State.event_memoryOnly _ _ _ _ _ dropped
  · exact dropped

theorem State.retireChannel_memoryOnly (lpddr : Bool) (ch related : Nat) (h : MemoryOnly s0 s) :
    MemoryOnly s0 (s.retireChannel lpddr ch related) := by
  unfold State.retireChannel
  generalize (if lpddr then 5 else 4) = cls
  dsimp only
  split
  · exact h
  · refine State.event_memoryOnly _ _ _ _ _ (iteInduction (motive := MemoryOnly s0) (fun _ => State.enter_memoryOnly _ _ ?_) fun _ => ?_)
    all_goals exact State.loseRegion_memoryOnly _ _ (.write (State.stage_memoryOnly _ h) rfl rfl)

theorem State.poison_memoryOnly (a n : Nat) (h : MemoryOnly s0 s) : MemoryOnly s0 (s.poison a n) := by
  unfold State.poison
  split
  · exact h
  · split
    · exact .foldl _ h fun t i => .write (.refl t) rfl rfl
    · refine .foldl _ h fun t i => ?_
      dsimp only
      split
      · exact .refl t
      · split
        · exact State.retireChannel_memoryOnly _ _ _ (.refl t)
        · exact .write (.refl t) rfl rfl

theorem State.completeTorn_memoryOnly (h : MemoryOnly s0 s) : MemoryOnly s0 s.completeTorn := by
  unfold State.completeTorn
  split
  · exact h
  · exact .write (.foldl _ h fun t i => State.poison_memoryOnly _ _ (.refl t)) rfl rfl

theorem State.raiseMarker_recorded (h : Recorded s0 s) : Recorded s0 s.raiseMarker := by
  unfold State.raiseMarker
  split
  · exact .write h
  · exact h

theorem State.beginRecord_recorded (h : Recorded s0 s) : Recorded s0 s.beginRecord := by
  unfold State.beginRecord
  split
  · exact State.raiseMarker_recorded (.write (.write h))
  · exact h

theorem State.faultNtf_recorded (ev : Nat) (e : FaultEv) (seq : Nat) (h : Recorded s0 s) : Recorded s0 (s.faultNtf ev e seq) :=
  h.trans (State.event_posts ..).recorded

theorem State.commitRecord_recorded (past : Bool) (h : Recorded s0 s) : Recorded s0 (s.commitRecord past) := by
  unfold State.commitRecord
  split
  · exact h
  · dsimp only
    split
    · exact h
    · apply State.raiseMarker_recorded
      refine iteInduction (motive := Recorded s0) (fun _ => State.faultNtf_recorded _ _ _ ?_) fun _ => ?_
      all_goals refine iteInduction (motive := Recorded s0) (fun _ => State.faultNtf_recorded _ _ _ ?_) fun _ => ?_
      all_goals exact .write (.write (iteInduction (motive := Recorded s0) (fun _ => .write h) fun _ => h))

theorem flushRecords_recorded (k : Nat) (h : Recorded s0 s) : Recorded s0 (flushRecords k s) := by
  induction k generalizing s with
  | zero => exact h
  | succ k ih =>
    unfold flushRecords
    split
    · exact ih (State.commitRecord_recorded _ (State.beginRecord_recorded h))
    · exact h

end

/-- FAULT_HOLD is entered from every state but RESET. -/
theorem State.hold_st {s : State} (out : s.dev.st ≠ .reset) (seq : Nat) : (s.hold seq).dev.st = .faultHold := by
  unfold State.hold
  split
  · next h => simpa [out] using h
  · exact congrArg (·.st) (State.enter_dev ..)

theorem foldl_fuse {f : State → Nat → State} (same : ∀ t i, (f t i).fuse = t.fuse) (l : List Nat) (s : State) :
    (l.foldl f s).fuse = s.fuse := by
  induction l generalizing s with
  | nil => rfl
  | cons i l ih => exact (ih _).trans (same s i)

theorem State.linksDown_fuse (s : State) : s.linksDown.fuse = s.fuse := by
  unfold State.linksDown
  refine foldl_fuse (fun t p => ?_) _ s
  split
  · rfl
  · rfl
  · have told : (t.downNotice p).fuse = t.fuse := by unfold State.downNotice; split <;> rfl
    exact told

theorem State.zeroRings_fuse (s : State) : s.zeroRings.fuse = s.fuse := s.zeroRings_posts.fuse
theorem State.zeroRings_sec (s : State) : s.zeroRings.sec = s.sec := s.zeroRings_posts.sec
theorem State.zeroRings_ext (s : State) : s.zeroRings.ext = s.ext := s.zeroRings_posts.ext
theorem State.zeroRings_dev (s : State) : s.zeroRings.dev = s.dev := s.zeroRings_posts.dev
theorem State.enter_sec (s : State) (st : DevState) (n : Nat) : (s.enter st n).sec = s.sec := (s.enter_posts st n).sec
theorem State.enter_ext (s : State) (st : DevState) (n : Nat) : (s.enter st n).ext = s.ext := (s.enter_posts st n).ext

theorem State.hold_fuse (s : State) (seq : Nat) : (s.hold seq).fuse = s.fuse := by
  unfold State.hold
  split
  · rfl
  · rw [State.enter_fuse, (State.endDeferred_posts ..).fuse, State.zeroRings_fuse, State.linksDown_fuse]
    exact (s.stopSecure_torn.trans (State.stopReturn_torn _)).fuse

theorem State.deviceFault_fuse (s : State) (e : FaultEv) : (s.deviceFault e).fuse = s.fuse := by
  unfold State.deviceFault
  dsimp only
  rw [State.hold_fuse, (flushRecords_recorded 65 (s.stage_recorded _)).fuse]

/-- A fault of the device ends in FAULT_HOLD out of RESET. -/
theorem State.deviceFault_st {s : State} (out : s.dev.st ≠ .reset) (e : FaultEv) : (s.deviceFault e).dev.st = .faultHold := by
  unfold State.deviceFault
  dsimp only
  refine State.hold_st ?_ _
  rw [(flushRecords_recorded 65 (s.stage_recorded _)).dev]
  exact out

/-- The zeroing of Canyon's areas is a write to memory. -/
theorem State.zeroAreas_memoryOnly {s0 s : State} (l : List (Nat × Nat)) (h : MemoryOnly s0 s) :
    MemoryOnly s0 (l.foldl (fun (s : State) a => { s with mem := zeroN s.mem a.1 a.2 }.clearPoison a.1 a.2) s) :=
  .foldl _ h fun t _ => State.clearPoison_memoryOnly _ _ (.write (.refl t) rfl rfl)

theorem State.retireChannels_memoryOnly {s0 s : State} (lpddr : Bool) (l : List Nat) (h : MemoryOnly s0 s) :
    MemoryOnly s0 (l.foldl (fun s c => s.retireChannel lpddr c 0) s) :=
  .foldl _ h fun t _ => State.retireChannel_memoryOnly _ _ _ (.refl t)

theorem State.programHard_fuse (s : State) (i : Nat) : (s.programHard i).fuse = s.fuse := by
  unfold State.programHard
  exact (Recorded.foldl _ (.refl s) fun t p => t.stage_recorded _).fuse

theorem State.holdAtStart_st (s : State) : s.holdAtStart.dev.st = .faultHold := by
  rw [State.holdAtStart, State.enter_dev]

theorem State.updStacks_fuse (f : Nat → Stack → Stack) (l : List Nat) (s : State) :
    (l.foldl (fun s i => s.updStack i (f i)) s).fuse = s.fuse := foldl_fuse (f := fun s i => s.updStack i (f i)) (fun _ _ => rfl) l s

/-- What memory training leaves once it has ended. -/
theorem MemoryOnly.trained {s t : State} {fuse : Fuse} (h : MemoryOnly s t) (training : s.ext.training = false)
    (awake : s.ext.selfRefresh = false) (same : s.fuse = fuse) :
    t.ext.training = false ∧ t.ext.selfRefresh = false ∧ t.fuse = fuse :=
  ⟨h.training.trans training, h.selfRefresh.trans awake, h.fuse.trans same⟩

theorem execMemTrainingDone_frame {s : State} (spared used pc ch : List Nat) (training : s.ext.training = true) :
    ∃ t, execMemTrainingDone spared used pc ch s = .next t ∧ t.dev.memTrained = true ∧ t.ext.training = false ∧
      t.ext.selfRefresh = false ∧ t.cyn.areas = [] ∧ t.fuse = s.fuse := by
  have programmed : ((List.range 4).foldl State.programHard s).fuse = s.fuse := foldl_fuse State.programHard_fuse _ s
  unfold execMemTrainingDone
  refine ⟨_, congrArg Host.Outcome.next (if_neg (by simp [training])), rfl, ?_⟩
  have same := (State.updStacks_fuse (fun i x => { x with
    lanesSpared := min (Config.hbmSpareLanes i) (spared.getD i 0 + x.lanesMarked.length), lanesMarked := []
    hardUsed := used.getD i x.hardDone.length }) (List.range 4) ((List.range 4).foldl State.programHard s)).trans programmed
  dsimp only
  generalize (List.range 4).foldl _ ((List.range 4).foldl State.programHard s) = u at same
  have torn := State.completeTorn_memoryOnly (.refl { u with ext := { u.ext with training := false, selfRefresh := false } })
  have retired := State.retireChannels_memoryOnly false (pc.filter (· < 128)) torn
  have both := retired.trans (State.retireChannels_memoryOnly true (ch.filter (· < 32)) (.refl _))
  generalize List.foldl _ _ (pc.filter (· < 128)) = v at retired both
  have left (l : List (Nat × Nat)) := MemoryOnly.trained (State.zeroAreas_memoryOnly l (iteInduction
    (c := v.hasLpd = true) (motive := MemoryOnly _) (fun _ => both) fun _ => retired)) rfl rfl same
  obtain ⟨tr, sr, fuse⟩ := left (if v.hasLpd then List.foldl (fun s c => s.retireChannel true c 0) v (ch.filter (· < 32)) else v).cyn.areas
  exact ⟨tr, sr, rfl, fuse⟩

/-- Firmware load with nothing written meanwhile: the first valid image starts, and without one the device holds. -/
theorem execFwLoadDone_none {s : State} (st : s.dev.st = .fwLoad) : ∃ u : State,
    execFwLoadDone none s = .next (match s.fwEntries.find? fun x => s.fwValid x.2.bytes with
      | some e => u.startFirmware e.1 e.2.bytes
      | none => u.holdAtStart) ∧ u.dev = s.dev ∧ u.link = s.link := by
  unfold execFwLoadDone
  rw [if_neg (Classical.not_not.2 st)]
  exact ⟨_, rfl, rfl, rfl⟩

/-- The device state under firmware that runs. -/
theorem State.firmwareRuns_ne_reset {s : State} (h : s.firmwareRuns = true) : s.dev.st ≠ .reset := by
  intro st
  simp [State.firmwareRuns, State.fwRun, st] at h

/-- What the entry into AWAIT_CONFIG leaves in coherent mode, where no configuration is tried by itself. -/
theorem State.awaitConfig_frame {u : State} {region version : Nat} {image : Bytes} (coherent : u.link.standalone = false)
    (booted : u.sec.bootImage = region) (ver : u.dev.fwVersion = version) (img : u.dev.fwImage = image)
    (training : u.ext.training = true) :
    let t := (u.zeroRings.enter .awaitConfig 0).autoCommit
    t.dev.st = .awaitConfig ∧ t.sec.bootImage = region ∧ t.dev.fwVersion = version ∧ t.dev.fwImage = image ∧
    t.ext.training = true := by
  have stays : (u.zeroRings.enter .awaitConfig 0).autoCommit = u.zeroRings.enter .awaitConfig 0 := by
    simp [State.autoCommit, State.enter_standalone, State.zeroRings_standalone, coherent]
  rw [stays]
  dsimp only
  rw [State.enter_sec, State.enter_ext, State.enter_dev, State.zeroRings_sec, State.zeroRings_ext, State.zeroRings_dev]
  exact ⟨rfl, booted, ver, img, training⟩

theorem State.startFirmware_frame {s : State} (region : Nat) (image : Bytes) (coherent : s.link.standalone = false) :
    let t := s.startFirmware region image
    t.dev.st = .awaitConfig ∧ t.sec.bootImage = region ∧ t.dev.fwVersion = u32 image 8 ∧ t.dev.fwImage = image ∧
    t.ext.training = true := by
  unfold State.startFirmware
  dsimp only [State.drawNat]
  refine State.awaitConfig_frame ?_ ?_ ?_ ?_ ?_
  · exact coherent
  all_goals rfl

end Sys2Proof.Machine
end

section
/-! PROOFS. The statement about bringing the device up (02, 18, 19, 05). -/
open Sys2Proof Sys2Proof.Machine

/-- Settles O7: each step's own definition, and what it leaves of what it does not name. -/
theorem bringUp : Obligations.BringUp := by
  unfold Obligations.BringUp
  refine ⟨fun failed s st straps groups => ?_, fun c f failed s st straps bad => ?_, fun s e st found mode => ?_,
    fun s st none_good => ?_, fun spared used pc ch s training => ?_, fun s mode out => ?_, fun s runs => ?_,
    fun s runs => ?_, fun core s lt out => ?_, fun s out => ?_⟩
  · change execSelftestDone true true failed s = _
    simp [execSelftestDone, st, straps, groups]
  · refine ⟨?_, s.holdAtStart_st⟩
    have bad' : (!c || !f || allGroupsFail failed) = true := by rcases bad with rfl | rfl | all <;> simp [*]
    change execSelftestDone c f failed s = _
    simp only [execSelftestDone, st, straps, bad']
    rfl
  · obtain ⟨u, loaded, -, link⟩ := execFwLoadDone_none st
    change ∃ t, execFwLoadDone none s = .next t ∧ _
    refine ⟨_, loaded, ?_⟩
    rw [found]
    dsimp only
    exact State.startFirmware_frame e.1 e.2.bytes (by rw [link]; exact mode)
  · have none_found : (s.fwEntries.find? fun x => s.fwValid x.2.bytes) = none := by simpa using none_good
    obtain ⟨u, loaded, -, -⟩ := execFwLoadDone_none st
    change ∃ t, execFwLoadDone none s = .next t ∧ _
    refine ⟨_, loaded, ?_⟩
    rw [none_found]
    dsimp only
    exact u.holdAtStart_st
  · exact execMemTrainingDone_frame spared used pc ch training
  · change execPcieConfigRequest s = _
    simp [execPcieConfigRequest, mode, out]
  · change execMbxHeartbeatAdvance s = _
    simp [execMbxHeartbeatAdvance, runs]
  · refine ⟨_, congrArg Host.Outcome.next (if_pos runs), State.deviceFault_st ?_ _⟩
    rw [State.advanceTo_dev]
    exact State.firmwareRuns_ne_reset runs
  · refine ⟨_, congrArg Host.Outcome.next (if_neg (by simp [out]; omega)), State.deviceFault_st out _⟩
  · refine ⟨_, congrArg Host.Outcome.next (if_neg out), State.deviceFault_st out _, rfl, rfl, ?_⟩
    have same (e : FaultEv) : (s.deviceFault e).hasGlen = s.hasGlen := by
      funext g
      simp only [State.hasGlen, State.present, State.devCaps, State.deviceFault_fuse]
    simp only [State.glenMask, State.setPwr_pwr, same]
end

section
/-! SUPPORT. Single parts of the state that draining, standby and the wake from it leave alone (R72, R759, R761, R766). -/
namespace Sys2Proof.Machine
open Sys2Proof

/-- What holds of both branches. -/
theorem ite_holds {P : State → Prop} {c : Prop} {dec : Decidable c} {a b : State} (ha : P a) (hb : P b) :
    P (@ite _ c dec a b) := by
  split
  · exact ha
  · exact hb

/-- Advancing time changes time alone. -/
theorem State.advanceTo_eq (s : State) (t : Nat) : s.advanceTo t = { s with time := (s.advanceTo t).time } := by
  unfold State.advanceTo
  split <;> rfl

/-- A fold of steps that each leave a part of the state leaves it. -/
theorem foldl_part {α β : Type} (part : State → β) {f : State → α → State} (same : ∀ t x, part (f t x) = part t) (l : List α)
    (s : State) : part (l.foldl f s) = part s := by
  induction l generalizing s with
  | nil => rfl
  | cons x l ih => exact (ih _).trans (same s x)

theorem State.done_pwr (s : State) (d : Deferred) (st : St) (n : Nat) (p : Bytes) : (s.done d st n p).pwr = s.pwr :=
  (s.done_posts d st n p).pwr
theorem State.done_pace (s : State) (d : Deferred) (st : St) (n : Nat) (p : Bytes) : (s.done d st n p).pace = s.pace :=
  (s.done_posts d st n p).pace
theorem State.endDeferred_pwr (s : State) (st : St) (k : Deferred → Bool) : (s.endDeferred st k).pwr = s.pwr :=
  (s.endDeferred_posts st k).pwr
theorem State.enter_pwr (s : State) (st : DevState) (n : Nat) : (s.enter st n).pwr = s.pwr := (s.enter_posts st n).pwr
theorem State.enter_pace (s : State) (st : DevState) (n : Nat) : (s.enter st n).pace = s.pace := (s.enter_posts st n).pace

theorem State.enter_core (s : State) (st : DevState) (n : Nat) : (s.enter st n).core = s.core := (s.enter_posts st n).core
theorem State.enter_valleys (s : State) (st : DevState) (n : Nat) : (s.enter st n).valleys = s.valleys := (s.enter_posts st n).valleys
theorem State.enter_basin (s : State) (st : DevState) (n : Nat) : (s.enter st n).basin = s.basin := (s.enter_posts st n).basin

theorem State.endAdvance_pwr (s : State) (set : Nat) (st : St) : (s.endAdvance set st).pwr = s.pwr := by
  unfold State.endAdvance
  split
  · rfl
  · split
    · rfl
    · refine (State.doneOpt_posts ..).pwr.trans ?_
      unfold State.updSet
      split <;> rfl

theorem State.enterCache_pwr (s : State) (g : Nat) : (s.enterCache g).pwr = s.pwr := by
  unfold State.enterCache
  dsimp only
  split
  · rfl
  · refine foldl_part State.pwr (fun t x => ?_) _ s
    split
    · split <;> rfl
    · rfl

theorem State.flipBucket_pwr (s : State) (b : Nat) : (s.flipBucket b).pwr = s.pwr := by
  unfold State.flipBucket
  split
  · split <;> rfl
  · rfl

theorem State.flipAll_pwr (s : State) : s.flipAll.pwr = s.pwr := foldl_part State.pwr State.flipBucket_pwr _ s

theorem State.disarm_pwr (s : State) : s.disarm.pwr = s.pwr := by
  unfold State.disarm
  refine (foldl_part State.pwr (fun t g => ?_) _ _).trans (foldl_part State.pwr (fun t x => State.endAdvance_pwr ..) _ s)
  split
  · rfl
  · dsimp only
    split
    · rw [State.flipAll_pwr, State.enterCache_pwr]
      rfl
    · rfl

theorem State.redrawBackoff_pwr (s : State) : s.redrawBackoff.pwr = s.pwr := by
  refine foldl_part State.pwr (fun t p => ?_) _ s
  dsimp only
  split <;> rfl

theorem State.servingState_cases (s : State) : s.servingState = .ready ∨ s.servingState = .degraded := by
  unfold State.servingState
  split
  · exact .inl rfl
  · exact .inr rfl

/-- The jobs' part of the state stays, and the attach mode. -/
structure JobsStay (s t : State) : Prop where
  core : t.core = s.core
  standalone : t.link.standalone = s.link.standalone

theorem JobsStay.refl (s : State) : JobsStay s s := ⟨rfl, rfl⟩

theorem JobsStay.trans {a b c : State} (h : JobsStay a b) (g : JobsStay b c) : JobsStay a c :=
  ⟨g.core.trans h.core, g.standalone.trans h.standalone⟩

theorem Posts.jobsStay {s t : State} (h : Posts s t) : JobsStay s t := ⟨h.core, h.standalone⟩

theorem MemoryOnly.jobsStay {s t : State} (h : MemoryOnly s t) : JobsStay s t := ⟨h.core, by rw [← h.link]⟩

theorem JobsStay.foldl {α : Type} {f : State → α → State} (same : ∀ t x, JobsStay t (f t x)) (l : List α) (s : State) :
    JobsStay s (l.foldl f s) :=
  ⟨foldl_part State.core (fun t x => (same t x).core) l s, foldl_part (·.link.standalone) (fun t x => (same t x).standalone) l s⟩

/-- A write to other parts of the state. -/
theorem JobsStay.of {s0 s t : State} (h : JobsStay s0 s) (core : t.core = s.core) (link : t.link = s.link) : JobsStay s0 t :=
  ⟨core.trans h.core, (congrArg (·.standalone) link).trans h.standalone⟩

section
variable {s0 s : State}

theorem State.done_jobsStay (d : Deferred) (st : St) (n : Nat) (p : Bytes) (h : JobsStay s0 s) : JobsStay s0 (s.done d st n p) :=
  h.trans (s.done_posts d st n p).jobsStay

theorem State.enterCache_jobsStay (g : Nat) (h : JobsStay s0 s) : JobsStay s0 (s.enterCache g) := by
  unfold State.enterCache
  dsimp only
  split
  · exact .of h rfl rfl
  · refine h.trans (.foldl (fun t x => ?_) _ s)
    split
    · split <;> exact ⟨rfl, rfl⟩
    · exact .refl t

theorem State.flipAll_jobsStay (h : JobsStay s0 s) : JobsStay s0 s.flipAll := by
  refine h.trans (.foldl (fun t b => ?_) _ s)
  unfold State.flipBucket
  split
  · split <;> exact ⟨rfl, rfl⟩
  · exact .refl t

theorem State.leaveCache_jobsStay (g : Nat) (h : JobsStay s0 s) : JobsStay s0 (s.leaveCache g) :=
  h.trans ⟨foldl_part State.core (by exact fun _ _ => rfl) _ s, foldl_part (·.link.standalone) (by exact fun _ _ => rfl) _ s⟩

theorem State.countMem_jobsStay (a n : Nat) (h : JobsStay s0 s) : JobsStay s0 (s.countMem a n) := by
  unfold State.countMem
  split
  · exact .of h rfl rfl
  · split
    · exact .of h rfl rfl
    · exact h

theorem State.loseLine_jobsStay (l : Nat) (h : JobsStay s0 s) : JobsStay s0 (s.loseLine l) := by
  unfold State.loseLine
  split
  · exact .of h rfl rfl
  · exact h

theorem State.writeBack_jobsStay (l : Nat) (h : JobsStay s0 s) : JobsStay s0 (s.writeBack l) := by
  unfold State.writeBack
  split
  · exact State.countMem_jobsStay _ _ (.of h rfl rfl)
  · exact h

theorem State.emptyLines_jobsStay (ls : List Nat) (h : JobsStay s0 s) : JobsStay s0 (s.emptyLines ls) := by
  refine h.trans (.foldl (fun t l => ?_) ls s)
  dsimp only
  split
  · have lost := State.loseLine_jobsStay l (.refl t)
    split
    · exact ⟨lost.core, lost.standalone⟩
    · exact lost.trans (State.poison_memoryOnly _ _ (.refl _)).jobsStay
  · exact .of (State.writeBack_jobsStay l (.refl t)) rfl rfl

theorem State.drainGroup_jobsStay (g : Nat) (c : GroupChange) (h : JobsStay s0 s) : JobsStay s0 (s.drainGroup g c) := by
  have empty := State.emptyLines_jobsStay (s.groupLines g) h
  unfold State.drainGroup
  dsimp only
  split
  · exact State.done_jobsStay _ _ _ _ (.of empty rfl rfl)
  · exact .of (State.flipAll_jobsStay empty) rfl rfl

theorem State.fillGroup_jobsStay (g : Nat) (c : GroupChange) (h : JobsStay s0 s) : JobsStay s0 (s.fillGroup g c) := by
  have empty (ls : List Nat) := State.emptyLines_jobsStay ls h
  unfold State.fillGroup
  dsimp only
  split
  · exact State.done_jobsStay _ _ _ _ (.of (empty _) rfl rfl)
  · exact State.done_jobsStay _ _ _ _ (.of (State.flipAll_jobsStay (empty _)) rfl rfl)

theorem State.finishScratch_jobsStay (g : Nat) (c : GroupChange) (h : JobsStay s0 s) : JobsStay s0 (s.finishScratch g c) := by
  have drained : JobsStay s0 (if (s.group g).scratch || 2 ≤ c.phase then s
      else (if c.phase = 0 then (s.setChange g (some { c with phase := 1 })).leaveCache g else s).drainGroup g c) := by
    split
    · exact h
    · refine State.drainGroup_jobsStay g c ?_
      split
      · exact State.leaveCache_jobsStay g (.of h rfl rfl)
      · exact h
  unfold State.finishScratch
  dsimp only
  exact ite_holds (P := JobsStay s0) drained (State.done_jobsStay _ _ _ _
    (.of (ite_holds (P := JobsStay s0) (.of (t := State.zeroGroup _ g) drained rfl rfl) drained) rfl rfl))

theorem State.finishCache_jobsStay (g : Nat) (c : GroupChange) (h : JobsStay s0 s) : JobsStay s0 (s.finishCache g c) := by
  refine State.fillGroup_jobsStay _ _ ?_
  split
  · exact State.enterCache_jobsStay _ (.of h rfl rfl)
  · exact h

theorem State.finishChange_jobsStay (g : Nat) (h : JobsStay s0 s) : JobsStay s0 (s.finishChange g) := by
  unfold State.finishChange
  split
  · exact h
  · split
    · exact State.done_jobsStay _ _ _ _ (.of h rfl rfl)
    · split
      · exact State.finishScratch_jobsStay _ _ h
      · exact State.finishCache_jobsStay _ _ h

theorem State.linksDown_jobsStay (h : JobsStay s0 s) : JobsStay s0 s.linksDown := by
  refine h.trans (.foldl (fun t p => ?_) _ s)
  split
  · exact .refl t
  · exact .refl t
  · have told : JobsStay t (t.downNotice p) := by unfold State.downNotice; split <;> exact ⟨rfl, rfl⟩
    exact .of told rfl rfl

end

theorem State.zeroRings_jobsStay (s : State) : JobsStay s s.zeroRings := JobsStay.trans (b := s.clearRings) ⟨rfl, rfl⟩ s.zeroRings_posts.jobsStay

theorem execStandbySelfRefreshDone_eq {s : State} {d : Drain} (drain : s.dev.drain = some d) (st : s.dev.st = .draining)
    (phase : d.phase = 2) : execStandbySelfRefreshDone s = .next (State.setDrain { s.advanceTo (s.now + 10000) with
      ext := { (s.advanceTo (s.now + 10000)).ext with selfRefresh := true } } (some { d with phase := 3 })) := by
  simp [execStandbySelfRefreshDone, drain, st, phase]

/-- A drain for reconfiguration arrives (R72). -/
theorem State.arriveReconfig_frame {s : State} (d : Drain) (coherent : s.link.standalone = false) :
    (s.arriveReconfig d).dev.st = .awaitConfig ∧ (s.arriveReconfig d).dev.drain = none ∧
    (s.arriveReconfig d).core = { journals := s.core.journals } ∧ (s.arriveReconfig d).valleys = [] ∧
    (s.arriveReconfig d).basin.lines = [] := by
  have jobs (u : State) (mode : u.link.standalone = false) : (u.enter .awaitConfig 0).autoCommit = u.enter .awaitConfig 0 := by
    simp [State.autoCommit, State.enter_standalone, mode]
  have finished := s.zeroRings_jobsStay.trans (JobsStay.foldl (fun t g => State.finishChange_jobsStay g (.refl t)) (List.range 16) _)
  unfold State.arriveReconfig
  dsimp only
  generalize (List.range 16).foldl (fun t g => t.finishChange g) s.zeroRings = t at finished
  have ended := finished.trans (t.endDeferred_posts .notReady (t.drainKeeps d)).jobsStay
  have down := State.linksDown_jobsStay (.of (t := State.writeBackAll _) (State.done_jobsStay d.done .ok 0 d.result ended) rfl rfl)
  generalize State.linksDown _ = u at down
  rw [jobs _ (by exact down.standalone.trans coherent), State.enter_dev, State.enter_core, State.enter_valleys, State.enter_basin]
  refine ⟨rfl, rfl, ?_, rfl, rfl⟩
  rw [← down.core]
  rfl

end Sys2Proof.Machine
end

section
/-! PROOFS. The statement about draining and standby (02, 20). -/
open Sys2Proof Sys2Proof.Machine

/-- Settles O8: each step's own definition, and the parts that what it calls leaves. -/
theorem drainingAndStandby : Obligations.DrainingAndStandby := by
  unfold Obligations.DrainingAndStandby
  refine ⟨fun r s h may => ?_, fun s d t drain limit st phase => ?_, fun s d drain st phase none_left standby => ?_,
    fun s d drain st phase none_left reconfig mode => ?_, fun s d drain st phase => ?_, fun s d drain st phase => ?_,
    fun s d drain st phase => ?_, fun s w wake st phase => ?_, fun s w wake st phase => ?_, fun s w wake st phase => ?_⟩
  · have free : (u8 r.pay 0 = 1 && s.link.decoder) = false ∧ (u8 r.pay 0 = 1 && !s.tap.halted.isEmpty) = false := by
      by_cases standby : u8 r.pay 0 = 1
      · simp [may standby]
      · simp [standby]
    have run : devDrain.run r (s.consume r.via) = Res.mk _ _ _ _ _ :=
      (if_neg (by simpa using free.1)).trans (if_neg (by simpa using free.2))
    have done := serve_pending h run
    simp only [State.consume_valleys, State.consume_now] at done
    exact done
  · change ∃ u, execDrainLimitExpire s = .next u ∧ _
    simp only [execDrainLimitExpire, drain, limit, st, phase]
    exact ⟨_, rfl, _, rfl, rfl, Nat.le_add_right .., rfl, rfl⟩
  · change execDrainComplete s = _
    simp [execDrainComplete, drain, st, phase, none_left, standby]
  · change ∃ u, execDrainComplete s = .next u ∧ _
    refine ⟨s.arriveReconfig d, ?_, State.arriveReconfig_frame d mode⟩
    simp [execDrainComplete, drain, st, phase, none_left, reconfig]
  · change execStandbyWritebackDone s = _
    simp [execStandbyWritebackDone, drain, st, phase]
  · change ∃ u, execStandbySelfRefreshDone s = .next u ∧ _
    rw [execStandbySelfRefreshDone_eq drain st phase, State.advanceTo_eq]
    exact ⟨_, rfl, rfl, rfl, rfl⟩
  · change ∃ u, execStandbyEntryDone s = .next u ∧ _
    simp only [execStandbyEntryDone, drain, st, phase]
    rw [if_neg (by decide)]
    refine ⟨_, rfl, ?_⟩
    rw [State.enter_dev, State.enter_pace, State.enter_pwr, State.setDrain_pace, State.setDrain_pwr, State.done_pace, State.done_pwr]
    have entries : (s.disarm.endDeferred .notReady (s.drainKeeps d)).pwr = s.pwr := by rw [State.endDeferred_pwr, State.disarm_pwr]
    exact ⟨rfl, rfl, rfl, congrArg (·.standbyEntries + 1) entries⟩
  · change ∃ u, execStandbyWakeVcore s = .next u ∧ _
    simp only [execStandbyWakeVcore, wake, st, phase]
    rw [if_neg (by decide), State.advanceTo_eq]
    exact ⟨_, rfl, rfl, Nat.min_le_left .., rfl⟩
  · change execStandbyWakeMemoryDone s = _
    simp [execStandbyWakeMemoryDone, wake, st, phase, State.setPwr]
  · change ∃ u, execStandbyWakeDone s = .next u ∧ _
    simp only [execStandbyWakeDone, wake, st, phase]
    rw [if_neg (by decide)]
    refine ⟨_, rfl, ?_⟩
    rw [State.enter_dev, State.enter_pwr, State.done_pwr, State.redrawBackoff_pwr]
    dsimp only
    exact ⟨State.servingState_cases _, rfl, rfl, rfl⟩
end

section
/-! SUPPORT. What a pace sample may touch: time, pace, power, the channels powered down, and the times that a step of device
time moves along (03). -/
namespace Sys2Proof.Machine
open Sys2Proof

/-- Beside what a pace sample works on, `t` differs from `s` by what posting changes alone. -/
def PaceOnly (s t : State) : Prop :=
  Posts { s with
    time := t.time, pace := t.pace, pwr := t.pwr, ext := { s.ext with poweredDown := t.ext.poweredDown }
    dev := { s.dev with heartbeatAt := t.dev.heartbeatAt, staging := t.dev.staging } } t

theorem PaceOnly.refl (s : State) : PaceOnly s s := Posts.refl s

theorem PaceOnly.trans {a b c : State} (h : PaceOnly a b) (g : PaceOnly b c) : PaceOnly a c where
  fuse := g.fuse.trans h.fuse
  rst := g.rst.trans h.rst
  dev := by
    have inner := h.dev
    have outer := g.dev
    dsimp only at inner outer ⊢
    rw [outer, inner]
  svc := g.svc.trans h.svc
  gpio := g.gpio.trans h.gpio
  tap := g.tap.trans h.tap
  sec := g.sec.trans h.sec
  pwr := rfl
  flt := g.flt.trans h.flt
  time := rfl
  pace := rfl
  mem := g.mem.trans h.mem
  basin := g.basin.trans h.basin
  ext := by
    have inner := h.ext
    have outer := g.ext
    dsimp only at inner outer ⊢
    rw [outer, inner]
  valleys := g.valleys.trans h.valleys
  drainSt := g.drainSt.trans h.drainSt
  core := g.core.trans h.core
  links := g.links.trans h.links
  fabric := g.fabric.trans h.fabric
  eth := g.eth.trans h.eth
  pool := g.pool.trans h.pool
  ford := g.ford.trans h.ford
  cyn := g.cyn.trans h.cyn
  free := g.free.trans h.free
  pending := g.pending.trans h.pending
  link := by
    have inner := h.link
    have outer := g.link
    dsimp only at inner outer ⊢
    rw [← inner, ← outer]

theorem Posts.paceOnly {s t : State} (h : Posts s t) : PaceOnly s t := by
  have e : { s with
      time := t.time, pace := t.pace, pwr := t.pwr, ext := { s.ext with poweredDown := t.ext.poweredDown }
      dev := { s.dev with heartbeatAt := t.dev.heartbeatAt, staging := t.dev.staging } } = s := by
    rw [h.time, h.pace, h.pwr, h.ext, h.dev]
  unfold PaceOnly
  rw [e]
  exact h

theorem State.advanceTo_paceOnly (s : State) (t : Nat) : PaceOnly s (s.advanceTo t) := by
  rw [State.advanceTo_eq]
  exact Posts.refl _

theorem State.applyPending_paceOnly (s : State) : PaceOnly s s.applyPending := Posts.refl _

theorem State.stepTo_paceOnly (s : State) (t : Nat) : PaceOnly s (s.stepTo t) := Posts.refl _

theorem State.applyTime_paceOnly (s : State) : PaceOnly s s.applyTime := by
  unfold State.applyTime
  cases s.time.pending with
  | none => exact .refl s
  | some c => exact ite_holds (P := PaceOnly s) (ite_holds (P := PaceOnly s) (Posts.refl _) (Posts.refl _)) (Posts.refl _)

theorem State.readPaces_paceOnly (s : State) (glens : List Nat) (cc basin : Nat) :
    PaceOnly s (s.readPaces glens cc basin) := Posts.refl _

theorem State.readValleys_paceOnly (s : State) : PaceOnly s s.readValleys := Posts.refl _

theorem State.govern_paceOnly (s : State) : PaceOnly s s.govern := Posts.refl _

theorem State.watchHeat_paceOnly (s : State) : PaceOnly s s.watchHeat := by
  unfold State.watchHeat
  dsimp only
  generalize (if s.pwr.tjWarn = true then _ else _ : Bool) = warn
  refine ite_holds (P := PaceOnly s) (.refl s) (PaceOnly.trans ?_ (State.event_posts _ ..).paceOnly)
  exact Posts.refl _

theorem State.watchHeat_pace (s : State) : s.watchHeat.pace = s.pace := by
  unfold State.watchHeat
  dsimp only
  generalize (if s.pwr.tjWarn = true then _ else _ : Bool) = warn
  exact ite_holds (P := fun u : State => u.pace = s.pace) rfl (State.event_posts _ ..).pace

theorem PaceOnly.governed {s t : State} (h : PaceOnly s t) : t.governed = s.governed := by
  unfold State.governed State.fwRun
  rw [h.dev]

/-- The governor's target obeys the cap (R751). -/
theorem State.govern_capped (s : State) : s.govern.pace.target ≤ s.govern.vcoreCap := by
  change s.govern.pace.target ≤ s.vcoreCap
  unfold State.govern
  dsimp only
  generalize s.vcoreCap = cap
  have lowered (b : Bool) : (if b then max (min (min s.pace.target cap) s.pace.gov.vmin)
      (min s.pace.target cap - s.pace.gov.step) else min s.pace.target cap) ≤ cap := by
    split <;> omega
  split
  · exact Nat.min_le_left ..
  · exact lowered _

/-- Settings and time taken over, and the sample's own values kept (R100, R119). -/
def State.sampleTaken (s : State) (meas : Nat) (tj : Int) : State :=
  let s := (s.advanceTo (s.pace.at_ + 1000)).applyPending.applyTime
  { s with pace := { s.pace with at_ := s.now, seq := s.pace.seq + 1, meas, tj } }

theorem State.applyTime_seq (s : State) : s.applyTime.pace.seq = s.pace.seq := by
  unfold State.applyTime
  cases s.time.pending with
  | none => rfl
  | some c =>
    exact ite_holds (P := fun u : State => u.pace.seq = s.pace.seq)
      (ite_holds (P := fun u : State => u.pace.seq = s.pace.seq) rfl rfl) rfl

theorem State.sampleTaken_seq (s : State) (meas : Nat) (tj : Int) :
    (s.sampleTaken meas tj).pace.seq = s.pace.seq + 1 := by
  unfold State.sampleTaken
  dsimp only
  rw [State.applyTime_seq, State.advanceTo_eq]
  rfl

theorem State.sampleTaken_paceOnly (s : State) (meas : Nat) (tj : Int) : PaceOnly s (s.sampleTaken meas tj) :=
  (((State.advanceTo_paceOnly s _).trans (State.applyPending_paceOnly _)).trans (State.applyTime_paceOnly _)).trans
    (Posts.refl _)

theorem execPaceSample_eq {s : State} (glens : List Nat) (cc basin meas : Nat) (tj : Int) (running : s.dev.st ≠ .reset) :
    execPaceSample glens cc basin meas tj s = .next (
      let u := (s.sampleTaken meas tj).readPaces glens cc basin
      if u.governed then u.watchHeat.readValleys.govern else u.readValleys) :=
  congrArg Host.Outcome.next (if_neg running)

end Sys2Proof.Machine
end

section
/-! PROOFS. Pace samples, the governor's moves and faulty replicas (03). -/
open Sys2Proof Sys2Proof.Machine

/-- Settles O9: a sample is a chain of writes to pace, time and power, the last of which puts the target under the cap. -/
theorem governor : Obligations.Governor := by
  unfold Obligations.Governor
  refine ⟨?_, ?_, ?_, ?_, ?_, ?_, ?_, ?_⟩
  · intro glens cc basin meas tj s running
    refine ⟨_, execPaceSample_eq glens cc basin meas tj running, ?_⟩
    dsimp only
    have taken := State.sampleTaken_seq s meas tj
    have only : PaceOnly s ((s.sampleTaken meas tj).readPaces glens cc basin) :=
      (State.sampleTaken_paceOnly s meas tj).trans (State.readPaces_paceOnly ..)
    have seq : ((s.sampleTaken meas tj).readPaces glens cc basin).pace.seq = s.pace.seq + 1 := taken
    have meas_eq : ((s.sampleTaken meas tj).readPaces glens cc basin).pace.meas = meas := rfl
    have tj_eq : ((s.sampleTaken meas tj).readPaces glens cc basin).pace.tj = tj := rfl
    generalize (s.sampleTaken meas tj).readPaces glens cc basin = u at *
    have heat := State.watchHeat_pace u
    by_cases on : u.governed = true
    · rw [if_pos on]
      refine ⟨?_, ?_, ?_, fun _ => State.govern_capped _, ?_⟩
      · exact (congrArg (·.seq) heat :).trans seq
      · exact (congrArg (·.meas) heat :).trans meas_eq
      · exact (congrArg (·.tj) heat :).trans tj_eq
      · exact ((only.trans (State.watchHeat_paceOnly u)).trans (State.readValleys_paceOnly _)).trans (State.govern_paceOnly _)
    · rw [if_neg on]
      exact ⟨seq, meas_eq, tj_eq, fun g => absurd (only.governed.trans g) on, only.trans (State.readValleys_paceOnly _)⟩
  · intro s due on free
    change execVcoreTargetLower s = _
    simp [execVcoreTargetLower, due, on, free]
  · intro v s due own
    refine ⟨?_, fun notLow noneHolds => ?_⟩
    · change execOwnAdmissionHoldback v s = _
      simp [execOwnAdmissionHoldback, due, own]
    · have self : (s.setPaceValley v { s.paceValley v with own := true }).paceValley v =
          { s.paceValley v with own := true } := by
        unfold State.paceValley State.setPaceValley lookD
        rw [look_put_self]
        rfl
      have holds (u : Nat) : ((s.setPaceValley v { s.paceValley v with own := true }).paceValley u).holdsLower =
          (s.paceValley u).holdsLower := by
        by_cases e : u = v
        · rw [e, self]
        · unfold State.paceValley State.setPaceValley lookD
          rw [look_put_other _ _ _ _ e]
      have free : ((List.range 8).any fun u =>
          ((s.setPaceValley v { s.paceValley v with own := true }).paceValley u).holdsLower &&
            decide ((s.govValley v).cls < (s.govValley u).cls)) = false := by
        rw [List.any_eq_false]
        intro u hu
        simp [holds, noneHolds u (List.mem_range.mp hu)]
      refine Eq.trans (if_neg ?_) (Eq.trans (if_pos ?_) ?_)
      · have low : (s.setPaceValley v { s.paceValley v with own := true }).pace.low = false := notLow
        rw [low]
        exact Bool.eq_false_iff.mp free
      · rw [self]
      · rw [self]
        rfl
  · intro v s due
    change execHoldbackRelease v s = _
    simp [execHoldbackRelease, due]
  · intro i s small glen fresh running bad
    change execReplicaFault i s = _
    have fitted : i < 34 := by omega
    refine congrArg Host.Outcome.next ((if_pos ?_).trans (if_pos small))
    simp [glen, fresh, running, fitted, or_assoc, bad]
  · intro i s unit fresh running bad
    change execReplicaFault i s = _
    have fitted : i < 34 := by omega
    have shared : 32 ≤ i := by omega
    refine congrArg Host.Outcome.next ((if_pos ?_).trans (if_neg (Nat.not_lt.mpr shared)))
    simp [shared, fresh, running, fitted, or_assoc, bad]
  · intro s due high on
    change execPaceLowSet s = _
    simp [execPaceLowSet, due, high, on, State.pwrEvent]
  · intro s due low
    change execPaceLowClear s = _
    simp [execPaceLowClear, due, low]
end

section
/-! SUPPORT. A request taken off its transport leaves all but the mailboxes and the transports as it was. -/
namespace Sys2Proof.Machine
open Sys2Proof

theorem State.consume_frame (s : State) (v : Via) :
    ∃ mbx svc smb mgmt, s.consume v = { s with mbx := mbx, svc := svc, smb := smb, mgmt := mgmt } := by
  unfold State.consume
  cases v.xport with
  | bar0 => exact ⟨_, _, _, _, rfl⟩
  | twoWire => exact ⟨_, _, _, _, rfl⟩
  | network src => exact ⟨_, _, _, _, rfl⟩

theorem State.pinsOf_congr {s t : State} (h : t.gpio = s.gpio) (f : Nat) : t.pinsOf f = s.pinsOf f := by
  unfold State.pinsOf State.fn
  rw [h]

end Sys2Proof.Machine
end

section
/-! PROOFS. The messages and the clearing reads of pace and time (03). -/
open Sys2Proof Sys2Proof.Machine

/-- Settles O10: the settings are held for the next sample; the queries read, and a read of a register leaves what it does. -/
theorem paceMessages : Obligations.PaceMessages := by
  unfold Obligations.PaceMessages
  refine ⟨fun r s h => ?_, fun r s h pins => ?_, fun r s h => ⟨_, serve_okay h rfl, ?_⟩, fun r s h => ?_, fun s on => ?_,
    fun s on => ?_, fun s on => ?_⟩
  · exact serve_okay h (by simp [governorSet])
  · refine serve_okay h ?_
    have some_pin : ¬ ((u8 r.pay 0 = 3 && ((s.consume r.via).pinsOf 3).isEmpty) = true) := by
      rw [State.pinsOf_congr (State.consume_gpio s r.via)]
      simpa using pins
    simp only [timePtpSet]
    rw [if_neg some_pin, State.consume_time]
  · simp [leBytes, List.take]
  · obtain ⟨a, b, c, d, e⟩ := State.consume_frame s r.via
    refine serve_okay h ?_
    rw [e]
    rfl
  · exact congrArg Host.Outcome.next (if_pos on)
  · exact congrArg Host.Outcome.next (if_pos on)
  · exact congrArg Host.Outcome.next (if_pos on)
end

section
/-! SUPPORT. The whole second and its pulses (R114). -/
namespace Sys2Proof.Machine
open Sys2Proof

/-- The pulses of a whole second are emitted, and nothing else. -/
theorem foldl_emit {α : Type} (f : State → α → Output) (l : List α) (s : State) :
    ∃ out, l.foldl (fun s n => s.emit (f s n)) s = { s with out := out } ∧ out.length = s.out.length + l.length := by
  induction l generalizing s with
  | nil => exact ⟨s.out, rfl, rfl⟩
  | cons n l ih =>
    obtain ⟨out, e, len⟩ := ih (s.emit (f s n))
    exact ⟨out, e, by simp [len, State.emit]; omega⟩

/-- The whole second `t` reached, with the rising edges of the pins that pulse at it. -/
def secondEdge (s : State) (t : Nat) : State := { s with
  time := (s.advanceTo t).time
  gpio := { s.gpio with
    edge := s.gpio.edge ||| BitVec.ofNat 32 (maskOf (s.pulsing.filter fun n => !s.gpio.forced.getLsbD n)) } }

/-- The pulse that a pin gives at a whole second: as long as its function says, or 100 µs. -/
def State.pulseOf (s : State) (n : Nat) : Output := .pps s.now (if (s.fn n).param = 0 then 100 else 10 * (s.fn n).param)

theorem pulses_eq (s : State) (t : Nat) :
    (let u := s.advanceTo t
     let up : W32 := BitVec.ofNat 32 (maskOf (u.pulsing.filter fun n => !u.gpio.forced.getLsbD n))
     u.pulsing.foldl (fun u n =>
       let w := (u.fn n).param
       u.emit (.pps u.now (if w = 0 then 100 else 10 * w))) { u with gpio := { u.gpio with edge := u.gpio.edge ||| up } }) =
    s.pulsing.foldl (fun u n => u.emit (u.pulseOf n)) (secondEdge s t) := by
  rw [State.advanceTo_eq]
  rfl

theorem execPpsOutPulse_eq {s : State} (running : s.dev.st ≠ .reset) :
    ∃ t, execPpsOutPulse s = .next (s.pulsing.foldl (fun u n => u.emit (u.pulseOf n)) (secondEdge s t)) :=
  ⟨_, congrArg Host.Outcome.next ((if_neg running).trans (pulses_eq s _))⟩

theorem State.discipline_settled {s : State} (offset : Int) (ns : Nat) (settled : s.time.settled = true) :
    (s.discipline offset ns).time.now = s.time.now ∧ (s.discipline offset ns).time.slew = -offset := by
  unfold State.discipline
  dsimp only
  rw [if_neg (by simp [settled])]
  exact ⟨rfl, rfl⟩

end Sys2Proof.Machine
end

section
/-! PROOFS. PTP, PPS and the reference of device time (03). -/
open Sys2Proof Sys2Proof.Machine

/-- Settles O11: each event's guard holds by its premises; a whole second's pulses are emitted one by one. -/
theorem timeDiscipline : Obligations.TimeDiscipline := by
  unfold Obligations.TimeDiscipline
  refine ⟨?_, ?_, ?_, ?_, ?_, ?_, ?_, ?_, fun offset ns s settled => State.discipline_settled offset ns settled⟩
  · intro port dom tr p1 cc acc var p2 id steps snd s on
    change execPtpAnnounceReceive port dom tr p1 cc acc var p2 (id, snd) steps s = _
    simp only [execPtpAnnounceReceive, on, if_true]
    cases s.time.master <;> simp
  · intro port dom tr src origin receipt log m s on master sender low high
    change execPtpSyncReceive port dom tr (src, log) origin receipt s = _
    simp [execPtpSyncReceive, on, master, sender, low, high]
  · intro port dom src sent received t1 t2 m s on master sender req last
    change execPtpDelayRespReceive port dom src sent received s = _
    simp [execPtpDelayRespReceive, on, master, sender, req, last]
  · intro s mode sync last ref
    change execPtpSyncTimeout s = _
    simp [execPtpSyncTimeout, mode, sync.symm, last, ref]
  · intro pin stamp s mode pins ref
    change execPpsInEdge pin stamp s = _
    unfold execPpsInEdge
    rw [if_pos (by simp [mode, pins, ref])]
    refine congrArg (fun k : Nat => Host.Outcome.next
      (State.discipline { s with time := { s.time with ppsNext := none } } ((stamp : Int) - k * 1000000000) 0)) ?_
    cases s.time.ppsNext with
    | none => exact Option.getD_none.symm
    | some k => exact Option.getD_some.symm
  · intro s running
    obtain ⟨at_, run⟩ := execPpsOutPulse_eq running
    obtain ⟨out, e, len⟩ := foldl_emit State.pulseOf s.pulsing (secondEdge s at_)
    exact ⟨{ secondEdge s at_ with out := out }, run.trans (congrArg Host.Outcome.next e), rfl, len⟩
  · intro s ref running on
    change execReferenceLost s = _
    refine congrArg Host.Outcome.next ((if_neg ?_).trans (if_pos on))
    simp [ref, running]
  · intro s ref
    change execReferenceReturn s = _
    simp [execReferenceReturn, ref]
end

section
/-! SUPPORT. Concrete requests, for refutations: one that waits in a mailbox of a serving device, and that it is accepted as
a value that can be computed. -/
namespace Sys2Proof.Machine
open Sys2Proof

/-- A device in coherent mode, out of reset, READY, with CXL active. -/
def servingDevice : State := { State.reset with
  dev := { State.reset.dev with st := .ready, everReady := true }
  link := { State.reset.link with standalone := false, up := true, cxlActive := true, cxlEnabled := true } }

/-- A request for message `m` with payload `p`, on the BAR0 rings of mailbox `n`. -/
def Msg.request (m : Msg) (n : Nat) (p : Bytes) : Req :=
  { via := ⟨n, .bar0⟩, op := m.op, tag := 1, len := p.length, ver := 1, pay := p }

/-- The state in which request `r` waits next in its ring. -/
def State.asked (s : State) (r : Req) : State := { s with
  mbx := put s.mbx r.via.mbx { s.box r.via.mbx with doorbell := (s.box r.via.mbx).reqCons + 1 }
  ram := wrN s.ram (reqSlot r.via.mbx (s.box r.via.mbx))
    (leBytes 2 r.op ++ leBytes 2 r.tag ++ leBytes 2 r.len ++ leBytes 1 r.ver ++ zeros 9 ++ r.pay) }

def Msg.acceptsNow (m : Msg) (r : Req) (s : State) : Bool :=
  decide ((s.nextRaw r.via).map (parseReq r.via) = some r) && decide (r.op = m.op) &&
    decide (m.check r (s.consume r.via) = none) && decide (s.sec.returning = none) &&
    decide (((s.consume r.via).box r.via.mbx).deferred.length < 8)

theorem Accepted.of_acceptsNow {m : Msg} {r : Req} {s : State} (h : m.acceptsNow r s = true) : Accepted m r s := by
  simp only [Msg.acceptsNow, Bool.and_eq_true, decide_eq_true_eq] at h
  obtain ⟨⟨⟨⟨waits, op⟩, checks⟩, free⟩, room⟩ := h
  exact ⟨waits, op, checks, free, room⟩

end Sys2Proof.Machine
end

section
/-! PROOFS. BRD_SMB_SET may latch a pad edge: what the statement about pins and the board leaves out (21). -/
namespace Sys2Proof.Machine
open Sys2Proof

/-- A board whose pin 9 carries the bus alert, pulled up and asserted. -/
def alertedBoard : State := { servingDevice with
  smb := { servingDevice.smb with alert := true }
  gpio := { servingDevice.gpio with map := [(9, { func := 10 })], ext := 0x200 } }

/-- The request that turns the alert off. -/
def alertOff : Req := brdSmbSet.request 8 (zeros 8)

theorem alertOff_accepted : Accepted brdSmbSet alertOff (alertedBoard.asked alertOff) :=
  Accepted.of_acceptsNow (by decide +kernel)

/-- Released, the alert pin rises, and its rise is latched. -/
theorem alertOff_latches : (((alertedBoard.asked alertOff).consume alertOff.via).setSmb alertOff.pay).gpio.edge ≠
    (alertedBoard.asked alertOff).gpio.edge := by decide +kernel

/-- What the statement says of an accepted BRD_SMB_SET leaves GPIO state alone. -/
theorem brdSmbSet_gpio_of_frame {r : Req} {s t : State} (h : Accepted brdSmbSet r s)
    (run : exec (.brdSmbSet r.via) s = .next (t.respond s r .ok)) (frame : t = { s.consume r.via with smb := t.smb }) :
    ((s.consume r.via).setSmb r.pay).gpio = s.gpio := by
  have ran : exec (.brdSmbSet r.via) s = .next (((s.consume r.via).setSmb r.pay).respond s r .ok) := serve_okay h rfl
  have same := congrArg State.gpio (Host.Outcome.next.inj (ran.symm.trans run))
  rw [(State.respond_posts _ _ _ _ _ _).gpio, (State.respond_posts t _ _ _ _ _).gpio, frame] at same
  exact same.trans (State.consume_gpio s r.via)

end Sys2Proof.Machine

open Sys2Proof Sys2Proof.Machine

/-- Refutes O12: BRD_SMB_SET that turns the alert off releases the alert pin, and the pad's rise is latched as an edge of
GPIO state, so that it sets more than the two-wire settings. -/
theorem not_pinsAndBoard : ¬ Obligations.PinsAndBoard := by
  unfold Obligations.PinsAndBoard
  intro h
  obtain ⟨-, -, -, -, -, -, -, -, -, -, -, smbSet⟩ := h
  obtain ⟨t, run, frame, -⟩ := smbSet alertOff _ alertOff_accepted
  exact alertOff_latches (congrArg Gpio.edge (brdSmbSet_gpio_of_frame alertOff_accepted run frame))
end

section
/-! PROOFS. The statement about the two-wire bus (21). -/
open Sys2Proof Sys2Proof.Machine

/-- Settles O13: each transaction's guards hold by its premises, which leaves the branch that the rule names. -/
theorem twoWireBus : Obligations.TwoWireBus := by
  unfold Obligations.TwoWireBus
  refine ⟨?_, ?_, ?_, ?_, ?_, ?_, ?_, fun s on => congrArg Host.Outcome.next (if_pos on), ?_, ?_, ?_, ?_, ?_, ?_, ?_, ?_, ?_, ?_⟩
  · intro s live
    change execSmbDevId s = _
    simp [execSmbDevId, live]
  · intro s live
    change execSmbDevCaps s = _
    simp [execSmbDevCaps, live]
  · intro s live
    change execSmbStatus s = _
    simp [execSmbStatus, live]
  · intro s dead
    change execSmbDevId s = _ ∧ execSmbDevCaps s = _ ∧ execSmbStatus s = _
    simp [execSmbDevId, execSmbDevCaps, execSmbStatus, dead]
  · intro s on
    change execSmbMbxRead s = _
    simp [execSmbMbxRead, on]
  · intro s alert pins
    exact congrArg Host.Outcome.next (if_pos (by simp [alert, pins]))
  · intro s enabled live
    exact congrArg Host.Outcome.next (if_neg (by simp [enabled, live]))
  · intro flags data pec a s on room pec_ok start fits
    change execSmbMbxWrite flags data pec s = _
    simp only [execSmbMbxWrite, on, Nat.not_le.mpr room, pec_ok, start, Nat.not_lt.mpr fits, State.arrived]
    simp
  · intro flags data pec s on room pec_ok long
    change execSmbMbxWrite flags data pec s = _
    simp only [execSmbMbxWrite, on, Nat.not_le.mpr room, pec_ok]
    cases start : (if bit flags 0 then some [] else s.smb.assembling) with
    | none =>
      have none_begun : s.smb.assembling = none := by
        split at start
        · cases start
        · exact start
      simp [none_begun]
    | some a =>
      have big := long a start
      rw [List.length_append] at big
      simp [big]
  · intro flags data pec s on room bad
    change execSmbMbxWrite flags data pec s = _
    simp [execSmbMbxWrite, on, Nat.not_le.mpr room, bad, State.nackPec]
  · intro seq pec i rest s live pec_ok items at_ more
    change execSmbMbxAdvance seq pec s = _
    simp [execSmbMbxAdvance, live, pec_ok, items, at_, more]
  · intro seq pec i rest s live pec_ok items at_ done
    change execSmbMbxAdvance seq pec s = _
    simp [execSmbMbxAdvance, live, pec_ok, items, at_, Nat.not_lt.mpr done]
  · intro source q pec s live pec_ok on known
    change execSmbMctp source q pec s = _
    cases q with
    | other c => exact absurd rfl (known c)
    | _ => simp [execSmbMctp, live, pec_ok, on]
  · intro source c pec s live pec_ok on
    change execSmbMctp source (.other c) pec s = _
    simp [execSmbMctp, live, pec_ok, on]
  · intro source q pec s live pec_ok off
    change execSmbMctp source q pec s = _
    simp [execSmbMctp, live, pec_ok, off]
  · intro d x rest s out few
    change execMctpArbitrationLost s = _
    simp [execMctpArbitrationLost, out, Nat.not_le.mpr (Nat.succ_lt_succ few)]
  · intro d x rest s out last
    change execMctpArbitrationLost s = _
    simp [execMctpArbitrationLost, out, last]
end

section
/-! SUPPORT. What a change of the debug level leaves (R756, R770). -/
namespace Sys2Proof.Machine
open Sys2Proof

theorem State.haltRecord_mem (s : State) (pair : Nat) : (s.haltRecord pair).mem = s.mem := (State.stage_recorded s _).mem

theorem State.resumePair_mem (s : State) (pair : Nat) : (s.resumePair pair).mem = s.mem := by
  unfold State.resumePair
  exact ite_holds (P := fun t : State => t.mem = s.mem) (State.haltRecord_mem _ _) rfl

theorem State.setDebug_facts (s : State) (l : Nat) (d : Option Nat) :
    (s.setDebug l d).pwr.dbgLevel = l ∧ (s.setDebug l d).pwr.dbgDeadline = d ∧ (s.setDebug l d).mem = s.mem := by
  unfold State.setDebug
  dsimp only
  have resumed : (if l < 2 then s.tap.halted.foldl (fun s p => s.resumePair p) s else s).mem = s.mem :=
    ite_holds (P := fun t : State => t.mem = s.mem) (foldl_part State.mem State.resumePair_mem _ _) rfl
  generalize (if l < 2 then s.tap.halted.foldl (fun s p => s.resumePair p) s else s) = t at *
  refine ite_holds (P := fun u : State => u.pwr.dbgLevel = l ∧ u.pwr.dbgDeadline = d ∧ u.mem = s.mem) ?_ ⟨rfl, rfl, resumed⟩
  have posts := State.event_posts (t.setPwr { t.pwr with dbgLevel := l, dbgDeadline := d }) 0x0C 5 0xFFFF
    (leBytes 1 t.pwr.dbgLevel ++ leBytes 1 l) none
  exact ⟨congrArg Pwr.dbgLevel posts.pwr, congrArg Pwr.dbgDeadline posts.pwr, posts.mem.trans resumed⟩

theorem State.authorise_now (s : State) (r : Req) (off : Nat) (k : Option Bytes) : (s.authorise r off k).1.now = s.now := rfl

/-- Level 3 is asked for of a returned part alone (R780). -/
theorem returned_level {r : Req} {s : State} (life : u8 r.pay 0 = 3 → s.sec.life.code = 3) :
    ¬ (u8 r.pay 0 = 3 && (s.consume r.via).sec.life.code ≠ 3) = true := by
  rw [State.consume_sec]
  simpa using life

/-- The response to a telemetry request that its level allows: the selector, the length, the next offset and the bytes. -/
theorem dbgTelemetryRead_level {r : Req} {s : State} {k : Nat} (sel : u8 r.pay 0 = k) (level : selectLevel k ≤ s.pwr.dbgLevel) :
    ¬ (s.consume r.via).pwr.dbgLevel < selectLevel (u8 r.pay 0) := by
  rw [State.consume_pwr, sel]
  exact Nat.not_lt.mpr level

end Sys2Proof.Machine
end

section
/-! PROOFS. The statement about the debug port and the debug levels (20). -/
open Sys2Proof Sys2Proof.Machine

/-- Settles O14: each access is decided by the level in force; an unlock's checks come in the order of its meaning. -/
theorem debugPort : Obligations.DebugPort := by
  unfold Obligations.DebugPort
  refine ⟨fun s => rfl, fun s running => congrArg Host.Outcome.next (if_neg running),
    fun c s running => congrArg Host.Outcome.next (if_neg running), fun s running => congrArg Host.Outcome.next (if_neg running),
    ?_, ?_, ?_, ?_, ?_, ?_, ?_, ?_, ?_, ?_, ?_, ?_, ?_, fun l d s => State.setDebug_facts s l d, ?_, ?_, ?_, ?_, ?_⟩
  · intro c s running open_
    exact congrArg Host.Outcome.next ((if_neg running).trans (if_pos open_))
  · intro s open_
    constructor
    · exact congrArg (fun i => Host.Outcome.next (s.setTap i)) (if_pos open_)
    · exact congrArg (fun i => Host.Outcome.next (s.setTap i)) (if_pos open_)
  · intro c s running shut
    have closed : ¬ s.tapOpen = true := by simp [shut]
    refine ⟨congrArg Host.Outcome.next ((if_neg running).trans (if_neg closed)), ?_, ?_⟩
    · exact congrArg (fun i => Host.Outcome.next (s.setTap i)) (if_neg closed)
    · exact congrArg (fun i => Host.Outcome.next (s.setTap i)) (if_neg closed)
  · intro pair s level two runs running
    exact congrArg Host.Outcome.next (if_pos (by simp [level, two, runs, running]))
  · intro pair s level running halted
    exact congrArg Host.Outcome.next ((if_pos (by simp [level, running])).trans (if_pos halted))
  · intro a n d s level running awake pop
    exact congrArg Host.Outcome.next ((if_pos (by simp [level, running, awake])).trans (if_pos pop))
  · intro a n s level running awake pop clean
    exact congrArg Host.Outcome.next ((if_pos (by simp [level, running, awake])).trans (if_pos (by simp [pop, clean])))
  · intro a n d s level
    exact congrArg Host.Outcome.next (if_neg (by simp [Nat.not_le.mpr level]))
  · intro r s h life key level
    refine serve_then (after := fun t => t.setDebug (u8 r.pay 0)
      (if u32 r.pay 4 = 0 then none else some (s.now + u32 r.pay 4 * 1000000000))) h ?_ nofun
    simp only [dbgUnlock, key]
    rw [if_neg (returned_level life), if_neg (by simpa using level), State.consume_now]
  · intro r k s h life key good level
    refine serve_then (after := fun t => t.setDebug (u8 r.pay 0)
      (if u32 r.pay 4 = 0 then none else some (s.now + u32 r.pay 4 * 1000000000))) h ?_ nofun
    simp only [dbgUnlock, key, good]
    rw [if_neg (returned_level life), if_neg (by simpa [State.authorise] using level), State.authorise_now, State.consume_now]
  · intro r k d s h life key bad
    refine serve_fail h ?_ nofun
    simp only [dbgUnlock, key, bad]
    rw [if_neg (returned_level life)]
  · intro r s h
    by_cases low : s.pwr.dbgLevel ≤ u8 r.pay 0
    · rw [if_pos low]
      exact serve_okay h (if_pos (by simpa using low))
    · rw [if_neg low]
      have kept : ((s.consume r.via).respond s r .ok).pwr.dbgDeadline = s.pwr.dbgDeadline := by
        rw [(State.respond_posts _ _ _ _ _ _).pwr, State.consume_pwr]
      rw [← kept]
      refine serve_then (after := fun t => t.setDebug (u8 r.pay 0) (if u8 r.pay 0 = 0 then none else t.pwr.dbgDeadline)) h ?_ nofun
      exact if_neg (by simpa using low)
  · intro d s due
    change execDebugDurationExpire s = _
    simp only [execDebugDurationExpire, due]
  · intro r s h low
    refine serve_fail h ?_ nofun
    simp only [dbgTelemetryRead, State.consume_pwr]
    rw [if_pos low]
  · intro r s h sel level
    refine serve_okay h ?_
    obtain ⟨a, b, c, d, e⟩ := State.consume_frame s r.via
    simp only [dbgTelemetryRead]
    rw [if_neg (dbgTelemetryRead_level sel level), sel, e]
    rfl
  · intro r s h sel level
    refine serve_okay h ?_
    obtain ⟨a, b, c, d, e⟩ := State.consume_frame s r.via
    simp only [dbgTelemetryRead]
    rw [if_neg (dbgTelemetryRead_level sel level), sel, e]
    rfl
  · intro r s h sel level pop clean
    refine serve_okay h ?_
    obtain ⟨a, b, c, d, e⟩ := State.consume_frame s r.via
    simp only [dbgTelemetryRead]
    rw [if_neg (dbgTelemetryRead_level sel level), sel, e]
    have reachable : ¬ (!rangeAll s.populated (u64 r.pay 4) (u32 r.pay 12)) = true := by simp [pop]
    exact (if_neg reachable).trans (if_neg (Bool.eq_false_iff.mp clean))
  · intro r s h sel level
    refine serve_okay h ?_
    simp only [dbgTelemetryRead]
    rw [if_neg (dbgTelemetryRead_level sel level), sel]
    rfl
end

section
/-! SUPPORT. A group of the Basin after its own update, and what the checks of the Basin's messages read (04). -/
namespace Sys2Proof.Machine
open Sys2Proof

theorem lookD_upd_self {α : Type} (m : TMap α) (a : Nat) (d : α) (f : α → α) : lookD (upd m a d f) a d = f (lookD m a d) := by
  unfold upd
  generalize f (lookD m a d) = x
  unfold lookD
  rw [look_put_self]
  rfl

theorem State.group_updGroup_self (s : State) (g : Nat) (f : Group → Group) : (s.updGroup g f).group g = f (s.group g) :=
  lookD_upd_self s.basin.groups g {} f

theorem State.consume_groupHeld (s : State) (v : Via) (g : Nat) : (s.consume v).groupHeld g = s.groupHeld g := by
  obtain ⟨a, b, c, d, e⟩ := State.consume_frame s v
  rw [e]
  rfl

theorem State.consume_waysMixed (s : State) (v : Via) (w : TMap Nat) : (s.consume v).waysMixed w = s.waysMixed w := by
  obtain ⟨a, b, c, d, e⟩ := State.consume_frame s v
  rw [e]
  rfl

theorem State.consume_inTier (s : State) (via : Via) (v tier a n : Nat) : (s.consume via).inTier v tier a n = s.inTier v tier a n := by
  obtain ⟨a, b, c, d, e⟩ := State.consume_frame s via
  rw [e]
  rfl

section
variable {r : Req} {s : State}

/-- The change of mode that waits for what a group is used for (R149). -/
def modeChange (r : Req) (s : State) : GroupChange :=
  let x := s.group (u8 r.pay 0)
  { toScratch := decide (u8 r.pay 1 = 1), owner := if u8 r.pay 1 = 1 then some (u8 r.pay 2) else none
    waiting := if x.scratch then x.owner.toList else x.holders, done := r.deferred, old := x.owner }

theorem bsnGroupModeSet_later (kept : (s.group (u8 r.pay 0)).retired = false) (still : (s.group (u8 r.pay 0)).change = none)
    (other : ¬ ((s.group (u8 r.pay 0)).scratch = decide (u8 r.pay 1 = 1) ∧
      (s.group (u8 r.pay 0)).owner = if u8 r.pay 1 = 1 then some (u8 r.pay 2) else none))
    (held : (s.group (u8 r.pay 0)).scratch → s.groupHeld (u8 r.pay 0) = none) :
    bsnGroupModeSet.run r (s.consume r.via) = {
      s := ((s.consume r.via).setChange (u8 r.pay 0) (some (modeChange r s))).armBasin (u8 r.pay 0) (modeChange r s).waiting
      st := .pending
      after := fun t => if (modeChange r s).waiting.isEmpty
        then (t.setChange (u8 r.pay 0) (some { modeChange r s with phase := 1 })).leaveCache (u8 r.pay 0)
        else t.fireAll (modeChange r s).waiting } := by
  have free : (if (s.group (u8 r.pay 0)).scratch then s.groupHeld (u8 r.pay 0) else none) = none := by
    split
    · next h => exact held h
    · rfl
  simp only [bsnGroupModeSet, State.consume_group, State.consume_groupHeld, free]
  rw [if_neg (by simp [kept]), if_neg (by simp [still]), if_neg (by simpa using other)]
  rfl

/-- The flush that a request begins. -/
def flushOf (r : Req) : Flush :=
  { base := u64 r.pay 0, length := u64 r.pay 8, invalidate := bit (u32 r.pay 16) 0, done := r.deferred }

theorem bsnFlush_run (idle : look s.basin.flushes r.via.mbx = none) :
    bsnFlush.run r (s.consume r.via) = Res.okay (State.flushLines { s.consume r.via with free := s.free + 1 } (flushOf r)) ∨
    bsnFlush.run r (s.consume r.via) = Res.pend { s.consume r.via with
      free := s.free + 1, basin := { s.basin with flushes := put s.basin.flushes r.via.mbx (flushOf r) } } := by
  simp only [bsnFlush, State.consume_basin, State.drawNat, State.consume_free]
  rw [if_neg (by simp [idle])]
  split
  · exact .inr rfl
  · exact .inl rfl

end

/-- Where a line cannot reach its home, the group that was to be filled is a scratch group of its old owner again. -/
theorem State.fillGroup_bad {s : State} {g : Nat} {c : GroupChange}
    (bad : s.unreachable ((s.basin.lines.filter fun l => (look s.basin.moving (lineBucket l.1)) = some g).map (·.1)) ≠ []) :
    ∃ u : State, s.fillGroup g c = u.done c.done .faulted 0 [] ∧
      (u.group g).scratch ∧ (u.group g).owner = c.old ∧ (u.group g).change = none := by
  unfold State.fillGroup
  dsimp only
  rw [if_pos (by simpa using bad)]
  refine ⟨_, rfl, ?_⟩
  rw [State.group_updGroup_self]
  exact ⟨rfl, rfl, rfl⟩

end Sys2Proof.Machine
end

section
/-! PROOFS. The statement about the Basin (04). -/
open Sys2Proof Sys2Proof.Machine

/-- Settles O15: the checks of each message in their order, and each step of a change of mode by its phase. -/
theorem basin : Obligations.Basin := by
  unfold Obligations.Basin
  refine ⟨?_, ?_, ?_, ?_, ?_, ?_, fun g a s => rd_zeroN .., ?_, ?_, ?_, ?_, ?_⟩
  · intro r s h kept still
    refine ⟨fun same => ?_, fun other held => ?_⟩
    · refine serve_okay h ?_
      simp only [bsnGroupModeSet, State.consume_group]
      rw [if_neg (by simp [kept]), if_neg (by simp [still]), if_pos (by simpa using same)]
    · change serve bsnGroupModeSet r.via s = _
      have run := serve_pending h (bsnGroupModeSet_later kept still (by simpa using other) held)
      simp only [List.isEmpty_iff] at run
      simp [modeChange] at run ⊢
      exact run
  · intro r s h still cached pure
    dsimp only
    by_cases same : ((waysOf r.pay 4).filter fun e => decide (lookD (s.group (u8 r.pay 0)).ways e.1 0 ≠ e.2)).map (·.1) = []
    · rw [if_pos same]
      refine serve_okay h ?_
      simp only [bsnWaysSet, State.consume_group, State.consume_waysMixed]
      rw [if_neg (by simp [still]), if_neg (by simp [cached, pure]), if_pos (List.isEmpty_iff.mpr same)]
    · rw [if_neg same]
      refine serve_pending (after := fun s => s.fireAll _) h ?_
      simp only [bsnWaysSet, State.consume_group, State.consume_waysMixed]
      rw [if_neg (by simp [still]), if_neg (by simp [cached, pure]), if_neg (mt List.isEmpty_iff.mp same)]
  · intro g ecc c s change noWays out cached phase
    refine ⟨fun reach => ?_, fun bad => ?_⟩
    · change execBasinWritebackDone (g, ecc) s = _
      simp only [execBasinWritebackDone, change, noWays, out, cached, phase, State.drainGroup, reach]
      rfl
    · change execBasinWritebackDone (g, ecc) s = _
      simp [execBasinWritebackDone, change, noWays, out, cached, phase, State.drainGroup, bad]
  · intro g ecc c s change noWays out phase
    refine ⟨fun reach => ?_, fun bad => ?_⟩
    · change execBasinWritebackDone (g, ecc) s = _
      simp [execBasinWritebackDone, change, noWays, out, phase, State.fillGroup, reach]
    · obtain ⟨u, e, facts⟩ := State.fillGroup_bad (c := c) bad
      refine ⟨u, ?_, facts⟩
      change execBasinWritebackDone (g, ecc) s = _
      simp [execBasinWritebackDone, change, noWays, out, phase, e]
  · intro g c s change noWays scratch phase
    change execBasinGroupZeroed g s = _
    simp [execBasinGroupZeroed, change, noWays, scratch, phase]
  · intro g c s change noWays out cached phase
    change execBasinGroupZeroed g s = _
    simp [execBasinGroupZeroed, change, noWays, out, cached, phase]
  · intro b t old s moving bucket none_left
    change execBasinBucketFlip b s = _
    simp only [execBasinBucketFlip, State.flipBucket, moving, bucket]
    rw [if_neg]
    simpa using none_left
  · intro r s h idle
    dsimp only
    obtain run | run := bsnFlush_run idle
    · exact .inl (serve_okay h run)
    · exact .inr (serve_pend h run)
  · intro v f s under
    change execBsnFlushDone v s = _
    simp only [execBsnFlushDone, under]
  · intro r s h
    refine ⟨_, serve_okay h rfl, ?_⟩
    rw [State.consume_basin]
    simp [leBytes, List.take]
  · intro r s h coherent active tier off
    refine serve_okay h ?_
    simp only [memHostWindowSet, State.consume_link, State.consume_inTier]
    rw [if_neg (by simpa [coherent, active] using tier), if_neg (by simp [off])]
end

section
/-! SUPPORT. What the host's accesses over CXL touch (04, 15). -/
namespace Sys2Proof.Machine
open Sys2Proof

/-- `t` is `s` but for memory, the Basin, external memory and what is emitted. -/
def DataOnly (s t : State) : Prop := t = { s with mem := t.mem, basin := t.basin, ext := t.ext, out := t.out }

theorem DataOnly.trans {a b c : State} (h : DataOnly a b) (g : DataOnly b c) : DataOnly a c := by
  unfold DataOnly at *
  rw [g, h]

theorem State.emit_dataOnly (s : State) (o : Output) : DataOnly s (s.emit o) := rfl

theorem State.wakeChannels_eq (s : State) (a n : Nat) : s.wakeChannels a n = { s with ext := (s.wakeChannels a n).ext } := by
  unfold State.wakeChannels
  split <;> rfl

theorem State.clearPoison_eq (s : State) (a n : Nat) : s.clearPoison a n = { s with
    basin := { s.basin with poisonChunks := (s.clearPoison a n).basin.poisonChunks }, ext := (s.clearPoison a n).ext } := by
  unfold State.clearPoison
  split <;> rfl

theorem State.putThrough_dataOnly (s : State) (a : Nat) (d : Bytes) : DataOnly s (s.putThrough a d) := by
  unfold DataOnly State.putThrough
  dsimp only
  rw [State.clearPoison_eq, State.wakeChannels_eq]

theorem State.putThrough_mem (s : State) (a : Nat) (d : Bytes) : (s.putThrough a d).mem = wrN s.mem a d := by
  unfold State.putThrough
  dsimp only
  rw [State.clearPoison_eq, State.wakeChannels_eq]

theorem State.putThrough_tracker (s : State) (a : Nat) (d : Bytes) : (s.putThrough a d).basin.tracker = s.basin.tracker := by
  unfold State.putThrough
  dsimp only
  rw [State.clearPoison_eq, State.wakeChannels_eq]

theorem State.snoop_dataOnly (s : State) (a k : Nat) : DataOnly s (s.snoop a k) ∧ (s.snoop a k).mem = s.mem := by
  unfold State.snoop
  dsimp only
  cases look s.basin.lines (a / 256) with
  | none => exact ⟨rfl, rfl⟩
  | some x =>
    let Q (t : State) : Prop := DataOnly s t ∧ t.mem = s.mem
    have setLine {t : State} (l : Nat) (y : Line) (h : Q t) : Q (t.setLine l y) := ⟨h.1.trans rfl, h.2⟩
    have dropLine {t : State} (l : Nat) (h : Q t) : Q (t.dropLine l) := ⟨h.1.trans rfl, h.2⟩
    refine ite_holds (P := Q) (ite_holds (P := Q) ⟨rfl, rfl⟩ ⟨rfl, rfl⟩) (ite_holds (P := Q) (dropLine _ ?_) (setLine _ _ ?_))
    · exact ite_holds (P := Q) ⟨rfl, rfl⟩ ⟨rfl, rfl⟩
    · exact ite_holds (P := Q) ⟨rfl, rfl⟩ ⟨rfl, rfl⟩

theorem State.hostTrack_tracks (s : State) (line : Nat) (x : Bool) :
    ∃ e ∈ (s.hostTrack line x).basin.tracker, e.line = line ∧ (x → e.exclusive) := by
  unfold State.hostTrack
  dsimp only
  split
  · next there =>
    obtain ⟨e, mem, is⟩ := List.any_eq_true.mp there
    have line_eq : e.line = line := by simpa using is
    exact ⟨_, List.mem_map.mpr ⟨e, mem, rfl⟩, by rw [if_pos line_eq]; exact line_eq, fun h => by simp [line_eq, h]⟩
  · exact ⟨{ line := line, exclusive := x }, by simp, rfl, id⟩

theorem State.backInvalidate_mem (s : State) (l : Nat) : (s.backInvalidate l).mem = s.mem := by
  unfold State.backInvalidate
  exact ite_holds (P := fun t : State => t.mem = s.mem) rfl rfl

theorem State.backInvalidate_kept (s : State) (l : Nat) :
    (s.backInvalidate l).basin.hostReads = s.basin.hostReads ∧ (s.backInvalidate l).basin.tracker = s.basin.tracker := by
  unfold State.backInvalidate
  exact ite_holds (P := fun t : State => t.basin.hostReads = s.basin.hostReads ∧ t.basin.tracker = s.basin.tracker) ⟨rfl, rfl⟩ ⟨rfl, rfl⟩

/-- A line of the window is asked back from the host, so that the tracker has room for another. -/
def State.makeRoom (s : State) : State :=
  match s.basin.tracker.find? fun e => e.line ∉ s.basin.biPending with
  | some e => s.backInvalidate e.line
  | none => s

theorem State.makeRoom_kept (s : State) : s.makeRoom.mem = s.mem ∧ s.makeRoom.basin.hostReads = s.basin.hostReads ∧
    s.makeRoom.basin.tracker = s.basin.tracker := by
  unfold State.makeRoom
  split
  · exact ⟨State.backInvalidate_mem .., State.backInvalidate_kept ..⟩
  · exact ⟨rfl, rfl, rfl⟩

/-- A read of the window, once what its codes found is dealt with, is served or waits (R147). -/
theorem execCxlMemRead_window {a : Nat} {s : State} (ecc : List Ecc) (x : Bool) (on : s.cxlServes = true)
    (window : s.inWindow a = true) :
    execCxlMemRead (a, ecc) x s = .next (
      let u := s.eccAll ecc
      if u.basin.hostReads.isEmpty && (u.basin.tracker.length < trackerSize || u.basin.tracker.any (fun e => e.line = a / 64))
      then u.hostTakes (a / 64) x
      else { u.makeRoom with basin := { u.makeRoom.basin with hostReads := u.makeRoom.basin.hostReads ++ [(a / 64, x)] } }) :=
  congrArg Host.Outcome.next ((if_neg (by simp [on])).trans (if_neg (by simp [window])))

end Sys2Proof.Machine
end

section
/-! PROOFS. The statement about the host's accesses (04, 15). -/
open Sys2Proof Sys2Proof.Machine

/-- Settles O16: a snoop touches lines alone, and a read of the window is served or waits by the tracker's room. -/
theorem hostAccess : Obligations.HostAccess := by
  unfold Obligations.HostAccess
  refine ⟨?_, ?_, ?_, ?_, ?_, ?_, ?_, ?_, ?_⟩
  · intro a s on host none_held
    change execCxlSnoop a 0 none s = _
    simp [execCxlSnoop, State.snoop, on, host, none_held]
  · intro a l s on host held
    change execCxlSnoop a 0 none s = _
    simp [execCxlSnoop, State.snoop, on, host, held]
  · intro a k d s on host
    obtain ⟨snooped, same⟩ := State.snoop_dataOnly s a k
    have stored (b : Bytes) : DataOnly s ((s.snoop a k).putThrough (a / 64 * 64) b) := snooped.trans (State.putThrough_dataOnly ..)
    refine ⟨_, congrArg Host.Outcome.next (if_neg (by simp [on, host])), ?_⟩
    cases d with
    | none => exact ⟨fun _ => same, snooped⟩
    | some b => exact ⟨nofun, ite_holds (P := DataOnly s) (stored _) snooped⟩
  · intro a x ecc s on window
    dsimp only
    intro none_waits room
    refine ⟨_, (execCxlMemRead_window ecc x on window).trans (congrArg Host.Outcome.next (if_pos ?_)), ?_⟩
    · rw [none_waits]
      simpa using room
    · exact ⟨rfl, State.hostTrack_tracks .., List.getLast?_concat⟩
  · intro a x ecc s on window
    dsimp only
    intro full
    obtain ⟨mem, reads, tracker⟩ := (s.eccAll ecc).makeRoom_kept
    refine ⟨_, (execCxlMemRead_window ecc x on window).trans (congrArg Host.Outcome.next (if_neg ?_)), ?_⟩
    · simp only [Bool.and_eq_true, List.isEmpty_iff, Bool.or_eq_true, decide_eq_true_eq, List.any_eq_true, not_and, not_or, not_exists]
      intro none_waits
      obtain waits | ⟨long, absent⟩ := full
      · exact absurd none_waits waits
      · exact ⟨Nat.not_lt.mpr long, absent⟩
    · exact ⟨congrArg (· ++ [(a / 64, x)]) reads, mem, tracker⟩
  · intro a x p ecc d s on out
    constructor
    · change execCxlMemRead (a, ecc) x s = _
      simp [execCxlMemRead, on, out]
    · change execCxlMemWrite a d p s = _
      simp [execCxlMemWrite, on, out]
  · intro a d s on window
    refine ⟨_, ?_, State.putThrough_mem .., State.putThrough_tracker ..⟩
    change execCxlMemWrite a d false s = _
    simp [execCxlMemWrite, on, window]
  · intro a d s on window
    change execCxlMemWrite a d true s = _
    simp [execCxlMemWrite, on, window]
  · intro a d s waits
    dsimp only
    change (_ → execCxlBiResponse a d s = _) ∧ ∀ l x rest, _ → _ → execCxlBiResponse a d s = _
    unfold execCxlBiResponse
    rw [if_neg (by simp [waits])]
    cases d <;> dsimp only
    all_goals
      refine ⟨fun full => ?_, fun l x rest reads room => ?_⟩
      · split
        · next l x rest reads =>
          exact congrArg Host.Outcome.next (if_neg (Nat.not_lt.mpr (full.resolve_left (by rw [reads]; exact nofun))))
        · rfl
      · rw [reads]; exact congrArg Host.Outcome.next (if_pos room)
end

section
/-! SUPPORT. Requests that share an opcode, and what the repair messages read of external memory (05). -/
namespace Sys2Proof.Machine
open Sys2Proof

/-- Where the row's command is the one picked, it serves as the only one of its opcode would. -/
theorem serveIf_picked {m : Msg} {picks : Req → Bool} {r : Req} {s : State} (h : Accepted m r s) (k : picks r = true) :
    serveIf m picks r.via s = serve m r.via s :=
  (serveIf_answer h.waits h.op k).trans (serveIf_answer h.waits h.op rfl).symm

theorem RepairAt.gone_congr {s t : State} (h : t.ext = s.ext) (a : RepairAt) : a.gone t = a.gone s := by
  unfold RepairAt.gone
  rw [h]

theorem State.stack_congr {s t : State} (h : t.ext = s.ext) (i : Nat) : t.stack i = s.stack i := by
  unfold State.stack
  rw [h]

theorem RepairAt.pending_congr {s t : State} (h : t.ext = s.ext) (a : RepairAt) : a.pending t = a.pending s := by
  unfold RepairAt.pending
  rw [State.stack_congr h]

theorem RepairAt.softRow_congr {s t : State} (h : t.ext = s.ext) (a : RepairAt) : a.softRow t = a.softRow s := by
  unfold RepairAt.softRow
  rw [h]

theorem RepairAt.spares_congr {s t : State} (h : t.ext = s.ext) (a : RepairAt) : a.spares t = a.spares s := by
  unfold RepairAt.spares
  rw [State.stack_congr h]

theorem State.consume_regionInUse (s : State) (v : Via) (l : Bool) (r : Nat) :
    (s.consume v).regionInUse l r = s.regionInUse l r := by
  obtain ⟨a, b, c, d, e⟩ := State.consume_frame s v
  rw [e]
  rfl

theorem State.consume_hbmLive (s : State) (v : Via) : (s.consume v).hbmLive = s.hbmLive := by
  obtain ⟨a, b, c, d, e⟩ := State.consume_frame s v
  rw [e]
  rfl

theorem State.consume_lpdLive (s : State) (v : Via) : (s.consume v).lpdLive = s.lpdLive := by
  obtain ⟨a, b, c, d, e⟩ := State.consume_frame s v
  rw [e]
  rfl

/-- The patrol scrub past its next sector (R190). -/
def State.scrubbed (s : State) : State := { s with ext := { s.ext with
  scrubPos := (s.ext.scrubPos + 1) % scrubEnd
  scrubPasses := if s.ext.scrubPos + 1 = scrubEnd then (s.ext.scrubPasses + 1) % 2 ^ 32 else s.ext.scrubPasses } }

theorem execPatrolScrubStep_found {s : State} (found : Nat) (on : s.memoryOn = true) (hours : s.ext.scrubHours ≠ 0)
    (pop : s.populated (scrubAt s.ext.scrubPos) = true) (idle : s.ext.softBusy = none) :
    execPatrolScrubStep found s = .next (
      if found = 1 then s.scrubbed.updStack (hbmPc (scrubAt s.ext.scrubPos) / 32) fun x => { x with
        corrected := satAdd 0xFFFFFFFF x.corrected 1 }
      else if found = 2 then s.scrubbed.badSector (hbmPc (scrubAt s.ext.scrubPos)) (scrubAt s.ext.scrubPos)
      else s.scrubbed) := by
  unfold execPatrolScrubStep
  rw [if_neg (by simp [on, hours])]
  refine congrArg Host.Outcome.next (if_neg ?_)
  change ¬ (!s.populated (scrubAt s.ext.scrubPos) || (s.ext.softBusy.map _).getD false) = true
  rw [pop, idle]
  exact nofun

theorem execPatrolScrubStep_nothing {s : State} {found : Nat} (on : s.memoryOn = true) (hours : s.ext.scrubHours ≠ 0)
    (clean : found = 0 ∨ s.populated (scrubAt s.ext.scrubPos) = false) :
    execPatrolScrubStep found s = .next s.scrubbed := by
  unfold execPatrolScrubStep
  rw [if_neg (by simp [on, hours])]
  refine congrArg Host.Outcome.next ?_
  obtain none_found | absent := clean
  · dsimp only
    rw [if_neg (by omega : ¬ found = 1), if_neg (by omega : ¬ found = 2), ite_self]
    rfl
  · refine if_pos ?_
    change (!s.populated (scrubAt s.ext.scrubPos) || _) = true
    rw [absent]
    rfl

/-- The region that MEM_CHANNEL_RETIRE names, and the valleys that hold it. -/
def retireRegionOf (r : Req) : Nat := if u8 r.pay 0 = 1 then u8 r.pay 1 % 8 else u8 r.pay 1 % 16

def retireValleys (r : Req) (s : State) : List Nat :=
  (List.range 8).filter fun v => ((s.profile v).map fun p =>
    if u8 r.pay 0 = 1 then p.lpdRegions.getLsbD (retireRegionOf r) else p.hbmRegions.getLsbD (retireRegionOf r)).getD false

/-- A retirement that nothing stands against waits for the boundary of each valley of its region (R186). -/
theorem memChannelRetire_waits {r : Req} {s : State}
    (there : retireRegionOf r ∉ if u8 r.pay 0 = 1 then s.ext.lpdGone else s.ext.hbmGone)
    (fresh : ∀ x ∈ s.ext.retires, ¬ (x.lpddr = decide (u8 r.pay 0 = 1) ∧ x.channel = u8 r.pay 1))
    (allowed : bit (u8 r.pay 2) 0 ∨ s.regionInUse (decide (u8 r.pay 0 = 1)) (retireRegionOf r) = false) :
    memChannelRetire.run r (s.consume r.via) = {
      s := (retireValleys r s).foldl (fun t v => t.arm v (.channel (decide (u8 r.pay 0 = 1)) (u8 r.pay 1)) none)
        { s.consume r.via with ext := { s.ext with retires := s.ext.retires ++ [{
          lpddr := decide (u8 r.pay 0 = 1), channel := u8 r.pay 1, waiting := retireValleys r s, done := r.deferred }] } }
      st := .pending
      after := fun t => if (retireValleys r s).isEmpty then t.channelFree 8 (decide (u8 r.pay 0 = 1)) (u8 r.pay 1)
        else t.fireAll (retireValleys r s) } := by
  simp only [memChannelRetire, State.consume_ext, State.consume_profile, State.consume_regionInUse]
  have same (x : RetireReq) : ((x.lpddr = true) = (u8 r.pay 0 = 1)) ↔ x.lpddr = decide (u8 r.pay 0 = 1) := by
    cases x.lpddr <;> simp
  refine (if_neg there).trans ((if_neg ?_).trans (if_neg ?_))
  · simpa [same] using fresh
  · obtain on | free := allowed
    · simp [on]
    · have free' : s.regionInUse (decide (u8 r.pay 0 = 1)) (if u8 r.pay 0 = 1 then u8 r.pay 1 % 8 else u8 r.pay 1 % 16) = false :=
        free
      simp [free']

section
variable {r : Req} {s : State} (live : (repairAt r.pay).gone s = false)
include live

theorem softRun_fresh (fresh : (repairAt r.pay).softRow s = none) (idle : s.ext.softBusy = none) :
    softRun r (s.consume r.via) = Res.pend ((s.consume r.via).startSoft (repairAt r.pay) r.deferred) := by
  have e := State.consume_ext s r.via
  simp [softRun, RepairAt.gone_congr e, RepairAt.softRow_congr e, live, fresh, idle]

theorem softRun_promised (promised : (repairAt r.pay).pending s = true) (soft : (repairAt r.pay).softRow s ≠ none) :
    softRun r (s.consume r.via) = Res.okay (s.consume r.via) := by
  have e := State.consume_ext s r.via
  simp [softRun, RepairAt.gone_congr e, RepairAt.softRow_congr e, RepairAt.pending_congr e, live, promised, Option.isSome_iff_ne_none, soft]

theorem hardRun_promised (promised : (repairAt r.pay).pending s = true) :
    hardRun r (s.consume r.via) = Res.okay (s.consume r.via) := by
  have e := State.consume_ext s r.via
  simp [hardRun, RepairAt.gone_congr e, RepairAt.pending_congr e, live, promised]

section
variable (fresh : (repairAt r.pay).pending s = false) (few : (s.stack (u8 r.pay 0)).hardPending.length < 2)
  (spare : (repairAt r.pay).spares s ≠ 0)
include fresh few spare

theorem hardRun_soft (soft : (repairAt r.pay).softRow s ≠ none) :
    hardRun r (s.consume r.via) = Res.okay ((s.consume r.via).pendHard (repairAt r.pay)) := by
  have e := State.consume_ext s r.via
  have few' : (s.stack (repairAt r.pay).stack).hardPending.length < 2 := few
  simp [hardRun, RepairAt.gone_congr e, RepairAt.pending_congr e, RepairAt.spares_congr e, RepairAt.softRow_congr e,
    State.stack_congr e, live, fresh, Nat.not_le.mpr few', spare, Option.isSome_iff_ne_none, soft]

theorem hardRun_fresh (none_there : (repairAt r.pay).softRow s = none) (idle : s.ext.softBusy = none) :
    hardRun r (s.consume r.via) =
      Res.pend (((s.consume r.via).startSoft (repairAt r.pay) r.deferred).pendHard (repairAt r.pay)) := by
  have e := State.consume_ext s r.via
  have few' : (s.stack (repairAt r.pay).stack).hardPending.length < 2 := few
  simp [hardRun, RepairAt.gone_congr e, RepairAt.pending_congr e, RepairAt.spares_congr e, RepairAt.softRow_congr e,
    State.stack_congr e, live, fresh, Nat.not_le.mpr few', spare, none_there, idle]

end
end

end Sys2Proof.Machine
end

section
/-! PROOFS. The statement about external memory (05). -/
open Sys2Proof Sys2Proof.Machine

/-- Settles O17: the repair messages by what is repaired already, the scrub by what its step finds. -/
theorem externalMemory : Obligations.ExternalMemory := by
  unfold Obligations.ExternalMemory
  refine ⟨?_, ?_, ?_, ?_, ?_, ?_, ?_, ?_, ?_, ?_, ?_, ?_, ?_, ?_, ?_, ?_⟩
  · intro r s h
    refine ⟨_, serve_okay h rfl, ?_⟩
    rw [State.consume_hbmLive, State.consume_lpdLive]
    simp [leBytes, List.take]
  · intro r s h
    simp only [decide_eq_true_eq]
    refine ⟨fun gone => serve_okay h ?_, fun there fresh allowed => ?_⟩
    · simp only [memChannelRetire, State.consume_ext, State.consume_profile]
      rw [if_pos gone]
    · refine (serve_pending h (memChannelRetire_waits there fresh allowed)).trans ?_
      simp only [List.isEmpty_iff, State.consume_ext]
      rfl
  · intro r s h kind live fresh idle
    change execMemHbmRepairSoft r.via s = _
    unfold execMemHbmRepairSoft
    rw [serveIf_picked h (by simp [kind])]
    exact serve_pend h (softRun_fresh live fresh idle)
  · intro r s h kind live promised soft
    change execMemHbmRepairSoft r.via s = _
    unfold execMemHbmRepairSoft
    rw [serveIf_picked h (by simp [kind])]
    exact serve_okay h (softRun_promised live promised soft)
  · intro r s h kind live fresh few spare
    refine ⟨fun none_there idle => ?_, fun soft => ?_⟩
    · change execMemHbmRepairHard r.via s = _
      unfold execMemHbmRepairHard
      rw [serveIf_picked h (by simp [kind])]
      exact serve_pend h (hardRun_fresh live fresh few spare none_there idle)
    · change execMemHbmRepairHard r.via s = _
      unfold execMemHbmRepairHard
      rw [serveIf_picked h (by simp [kind])]
      exact serve_okay h (hardRun_soft live fresh few spare soft)
  · intro r s h kind live promised
    change execMemHbmRepairHard r.via s = _
    unfold execMemHbmRepairHard
    rw [serveIf_picked h (by simp [kind])]
    exact serve_okay h (hardRun_promised live promised)
  · intro r s h kind live
    change execMemHbmRepairCancelHard r.via s = _
    unfold execMemHbmRepairCancelHard
    rw [serveIf_picked h (by simp [kind])]
    refine serve_okay h (if_neg ?_)
    rw [RepairAt.gone_congr (State.consume_ext s r.via), live]
    exact nofun
  · intro bad waits x s busy
    change execSoftRepairDone bad waits s = _
    simp only [execSoftRepairDone, busy]
  · intro i temp s on stack
    change execMemoryRefreshTick false i temp s = _
    simp [execMemoryRefreshTick, on, stack]
  · intro i temp s on pkg
    change execMemoryRefreshTick true i temp s = _
    simp [execMemoryRefreshTick, on, pkg]
  · intro i temp rate s on pkg
    change execLpddrMr4Poll i temp rate s = _
    simp [execLpddrMr4Poll, on, pkg]
  · intro found s on hours
    dsimp only
    refine ⟨fun clean => execPatrolScrubStep_nothing on hours clean, fun pop idle one => ?_, fun pop idle two => ?_⟩
    · subst one
      exact execPatrolScrubStep_found 1 on hours pop idle
    · subst two
      exact execPatrolScrubStep_found 2 on hours pop idle
  · intro c n lane s on stack
    change execEccCorrectionBurst false c lane n s = _
    simp [execEccCorrectionBurst, on, stack]
  · intro c n lane s on ch
    change execEccCorrectionBurst true c lane n s = _
    simp [execEccCorrectionBurst, on, ch]
  · intro l c s on dormant up there
    change execChannelPowerDown l c s = _
    refine congrArg Host.Outcome.next ((if_pos ?_).trans ?_)
    · simp [on, dormant, up, there]
    · rw [State.advanceTo_eq]
  · intro g s dormant on glen threads bags plain
    change execGlenGate g s = _
    refine congrArg Host.Outcome.next (if_pos ?_)
    have threads_idle : (s.core.threads.any fun t => t.2.glen = g && !t.2.saved) = false := by
      exact List.any_eq_false.2 fun e there => by rcases threads e there with other | saved <;> simp [*]
    have bags_idle : (s.core.bags.any fun t => t.2.glen = g && !t.2.saved) = false := by
      exact List.any_eq_false.2 fun e there => by rcases bags e there with other | saved <;> simp [*]
    have plain_idle : (s.core.plain.any fun t => t.2.glen = g && !t.2.saved) = false := by
      exact List.any_eq_false.2 fun e there => by rcases plain e there with other | saved <;> simp [*]
    simp [dormant, on, glen, threads_idle, bags_idle, plain_idle]
end

section
/-! SUPPORT. Owner settings, and the session that a chunk's arrival keeps open (19). -/
namespace Sys2Proof.Machine
open Sys2Proof

theorem slotBytes_length (x : Option OtpSlot) : (slotBytes x).length = 40 := by
  cases x with
  | none => rfl
  | some e => cases h : e.valid <;> simp [slotBytes, h, leBytes, zeros, fit]

theorem flatMap_length {α : Type} {f : α → Bytes} {n : Nat} (same : ∀ x, (f x).length = n) (l : List α) :
    (l.flatMap f).length = n * l.length := by
  induction l with
  | nil => rfl
  | cons x xs ih => rw [List.flatMap_cons, List.length_append, same, ih, List.length_cons, Nat.mul_succ, Nat.add_comm]

section
variable {r : Req} {s : State}

theorem State.consume_otpSame (v : Via) (g : Nat) (b : Bytes) : (s.consume v).otpSame g b = s.otpSame g b := by
  obtain ⟨x, y, z, w, e⟩ := State.consume_frame s v
  rw [e]
  rfl

theorem State.consume_otpSlot (v : Via) (g i : Nat) : (s.consume v).otpSlot g i = s.otpSlot g i := by
  obtain ⟨x, y, z, w, e⟩ := State.consume_frame s v
  rw [e]
  rfl

theorem State.consume_ownerKey (v : Via) : (s.consume v).ownerKey = s.ownerKey := by
  obtain ⟨x, y, z, w, e⟩ := State.consume_frame s v
  rw [e]
  rfl

theorem State.consume_secSummary (v : Via) (n : Bytes) : (s.consume v).secSummary n = s.secSummary n := by
  obtain ⟨x, y, z, w, e⟩ := State.consume_frame s v
  rw [e]
  rfl

theorem State.updateRegion_congr {t : State} (h : t.sec.bootImage = s.sec.bootImage) (n : Nat) :
    t.updateRegion n = s.updateRegion n := by
  unfold State.updateRegion
  rw [h]

theorem State.consume_updateRegion (v : Via) (t : Nat) : (s.consume v).updateRegion t = s.updateRegion t :=
  State.updateRegion_congr (congrArg Sec.bootImage (State.consume_sec s v)) t

theorem State.consume_imageFails (v : Via) (g : Staging) (b : Bytes) : (s.consume v).imageFails g b = s.imageFails g b := by
  obtain ⟨x, y, z, w, e⟩ := State.consume_frame s v
  rw [e]
  rfl

theorem State.consume_nextFlashGen (v : Via) (g : Staging) : (s.consume v).nextFlashGen g = s.nextFlashGen g := by
  obtain ⟨x, y, z, w, e⟩ := State.consume_frame s v
  rw [e]
  rfl

theorem State.consume_setSec (v : Via) (x : Sec) : (s.setSec x).consume v = (s.consume v).setSec x := by
  unfold State.consume
  cases v.xport <;> rfl

theorem State.authorise_otpSame (k : Option Bytes) (off g : Nat) (b : Bytes) :
    (s.authorise r off k).1.otpSame g b = s.otpSame g b := rfl

theorem State.authorise_otpSlot (k : Option Bytes) (off g i : Nat) : (s.authorise r off k).1.otpSlot g i = s.otpSlot g i := rfl

/-- Of a session of the request's transport and generation, a chunk restarts the idle time and is then accepted as before. -/
theorem updateSeen_of_accepted {g : Staging} (h : Accepted secFwUpdateChunk r s) (session : s.sec.update = some g)
    (mine : g.xport = r.via.xport) (gen : u32 r.pay 0 = g.generation) :
    s.updateSeen r.via = s.setSec { s.sec with update := some { g with idleFrom := s.now } } ∧
    Accepted secFwUpdateChunk r (s.setSec { s.sec with update := some { g with idleFrom := s.now } }) := by
  obtain ⟨raw, waits, parsed⟩ := Option.map_eq_some_iff.1 h.waits
  have long : 4 ≤ r.pay.length := by
    obtain ⟨len, pay⟩ := h.len
    simp only [secFwUpdateChunk, chunkMsgLen, Bool.and_eq_true, decide_eq_true_eq] at len
    omega
  have op : r.op = 0x0B05 := h.op
  have dm : r.via.mbx = 8 := h.mbx_eq rfl
  constructor
  · unfold State.updateSeen
    simp only [waits, session, parsed]
    exact if_pos (by simp [op, dm, mine, long, gen])
  · obtain ⟨x, y, z, w, e⟩ := State.consume_frame s r.via
    have checks := h.checks
    have room := h.room
    rw [e] at checks room
    refine ⟨h.waits, h.op, ?_, h.free, ?_⟩
    · rw [State.consume_setSec, e]
      exact checks
    · rw [State.consume_setSec, e]
      exact room

/-- A chunk that fits its session and is not stored yet is stored (R59). -/
theorem Staging.store_new {g : Staging} {p : Bytes} (gen : u32 p 0 = g.generation) (inside : u32 p 4 < g.count)
    (len : u16 p 8 = g.chunkLen (u32 p 4)) (crc : (crc32c (p.drop 16)).toNat = u32 p 12)
    (new : look g.chunks (u32 p 4) = none) :
    g.store p = (.ok, 0, { g with chunks := put g.chunks (u32 p 4) (p.drop 16) }) := by
  simp [Staging.store, gen, Nat.not_le.mpr inside, len, crc, new]

end

end Sys2Proof.Machine
end

section
/-! PROOFS. The statement about owner settings and flash updates (19). -/
open Sys2Proof Sys2Proof.Machine

/-- Settles O18: each message's checks in their order; a chunk is accepted as before once its arrival is seen. -/
theorem ownersAndFlash : Obligations.OwnersAndFlash := by
  unfold Obligations.OwnersAndFlash
  refine ⟨?_, ?_, ?_, ?_, ?_, ?_, ?_, ?_, ?_, ?_, ?_, ?_, ?_⟩
  · intro r s h summary serves
    refine serve_okay h ?_
    simp only [secOtpRead, State.consume_dev]
    rw [if_pos summary, if_neg serves]
    obtain ⟨x, y, z, w, e⟩ := State.consume_frame s r.via
    rw [e]
    rfl
  · intro r s h summary held
    refine serve_okay h ?_
    simp only [secOtpRead, State.consume_dev]
    rw [if_pos summary, if_pos held, State.consume_secSummary]
  · intro r s h setting
    refine ⟨_, serve_okay h (if_neg setting), ?_⟩
    simp only [List.length_append, flatMap_length fun _ => slotBytes_length _]
    simp [leBytes]
  · intro r i s h life idle kept new free
    refine serve_pend h ?_
    simp only [secOtpProgram, State.consume_sec]
    rw [if_neg (by simp [kept]), if_neg (by simp [idle]), if_neg (by omega)]
    simp only [State.consume_otpSame, State.consume_otpSlot, new, free]
    rfl
  · intro r s h life idle kept same
    refine serve_okay h ?_
    simp only [secOtpProgram, State.consume_sec]
    rw [if_neg (by simp [kept]), if_neg (by simp [idle]), if_neg (by omega)]
    simp only [State.consume_otpSame, same, if_true]
  · intro r s h life kept idle
    dsimp only
    intro good
    refine ⟨fun same => serve_okay h ?_, fun new i free => serve_pend h ?_⟩
    · simp only [secOtpProgram, State.consume_sec]
      rw [if_neg (by simp [kept]), if_neg (by simp [idle]), if_pos life]
      simp only [State.consume_ownerKey, good, State.authorise_otpSame, State.consume_otpSame, same, if_true]
    · simp only [secOtpProgram, State.consume_sec]
      rw [if_neg (by simp [kept]), if_neg (by simp [idle]), if_pos life]
      simp only [State.consume_ownerKey, good, State.authorise_otpSame, State.consume_otpSame, new, State.authorise_otpSlot,
        State.consume_otpSlot, free]
      rfl
  · intro r d s h life kept idle
    dsimp only
    intro bad
    refine serve_fail h ?_ nofun
    simp only [secOtpProgram, State.consume_sec]
    rw [if_neg (by simp [kept]), if_neg (by simp [idle]), if_pos life]
    simp only [State.consume_ownerKey, bad]
  · intro p s prog
    dsimp only
    change execOtpProgramDone true s = _ ∧ execOtpProgramDone false s = _
    simp only [execOtpProgramDone, prog]
    exact ⟨rfl, rfl⟩
  · intro r s h mine
    refine serve_okay h ?_
    have free : ((s.sec.update.map fun g => g.xport != r.via.xport).getD false) = false := by
      cases u : s.sec.update with
      | none => rfl
      | some g => simpa using mine g u
    simp only [secFwUpdateBegin, State.consume_sec, free]
    rw [if_neg nofun, State.consume_now]
    refine congrArg (fun n => Res.okay _ (leBytes 1 n ++ zeros 3)) ?_
    exact State.updateRegion_congr rfl _
  · intro r g s h session mine gen inside len crc new
    dsimp only
    obtain ⟨seen, accepted⟩ := updateSeen_of_accepted h session mine gen
    have stored : ({ g with idleFrom := s.now } : Staging).store r.pay = _ := Staging.store_new gen inside len crc new
    change serve secFwUpdateChunk r.via (s.updateSeen r.via) = _
    rw [seen]
    refine serve_okay accepted ?_
    rw [State.consume_setSec]
    simp only [secFwUpdateChunk, State.setSec_sec]
    rw [if_neg (by simp [mine]), stored]
    have now : (s.consume r.via).now = s.now := State.consume_now s r.via
    rw [← now]
    rfl
  · intro r g s h session mine idle gen
    refine ⟨fun d bad => serve_fail h ?_ nofun, fun d good bad => serve_fail h ?_ nofun, fun good fits => ?_⟩
    · simp only [secFwUpdateCommit, State.consume_sec, session]
      rw [if_neg (by simp [mine, idle]), if_neg (by simp [gen])]
      simp only [bad]
    · simp only [secFwUpdateCommit, State.consume_sec, session]
      rw [if_neg (by simp [mine, idle]), if_neg (by simp [gen])]
      simp only [good, State.consume_imageFails, bad]
    · let c : FlashCommit := {
        target := s.updateRegion g.target, image := { generation := s.nextFlashGen g, bytes := g.image, crcOk := true }
        raiseTo := if g.target = 0 && g.raiseFloor && s.sec.svnFloor < u32 g.image 12 then some (u32 g.image 12) else none
        done := r.deferred }
      refine ⟨c, serve_pend h ?_, rfl, rfl, rfl⟩
      simp only [secFwUpdateCommit, State.consume_sec, session]
      rw [if_neg (by simp [mine, idle]), if_neg (by simp [gen])]
      simp only [good, State.consume_imageFails, State.consume_updateRegion, State.consume_nextFlashGen, fits]
      rfl
  · intro c s commit
    change execFlashCommitDone s = _
    simp only [execFlashCommitDone, commit]
    rfl
  · intro g s session
    change execFwUpdateSessionTimeout s = _
    simp only [execFwUpdateSessionTimeout, session]
    rw [State.advanceTo_eq]
end

section
/-! SUPPORT. The lifecycle's message (R718), and SPDM answers to the request in front (R736). -/
namespace Sys2Proof.Machine
open Sys2Proof

section
variable {r : Req} {s : State}

theorem State.setMask_frame (t m : Nat) : ∃ x, s.setMask t m = s.setSec x := by
  unfold State.setMask
  split <;> exact ⟨_, rfl⟩

theorem State.consume_setMask_keepsSecurity (v : Via) (t m : Nat) :
    ((s.consume v).setMask t m).keepsSecurity = (s.setMask t m).keepsSecurity := by
  obtain ⟨a, b, c, d, e⟩ := State.consume_frame s v
  rw [e]
  unfold State.setMask
  split <;> rfl

theorem State.consume_transports (v : Via) : (s.consume v).transports = s.transports := by
  unfold State.transports
  rw [State.consume_link]

/-- An allowed transition beyond PROVISIONED needs good authorisation, but the return of a BLANK part (R718). -/
theorem secLifecycleSet_run (idle : s.sec.otpProg = none) (still : u8 r.pay 0 = 3 → s.sec.flashCommit = none)
    (allowed : lifecycleAllowed s.sec.life.code (u8 r.pay 0) = true) (other : u8 r.pay 0 ≠ s.sec.life.code)
    (beyond : u8 r.pay 0 ≠ 1) :
    let a := if s.sec.life.code = 0 then (s.consume r.via, none) else (s.consume r.via).authorise r 100 s.ownerKey
    (∀ d, a.2 = some d → secLifecycleSet.run r (s.consume r.via) = Res.fail a.1 .checkFailed d) ∧
    (a.2 = none → secLifecycleSet.run r (s.consume r.via) = if u8 r.pay 0 = 2
      then Res.okay (a.1.setSec { a.1.sec with life := { a.1.sec.life with deployed := true } })
      else Res.pend (a.1.beginReturn r.deferred)) := by
  intro a
  have ready : ¬ ((s.consume r.via).sec.otpProg.isSome ||
      (u8 r.pay 0 = 3 && (s.consume r.via).sec.flashCommit.isSome)) = true := by
    rw [State.consume_sec, idle]
    simpa using still
  have run : secLifecycleSet.run r (s.consume r.via) = match a.2 with
      | some d => Res.fail a.1 .checkFailed d
      | none => if u8 r.pay 0 = 2
        then Res.okay (a.1.setSec { a.1.sec with life := { a.1.sec.life with deployed := true } })
        else Res.pend (a.1.beginReturn r.deferred) := by
    simp only [secLifecycleSet]
    rw [if_neg ready]
    simp only [State.consume_sec, State.consume_ownerKey]
    rw [if_neg other, if_neg (by simp [allowed]), if_neg beyond] <;> rfl
  constructor
  · intro d bad
    rw [run, bad]
  · intro good
    rw [run, good]

theorem lifecycleAllowed_return {n : Nat} (h : n < 3) : lifecycleAllowed n 3 = true := by
  simp [lifecycleAllowed]; omega

/-- The measurement blocks that an index names (R736): none is asked for by 0. -/
theorem measured_blocks (s : State) {i : Nat} (known : i ≤ 5 ∨ i = 0xFF) :
    let bs := if i = 0xFF then [1, 2, 3, 4, 5].map s.measurement else if i = 0 then [] else [s.measurement i]
    (if i = 0xFF then [1, 2, 3, 4, 5].map s.measurement
      else if 1 ≤ i && i ≤ 5 then [s.measurement i] else []) = bs ∧ (i ≠ 0 → bs ≠ []) := by
  by_cases all : i = 0xFF
  · simp [all]
  · by_cases zero : i = 0
    · simp [zero]
    · have one : 1 ≤ i ∧ i ≤ 5 := by omega
      simp [all, zero, one]

theorem State.spdm_answer {src : Nat} {q : SpdmReq} {rest : List (Nat × SpdmReq)} {f : SpdmReq → Option (SpdmRsp × State)}
    {x : SpdmRsp} {t : State} (front : s.smb.mctpIn = (src, q) :: rest) (e : f q = some (x, t)) :
    s.spdm f = ({ t with smb := { t.smb with mctpIn := rest } } : State).sendMctp src x := by
  unfold State.spdm
  rw [front]
  simp only [e]

end

end Sys2Proof.Machine
end

section
/-! PROOFS. The statement about access masks, the lifecycle and attestation (19, 21). -/
open Sys2Proof Sys2Proof.Machine

/-- Settles O19: a transition's checks in their order; an answer is that of the request in front. -/
theorem accessAndLifecycle : Obligations.AccessAndLifecycle := by
  unfold Obligations.AccessAndLifecycle
  refine ⟨?_, ?_, ?_, ?_, ?_, ?_, ?_, ?_⟩
  · intro r s h mine keeps
    refine serve_okay h (if_neg ?_)
    rw [State.consume_transports, State.consume_setMask_keepsSecurity]
    simp [mine, keeps]
  · intro r s h other
    refine serve_fail h (if_pos ?_) nofun
    rw [State.consume_transports]
    simp [other]
  · intro r s h goal code idle point
    refine serve_okay h ?_
    simp only [secLifecycleSet, State.consume_sec]
    rw [if_neg (by simp [idle, goal]), if_neg (by omega), if_neg (by simp [lifecycleAllowed, goal, code]), if_pos goal,
      if_neg (by simp [point])]
  · intro r s h goal code idle
    dsimp only
    obtain ⟨bad, good⟩ := secLifecycleSet_run (r := r) idle (by omega) (by simp [lifecycleAllowed, goal, code]) (by omega) (by omega)
    rw [if_neg (by omega)] at bad good
    cases a : ((s.consume r.via).authorise r 100 s.ownerKey).2 with
    | some d => exact serve_fail h (bad d a) nofun
    | none =>
      refine serve_okay h ((good a).trans ((if_pos goal).trans ?_))
      have life : ((s.consume r.via).authorise r 100 s.ownerKey).1.sec.life = s.sec.life :=
        (congrArg Sec.life (State.consume_sec s r.via) :)
      exact congrArg (fun l : Lifecycle => Res.okay
        (((s.consume r.via).authorise r 100 s.ownerKey).1.setSec { ((s.consume r.via).authorise r 100 s.ownerKey).1.sec with
          life := { l with deployed := true } })) life
  · intro r s h idle still same
    refine serve_okay h ?_
    simp only [secLifecycleSet, State.consume_sec]
    rw [if_neg (by simpa [idle] using still), if_pos same]
  · intro r s h goal code idle commit
    dsimp only
    obtain ⟨bad, good⟩ := secLifecycleSet_run (r := r) idle (fun _ => commit) (by rw [goal]; exact lifecycleAllowed_return code)
      (by omega) (by omega)
    generalize (if s.sec.life.code = 0 then (s.consume r.via, none) else (s.consume r.via).authorise r 100 s.ownerKey) = a at *
    cases e : a.2 with
    | some d => exact serve_fail h (bad d e) nofun
    | none => exact serve_pend h ((good e).trans (if_neg (by omega)))
  · intro d s returning
    change execLifecycleReturnDone s = _
    simp only [execLifecycleReturnDone, returning]
    rfl
  · intro src rest q s front
    dsimp only
    refine ⟨?_, ?_, ?_, ?_, ?_, ?_, ?_, ?_, ?_, ?_⟩
    · rintro rfl
      exact congrArg Host.Outcome.next (State.spdm_answer front rfl)
    · rintro rfl
      exact congrArg Host.Outcome.next (State.spdm_answer front rfl)
    · rintro p h rfl
      exact congrArg Host.Outcome.next (State.spdm_answer front rfl)
    · rintro rfl
      exact congrArg Host.Outcome.next (State.spdm_answer front rfl)
    · rintro o n rfl inside
      refine congrArg Host.Outcome.next (State.spdm_answer front (if_neg ?_))
      simp [inside]
    · rintro k o n rfl outside
      refine congrArg Host.Outcome.next (State.spdm_answer front (if_pos ?_))
      simp [outside]
    · rintro k nonce rfl other
      refine congrArg Host.Outcome.next (State.spdm_answer front (if_pos ?_))
      simp [other]
    · rintro nonce rfl
      refine congrArg Host.Outcome.next (State.spdm_answer (t := { s with free := s.free + 1 }) front (if_neg ?_))
      exact not_not_intro rfl
    · rintro i signed nonce rfl known
      refine congrArg Host.Outcome.next ?_
      have blocks := measured_blocks s known
      generalize (if i = 0xFF then [1, 2, 3, 4, 5].map s.measurement else if i = 0 then [] else [s.measurement i]) = bs at *
      have given : ¬ (i ≠ 0 && bs.isEmpty) = true := by simpa using blocks.2
      cases signed
      · refine State.spdm_answer front ?_
        dsimp only
        rw [blocks.1, if_neg given]
        rfl
      · refine State.spdm_answer (t := { s with free := s.free + 1 }) front ?_
        dsimp only
        rw [blocks.1, if_neg given]
        rfl
    · rintro i signed nonce rfl big other
      refine congrArg Host.Outcome.next (State.spdm_answer front ?_)
      have outside : ¬ (1 ≤ i && i ≤ 5) = true := by simp; omega
      have named : (i ≠ 0 && ([] : List (Nat × Nat × Bytes)).isEmpty) = true := by simp; omega
      dsimp only
      rw [if_neg other, if_neg outside]
      exact if_pos named
end

section
/-! SUPPORT. Power windows, throttling and the trace (20). -/
namespace Sys2Proof.Machine
open Sys2Proof

/-- Beside time and power, `t` differs from `s` by what posting changes alone. -/
theorem Posts.timed {s t : State} {x : Time} {p : Pwr} (h : Posts { s with time := x, pwr := p } t) :
    Posts { s with time := t.time, pwr := t.pwr } t := by
  rw [h.time, h.pwr]
  exact h

/-- The power settings after a window that was measured (R750, R752). -/
def State.windowMeasured (s : State) (mw at_ : Nat) : Pwr :=
  { s.pwr with
    windowAt := at_, powerMw := mw
    powerLimit := s.governed && s.limitW * 1000 < mw
    powerOver := s.governed && (s.limitW * 1020 < mw || (s.pwr.powerOver && (s.governed && s.limitW * 1000 < mw))) }

theorem State.measureWindow_posts (s : State) (mw : Nat) (x : Time) (at_ : Nat) (changed : Bool) :
    let u : State := { s with time := x, pwr := s.windowMeasured mw at_ }
    Posts u (if changed then u.pwrEvent 4 [0] else u) :=
  ite_holds (P := Posts _) (State.event_posts ..) (.refl _)

/-- The power settings after a window that could not be measured (R750). -/
def State.windowLost (s : State) (at_ : Nat) : Pwr :=
  if s.pwr.sensorFail then { s.pwr with windowAt := at_ }
  else { s.pwr with windowAt := at_, sensorFail := true, powerOver := false }

theorem State.windowMeasured_over (s : State) (mw at_ : Nat) : (s.windowMeasured mw at_).powerOver ↔
    s.governed ∧ (s.limitW * 1020 < mw ∨ s.pwr.powerOver ∧ s.limitW * 1000 < mw) := by
  unfold State.windowMeasured
  cases s.governed <;> simp

/-- THROTTLE_IN taken over: the assertion counted, and the target under the cap (R773). -/
def State.throttled (s : State) : State :=
  let t := s.setPwr { s.pwr with throttle := true, throttleEvents := s.pwr.throttleEvents + 1 }
  { t with pace := { t.pace with
    target := min t.pace.target t.vcoreCap, easyRun := if t.vcoreCap < t.pace.target then 0 else t.pace.easyRun } }

theorem Posts.vcoreCap {s t : State} (h : Posts s t) : t.vcoreCap = s.vcoreCap := by
  unfold State.vcoreCap
  rw [h.dev, h.pwr, h.pace]

/-- The next whole millisecond. -/
def nextMs (t : Nat) : Nat := (t / 1000000 + 1) * 1000000

theorem nextMs_later (t : Nat) : t < nextMs t ∧ nextMs t % 1000000 = 0 := by
  unfold nextMs
  omega

theorem State.advanceTo_reach {s : State} {t : Nat} (later : s.now < t) :
    ∃ x, s.advanceTo t = { s with time := x } ∧ x.now = t :=
  ⟨_, State.advanceTo_eq s t, (State.advanceTo_now s t).trans (Nat.max_eq_right (Nat.le_of_lt later))⟩

theorem execTraceTick_eq {s : State} (running : s.dev.st ≠ .reset) : ∃ (x : Time) (tr : TMap Bytes),
    execTraceTick s = .next { s with time := x, pwr := { s.pwr with trace := tr, traceCount := s.pwr.traceCount + 1 } } ∧
    s.now < x.now ∧ x.now % 1000000 = 0 := by
  obtain ⟨later, whole⟩ := nextMs_later s.now
  obtain ⟨x, at_, reached⟩ := State.advanceTo_reach later
  unfold nextMs at at_
  unfold execTraceTick
  rw [if_neg running, at_]
  rw [← reached] at later whole
  exact ⟨x, _, rfl, later, whole⟩

/-- The end of a power window: its time, noted. -/
def State.windowEnd (s : State) : State :=
  let s := s.advanceTo (s.pwr.windowAt + 1000000)
  s.setPwr { s.pwr with windowAt := s.now }

theorem State.windowEnd_eq (s : State) :
    ∃ x at_, s.windowEnd = { s with time := x, pwr := { s.pwr with windowAt := at_ } } := by
  unfold State.windowEnd
  rw [State.advanceTo_eq]
  exact ⟨_, _, rfl⟩

/-- What the window measured, kept (R750, R752). -/
def State.measured (u : State) (mw : Nat) : State :=
  u.setPwr { u.pwr with
    powerMw := mw, powerLimit := u.governed && u.limitW * 1000 < mw
    powerOver := u.governed && (u.limitW * 1020 < mw || (u.pwr.powerOver && (u.governed && u.limitW * 1000 < mw))) }

theorem State.measured_eq (s : State) (mw : Nat) (x : Time) (at_ : Nat) :
    ({ s with time := x, pwr := { s.pwr with windowAt := at_ } } : State).measured mw =
      { s with time := x, pwr := s.windowMeasured mw at_ } := by
  have limit : ({ s with time := x, pwr := { s.pwr with windowAt := at_ } } : State).limitW = s.limitW := rfl
  have governed : ({ s with time := x, pwr := { s.pwr with windowAt := at_ } } : State).governed = s.governed := rfl
  unfold State.measured State.windowMeasured
  rw [limit, governed]
  rfl

theorem execPowerWindow_ends {s : State} (mw : Nat) (running : s.dev.st ≠ .reset) : ∃ changed : Bool,
    execPowerWindow mw true s =
      .next (if changed then (s.windowEnd.measured mw).pwrEvent 4 [0] else s.windowEnd.measured mw) := by
  refine ⟨(s.windowEnd.governed && s.windowEnd.limitW * 1000 < mw) && !s.windowEnd.pwr.powerLimit, ?_⟩
  unfold execPowerWindow
  dsimp only
  rw [if_neg running, if_neg (show ¬ (!true) = true from nofun)]
  rfl

/-- A window that was measured, at the time it ends. -/
theorem execPowerWindow_measured {s : State} (mw : Nat) (running : s.dev.st ≠ .reset) : ∃ x at_, ∃ changed : Bool,
    execPowerWindow mw true s = .next (
      let u : State := { s with time := x, pwr := s.windowMeasured mw at_ }
      if changed then u.pwrEvent 4 [0] else u) := by
  obtain ⟨x, at_, ends⟩ := s.windowEnd_eq
  obtain ⟨changed, run⟩ := execPowerWindow_ends mw running
  rw [ends, State.measured_eq] at run
  exact ⟨x, at_, changed, run⟩

/-- A window that could not be measured. -/
theorem execPowerWindow_lost {s : State} (mw : Nat) (running : s.dev.st ≠ .reset) : ∃ x at_,
    execPowerWindow mw false s = .next (
      let u : State := { s with time := x, pwr := s.windowLost at_ }
      if s.pwr.sensorFail then u else if s.fwRun then u.pwrEvent 4 [1] else u) := by
  obtain ⟨x, at_, ends⟩ := s.windowEnd_eq
  have run : execPowerWindow mw false s = .next (
      if s.windowEnd.pwr.sensorFail then s.windowEnd
      else
        let t := s.windowEnd.setPwr { s.windowEnd.pwr with sensorFail := true, powerOver := false }
        if t.fwRun then t.pwrEvent 4 [1] else t) := by
    unfold execPowerWindow
    dsimp only
    rw [if_neg running, if_pos (show (!false) = true from rfl)]
    rfl
  rw [ends] at run
  refine ⟨x, at_, run.trans ?_⟩
  unfold State.windowLost
  cases fail : s.pwr.sensorFail
  · rfl
  · simp only [fail, if_true]

theorem State.loseWindow_posts (s : State) (x : Time) (at_ : Nat) :
    let u : State := { s with time := x, pwr := s.windowLost at_ }
    Posts u (if s.pwr.sensorFail then u else if s.fwRun then u.pwrEvent 4 [1] else u) :=
  ite_holds (P := Posts _) (.refl _) (ite_holds (P := Posts _) (State.event_posts ..) (.refl _))

theorem State.windowLost_facts (s : State) (at_ : Nat) : (s.windowLost at_).sensorFail ∧
    (s.pwr.sensorFail = false → (s.windowLost at_).powerOver = false) ∧ (s.windowLost at_).powerMw = s.pwr.powerMw := by
  unfold State.windowLost
  cases h : s.pwr.sensorFail <;> simp [h]

end Sys2Proof.Machine
end

section
/-! PROOFS. The statement about power (20). -/
open Sys2Proof Sys2Proof.Machine

/-- Settles O20: a window's power is what was measured, and the rest of it posts alone. -/
theorem power : Obligations.Power := by
  unfold Obligations.Power
  refine ⟨?_, ?_, ?_, ?_, ?_, ?_, ?_, ?_, ?_, ?_⟩
  · intro r s h awake
    refine serve_okay h ?_
    simp only [pwrStateSet, State.consume_dev, State.consume_pwr]
    rw [if_neg awake]
  · intro r s h asleep none_waking
    refine serve_pend h ?_
    simp only [pwrStateSet, State.consume_dev, State.consume_pwr, State.consume_now]
    rw [if_pos asleep, if_neg (by simp [none_waking])]
  · intro r s h
    refine ⟨_, serve_okay h rfl, ?_⟩
    obtain ⟨a, b, c, d, e⟩ := State.consume_frame s r.via
    rw [e]
    simp [leBytes, List.take]
    exact ⟨rfl, rfl⟩
  · intro r s h
    refine serve_okay h ?_
    simp only [pwrLimitSet, State.consume_pwr]
  · intro mw s running
    obtain ⟨x, at_, changed, run⟩ := execPowerWindow_measured mw running
    have posts := State.measureWindow_posts s mw x at_ changed
    dsimp only at posts run
    refine ⟨_, run, congrArg Pwr.powerMw posts.pwr, ?_, ?_, posts.timed⟩
    · rw [congrArg Pwr.powerLimit posts.pwr]
      simp [State.windowMeasured]
    · rw [congrArg Pwr.powerOver posts.pwr]
      exact State.windowMeasured_over ..
  · intro mw s running
    obtain ⟨x, at_, run⟩ := execPowerWindow_lost mw running
    have posts := State.loseWindow_posts s x at_
    obtain ⟨fail, clear, same⟩ := s.windowLost_facts at_
    dsimp only at posts run
    refine ⟨_, run, ?_, fun was => ?_, ?_, posts.timed⟩
    · rw [congrArg Pwr.sensorFail posts.pwr]
      exact fail
    · rw [congrArg Pwr.powerOver posts.pwr]
      exact clear was
    · rw [congrArg Pwr.powerMw posts.pwr]
      exact same
  · intro s asserted calm on
    have posts : Posts s.throttled (s.throttled.pwrEvent 2 [1]) := State.event_posts ..
    refine ⟨_, congrArg Host.Outcome.next (if_pos (by simp [asserted, calm, on])), posts.pwr, ?_, ?_⟩
    · change (s.throttled.pwrEvent 2 [1]).pace.target ≤ (s.throttled.pwrEvent 2 [1]).vcoreCap
      rw [posts.vcoreCap, posts.pace]
      exact Nat.min_le_right ..
    · change Posts { s with
        pwr := (s.throttled.pwrEvent 2 [1]).pwr
        pace := { s.pace with target := (s.throttled.pwrEvent 2 [1]).pace.target
                              easyRun := (s.throttled.pwrEvent 2 [1]).pace.easyRun } } (s.throttled.pwrEvent 2 [1])
      rw [posts.pwr, posts.pace]
      exact posts
  · intro s released held on
    exact congrArg Host.Outcome.next (if_pos (by simp [released, held, on]))
  · intro s on free off
    exact congrArg Host.Outcome.next (if_pos (by simpa [on, free] using off))
  · intro s running
    obtain ⟨x, tr, run, later, whole⟩ := execTraceTick_eq running
    exact ⟨_, run, rfl, later, whole, rfl⟩
end

section
/-! SUPPORT. The writer of the fault ring and its consumer (18). -/
namespace Sys2Proof.Machine
open Sys2Proof

theorem State.loseRecords_nil (s : State) : s.loseRecords [] = s := rfl

theorem State.reportLoss_dev (s : State) (n : Nat) : (s.reportLoss n).dev = s.dev := by
  unfold State.reportLoss
  exact ite_holds (P := fun t : State => t.dev = s.dev) rfl (ite_holds (P := fun t : State => t.dev = s.dev) rfl rfl)

theorem State.loseRecord_dev (s : State) (x : RecordLoss) : (s.loseRecord x).2.dev = s.dev := by
  cases x <;> unfold State.loseRecord
  case staged i => dsimp only; split <;> rfl
  case writer => dsimp only; split <;> rfl
  case ring q => dsimp only; split <;> rfl
  case indices => rfl

theorem State.loseRecords_dev (s : State) (l : List RecordLoss) : (s.loseRecords l).dev = s.dev := by
  have each (a : Nat × State) : (l.foldl (fun (a : Nat × State) x => let (k, s) := a.2.loseRecord x; (a.1 + k, s)) a).2.dev =
      a.2.dev := by
    induction l generalizing a with
    | nil => rfl
    | cons x xs ih => exact (ih _).trans (State.loseRecord_dev a.2 x)
  exact (State.reportLoss_dev ..).trans (each (0, s))

theorem execFaultRecordWrite_eq {s : State} (commit : Bool) (running : s.dev.st ≠ .reset) :
    execFaultRecordWrite (commit, []) s = .next (if commit then s.commitRecord s.flt.urgent
      else if s.flt.unread = 256 && !s.flt.urgent then s else s.beginRecord) :=
  congrArg Host.Outcome.next ((if_neg running).trans (if_neg List.not_mem_nil))

theorem execFaultRecordWrite_lost {s : State} (commit : Bool) {found : List RecordLoss} (running : s.dev.st ≠ .reset)
    (whole : RecordLoss.indices ∉ found) :
    execFaultRecordWrite (commit, found) s = execFaultRecordWrite (commit, []) (s.loseRecords found) := by
  have still : (s.loseRecords found).dev.st ≠ .reset := by
    rw [State.loseRecords_dev]
    exact running
  rw [execFaultRecordWrite_eq commit still]
  exact congrArg Host.Outcome.next ((if_neg running).trans (if_neg whole))

theorem State.loseRecords_staged {s : State} {i : Nat} (there : i < s.flt.staged.length) (few : s.flt.staged.length ≤ 63) :
    (s.loseRecords [.staged i]).flt = { s.flt with
      lost := satAdd 0xFFFFFFFF s.flt.lost 1
      staged := s.flt.staged.eraseIdx i ++ [{ kind := 7, source := 0x0A, count := 1, first := s.now, last := s.now }] } := by
  have lost : s.loseRecord (.staged i) = (1, s.setFlt { s.flt with staged := s.flt.staged.eraseIdx i }) := if_pos there
  have room : (s.flt.staged.eraseIdx i).length < 63 := by
    rw [List.length_eraseIdx_of_lt there]
    omega
  have reported := congrArg State.flt (if_pos room : (if (s.flt.staged.eraseIdx i).length < 63 then
    (s.setFlt { s.flt with staged := s.flt.staged.eraseIdx i }).setFlt { s.flt with
      lost := satAdd 0xFFFFFFFF s.flt.lost 1
      staged := s.flt.staged.eraseIdx i ++ [{ kind := 7, source := 0x0A, count := 1, first := s.now, last := s.now }] } else
    (s.setFlt { s.flt with staged := s.flt.staged.eraseIdx i }).setFlt { s.flt with
      lost := satAdd 0xFFFFFFFF s.flt.lost 1, staged := s.flt.staged.eraseIdx i, overflow := s.flt.overflow + 1 }) = _)
  unfold State.loseRecords
  simp only [List.foldl, lost]
  exact reported

theorem State.consume_recordSeq (s : State) (v : Via) (n : Nat) : (s.consume v).recordSeq n = s.recordSeq n := by
  obtain ⟨a, b, c, d, e⟩ := State.consume_frame s v
  rw [e]
  rfl

theorem State.consume_cper (s : State) (v : Via) (r : Bytes) : (s.consume v).cper r = s.cper r := by
  obtain ⟨a, b, c, d, e⟩ := State.consume_frame s v
  rw [e]
  rfl

/-- The oldest record of a full ring, given up for one that must be written (R694). -/
def State.overwriteOldest (s : State) : State := { s with flt := { s.flt with
  ringCons := s.flt.ringCons + 1, overflow := s.flt.overflow + 1, lost := satAdd 0xFFFFFFFF s.flt.lost 1 } }

theorem State.overwriteOldest_unread {s : State} (full : s.flt.unread = 256) : s.overwriteOldest.flt.unread = 255 := by
  have e : (BitVec.ofNat 32 s.flt.prod - s.flt.ringCons).toNat = 256 := full
  change (BitVec.ofNat 32 s.flt.prod - (s.flt.ringCons + 1)).toNat = 255
  generalize BitVec.ofNat 32 s.flt.prod = p at e
  bv_omega

theorem State.withRam_setFlt (s : State) (x : Mem) (f : Flt) :
    State.setFlt { s with ram := x } f = { s with flt := f, ram := x } := rfl

/-- What the writer does with the record `e` that it has begun, once there is room for it (R693). -/
def State.writeRecord (s : State) (e : FaultEv) : State :=
  let seq := s.flt.nextSeq
  let empty := s.flt.unread = 0
  let s := ({ s with ram := wrN s.ram (recAt seq) (e.record seq) }).setFlt { s.flt with writing := none, nextSeq := seq + 1 }
  let s := if empty || s.flt.unread = 192 then s.faultNtf 1 e seq else s
  let s := if e.kind = 7 then s.faultNtf 5 e seq else s
  s.raiseMarker

theorem State.commitRecord_some {s : State} {e : FaultEv} (past : Bool) (writing : s.flt.writing = some e) :
    s.commitRecord past = if decide (s.flt.unread = 256) && !past then s
      else (if s.flt.unread = 256 then s.overwriteOldest else s).writeRecord e := by
  unfold State.commitRecord
  rw [writing]
  rfl

theorem State.commitRecord_room {s : State} {e : FaultEv} (past : Bool) (writing : s.flt.writing = some e)
    (room : s.flt.unread ≠ 256) : s.commitRecord past = s.writeRecord e := by
  rw [State.commitRecord_some past writing, if_neg (by simp [room]), if_neg room]

theorem State.commitRecord_past {s : State} {e : FaultEv} (writing : s.flt.writing = some e) (full : s.flt.unread = 256) :
    s.commitRecord true = s.overwriteOldest.commitRecord true := by
  have room : s.overwriteOldest.flt.unread ≠ 256 := by
    rw [State.overwriteOldest_unread full]
    decide
  rw [State.commitRecord_room (s := s.overwriteOldest) true writing room, State.commitRecord_some true writing,
    if_neg (by simp), if_pos full]

end Sys2Proof.Machine
end

section
/-! PROOFS. The statement about the fault ring (18). -/
open Sys2Proof Sys2Proof.Machine

/-- Settles O21: the writer by the room of the ring and by what its own errors take; the consumer by the records written. -/
theorem faultRing : Obligations.FaultRing := by
  unfold Obligations.FaultRing
  refine ⟨?_, ?_, ?_, ?_, ?_, ?_, fun i s there few => State.loseRecords_staged there few, ?_, ?_, ?_, ?_, ?_⟩
  · intro e rest s running free staged room
    refine (execFaultRecordWrite_eq false running).trans (congrArg Host.Outcome.next ?_)
    rw [if_neg nofun, if_neg (by rcases room with few | urgent <;> simp [*])]
    unfold State.beginRecord
    simp only [free, staged]
    cases marked : e.marker <;> simp only [marked, if_true, Bool.false_eq_true, if_false] <;> rfl
  · intro e s running writing few
    refine (execFaultRecordWrite_eq true running).trans (congrArg Host.Outcome.next ?_)
    rw [if_pos rfl]
    rw [State.commitRecord_room _ writing (Nat.ne_of_lt few)]
    unfold State.writeRecord
    simp only [Bool.or_eq_true, decide_eq_true_eq]
    simp only [State.withRam_setFlt]
    rfl
  · intro commit s running full calm
    refine (execFaultRecordWrite_eq commit running).trans (congrArg Host.Outcome.next ?_)
    cases commit
    · rw [if_neg nofun, if_pos (by simp [full, calm])]
    · rw [if_pos rfl, calm]
      unfold State.commitRecord
      cases s.flt.writing with
      | none => rfl
      | some e => exact if_pos (by simp [full])
  · intro e s running full urgent writing
    refine ⟨State.overwriteOldest_unread full, ?_⟩
    refine (execFaultRecordWrite_eq true running).trans ((congrArg Host.Outcome.next ?_).trans
      (execFaultRecordWrite_eq (s := s.overwriteOldest) true running).symm)
    have still : s.overwriteOldest.flt.urgent = true := urgent
    rw [if_pos rfl, if_pos rfl, urgent, still]
    exact State.commitRecord_past writing full
  · intro commit found s running lost
    exact congrArg Host.Outcome.next ((if_neg running).trans (if_pos lost))
  · intro commit found s running whole
    exact execFaultRecordWrite_lost commit running whole
  · intro v s on inside
    change execFltRingConsWrite v s = _
    have moved : s.setCons v = _ := if_pos inside
    simp only [execFltRingConsWrite, on, if_true, moved]
    rfl
  · intro v s on outside
    change execFltRingConsWrite v s = _
    have kept : s.setCons v = none := if_neg (Nat.not_le.mpr outside)
    simp only [execFltRingConsWrite, on, if_true, kept]
    rfl
  · intro r s h
    refine ⟨_, serve_okay h rfl, ?_⟩
    rw [State.consume_flt]
    simp [leBytes, slice]
  · intro r s h
    refine serve_okay h ?_
    have moved : ((s.consume r.via).setCons (BitVec.ofNat 32 (u32 r.pay 0))) ≠ none := by
      have field := h.field
      simpa [fltRecordRelease, firstBad] using field
    have inside : (BitVec.ofNat 32 (u32 r.pay 0) - (s.consume r.via).flt.ringCons).toNat ≤ (s.consume r.via).flt.unread := by
      exact Classical.byContradiction fun outside => moved (if_neg outside)
    have run : (s.consume r.via).setCons (BitVec.ofNat 32 (u32 r.pay 0)) = _ := if_pos inside
    simp only [fltRecordRelease, run, Option.getD_some, State.consume_flt]
    rfl
  · intro r s h
    cases there : s.recordSeq (u64 r.pay 0) with
    | some x =>
      refine serve_okay h ?_
      simp only [fltCperRead, State.consume_recordSeq, there, State.consume_cper]
    | none =>
      refine serve_fail h ?_ nofun
      simp only [fltCperRead, State.consume_recordSeq, there]
end

section
/-! SUPPORT. The end of a targeted test: what is recorded and counted, and what goes on from it (18). -/
namespace Sys2Proof.Machine
open Sys2Proof

/-- What the fault writer keeps beside its entries: the units' state and the tests asked for. -/
structure SameUnits (f g : Flt) : Prop where
  tests : g.tests = f.tests
  retired : g.retired = f.retired
  transient : g.transient = f.transient
  lasting : g.lasting = f.lasting
  lastPass : g.lastPass = f.lastPass
  readmits : g.readmits = f.readmits

theorem State.stage_sameUnits (s : State) (e : FaultEv) : SameUnits s.flt (s.stage e).1.flt := by
  unfold State.stage
  dsimp only
  split
  · constructor <;> rfl
  · exact iteInduction (motive := fun p : State × Nat => SameUnits s.flt p.1.flt) (fun _ => by constructor <;> rfl)
      (fun _ => by constructor <;> rfl)

theorem SameUnits.done {f : Flt} {s : State} (d : Deferred) (st : St) (n : Nat) (p : Bytes) (h : SameUnits f s.flt) :
    SameUnits f (s.done d st n p).flt := by
  rw [(State.done_posts s d st n p).flt]
  exact h

/-- The first part of a test's end: its record and its counts, before anyone is told. -/
def State.testRecorded (s : State) (u : UnitRef) (x : UnitTest) (pass : Bool) : State × Nat :=
  let s := { s with flt := { s.flt with tests := s.flt.tests.filter fun y => y.unit ≠ u } }
  let (s, seq) := s.stage {
    kind := 1, source := 0x0A, cls := u.cls, unit := u.idx, valley := (s.unitValley u).getD 0xFF
    outcome := if pass then 2 else 3, related := x.firstSeq, count := x.covered }
  let f := s.flt
  ({ s with flt := { f with
    transient := f.transient + b2n (pass && decide (0 < x.covered)), lasting := f.lasting + b2n (!pass)
    lastPass := if pass then put f.lastPass (u.cls * 65536 + u.idx) s.now else f.lastPass } }, seq)

/-- The state in which everyone that waited for the test has been told. -/
def State.testTold (s : State) (u : UnitRef) (x : UnitTest) (pass : Bool) : State :=
  x.waiters.foldl (fun t d => t.done d .ok 0 (leBytes 1 (if pass then 2 else 3) ++ zeros 7 ++
    leBytes 8 (s.testRecorded u x pass).2)) (s.testRecorded u x pass).1

section
variable {s : State} {u : UnitRef} {x : UnitTest}

theorem State.testRecorded_recorded (pass : Bool) : Recorded s (s.testRecorded u x pass).1 := by
  unfold State.testRecorded
  dsimp only
  refine Recorded.write (Recorded.trans (b := { s with flt := { s.flt with tests := _ } }) ?_ (State.stage_recorded _ _))
  constructor <;> rfl

theorem State.testTold_recorded (pass : Bool) : Recorded s (s.testTold u x pass) :=
  Recorded.foldl _ (State.testRecorded_recorded pass) fun t d => (State.done_posts t d _ _ _).recorded

/-- The units' state once the test has been recorded and counted. -/
def State.testCounted (s : State) (u : UnitRef) (x : UnitTest) (pass : Bool) : Flt :=
  { s.flt with
    tests := s.flt.tests.filter fun y => y.unit ≠ u
    transient := s.flt.transient + b2n (pass && decide (0 < x.covered)), lasting := s.flt.lasting + b2n (!pass)
    lastPass := if pass then put s.flt.lastPass (u.cls * 65536 + u.idx) s.now else s.flt.lastPass }

theorem State.testRecorded_flt (pass : Bool) : SameUnits (s.testCounted u x pass) (s.testRecorded u x pass).1.flt := by
  unfold State.testRecorded State.testCounted
  dsimp only
  generalize ({ kind := 1, source := _, cls := _, unit := _, valley := _, outcome := _, related := _, count := _ } : FaultEv) = e
  have same := State.stage_sameUnits { s with flt := { s.flt with tests := s.flt.tests.filter fun y => y.unit ≠ u } } e
  have time := (State.stage_recorded { s with flt := { s.flt with tests := s.flt.tests.filter fun y => y.unit ≠ u } } e).time
  generalize State.stage _ e = p at *
  obtain ⟨tests, retired, transient, lasting, lastPass, readmits⟩ := same
  have now : p.1.now = s.now := congrArg Time.now time
  constructor
  · exact tests
  · exact retired
  · exact congrArg (· + _) transient
  · exact congrArg (· + _) lasting
  · dsimp only
    rw [now, lastPass]
  · exact readmits

theorem State.testTold_flt (pass : Bool) : SameUnits (s.testCounted u x pass) (s.testTold u x pass).flt := by
  have each (l : List Deferred) (t : State) (h : SameUnits (s.testCounted u x pass) t.flt) (st : St) (n : Nat) (p : Bytes) :
      SameUnits (s.testCounted u x pass) (l.foldl (fun t d => t.done d st n p) t).flt := by
    induction l generalizing t with
    | nil => exact h
    | cons d l ih => exact ih _ (h.done d st n p)
  exact each _ _ (State.testRecorded_flt pass) ..

/-- Where no readmission waits for the test, a unit that fails it is lost. -/
theorem execTargetedTestDone_plain (pass : Bool) (runs : s.flt.tests.find? (fun t => t.unit = u && t.running) = some x)
    (alone : (s.testTold u x pass).flt.readmits.find? (fun r => r.unit = u && r.phase = 0) = none) :
    execTargetedTestDone u pass s = .next (
      if pass then (if u.cls = 8 then (s.testTold u x pass).fordTurns else s.testTold u x pass)
      else if 0x0A ≤ u.cls then (s.testTold u x pass).deviceFault { source := 0x0A, event := 2, cls := u.cls, unit := u.idx }
      else (s.testTold u x pass).retireUnit u (s.testRecorded u x pass).2) := by
  unfold execTargetedTestDone
  rw [runs]
  unfold State.testTold State.testRecorded at alone
  dsimp only at alone ⊢
  rw [alone]
  rfl

theorem execTargetedTestDone_readmit {w : Readmit} (pass : Bool)
    (runs : s.flt.tests.find? (fun t => t.unit = u && t.running) = some x)
    (waits : (s.testTold u x pass).flt.readmits.find? (fun r => r.unit = u && r.phase = 0) = some w) :
    execTargetedTestDone u pass s = .next (
      let v := (s.testTold u x pass).readmitTested w pass (s.testRecorded u x pass).2
      if pass then (if u.cls = 8 then v.fordTurns else v)
      else if 0x0A ≤ u.cls then v.deviceFault { source := 0x0A, event := 2, cls := u.cls, unit := u.idx }
      else v.retireUnit u (s.testRecorded u x pass).2) := by
  unfold execTargetedTestDone
  rw [runs]
  unfold State.testTold State.testRecorded at waits
  dsimp only at waits ⊢
  rw [waits]
  rfl

theorem State.isRetired_congr {s t : State} (h : t.flt.retired = s.flt.retired) (cls idx : Nat) :
    t.isRetired cls idx = s.isRetired cls idx := by
  unfold State.isRetired
  rw [h]

theorem State.testTold_readmits (pass : Bool) : (s.testTold u x pass).flt.readmits = s.flt.readmits :=
  (State.testTold_flt pass).readmits

theorem State.testTold_alone (pass : Bool) (other : ∀ r ∈ s.flt.readmits, r.unit = u → r.phase ≠ 0) :
    (s.testTold u x pass).flt.readmits.find? (fun r => r.unit = u && r.phase = 0) = none := by
  rw [State.testTold_readmits, List.find?_eq_none]
  simpa using other

theorem State.readmitTested_retired (s : State) (w : Readmit) (q : Nat) :
    (s.readmitTested w false q).flt.retired = s.flt.retired := by
  unfold State.readmitTested
  dsimp only
  rw [if_pos (show (!false) = true from rfl), (State.done_posts _ _ _ _ _).flt]

/-- The record of a probation that matched (R689). -/
def Readmit.passed (x : Readmit) (u : UnitRef) (s : State) : FaultEv :=
  { kind := 4, source := 0x0A, cls := u.cls, unit := u.idx, valley := (s.unitValley u).getD 0xFF, flags := 8
    related := x.startSeq }

/-- A unit of the classes that work can do without, taken out of use: its record, its event, and DEGRADED (R680). -/
def State.markRetired (s : State) (u : UnitRef) (related : Nat) : State :=
  let v := s.unitValley u
  let (s, seq) := s.stage { kind := 2, source := 0x0A, cls := u.cls, unit := u.idx, valley := v.getD 0xFF, related }
  let s := { s with flt := { s.flt with retired := s.flt.retired ++ [u] } }
  let s := if s.dev.st = .ready then s.enter .degraded seq else s
  s.event 0x0A 2 (unitCode u) (leBytes 8 seq) v

theorem State.retireUnit_eq {s : State} (related : Nat) (fresh : s.isRetired u.cls u.idx = false) (hbm : u.cls ≠ 4)
    (lpd : u.cls ≠ 5) : s.retireUnit u related = ((s.markRetired u related).loseUnit u).repartner u := by
  unfold State.retireUnit
  rw [if_neg (by simp [fresh]), if_neg (by simp [hbm, lpd])]
  rfl

theorem State.markRetired_facts (s : State) (u : UnitRef) (related : Nat) :
    SameUnits { s.flt with retired := s.flt.retired ++ [u] } (s.markRetired u related).flt ∧
    (s.markRetired u related).dev.st = if s.dev.st = .ready then .degraded else s.dev.st := by
  unfold State.markRetired
  dsimp only
  generalize ({ kind := 2, source := _, cls := _, unit := _, valley := _, related := _ } : FaultEv) = e
  obtain ⟨tests, retired, transient, lasting, lastPass, readmits⟩ := s.stage_sameUnits e
  have dev := (s.stage_recorded e).dev
  generalize s.stage e = p at *
  rw [(State.event_posts _ _ _ _ _ _).flt, (State.event_posts _ _ _ _ _ _).dev]
  rw [← dev]
  by_cases ready : p.1.dev.st = .ready
  · rw [if_pos ready, if_pos ready, State.enter_flt, State.enter_dev]
    exact ⟨⟨tests, congrArg (· ++ [u]) retired, transient, lasting, lastPass, readmits⟩, rfl⟩
  · rw [if_neg ready, if_neg ready]
    exact ⟨⟨tests, congrArg (· ++ [u]) retired, transient, lasting, lastPass, readmits⟩, rfl⟩

/-- Neither the wait for a unit's next test nor the pause of its pack work touches the tests asked for. -/
theorem State.pausePack_tests (s : State) (u : UnitRef) : (s.pausePack u).flt.tests = s.flt.tests := by
  unfold State.pausePack
  exact iteInduction (motive := fun t : State => t.flt.tests = s.flt.tests) (fun _ => rfl) (fun _ => rfl)

/-- The state in which a test may start: its unit's last pass is 10 ms ago, and its pack work is paused. -/
def State.testReady (s : State) (u : UnitRef) : State :=
  (match look s.flt.lastPass (u.cls * 65536 + u.idx) with
    | some t => s.advanceTo (t + 10000000)
    | none => s).pausePack u

theorem State.testReady_tests (s : State) (u : UnitRef) : (s.testReady u).flt.tests = s.flt.tests := by
  unfold State.testReady
  rw [State.pausePack_tests]
  split
  · rw [State.advanceTo_flt]
  · rfl

/-- The state with a test of the unit running. -/
def State.testBegun (s : State) (u : UnitRef) : State :=
  ({ s.testReady u with flt := { (s.testReady u).flt with
    tests := (s.testReady u).flt.tests.map fun t => if t.unit = u then { t with running := true } else t } } : State).repartner u

theorem execTargetedTestStart_eq {s : State} {u : UnitRef} {x : UnitTest} (can : s.canTest)
    (asked : s.flt.tests.find? (fun t => t.unit = u && !t.running) = some x) :
    execTargetedTestStart u s = .next (
      if u.cls = 6 && ((s.testBegun u).plink u.idx).st == .up then (s.testBegun u).retrain u.idx else s.testBegun u) := by
  unfold execTargetedTestStart
  rw [asked]
  dsimp only
  rw [if_neg (by simp [can])]
  rfl

end

theorem consume_isRetired (s : State) (v : Via) (cls idx : Nat) : (s.consume v).isRetired cls idx = s.isRetired cls idx :=
  State.isRetired_congr (congrArg Flt.retired (State.consume_flt ..)) cls idx

theorem consume_nextFraction (s : State) (via : Via) (v : Nat) : (s.consume via).nextFraction v = s.nextFraction v := by
  obtain ⟨a, b, c, d, e⟩ := State.consume_frame s via
  rw [e]
  rfl

end Sys2Proof.Machine
end

section
/-! PROOFS. The statement about targeted tests and readmission (18). -/
open Sys2Proof Sys2Proof.Machine

/-- Settles O22: the record and the counts of a test's end touch none of the units' state that follows from it. -/
theorem unitTests : Obligations.UnitTests := by
  unfold Obligations.UnitTests
  refine ⟨?_, ?_, ?_, ?_, ?_, ?_, ?_, ?_, ?_, ?_, ?_⟩
  · intro u x s can asked
    dsimp only
    refine (execTargetedTestStart_eq can asked).trans ?_
    unfold State.testBegun
    rw [State.testReady_tests]
    simp only [Bool.and_eq_true, decide_eq_true_eq, beq_iff_eq]
    rfl
  · intro u x s runs alone
    have told := State.testTold_flt (s := s) (u := u) (x := x) true
    refine ⟨s.testTold u x true, execTargetedTestDone_plain true runs (State.testTold_alone true alone), told.tests,
      told.retired, ?_, told.lastPass, State.testTold_recorded true⟩
    exact told.transient
  · intro u x s runs alone small hbm lpd fresh
    have told := State.testTold_flt (s := s) (u := u) (x := x) false
    have fresh' : (s.testTold u x false).isRetired u.cls u.idx = false := (State.isRetired_congr told.retired ..).trans fresh
    obtain ⟨same, st⟩ := (s.testTold u x false).markRetired_facts u (s.testRecorded u x false).2
    refine ⟨(s.testTold u x false).markRetired u (s.testRecorded u x false).2, ?_, same.tests.trans told.tests, ?_, ?_, ?_⟩
    · refine (execTargetedTestDone_plain false runs (State.testTold_alone false alone)).trans (congrArg Host.Outcome.next ?_)
      rw [if_neg nofun, if_neg (by omega)]
      exact State.retireUnit_eq _ fresh' hbm lpd
    · exact same.retired.trans (congrArg (· ++ [u]) told.retired)
    · exact same.lasting.trans told.lasting
    · rw [st, (State.testTold_recorded false).dev]
  · intro u x s runs alone
    have told := State.testTold_flt (s := s) (u := u) (x := x) false
    refine ⟨s.testTold u x false, (s.testRecorded u x false).2, State.testTold_recorded false, fun memory fresh => ?_,
      fun other => ?_⟩
    · have fresh' : (s.testTold u x false).isRetired u.cls u.idx = false := (State.isRetired_congr told.retired ..).trans fresh
      refine (execTargetedTestDone_plain false runs (State.testTold_alone false alone)).trans (congrArg Host.Outcome.next ?_)
      rw [if_neg nofun, if_neg (by omega)]
      exact (if_neg (by simp [fresh'])).trans (if_pos (by simpa using memory))
    · refine (execTargetedTestDone_plain false runs (State.testTold_alone false alone)).trans (congrArg Host.Outcome.next ?_)
      rw [if_neg nofun, if_pos other]
  · intro u x w s runs waits small retired pass
    have told := State.testTold_flt (s := s) (u := u) (x := x) pass
    have waits' : (s.testTold u x pass).flt.readmits.find? (fun r => r.unit = u && r.phase = 0) = some w := by
      rw [State.testTold_readmits, waits]
    refine ⟨s.testTold u x pass, (s.testRecorded u x pass).2, ?_, told.readmits, State.testTold_recorded pass⟩
    refine (execTargetedTestDone_readmit pass runs waits').trans (congrArg Host.Outcome.next ?_)
    dsimp only
    cases pass with
    | true => simp
    | false =>
      rw [if_neg nofun, if_neg (by omega), if_neg (by simp)]
      refine if_pos ?_
      rw [State.isRetired_congr (State.readmitTested_retired ..), State.isRetired_congr told.retired]
      exact retired
  · intro u x s on
    constructor
    · change execProbationDone u false s = _
      unfold execProbationDone
      rw [on]
      rfl
    · refine ⟨(s.stage (x.passed u s)).1, (s.stage (x.passed u s)).2, ?_, (s.stage_sameUnits _).readmits,
        s.stage_recorded _⟩
      change execProbationDone u true s = _
      unfold execProbationDone
      rw [on]
      rfl
  · intro r s h
    refine serve_pend h ?_
    simp only [fltSelftestRun, State.consume_flt]
  · intro r s h hbm lpd retired idle few
    refine serve_pend h ?_
    simp only [fltUnitReadmit, unitOf, consume_isRetired, State.consume_flt]
    rw [if_neg (by simp [hbm, lpd]), if_neg (by simp [retired]), if_neg (by simp only [List.any_eq_true, not_exists, not_and]; exact fun x hx e => idle x hx (of_decide_eq_true e)),
      if_neg (by omega)]
    rfl
  · intro r s h hbm lpd kept
    refine serve_okay h ?_
    simp only [fltUnitReadmit, unitOf, consume_isRetired]
    rw [if_neg (by simp [hbm, lpd]), if_pos (by simp [kept])]
  · intro r s h there same
    refine serve_okay h ?_
    simp only [fltCheckedSet, State.consume_profile, consume_nextFraction]
    rw [if_neg (by simpa [Option.isSome_iff_ne_none] using there), if_pos same]
  · intro r s h there other
    refine serve_pending (after := fun t => t.boundaryIfStopped (u8 r.pay 0)) h ?_
    simp only [fltCheckedSet, State.consume_profile, consume_nextFraction]
    rw [if_neg (by simpa [Option.isSome_iff_ne_none] using there), if_neg other]
end

section
/-! SUPPORT. What recording an error leaves of the pack tests' counts (18). -/
namespace Sys2Proof.Machine
open Sys2Proof

/-- The counts of the pack's tests are the same. -/
def SameCounts (f g : Flt) : Prop := g.packRuns = f.packRuns ∧ g.packFails = f.packFails

theorem SameCounts.trans {f g h : Flt} (a : SameCounts f g) (b : SameCounts g h) : SameCounts f h :=
  ⟨b.1.trans a.1, b.2.trans a.2⟩

theorem State.stage_sameCounts (s : State) (e : FaultEv) : SameCounts s.flt (s.stage e).1.flt := by
  unfold State.stage
  dsimp only
  split
  · exact ⟨rfl, rfl⟩
  · exact iteInduction (motive := fun p : State × Nat => SameCounts s.flt p.1.flt) (fun _ => ⟨rfl, rfl⟩)
      (fun _ => ⟨rfl, rfl⟩)

theorem State.failProbation_sameCounts (s : State) (u : UnitRef) : SameCounts s.flt (s.failProbation u).flt := by
  unfold State.failProbation
  split
  · exact ⟨rfl, rfl⟩
  · dsimp only
    rw [(State.done_posts _ _ _ _ _).flt]
    exact State.stage_sameCounts s _

theorem State.requestTest_sameCounts (s : State) (u : UnitRef) (q : Nat) : SameCounts s.flt (s.requestTest u q).flt := by
  unfold State.requestTest
  split
  · exact ⟨rfl, rfl⟩
  · exact ite_holds (P := fun t => SameCounts s.flt t.flt) ⟨rfl, rfl⟩ ⟨rfl, rfl⟩

theorem State.errorSeq_sameCounts (s : State) (e : FaultEv) (units : List UnitRef) :
    SameCounts s.flt (s.errorSeq e units).1.flt := by
  have each (l : List UnitRef) (q : Nat) (t : State) (h : SameCounts s.flt t.flt) :
      SameCounts s.flt (l.foldl (fun t u => (t.failProbation u).requestTest u q) t).flt := by
    induction l generalizing t with
    | nil => exact h
    | cons u l ih =>
      exact ih _ ((h.trans (State.failProbation_sameCounts t u)).trans (State.requestTest_sameCounts _ u q))
  exact each _ _ _ (State.stage_sameCounts s _)

theorem consume_populated (s : State) (via : Via) : (s.consume via).populated = s.populated := by
  obtain ⟨a, b, c, d, e⟩ := State.consume_frame s via
  rw [e]
  rfl

/-- A test of the pack has run: its counts, before a failure is recorded. -/
def State.packCounted (s : State) (u : UnitRef) (same last : Bool) : State :=
  { s with flt := { s.flt with
    packRuns := s.flt.packRuns + 1, packFails := s.flt.packFails + b2n (!same)
    packDone := if last then s.flt.packDone ++ [u] else s.flt.packDone } }

/-- The record of a pack test that does not match (R698). -/
def State.packEvent (s : State) (u : UnitRef) (test : Nat) : FaultEv :=
  { source := 0x0A, event := 0xC, cls := u.cls, unit := u.idx, valley := (s.unitValley u).getD 0xFF, flags := 2, index := test }

/-- The state in which a failed pack test has been recorded and announced. -/
def State.packFailed (s : State) (u : UnitRef) (test : Nat) : State :=
  (s.errorSeq (s.packEvent u test) [u]).1.event 0x0A 4 (unitCode u)
    (leBytes 8 (s.errorSeq (s.packEvent u test) [u]).2) (s.unitValley u)

theorem State.packFailed_recorded (s : State) (u : UnitRef) (test : Nat) : Recorded s (s.packFailed u test) :=
  (State.error_recorded s _ _).trans (State.event_posts ..).recorded

theorem State.packFailed_sameCounts (s : State) (u : UnitRef) (test : Nat) :
    SameCounts s.flt (s.packFailed u test).flt := by
  unfold State.packFailed
  rw [(State.event_posts ..).flt]
  exact State.errorSeq_sameCounts ..

/-- A test of the pack that runs in an open window on the unit whose turn it is. -/
theorem execPackTestComplete_runs {s : State} {u : UnitRef} {n : Nat} {p : Pack} {w : Window} (same last : Bool)
    (pack : s.flt.pack = some p) (window : s.flt.window = some w) (isOpen : s.flt.windowOpen) (can : s.canTest)
    (mask : w.classes.getLsbD u.cls) (tested : p.classes.getLsbD u.cls) (there : n < p.tests)
    (turn : s.packTurn u.cls = some u.idx) : execPackTestComplete u n same last s =
    .next (if same then s.packCounted u same last else (s.packCounted u same last).packFailed u n) := by
  unfold execPackTestComplete
  rw [pack, window]
  dsimp only
  rw [if_neg (by simp [isOpen, can, mask, tested, there, turn])]
  rfl

/-- Moving time and then the fault state changes nothing else. -/
theorem State.advanceTo_setFlt (s : State) (n : Nat) (f : Flt) :
    { s.advanceTo n with flt := f } = { s with flt := f, time := (s.advanceTo n).time } := by
  rw [State.advanceTo_eq]

theorem execTestWindowClose_open {s : State} {w : Window} (set : s.flt.window = some w) (isOpen : s.flt.windowOpen) :
    ∃ n, execTestWindowClose s =
      .next { s.advanceTo n with flt := { (s.advanceTo n).flt with windowOpen := false, packDone := [] } } := by
  refine ⟨w.until_ s.now, ?_⟩
  unfold execTestWindowClose
  rw [set]
  exact congrArg Host.Outcome.next (if_neg (by simp [isOpen]))

end Sys2Proof.Machine
end

section
/-! PROOFS. The statement about test windows and packs (18). -/
open Sys2Proof Sys2Proof.Machine

/-- Settles O23: recording the failed test leaves the counts it was made with. -/
theorem testWindows : Obligations.TestWindows := by
  unfold Obligations.TestWindows
  refine ⟨?_, ?_, ?_, ?_, ?_, ?_, ?_⟩
  · intro w s next closed can
    change ∃ t, execTestWindowOpen s = _ ∧ _
    unfold execTestWindowOpen
    rw [next]
    dsimp only
    rw [if_neg (by simp [closed, can])]
    refine ⟨_, rfl, ?_, ?_⟩
    · generalize Window.from_ _ _ = n
      rw [State.advanceTo_eq]
    · rw [State.advanceTo_flt]
  · intro w s set isOpen
    obtain ⟨n, run⟩ := execTestWindowClose_open set isOpen
    refine ⟨_, run, State.advanceTo_setFlt s n _, ?_⟩
    rw [State.advanceTo_flt]
  · intro u n last p w s pack window isOpen can mask tested there turn
    exact execPackTestComplete_runs true last pack window isOpen can mask tested there turn
  · intro u n last p w s pack window isOpen can mask tested there turn
    obtain ⟨runs, fails⟩ := (s.packCounted u false last).packFailed_sameCounts u n
    exact ⟨_, execPackTestComplete_runs false last pack window isOpen can mask tested there turn, runs, fails,
      Recorded.trans (by constructor <;> rfl) (State.packFailed_recorded ..)⟩
  · intro r s h unload
    refine serve_okay h ?_
    simp only [fltPackLoad, State.consume_flt]
    exact if_pos unload
  · intro r s h load place there
    refine serve_pending (after := fun t =>
      let x := t.loadPack (u64 r.pay 0) (u32 r.pay 8)
      x.1.done r.deferred x.2.1 x.2.2 []) h ?_
    simp only [fltPackLoad, consume_populated]
    rw [if_neg (by simp [load]), if_neg (by rcases place with ⟨a, b⟩ | ⟨a, b⟩ <;> simp [a, b, there])]
  · intro r s h
    refine serve_okay h ?_
    simp only [fltWindowSet, State.consume_flt]
end

section
/-! SUPPORT. Work that may be answered later, and what a query or a check reads of contexts and valleys (13). -/
namespace Sys2Proof.Machine
open Sys2Proof

section
variable {m : Msg} {r : Req} {s t : State} {pay : Bytes}

/-- Work that ends with ST_OK is answered at once, or first with ST_PENDING: the free value decides (log 30). -/
theorem serve_work (h : Accepted m r s) (e : m.run r (s.consume r.via) = (Res.okay t pay).work r) :
    serve m r.via s = .next ((t.drawNat 42).2.respond s r .ok 0 pay) ∨
    serve m r.via s = .next (((((t.drawNat 42).2.deferring r).respond s r .pending).done r.deferred .ok 0 pay)) := by
  by_cases odd : (t.drawNat 42).1 % 2 = 1
  · refine .inr (serve_pending (after := fun t => t.done r.deferred .ok 0 pay) h (e.trans ?_))
    exact if_pos odd
  · refine .inl (serve_okay h (e.trans ?_))
    exact if_neg odd

end

section
variable (s : State) (via : Via)

theorem consume_ctxConflict (v : Nat) (c : Context) (key : Nat) :
    (s.consume via).ctxConflict v c key = s.ctxConflict v c key := by
  obtain ⟨a, b, c, d, e⟩ := State.consume_frame s via
  rw [e]
  rfl

theorem consume_ctxCount (v : Nat) : (s.consume via).ctxCount v = s.ctxCount v := by
  obtain ⟨a, b, c, d, e⟩ := State.consume_frame s via
  rw [e]
  rfl

theorem consume_scratchRun (v n : Nat) : (s.consume via).scratchRun v n = s.scratchRun v n := by
  obtain ⟨a, b, c, d, e⟩ := State.consume_frame s via
  rw [e]
  rfl

theorem consume_active (v : Nat) : (s.consume via).active v = s.active v := by
  obtain ⟨a, b, c, d, e⟩ := State.consume_frame s via
  rw [e]
  rfl

theorem consume_ctxBytes (v c : Nat) : (s.consume via).ctxBytes v c = s.ctxBytes v c := by
  obtain ⟨a, b, c, d, e⟩ := State.consume_frame s via
  rw [e]
  rfl

theorem consume_valleyBytes (v : Nat) : (s.consume via).valleyBytes v = s.valleyBytes v := by
  obtain ⟨a, b, c, d, e⟩ := State.consume_frame s via
  rw [e]
  rfl

theorem consume_resolvePersonality (p : Nat) : (s.consume via).resolvePersonality p = s.resolvePersonality p := by
  obtain ⟨a, b, c, d, e⟩ := State.consume_frame s via
  rw [e]
  rfl

theorem consume_nextProfile : (s.consume via).nextProfile = s.nextProfile := by
  obtain ⟨a, b, c, d, e⟩ := State.consume_frame s via
  rw [e]
  rfl

theorem consume_narrowsOf : (s.consume via).narrowsOf = s.narrowsOf := by
  obtain ⟨a, b, c, d, e⟩ := State.consume_frame s via
  rw [e]
  rfl

theorem consume_nextPersonality (v : Nat) (p : Profile) : (s.consume via).nextPersonality v p = s.nextPersonality v p := by
  obtain ⟨a, b, c, d, e⟩ := State.consume_frame s via
  rw [e]
  rfl

theorem consume_regionHeld (v : Nat) (p q : Profile) : (s.consume via).regionHeld v p q = s.regionHeld v p q := by
  obtain ⟨a, b, c, d, e⟩ := State.consume_frame s via
  rw [e]
  rfl

theorem consume_profiles : (s.consume via).profiles = s.profiles := by
  obtain ⟨a, b, c, d, e⟩ := State.consume_frame s via
  rw [e]
  rfl

end

/-- Where a context's scratch begins. -/
def scratchBase (r : Req) (u : Nat) : Nat :=
  if ({ create := r.pay } : Context).scrUnits = 0 then 0xFFFFFFFF else u * 65536

/-- The state in which a new context stands on its run of scratch, zeroed on the valley's glens. -/
def State.placeContext (s : State) (r : Req) (p : Profile) (u : Nat) : State :=
  let c : Context := { create := r.pay, since := s.now }
  let z := p.glenList.foldl (fun s g => s.zeroScratch g (scratchBase r u) (c.scrUnits * 65536)) (s.consume r.via)
  z.setCore { z.core with ctxs := put s.core.ctxs (ctxKey r.via.mbx (u16 r.pay 0)) { c with
    scrBase := scratchBase r u
    st := if (s.active r.via.mbx).any (fun x => c.conflicts x.2) then CtxState.swapped else .resident } }

theorem ite_bnot {α : Type} (b : Bool) (x y : α) : (if !b then x else y) = if b then y else x := by
  cases b <;> rfl

theorem zeroScratch_foldl_frame (gs : List Nat) (base n : Nat) (s : State) :
    (gs.foldl (fun s g => s.zeroScratch g base n) s).free = s.free ∧
    (gs.foldl (fun s g => s.zeroScratch g base n) s).core.ctxs = s.core.ctxs := by
  induction gs generalizing s with
  | nil => exact ⟨rfl, rfl⟩
  | cons g gs ih => exact ih (s.zeroScratch g base n)

theorem State.advanceTo_holders (s : State) (n v : Nat) : (s.advanceTo n).holders v = s.holders v := by
  rw [State.advanceTo_eq]
  rfl

theorem not_clashing {l : List (Nat × Profile)} {p : Profile} {v : Nat}
    (apart : ∀ e ∈ l, e.1 ≠ v → p.clashes e.2 = false) :
    ¬ ((l.filter fun e => e.1 ≠ v).any fun e => p.clashes e.2) = true := by
  simpa using apart

theorem not_unsaved {l : TMap Context} {v n : Nat} (saves : ∀ c ∈ l, c.1 / 128 = v → c.2.pinned ∨ n ≤ c.2.saveBytes) :
    ¬ (l.any fun c => c.1 / 128 = v && !c.2.pinned && c.2.saveBytes < n) = true := by
  intro bad
  obtain ⟨c, there, hit⟩ := List.any_eq_true.mp bad
  simp only [Bool.and_eq_true, Bool.not_eq_true', decide_eq_true_eq] at hit
  obtain ⟨⟨own, unpinned⟩, small⟩ := hit
  rcases saves c there own with pinned | saved
  · simp [pinned] at unpinned
  · omega

/-- A change of the valley's profile is outstanding: armed, or being applied. -/
def profileOutstanding (x : Valley) : Bool :=
  x.changes.any (fun a => match a.change with | .profile _ => true | _ => false) ||
    x.retiring.any (fun a => match a.what with | .profile _ _ => true | _ => false)

theorem not_profileOutstanding {x : Valley} (changes : ∀ a ∈ x.changes, ∀ q, a.change ≠ .profile q)
    (retiring : ∀ a ∈ x.retiring, ∀ o q, a.what ≠ .profile o q) : ¬ profileOutstanding x = true := by
  intro bad
  rcases Bool.or_eq_true_iff.mp bad with bad | bad
  · obtain ⟨a, there, hit⟩ := List.any_eq_true.mp bad
    split at hit
    case h_1 q e => exact changes a there q e
    case h_2 => exact absurd hit (by simp)
  · obtain ⟨a, there, hit⟩ := List.any_eq_true.mp bad
    split at hit
    case h_1 o q e => exact retiring a there o q e
    case h_2 => exact absurd hit (by simp)

end Sys2Proof.Machine
end

section
/-! PROOFS. The statement about contexts and valleys (13). -/
open Sys2Proof Sys2Proof.Machine

/-- Settles O24: neither the request's own removal from its mailbox nor zeroing scratch touches what the checks read. -/
theorem contextsAndValleys : Obligations.ContextsAndValleys := by
  unfold Obligations.ContextsAndValleys
  refine ⟨?_, ?_, ?_, ?_, ?_, ?_, ?_, ?_, ?_, ?_, ?_, ?_, ?_, ?_, ?_, ?_⟩
  · intro r p u s h
    dsimp only
    intro clear there below few found
    have run : ctxCreate.run r (s.consume r.via) = (Res.okay (s.placeContext r p u) (leBytes 4 (scratchBase r u) ++ zeros 4)).work r := by
      simp only [ctxCreate, consume_ctxConflict, State.consume_profile, consume_ctxCount, State.consume_core,
        consume_scratchRun, consume_active, State.consume_now, there, found]
      rw [if_neg (by simp [clear]), if_neg (by simpa using ⟨below, few⟩)]
      have ctxs := (zeroScratch_foldl_frame p.glenList (scratchBase r u)
        (({ create := r.pay } : Context).scrUnits * 65536) (s.consume r.via)).2
      rw [State.consume_core] at ctxs
      unfold State.placeContext
      dsimp only
      rw [← ctxs, ite_bnot]
      rfl
    have free : (s.placeContext r p u).free = s.free :=
      ((zeroScratch_foldl_frame p.glenList _ _ (s.consume r.via)).1).trans (State.consume_free ..)
    have drawn : ((s.placeContext r p u).drawNat 42).2 = { s.placeContext r p u with free := s.free + 1 } := by
      rw [← free]
      rfl
    have both := serve_work h run
    rw [drawn] at both
    exact both
  · intro r s h none_
    refine serve_okay h ?_
    simp only [ctxDestroy, State.consume_core, none_, Option.isNone_none, if_true]
  · intro r x s h there idle
    refine serve_pending (after := fun t => (t.teardown r.via.mbx (u16 r.pay 0) 2 0).done r.deferred .ok 0 []) h ?_
    simp only [ctxDestroy, State.consume_core, there]
    rw [if_neg (by simp), if_neg (by simpa using idle)]
  · intro r s h
    refine serve_okay h ?_
    simp only [ctxQuery, consume_ctxBytes]
  · intro r s h st
    refine serve_okay h ?_
    simp only [valleyStart, State.consume_valley, st]
  · intro r s h st
    refine serve_okay h ?_
    simp only [valleyStart, State.consume_valley, st]
  · intro r s h st free
    refine serve_pend h ?_
    simp [valleyStart, State.consume_valley, st, free]
  · intro r s h st
    refine serve_fail h ?_ nofun
    simp only [valleyStart, State.consume_valley, st]
  · intro r s h st
    refine serve_pend h ?_
    simp only [valleyStop, State.consume_valley, st, State.consume_now]
  · intro r s h st
    refine serve_okay h ?_
    rcases st with st | st <;> simp only [valleyStop, State.consume_valley, st]
  · intro r s h st
    refine (serve_pending (after := fun t => match (s.valley (u8 r.pay 0)).shut.held with
      | some h => t.done h.1 .conflict 0 []
      | none => t) h ?_).trans rfl
    simp only [valleyStop, State.consume_valley, st] <;> rfl
  · intro v s st none_
    change execValleyStopDone v s = _
    unfold execValleyStopDone
    refine congrArg Host.Outcome.next ((if_pos (by simp [st, none_])).trans ?_)
    rfl
  · intro v n s st limit
    change execValleyStopLimitExpire v s = _
    simp only [execValleyStopLimitExpire, st, limit, State.advanceTo_holders]
  · intro r s h
    dsimp only
    intro changes retiring pipes apart share rates
    have settled := not_profileOutstanding changes retiring
    have apart' := not_clashing apart
    constructor
    · intro there
      refine serve_pending (after := fun t => t.boundaryIfStopped (u8 r.pay 0)) h ?_
      simp only [valleyProfileSet, State.consume_valley, State.consume_profile, consume_resolvePersonality, consume_profiles,
        consume_nextProfile, consume_narrowsOf, there]
      refine (if_neg settled).trans ((if_neg ?_).trans ((if_neg apart').trans ((if_neg (by omega)).trans (if_neg ?_))))
      · rcases pipes with none_ | only
        · simp [none_]
        · simp [only]
      · simpa using rates
    · intro old there kept few saves held
      refine serve_pending (after := fun t => t.boundaryIfStopped (u8 r.pay 0)) h ?_
      simp only [valleyProfileSet, State.consume_valley, State.consume_profile, consume_resolvePersonality, consume_profiles,
        consume_nextProfile, consume_narrowsOf, there, consume_nextPersonality, consume_ctxCount,
        State.consume_core, consume_regionHeld]
      refine (if_neg settled).trans ((if_neg ?_).trans ((if_neg apart').trans ((if_neg (by omega)).trans ((if_neg ?_).trans ?_))))
      · rcases pipes with none_ | only
        · simp [none_]
        · simp [only]
      · simpa using rates
      · exact (if_neg (by simp [kept])).trans ((if_neg (by simp [few])).trans ((if_neg (not_unsaved saves)).trans
          (if_neg (by simp [held]))))
  · intro r p s h there joint rates
    refine serve_pending (after := fun t => t.boundaryIfStopped (u8 r.pay 0)) h ?_
    simp only [narrowsSet, State.consume_profile, there, consume_nextProfile, consume_narrowsOf]
    rw [if_neg (by simp [joint]), if_neg (by simp [rates])]
  · intro r s h
    refine serve_okay h ?_
    simp only [valleyQuery, consume_valleyBytes]
end

section
/-! SUPPORT. What the steps of a save leave of the contexts (13). -/
namespace Sys2Proof.Machine
open Sys2Proof

theorem foldl_holds {α : Type} {P : State → Prop} (f : State → α → State) (l : List α) {s : State} (h : P s)
    (step : ∀ t a, P t → P (f t a)) : P (l.foldl f s) := by
  induction l generalizing s with
  | nil => exact h
  | cons a l ih => exact ih (step s a h)

theorem State.valley_updValley (s : State) (v : Nat) (f : Valley → Valley) :
    (s.updValley v f).valley v = f (s.valley v) :=
  lookD_upd_self ..

theorem DataOnly.core {s t : State} (h : DataOnly s t) : t.core = s.core := by
  rw [h]

theorem State.backInvalidate_dataOnly (s : State) (l : Nat) : DataOnly s (s.backInvalidate l) := by
  unfold State.backInvalidate
  exact ite_holds (P := DataOnly s) rfl rfl

theorem State.recall_dataOnly (s : State) (a n : Nat) (w : Bool) : DataOnly s (s.recall a n w) := by
  unfold State.recall
  generalize s.hostHolds a n w = ls
  exact foldl_holds (P := DataOnly s) _ _ rfl fun t l h => h.trans (State.backInvalidate_dataOnly t l)

theorem State.writeThrough_dataOnly (s : State) (a : Nat) (d : Bytes) : DataOnly s (s.writeThrough a d) := by
  unfold State.writeThrough
  refine ite_holds (P := DataOnly s) ?_ (State.putThrough_dataOnly ..)
  exact (State.recall_dataOnly ..).trans rfl

theorem State.updCtx_self {s : State} {k : Nat} {c : Context} (f : Context → Context) (there : look s.core.ctxs k = some c) :
    look (s.updCtx k f).core.ctxs k = some (f c) := by
  unfold State.updCtx
  rw [there]
  exact look_put_self ..

theorem State.updCtx_other {k n : Nat} (s : State) (f : Context → Context) (h : n ≠ k) :
    look (s.updCtx n f).core.ctxs k = look s.core.ctxs k := by
  unfold State.updCtx
  split
  · exact look_put_other _ _ _ _ h.symm
  · rfl

theorem State.setSaved_ctxs (s : State) (k : Nat) : (s.setSaved k).core.ctxs = s.core.ctxs := rfl

theorem State.readRemote_ctxs (s : State) (use : RemoteUse) (req glen valley a n : Nat) :
    (s.readRemote use req glen valley a n).core.ctxs = s.core.ctxs :=
  foldl_holds (P := fun t => t.core.ctxs = s.core.ctxs) _ _ rfl fun _ _ h => h

theorem State.askReplay_other {k n : Nat} (s : State) (c : Context) (h : n ≠ k) :
    look (s.askReplay n c).core.ctxs k = look s.core.ctxs k := by
  unfold State.askReplay
  refine foldl_holds (P := fun t => look t.core.ctxs k = look s.core.ctxs k) _ _ rfl fun t i same => ?_
  split
  · refine ite_holds (P := fun t => look t.core.ctxs k = look s.core.ctxs k) same ?_
    rw [State.readRemote_ctxs, State.updCtx_other _ _ h]
    exact same
  · exact same

theorem State.startRestore_other {k n : Nat} (s : State) (h : n ≠ k) :
    look (s.startRestore n).core.ctxs k = look s.core.ctxs k := by
  unfold State.startRestore
  dsimp only
  split
  · rw [State.askReplay_other _ _ h, State.updCtx_other _ _ h]
  · exact State.updCtx_other _ _ h

/-- What a tick finds before it looks for a switch: its time, and the error given taken into account. -/
def State.ticked (s : State) (v n : Nat) : Option StateErr → State
  | some e => (s.advanceTo n).stateErr v e
  | none => s.advanceTo n

/-- The switch that a tick begins in a valley that runs and switches nothing (R486). -/
def State.tickSwitch (t : State) (v : Nat) : State :=
  let u := t.noteWaiting v
  match u.chooseSwitch v with
  | some (r, w) => (u.startSwitch v r w).restoreFree v ((look (u.startSwitch v r w).core.ctxs r).bind (·.next))
  | none => u.restoreFree v none

theorem execSchedulerTick_eq {s : State} {v : Nat} (n : Nat) (e : Option StateErr) (small : v < 8) (out : s.dev.st ≠ .reset) :
    execSchedulerTick v (n, e) s = .next (
      if (((s.ticked v n e).valley v).st = .running ∨ ((s.ticked v n e).valley v).st = .stopping) ∧
        (s.ticked v n e).servesPeers ∧ (s.ticked v n e).switching v = false
      then (s.ticked v n e).tickSwitch v else s.ticked v n e) := by
  have same : execSchedulerTick v (n, e) s = .next (
      let x := (s.ticked v n e).valley v
      if 8 ≤ v || !(x.st = .running || x.st = .stopping) || !(s.ticked v n e).servesPeers || (s.ticked v n e).switching v
      then s.ticked v n e else (s.ticked v n e).tickSwitch v) := by
    cases e with
    | none => rfl
    | some e =>
      unfold execSchedulerTick
      dsimp only
      rw [if_neg (show ¬ (s.advanceTo n).dev.st = .reset by rw [State.advanceTo_dev]; exact out)]
      rfl
  rw [same]
  generalize s.ticked v n e = t
  refine congrArg Host.Outcome.next ?_
  by_cases runs : ((t.valley v).st = .running ∨ (t.valley v).st = .stopping) ∧ t.servesPeers ∧ t.switching v = false
  · rw [if_pos runs]
    obtain ⟨running, serves, still⟩ := runs
    exact if_neg (by rcases running with st | st <;> simp [small, st, serves, still])
  · rw [if_neg runs]
    refine if_pos (Classical.byContradiction fun bad => ?_)
    simp only [Bool.or_eq_true, Bool.not_eq_true', decide_eq_true_eq, not_or, Bool.not_eq_true, Bool.not_eq_false,
      Bool.or_eq_false_iff, decide_eq_false_iff_not] at bad
    obtain ⟨⟨⟨_, running⟩, serves⟩, still⟩ := bad
    exact runs ⟨Decidable.or_iff_not_not_and_not.2 running, serves, still⟩

/-- A tick with its valley idle or switching does no more than take its time and error into account. -/
theorem schedulerTick_cases {s : State} {v : Nat} (n : Nat) (e : Option StateErr) (small : v < 8) (out : s.dev.st ≠ .reset) :
    let t := s.ticked v n e
    let runs := ((t.valley v).st = .running ∨ (t.valley v).st = .stopping) ∧ t.servesPeers ∧ t.switching v = false
    (¬ runs → exec (.schedulerTick v (n, e)) s = .next t) ∧ (runs → exec (.schedulerTick v (n, e)) s = .next (t.tickSwitch v)) := by
  intro t runs
  have run : exec (.schedulerTick v (n, e)) s = .next (if runs then t.tickSwitch v else t) := execSchedulerTick_eq n e small out
  exact ⟨fun idle => run.trans (congrArg Host.Outcome.next (if_neg idle)),
    fun on => run.trans (congrArg Host.Outcome.next (if_pos on))⟩

/-- A context being restored, whose loads nobody replays any more, is ready to go on. -/
theorem not_replaying {m : TMap Remote} {k : Nat} {st : CtxState} (restoring : st = .restoring)
    (none_ : ∀ e ∈ m, ∀ i, e.2.use ≠ .replay k i) :
    ¬ (st ≠ .restoring || m.any fun e => match e.2.use with | .replay j _ => j == k | _ => false) = true := by
  rw [Bool.or_eq_true]
  rintro (bad | bad)
  · exact of_decide_eq_true bad restoring
  · obtain ⟨e, there, hit⟩ := List.any_eq_true.mp bad
    split at hit
    case h_1 j i use => exact none_ e there i (by rw [use, eq_of_beq hit])
    case h_2 => exact absurd hit (by simp)

/-- The state at the end of a save, before the context that was waited for is restored (R499). -/
def State.savedOut (u : State) (v k n : Nat) (x : Context) : State :=
  let l := u.liveOf k
  let d := u.drawBytes 40 (min x.saveBytes (256 * l.1 + 4096 * l.2.1 + 64 * l.2.2))
  let s := ((d.2.writeThrough x.saveAddr d.1).setSaved k).updCtx k fun c => { c with
    st := .swapped, next := none, since := ((d.2.writeThrough x.saveAddr d.1).setSaved k).now
    switchesOut := c.switchesOut + 1, lastSave := n % 2 ^ 32, waiting := none }
  s.updValley v fun x => { x with switches := x.switches + 1 }

theorem State.savedOut_ctx {u : State} {k : Nat} {x : Context} (v n : Nat) (there : look u.core.ctxs k = some x) :
    ∃ y, look (u.savedOut v k n x).core.ctxs k = some y ∧ y.st = .swapped ∧ y.switchesOut = x.switchesOut + 1 ∧
      y.lastSave = n % 2 ^ 32 ∧ y.create = x.create := by
  refine ⟨_, State.updCtx_self _ ?_, rfl, rfl, rfl, rfl⟩
  rw [State.setSaved_ctxs, (State.writeThrough_dataOnly _ _ _).core]
  exact there

theorem execContextSaveDone_kept {s : State} {v c n : Nat} {x : Context} (there : look s.core.ctxs (ctxKey v c) = some x)
    (saving : x.st = .saving) (can : s.canSave (ctxKey v c))
    (kept : (s.advanceTo (x.since + n)).areaLost v x false = false) :
    let t := (s.advanceTo (x.since + n)).savedOut v (ctxKey v c) n x
    execContextSaveDone v c n s = .next ((x.next.elim t t.startRestore).serveAll.resume) := by
  unfold execContextSaveDone
  dsimp only
  rw [there]
  dsimp only
  rw [if_neg (by simp [saving, can]), if_neg (by simp [kept])]
  cases x.next <;> rfl

end Sys2Proof.Machine
end

section
/-! PROOFS. The statement about batch boundaries and switches (13). -/
open Sys2Proof Sys2Proof.Machine

/-- Settles O25: what a save writes, and the restore it begins, leave the saved context as the save put it. -/
theorem boundariesAndSwitches : Obligations.BoundariesAndSwitches := by
  unfold Obligations.BoundariesAndSwitches
  refine ⟨?_, ?_, ?_, ?_, ?_, ?_, ?_, ?_, ?_⟩
  · intro v s there
    change execBatchBoundary v s = _
    refine congrArg Host.Outcome.next ((if_pos there).trans ?_)
    unfold State.boundary
    dsimp only
    rw [State.valley_updValley]
  · intro v bnd b d r n s
    rfl
  · intro v t ts s ready auto
    change execBoundaryAutoTimer v s = _
    unfold execBoundaryAutoTimer
    rw [ready]
    exact congrArg Host.Outcome.next (if_neg auto)
  · intro k x s there live
    have at_ : look (s.advanceTo (x.flipAt + 1000 * x.retainUs)).core.sets k = some x := by
      rw [State.advanceTo_core, there]
    have late : ¬ (s.advanceTo (x.flipAt + 1000 * x.retainUs)).now < x.flipAt + 1000 * x.retainUs := by
      rw [State.advanceTo_now]
      omega
    have run : exec (.epochRetainExpire k) s = .next ((s.advanceTo (x.flipAt + 1000 * x.retainUs)).expire k) := by
      change execEpochRetainExpire k s = _
      unfold execEpochRetainExpire
      rw [there]
      exact congrArg Host.Outcome.next (if_pos live)
    dsimp only
    rw [run]
    unfold State.expire
    rw [at_]
    constructor
    · intro none_
      refine congrArg Host.Outcome.next ((if_neg (by simp [live, none_, Nat.le_max_right])).trans ?_)
      simp only [Bool.and_eq_true, decide_eq_true_eq]
    · intro some_
      exact congrArg Host.Outcome.next (if_pos (by simp; omega))
  · intro v n e s small out
    dsimp only
    have both := schedulerTick_cases n e small out
    cases e with
    | none => exact both
    | some e => exact both
  · intro v r w c s there
    exact ⟨_, State.updCtx_self _ there, rfl, rfl⟩
  · intro v c n x s there saving can
    dsimp only
    have at_ : look (s.advanceTo (x.since + n)).core.ctxs (ctxKey v c) = some x := by
      rw [State.advanceTo_core, there]
    constructor
    · intro lost
      change execContextSaveDone v c n s = _
      unfold execContextSaveDone
      dsimp only
      rw [there]
      exact congrArg Host.Outcome.next ((if_neg (by simp [saving, can])).trans (if_pos lost))
    · intro kept other
      obtain ⟨y, saved, facts⟩ := State.savedOut_ctx v n at_
      refine ⟨_, y, execContextSaveDone_kept there saving can kept, ?_, facts⟩
      cases next : x.next with
      | none => exact saved
      | some m => exact (State.startRestore_other _ fun e => other (next.trans (congrArg some e))).trans saved
  · intro v c n x s there restoring none_
    dsimp only
    constructor
    · intro lost
      change execContextRestoreDone v c n s = _
      unfold execContextRestoreDone
      dsimp only
      rw [there]
      exact congrArg Host.Outcome.next ((if_neg (not_replaying restoring none_)).trans (if_pos lost))
    · intro kept
      change execContextRestoreDone v c n s = _
      unfold execContextRestoreDone
      dsimp only
      rw [there]
      exact congrArg Host.Outcome.next ((if_neg (not_replaying restoring none_)).trans (if_neg (by simp [kept])))
  · intro v c n s none_
    constructor
    · change execContextSaveDone v c n s = _
      simp [execContextSaveDone, none_]
    · change execContextRestoreDone v c n s = _
      simp [execContextRestoreDone, none_]
end

section
/-! SUPPORT. Queues: what a query reads of them, and an entry's way into its ring (11). -/
namespace Sys2Proof.Machine
open Sys2Proof

theorem consume_queueBytes (s : State) (via : Via) (q ty : Nat) : (s.consume via).queueBytes q ty = s.queueBytes q ty := by
  obtain ⟨a, b, c, d, e⟩ := State.consume_frame s via
  rw [e]
  rfl

theorem State.updSq_of {s : State} {n : Nat} {q : Sq} (f : Sq → Sq) (there : look s.core.sqs n = some q) :
    s.updSq n f = s.setCore { s.core with sqs := put s.core.sqs n (f q) } := by
  unfold State.updSq
  rw [there]

theorem State.updSq_const {s : State} {n : Nat} {q : Sq} (f : Sq → Sq) (there : look s.core.sqs n = some q) :
    s.updSq n f = s.updSq n fun _ => f q := by
  rw [State.updSq_of f there, State.updSq_of _ there]

theorem State.updCq_of {s : State} {n : Nat} {q : Cq} (f : Cq → Cq) (there : look s.core.cqs n = some q) :
    s.updCq n f = s.setCore { s.core with cqs := put s.core.cqs n (f q) } := by
  unfold State.updCq
  rw [there]

theorem State.updCq_self {s : State} {n : Nat} {q : Cq} (f : Cq → Cq) (there : look s.core.cqs n = some q) :
    look (s.updCq n f).core.cqs n = some (f q) := by
  rw [State.updCq_of f there]
  exact look_put_self ..

theorem State.dropNotifies_cqs (s : State) (q : Nat) : (s.dropNotifies q).core.cqs = s.core.cqs := rfl

/-- The state with a new CQ and its ring zeroed. -/
def State.cqCreated (s : State) (r : Req) : State :=
  let t : State := { s.consume r.via with mem := zeroN s.mem (hostBase + (cqOf r.pay).ring) (2 ^ (cqOf r.pay).log2 * 16) }
  t.setCore { s.core with cqs := put s.core.cqs (u16 r.pay 0) (cqOf r.pay) }

/-- The state in which the entry has been written at the ring's tail, and what it held is not yet free. -/
def State.entryWritten (s : State) (n : Nat) (q : Cq) (d : Due) : State :=
  let t := s.writeThrough (hostBase + q.ring + q.tail.toNat % q.size * 16) (s.entryBytes q d)
  (t.setCore { t.core with due := t.core.due.erase d }).updCq n fun x => { x with
    tail := x.tail + 1, posted := x.posted + 1, reserved := x.reserved - b2n d.held
    firstAt := if x.armed then x.firstAt <|> some t.now else none }

section
variable {s : State} {n : Nat} {q : Cq} {d : Due} {sync : Bool}

/-- A running CQ takes the first entry that is due. -/
theorem State.postEntry_due (there : look s.core.cqs n = some q) (sound : q.corrupt = false) (runs : q.st = 1)
    (awake : s.pwr.d3hot = false) (up : s.dev.st ≠ .standby) (due : s.nextDue n q sync = some d) :
    s.postEntry n sync = if !s.populated (hostBase + q.ring + q.tail.toNat % q.size * 16) || !s.link.up then s.cqFails n
      else ((if d.kind = 1 then (s.entryWritten n q d).setObj (d.c + 65536 * d.d)
        { (s.entryWritten n q d).obj (d.c + 65536 * d.d) with fired := true } else s.entryWritten n q d).posted d).countFire n := by
  unfold State.postEntry
  rw [there]
  dsimp only
  rw [if_neg (by simp [sound]), if_neg (by simp [runs, awake, up]), due]
  rfl

theorem State.postEntry_corrupt (there : look s.core.cqs n = some q) (corrupt : q.corrupt)
    (due : s.core.due.find? (fun d => d.cq = n && d.kind ≠ 1) = some d) :
    s.postEntry n sync = (s.setCore { s.core with due := s.core.due.erase d }).posted d := by
  unfold State.postEntry
  rw [there]
  dsimp only
  rw [if_pos corrupt, due]

theorem exec_post : exec (if sync then .syncNotifyPost n else .cqEntryPost n) s = .next (s.postEntry n sync) := by
  cases sync <;> rfl

end

end Sys2Proof.Machine
end

section
/-! PROOFS. The statement about queues (11). -/
open Sys2Proof Sys2Proof.Machine

/-- Settles O26: an armed CQ has no time running, so its count alone fires it. -/
theorem queues : Obligations.Queues := by
  unfold Obligations.Queues
  refine ⟨?_, ?_, ?_, ?_, ?_, ?_, ?_, ?_, ?_, ?_, ?_, ?_, ?_, ?_, ?_, ?_, ?_⟩
  · intro r s h coherent active free cq ctx
    refine serve_okay h ?_
    simp only [sqCreate, State.consume_link, State.consume_core]
    rw [if_neg (by simp [coherent, active]), if_neg (by simp [free, Option.isSome_iff_ne_none.mp cq])]
    refine if_neg ?_
    rcases ctx with update | kernel | there
    · simp [update]
    · simp [kernel]
    · simp [Option.isSome_iff_ne_none.mp there]
  · intro r q s h there live
    refine serve_pending (after := fun t => t.endSq (u16 r.pay 0)) h ?_
    simp only [sqDestroy, State.consume_core, there]
    exact if_neg live
  · intro r s h none_
    refine serve_okay h ?_
    simp only [sqDestroy, State.consume_core, none_]
  · intro r s h none_
    refine serve_okay h ?_
    simp only [cqDestroy, State.consume_core, none_]
    rfl
  · intro r s h coherent active free
    dsimp only
    have run : cqCreate.run r (s.consume r.via) = (Res.okay (s.cqCreated r)).work r := by
      simp only [cqCreate, State.consume_link, State.consume_core, State.consume_mem, State.cqCreated]
      exact if_neg (by simp [coherent, active, free])
    have drawn : ((s.cqCreated r).drawNat 42).2 = { s.cqCreated r with free := s.free + 1 } := by
      have same : (s.cqCreated r).free = s.free := State.consume_free ..
      rw [← same]
      rfl
    have both := serve_work h run
    rw [drawn] at both
    exact both
  · intro r x s h there idle
    refine serve_okay h ?_
    simp only [cqDestroy, State.consume_core, there]
    rw [if_neg (by simp), if_neg (by simpa using idle), State.dropNotifies_cqs, State.consume_core]
  · intro r x s h there
    refine serve_pending (after := fun t => t.boundaryIfStopped r.via.mbx) h ?_
    simp only [handleTableSet, State.consume_core, there]
    rfl
  · intro r s h
    refine serve_okay h ?_
    simp only [queueQuery, consume_queueBytes]
  · intro n v q s there bar live inside
    change ∃ t x, execCfeSqDoorbellWrite n v s = _ ∧ _
    unfold execCfeSqDoorbellWrite
    rw [there]
    dsimp only
    rw [if_neg (by simp [bar, live]), if_neg (by omega)]
    refine ⟨_, _, rfl, State.updSq_const _ there, rfl, rfl, rfl, ?_, ?_⟩
    · intro h
      exact ⟨if_neg h, if_neg h⟩
    · intro h
      exact ⟨if_pos h, if_pos h⟩
  · intro n v q s there bar live beyond
    change execCfeSqDoorbellWrite n v s = _
    unfold execCfeSqDoorbellWrite
    rw [there]
    exact congrArg Host.Outcome.next ((if_neg (by simp [bar, live])).trans (if_pos beyond))
  · intro n v q s there bar live inside
    change execCfeCqHeadWrite n v s = _
    unfold execCfeCqHeadWrite
    rw [there]
    exact congrArg Host.Outcome.next ((if_neg (by simp [bar, live])).trans (if_neg (by omega)))
  · intro n v q s there bar live beyond
    change execCfeCqHeadWrite n v s = _
    unfold execCfeCqHeadWrite
    rw [there]
    exact congrArg Host.Outcome.next ((if_neg (by simp [bar, live])).trans (if_pos beyond))
  · intro n v q s there bar on
    change execCfeCqArmWrite n v s = _
    unfold execCfeCqArmWrite
    rw [there]
    refine congrArg Host.Outcome.next ((if_neg (by simp [bar, on])).trans ?_)
    unfold State.countFire
    rw [State.updCq_self _ there]
    dsimp only
    rw [Option.map_none, Option.getD_none, Bool.false_and, Bool.or_false, Bool.true_and]
    simp only [decide_eq_true_eq]
    rfl
  · intro n t q s there armed first unread
    change execCqCoalesceTimer n s = _
    unfold execCqCoalesceTimer
    rw [there]
    dsimp only
    rw [armed, first]
    exact congrArg Host.Outcome.next (if_neg unread)
  · intro n sync q d s there sound runs awake up due populated link
    have run := State.postEntry_due there sound runs awake up due
    rw [if_neg (by simp [populated, link])] at run
    constructor
    · rintro rfl other
      rw [if_neg other] at run
      exact congrArg Host.Outcome.next run
    · rintro rfl one
      rw [if_pos one] at run
      exact congrArg Host.Outcome.next run
  · intro n sync q d s there sound runs awake up due lost
    have run := State.postEntry_due there sound runs awake up due
    rw [if_pos (by rcases lost with h | h <;> simp [h])] at run
    rw [exec_post, run]
  · intro n sync q d s there corrupt due
    rw [exec_post, State.postEntry_corrupt there corrupt due]
end

section
/-! SUPPORT. The registers of the sync objects, and a signal of a peer (10). -/
namespace Sys2Proof.Machine
open Sys2Proof

theorem State.unitAt_sync (s : State) {g r : Nat} (small : g < 131072) (inside : r < 64) :
    s.unitAt (0x800000 + 64 * g + r) = s.readSync g r := by
  have place : (0x800000 + 64 * g + r - 0x800000) / 64 = g ∧ (0x800000 + 64 * g + r) % 64 = r := by omega
  unfold State.unitAt
  rw [if_neg (by simp [inRing]; omega), if_neg (by omega), if_neg (by omega), if_neg (by simp; omega),
    if_neg (by simp; omega), if_neg (by simp; omega), if_pos (by simp; omega), place.1, place.2]

theorem State.afterRead_sync (s : State) {g r : Nat} (small : g < 131072) (inside : r < 64) :
    s.afterRead (0x800000 + 64 * g + r) = s.afterSync g r := by
  have place : (0x800000 + 64 * g + r - 0x800000) / 64 = g ∧ (0x800000 + 64 * g + r) % 64 = r := by omega
  unfold State.afterRead
  split
  case h_8 => rw [if_pos (by simp; omega), place.1, place.2]
  all_goals omega

theorem State.readReg_sync (s : State) {g r : Nat} (small : g < 131072) (inside : r < 64) (bar : s.bar0) :
    s.readReg (0x800000 + 64 * g + r) = (s.afterSync g r).emit (.read (s.readSync g r)) := by
  unfold State.readReg
  rw [if_pos bar, State.unitAt_sync s small inside, State.afterRead_sync s small inside]

theorem execSynValueRead_sound (g : Nat) (s : State) :
    execSynValueRead (g, false) s = .next (s.readReg (0x800000 + 64 * g)) :=
  congrArg (fun t : State => Host.Outcome.next (t.readReg (0x800000 + 64 * g))) (if_neg (by simp))

theorem execSynValueRead_bad {g : Nat} {s : State} (readable : s.syncReadable g) :
    execSynValueRead (g, true) s = .next ((s.poisonObj g).readReg (0x800000 + 64 * g)) :=
  congrArg (fun t : State => Host.Outcome.next (t.readReg (0x800000 + 64 * g))) (if_pos (by simp [readable]))

theorem execSynValueRead_deaf {g : Nat} {s : State} (bad : Bool) (deaf : s.syncReadable g = false) :
    execSynValueRead (g, bad) s = .next (s.readReg (0x800000 + 64 * g)) :=
  congrArg (fun t : State => Host.Outcome.next (t.readReg (0x800000 + 64 * g))) (if_neg (by simp [deaf]))

theorem State.readValue {s : State} {g : Nat} (small : g < 131072) (bar : s.bar0) :
    s.readReg (0x800000 + 64 * g) = (s.afterSync g 0).emit (.read (s.readSync g 0)) := by
  have run := State.readReg_sync s small (show 0 < 64 by omega) bar
  rw [Nat.add_zero] at run
  exact run

theorem execSynStatusRead_eq {s : State} {g : Nat} (small : g < 131072) (bar : s.bar0) :
    execSynStatusRead g s = .next ((s.afterSync g 0x30).emit (.read (s.readSync g 0x30))) := by
  have place : 0x800030 + 64 * g = 0x800000 + 64 * g + 0x30 := by omega
  unfold execSynStatusRead
  rw [place, State.readReg_sync s small (show 0x30 < 64 by omega) bar]

theorem State.sync_deaf {s : State} {g : Nat} (deaf : s.syncReadable g = false) (r : Nat) :
    s.afterSync g r = s ∧ s.readSync g r = 0 := by
  unfold State.afterSync State.readSync
  simp [deaf]

/-- What a write to an object does is done where the object is writable, and a whole register is written. -/
theorem State.syncWrite_of {s : State} {g : Nat} (writable : s.syncWritable g) (f : State → State) :
    s.syncWrite g false f = f s ∧ s.syncWrite g true f = s.setObj g { s.obj g with sizeErr := true } := by
  unfold State.syncWrite
  simp [writable]

theorem State.syncWrite_deaf {s : State} {g : Nat} (deaf : s.syncWritable g = false) (high : Bool) (f : State → State) :
    s.syncWrite g high f = s := by
  unfold State.syncWrite
  simp [deaf]

theorem State.syncAdd_poisoned {s : State} {g : Nat} (v : W64) (h : (s.obj g).poisoned) : s.syncAdd g v = (s, false) :=
  if_pos h

theorem State.syncAdd_clean {s : State} {g : Nat} (v : W64) (h : (s.obj g).poisoned = false) :
    s.syncAdd g v = ((s.setObj g { s.obj g with value := (s.obj g).value + v }).changed g, true) :=
  if_neg (by simp [h])

theorem State.syncAdd_state (s : State) (g : Nat) (v : W64) : (s.syncAdd g v).1 =
    if (s.obj g).poisoned then s else (s.setObj g { s.obj g with value := (s.obj g).value + v }).changed g := by
  cases h : (s.obj g).poisoned with
  | true => rw [State.syncAdd_poisoned v h, if_pos rfl]
  | false => rw [State.syncAdd_clean v h, if_neg nofun]

/-- The object that a signal names (R380). -/
def State.signalled (s : State) (m : Bytes) : Option Nat :=
  if u8 m 4 < 8 then s.syncIndex (u8 m 4) (s.bndNow (u8 m 4)) (u16 m 2) else none

/-- The answer to a signal (R383). -/
def State.answerSignal (t : State) (src tag : Nat) (m : Bytes) (st : Nat) : State :=
  t.send { dest := src, src := t.dev.nodeId, tag, kind := 4
           msg := leBytes 2 (u16 m 0) ++ leBytes 2 st ++ leBytes 1 (u8 m 4) ++ zeros 3 }

section
variable {s : State} {m : Bytes} {src tag k : Nat}

theorem State.signalRequest_none (serves : s.servesPeers) (long : 16 ≤ m.length) (none_ : s.signalled m = none) :
    s.signalRequest src tag m = s.answerSignal src tag m 2 := by
  unfold State.signalled at none_
  unfold State.signalRequest
  rw [if_neg (by simp [serves]), if_neg (by omega), none_]
  rfl

theorem State.signalRequest_some (serves : s.servesPeers) (long : 16 ≤ m.length) (there : s.signalled m = some k) :
    s.signalRequest src tag m =
      if s.inTransit k then s.answerSignal src tag m 2
      else if (s.obj k).ctrl.getLsbD 16 && decide (tag < 8) && (s.obj k).ctrl.getLsbD (24 + tag) then
        (s.syncAdd k (BitVec.ofNat 64 (u64 m 8))).1.answerSignal src tag m
          (if (s.syncAdd k (BitVec.ofNat 64 (u64 m 8))).2 then 0 else 3)
      else (s.setObj k { s.obj k with refused := satAdd 0xFFFF (s.obj k).refused 1 }).answerSignal src tag m 1 := by
  unfold State.signalled at there
  unfold State.signalRequest
  rw [if_neg (by simp [serves]), if_neg (by omega), there]
  dsimp only
  refine ite_congr rfl (fun _ => rfl) fun _ => ?_
  by_cases allows : (s.obj k).ctrl.getLsbD 16 && decide (tag < 8) && (s.obj k).ctrl.getLsbD (24 + tag)
  · rw [if_pos allows]
    simp only [Bool.and_eq_true, decide_eq_true_eq] at allows
    obtain ⟨⟨on, small⟩, node⟩ := allows
    rw [if_neg (by simp [on, node]; omega)]
    rfl
  · rw [if_neg allows]
    refine if_pos (Classical.byContradiction fun bad => ?_)
    simp only [Bool.or_eq_true, Bool.not_eq_true', decide_eq_true_eq, not_or, Bool.not_eq_false] at bad
    exact allows (by simp [bad]; omega)

end

end Sys2Proof.Machine
end

section
/-! PROOFS. The statement about sync objects (10). -/
open Sys2Proof Sys2Proof.Machine

/-- Settles O27: an object's registers stand at its own 64 bytes of BAR0, where no other register does. -/
theorem syncObjects : Obligations.SyncObjects := by
  unfold Obligations.SyncObjects
  refine ⟨?_, ?_, ?_, ?_, ?_, ?_, ?_, ?_, ?_, ?_⟩
  · intro g v s writable
    have write (f : State → State) := State.syncWrite_of writable f
    refine ⟨congrArg Host.Outcome.next ((write _).1.trans ?_), congrArg Host.Outcome.next (write _).1,
      congrArg Host.Outcome.next (write _).1, congrArg Host.Outcome.next (write _).2,
      congrArg Host.Outcome.next (write _).2, congrArg Host.Outcome.next (write _).2⟩
    exact State.syncAdd_state ..
  · intro g v s writable on
    refine congrArg Host.Outcome.next ((if_neg (by simp [writable, on])).trans ?_)
    simp only [Bool.and_eq_true, decide_eq_true_eq]
  · intro g v s off
    exact congrArg Host.Outcome.next (if_pos (by rw [off]; simp))
  · intro g v w high s deaf
    have quiet (f : State → State) := State.syncWrite_deaf deaf high f
    exact ⟨congrArg Host.Outcome.next (quiet _), congrArg Host.Outcome.next (quiet _),
      congrArg Host.Outcome.next (quiet _), congrArg Host.Outcome.next (if_pos (by simp [deaf]))⟩
  · intro g s small readable
    have bar : s.bar0 := by
      unfold State.syncReadable at readable
      simp only [Bool.and_eq_true] at readable
      exact readable.1.1
    refine ⟨?_, (execSynValueRead_bad readable).trans (execSynValueRead_sound ..).symm, ?_⟩
    · refine (execSynValueRead_sound g s).trans (congrArg Host.Outcome.next ((State.readValue small bar).trans ?_))
      unfold State.afterSync State.readSync
      simp only [readable, Bool.not_true, Bool.false_eq_true, if_false]
      rfl
    · refine (execSynStatusRead_eq small bar).trans (congrArg Host.Outcome.next ?_)
      unfold State.afterSync State.readSync
      simp only [readable, Bool.not_true, Bool.false_eq_true, if_false]
  · intro g bad s small bar deaf
    obtain ⟨after, value⟩ := State.sync_deaf deaf 0
    obtain ⟨afterStatus, status⟩ := State.sync_deaf deaf 0x30
    constructor
    · refine (execSynValueRead_deaf bad deaf).trans (congrArg Host.Outcome.next ((State.readValue small bar).trans ?_))
      rw [after, value]
    · refine (execSynStatusRead_eq small bar).trans (congrArg Host.Outcome.next ?_)
      rw [afterStatus, status]
  · intro src tag m s serves short
    refine congrArg Host.Outcome.next ?_
    unfold State.signalRequest
    exact (if_neg (by simp [serves])).trans (if_pos short)
  · intro src tag m s serves long
    refine ⟨fun none_ => ?_, fun k there moving => ?_, fun k there still closed => ?_, fun k there still allows poisoned => ?_,
      fun k there still allows clean => ?_⟩
    · exact congrArg Host.Outcome.next (State.signalRequest_none serves long none_)
    · exact congrArg Host.Outcome.next ((State.signalRequest_some serves long there).trans (if_pos moving))
    · exact congrArg Host.Outcome.next ((State.signalRequest_some serves long there).trans
        ((if_neg (by simp [still])).trans (if_neg (by simpa using closed))))
    · refine congrArg Host.Outcome.next ((State.signalRequest_some serves long there).trans
        ((if_neg (by simp [still])).trans ((if_pos allows).trans ?_)))
      rw [State.syncAdd_poisoned _ poisoned, if_neg nofun]
      rfl
    · refine congrArg Host.Outcome.next ((State.signalRequest_some serves long there).trans
        ((if_neg (by simp [still])).trans ((if_pos allows).trans ?_)))
      rw [State.syncAdd_clean _ clean]
      generalize State.changed _ k = t
      exact congrArg (State.answerSignal t src tag m) (if_pos rfl)
  · intro node tag st i m s there
    refine congrArg Host.Outcome.next ?_
    unfold State.signalAnswer
    rw [there]
  · intro tag i m s there
    change execRemoteSignalTimeout tag s = _
    unfold execRemoteSignalTimeout
    rw [there]
end

section
/-! SUPPORT. The front end takes a command off its queue and starts it (11, 12). -/
namespace Sys2Proof.Machine
open Sys2Proof

section
variable {s : State} {n : Nat} {q : Sq} {ok : Nat → Prop} {k : CmdKind} {picks : Cmd → Bool}

/-- The command that its valley admits next, and that the operation picks, has its inputs back from the host or starts. -/
theorem State.admitHead_of (h : Admits ok n q s) (picked : picks (s.command q)) : s.admitHead k picks n =
    match s.heldInputs k (n / 512) (q.ctxFor (s.command q)) (s.command q) with
    | [] => State.start k q (s.command q) (s.takeCommand k n q)
    | l => (l.foldl (fun s x => s.recall x.1 x.2 false) s).spendTurn (n / 512) := by
  obtain ⟨queue, admits, spare, turn, link, whole, -⟩ := h
  unfold State.admitHead
  rw [queue]
  dsimp only
  rw [if_neg (by simp [admits]), if_neg (by simp [spare]), if_neg (by simp [turn]), if_neg (by simp [link, whole]),
    if_neg (by simp [picked])] <;> rfl

theorem State.heldInputs_plain {v ctx : Nat} {c : Cmd} (none_ : k.handles = false) (reads : k.reads s v c = []) :
    s.heldInputs k v ctx c = [] := by
  unfold State.heldInputs
  rw [if_neg (by simp [none_]), reads]
  rfl

theorem State.heldInputs_launch (n v ctx : Nat) (c : Cmd) : s.heldInputs (launchKind n) v ctx c = s.heldEntries v ctx c := by
  unfold State.heldInputs
  rw [if_pos (show (launchKind n).handles = true from rfl)]
  cases s.heldEntries v ctx c <;> rfl

theorem State.start_clean {c : Cmd} {x : Nat × Request × State} (clean : x.2.2.checkCommand k q c x.2.1 = none) :
    State.start k q c x = k.run x.1 x.2.1 (x.2.2.relocate x.2.1.stamp x.2.1.inline c.nhandle).1 x.2.2 := by
  unfold State.start
  rw [clean]

theorem State.start_refused {c : Cmd} {x : Nat × Request × State} {e : Nat × Nat}
    (bad : x.2.2.checkCommand k q c x.2.1 = some e) : State.start k q c x = x.2.2.refuseCommand x.1 x.2.1 e.1 e.2 := by
  unfold State.start
  rw [bad]

/-- A command that reads nothing as it is taken starts at once. -/
theorem State.admitOp_plain (h : Admits (· = k.op) n q s) (none_ : k.handles = false)
    (reads : k.reads s (n / 512) (s.command q) = []) :
    s.admitOp k n = .next (State.start k q (s.command q) (s.takeCommand k n q)) := by
  unfold State.admitOp
  rw [State.admitHead_of h (decide_eq_true h.op), State.heldInputs_plain none_ reads]

theorem State.admitHead_invalid (h : Admits (fun o => knownOp o = false) n q s) :
    s.admitHead invalidKind (fun c => !knownOp c.op) n =
      State.start invalidKind q (s.command q) (s.takeCommand invalidKind n q) := by
  rw [State.admitHead_of h (by simp [h.op]), State.heldInputs_plain rfl rfl]

/-- What starting a command that has been taken can do: its operation acts, or the code of the first check ends it. -/
theorem started {i : Instr} {c : Cmd} {x : Nat × Request × State} (run : exec i s = .next (State.start k q c x)) :
    (x.2.2.checkCommand k q c x.2.1 = none →
      exec i s = .next (k.run x.1 x.2.1 (x.2.2.relocate x.2.1.stamp x.2.1.inline c.nhandle).1 x.2.2)) ∧
    (∀ e, x.2.2.checkCommand k q c x.2.1 = some e → exec i s = .next (x.2.2.refuseCommand x.1 x.2.1 e.1 e.2)) :=
  ⟨fun clean => run.trans (congrArg Host.Outcome.next (State.start_clean clean)),
    fun _ bad => run.trans (congrArg Host.Outcome.next (State.start_refused bad))⟩

theorem State.takeCommand_request : (s.takeCommand k n q).2.1.valley = n / 512 ∧
    (s.takeCommand k n q).2.1.arg = (s.command q).arg ∧ (s.takeCommand k n q).2.1.inline = (s.command q).inline :=
  ⟨rfl, rfl, rfl⟩

theorem boundaryKind_run (i : Nat) (r : Request) (hs : List Bytes) (s : State) : boundaryKind.run i r hs s =
    (s.boundary r.valley).finishWith i 0 (((s.boundary r.valley).valley r.valley).bseq.toNat % 65536) := rfl

theorem launchKind_run (m i : Nat) (r : Request) (hs : List Bytes) (s : State) :
    (launchKind m).run i r hs s = State.launch i r m hs s := rfl

theorem nopKind_run (i : Nat) (r : Request) (hs : List Bytes) (s : State) : nopKind.run i r hs s = s.finishWith i 0 0 := rfl

theorem signalKind_run {g : Nat} (set : Bool) (i : Nat) (r : Request) (hs : List Bytes) (s : State)
    (there : s.syncIndex r.valley r.stamp.bnd r.arg = some g) : (signalKind set).run i r hs s =
    if set then (s.syncSet g (BitVec.ofNat 64 (u64 r.inline 0))).finishWith i 0 0
    else (s.syncAdd g (BitVec.ofNat 64 (u64 r.inline 0))).1.finishWith i (if (s.obj g).poisoned then 0x17 else 0) 0 := by
  unfold signalKind
  dsimp only
  rw [there]
  dsimp only
  refine ite_congr rfl (fun _ => rfl) fun _ => ?_
  cases poisoned : (s.obj g).poisoned with
  | true =>
    rw [State.syncAdd_poisoned _ poisoned]
    rfl
  | false =>
    rw [State.syncAdd_clean _ poisoned]
    rfl

theorem State.updCq_sqs (s : State) (i : Nat) (f : Cq → Cq) : (s.updCq i f).core.sqs = s.core.sqs := by
  unfold State.updCq
  split <;> rfl

theorem State.updSq_self (f : Sq → Sq) (there : look s.core.sqs n = some q) :
    look (s.updSq n f).core.sqs n = some (f q) := by
  rw [State.updSq_of f there]
  exact look_put_self ..

theorem State.updSq_frame (s : State) (i : Nat) (f : Sq → Sq) : (s.updSq i f).core.reqs = s.core.reqs ∧
    (s.updSq i f).core.turnValley = s.core.turnValley := by
  unfold State.updSq
  split <;> exact ⟨rfl, rfl⟩

/-- The queue once its command has been taken. -/
theorem State.take_queue (there : look s.core.sqs n = some q) : ∃ y, look (s.take n q).core.sqs n = some y ∧
    y.inflight = q.inflight + 1 ∧ y.cons = q.cons + BitVec.ofNat 32 (slotsOf (s.slot q q.cons.toNat)) := by
  unfold State.take
  dsimp only
  refine ⟨_, ((congrArg (look · n) (State.updCq_sqs ..)).trans (State.updSq_self _ there)), rfl, rfl⟩

/-- The state with the request of a command put in its place, before the command's chain holds its queue. -/
def State.requestPut (s : State) (k : CmdKind) (n : Nat) (q : Sq) : State :=
  let t := ((s.take n q).fresh.2.updValley (n / 512) fun x => { x with admitted := x.admitted + 1 }).count (n / 512) 1
  t.setCore { t.core with reqs := put t.core.reqs (s.takeCommand k n q).1 (s.takeCommand k n q).2.1 }

theorem State.takeCommand_state : (s.takeCommand k n q).2.2 = if (s.command q).chain
    then (s.requestPut k n q).updSq n fun x => { x with chained := true } else s.requestPut k n q := rfl

theorem State.requestPut_core :
    (s.requestPut k n q).core.reqs = put (s.take n q).core.reqs (s.takeCommand k n q).1 (s.takeCommand k n q).2.1 ∧
    (s.requestPut k n q).core.turnValley = (s.take n q).core.turnValley ∧
    (s.requestPut k n q).core.sqs = (s.take n q).core.sqs := by
  unfold State.requestPut
  generalize s.takeCommand k n q = x
  generalize s.take n q = t
  exact ⟨rfl, rfl, rfl⟩

theorem State.take_turn : (s.take n q).core.turnValley = n / 512 := by
  unfold State.take
  dsimp only
  generalize State.updCq _ _ _ = t
  rfl

theorem State.requestPut_facts (there : look s.core.sqs n = some q) :
    look (s.requestPut k n q).core.reqs (s.takeCommand k n q).1 = some (s.takeCommand k n q).2.1 ∧
    (s.requestPut k n q).core.turnValley = n / 512 ∧ ∃ y, look (s.requestPut k n q).core.sqs n = some y ∧
      y.inflight = q.inflight + 1 ∧ y.cons = q.cons + BitVec.ofNat 32 (slotsOf (s.slot q q.cons.toNat)) := by
  obtain ⟨reqs, turn, sqs⟩ := State.requestPut_core (s := s) (k := k) (n := n) (q := q)
  rw [reqs, turn, sqs]
  exact ⟨look_put_self .., State.take_turn, State.take_queue there⟩

theorem State.takeCommand_facts (there : look s.core.sqs n = some q) :
    let x := s.takeCommand k n q
    look x.2.2.core.reqs x.1 = some x.2.1 ∧ x.2.2.core.turnValley = n / 512 ∧ ∃ y, look x.2.2.core.sqs n = some y ∧
      y.inflight = q.inflight + 1 ∧ y.cons = q.cons + BitVec.ofNat 32 (slotsOf (s.slot q q.cons.toNat)) := by
  intro x
  obtain ⟨request, turn, y, queue, facts⟩ := State.requestPut_facts (k := k) there
  have state : x.2.2 = _ := State.takeCommand_state
  by_cases chain : (s.command q).chain
  · rw [state, if_pos chain]
    obtain ⟨reqs, same⟩ := (s.requestPut k n q).updSq_frame n fun x => { x with chained := true }
    rw [reqs, same]
    exact ⟨request, turn, _, State.updSq_self _ queue, facts⟩
  · rw [state, if_neg chain]
    exact ⟨request, turn, y, queue, facts⟩

/-- The operations of the front end look at the head of a queue alike. -/
theorem exec_admits {i : Instr} (which : i = .launch n ∨ i = .boundary n ∨ i = .signal n ∨ i = .nop n ∨ i = .invalidCommand n) :
    ∃ k picks, exec i s = .next (s.admitHead k picks n) := by
  rcases which with rfl | rfl | rfl | rfl | rfl <;> exact ⟨_, _, rfl⟩

theorem State.admitHead_stalls (there : look s.core.sqs n = some q) (admits : s.admits (n / 512)) (waits : s.hasCommand q)
    (full : s.cqSpare q = false) : s.admitHead k picks n =
    s.updSq n fun x => if x.stalled then x else { x with stalls := x.stalls + 1, stalled := true } := by
  unfold State.admitHead
  rw [there]
  exact (if_neg (by simp [admits])).trans (if_pos (by simp [waits, full]))

theorem State.admitHead_lost (there : look s.core.sqs n = some q) (admits : s.admits (n / 512)) (spare : s.cqSpare q)
    (turn : s.isNext (n / 512) n)
    (lost : s.link.up = false ∨ s.poisoned (hostBase + q.ring + q.cons.toNat % 2 ^ q.log2 * 128) 128) :
    s.admitHead k picks n =
      (s.updSq n fun x => { x with st := 2, err := 2 }).queueError q.cq q.prod.toNat n 2 0 (n / 512) := by
  unfold State.admitHead
  rw [there]
  dsimp only
  rw [if_neg (by simp [admits]), if_neg (by simp [spare]), if_neg (by simp [turn])]
  exact if_pos (by rcases lost with h | h <;> simp [h])

theorem State.admitHead_closed (closed : s.admits (n / 512) = false) : s.admitHead k picks n = s := by
  unfold State.admitHead
  split
  · rfl
  · exact if_pos (by simp [closed])

theorem State.admitHead_other (there : look s.core.sqs n = some q) (spare : s.cqSpare q) (turn : s.isNext (n / 512) n = false) :
    s.admitHead k picks n = s := by
  unfold State.admitHead
  rw [there]
  dsimp only
  rw [if_neg (show ¬ (s.hasCommand q && !s.cqSpare q) = true by simp [spare]), if_pos (show (!s.isNext (n / 512) n) = true by simp [turn])]
  exact ite_self s

theorem checkCommand_invalid {c : Cmd} {r : Request} : s.checkCommand invalidKind q c r =
    if q.chainOk = some false && !c.always then some (0x1A, 0) else some (0x16, 0) := by
  unfold State.checkCommand
  refine ite_congr rfl (fun _ => rfl) fun _ => if_pos ?_
  rw [show invalidKind.bad s r.valley c = true from rfl, Bool.or_true]

end

end Sys2Proof.Machine
end

section
/-! PROOFS. The statement about the front end (11, 12). -/
open Sys2Proof Sys2Proof.Machine

/-- Settles O28: the operations of the front end share one look at the head of a queue and one start of what it takes. -/
theorem frontEnd : Obligations.FrontEnd := by
  unfold Obligations.FrontEnd
  refine ⟨?_, ?_, ?_, ?_, ?_, ?_, ?_, ?_, ?_⟩
  · intro n q s h held
    refine congrArg Host.Outcome.next ((State.admitHead_of h (decide_eq_true h.op)).trans ?_)
    rw [State.heldInputs_launch]
    split
    · contradiction
    · rfl
  · intro n q s h free
    have run : exec (.launch n) s = .next (State.start (launchKind n) q (s.command q) (s.takeCommand (launchKind n) n q)) := by
      refine congrArg Host.Outcome.next ((State.admitHead_of h (decide_eq_true h.op)).trans ?_)
      rw [State.heldInputs_launch, free]
    have both := started run
    rw [launchKind_run] at both
    exact both
  · intro n q s h
    have both := started (i := .boundary n) (State.admitOp_plain (k := boundaryKind) h rfl rfl)
    rw [boundaryKind_run, State.takeCommand_request.1] at both
    exact both
  · intro n q s h
    have run : exec (.signal n) s = .next (State.start (signalKind (s.command q).set) q (s.command q)
        (s.takeCommand (signalKind (s.command q).set) n q)) := by
      change execSignal n s = _
      unfold execSignal
      rw [h.queue]
      exact State.admitOp_plain (k := signalKind (s.command q).set) h rfl rfl
    obtain ⟨acts, refused⟩ := started run
    obtain ⟨valley, arg, inline⟩ := State.takeCommand_request (s := s) (k := signalKind (s.command q).set) (n := n) (q := q)
    refine ⟨fun g clean there => (acts clean).trans (congrArg Host.Outcome.next ?_), refused⟩
    rw [← valley, ← arg] at there
    rw [signalKind_run _ _ _ _ _ there, inline]
  · intro n q s h
    have both := started (i := .nop n) (State.admitOp_plain (k := nopKind) h rfl rfl)
    rw [nopKind_run] at both
    exact both
  · intro n q s h goes
    refine (started (i := .invalidCommand n) (s := s) (congrArg Host.Outcome.next (State.admitHead_invalid h))).2 (0x16, 0) ?_
    rw [checkCommand_invalid]
    refine if_neg ?_
    rcases goes with goes | goes <;> simp [goes]
  · intro n q s h cancelled free
    refine (started (i := .invalidCommand n) (s := s) (congrArg Host.Outcome.next (State.admitHead_invalid h))).2 (0x1A, 0) ?_
    rw [checkCommand_invalid]
    exact if_pos (by simp [cancelled, free])
  · intro k n q s there
    exact State.takeCommand_facts there
  · intro n s i which
    obtain ⟨k, picks, run⟩ := exec_admits (s := s) which
    rw [run]
    refine ⟨fun q there admits waits full => ?_, fun q there admits spare turn lost => ?_, fun closed => ?_,
      fun q there spare turn => ?_⟩
    · rw [State.admitHead_stalls there admits waits full]
    · rw [State.admitHead_lost there admits spare turn lost]
    · rw [State.admitHead_closed closed]
    · rw [State.admitHead_other there spare turn]
end

section
/-! SUPPORT. What the checks of the graph messages read (12). -/
namespace Sys2Proof.Machine
open Sys2Proof

section
variable (s : State) (via : Via)

theorem consume_arenaMeets (v a n : Nat) : (s.consume via).arenaMeets v a n = s.arenaMeets v a n := by
  obtain ⟨a, b, c, d, e⟩ := State.consume_frame s via
  rw [e]
  rfl

theorem consume_imageBad (v : Nat) (p img : Bytes) : (s.consume via).imageBad v p img = s.imageBad v p img := by
  obtain ⟨a, b, c, d, e⟩ := State.consume_frame s via
  rw [e]
  rfl

theorem consume_bytes (a n : Nat) : (s.consume via).bytes a n = s.bytes a n := by
  obtain ⟨a, b, c, d, e⟩ := State.consume_frame s via
  rw [e]
  rfl

theorem consume_graph (k g : Nat) : (s.consume via).graph k g = s.graph k g := by
  obtain ⟨a, b, c, d, e⟩ := State.consume_frame s via
  rw [e]
  rfl

end

/-- The armed activation of the request's graph. -/
def activates (r : Req) (a : Armed) : Bool := a.change == .graphActivate (u16 r.pay 0) (u8 r.pay 2)

/-- The graph without its pending version. -/
def Graph.discarded (x : Graph) : Graph :=
  { x with vers := x.vers.filter fun y => x.pendingVer ≠ some y.num, pendingVer := none, armed := false }

theorem patchDiscard_ok {s : State} {r : Req} {x : Graph} (target : s.patchTarget r false false = .ok x) :
    patchDiscard r s = {
      s := (s.setGraph (ctxKey r.via.mbx (u16 r.pay 0)) (u8 r.pay 2) x.discarded).updValley r.via.mbx fun z =>
        { z with changes := z.changes.filter fun a => !activates r a }
      pay := x.discarded.patchRsp
      after := fun t => (((s.valley r.via.mbx).changes.filter (activates r)).filterMap (·.done)).foldl
        (fun t d => t.done d .conflict 0 []) t } := by
  unfold patchDiscard
  rw [target]
  rfl

/-- The checks of a patch in the order in which they are made. -/
theorem State.patchTarget_of {s : State} {r : Req} {x : Graph} {busy faulted : Bool}
    (there : s.graph (ctxKey r.via.mbx (u16 r.pay 0)) (u8 r.pay 2) = some x) (live : x.retiring = false)
    (unarmed : busy → x.armed = false) (sound : faulted → ∀ v ∈ x.vers, v.lost = false ∧ s.poisoned v.record 4096 = false) :
    s.patchTarget r busy faulted = .ok x := by
  have idle : ¬ (x.armed && busy) = true := by
    intro bad
    obtain ⟨armed, on⟩ := Bool.and_eq_true_iff.mp bad
    exact absurd armed (by simp [unarmed on])
  have whole : ¬ (faulted && x.vers.any fun v => v.lost || s.poisoned v.record 4096) = true := by
    intro bad
    obtain ⟨on, hit⟩ := Bool.and_eq_true_iff.mp bad
    obtain ⟨v, there, lost⟩ := List.any_eq_true.mp hit
    obtain ⟨kept, clean⟩ := sound on v there
    simp [kept, clean] at lost
  unfold State.patchTarget
  rw [there]
  dsimp only
  rw [if_neg (by simp [live]), if_neg idle, if_neg whole]

end Sys2Proof.Machine
end

section
/-! PROOFS. The statement about the graph messages (12). -/
open Sys2Proof Sys2Proof.Machine

/-- Settles O29: taking the request changes nothing of what its checks read. -/
theorem graphMessages : Obligations.GraphMessages := by
  unfold Obligations.GraphMessages
  refine ⟨?_, ?_, ?_, ?_, ?_, ?_, ?_, ?_, ?_⟩
  · intro r c s h
    dsimp only
    intro there fresh apart few clean
    refine serve_pending (after := fun t => t.boundaryIfStopped r.via.mbx) h ?_
    simp only [graphStore, State.consume_core, there, consume_arenaMeets, consume_bytes, consume_imageBad, clean]
    rw [if_neg (by simp [fresh]), if_neg (by simp [apart]), if_neg (by omega)]
  · intro r x y s t h kind target inside patched
    change execGraphPatchStructural r.via s = _
    unfold execGraphPatchStructural
    rw [serveIf_picked h (by simp [kind])]
    refine serve_okay h ?_
    simp only [graphPatch, patchStructural, target]
    rw [if_neg (by omega), patched]
  · intro r x s h kind target inside
    change execGraphPatchIndirect r.via s = _
    unfold execGraphPatchIndirect
    rw [serveIf_picked h (by simp [kind])]
    refine serve_okay h ?_
    simp only [graphPatch, patchIndirect, target]
    rw [if_neg (by omega)]
  · intro r x y v s h kind target entry aligned some_ few pending version
    change execGraphPatchSetEntry r.via s = _
    unfold execGraphPatchSetEntry
    rw [serveIf_picked h (by simp [kind])]
    refine serve_okay h ?_
    simp only [graphPatch, patchEntry, target]
    rw [if_neg (by simp [aligned]; omega), if_neg (by simp [some_]; omega), pending]
    dsimp only
    rw [version]
  · intro r x s h kind target pending
    change execGraphPatchActivate r.via s = _
    unfold execGraphPatchActivate
    rw [serveIf_picked h (by simp [kind])]
    refine serve_pending (after := fun t => t.boundaryIfStopped r.via.mbx) h ?_
    simp only [graphPatch, patchActivate, target]
    rw [if_neg (by simpa [Option.isSome_iff_ne_none] using pending)]
  · intro r x s h kind target
    change execGraphPatchDiscard r.via s = _
    unfold execGraphPatchDiscard
    rw [serveIf_picked h (by simp [kind])]
    exact serve_then (st := .ok) (d := 0) (pay := x.discarded.patchRsp) h (patchDiscard_ok target) nofun
  · intro r x s h live there
    refine serve_pending (after := fun t => t.boundaryIfStopped r.via.mbx) h ?_
    simp only [graphRetire, consume_graph, there]
    rw [if_neg (by simp [live])]
  · intro r s h none_
    refine serve_okay h ?_
    simp only [graphRetire, consume_graph, none_]
  · intro r x busy faulted s there live unarmed sound
    exact State.patchTarget_of there live unarmed sound
end

section
/-! SUPPORT. The turn of a thread (10). -/
namespace Sys2Proof.Machine
open Sys2Proof

theorem State.isRemote_congr {s t : State} (h : t.dev = s.dev) (a : Nat) : t.isRemote a = s.isRemote a := by
  unfold State.isRemote
  rw [h]

theorem State.took_isRemote (s : State) (g t next a : Nat) : (s.took g t next).isRemote a = s.isRemote a :=
  State.isRemote_congr (State.updThread_dev ..) a

/-- The thread whose turn it is takes it and acts. -/
theorem Runs.thread_eq {t next : Nat} {x : Thread} {r : Request} {c : Context} {s : State} (h : Runs t x r c s)
    (f : Thread → Request → Context → State → State) : s.thread t next f = .next (f x r c (s.took x.glen t next)) := by
  obtain ⟨thread, request, context, turn, code⟩ := h
  have same (core : TMap Nat) : (s.setCore { s.core with opTurn := core }).codeLost r x.pc = none := code
  unfold State.thread
  rw [thread]
  dsimp only
  rw [request]
  dsimp only
  rw [context]
  dsimp only
  rw [if_neg (by simp [turn]), same]
  rfl

theorem execThreadLoadScratch_runs {t off size dst next : Nat} {errs : List GlenErr} {x : Thread} {r : Request} {c : Context}
    {s : State} (h : Runs t x r c s) : execThreadLoadScratch t (off, errs) size dst next s = .next (
      let u := s.took x.glen t next
      if !accessOk off size || !c.inScratchRange off size then u.fail x.req 0x11 0
      else
        let w := u.glenErrs x.glen r errs
        if w.scratchPoisoned x.glen off size then w.fail x.req 0x17 0
        else w.updThread t fun y => { y with regs := loadRegs y.regs dst (w.scratchRead x.glen off size) }) := by
  unfold execThreadLoadScratch
  exact h.thread_eq _

theorem execThreadStoreScratch_runs {t off size src next : Nat} {x : Thread} {r : Request} {c : Context} {s : State}
    (h : Runs t x r c s) : execThreadStoreScratch t off size src next s = .next (
      let u := s.took x.glen t next
      if !accessOk off size || !c.inScratchRange off size then u.fail x.req 0x11 0
      else u.scratchWrite x.glen off (x.regBytes src size)) := by
  unfold execThreadStoreScratch
  exact h.thread_eq _

theorem execThreadLoadGlobal_runs {t a size dst next : Nat} {x : Thread} {r : Request} {c : Context} {s : State}
    (h : Runs t x r c s) : execThreadLoadGlobal t a size dst next s = .next (
      let u := s.took x.glen t next
      if !accessOk a size then u.fail x.req 0x11 0
      else match u.barred r a size false with
        | some e => u.bar x.req r a e
        | none =>
          let w := u.updThread t fun y => { y with wait := .load a size dst }
          if w.isRemote a then w.readRemote (.load t) x.req x.glen r.valley a size else w) := by
  unfold execThreadLoadGlobal
  exact h.thread_eq _

theorem execThreadArithmetic_runs {t d v next : Nat} {x : Thread} {r : Request} {c : Context} {s : State}
    (e : Option ThreadErr) (h : Runs t x r c s) : execThreadArithmetic t d (v, e) next s = .next (
      let u := s.took x.glen t next
      match e with
      | none => u.updThread t fun y => { y with regs := setReg y.regs d v }
      | some .code => u.fail x.req 0x16 0
      | some .state => (u.glenFault x.glen r 2 0xFFFF 1).fail x.req 0x17 0) := by
  unfold execThreadArithmetic
  exact h.thread_eq _

end Sys2Proof.Machine
end

section
/-! PROOFS. The statement about the loads, stores and arithmetic of a thread (10). -/
open Sys2Proof Sys2Proof.Machine

/-- Settles O30: a thread whose turn it is takes it, whatever its operation, and then acts. -/
theorem threadAccess : Obligations.ThreadAccess := by
  unfold Obligations.ThreadAccess
  refine ⟨?_, ?_, ?_, ?_⟩
  · intro t off size dst next errs x r c s h
    dsimp only
    have load : exec (.threadLoadScratch t (off, errs) size dst next) s = _ := execThreadLoadScratch_runs h
    have store : exec (.threadStoreScratch t off size dst next) s = _ := execThreadStoreScratch_runs h
    rw [load, store]
    dsimp only
    refine ⟨fun ok inside clean => ?_, fun ok inside poisoned => ?_, fun ok inside => ?_, fun bad => ?_⟩
    · rw [if_neg (by simp [ok, inside]), if_neg (by simp [clean])]
    · rw [if_neg (by simp [ok, inside]), if_pos poisoned]
    · rw [if_neg (by simp [ok, inside])]
    · rw [← Bool.not_and, bad]
      exact ⟨rfl, rfl⟩
  · intro t a size dst next x r c s h
    dsimp only
    have load : exec (.threadLoadGlobal t a size dst next) s = _ := execThreadLoadGlobal_runs h
    rw [load]
    dsimp only
    refine ⟨fun ok free => ?_, fun e ok barred => ?_, fun bad => ?_, fun goes => ?_⟩
    · rw [if_neg (by simp [ok]), free]
      dsimp only
      rw [State.isRemote_congr (State.updThread_dev ..)]
    · rw [if_neg (by simp [ok]), barred]
    · rw [if_pos (by simp [bad])]
    · have open_ : ¬ (!s.isRemote a && s.hostWaits (localOf a)) = true := by
        rcases goes with h | h <;> simp [h]
      have store : exec (.threadStoreGlobal t a size dst next) s = _ := (if_neg open_).trans (h.thread_eq _)
      have place : ((s.took x.glen t next).updReq x.req fun r => { r with wrote := true }).isRemote a = s.isRemote a :=
        (State.isRemote_congr (State.updReq_dev ..) a).trans (State.took_isRemote ..)
      rw [store]
      dsimp only
      refine ⟨fun ok free home => ?_, fun ok free away => ?_, fun e ok barred => ?_, fun bad => ?_⟩
      · rw [if_neg (by simp [ok]), free]
        dsimp only
        rw [place, if_neg (by simp [home])]
      · rw [if_neg (by simp [ok]), free]
        dsimp only
        rw [place, if_pos away]
      · rw [if_neg (by simp [ok]), barred]
      · rw [if_pos (by simp [bad])]
  · intro t a n d ecc x r s there waits request home idle
    dsimp only
    have run : exec (.globalLoadDataReturn (t, ecc)) s = .next (
        if !(s.hostHolds (localOf a) n false).isEmpty then s.recall (localOf a) n false
        else match (s.eccAll ecc).barred r a n false with
          | some e => (s.eccAll ecc).bar x.req r a e
          | none => ((s.eccAll ecc).fetch r.valley (localOf a) n).updThread t fun y => { y with
              wait := .run, regs := loadRegs y.regs d (((s.eccAll ecc).fetch r.valley (localOf a) n).bytes (localOf a) n) }) := by
      change execGlobalLoadDataReturn (t, ecc) s = _
      unfold execGlobalLoadDataReturn
      dsimp only
      rw [there]
      dsimp only
      rw [waits, request]
      exact congrArg Host.Outcome.next (if_neg (by simp [home, idle]))
    rw [run]
    refine ⟨fun free clear => ?_, fun b free barred => ?_, fun held => ?_⟩
    · rw [if_neg (by simp [free]), clear]
    · rw [if_neg (by simp [free]), barred]
    · rw [if_pos (by simpa using held)]
  · intro t d v next x r c s h
    exact ⟨execThreadArithmetic_runs (d := d) (v := v) none h, execThreadArithmetic_runs (d := d) (v := v) (some .code) h,
      execThreadArithmetic_runs (d := d) (v := v) (some .state) h⟩
end

section
/-! SUPPORT. The sync operations of a thread (10). -/
namespace Sys2Proof.Machine
open Sys2Proof

section
variable {t next g : Nat} {ref : W64} {x : Thread} {r : Request} {c : Context} {s : State}

/-- A sync operation on an object of the thread's valley. -/
theorem Runs.syncOp_of (h : Runs t x r c s) (sound : refBad ref.toNat = false) (near : bit ref.toNat 32 = false)
    (there : (s.took x.glen t next).syncIndex r.valley r.stamp.bnd (ref.toNat % 2 ^ 14) = some g)
    (f : Nat → Thread → Request → State → State) :
    s.syncOp t next ref f = .next (f g x r (s.took x.glen t next)) := by
  unfold State.syncOp
  rw [h.thread_eq]
  dsimp only
  rw [if_neg (by simp [sound, near]), there]

/-- A sync operation on what is no object of the thread's valley. -/
theorem Runs.syncOp_bad (h : Runs t x r c s) (bad : refBad ref.toNat ∨ bit ref.toNat 32 ∨
    (s.took x.glen t next).syncIndex r.valley r.stamp.bnd (ref.toNat % 2 ^ 14) = none)
    (f : Nat → Thread → Request → State → State) :
    s.syncOp t next ref f = .next ((s.took x.glen t next).fail x.req 0x16 0) := by
  unfold State.syncOp
  rw [h.thread_eq]
  dsimp only
  by_cases wrong : (refBad ref.toNat || bit ref.toNat 32) = true
  · rw [if_pos wrong]
  · have clear : refBad ref.toNat = false ∧ bit ref.toNat 32 = false := by simpa using wrong
    rw [if_neg wrong]
    rcases bad with bad | bad | none_
    · simp [clear.1] at bad
    · simp [clear.2] at bad
    · rw [none_]

end

section
variable (s : State) (t : Nat) (x : Thread) (g : Nat)

/-- A release of an object acts where no write of the context waits for the host. -/
theorem State.tryRelease_add (n : W64) (free : s.writesPend x.req = false) : s.tryRelease t x false g n.toNat =
    ((s.updThread t fun y => { y with wait := .run }).syncAdd g n).1.setStatus t
      (if ((s.updThread t fun y => { y with wait := .run }).obj g).poisoned then 2 else 0) := by
  unfold State.tryRelease
  rw [if_neg (by simp [free])]
  dsimp only
  rw [if_neg nofun, BitVec.ofNat_toNat, BitVec.setWidth_eq]
  generalize State.updThread _ _ _ = u
  cases poisoned : (u.obj g).poisoned with
  | true =>
    rw [State.syncAdd_poisoned _ poisoned]
    rfl
  | false =>
    rw [State.syncAdd_clean _ poisoned]
    rfl

theorem State.tryRelease_set (v : W64) (free : s.writesPend x.req = false) : s.tryRelease t x true g v.toNat =
    ((s.updThread t fun y => { y with wait := .run }).syncSet g v).setStatus t 0 := by
  unfold State.tryRelease
  rw [if_neg (by simp [free])]
  dsimp only
  rw [if_pos rfl, BitVec.ofNat_toNat, BitVec.setWidth_eq]

theorem State.tryRelease_waits (set : Bool) (n : Nat) (held : s.writesPend x.req) :
    s.tryRelease t x set g n = s.updThread t fun y => { y with wait := .release set g n } :=
  if_pos held

theorem State.waitOn_clean {us : Nat} (w : Nat → Wait) (soon : us ≤ 1000000) (clean : (s.obj g).poisoned = false) :
    s.waitOn t g us x w = (s.updThread t fun y => { y with wait := w (if us = 0 then 10000 else us) }).beginWait t := by
  unfold State.waitOn
  rw [if_neg (by omega), if_neg (by simp [clean])]

theorem State.waitOn_poisoned {us : Nat} (w : Nat → Wait) (soon : us ≤ 1000000) (poisoned : (s.obj g).poisoned) :
    s.waitOn t g us x w = (s.setStatus t 2).fail x.req 0x17 0 := by
  unfold State.waitOn
  rw [if_neg (by omega), if_pos poisoned]

theorem State.waitOn_late {us : Nat} (w : Nat → Wait) (late : 1000000 < us) :
    s.waitOn t g us x w = s.fail x.req 0x16 0 := by
  unfold State.waitOn
  rw [if_pos late]

end

end Sys2Proof.Machine
end

section
/-! PROOFS. The statement about the sync operations of a thread (10). -/
open Sys2Proof Sys2Proof.Machine

/-- Settles O31: each operation is what `syncOp` finds its object to be, and then its own rule. -/
theorem threadSync : Obligations.ThreadSync := by
  unfold Obligations.ThreadSync
  refine ⟨?_, ?_, ?_, ?_, ?_, ?_, ?_⟩
  · intro t next g ref x r c s h sound near u there run
    have op (f : Nat → Thread → Request → State → State) := h.syncOp_of sound near there f
    refine ⟨fun dst => ?_, fun dst => ?_, fun n free => ?_, fun v free => ?_, fun n held => ⟨?_, ?_⟩, fun n us dst soon clean => ?_,
      fun n us dst soon poisoned => ?_, fun n us dst late => ?_, fun n us dst some_ few soon clean => ?_,
      fun n us dst some_ few soon poisoned => ?_, fun n us dst wrong => ?_⟩
    · change execSyncRead t (ref, false) dst next s = _
      unfold execSyncRead
      dsimp only
      rw [op, if_neg (show ¬ false = true from nofun)]
    · change execSyncRead t (ref, true) dst next s = _
      unfold execSyncRead
      dsimp only
      rw [op, if_pos (show true = true from rfl)]
    · change execSyncAdd t ref n next s = _
      unfold execSyncAdd
      rw [if_neg (by simp [near]), op, State.tryRelease_add u t x g n free]
    · change execSyncSet t ref v next s = _
      unfold execSyncSet
      rw [op, State.tryRelease_set u t x g v free]
    · change execSyncAdd t ref n next s = _
      unfold execSyncAdd
      rw [if_neg (by simp [near]), op, State.tryRelease_waits u t x g _ _ held]
    · change execSyncSet t ref n next s = _
      unfold execSyncSet
      rw [op, State.tryRelease_waits u t x g _ _ held]
    · change execSyncWaitGe t ref n us dst next s = _
      unfold execSyncWaitGe
      rw [op, State.waitOn_clean u t x g _ soon clean]
    · change execSyncWaitGe t ref n us dst next s = _
      unfold execSyncWaitGe
      rw [op, State.waitOn_poisoned u t x g _ soon poisoned]
    · change execSyncWaitGe t ref n us dst next s = _
      unfold execSyncWaitGe
      rw [op, State.waitOn_late u t x g _ late]
    · change execSyncAcquire t ref n us dst next s = _
      unfold execSyncAcquire
      rw [op, if_neg (by simp [some_]; omega), State.waitOn_clean u t x g _ soon clean]
    · change execSyncAcquire t ref n us dst next s = _
      unfold execSyncAcquire
      rw [op, if_neg (by simp [some_]; omega), State.waitOn_poisoned u t x g _ soon poisoned]
    · change execSyncAcquire t ref n us dst next s = _
      unfold execSyncAcquire
      rw [op]
      by_cases range : n = 0 ∨ 2 ^ 32 < n
      · rw [if_pos (by simpa using range)]
      · rw [if_neg (by simpa using range), State.waitOn_late u t x g _ (by grind)]
  · intro t next dst n us bad ref v x r c s h u wrong
    have op (f : Nat → Thread → Request → State → State) := h.syncOp_bad wrong f
    refine ⟨?_, ?_, ?_, ?_, fun near => ?_⟩
    · change execSyncRead t (ref, bad) dst next s = _
      unfold execSyncRead
      dsimp only
      rw [op]
    · change execSyncSet t ref v next s = _
      unfold execSyncSet
      rw [op]
    · change execSyncWaitGe t ref v us dst next s = _
      unfold execSyncWaitGe
      rw [op]
    · change execSyncAcquire t ref n us dst next s = _
      unfold execSyncAcquire
      rw [op]
    · change execSyncAdd t ref v next s = _
      unfold execSyncAdd
      rw [if_neg (by simp [near]), op]
  · intro t next ref n x r c s h far node u
    have id : u.dev.nodeId = s.dev.nodeId := congrArg Dev.nodeId (State.updThread_dev ..)
    have run : exec (.syncAdd t ref n next) s = .next (if refBad ref.toNat || node = s.dev.nodeId then u.fail x.req 0x16 0
        else u.trySignal t x r node (ref.toNat / 2 ^ 16 % 8) (ref.toNat % 2 ^ 14) n.toNat) := by
      change execSyncAdd t ref n next s = _
      unfold execSyncAdd
      rw [if_pos far, h.thread_eq, ← id]
    rw [run]
    refine ⟨fun wrong => ?_, fun sound away waits => ?_, fun sound away acked few => ?_⟩
    · rw [if_pos (by simpa using wrong)]
    · rw [if_neg (by simp [sound, away])]
      exact congrArg Host.Outcome.next (if_pos (by simpa using waits))
    · rw [if_neg (by simp [sound, away])]
      exact congrArg Host.Outcome.next (if_neg (by simp [acked]; omega))
  · intro t g n since us d b x s there live u
    have run : exec (.syncWaitTimeout (t, false)) s = .next (s.timeoutThread t x) := by
      change execSyncWaitTimeout (t, false) s = _
      unfold execSyncWaitTimeout
      dsimp only
      rw [there]
      dsimp only
      rw [if_neg (by simp [live]), if_neg nofun]
    rw [run]
    unfold State.timeoutThread
    refine ⟨fun waits => ?_, fun waits => ?_⟩
    · rw [waits]
    · rw [waits]
  · intro k x s none_ there waits live
    change execSyncWaitTimeout (k, false) s = _
    unfold execSyncWaitTimeout
    dsimp only
    rw [none_, there]
    dsimp only
    rw [if_neg (by simp [waits, live]), if_neg nofun]
    rfl
  · intro t x r s there holds request
    have live : ¬ x.saved = true := by
      unfold Thread.holdsEntry at holds
      simp only [Bool.and_eq_true, Bool.not_eq_true'] at holds
      simp [holds.1]
    change execSyncWaitTimeout (t, true) s = _
    unfold execSyncWaitTimeout
    dsimp only
    rw [there]
    dsimp only
    rw [if_neg live, if_pos rfl, if_pos holds]
    unfold State.entryLost
    rw [request]
  · intro k x r s none_ there waits live request
    change execSyncWaitTimeout (k, true) s = _
    unfold execSyncWaitTimeout
    dsimp only
    rw [none_, there]
    dsimp only
    rw [if_neg (by simp [waits, live]), if_pos rfl]
    unfold State.entryLost
    rw [request]
end

section
/-! SUPPORT. What issuing, tasks and lost code come to (10). -/
namespace Sys2Proof.Machine
open Sys2Proof

/-- A thread whose turn it is and whose code is lost ends its request with the code's code. -/
theorem State.thread_lost {t next a code : Nat} {x : Thread} {r : Request} {c : Context} {s : State}
    (there : look s.core.threads t = some x) (request : look s.core.reqs x.req = some r) (context : s.ctxOf r = some c)
    (turn : s.nextTurn x.glen = some t) (lost : s.codeLost r x.pc = some (a, code))
    (f : Thread → Request → Context → State → State) : s.thread t next f = .next
      (((s.setCore { s.core with opTurn := put s.core.opTurn x.glen t }).recordBarred r a code).fail x.req code 0) := by
  have same : (s.setCore { s.core with opTurn := put s.core.opTurn x.glen t }).codeLost r x.pc = some (a, code) := lost
  unfold State.thread
  rw [there]
  dsimp only
  rw [request]
  dsimp only
  rw [context]
  dsimp only
  rw [if_neg (by simp [turn]), same]

/-- The tasks that count towards a task's queue. -/
def State.tasksBeside (s : State) (r : Request) (queue : Option Nat) : List (Nat × Task) :=
  s.core.tasks.filter fun k => match queue with
    | some g => k.2.queue = some g
    | none => k.2.queue = none && ((look s.core.reqs k.2.req).map fun q => q.valley == r.valley).getD false

/-- The object that a task depends on. -/
def State.dependence (s : State) (r : Request) (w : Bytes) : Option SyncObj :=
  (s.syncIndex r.valley r.stamp.bnd (u32 w 8)).map s.obj

/-- The queue that a task's record names. -/
def taskQueue (w : Bytes) : Option Nat := if u8 w 4 = 0xFF then none else some (u8 w 4)

/-- What an enqueue does with a task, by what it finds of its record, its queue and its object. -/
def State.enqueueWith (u : State) (t : Nat) (x : Thread) (r : Request) (w : Bytes) (queue : Option Nat)
    (met lost full : Bool) : State :=
  if u.taskBad r.valley r.stamp.bnd w then u.fail x.req 0x16 0
  else if full then u.setStatus t 3
  else if bit (u8 w 5) 0 && lost then (u.setStatus t 2).fail x.req 0x17 0
  else if bit (u8 w 5) 0 && !met && decide (4096 ≤ u.entries (queue.getD x.glen)) then u.setStatus t 3
  else ((u.fresh.2.setCore { u.fresh.2.core with tasks := put u.fresh.2.core.tasks u.fresh.1 {
    req := x.req, queue, glen := queue.getD x.glen, record := w, ready := !bit (u8 w 5) 0 || met
    since := u.fresh.2.now } }).setStatus t 0).fill r.valley

theorem execThreadEnqueue_runs {t next : Nat} {d : Bytes} {x : Thread} {r : Request} {c : Context} {s : State}
    (h : Runs t x r c s) : execThreadEnqueue t d next s = .next (
      let u := s.took x.glen t next
      let w := fit 64 d
      u.enqueueWith t x r w (taskQueue w)
        (((u.dependence r w).map fun o => decide (u64 w 16 ≤ o.value.toNat)).getD true)
        (((u.dependence r w).map (·.poisoned)).getD false)
        (decide ((if (taskQueue w).isSome then 512 else 4096) ≤ (u.tasksBeside r (taskQueue w)).length))) := by
  unfold execThreadEnqueue
  rw [h.thread_eq]
  unfold State.enqueueWith
  simp only [decide_eq_true_eq]
  rfl

end Sys2Proof.Machine
end

section
/-! PROOFS. The statement about issuing, tasks, fences and the end of a thread (10). -/
open Sys2Proof Sys2Proof.Machine

/-- Settles O32: a task is taken, refused or full by what its record, its queue and its object say, in that order. -/
theorem threadFlow : Obligations.ThreadFlow := by
  unfold Obligations.ThreadFlow
  refine ⟨?_, ?_, ?_, ?_, ?_, ?_, ?_, ?_⟩
  · intro t next d x r c s h
    change execThreadIssue t d next s = _
    unfold execThreadIssue
    rw [h.thread_eq] <;> rfl
  · intro d x r s f
    refine ⟨fun kind space => ?_, fun kind full => ?_, fun k kind picked space => ?_, fun k kind picked full => ?_,
      fun kind none_ => ?_, fun other plain load => ?_⟩
    all_goals unfold State.issue; dsimp only
    · rw [if_neg (by omega), if_pos (by simpa using kind), if_neg (by omega)]
    · rw [if_neg (by omega), if_pos (by simpa using kind), if_pos full]
    · rw [if_pos kind, picked]
      dsimp only
      rw [if_neg (by omega)]
    · rw [if_pos kind, picked]
      exact if_pos full
    · rw [if_pos kind, none_]
    · rw [if_neg other, if_neg (by simp [plain, load])]
  · intro t d x r v s there waits request live home issued
    change execIssueQueueSpace t s = _
    unfold execIssueQueueSpace
    rw [there]
    dsimp only
    rw [waits, request]
    dsimp only
    rw [if_neg (by simp [live, home]), issued]
  · intro t next d x r c s h u w queue o met lost full f
    have run : exec (.threadEnqueue t d next) s = .next (u.enqueueWith t x r w queue met lost full) :=
      execThreadEnqueue_runs h
    rw [run]
    unfold State.enqueueWith
    refine ⟨fun bad => ?_, fun good busy => ?_, fun good space dep gone => ?_, fun good space dep kept early entries => ?_,
      fun good space rest => ?_⟩
    · rw [if_pos bad]
    · rw [if_neg (by simp [good]), if_pos busy]
    all_goals rw [if_neg (by simp [good]), if_neg (by simp [space])]
    · rw [if_pos (by simp [dep, gone])]
    · rw [if_neg (by simp [kept]), if_pos (by simp [dep, early, entries])]
    · rw [if_neg, if_neg]
      · intro bad
        simp only [Bool.and_eq_true, Bool.not_eq_true', decide_eq_true_eq] at bad
        obtain ⟨⟨dep, early⟩, entries⟩ := bad
        rcases (rest dep).2 with now | few
        · simp [now] at early
        · omega
      · intro bad
        obtain ⟨dep, gone⟩ := Bool.and_eq_true_iff.mp bad
        simp [(rest dep).1] at gone
  · intro t next x r c s h u
    constructor
    · change execFenceLocal t next s = _
      unfold execFenceLocal
      rw [h.thread_eq]
    · change execFenceGlobal t next s = _
      unfold execFenceGlobal
      rw [h.thread_eq]
  · intro t all x s there waits
    have run : exec (.fenceComplete t) s = .next (
        if s.writesPend x.req || (all && s.unacked t none) then s else s.updThread t fun y => { y with wait := .run }) := by
      change execFenceComplete t s = _
      unfold execFenceComplete
      rw [there]
      dsimp only
      rw [waits]
    rw [run]
    refine ⟨fun free acked => ?_, fun held => ?_⟩
    · rw [if_neg]
      cases all with
      | false => simp [free]
      | true => simp [free, acked rfl]
    · rw [if_pos (by simpa using held)]
  · intro t x r c s h u
    change execThreadExit t s = _
    unfold execThreadExit
    rw [h.thread_eq]
  · intro t a code x r c s i there request context turn lost which
    have ends (next : Nat) (f : Thread → Request → Context → State → State) :=
      State.thread_lost (next := next) there request context turn lost f
    rcases which with rfl | ⟨n, rfl | rfl⟩ | ⟨d, n, rfl | rfl⟩ | ⟨d, v, n, rfl⟩
    · change execThreadExit t s = _
      unfold execThreadExit
      exact ends _ _
    · change execFenceLocal t n s = _
      unfold execFenceLocal
      exact ends _ _
    · change execFenceGlobal t n s = _
      unfold execFenceGlobal
      exact ends _ _
    · change execThreadIssue t d n s = _
      unfold execThreadIssue
      exact ends _ _
    · change execThreadEnqueue t d n s = _
      unfold execThreadEnqueue
      exact ends _ _
    · change execThreadArithmetic t d v n s = _
      unfold execThreadArithmetic
      exact ends _ _
end

section
/-! SUPPORT. Work with what follows it, and the sets and tables that a request names (05, 06). -/
namespace Sys2Proof.Machine
open Sys2Proof

/-- Work that ends with ST_OK and has something follow its answer, answered at once or first with ST_PENDING (log 30). -/
theorem serve_workThen {m : Msg} {r : Req} {s t : State} {pay : Bytes} {after : State → State} (h : Accepted m r s)
    (e : m.run r (s.consume r.via) = ({ s := t, pay, after } : Res).work r) :
    serve m r.via s = .next (after ((t.drawNat 42).2.respond s r .ok 0 pay)) ∨
    serve m r.via s = .next ((after (((t.drawNat 42).2.deferring r).respond s r .pending)).done r.deferred .ok 0 pay) := by
  by_cases odd : (t.drawNat 42).1 % 2 = 1
  · refine .inr (serve_pending (after := fun t => (after t).done r.deferred .ok 0 pay) h (e.trans ?_))
    exact if_pos odd
  · refine .inl (serve_then (after := after) (st := .ok) (d := 0) (pay := pay) h (e.trans ?_) nofun)
    exact if_neg odd

theorem consume_ownSet (s : State) (via : Via) (v i : Nat) : (s.consume via).ownSet v i = s.ownSet v i := by
  obtain ⟨a, b, c, d, e⟩ := State.consume_frame s via
  rw [e]
  rfl

/-- Every entry of a load is right: none is found that is not. -/
theorem findIdx_none {es : List Nat} {ok : Nat → Bool} (right : ∀ e ∈ es, ok e) : es.findIdx? (fun e => !ok e) = none := by
  rw [List.findIdx?_eq_none_iff]
  intro e there
  simp [right e there]

end Sys2Proof.Machine
end

section
/-! PROOFS. The statement about table sets and tables (05, 06). -/
open Sys2Proof Sys2Proof.Machine

/-- Settles O33: the request leaves the set and the table that it names as they were. -/
theorem tableMessages : Obligations.TableMessages := by
  unfold Obligations.TableMessages
  refine ⟨?_, ?_, ?_, ?_, ?_, ?_, ?_, ?_⟩
  · intro r s h free few
    refine serve_okay h ?_
    simp only [tblSetCreate, State.consume_core, free]
    rw [if_neg (by simp), if_neg (by omega)]
  · intro r x s h there live
    refine serve_pending (after := fun t => t.boundaryIfStopped r.via.mbx) h ?_
    simp only [tblSetDestroy, State.consume_core, there]
    rw [if_neg (by simp [live])]
  · intro r s h none_
    refine serve_okay h ?_
    simp only [tblSetDestroy, State.consume_core, none_]
  · intro r x p t s h own profile live free made offered few adopts
    dsimp only
    subst made
    refine serve_workThen (after := fun t => t.boundaryIfStopped r.via.mbx) h ?_
    simp only [tblCreate, consume_ownSet, own, State.consume_profile, profile, State.consume_core, free]
    rw [if_neg (by simp [live]), if_neg (by simp [offered]), if_neg (by omega)]
    by_cases adopted : bit (u8 r.pay 1) 0 = true
    · rw [if_pos adopted, if_pos adopted, adopts adopted]
    · rw [if_neg adopted, if_neg adopted]
  · intro r x t s h own live there kept
    refine serve_pending (after := fun t => t.boundaryIfStopped r.via.mbx) h ?_
    simp only [tblDestroy, consume_ownSet, own, State.consume_core, there]
    rw [if_neg (by simp [live, kept])]
  · intro r s h none_
    refine serve_okay h ?_
    simp only [tblDestroy, consume_ownSet, State.consume_core]
    rcases none_ with e | e
    · rw [e]
    · rw [e]
      cases s.ownSet r.via.mbx (u8 r.pay 0) <;> rfl
  · intro r x s h own
    refine ⟨fun t one there => serve_okay h ?_, fun all => serve_okay h ?_⟩
    · simp only [tblQuery, consume_ownSet, own, State.consume_core, there]
      rw [if_neg one]
    · simp only [tblQuery, consume_ownSet, own, State.consume_core]
      rw [if_pos all]
  · intro r x t s h own there live kept
    dsimp only
    intro populated inside clean right few
    generalize es : List.map (fun i => u64 (if u8 r.pay 1 = 1 then (s.consume r.via).bytes (u64 r.pay 16) (8 * u32 r.pay 4)
      else r.pay.drop 24) (8 * i)) (List.range (u32 r.pay 4)) = entries at *
    have run : tblRowmapLoad.run r (s.consume r.via) =
        (let y : Res := { s := (s.consume r.via).loadEntries (u8 r.pay 0) (u16 r.pay 2) (u64 r.pay 8) entries
                          after := fun t => t.endIfDone (u8 r.pay 0) }
        if u8 r.pay 1 = 1 then y.work r else y) := by
      simp only [tblRowmapLoad, consume_ownSet, own, State.consume_core, there]
      rw [if_neg (by simp [live, kept]), if_neg (by simp [populated]), if_neg (by omega), if_neg (by simpa using clean), es,
        findIdx_none right]
      exact if_neg (by omega)
    constructor
    · intro inline_
      rw [if_neg inline_] at run
      exact serve_then (after := fun t => t.endIfDone (u8 r.pay 0)) h run nofun
    · intro buffer
      rw [if_pos buffer] at run
      exact serve_workThen (after := fun t => t.endIfDone (u8 r.pay 0)) h run
end

section
/-! SUPPORT. What starting and waking threads leaves of the device (10). -/
namespace Sys2Proof.Machine
open Sys2Proof

/-- `t` is `s` but for the threads, tasks and requests, the sync objects, what is asked of other nodes, and the gated glens. -/
def ThreadsOnly (s t : State) : Prop := t = { s with
  pwr := { s.pwr with gatedGlens := t.pwr.gatedGlens }
  core := { s.core with
    nextId := t.core.nextId, threads := t.core.threads, tasks := t.core.tasks, reqs := t.core.reqs, sync := t.core.sync
    remote := t.core.remote, outbox := t.core.outbox } }

theorem ThreadsOnly.refl (s : State) : ThreadsOnly s s := rfl

theorem ThreadsOnly.trans {a b c : State} (h : ThreadsOnly a b) (g : ThreadsOnly b c) : ThreadsOnly a c := by
  unfold ThreadsOnly at *
  rw [g, h]

theorem ThreadsOnly.of_core {s t : State} (h : ThreadsOnly s t) {c : Core}
    (same : c = { t.core with
      nextId := c.nextId, threads := c.threads, tasks := c.tasks, reqs := c.reqs, sync := c.sync, remote := c.remote
      outbox := c.outbox }) : ThreadsOnly s (t.setCore c) := by
  refine h.trans ?_
  unfold ThreadsOnly State.setCore
  rw [same]

theorem ThreadsOnly.bags {s t : State} (h : ThreadsOnly s t) : t.core.bags = s.core.bags := by
  rw [h]

section
variable (s : State)

theorem State.updThread_threadsOnly (i : Nat) (f : Thread → Thread) : ThreadsOnly s (s.updThread i f) := by
  unfold State.updThread
  split
  · exact .of_core (.refl s) rfl
  · exact .refl s

theorem State.updReq_threadsOnly (i : Nat) (f : Request → Request) : ThreadsOnly s (s.updReq i f) := by
  unfold State.updReq
  split
  · exact .of_core (.refl s) rfl
  · exact .refl s

theorem State.setObj_threadsOnly (g : Nat) (o : SyncObj) : ThreadsOnly s (s.setObj g o) := .of_core (.refl s) rfl

theorem State.leaveLines_threadsOnly (gone : Nat → Bool) : ThreadsOnly s (s.leaveLines gone) := .of_core (.refl s) rfl

theorem State.wake_threadsOnly (t st : Nat) (v : Option W64) : ThreadsOnly s (s.wake t st v) :=
  State.updThread_threadsOnly s t _

theorem State.askRemote_threadsOnly (m : Remote) (v : Nat) (msg : Nat → Bytes) : ThreadsOnly s (s.askRemote m v msg) := rfl

theorem State.ungate_threadsOnly (g : Nat) : ThreadsOnly s (s.ungate g) := rfl

theorem State.addThread_threadsOnly (t : Thread) : ThreadsOnly s (s.addThread t) := rfl

end

theorem State.serveLine_threadsOnly (g k : Nat) (s : State) : ThreadsOnly s (State.serveLine g k s) := by
  induction k generalizing s with
  | zero => exact .refl s
  | succ k ih =>
    unfold State.serveLine
    dsimp only
    split
    · exact .refl s
    · split
      · refine ite_holds (P := ThreadsOnly s) ?_ (.refl s)
        exact ((s.setObj_threadsOnly g _).trans (State.wake_threadsOnly _ _ 0 _)).trans (ih _)
      · exact (s.setObj_threadsOnly g _).trans (ih _)

section
variable (s : State)

theorem State.serveAll_threadsOnly : ThreadsOnly s s.serveAll :=
  foldl_holds (P := ThreadsOnly s) _ _ (.refl s) fun t o h => h.trans (State.serveLine_threadsOnly o.1 _ t)

theorem State.beginWait_threadsOnly (t : Nat) : ThreadsOnly s (s.beginWait t) := by
  unfold State.beginWait
  split
  · exact .refl s
  · next x =>
    refine ite_holds (P := ThreadsOnly s) (.refl s) ?_
    split
    · refine ite_holds (P := ThreadsOnly s) (.refl s) (ite_holds (P := ThreadsOnly s) (s.wake_threadsOnly ..) ?_)
      exact ite_holds (P := ThreadsOnly s) (s.updThread_threadsOnly ..) (.refl s)
    · refine ite_holds (P := ThreadsOnly s) (.refl s) (ite_holds (P := ThreadsOnly s) ?_ ?_)
      · exact (s.setObj_threadsOnly ..).trans (State.wake_threadsOnly ..)
      · exact ite_holds (P := ThreadsOnly s) ((s.setObj_threadsOnly ..).trans (State.updThread_threadsOnly ..)) (.refl s)
    · exact .refl s

theorem State.grantEntries_threadsOnly : ThreadsOnly s s.grantEntries :=
  foldl_holds (P := ThreadsOnly s) _ _ (.refl s) fun t _ h => h.trans (t.beginWait_threadsOnly _)

theorem State.trySignal_threadsOnly (t : Nat) (x : Thread) (r : Request) (node v i n : Nat) :
    ThreadsOnly s (s.trySignal t x r node v i n) := by
  unfold State.trySignal
  exact ite_holds (P := ThreadsOnly s) (s.updThread_threadsOnly ..)
    ((s.updThread_threadsOnly ..).trans (State.askRemote_threadsOnly ..))

theorem State.retrySignals_threadsOnly : ThreadsOnly s s.retrySignals := by
  refine foldl_holds (P := ThreadsOnly s) _ _ (.refl s) fun t e h => ?_
  split
  · exact ite_holds (P := ThreadsOnly s) h (h.trans (t.trySignal_threadsOnly ..))
  · exact h

theorem State.startTask_threadsOnly (i : Nat) (t : Task) (g : Nat) : ThreadsOnly s (s.startTask i t g) := rfl

theorem State.startLaunch_threadsOnly (i : Nat) (r : Request) (g : Nat) : ThreadsOnly s (s.startLaunch i r g) :=
  (s.addThread_threadsOnly _).trans (State.updReq_threadsOnly ..)

theorem State.startOne_threadsOnly {t : State} {v : Nat} (h : s.startOne v = some t) : ThreadsOnly s t := by
  unfold State.startOne at h
  dsimp only at h
  split at h
  · cases h
    exact s.startTask_threadsOnly ..
  · split at h
    · obtain ⟨g, -, rfl⟩ := Option.map_eq_some_iff.mp h
      exact s.startTask_threadsOnly ..
    · split at h
      · obtain ⟨g, -, rfl⟩ := Option.map_eq_some_iff.mp h
        exact s.startLaunch_threadsOnly ..
      · cases h

end

theorem startMany_threadsOnly (v k : Nat) (s : State) : ThreadsOnly s (startMany v k s) := by
  induction k generalizing s with
  | zero => exact .refl s
  | succ k ih =>
    unfold startMany
    split
    · next t started => exact (s.startOne_threadsOnly started).trans (ih t)
    · exact .refl s

section
variable (s : State)

theorem State.fill_threadsOnly (v : Nat) : ThreadsOnly s (s.fill v) := startMany_threadsOnly ..

/-- What goes on when something of a request ends touches threads, requests and sync objects alone. -/
theorem State.resume_threadsOnly : ThreadsOnly s s.resume :=
  foldl_holds (P := ThreadsOnly s) _ _ ((s.grantEntries_threadsOnly).trans (State.retrySignals_threadsOnly _))
    fun t v h => h.trans (t.fill_threadsOnly v)

end

theorem look_filter_of {α : Type} {m : TMap α} {k : Nat} {v : α} {p : Nat × α → Bool} (there : look m k = some v)
    (kept : p (k, v) = true) : look (m.filter p) k = some v := by
  induction m with
  | nil => cases there
  | cons e m ih =>
    obtain ⟨a, w⟩ := e
    unfold look at there
    by_cases same : k = a
    · rw [if_pos same] at there
      cases there
      cases same
      rw [List.filter_cons_of_pos kept]
      exact if_pos rfl
    · rw [if_neg same] at there
      by_cases head : p (a, w) = true
      · rw [List.filter_cons_of_pos head]
        exact (if_neg same).trans (ih there)
      · rw [List.filter_cons_of_neg head]
        exact ih there

/-- A bag in progress stays when its request is latched. -/
theorem State.latch_bag {s : State} {i : Nat} {x : Bag} (there : look s.core.bags i = some x) (running : x.running)
    (req code d : Nat) : look (s.latch req code d).core.bags i = some x := by
  unfold State.latch
  split
  · exact there
  · next r _ =>
    have first : ThreadsOnly s (if r.latch.isNone then s.updReq req fun r => { r with latch := some (code, d) } else s) :=
      ite_holds (P := ThreadsOnly s) (s.updReq_threadsOnly ..) (.refl s)
    have kept : ∀ u : State, ThreadsOnly s u → look (u.cancel (· = req)).core.bags i = some x := by
      intro u h
      have bags : u.core.bags = s.core.bags := by rw [h]
      unfold State.cancel
      rw [(State.serveAll_threadsOnly _).bags]
      refine look_filter_of ?_ (by simp [running])
      exact (congrArg (look · i) bags).trans there
    rw [(State.resume_threadsOnly _).bags]
    exact kept _ first

theorem State.updBag_self {s : State} {i : Nat} {x : Bag} (f : Bag → Bag) (there : look s.core.bags i = some x) :
    look (s.updBag i f).core.bags i = some (f x) := by
  unfold State.updBag
  rw [there]
  exact look_put_self ..

theorem State.updTable_bags (s : State) (k : Nat) (f : Table → Table) : (s.updTable k f).core.bags = s.core.bags := by
  unfold State.updTable
  split <;> rfl

/-- What is left of a bag in progress that met an error. -/
theorem State.bagErr_bag {s : State} {i : Nat} {x : Bag} (there : look s.core.bags i = some x) (running : x.running)
    (code d : Nat) : look (s.bagErr i x code d).core.bags i = some { x with err := x.err <|> some code, resolved := true } := by
  unfold State.bagErr
  dsimp only
  refine State.latch_bag (x := { x with err := x.err <|> some code, resolved := true }) (ite_holds (P := fun t : State => look t.core.bags i = some _) ?_ ?_) running ..
  · rw [State.updTable_bags]
    exact State.updBag_self _ there
  · exact State.updBag_self _ there

/-- The end of a finished bag, once it is known whether its rows are still there (R243, R244). -/
def State.endBag (s : State) (bag : Nat) (residue : Bool) (b : Bag) (r : Request) (c : Context) : State :=
  let still := b.err.isNone && r.latch.isSome
  let hit := residue && b.err.isNone && !still
  let s := if hit then
      (s.error { source := 3, event := 6, cls := 2, unit := b.creek, valley := r.valley, ctx := r.ctx, scope := 1, cmpl := 0x17 }
        [{ cls := 2, idx := b.creek }]).latch b.req 0x17 0
    else s
  let code := if hit then some 0x17 else b.err
  let w := ((look s.core.tables b.key).map Table.width).getD 0
  let s := if code.isNone && !still then s.scratchWrite b.glen b.dest (b.output r.stamp.personality w) else s
  let s := if !still && b.status % 8 = 0 && c.inScratchRange b.status 8 then s.scratchWrite b.glen b.status (b.word (code.getD 0)) else s
  let s := s.setCore { s.core with
    bags := del s.core.bags bag
    remote := s.core.remote.filter fun m => match m.2.use with
      | .lookup i _ | .indexList i | .weightList i => i ≠ bag
      | _ => true }
  let s := if still then s else s.engineSync b.req r b.sync
  (s.pumpCreek b.creek).settle b.req

section
variable {s : State} {i : Nat} {x : Bag} {r : Request} {c : Context}

theorem execCreekBagComplete_eq (residue : Bool) (there : look s.core.bags i = some x) (done : x.done)
    (request : look s.core.reqs x.req = some r) (context : s.ctxOf r = some c) :
    execCreekBagComplete i residue s = .next (
      let t := if x.err.isNone && s.bagLost x r then s.bagErr i x 0x12 0 else s
      t.endBag i residue ((look t.core.bags i).getD x) r c) := by
  unfold execCreekBagComplete
  rw [there]
  dsimp only
  rw [if_neg (show ¬ (!x.done) = true by simp [done]), request]
  dsimp only
  rw [context]
  rfl

theorem execCreekBagComplete_kept (residue : Bool) (there : look s.core.bags i = some x) (done : x.done)
    (request : look s.core.reqs x.req = some r) (context : s.ctxOf r = some c) (kept : (x.err.isNone && s.bagLost x r) = false) :
    execCreekBagComplete i residue s = .next (s.endBag i residue x r c) := by
  rw [execCreekBagComplete_eq residue there done request context, if_neg (by simp [kept])]
  dsimp only
  rw [there]
  rfl

theorem execCreekBagComplete_lost (residue : Bool) (there : look s.core.bags i = some x) (done : x.done)
    (request : look s.core.reqs x.req = some r) (context : s.ctxOf r = some c) (sound : x.err = none) (lost : s.bagLost x r) :
    execCreekBagComplete i residue s =
      .next ((s.bagErr i x 0x12 0).endBag i residue { x with err := some 0x12, resolved := true } r c) := by
  have running : x.running := by
    unfold Bag.done at done
    simp only [Bool.and_eq_true] at done
    exact done.1.1.1
  have left := State.bagErr_bag there running 0x12 0
  rw [sound] at left
  rw [execCreekBagComplete_eq residue there done request context, if_pos (by simp [sound, lost])]
  dsimp only
  rw [left]
  rfl

/-- A bag that has ended, and what was asked of other nodes for it, are gone. -/
def State.closeBag (t : State) (bag : Nat) : State := t.setCore { t.core with
  bags := del t.core.bags bag
  remote := t.core.remote.filter fun m => match m.2.use with
    | .lookup j _ | .indexList j | .weightList j => j ≠ bag
    | _ => true }

section
variable (residue : Bool) (aligned : x.status % 8 = 0) (inside : c.inScratchRange x.status 8)
include aligned inside

theorem State.endBag_error {e : Nat} (bad : x.err = some e) : s.endBag i residue x r c =
    ((((s.scratchWrite x.glen x.status (x.word e)).closeBag i).engineSync x.req r x.sync).pumpCreek x.creek).settle x.req := by
  unfold State.endBag
  simp only [bad, aligned, inside, Option.isNone_some, Bool.false_and, Bool.and_false, Bool.false_eq_true, if_false,
    Bool.not_false, decide_true, Bool.and_true, if_true, Option.getD_some]
  rfl

theorem State.endBag_good (sound : x.err = none) (free : r.latch = none) : s.endBag i false x r c =
    (((((s.scratchWrite x.glen x.dest (x.output r.stamp.personality (((look s.core.tables x.key).map Table.width).getD 0))).scratchWrite
      x.glen x.status (x.word 0)).closeBag i).engineSync x.req r x.sync).pumpCreek x.creek).settle x.req := by
  unfold State.endBag
  simp only [sound, free, aligned, inside, Option.isNone_none, Option.isSome_none, Bool.and_false,
    Bool.false_eq_true, if_false, Bool.not_false, decide_true, Bool.and_true, if_true, Option.getD_none]
  rfl

theorem State.endBag_residue (sound : x.err = none) (free : r.latch = none) : s.endBag i true x r c =
    ((((((s.error { source := 3, event := 6, cls := 2, unit := x.creek, valley := r.valley, ctx := r.ctx, scope := 1, cmpl := 0x17 }
      [{ cls := 2, idx := x.creek }]).latch x.req 0x17 0).scratchWrite x.glen x.status (x.word 0x17)).closeBag i).engineSync
        x.req r x.sync).pumpCreek x.creek).settle x.req := by
  unfold State.endBag
  simp only [sound, free, aligned, inside, Option.isNone_none, Option.isNone_some, Option.isSome_none,
    Bool.and_false, Bool.false_eq_true, if_false, Bool.not_false, decide_true, Bool.and_true, if_true, Option.getD_some]
  rfl

end

theorem State.endBag_latched (residue : Bool) (sound : x.err = none) (latched : r.latch.isSome) :
    s.endBag i residue x r c = ((s.closeBag i).pumpCreek x.creek).settle x.req := by
  unfold State.endBag
  simp only [sound, latched, Option.isNone_none, Bool.and_self, Bool.not_true, Bool.and_false, Bool.false_and,
    Bool.false_eq_true, if_false, if_true]
  rfl

end

end Sys2Proof.Machine
end

section
/-! PROOFS. The statement about Creeks, bags and lookups (05, 06). -/
open Sys2Proof Sys2Proof.Machine

/-- Settles O34: a bag in progress outlives the latching of its request, so its end is told by what it met first. -/
theorem creekBags : Obligations.CreekBags := by
  unfold Obligations.CreekBags
  refine ⟨?_, ?_, ?_, ?_, ?_, ?_, ?_, ?_, ?_, ?_, ?_⟩
  · intro k s small kept free
    exact congrArg Host.Outcome.next (if_neg (by simp [small, kept, free]))
  · intro k n s
    refine ⟨fun i none_ bag => ?_, fun p ps i peers bag => ?_, fun p ps peers none_ => ?_, fun none_ none' => ?_⟩
    · rw [State.creekRound, none_, bag]
    · rw [State.creekRound, peers, bag]
    · rw [State.creekRound, peers, none_]
    · rw [State.creekRound, none_, none']
  · intro i p ecc x r t q s there request table live pos some_ home
    have run : exec (.creekFetchComplete i (p, ecc)) s = .next (
        if (Bag.fetchRanges t q).any fun a => !(s.hostHolds a.1 a.2 false).isEmpty
        then (Bag.fetchRanges t q).foldl (fun s a => s.recall a.1 a.2 false) s else (s.eccAll ecc).landRow i p) := by
      change execCreekFetchComplete i (p, ecc) s = _
      unfold execCreekFetchComplete
      rw [there]
      dsimp only
      rw [request, table, pos]
      exact congrArg Host.Outcome.next (if_neg (by simpa [live, some_] using fun a b h => home (a, b) h))
    rw [run]
    refine ⟨fun free => ?_, fun ⟨a, inside, held⟩ => ?_⟩
    · rw [if_neg (by simpa using fun a b h => free (a, b) h)]
    · rw [if_pos (List.any_eq_true.mpr ⟨a, inside, by simpa using held⟩)]
  · intro i p a b row base k x r t s there request table
    dsimp only
    constructor
    · intro pos
      unfold State.landRow
      rw [there]
      dsimp only
      rw [request, table]
      dsimp only
      rw [pos]
      dsimp only
      generalize State.readRow _ _ _ _ _ _ = f
      obtain ⟨u, v⟩ := f
      cases v <;> rfl
    · intro pos
      unfold State.landRow
      rw [there]
      dsimp only
      rw [request, table]
      dsimp only
      rw [pos]
      dsimp only
      generalize State.readDefault _ _ _ = f
      obtain ⟨u, v⟩ := f
      cases v <;> rfl
  · intro i residue x r c s there done request context aligned inside w close
    have kept (h : (x.err.isNone && s.bagLost x r) = false) := execCreekBagComplete_kept residue there done request context h
    refine ⟨fun sound lost => ?_, fun sound home free clean => ?_, fun sound home free bad => ?_, fun e bad => ?_,
      fun sound home latched => ?_⟩
    · refine (execCreekBagComplete_lost residue there done request context sound lost).trans (congrArg Host.Outcome.next ?_)
      exact State.endBag_error (x := { x with err := some 0x12, resolved := true }) residue aligned inside rfl
    · subst clean
      exact (kept (by simp [home])).trans (congrArg Host.Outcome.next (State.endBag_good aligned inside sound free))
    · subst bad
      exact (kept (by simp [home])).trans (congrArg Host.Outcome.next (State.endBag_residue aligned inside sound free))
    · exact (kept (by simp [bad])).trans (congrArg Host.Outcome.next (State.endBag_error residue aligned inside bad))
    · exact (kept (by simp [home])).trans (congrArg Host.Outcome.next (State.endBag_latched residue sound latched))
  · intro i b x s there open_
    change execCreekBagComplete i b s = _
    unfold execCreekBagComplete
    rw [there]
    exact congrArg Host.Outcome.next (if_pos (by simp [open_]))
  · intro src tag m s serves
    refine ⟨fun some_ few long => ?_, fun bad => ?_⟩
    · refine congrArg Host.Outcome.next ?_
      unfold State.lookupRequest
      exact (if_neg (by simp [serves])).trans (if_neg (by simp; omega))
    · refine congrArg Host.Outcome.next ?_
      unfold State.lookupRequest
      exact (if_neg (by simp [serves])).trans (if_pos (by simp; omega))
  · intro p x t s
    refine ⟨fun none_ => ?_, fun there gone => ?_, fun there kept early => ?_, fun there kept now none_ => ?_,
      fun k there kept now creek => ?_⟩
    · unfold State.admitPeer
      rw [none_]
    · unfold State.admitPeer
      rw [there]
      exact if_pos gone
    · unfold State.admitPeer
      rw [there]
      exact (if_neg (by simp [kept])).trans (if_pos early)
    · unfold State.admitPeer
      rw [there]
      refine (if_neg (by simp [kept])).trans ((if_neg (by simp [now])).trans ?_)
      rw [none_]
      rfl
    · unfold State.admitPeer
      rw [there]
      refine (if_neg (by simp [kept])).trans ((if_neg (by simp [now])).trans ?_)
      dsimp only
      rw [creek]
  · intro src k i ps m x s there use
    have run : exec (.remoteLookupResponse src m) s = .next (s.lookupAnswer src m) := rfl
    rw [run]
    unfold State.lookupAnswer
    rw [there]
    dsimp only
    rw [use]
    dsimp only
    have same : (s.dropRemote k).core.bags = s.core.bags ∧ (s.dropRemote k).core.reqs = s.core.reqs ∧
        (s.dropRemote k).core.tables = s.core.tables := ⟨rfl, rfl, rfl⟩
    rw [same.1, same.2.1, same.2.2]
    refine ⟨fun none_ => ?_, fun b r t bag request table => ⟨fun wrong => ?_, fun fmt width group => ?_⟩⟩
    · rw [none_]
    · rw [bag]
      dsimp only
      rw [request, table]
      dsimp only
      rw [if_pos (by simpa [or_assoc] using wrong)]
    · rw [bag]
      dsimp only
      rw [request, table]
      dsimp only
      rw [if_neg (by simp [fmt, width, group])] <;> rfl
  · intro i m s there other
    change execRemoteOperationTimeout i s = _
    unfold execRemoteOperationTimeout
    rw [there]
    exact congrArg Host.Outcome.next (if_neg other)
  · intro node tag p x s there set
    change execEpochWaitExpire node tag s = _
    unfold execEpochWaitExpire
    rw [there]
    dsimp only
    rw [set]
    rfl
end

section
/-! SUPPORT. The ops of the Plain (08). -/
namespace Sys2Proof.Machine
open Sys2Proof

theorem ThreadsOnly.plain {s t : State} (h : ThreadsOnly s t) : t.core.plain = s.core.plain := by
  rw [h]

theorem State.updPlain_self {s : State} {i : Nat} {o : PlainOp} (f : PlainOp → PlainOp) (there : look s.core.plain i = some o) :
    look (s.updPlain i f).core.plain i = some (f o) := by
  unfold State.updPlain
  rw [there]
  exact look_put_self ..

/-- A running op stays when its request is latched. -/
theorem State.latch_plain {s : State} {i : Nat} {o : PlainOp} (there : look s.core.plain i = some o) (running : o.running)
    (req code d : Nat) : look (s.latch req code d).core.plain i = some o := by
  unfold State.latch
  split
  · exact there
  · next r _ =>
    have first : ThreadsOnly s (if r.latch.isNone then s.updReq req fun r => { r with latch := some (code, d) } else s) :=
      ite_holds (P := ThreadsOnly s) (s.updReq_threadsOnly ..) (.refl s)
    have kept : ∀ u : State, ThreadsOnly s u → look (u.cancel (· = req)).core.plain i = some o := by
      intro u h
      unfold State.cancel
      rw [(State.serveAll_threadsOnly _).plain]
      refine look_filter_of ?_ (by simp [running])
      exact (congrArg (look · i) h.plain).trans there
    rw [(State.resume_threadsOnly _).plain]
    exact kept _ first

theorem State.plainErr_plain {s : State} {i : Nat} {o : PlainOp} (there : look s.core.plain i = some o) (code d : Nat) :
    look (s.plainErr i o code d).core.plain i = some { o with err := o.err <|> some code, running := true } :=
  State.latch_plain (State.updPlain_self _ there) rfl ..

section
variable {s : State} {i : Nat} {o : PlainOp} {r : Request}

/-- The end of a chain, once what its codes found has been dealt with. -/
def State.endChain (s : State) (op : Nat) (o : PlainOp) (r : Request) (lost : Bool) : State :=
  let late := o.err.isNone && r.latch.isSome
  let s := if o.err.isNone && !late && lost then s.plainErr op o 0x17 else s
  let good := ((look s.core.plain op).map fun x => x.err.isNone).getD false
  let s := if good && !late then s.scratchWrite o.glen o.dest o.result else s
  if (look s.core.plain op).isNone then s else s.endPlain op o r (!late)

theorem execPlainChainComplete_ends (parity : Bool) (errs : List GlenErr) (there : look s.core.plain i = some o)
    (running : o.running) (chain : o.isLoad = false) (told : o.checked → o.compared ∨ o.err.isSome)
    (request : look s.core.reqs o.req = some r) : execPlainChainComplete i parity errs s =
      .next ((s.glenErrs o.glen r (chainErrs parity errs)).endChain i o r ((chainErrs parity errs).any GlenErr.lost)) := by
  have goes : ¬ (!o.running || o.isLoad || (o.checked && !o.compared && o.err.isNone)) = true := by
    intro bad
    simp only [running, chain, Bool.not_true, Bool.false_or, Bool.and_eq_true, Bool.not_eq_true', Option.isNone_iff_eq_none] at bad
    obtain ⟨⟨checked, waits⟩, none_⟩ := bad
    rcases told checked with h | h
    · simp [h] at waits
    · simp [none_] at h
  unfold execPlainChainComplete
  rw [there]
  dsimp only
  rw [if_neg goes, request]
  rfl

variable (left : look s.core.plain i = some o)
include left

theorem State.endChain_good (sound : o.err = none) (free : r.latch = none) :
    s.endChain i o r false = (s.scratchWrite o.glen o.dest o.result).endPlain i o r true := by
  have kept : (look (s.scratchWrite o.glen o.dest o.result).core.plain i).isNone = false :=
    congrArg Option.isNone left
  unfold State.endChain
  simp only [sound, free, Option.isNone_none, Option.isSome_none, Bool.and_false, Bool.not_false, Bool.false_eq_true, if_false,
    left, Option.map_some, Option.getD_some, Bool.and_self, if_true, kept]

theorem State.endChain_lost (sound : o.err = none) (free : r.latch = none) :
    s.endChain i o r true = (s.plainErr i o 0x17).endPlain i o r true := by
  have kept : look (s.plainErr i o 0x17).core.plain i = some { o with err := some 0x17, running := true } := by
    have told := State.plainErr_plain left 0x17 0
    rw [sound] at told
    exact told
  unfold State.endChain
  simp only [sound, free, Option.isNone_none, Option.isSome_none, Bool.and_false, Bool.not_false, Bool.and_self, if_true, kept,
    Option.map_some, Option.getD_some, Option.isNone_some, Bool.false_and, Bool.false_eq_true, if_false]

theorem State.endChain_error (lost : Bool) (bad : o.err.isSome) : s.endChain i o r lost = s.endPlain i o r true := by
  have none_ : o.err.isNone = false := by simpa using bad
  unfold State.endChain
  simp only [none_, Bool.false_and, Bool.false_eq_true, if_false, left, Option.map_some, Option.getD_some, Option.isNone_some,
    Bool.not_false]

theorem State.endChain_late (lost : Bool) (sound : o.err = none) (latched : r.latch.isSome) :
    s.endChain i o r lost = s.endPlain i o r false := by
  unfold State.endChain
  simp only [sound, latched, Option.isNone_none, Bool.and_self, Bool.not_true, Bool.and_false, Bool.false_and,
    Bool.false_eq_true, if_false, left, Option.isNone_some]

end

/-- What a comparison does with a checked chain (R688). -/
def State.comparedWith (s : State) (op : Nat) (o : PlainOp) (r : Request) (mismatch : Option Nat) : State :=
  if o.partner ≠ o.glen && o.partner ∉ s.openGlens r.valley r.stamp.bnd then
    s.updPlain op fun o => { o with partner := s.partnerOf r o.glen }
  else match mismatch with
  | none => s.updPlain op fun o => { o with compared := true }
  | some lane =>
    let us : List UnitRef := [{ cls := 1, idx := o.glen }] ++ (if o.partner = o.glen then [] else [{ cls := 1, idx := o.partner }])
    let s := s.error { source := 0x0A, event := 5, cls := 1, unit := o.glen, subunit := lane, valley := r.valley, ctx := r.ctx
                       scope := 1, flags := 4, cmpl := 0x0C, index := o.partner } us
    ((s.fenceUnits us).updPlain op fun o => { o with compared := true }).plainErr op o 0x0C

section
variable {s : State} {i : Nat} {o : PlainOp} {r : Request} {m : Option Nat}

theorem State.comparedWith_gone (there : look s.core.plain i = some o)
    (gone : ¬ (o.partner = o.glen ∨ o.partner ∈ s.openGlens r.valley r.stamp.bnd)) :
    s.comparedWith i o r m = s.updPlain i fun y => { y with partner := s.partnerOf r o.glen } := by
  have moved : (o.partner ≠ o.glen && o.partner ∉ s.openGlens r.valley r.stamp.bnd) = true := by simpa [not_or] using gone
  unfold State.comparedWith
  rw [if_pos moved]
  unfold State.updPlain
  rw [there]

theorem State.comparedWith_here (here : o.partner = o.glen ∨ o.partner ∈ s.openGlens r.valley r.stamp.bnd) :
    s.comparedWith i o r m = match m with
      | none => s.updPlain i fun o => { o with compared := true }
      | some lane =>
        let us : List UnitRef := [{ cls := 1, idx := o.glen }] ++ (if o.partner = o.glen then [] else [{ cls := 1, idx := o.partner }])
        (((s.error { source := 0x0A, event := 5, cls := 1, unit := o.glen, subunit := lane, valley := r.valley, ctx := r.ctx
                     scope := 1, flags := 4, cmpl := 0x0C, index := o.partner } us).fenceUnits us).updPlain i
          fun o => { o with compared := true }).plainErr i o 0x0C := by
  have stays : ¬ (o.partner ≠ o.glen && o.partner ∉ s.openGlens r.valley r.stamp.bnd) = true := by
    rcases here with h | h <;> simp [h]
  unfold State.comparedWith
  rw [if_neg stays]

end

/-- What a load's start does with what its source gave. -/
def State.loadWith (i : Nat) (o : PlainOp) (f : State × Except (Nat × Nat) Bytes) : State :=
  match f with
  | (s, .error e) => s.plainErr i o e.1 e.2
  | (s, .ok d) => s.updPlain i fun o => { o with running := true, result := d }

section
variable {i : Nat} {o : PlainOp} {f : State × Except (Nat × Nat) Bytes}

theorem State.loadWith_error {e : Nat × Nat} (h : f.2 = .error e) : State.loadWith i o f = f.1.plainErr i o e.1 e.2 := by
  obtain ⟨s, d⟩ := f
  subst h
  rfl

theorem State.loadWith_ok {d : Bytes} (h : f.2 = .ok d) :
    State.loadWith i o f = f.1.updPlain i fun o => { o with running := true, result := d } := by
  obtain ⟨s, _⟩ := f
  subst h
  rfl

end

/-- The end of a load whose source may have gone (R326). -/
def State.endLoad (s : State) (op : Nat) (o : PlainOp) (r : Request) (gone : Bool) : State :=
  let s := if gone then (s.recordBarred r o.src 0x11).plainErr op o 0x11 else s
  if o.err.isSome || gone || r.latch.isSome then
    (s.setCore { s.core with remote := s.core.remote.filter fun m => m.2.use ≠ .weights op }).endPlain op o r false
  else
    let s := s.writeLanes o.glen r.ctx o.firstLane o.laneOff o.bytes o.result
    let e : LoadLog := {
      glen := o.glen, src := o.src, laneOff := o.laneOff, bytes := o.bytes, firstLane := o.firstLane, lanes := o.laneCount
      scratch := o.fromScratch }
    let s := s.updCtx (ctxKey r.valley r.ctx) fun c => { c.addLog e with
      reload := c.reload.filter fun k => !(k / 64 = o.glen && k % 64 ∈ unitsOf o.laneOff o.bytes && o.bytes % 256 = 0 && o.laneCount = 128) }
    s.endPlain op o r true

end Sys2Proof.Machine
end

section
/-! PROOFS. The statement about the Plain (08). -/
open Sys2Proof Sys2Proof.Machine

/-- Settles O35: a running op outlives the latching of its request, so an error that it meets at its end keeps it from
writing. -/
theorem plainRow : Obligations.PlainRow := by
  unfold Obligations.PlainRow
  refine ⟨?_, ?_, ?_, ?_, ?_, ?_, ?_⟩
  · intro g i o r c s head chain banks clear request context home
    change execPlainChainStart g s = _
    unfold execPlainChainStart
    rw [head]
    dsimp only
    rw [if_neg (by simp [chain]; omega), if_neg, request]
    · dsimp only
      rw [context]
      exact congrArg Host.Outcome.next (if_pos home)
    · intro bad
      obtain ⟨x, there, hit⟩ := List.any_eq_true.mp bad
      simp only [Bool.and_eq_true, decide_eq_true_eq, Bool.not_eq_true'] at hit
      obtain ⟨⟨⟨⟨before, own⟩, load⟩, live⟩, meets⟩ := hit
      simp [clear x there before own load live] at meets
  · intro i o r c s u
    dsimp only
    refine ⟨fun bad => ?_, fun good reload => ?_, fun good ready => ⟨fun lost => ?_, fun whole bad => ?_, fun whole shift => ?_⟩⟩
    · unfold State.startChain
      exact if_pos bad
    · unfold State.startChain
      exact (if_neg (by simp [u] at good ⊢; exact good)).trans (if_pos reload)
    all_goals
      unfold State.startChain
      refine (if_neg (by simp [u] at good ⊢; exact good)).trans ((if_neg (by simp [ready])).trans ?_)
    · exact if_pos lost
    · exact (if_neg (ne_true_of_eq_false whole)).trans (if_pos bad)
    · exact (if_neg (ne_true_of_eq_false whole)).trans (if_neg (ne_true_of_eq_false shift))
  · intro i parity errs o r s there running chain told request all w left
    have run : exec (.plainChainComplete i parity errs) s = .next (w.endChain i o r (all.any GlenErr.lost)) :=
      execPlainChainComplete_ends parity errs there running chain told request
    rw [run]
    refine ⟨fun sound free whole => ?_, fun sound free lost => ?_, fun bad => ?_, fun sound latched => ?_⟩
    · rw [whole, State.endChain_good left sound free]
    · rw [lost, State.endChain_lost left sound free]
    · rw [State.endChain_error left _ bad]
    · rw [State.endChain_late left _ sound latched]
  · intro i parity errs o s there checked waits sound
    change execPlainChainComplete i parity errs s = _
    unfold execPlainChainComplete
    rw [there]
    exact congrArg Host.Outcome.next (if_pos (by simp [checked, waits, sound]))
  · intro i o r s there running checked waits sound request here
    have run (m : Option Nat) : exec (.checkedChainCompare i m) s = .next (s.comparedWith i o r m) := by
      change execCheckedChainCompare i m s = _
      unfold execCheckedChainCompare
      rw [there]
      dsimp only
      rw [if_neg (by simp [running, checked, waits, sound]), request]
      rfl
    refine ⟨fun h => ?_, fun lane h => ?_, fun m h => ?_⟩
    · rw [run, State.comparedWith_here h]
    · rw [run, State.comparedWith_here h]
    · rw [run, State.comparedWith_gone there h]
  · intro g i ecc errs o r c s head load clear request context home bad full held f
    have run : exec (.weightLoadStart (g, ecc, errs)) s = .next (if bad then s.plainErr i o 0x16 else if full then s.plainErr i o 9
        else if held then s.recall (localOf o.src) (o.bytes * o.laneCount) false else State.loadWith i o f) := by
      change execWeightLoadStart (g, ecc, errs) s = _
      unfold execWeightLoadStart
      dsimp only
      rw [head]
      dsimp only
      rw [if_neg (by simp [load]), if_neg, request]
      · dsimp only
        rw [context]
        exact congrArg Host.Outcome.next (if_neg (by simp [home]))
      · intro hit
        obtain ⟨x, there, hit⟩ := List.any_eq_true.mp hit
        simp only [Bool.and_eq_true, decide_eq_true_eq, Bool.not_eq_true'] at hit
        obtain ⟨⟨⟨before, own⟩, live⟩, meets⟩ := hit
        simp [clear x there before own live] at meets
    rw [run]
    refine ⟨fun h => ?_, fun h k => ?_, fun h k l => ?_, fun e h k l m => ?_, fun d h k l m => ?_⟩
    · rw [if_pos h]
    · rw [if_neg (by simp [h]), if_pos k]
    · rw [if_neg (by simp [h]), if_neg (by simp [k]), if_pos l]
    · rw [if_neg (by simp [h]), if_neg (by simp [k]), if_neg (by simp [l]), State.loadWith_error (f := f) m]
    · rw [if_neg (by simp [h]), if_neg (by simp [k]), if_neg (by simp [l]), State.loadWith_ok (f := f) m]
  · intro i o r s there running load ready request gone drop t e
    have run : exec (.weightLoadComplete i) s = .next (s.endLoad i o r (o.err.isNone && gone)) := by
      change execWeightLoadComplete i s = _
      unfold execWeightLoadComplete
      rw [there]
      dsimp only
      rw [if_neg (by simpa [running, load] using ready), request]
      dsimp only [gone]
      rw [Bool.and_assoc, Bool.and_assoc, Bool.and_assoc]
      rfl
    rw [run]
    refine ⟨fun sound here free => ?_, fun sound gone_ => ?_, fun dead => ?_⟩
    · unfold State.endLoad
      simp only [sound, here, free, Option.isNone_none, Bool.true_and, Option.isSome_none, Bool.or_self, Bool.false_eq_true, if_false]
      rfl
    · unfold State.endLoad
      simp only [sound, gone_, Option.isNone_none, Bool.and_self, Option.isSome_none, Bool.false_or, Bool.true_or, if_true]
      rfl
    · have stays : (o.err.isNone && gone) = false := by
        rcases dead with h | h
        · simp [Option.isSome_iff_ne_none.mp h]
        · simp [h.1]
      have ends : (o.err.isSome || (o.err.isNone && gone) || r.latch.isSome) = true := by
        rcases dead with h | h
        · simp [h]
        · simp [h.2]
      unfold State.endLoad
      rw [ends, stays]
      rfl
end

section
/-! SUPPORT. Streams and their records (07). -/
namespace Sys2Proof.Machine
open Sys2Proof

section
variable (s : State) (via : Via)

theorem consume_sourceOk (v : Nat) (p : Bytes) : (s.consume via).sourceOk v p = s.sourceOk v p := by
  unfold State.sourceOk
  simp only [State.consume_core]

end

theorem State.updSet_streams (s : State) (i : Nat) (f : TSet → TSet) : (s.updSet i f).core.streams = s.core.streams := by
  unfold State.updSet
  split <;> rfl

/-- The turns below those of valley `v`. -/
def State.turnsBelow (s : State) (v : Nat) : Nat :=
  ((List.range v).map fun u => ((s.profile u).map (·.hwtShare)).getD 0).sum

theorem State.turnsBelow_mono (s : State) {u v : Nat} (h : u ≤ v) : s.turnsBelow u ≤ s.turnsBelow v := by
  induction h with
  | refl => exact Nat.le_refl _
  | step _ ih =>
    refine Nat.le_trans ih ?_
    unfold State.turnsBelow
    rw [List.range_succ, List.map_append, List.sum_append]
    exact Nat.le_add_right ..

theorem State.turnOwner_iff (s : State) {v k : Nat} (range : v < 8) :
    s.turnOwner k = some v ↔ s.turnsBelow v ≤ k ∧ k < s.turnsBelow (v + 1) := by
  unfold State.turnOwner
  rw [List.find?_range_eq_some]
  simp only [decide_eq_true_eq, List.mem_range, range, true_and, Bool.not_eq_true', decide_eq_false_iff_not, Nat.not_lt]
  constructor
  · rintro ⟨above, first⟩
    refine ⟨?_, above⟩
    cases v with
    | zero => exact Nat.zero_le _
    | succ v => exact first v (Nat.lt_succ_self v)
  · rintro ⟨below, above⟩
    exact ⟨above, fun u h => Nat.le_trans (s.turnsBelow_mono h) below⟩

theorem State.recordTurn_own {s : State} {e v : Nat} (turn : s.turnOwner (s.hwTurn e).1 = some v) (waits : s.recordsWait e v) :
    s.recordTurn e = some v := by
  unfold State.recordTurn
  rw [turn, Option.filter_some_pos waits]

theorem State.recordTurn_waits {s : State} {e v : Nat} (turn : s.recordTurn e = some v) : s.recordsWait e v := by
  unfold State.recordTurn at turn
  split at turn
  · next u own =>
    obtain rfl : u = v := Option.some.inj turn
    exact (Option.filter_eq_some_iff.mp own).2
  · exact List.find?_some turn

theorem State.recordTurn_someone {s : State} {e v : Nat} (range : v < 8) (waits : s.recordsWait e v) : s.recordTurn e ≠ none := by
  unfold State.recordTurn
  split
  · exact nofun
  · intro nobody
    refine List.find?_eq_none.mp nobody v (List.mem_map.mpr ⟨(v + 7 - (s.hwTurn e).2 % 8) % 8, ?_, ?_⟩) waits
    · exact List.mem_range.mpr (Nat.mod_lt _ (by omega))
    · omega

/-- The end of a stream's shutdown, and the opening that waited for it (R68). -/
def State.shutDone (s : State) (stream : Nat) (x : Stream) : State :=
  let s := s.updStream stream fun x => { x with st := 0, shut := {} }
  let s := x.shut.dones.foldl (fun s d => s.done d .ok 0 []) s
  match x.shut.held with
  | none => s
  | some (d, p) =>
    match streamField s x.valley p with
    | some o => s.done d .badField (16 + o) []
    | none =>
      let r := s.openStream x.valley p
      r.s.done d r.st r.detail []

section
variable {set n e : Nat} {x : Stream} {b : Bytes} {s : State} {mine : Nat → Bool} {f : Stream → Nat → Bytes → State → State × Nat}

theorem State.record_idle (idle : s.takesRecords set = none) : s.record set mine f = s := by
  unfold State.record
  rw [idle]

/-- A successful record is counted, and its code told (R292). -/
def Stream.tellRecord (x : Stream) (n : Nat) (b : Bytes) (t : Option Teller) (v : State × Nat) : State :=
  (if v.2 = 0 ∧ (recOp b = 1 ∨ recOp b = 2) then v.1.updSet x.set fun y => { y with records := y.records + 1 } else v.1).endRecord n x b t v.2

theorem State.recordOf_takes (there : s.peekRecord x = some b) (own : mine (recOp b)) (here : s.dataHeld x b = []) :
    s.recordOf n x e mine f = x.tellRecord n b (s.takeRecord n x b).2 (f x e b (s.takeRecord n x b).1) := by
  unfold State.recordOf
  rw [there]
  dsimp only
  rw [if_neg (by simp [own]), here]
  simp only [Stream.tellRecord, Bool.and_eq_true, Bool.or_eq_true, decide_eq_true_eq]
  rfl

theorem State.recordOf_recalls (there : s.peekRecord x = some b) (own : mine (recOp b)) (held : s.dataHeld x b ≠ []) :
    s.recordOf n x e mine f = (s.dataHeld x b).foldl State.backInvalidate s := by
  unfold State.recordOf
  rw [there]
  dsimp only
  rw [if_neg (by simp [own]), if_pos (by simpa using held)]

theorem State.record_of (engine : s.takesRecords set = some e) (stream : s.nextStream set = some (n, x))
    (slot : ∀ q, x.source = 0 → look s.core.sqs x.queue = some q → s.slotReadable q) :
    s.record set mine f = s.recordOf n x e mine f := by
  unfold State.record
  rw [engine, stream]
  dsimp only
  split
  · next q found =>
    split at found
    · next src => exact if_neg (by simp [slot q src found])
    · exact absurd found nofun
  · rfl

theorem State.record_lost {q : Sq} (engine : s.takesRecords set = some e) (stream : s.nextStream set = some (n, x))
    (src : x.source = 0) (queue : look s.core.sqs x.queue = some q) (slot : s.slotReadable q = false) :
    s.record set mine f = s.slotFails x.valley x.queue q := by
  unfold State.record
  rw [engine, stream]
  dsimp only
  rw [if_pos src, queue]
  exact if_pos (by simp [slot])

theorem Taking.record_takes (h : Taking set n x e b s) (own : mine (recOp b)) :
    s.record set mine f = x.tellRecord n b (s.takeRecord n x b).2 (f x e b (s.takeRecord n x b).1) :=
  (State.record_of h.engine h.stream h.slot).trans (State.recordOf_takes h.record own h.data)

end

end Sys2Proof.Machine
end

section
/-! PROOFS. The statement about streams and their records (07). -/
open Sys2Proof Sys2Proof.Machine

/-- Settles O36: every engine's command is `State.record` with the operations that are its own, so what taking does is
stated once. -/
theorem streamsAndUpdates : Obligations.StreamsAndUpdates := by
  unfold Obligations.StreamsAndUpdates
  refine ⟨?_, ?_, ?_, ?_, ?_, ?_, ?_, ?_, ?_, ?_, ?_, ?_, ?_⟩
  · intro e v s
    exact ⟨State.recordTurn_own, State.recordTurn_waits, State.recordTurn_someone⟩
  · intro k v s
    exact s.turnOwner_iff
  · rintro set s i idle (rfl | rfl | rfl | rfl) <;> exact congrArg Host.Outcome.next (State.record_idle idle)
  · intro r x s h p closed own live ok new low few room old t y
    have full : ¬ (63 < u8 p 0 || 16 ≤ ((s.core.streams.filter fun y => y.2.st ≠ 0 && y.1 ≠ u8 p 0).filter
        fun y => y.2.valley = r.via.mbx).length || 16 < x.pools.length + new.length) = true := by
      rw [Bool.or_eq_true, Bool.or_eq_true, decide_eq_true_eq, decide_eq_true_eq, decide_eq_true_eq]
      omega
    have opens : (s.consume r.via).openStream r.via.mbx p =
        Res.okay (t.setCore { t.core with streams := put s.core.streams (u8 p 0) y }) := by
      unfold State.openStream
      simp only [consume_ownSet, own, consume_sourceOk, State.consume_core]
      rw [if_neg (by simp [live]), if_neg (by simp [ok]), if_neg full]
      rw [State.updSet_streams, State.consume_core]
    refine serve_okay h ?_
    simp only [hwtStreamOpen, State.consume_core]
    cases there : look s.core.streams (u8 p 0) with
    | none => exact opens
    | some z =>
      simp only [closed z there]
      exact opens
  · intro r x s h p there
    replace there : look s.core.streams (u8 (streamPayload r.pay) 0) = some x := there
    refine ⟨fun open_ => ?_, fun closing free => ?_, fun closing taken => ?_⟩
    · split
      · next same =>
        refine serve_okay h ?_
        simp only [hwtStreamOpen, State.consume_core, there, open_]
        exact if_pos same
      · next same =>
        refine serve_fail h ?_ nofun
        simp only [hwtStreamOpen, State.consume_core, there, open_]
        exact if_neg same
    all_goals obtain ⟨k, closing⟩ : ∃ k, x.st = k + 2 := ⟨x.st - 2, by omega⟩
    · refine serve_pend h ?_
      simp only [hwtStreamOpen, State.consume_core, there, closing]
      exact if_neg (by simp [free])
    · refine serve_fail h ?_ nofun
      simp only [hwtStreamOpen, State.consume_core, there, closing]
      exact if_pos taken
  · intro r s h none_
    split
    · next range =>
      refine serve_fail h ?_ nofun
      simp only [hwtStreamClose, State.consume_core, none_]
      exact if_pos range
    · next range =>
      refine serve_okay h ?_
      simp only [hwtStreamClose, State.consume_core, none_]
      exact if_neg range
  · intro r x s h there
    refine ⟨fun closed => serve_okay h ?_, fun open_ => serve_pend h ?_, fun closing => ?_⟩
    · simp only [hwtStreamClose, State.consume_core, there, closed]
    · simp only [hwtStreamClose, State.consume_core, there, open_]
    · obtain ⟨k, closing⟩ : ∃ k, x.st = k + 2 := ⟨x.st - 2, by omega⟩
      refine serve_pending (after := fun t => match x.shut.held with
        | some held => t.done held.1 .conflict 0 []
        | none => t) h ?_
      simp only [hwtStreamClose, State.consume_core, there, closing] <;> rfl
  · intro n x s there closing t
    have run : exec (.hwtStreamShutdownDone n) s = .next (s.shutDone n x) := by
      change execHwtStreamShutdownDone n s = _
      unfold execHwtStreamShutdownDone
      rw [there]
      exact congrArg Host.Outcome.next (if_neg (by simp [closing]))
    rw [run]
    unfold State.shutDone
    refine ⟨fun free => ?_, fun d p o held bad => ?_, fun d p held good => ?_⟩
    · rw [free]
    · rw [held]
      dsimp only
      rw [bad]
    · rw [held]
      dsimp only
      rw [good]
  · intro set n e x b s h q told
    refine ⟨fun op => ?_, fun op => ?_, fun op => ?_, fun op none_ => ?_, fun y t op there => ?_, fun op => ?_, fun range => ?_⟩
    · refine congrArg Host.Outcome.next ((h.record_takes (by simp [op])).trans ?_)
      rw [if_pos op]
      rfl
    · exact congrArg Host.Outcome.next (h.record_takes (by simp [op]))
    · exact congrArg Host.Outcome.next (h.record_takes (by simp [op]))
    · refine congrArg Host.Outcome.next ((h.record_takes (by simp [op])).trans ?_)
      rw [none_]
      rfl
    · refine congrArg Host.Outcome.next ((h.record_takes (by simp [op])).trans ?_)
      rw [there]
      simp only [told, Bool.or_eq_true, Bool.and_eq_true, decide_eq_true_eq, Bool.not_eq_true']
      rfl
    · refine congrArg Host.Outcome.next ((h.record_takes (by simpa using by omega)).trans ?_)
      rw [if_neg (by omega)]
      rfl
    · change execHeadwaterEngineFault e (some set) s = _
      unfold execHeadwaterEngineFault
      rw [if_neg (Nat.not_le.mpr range)]
      exact congrArg (fun t : State => Host.Outcome.next (t.error _ _)) ((if_pos h.engine).trans (h.record_takes rfl))
  · intro set n e x b s i engine stream record kind
    obtain ⟨mine, f, run, own⟩ : ∃ mine f, exec i s = .next (s.record set mine f) ∧ mine (recOp b) = true := by
      rcases kind with ⟨rfl, op⟩ | ⟨rfl, op⟩ | ⟨rfl, op⟩ | ⟨rfl, op⟩
      · exact ⟨_, _, rfl, by simp at op; simp; omega⟩
      all_goals exact ⟨_, _, rfl, by simp [op]⟩
    rw [run]
    exact ⟨fun q src queue lost => congrArg Host.Outcome.next (State.record_lost engine stream src queue lost),
      fun slot held => congrArg Host.Outcome.next
        ((State.record_of engine stream slot).trans (State.recordOf_recalls record own held))⟩
  · intro x e b s none_
    unfold State.update
    rw [none_]
  · intro x e b y t s there sound mode sync_ beyond
    unfold State.update
    rw [there]
    dsimp only
    rw [if_neg, if_pos beyond]
    have low : ¬ 2 < (if t.scaled then recMode b else 0) := by
      split
      · next h => exact Nat.not_lt.mpr (mode h)
      · omega
    simp [sound, sync_, low]
  · intro e set s range other
    change execHeadwaterEngineFault e set s = _
    unfold execHeadwaterEngineFault
    rw [if_neg (Nat.not_le.mpr range)]
    cases set with
    | none => rfl
    | some n => exact congrArg (fun t : State => Host.Outcome.next (t.error _ _)) (if_neg (other n rfl))
end

section
/-! SUPPORT. The advance of an epoch (07). -/
namespace Sys2Proof.Machine
open Sys2Proof

section
variable (s : State) (via : Via)

theorem consume_epochBytes (k : Nat) (x : TSet) : (s.consume via).epochBytes k x = s.epochBytes k x := by
  obtain ⟨a, b, c, d, e⟩ := State.consume_frame s via
  rw [e]
  rfl

/-- An answer that is deferred leaves the core as it was. -/
theorem State.deferred_core (t : State) (r : Req) (st : St) : ((t.deferring r).respond s r st).core = t.core :=
  (State.respond_posts (t.deferring r) s r st 0 []).core

end

/-- The end of a catch-up, of which something may be lost (R302). -/
def State.caughtUp (s : State) (set : Nat) (x : TSet) (a : Advance) (lost : Bool) : State :=
  if lost then (s.endAdvance set .faulted).checkJournals
  else
    let s := (s.catchList set x).foldl (fun s e => s.writeHalf x a.target e) s
    let s := s.updSet set fun x => { x with advance := some { a with phase := 4 } }
    let s := (s.publishMoves set x a.target).catchHeader set x a.target
    s.ready x.valley (.flip set)

theorem State.updSet_of {s : State} {k : Nat} {x : TSet} (f g : TSet → TSet) (there : look s.core.sets k = some x)
    (same : f x = g x) : s.updSet k f = s.updSet k g := by
  unfold State.updSet
  rw [there]
  dsimp only
  rw [same]

end Sys2Proof.Machine
end

section
/-! PROOFS. The statement about the advance of an epoch (07). -/
open Sys2Proof Sys2Proof.Machine

/-- Settles O37: the answer to a request leaves the set that its advance begins on as it was. -/
theorem epochAdvances : Obligations.EpochAdvances := by
  unfold Obligations.EpochAdvances
  refine ⟨?_, ?_, ?_, ?_, ?_, ?_⟩
  · intro r x y t s h own live idle next journal registered there
    have after := serve_pending (d := 0) (pay := []) (t := t) (after := fun s => match look s.core.sets (u8 r.pay 0) with
        | some x => s.acceptAdvance (u8 r.pay 0) x (some r.deferred) (u32 r.pay 8) false
        | none => s) h (by
      simp only [epochAdvance, consume_ownSet, own]
      rw [if_neg (by simp [live]), if_neg (by simp [idle]), if_neg (by simp [next]), if_neg, registered] <;> try rfl
      rcases journal with e | e <;> simp [e])
    rw [State.deferred_core, there] at after
    exact after
  · intro k x d retain own s
    rfl
  · intro r x s h own live busy
    refine serve_fail h ?_ nofun
    simp only [epochAdvance, consume_ownSet, own]
    rw [if_neg (by simp [live]), if_pos busy]
  · intro k x a s there advance phase
    refine congrArg Host.Outcome.next (State.updSet_of _ _ there ?_)
    rw [advance]
    exact if_pos phase
  · intro k x a s there advance phase l
    have run : exec (.epochCatchupDone k) s = .next (s.caughtUp k x a
        ((l.any fun e => s.slotLost x e.1 e.2.1 e.2.2) || (x.journal ≠ 0 && !s.journalThere x.journal))) := by
      change execEpochCatchupDone k s = _
      unfold execEpochCatchupDone
      rw [there]
      dsimp only
      rw [advance]
      exact congrArg Host.Outcome.next (if_neg (by simp [phase]))
    rw [run]
    refine ⟨fun kept journal => congrArg Host.Outcome.next (if_neg ?_), fun lost => congrArg Host.Outcome.next (if_pos ?_)⟩
    · have sound : (l.any fun e => s.slotLost x e.1 e.2.1 e.2.2) = false := List.any_eq_false.mpr fun e h => by simp [kept e h]
      rw [sound]
      rcases journal with e | e <;> simp [e]
    · rw [Bool.or_eq_true, List.any_eq_true]
      exact lost.imp id fun h => by simp [h.1, h.2]
  · intro r x s h own
    refine serve_okay h ?_
    simp only [epochQuery, consume_ownSet, own, consume_epochBytes]
end

section
/-! SUPPORT. Reflow sessions and journals (07). -/
namespace Sys2Proof.Machine
open Sys2Proof

section
variable (s : State) (via : Via)

theorem consume_reflowTable (v : Nat) (p : Bytes) : (s.consume via).reflowTable v p = s.reflowTable v p := by
  unfold State.reflowTable
  rw [consume_ownSet, State.consume_core]

theorem consume_session (k : Nat) (track : Bool) : (s.consume via).session k track = s.session k track := by
  unfold State.session
  rw [State.consume_core]

theorem consume_adoptedTable (k : Nat) (h : Bytes) : (s.consume via).adoptedTable k h = s.adoptedTable k h := by
  unfold State.adoptedTable
  rw [State.consume_core]

theorem consume_trackOf (v j : Nat) : (s.consume via).trackOf v j = s.trackOf v j := by
  unfold State.trackOf
  rw [State.consume_core]

theorem consume_journalSet (j : Nat) : (s.consume via).journalSet j = s.journalSet j := by
  unfold State.journalSet
  rw [State.consume_core]

theorem consume_reflowBytes (j : Nat) : (s.consume via).reflowBytes j = s.reflowBytes j := by
  obtain ⟨a, b, c, d, e⟩ := State.consume_frame s via
  rw [e]
  rfl

end

section
variable {field : Req → State → Option Nat} {run : Req → State → TSet → Table → Res} {r : Req} {s : State} {x : TSet} {t : Table}

/-- What a start of a session does where its table is there. -/
theorem reflowStart_run (own : s.reflowTable r.via.mbx r.pay = some (x, t)) (live : x.destroying = false)
    (kept : t.destroying = false) : (reflowStart field run).run r (s.consume r.via) = run r (s.consume r.via) x t := by
  unfold reflowStart
  dsimp only
  rw [consume_reflowTable, own]
  exact if_neg (by simp [live, kept])

end

end Sys2Proof.Machine
end

section
/-! PROOFS. The statement about reflow sessions (07). -/
open Sys2Proof Sys2Proof.Machine

/-- Settles O38: the request leaves sets, tables, sessions and journals as they were. -/
theorem reflowSessions : Obligations.ReflowSessions := by
  unfold Obligations.ReflowSessions
  refine ⟨?_, ?_, ?_, ?_, ?_, ?_⟩
  · intro r x t s h plan own live kept
    refine ⟨fun u idle journal clean registered => ?_, fun busy => ?_⟩
    all_goals refine (serveIf_picked h (picks := fun r => u8 r.pay 1 ≠ 1) (by simpa using plan)).trans ?_
    · refine serve_pend h ((reflowStart_run own live kept).trans ?_)
      simp only [startPlan, consume_session, idle]
      rw [if_neg (by simp), if_neg, if_neg (by simp [clean]), registered]
      rcases journal with e | e <;> simp [e]
    · refine serve_fail h ((reflowStart_run own live kept).trans ?_) nofun
      simp only [startPlan, consume_session]
      exact if_pos busy
  · intro r x t s h track own live kept y
    refine ⟨fun idle => ?_, fun busy => ?_⟩
    all_goals refine (serveIf_picked h (picks := fun r => u8 r.pay 1 = 1) (by simpa using track)).trans ?_
    · refine serve_pend h ((reflowStart_run own live kept).trans ?_)
      simp only [startTrack, consume_session, idle, State.consume_core]
      exact if_neg (by simp)
    · refine serve_fail h ((reflowStart_run own live kept).trans ?_) nofun
      simp only [startTrack, consume_session]
      exact if_pos busy
  · intro k y x t s session set serving table
    refine ⟨fun there => ?_, fun gone => ?_⟩
    all_goals
      change execReflowStepCopied k s = _
      unfold execReflowStepCopied
      rw [session, set]
      dsimp only
      rw [if_neg (by simp [serving])]
    · rw [if_neg (by simp [there]), table]
    · rw [if_pos (by simp [gone])]
  · intro r hd x t u s h j header own table live kept idle newest journal registered
    refine serve_pending (after := fun s => s.endIfDone (u8 hd 7)) h ?_
    unfold reflowResume
    dsimp only
    rw [header]
    dsimp only
    rw [consume_ownSet, own, consume_adoptedTable, table]
    dsimp only
    rw [if_neg (by simp [live, kept]), consume_session, idle, if_neg (by simp), if_neg, registered]
    rcases journal with e | e <;> simp [e, newest, j]
  · intro r s h j
    refine ⟨fun some_ plain => ⟨fun n x y set open_ => ?_, fun n x set idle => ?_, fun none_ => ?_⟩,
      fun track => ⟨fun none_ => ?_, fun y one => ?_, fun several => ?_⟩⟩
    · refine serve_pending (after := fun s => s.abandon y r.deferred) h ?_
      unfold reflowAbandon
      dsimp only
      rw [if_neg (by simp [j] at plain some_; simp [plain, some_]), consume_journalSet, set]
      dsimp only
      rw [consume_session, open_]
    · refine serve_okay h ?_
      unfold reflowAbandon
      dsimp only
      rw [if_neg (by simp [j] at plain some_; simp [plain, some_]), consume_journalSet, set]
      dsimp only
      rw [consume_session, idle]
    · refine serve_okay h ?_
      unfold reflowAbandon
      dsimp only
      rw [if_neg (by simp [j] at plain some_; simp [plain, some_]), consume_journalSet, none_]
    · refine serve_okay h ?_
      unfold reflowAbandon
      dsimp only
      rw [if_pos (by simpa using track), consume_trackOf, none_]
    · refine serve_pending (after := fun s => (s.doneOpt y.done .ok 0 (zeros 16)).done r.deferred .ok 0 []) h ?_
      unfold reflowAbandon
      dsimp only
      rw [if_pos (by simpa using track), consume_trackOf, one]
    · refine serve_fail h ?_ nofun
      unfold reflowAbandon
      dsimp only
      rw [if_pos (by simpa using track), consume_trackOf]
      match s.trackOf r.via.mbx j, several with
      | _ :: _ :: _, _ => rfl
  · intro r s h
    refine serve_okay h ?_
    simp only [reflowQuery, consume_reflowBytes]
end

section
/-! PROOFS. The statement about the states of a Pass link (14). -/
open Sys2Proof Sys2Proof.Machine

/-- Settles O39: every command of a link acts in its own state of the link alone. -/
theorem passBringUp : Obligations.PassBringUp := by
  unfold Obligations.PassBringUp
  refine ⟨?_, ?_, ?_, ?_, ?_, ?_, ?_, ?_, ?_, ?_, ?_, ?_, ?_, ?_⟩
  · intro p s st serves
    exact congrArg Host.Outcome.next (if_pos (by simp [st, serves]))
  · intro p failed s st few
    refine congrArg Host.Outcome.next (if_neg ?_)
    rcases st with st | st <;> simp [st, few]
  · intro p s st
    exact congrArg Host.Outcome.next (if_pos (by simp [st]))
  · intro p s st
    exact congrArg Host.Outcome.next ((if_neg (by simp [st])).trans (if_pos (by simp [st])))
  · intro p n s st
    exact congrArg Host.Outcome.next (if_neg (by simp [st]))
  · intro p s st
    exact congrArg Host.Outcome.next (if_pos (by simp [st]))
  · intro p s st greeted
    exact congrArg Host.Outcome.next (if_pos (by simp [st, greeted]))
  · intro p m s st own
    exact congrArg Host.Outcome.next ((if_neg (by simp [st])).trans (if_pos own))
  · intro p m s st other
    exact congrArg Host.Outcome.next ((if_neg (by simp [st])).trans (if_neg other))
  · intro p n m s t sends
    exact congrArg Host.Outcome.next (if_pos sends)
  · intro p n sent m s t u half there
    constructor
    · intro st
      refine congrArg Host.Outcome.next ?_
      unfold State.echoAnswer
      dsimp only
      rw [there]
      exact if_pos (by simp [t] at st; simp [st])
    · intro st few
      refine congrArg Host.Outcome.next ?_
      unfold State.echoAnswer
      dsimp only
      rw [there]
      exact (if_neg (by simp [t] at st; simp [st])).trans (if_pos (by simp [t] at st few; simp [st, few]))
  · intro p s st greeted trips serves t
    refine ⟨fun free => ?_, fun x held => ?_⟩
    all_goals
      unfold State.tryUp
      dsimp only
      rw [if_neg (by simp [st, greeted, trips, serves])]
    · rw [free]
    · rw [held]
  · intro p s st
    exact congrArg Host.Outcome.next (if_pos (by simp [st]))
  · intro p s st
    exact congrArg Host.Outcome.next (if_neg (by simp [st]))
end

section
/-! SUPPORT. What a request leaves of the Pass fabric (14). -/
namespace Sys2Proof.Machine
open Sys2Proof

section
variable (s : State) (via : Via)

theorem consume_plink (p : Nat) : (s.consume via).plink p = s.plink p := by
  unfold State.plink
  rw [State.consume_links]

theorem consume_unscheduled (b : Bytes) : (s.consume via).unscheduled b = s.unscheduled b := by
  obtain ⟨a, b, c, d, e⟩ := State.consume_frame s via
  rw [e]
  rfl

theorem consume_fabricBytes : (s.consume via).fabricBytes = s.fabricBytes := by
  obtain ⟨a, b, c, d, e⟩ := State.consume_frame s via
  rw [e]
  rfl

theorem consume_linkBytes (p : Nat) : (s.consume via).linkBytes p = s.linkBytes p := by
  obtain ⟨a, b, c, d, e⟩ := State.consume_frame s via
  rw [e]
  rfl

end

end Sys2Proof.Machine
end

section
/-! PROOFS. The statement about the messages of the Pass fabric (14). -/
open Sys2Proof Sys2Proof.Machine

/-- Settles O40: the request leaves the links and the fabric that it names as they were. -/
theorem passMessages : Obligations.PassMessages := by
  unfold Obligations.PassMessages
  refine ⟨?_, ?_, ?_, ?_, ?_, ?_, ?_, ?_⟩
  · intro r s h l
    refine ⟨fun st => serve_okay h ?_, fun st => serve_fail h ?_ nofun, fun st free => serve_pend h ?_,
      fun st taken => serve_fail h ?_ nofun, fun st => ?_⟩
    · simp only [passLinkEnable, consume_plink, show (s.plink (u8 r.pay 0)).st = _ from st]
    · simp only [passLinkEnable, consume_plink, show (s.plink (u8 r.pay 0)).st = _ from st]
    · simp only [passLinkEnable, consume_plink, show (s.plink (u8 r.pay 0)).st = _ from st]
      exact if_neg (by simp [l] at free; simp [free])
    · simp only [passLinkEnable, consume_plink, show (s.plink (u8 r.pay 0)).st = _ from st]
      exact if_pos taken
    · have run : passLinkEnable.run r (s.consume r.via) = (if l.encrypt == bit (u8 r.pay 1) 0 && l.identity == bit (u8 r.pay 1) 1
          then Res.okay (s.consume r.via) else Res.fail (s.consume r.via) .conflict) := by
        unfold passLinkEnable
        dsimp only
        rw [consume_plink]
        split
        · next e => simp [l, e] at st
        · next e => simp [l, e] at st
        · next e => simp [l, e] at st
        · rfl
      split
      · next same => exact serve_okay h (run.trans (if_pos (by simp [same])))
      · next other => exact serve_fail h (run.trans (if_neg (by simpa using other))) nofun
  · intro r s h p st t u w
    have run : passLinkDisable.run r (s.consume r.via) = {
        s := u, st := .pending, after := fun s => if bit (u8 r.pay 1) 0 then s.endLink p true else s } := by
      unfold passLinkDisable
      dsimp only
      split
      · next e => rw [consume_plink] at e; simp [p, e] at st
      · next e => rw [consume_plink] at e; simp [p, e] at st
      · next e => rw [consume_plink] at e; simp [p, e] at st
      · simp only [u, t, p, ← consume_plink s r.via, State.updLink, State.consume_now]
    exact serve_pending (after := fun s => if bit (u8 r.pay 1) 0 then s.endLink p true else s) h run
  · intro r s h p l st
    refine serve_pending (after := fun s =>
      let s := match l.shut.held with
        | some h => s.done h.1 .conflict 0 []
        | none => s
      if bit (u8 r.pay 1) 0 then s.endLink p true else s) h ?_
    unfold passLinkDisable
    dsimp only
    rw [consume_plink, show (s.plink (u8 r.pay 0)).st = _ from st] <;> rfl
  · intro r s h st
    refine serve_okay h ?_
    unfold passLinkDisable
    dsimp only
    rw [consume_plink]
    simp only [List.mem_cons, List.not_mem_nil, or_false] at st
    rcases st with e | e <;> rw [e]
  · intro r s h
    refine serve_okay h ?_
    simp only [passLinkQuery, consume_fabricBytes, consume_linkBytes]
  · intro r s h c
    refine ⟨fun none_ newer served => serve_pend h ?_, fun waits => serve_fail h ?_ nofun, fun none_ older => serve_fail h ?_ nofun⟩
    · simp only [passScheduleSet, State.consume_fabric, consume_unscheduled, none_, served]
      rw [if_neg nofun, if_neg (by omega), if_neg nofun]
    · simp only [passScheduleSet, State.consume_fabric, waits]
      exact if_pos trivial
    · simp only [passScheduleSet, State.consume_fabric, none_]
      rw [if_neg nofun, if_pos older]
  · intro r s h c
    refine ⟨fun none_ newer => serve_pend h ?_, fun waits => serve_fail h ?_ nofun, fun none_ older => serve_fail h ?_ nofun⟩
    · simp only [passRouteSet, State.consume_fabric, none_]
      rw [if_neg nofun, if_neg (by omega)]
    · simp only [passRouteSet, State.consume_fabric, waits]
      exact if_pos trivial
    · simp only [passRouteSet, State.consume_fabric, none_]
      rw [if_neg nofun, if_pos older]
  · intro r s h free one k set
    refine serve_then (after := fun s => s.tryUp (u8 r.pay 0)) (st := .ok) (d := 0) (pay := []) h ?_ nofun
    unfold passKeySet
    dsimp only
    rw [consume_plink, if_neg]
    rcases one with e | e <;> simp [free, e]
end

section
/-! SUPPORT. Frames that a Pass port takes (14). -/
namespace Sys2Proof.Machine
open Sys2Proof

/-- What a frame does of itself, once its errors are counted. -/
def State.takeFrame (s : State) (port : Nat) (f : Bytes) (failed : List Nat) (buffer : Option Nat) : State :=
  match (s.plink port).decrypt f with
  | none => s.authFailed port
  | some (l, f) =>
    let s := s.updLink port fun _ => l
    if !headerValid f failed then
      (s.updLink port fun l => { l with counts := { l.counts with discarded := l.counts.discarded + 1 } }).flits port f failed buffer
    else if bit (u16 f 16) 6 then
      if (s.plink port).st == .shuttingDown then s else s.linkDown port 8
    else
      let s := s.updLink port fun l => l.header f s.now
      (s.sampleTime port f).flits port f failed buffer

/-- What follows a frame: the errors of the receive buffer and of a lane, and the count of flits. -/
def State.endFrame (s : State) (port taken : Nat) (lane buffer : Option Nat) : State :=
  let s : State := match buffer with
    | some k => s.error { source := 6, event := 2, cls := 6, unit := port, scope := 1, index := k, cmpl := 0x17 } [{ cls := 6, idx := port }]
    | none => s
  let s : State := match lane with
    | some x => if (s.plink port).st == .up then s.laneErrs port x else s
    | none => s
  (s.count (156 + port) ((s.plink port).counts.rx - taken)).flushOutbox

section
variable {s : State} {p : Nat} {f g : Bytes} {l : PassLink} {failed : List Nat} {buffer : Option Nat}

theorem State.takeFrame_unauthentic (h : (s.plink p).decrypt f = none) : s.takeFrame p f failed buffer = s.authFailed p := by
  unfold State.takeFrame
  rw [h]

section
variable (h : (s.plink p).decrypt f = some (l, g))
include h

theorem State.takeFrame_headless (bad : headerValid g failed = false) : s.takeFrame p f failed buffer =
    ((s.updLink p fun _ => l).updLink p fun l => { l with counts := { l.counts with discarded := l.counts.discarded + 1 } }).flits
      p g failed buffer := by
  unfold State.takeFrame
  rw [h]
  exact if_pos (by simp [bad])

theorem State.takeFrame_notice (good : headerValid g failed) (down : bit (u16 g 16) 6) :
    let w := s.updLink p fun _ => l
    s.takeFrame p f failed buffer = if (w.plink p).st = .shuttingDown then w else w.linkDown p 8 := by
  unfold State.takeFrame
  rw [h]
  dsimp only
  rw [if_neg (by simp [good]), if_pos down]
  simp only [beq_iff_eq]

theorem State.takeFrame_header (good : headerValid g failed) (up : bit (u16 g 16) 6 = false) :
    let w := s.updLink p fun _ => l
    s.takeFrame p f failed buffer = ((w.updLink p fun l => l.header g w.now).sampleTime p g).flits p g failed buffer := by
  unfold State.takeFrame
  rw [h]
  exact (if_neg (by simp [good])).trans (if_neg (by simp [up]))

end

end

/-- The schedule boundary that the node is at. -/
def State.atBoundary (s : State) : State := { s with fabric := { s.fabric with boundary := s.round / 1024 } }

theorem State.toBoundary_next {s : State} (behind : s.round / 1024 ≤ s.fabric.boundary) : s.toBoundary =
    (s.advanceTo (s.now + ceilDiv ((s.round / 1024 + 1) * 1024 * roundPs - s.fabricPs) 1000)).atBoundary := by
  have next : (if s.fabric.boundary ≤ s.round / 1024 then s.fabric.boundary + 1 else s.round / 1024 + 1) = s.round / 1024 + 1 := by
    split <;> omega
  unfold State.toBoundary
  dsimp only
  rw [next, if_neg (by omega)]
  rfl

theorem State.toBoundary_now {s : State} (ahead : s.fabric.boundary < s.round / 1024) : s.toBoundary = s.atBoundary := by
  unfold State.toBoundary
  dsimp only
  rw [if_pos (show s.fabric.boundary ≤ s.round / 1024 by omega), if_pos (show s.fabric.boundary + 1 ≤ s.round / 1024 by omega)]
  rfl

/-- The route table of a change. -/
def State.takeRoutes (t : State) (c : FabricChange) : State :=
  { t with fabric := { t.fabric with routeGen := c.gen, hopLimit := u8 c.bytes 0, routes := some (c.bytes.drop 4), routing := none } }

theorem execPassRouteEffective_takes {c : FabricChange} {s : State} (waits : s.fabric.routing = some c) :
    execPassRouteEffective s = .next
      (((s.advanceTo (s.now + ceilDiv (c.round * roundPs - s.fabricPs) 1000)).takeRoutes c).done c.done .ok 0 []) := by
  unfold execPassRouteEffective
  rw [waits]
  rfl

/-- A replay that is due (R541). -/
theorem execPassReplayTimer_replays {p : Nat} {s : State} (st : (s.plink p).st = .up ∨ (s.plink p).st = .shuttingDown)
    (waits : (s.plink p).unacked ≠ []) :
    let t := s.advanceTo ((s.plink p).replayAt + (s.plink p).replayNs)
    execPassReplayTimer p s = .next (if 4 ≤ (s.plink p).timerRuns && (s.plink p).st == .up then t.retrain p
      else t.updLink p fun l => { (l.replay t.now) with timerRuns := l.timerRuns + 1 }) := by
  refine congrArg Host.Outcome.next (if_neg ?_)
  rcases st with e | e <;> simp [e, waits]

end Sys2Proof.Machine
end

section
/-! PROOFS. The statement about frames, routes and rounds (14). -/
open Sys2Proof Sys2Proof.Machine

/-- Settles O41: a frame acts by what decrypting it gives, and what follows it is the same for every frame. -/
theorem passFrames : Obligations.PassFrames := by
  unfold Obligations.PassFrames
  refine ⟨?_, ?_, ?_, ?_, ?_, ?_, ?_, ?_, ?_, ?_, ?_, ?_, ?_, ?_⟩
  · intro p dest src tag cls hops kind poison m s up
    exact congrArg Host.Outcome.next (if_pos up)
  · intro p q qs s front
    change execPassPacketHoldTimeout p s = _
    unfold execPassPacketHoldTimeout
    rw [front]
  · intro q s back
    refine ⟨fun here => if_pos here, fun away lost => (if_neg away).trans ?_, fun p away near way =>
      (if_neg away).trans ((if_neg (by omega)).trans ?_)⟩
    · split
      · rfl
      · next near => rw [lost.resolve_left near]
    · rw [way]
  · intro p n c d failed lane buffer s t u fin receives
    have run : exec (.passFrameReceive p n d c failed (lane, buffer)) s =
        .next ((u.takeFrame p (fit 4160 d) failed buffer).endFrame p (t.plink p).counts.rx lane buffer) :=
      congrArg Host.Outcome.next (if_neg (by simp [t] at receives; simp [receives]))
    have ends (v : State) : v.endFrame p (t.plink p).counts.rx lane buffer = fin v := by
      unfold State.endFrame
      simp only [beq_iff_eq] <;> rfl
    rw [run, ends]
    refine ⟨fun bad => ?_, ?_⟩
    · rw [State.takeFrame_unauthentic bad]
    intro l f good w
    refine ⟨fun bad => ?_, fun valid down => ?_, fun valid up => ?_⟩
    · rw [State.takeFrame_headless good bad]
    · rw [State.takeFrame_notice good valid down]
    · rw [State.takeFrame_header good valid up]
  · intro p n c d failed lane buffer s t deaf
    exact congrArg Host.Outcome.next (if_pos (by simp [t] at deaf; simp [deaf]))
  · intro p n buf s t
    refine ⟨fun sends => ?_, fun sends => ?_, fun r mute => ?_⟩
    · exact congrArg Host.Outcome.next ((if_neg (by simp [t] at sends; simp [sends])).trans (if_neg nofun))
    · exact congrArg Host.Outcome.next ((if_neg (by simp [t] at sends; simp [sends])).trans (if_pos rfl))
    · exact congrArg Host.Outcome.next (if_pos (by simp [t] at mute; simp [mute]))
  · intro p s st waits t
    refine (execPassReplayTimer_replays st waits).trans ?_
    have kept : t.plink p = s.plink p := by
      unfold State.plink
      rw [State.advanceTo_links]
    simp only [Bool.and_eq_true, decide_eq_true_eq, beq_iff_eq, State.updLink, kept, t] at kept ⊢
  · intro s on
    exact congrArg Host.Outcome.next (if_neg on)
  · intro s
    refine ⟨fun root => if_pos root, fun leaf lone => (if_neg (by simp [leaf])).trans ?_, fun leaf son some_ => ?_⟩
    · rw [lone]
    · intro t
      obtain ⟨p, parent⟩ := Option.isSome_iff_exists.mp son
      unfold State.endRound
      rw [if_neg (by simp [leaf]), parent]
      dsimp only
      rw [if_neg some_]
      simp only [Bool.and_eq_true, decide_eq_true_eq]
      rfl
  · intro s
    rfl
  · intro s
    dsimp only
    refine ⟨fun behind => ?_, fun ahead => ?_⟩
    · rw [State.toBoundary_next behind]
      rfl
    · rw [State.toBoundary_now ahead]
      rfl
  · intro c s waits due
    unfold State.takeSchedule
    rw [waits]
    exact if_pos due
  · intro s leaf step parent run
    exact if_pos (by simp [leaf, step, parent, run])
  · intro c s waits t
    exact execPassRouteEffective_takes waits
end

section
/-! SUPPORT. Requests of peers and answers to this node (14). -/
namespace Sys2Proof.Machine
open Sys2Proof

section
variable {s : State} {src tag : Nat} {m : Bytes} (serves : s.servesPeers)
include serves

theorem State.readRequest_short (short : accessShort m false) : s.readRequest src tag m = s.sendError src tag 5 4 m :=
  (if_neg (by simp [serves])).trans (if_pos short)

theorem State.readRequest_outside (fits : accessShort m false = false) (range : s.peerRange tag (u64 m 8) (u32 m 4) = false) :
    s.readRequest src tag m = s.peerAddress src tag 5 m :=
  (if_neg (by simp [serves])).trans ((if_neg (by simp [fits])).trans (if_pos (by simp [range])))

theorem State.writeRequest_short (b : Bool) (short : accessShort m true) :
    s.writeRequest src tag m b = s.sendError src tag 7 4 m :=
  (if_neg (by simp [serves])).trans (if_pos short)

theorem State.writeRequest_outside (b : Bool) (fits : accessShort m true = false)
    (range : s.peerRange tag (u64 m 8) (u32 m 4) = false) : s.writeRequest src tag m b = s.peerAddress src tag 7 m :=
  (if_neg (by simp [serves])).trans ((if_neg (by simp [fits])).trans (if_pos (by simp [range])))

end

/-- What an answer that its operation is waiting for does. -/
def State.answered (s : State) (src kind : Nat) (msg : Bytes) (poison : Bool) (i : Nat) (m : Remote) : State :=
  if poison then (s.dropRemote i).remoteFails m 0x17
  else if kind = 2 then s.lookupAnswer src msg
  else if kind = 4 then s.signalAnswer src (answerOf kind msg).2 (u16 msg 2)
  else if kind = 6 then (s.dropRemote i).readData m (fit m.bytes (slice msg 8 m.bytes))
  else (s.dropRemote i).settle m.req

/-- The answer to a READ of clean data. -/
def State.readReply (s : State) (src tag : Nat) (msg : Bytes) : State :=
  let s := s.fetch tag (u64 msg 8) (u32 msg 4)
  s.send { dest := src, src := s.dev.nodeId, tag, kind := 6, msg := leBytes 4 (u32 msg 0) ++ zeros 4 ++ s.bytes (u64 msg 8) (u32 msg 4) }

/-- The answer to a READ of poisoned data, which is recorded. -/
def State.readPoison (s : State) (src tag : Nat) (msg : Bytes) : State :=
  let u := (memUnit (u64 msg 8)).toList
  let e : FaultEv := { source := 6, event := 3, valley := tag, scope := 1, addr := u64 msg 8, index := src }
  let e := match memUnit (u64 msg 8) with | some u => { e with cls := u.cls, unit := u.idx } | none => e
  (s.error e u).sendError src tag 5 3 msg

section
variable {s : State} {src tag : Nat} {m : Bytes}

theorem State.readPoison_unit {u : UnitRef} (unit : memUnit (u64 m 8) = some u) : s.readPoison src tag m =
    (s.error { source := 6, event := 3, valley := tag, scope := 1, addr := u64 m 8, index := src, cls := u.cls, unit := u.idx }
      [u]).sendError src tag 5 3 m := by
  unfold State.readPoison
  rw [unit]
  rfl

theorem State.readPoison_none (unit : memUnit (u64 m 8) = none) : s.readPoison src tag m =
    (s.error { source := 6, event := 3, valley := tag, scope := 1, addr := u64 m 8, index := src } []).sendError src tag 5 3 m := by
  unfold State.readPoison
  rw [unit]
  rfl

end

end Sys2Proof.Machine
end

section
/-! PROOFS. The statement about requests of peers and answers to this node (14). -/
open Sys2Proof Sys2Proof.Machine

/-- Settles O42: a request is answered by its first fault, and an answer goes to the operation that it names. -/
theorem passRequests : Obligations.PassRequests := by
  unfold Obligations.PassRequests
  refine ⟨?_, ?_, ?_, ?_, ?_, ?_, ?_⟩
  · intro src tag m s serves fits range
    have run : s.readRequest src tag m = if s.poisoned (u64 m 8) (u32 m 4) then s.readPoison src tag m else
        s.readReply src tag m :=
      (if_neg (by simp [serves])).trans ((if_neg (by simp [fits])).trans (if_neg (by simp [range])))
    dsimp only
    refine ⟨fun clean => ?_, fun u bad unit => ?_, fun bad unit => ?_⟩
    all_goals refine congrArg Host.Outcome.next (run.trans ?_)
    · exact if_neg (by simp [clean])
    · exact (if_pos bad).trans (State.readPoison_unit unit)
    · exact (if_pos bad).trans (State.readPoison_none unit)
  · intro src tag m b s serves fits range
    exact congrArg Host.Outcome.next ((if_neg (by simp [serves])).trans ((if_neg (by simp [fits])).trans (if_neg (by simp [range]))))
  · intro src tag m b s serves
    dsimp only
    exact ⟨fun short => congrArg Host.Outcome.next (State.readRequest_short serves short),
      fun short => congrArg Host.Outcome.next (State.writeRequest_short serves b short),
      fun short => congrArg Host.Outcome.next ((if_neg (by simp [serves])).trans (if_pos short)),
      fun fits range => congrArg Host.Outcome.next (State.readRequest_outside serves fits range),
      fun fits range => congrArg Host.Outcome.next (State.writeRequest_outside serves b fits range)⟩
  · intro src tag m s serves long
    have fits : ¬ m.length < 132 := Nat.not_lt.mpr long
    exact ⟨fun ok => congrArg Host.Outcome.next ((if_neg (by simp [serves])).trans ((if_neg fits).trans (if_pos ok))),
      fun bad => congrArg Host.Outcome.next ((if_neg (by simp [serves])).trans ((if_neg fits).trans (if_neg (by simp [bad]))))⟩
  · intro src kind i m x s known there
    have run (b : Bool) : exec (.passAnswerReceive src kind m b) s = .next (s.answered src kind m b i x) := by
      change Host.Outcome.next (s.answer src kind m b) = _
      unfold State.answer
      simp only [List.mem_cons, List.not_mem_nil, or_false] at known
      rw [if_neg (by rcases known with e | e | e | e <;> simp [e]), if_neg (by simp; omega)]
      dsimp only
      rw [there] <;> rfl
    rw [run, run]
    refine ⟨rfl, ?_, ?_, ?_, ?_⟩
    all_goals
      rintro rfl
      rfl
  · intro src m s
    have run : exec (.passAnswerReceive src 0x0B m false) s = .next (s.errorAnswer src m) := rfl
    rw [run]
    unfold State.errorAnswer
    simp only [Bool.or_eq_true, decide_eq_true_eq]
    refine ⟨fun i x there => ?_, fun none_ => ?_⟩
    · rw [there]
    · rw [none_]
  · intro src kind m b s other none_
    refine congrArg Host.Outcome.next ((if_neg (by simp [other])).trans ?_)
    split
    · rfl
    · dsimp only
      rw [none_]
end

section
/-! SUPPORT. The host link and the Ethernet ports (15). -/
namespace Sys2Proof.Machine
open Sys2Proof

theorem consume_ethPort (s : State) (via : Via) (p : Nat) : (s.consume via).ethPort p = s.ethPort p := by
  unfold State.ethPort
  rw [State.consume_eth]

def EthPort.bytes (e : EthPort) : Bytes :=
  leBytes 1 (b2n e.up) ++ leBytes 1 (u8 e.cfg 1) ++ zeros 2 ++ leBytes 8 e.rxDropped ++ leBytes 8 e.fullRefusals ++ leBytes 8 e.respDiscarded

/-- What HOST_LINK_QUERY answers (R595). -/
def State.hostLinkBytes (s : State) : Bytes :=
  leBytes 1 (b2n s.link.standalone) ++
    leBytes 1 (b2n s.link.up + 2 * b2n s.link.cxlActive + 4 * b2n s.link.decoder + 8 * b2n (s.pool.cfg.isSome && !s.pool.qpErr)) ++
    leBytes 1 s.link.gts ++ leBytes 1 s.link.lanes ++ leBytes 4 s.link.dlDowns ++ leBytes 8 s.basin.winOffset ++
    leBytes 8 s.basin.winSize ++ leBytes 4 s.link.aerCorr ++ leBytes 4 s.link.aerUncorr ++ leBytes 4 s.link.linesLost ++ zeros 4 ++
    (s.ethPort 0).bytes ++ (s.ethPort 1).bytes

theorem State.hostLinkBytes_length (s : State) : s.hostLinkBytes.length = 96 := by
  simp [State.hostLinkBytes, EthPort.bytes, leBytes, zeros]

theorem State.hostLinkBytes_port0 (s : State) : u8 s.hostLinkBytes 40 = leNat [BitVec.ofNat 8 (b2n (s.ethPort 0).up)] := rfl

theorem State.hostLinkBytes_port1 (s : State) : u8 s.hostLinkBytes 68 = leNat [BitVec.ofNat 8 (b2n (s.ethPort 1).up)] := rfl

/-- A byte that holds a flag reads as that flag. -/
theorem leNat_flag (b : Bool) : leNat [BitVec.ofNat 8 (b2n b)] = b2n b := by
  cases b <;> rfl

theorem bit_flag (b : Bool) : bit (leNat [BitVec.ofNat 8 (b2n b)]) 0 = b := by
  cases b <;> rfl

/-- A byte that holds four flags reads as those flags. -/
theorem bit_flags : ∀ a b c d : Bool,
    let n := leNat [BitVec.ofNat 8 (b2n a + 2 * b2n b + 4 * b2n c + 8 * b2n d)]
    bit n 0 = a ∧ bit n 1 = b ∧ bit n 2 = c ∧ bit n 3 = d := by
  decide

end Sys2Proof.Machine
end

section
/-! PROOFS. The statement about the host link and the Ethernet ports (15). -/
open Sys2Proof Sys2Proof.Machine

/-- Settles O43: what a link or a port loses is named by its own state, and the query shows the flags as they are. -/
theorem hostAndEthernetLinks : Obligations.HostAndEthernetLinks := by
  unfold Obligations.HostAndEthernetLinks
  refine ⟨?_, ?_, ?_, ?_, ?_, ?_, ?_, ?_, ?_⟩
  · intro s attached up
    exact congrArg Host.Outcome.next (if_neg (by simp [attached, up]))
  · intro gts lanes cxl flit s attached
    exact congrArg Host.Outcome.next (if_neg (by simp [attached]))
  · intro v s answers up low
    exact congrArg Host.Outcome.next (if_neg (by simp [answers, up, low]))
  · intro s attached runs up
    exact ⟨congrArg Host.Outcome.next (if_neg (by simp [attached, runs, up])),
      congrArg Host.Outcome.next (if_neg (by simp [attached, runs, up]))⟩
  · intro r s h
    obtain ⟨up, cxl, decoder, pool⟩ := bit_flags s.link.up s.link.cxlActive s.link.decoder (s.pool.cfg.isSome && !s.pool.qpErr)
    refine ⟨s.hostLinkBytes, serve_okay h (by
      simp only [hostLinkQuery, State.consume_link, State.consume_eth, State.consume_pool, State.consume_basin] <;> rfl),
      s.hostLinkBytes_length, leNat_flag _, up, cxl, decoder, pool, ?_, ?_⟩
    · exact s.hostLinkBytes_port0 ▸ bit_flag _
    · exact s.hostLinkBytes_port1 ▸ bit_flag _
  · intro p s up
    dsimp only
    refine congrArg Host.Outcome.next ((if_neg (by simp [up])).trans ?_)
    dsimp only
    rw [show (((s.updEth p fun e => { e with up := false }).event 7 5 p [] none).core.eps) = s.core.eps from
      congrArg Core.eps (State.event_posts ..).core]
    refine ite_congr (propext ?_) (fun _ => rfl) fun _ => rfl
    generalize (State.pool _).cfg = c
    cases c <;> simp
  · intro p s low eth down speed serves
    exact congrArg Host.Outcome.next (if_neg (by simp [low, eth, down, speed, serves]))
  · intro r s h
    refine serve_okay h ?_
    simp only [netPortSet, State.setPort, consume_ethPort, Bool.or_eq_true, decide_eq_true_eq]
  · intro p k target d s up runs
    have live : ¬ (!(s.ethPort p).up || !s.firmwareRuns) = true := by simp [up, runs]
    dsimp only
    refine ⟨fun other => ?_, fun known some_ own => ?_, fun known none_ => ?_⟩
    · exact congrArg Host.Outcome.next ((if_neg live).trans (if_pos other))
    · exact congrArg Host.Outcome.next ((if_neg live).trans ((if_neg (by omega)).trans (if_neg (by
        rw [Bool.or_eq_true, decide_eq_true_eq, decide_eq_true_eq]; exact fun h => h.elim some_ fun k => k own))))
    · exact congrArg Host.Outcome.next ((if_neg live).trans ((if_neg (by omega)).trans (if_pos (by
        rw [Bool.or_eq_true, decide_eq_true_eq, decide_eq_true_eq]; exact none_))))
end

section
/-! SUPPORT. Network endpoints and the pool node (15). -/
namespace Sys2Proof.Machine
open Sys2Proof

theorem consume_udpUsed (s : State) (via : Via) (e u : Nat) : (s.consume via).udpUsed e u = s.udpUsed e u := by
  have port : (s.consume via).mgmt.port = s.mgmt.port := by
    unfold State.consume
    cases via.xport <;> rfl
  have cfg : (s.consume via).mgmt.cfg = s.mgmt.cfg := by
    unfold State.consume
    cases via.xport <;> rfl
  unfold State.udpUsed
  rw [State.consume_core, port, cfg]

theorem State.updEp_of {s : State} {k : Nat} {e : Endpoint} (f g : Endpoint → Endpoint) (there : look s.core.eps k = some e)
    (same : f e = g e) : s.updEp k f = s.updEp k g := by
  unfold State.updEp
  rw [there]
  dsimp only
  rw [same]

/-- The numbers of a queue pair are free values of the device (log 4). -/
theorem State.localQp_length (s : State) : s.localQp.1.length = 8 := by
  simp [State.localQp, leBytes]

theorem State.localQp_state {s : State} {n : Nat} (drawn : s.free = n) : s.localQp.2 = { s with free := n + 2 } := by
  subst drawn
  rfl

end Sys2Proof.Machine
end

section
/-! PROOFS. The statement about network endpoints and the pool node (15). -/
open Sys2Proof Sys2Proof.Machine

/-- Settles O44: an endpoint's message reads the endpoint alone, and a rate changes by itself. -/
theorem networkEndpoints : Obligations.NetworkEndpoints := by
  unfold Obligations.NetworkEndpoints
  refine ⟨?_, ?_, ?_, ?_, ?_, ?_, ?_⟩
  · intro r c s h there free up areas
    have run : netEndpointCreate.run r (s.consume r.via) =
        (if (!(u8 r.pay 2 % 2 = 1) && (udpBad (u16 r.pay 6) || s.udpUsed (u8 r.pay 3) (u16 r.pay 6))) then
          Res.fail (s.consume r.via) .conflict
        else
          let t := (s.consume r.via).setCore { s.core with eps := put s.core.eps (u16 r.pay 0) { create := r.pay } }
          if u8 r.pay 2 % 2 = 1 then Res.okay t.localQp.2 t.localQp.1 else Res.okay t (zeros 8)) := by
      simp only [netEndpointCreate, State.consume_core, there, free, consume_ethPort, up, consume_udpUsed]
      have first : ¬ (u8 r.pay 2 < 2 && c.raCount = 0) = true := by
        rw [Bool.and_eq_true, decide_eq_true_eq, decide_eq_true_eq]
        exact fun h => areas h.1 h.2
      simp only [Option.isSome_none, Bool.not_true, Bool.false_or, Bool.eq_false_iff.mpr first]
    dsimp only
    refine ⟨fun udp ok fresh => serve_okay h (run.trans ?_), fun rdma => ?_⟩
    · rw [if_neg (by simp [ok, fresh]), if_neg (by omega)]
    · refine ⟨_, State.localQp_length ((s.consume r.via).setCore { s.core with eps := put s.core.eps (u16 r.pay 0) { create := r.pay } }),
        serve_okay h (run.trans ?_)⟩
      rw [if_neg (by simp [rdma])]
      dsimp only
      have drawn : ((s.consume r.via).setCore { s.core with eps := put s.core.eps (u16 r.pay 0) { create := r.pay } }).free = s.free :=
        State.consume_free s r.via
      rw [if_pos rdma, State.localQp_state drawn]
  · intro r e s h there used
    refine ⟨fun free open_ => serve_pending (after := fun s => s.closeEp (u16 r.pay 0)) h ?_,
      fun free closing => serve_fail h ?_ nofun, fun taken => serve_fail h ?_ nofun⟩
    all_goals simp only [netEndpointDestroy, State.consume_core, there]
    · rw [if_neg (ne_true_of_eq_false free), if_neg (by simp [open_])]
    · rw [if_neg (ne_true_of_eq_false free), if_pos closing]
    · exact if_pos taken
  · intro r s h none_
    refine serve_okay h ?_
    simp only [netEndpointDestroy, State.consume_core, none_]
  · intro n e s there rdma t
    refine ⟨fun good => ?_, congrArg Host.Outcome.next (State.updEp_of _ _ there (if_pos rdma)), fun low => ?_, fun full => ?_⟩
    · change execQueuePairError n s = _
      unfold execQueuePairError
      rw [there]
      exact congrArg Host.Outcome.next (if_pos (by simp [rdma, good]))
    · change execRoceRateRecover (some n) s = _
      unfold execRoceRateRecover
      dsimp only
      rw [there]
      exact congrArg Host.Outcome.next (if_pos (by simp [rdma, low]))
    · change execRoceRateRecover (some n) s = _
      unfold execRoceRateRecover
      dsimp only
      rw [there]
      exact congrArg Host.Outcome.next (if_neg (by simp; omega))
  · intro s
    exact ⟨rfl, fun low => congrArg Host.Outcome.next (if_pos low), fun full => congrArg Host.Outcome.next (if_neg (by omega))⟩
  · intro s some_ good
    have posts := ({ s with pool := { s.pool with qpErr := true, ops := [] } } : State).event_posts 7 4 0xFFFF [] none
    refine congrArg Host.Outcome.next ((if_neg (by simp [good]; exact some_)).trans ?_)
    dsimp only
    rw [posts.ford]
  · intro r s h
    have run : poolNodeSet.run r (s.consume r.via) =
        (if !s.link.standalone || !s.ford.rings.isEmpty then Res.fail (s.consume r.via) .conflict
        else if bit (u8 r.pay 1) 0 then Res.okay ((s.consume r.via).setPool r.pay) (zeros 8)
        else Res.okay ((s.consume r.via).setPool r.pay).localQp.2 ((s.consume r.via).setPool r.pay).localQp.1) := by
      unfold poolNodeSet
      dsimp only
      rw [State.consume_link, State.consume_ford]
    refine ⟨fun bad => serve_fail h (run.trans ?_) nofun, fun alone none_ clear => serve_okay h (run.trans ?_), fun alone none_ some_ =>
      ⟨_, State.localQp_length { s.consume r.via with pool := { cfg := some r.pay } }, serve_okay h (run.trans ?_)⟩⟩
    · exact if_pos (by simpa using bad)
    · rw [if_neg (by simp [alone, none_]), if_pos clear]
      simp only [State.setPool, clear, if_true]
    · rw [if_neg (by simp [alone, none_]), if_neg (by simp [some_])]
      have set : (s.consume r.via).setPool r.pay = { s.consume r.via with pool := { cfg := some r.pay } } := by
        simp only [State.setPool, some_, Bool.false_eq_true, if_false]
      have drawn : ({ s.consume r.via with pool := { cfg := some r.pay } } : State).free = s.free := State.consume_free s r.via
      rw [set, State.localQp_state drawn]
end

section
/-! SUPPORT. Datagrams (15). -/
namespace Sys2Proof.Machine
open Sys2Proof

/-- An update datagram holds as many records as it says, 1 to 8 (R588). -/
theorem updateSize (k l : Nat) : (!(true && (k = 0 || 8 < k || l ≠ 32 + 128 * k))) =
    (decide (1 ≤ k) && (decide (k ≤ 8) && decide (l = 32 + 128 * k))) := by
  rw [Bool.eq_iff_iff]
  simp
  omega

section
variable {s : State} {n : Nat} {e : Endpoint} {m : NetMsg} {update : Bool} (there : look s.core.eps n = some e)
  (up : (s.ethPort e.port).up) (open_ : e.closing = none) (sound : e.err = false)

/-- A message that an endpoint takes in: from the right source, with a header of its kind, and of a length that fits. -/
def Endpoint.takes (e : Endpoint) (m : NetMsg) (update : Bool) : Bool :=
  e.accepts m.addr && netHeader m.bytes (if update then 2 else 0) &&
    !(update && (u8 m.bytes 11 = 0 || 8 < u8 m.bytes 11 || m.bytes.length ≠ 32 + 128 * u8 m.bytes 11))

include there up open_ sound

theorem State.buffer_of : s.buffer n m update = if e.takes m update = false then s.dropAt n e
    else if u16 e.create 8 ≤ e.buf.length then
      if update then s.dropAt n e
      else (s.updEth e.port fun p => { p with fullRefusals := p.fullRefusals + 1 }).reply n m (segment m 4 0 1 9 0 [])
    else s.updEp n fun e => { e with buf := e.buf ++ [m], readySince := e.readySince <|> some s.now } := by
  unfold State.buffer
  rw [there]
  dsimp only
  rw [if_neg (by simp [up, open_, sound])]
  refine ite_congr (propext ?_) (fun _ => rfl) fun _ => rfl
  unfold Endpoint.takes
  cases e.accepts m.addr <;> cases netHeader m.bytes (if update then 2 else 0) <;> simp
  omega

end

/-- What starts a request that has been taken from an endpoint. -/
def State.startNet (s : State) (k : CmdKind) (q : Sq) (c : Cmd) (i : Nat) (r : Request) (hs : List Bytes) (m : NetMsg) : State :=
  match s.checkCommand k q c r with
  | some (code, d) => s.refuseCommand i r code d
  | none =>
    match respRefuse m.bytes hs with
    | some code => s.finishWith i code 0
    | none => k.run i r hs s

/-- The oldest message of an endpoint becomes a request (R586). -/
def State.admitNetHead (s : State) (n : Nat) (e : Endpoint) (m : NetMsg) (rest : List NetMsg) : State :=
  let v := n / 64
  let s := if bit (u8 m.bytes 6) 0 then s.boundary v else s
  let c := netCmd m.bytes
  let (sq, s) := s.drawNat 7
  let k := kindOf c (sq % 65536)
  let (i, s) := s.fresh
  let s := s.updEp n fun e => { e with
    buf := rest, inflight := e.inflight + 1, admitted := e.admitted + 1
    readySince := if rest.isEmpty then none else some s.now }
  let s := ((s.passTurn v (4096 + n) (u8 e.create 11)).updValley v fun x => { x with admitted := x.admitted + 1 }).count v 1
  let r : Request := {
    valley := v, ctx := e.ctx, origin := .net n i, tag := c.tag, op := k.op, arg := c.arg, inline := c.inline
    stamp := s.stampFor v e.ctx }
  let hs := (s.relocate r.stamp r.inline c.nhandle).1
  let kept : NetMsg := { m with handle := hs.getD (u8 m.bytes 7) [] }
  let s := s.setCore { s.core with reqs := put s.core.reqs i r, netReqs := put s.core.netReqs i kept }
  let k := { k with bad := fun s v c => netBad m.bytes c || k.bad s v c }
  let q : Sq := { update := false, kernel := true, ctx := e.ctx, cq := 0, ring := 0, log2 := 0, prio := 0, weight := 1, maxIn := 0 }
  s.startNet k q c i r hs m

/-- What ends an endpoint's oldest request, if it has one (R589). -/
def State.respondNet (s : State) (endpoint : Nat) : Option (Nat × Request) → State
  | none => s.closeEp endpoint
  | some (i, r) =>
    match look s.core.eps endpoint, look s.core.netReqs i with
    | some e, some m =>
      let (code, d) := s.netResult r m
      let a := (handleOf m.handle).base
      let s := if r.latch.isNone && !s.isRemote a then s.recordAccess 7 r a code else s
      let s := if d.isEmpty then s else s.fetch r.valley (localOf (handleOf m.handle).base) d.length
      let s := if !(s.ethPort e.port).up || e.err then s.updEth e.port fun p => { p with respDiscarded := p.respDiscarded + 1 }
        else (responses e m code (r.wrote && code ≠ 0) d).foldl (fun s b => s.reply endpoint m b) s
      let s := s.setCore { s.core with netReqs := del s.core.netReqs i }
      ((s.release i).sweep r.valley).closeEp endpoint
    | _, _ => (s.release i).sweep r.valley

/-- What a datagram of the management endpoint that is well formed does (R590). -/
def State.takeMgmt (s : State) (port : Nat) (addr data : Bytes) : State :=
  let n := u8 data 6
  let seq := u32 data 8
  let src := beNat (fit 16 addr) * 65536 + port
  match s.mgmt.kept.find? fun k => k.1 = n && k.2.1 = src && k.2.2.1 = seq with
  | some k => s.emit (.mgmt 1 n seq src k.2.2.2)
  | none =>
    if 8 ≤ s.mgmtWaiting n then s.mgmtDrop
    else
      let s : State := { s with mgmt := { s.mgmt with queue := s.mgmt.queue ++ [{ mbx := n, src, seq, msg := data.drop 16 }] } }
      if n = 8 then s.arrived (.network src) else s

section
variable (s : State) (n i : Nat) (r : Request) (e : Endpoint) (m : NetMsg) (code a v : Nat) (d : Bytes)

/-- The access of an ended request to what it sends is recorded, if this node made it. -/
def State.netRecord (s : State) (r : Request) (a code : Nat) : State := if r.latch.isNone && !s.isRemote a then s.recordAccess 7 r a code else s

def State.netFetch (s : State) (v a : Nat) (d : Bytes) : State := if d.isEmpty then s else s.fetch v a d.length

/-- The response leaves in its segments, or is discarded (R589). -/
def State.netSend : State :=
  if !(s.ethPort e.port).up || e.err then s.updEth e.port fun p => { p with respDiscarded := p.respDiscarded + 1 }
  else (responses e m code (r.wrote && code ≠ 0) d).foldl (fun s b => s.reply n m b) s

/-- The request of a response that has left is over. -/
def State.netEnd : State :=
  (((s.setCore { s.core with netReqs := del s.core.netReqs i }).release i).sweep r.valley).closeEp n

theorem State.netRecord_eq : s.netRecord r a code =
    if r.latch = none ∧ s.isRemote a = false then s.recordAccess 7 r a code else s :=
  ite_congr (by simp) (fun _ => rfl) fun _ => rfl

theorem State.netFetch_eq : s.netFetch v a d = if d = [] then s else s.fetch v a d.length :=
  ite_congr (by simp) (fun _ => rfl) fun _ => rfl

theorem State.netSend_eq : s.netSend n r e m code d = if (s.ethPort e.port).up ∧ e.err = false
    then (responses e m code (r.wrote && code ≠ 0) d).foldl (fun t b => t.reply n m b) s
    else s.updEth e.port fun p => { p with respDiscarded := p.respDiscarded + 1 } := by
  unfold State.netSend
  cases (s.ethPort e.port).up <;> cases e.err <;> rfl

end

theorem execDatagramResponseSend_of {s : State} {n : Nat} {x : Option (Nat × Request)}
    (oldest : s.core.reqs.find? (fun r => r.2.ended && (match r.2.origin with | .net e _ => e = n | .sq _ => false)) = x) :
    execDatagramResponseSend n s = .next (s.respondNet n x) := by
  subst oldest
  rfl

end Sys2Proof.Machine
end

section
/-! PROOFS. The statement about datagrams (15). -/
open Sys2Proof Sys2Proof.Machine

/-- Settles O45: what a datagram does is cut into its steps, each of which is stated once. -/
theorem datagrams : Obligations.Datagrams := by
  unfold Obligations.Datagrams
  refine ⟨?_, ?_, ?_, ?_, ?_, ?_, ?_⟩
  · intro n p a b e s there kind up open_ sound
    have run : exec (.requestDatagramReceive n a p (some b)) s =
        .next ((s.buffer n { addr := a, port := p, bytes := b } false).admitNet n) := by
      refine congrArg Host.Outcome.next (if_neg ?_)
      simp [there]; omega
    have takes : e.takes { addr := a, port := p, bytes := b } false = (e.accepts a && netHeader b 0) := by
      simp [Endpoint.takes]
    rw [run, State.buffer_of there up open_ sound, takes]
    refine ⟨fun bad => ?_, fun source header room => ?_, fun source header full => ?_⟩
    · rw [if_pos (by rcases bad with e | e <;> simp [e])]
    · rw [if_neg (by simp [source, header]), if_neg (Nat.not_le.mpr room)]
    · rw [if_neg (by simp [source, header]), if_pos full, if_neg (show ¬ (false = true) from nofun)]
  · intro n p a e s there kind
    exact congrArg Host.Outcome.next (if_neg (by simp [there]; omega))
  · intro n e m rest s there front admits next c l
    have run : s.admitNet n = match l with
        | x :: l => ((x :: l).foldl (fun s x => s.recall x.1 x.2 false) s).spendTurn (n / 64)
        | [] => s.admitNetHead n e m rest := by
      unfold State.admitNet
      rw [there]
      dsimp only
      rw [front]
      dsimp only
      rw [if_neg (by simp [admits, next])] <;> rfl
    constructor
    · intro held
      rw [run]
      cases hl : l with
      | nil => exact absurd hl held
      | cons x l => rfl
    · intro free
      rw [free] at run
      intro u f k t t' r hs t'' q
      have ends : s.admitNet n = t''.startNet k q c f.1 r hs m := run
      rw [ends]
      unfold State.startNet
      refine ⟨fun x bad => ?_, fun x clean refuse => ?_, fun clean accept => ?_⟩
      · rw [bad]
      · rw [clean, refuse]
      · rw [clean, accept]
  · intro n p a b e s there kind up open_ sound good
    have run : exec (.updateDatagramReceive n a p b) s = .next (s.buffer n { addr := a, port := p, bytes := b } true) := by
      refine congrArg Host.Outcome.next (if_pos ?_)
      simp [there, kind]
    have takes : e.takes { addr := a, port := p, bytes := b } true = good := by
      simp only [Endpoint.takes, if_true, updateSize, Bool.and_assoc, good]
    rw [run, State.buffer_of there up open_ sound, takes]
    refine ⟨fun fits room => ?_, fun bad => ?_⟩
    · rw [if_neg (by simp [fits]), if_neg (Nat.not_le.mpr room)]
    · split
      · rfl
      · next fits => rw [if_pos (bad.resolve_left fits), if_pos rfl]
  · intro n i r e m s oldest there kept d a t1 t2 t3
    refine (execDatagramResponseSend_of oldest).trans (congrArg Host.Outcome.next ?_)
    have run : s.respondNet n (some (i, r)) =
        (((s.netRecord r a d.1).netFetch r.valley (localOf a) d.2).netSend n r e m d.1 d.2).netEnd n i r := by
      unfold State.respondNet
      dsimp only
      rw [there, kept]
      rfl
    rw [run, State.netRecord_eq, State.netFetch_eq, State.netSend_eq]
    rfl
  · intro n s none_
    exact execDatagramResponseSend_of none_
  · intro q p a d s alone port serves up on src k good again t
    have serves : ¬ (!s.link.standalone || s.mgmt.port.isNone || !s.networkServes || !(s.ethPort q).up || !bit (u8 s.mgmt.cfg 0) q) = true := by
      simp [alone, port, serves, up, on]
    have run : exec (.mgmtDatagramReceive q a p d) s = .next (if good then s.takeMgmt p a d else s.mgmtDrop) := by
      have parts : good = (inPrefix (u8 s.mgmt.cfg 6) (fit 16 a) (slice s.mgmt.cfg 8 16) &&
          !(d.length < 32 || u32 d 0 ≠ 0x54474D4F || u8 d 4 ≠ 1 || u8 d 5 ≠ 0 || 8 < u8 d 6)) := by
        rw [Bool.eq_iff_iff]
        simp only [good, k, Bool.and_eq_true, decide_eq_true_eq, Bool.not_eq_true', Bool.or_eq_false_iff, decide_eq_false_iff_not,
          Nat.not_lt, Classical.not_not]
        grind
      change execMgmtDatagramReceive q a p d s = _
      unfold execMgmtDatagramReceive
      dsimp only
      rw [if_neg serves, parts]
      cases inPrefix (u8 s.mgmt.cfg 6) (fit 16 a) (slice s.mgmt.cfg 8 16) with
      | false => rfl
      | true =>
        rw [if_neg (show ¬ (!true) = true from nofun), Bool.true_and]
        cases d.length < 32 || u32 d 0 ≠ 0x54474D4F || u8 d 4 ≠ 1 || u8 d 5 ≠ 0 || 8 < u8 d 6 <;> rfl
    rw [run]
    refine ⟨fun bad => ?_, fun x fits twice => ?_, fun fits once full => ?_, fun fits once room => ?_⟩
    · rw [if_neg (ne_true_of_eq_false bad)]
    all_goals
      rw [if_pos fits]
      unfold State.takeMgmt
      dsimp only
    · rw [show s.mgmt.kept.find? _ = some x from twice]
    · rw [show s.mgmt.kept.find? _ = none from once]
      exact congrArg Host.Outcome.next (if_pos full)
    · rw [show s.mgmt.kept.find? _ = none from once]
      exact congrArg Host.Outcome.next (if_neg (Nat.not_le.mpr room))
end

section
/-! SUPPORT. The messages and commands of Ford (16). -/
namespace Sys2Proof.Machine
open Sys2Proof

section
variable (s : State) (via : Via)

theorem consume_ring (n : Nat) : (s.consume via).ring n = s.ring n := by
  unfold State.ring
  rw [State.consume_ford]

theorem consume_ringRead (a n : Nat) : (s.consume via).ringRead a n = s.ringRead a n := by
  obtain ⟨a, b, c, d, e⟩ := State.consume_frame s via
  rw [e]
  rfl

theorem consume_ringLost (a n : Nat) : (s.consume via).ringLost a n = s.ringLost a n := by
  obtain ⟨a, b, c, d, e⟩ := State.consume_frame s via
  rw [e]
  rfl

theorem consume_shardsOn (a n : Nat) : (s.consume via).shardsOn a n = s.shardsOn a n := by
  unfold State.shardsOn
  rw [State.consume_ford]

theorem consume_shardConflict (v : Nat) (x : Ring) (p : Bytes) : (s.consume via).shardConflict v x p = s.shardConflict v x p := by
  obtain ⟨a, b, c, d, e⟩ := State.consume_frame s via
  rw [e]
  rfl

theorem ringHeader_congr {s t : State} (h : t.dev = s.dev) (n : Nat) (x : Ring) : t.ringHeader n x = s.ringHeader n x := by
  unfold State.ringHeader
  rw [h]

end

section
variable {s : State} {op n : Nat} {r : Request} {x : Ring} (there : s.ring (u8 (r.fordDesc n) 0) = some x)
include there

/-- A command of Ford whose format or shard will not do is refused after its generation was checked (R616). -/
theorem fordRefuse_of : fordRefuse op n s r = if s.isRetired 8 0 then some (0x0D, 0)
    else if op ≤ 0x22 ∧ x.gen ≠ r.stamp.personality then some (0x0A, 0)
    else if (op = 0x20 ∧ offersFmt r.stamp.personality (u8 (r.fordDesc n) 13) = false) ∨
        (op = 0x21 ∧ offersFmt r.stamp.personality (u8 (r.fordDesc n) 3) = false) ∨
        (op ≠ 0x21 ∧ op ≠ 0x22 ∧ s.fordShard r.valley (r.fordDesc n) = none) then some (0x16, 0)
    else if x.st = 3 then some (0x15, 0) else none := by
  unfold fordRefuse
  dsimp only
  rw [there]
  dsimp only
  simp only [Bool.and_eq_true, Bool.or_eq_true, decide_eq_true_eq, Bool.not_eq_true', Option.isNone_iff_eq_none, ne_eq]
  refine ite_congr rfl (fun _ => rfl) fun _ => ite_congr rfl (fun _ => rfl) fun _ => ?_
  by_cases bad : op = 0x20 ∧ offersFmt r.stamp.personality (u8 (r.fordDesc n) 13) = false ∨
    op = 0x21 ∧ offersFmt r.stamp.personality (u8 (r.fordDesc n) 3) = false
  · rw [if_pos bad, if_pos (bad.imp_right .inl)]
  · rw [if_neg bad]
    refine ite_congr (propext ⟨fun ⟨⟨h, k⟩, l⟩ => .inr (.inr ⟨h, k, l⟩), ?_⟩) (fun _ => rfl) fun _ => rfl
    rintro (h | h | ⟨h, k, l⟩)
    · exact absurd (.inl h) bad
    · exact absurd (.inr h) bad
    · exact ⟨⟨h, k⟩, l⟩

end

/-- What a command of Ford does once the places of its data are known. -/
def State.fordBegin (s : State) (i op a : Nat) (r : Request) (hs : List Bytes) (d : Bytes) (x : Shard) :
    Except Nat Nat → Except Nat Nat → State
  | .error c, _ => (s.recordFord r hs (u8 d 16) (u32 d 20) c).finishWith i c 0xFFFF
  | _, .error c => (s.recordFord r hs (u8 d 24) (u32 d 28) c).finishWith i c 0xFFFF
  | .ok src, .ok dst =>
    let gen := ((s.ring (u8 d 0)).map Ring.gen).getD 84
    let s := if a = 0 then s else s.fetch r.valley src a
    let data := if op = 0x20 then .ok (s.bytes src a)
      else if op = 0x21 then .ok (toVector gen (u8 d 3) (u32 d 8) (s.bytes src a))
      else if op = 0x23 then s.putRows gen x src (u64 d 32) (u32 d 8) else .ok []
    let j : FordJob := { ring := u8 d 0, desc := d, src, dst, shard := x, room := (handleOf (hs.getD (u8 d 24) [])).len - u32 d 28 }
    match data with
    | .error k =>
      let s := s.error { source := 8, event := 4, cls := 8, valley := r.valley, ctx := r.ctx, scope := 1, cmpl := 0x12, addr := src
                         index := u64 d 32 + k } [{ cls := 8, idx := 0 }]
      ({ s with ford := { s.ford with jobs := put s.ford.jobs i j } }).fordEnd i 0x12
    | .ok data => ({ s with ford := { s.ford with jobs := put s.ford.jobs i { j with data } } }).fordPump j.ring

theorem fordKind_run (op n i : Nat) (r : Request) (hs : List Bytes) (s : State) :
    let d := r.fordDesc n
    let x := (s.fordShard r.valley d).getD []
    (fordKind op n).run i r hs s = s.fordBegin i op (fordSizes op d x).1 r hs d x
      (if op = 0x22 || op = 0x24 then .ok 0 else s.fordRange r hs (u8 d 16) (u32 d 20) (fordSizes op d x).1 false)
      (if op = 0x21 || op = 0x23 then .ok 0 else s.fordRange r hs (u8 d 24) (u32 d 28) (fordSizes op d x).2 true) := rfl

section
variable {s : State} {i op n a : Nat} {r : Request} {hs : List Bytes} {d : Bytes} {x : Shard}

/-- A lookup, a send, a receive and a get of rows take their data as it is. -/
theorem State.fordBegin_data {src dst : Nat} {data : Bytes}
    (h : let t := if a = 0 then s else s.fetch r.valley src a
      let gen := ((s.ring (u8 d 0)).map Ring.gen).getD 84
      (if op = 0x20 then (.ok (t.bytes src a) : Except Nat Bytes)
        else if op = 0x21 then .ok (toVector gen (u8 d 3) (u32 d 8) (t.bytes src a))
        else if op = 0x23 then t.putRows gen x src (u64 d 32) (u32 d 8) else .ok []) = .ok data) :
    let t := if a = 0 then s else s.fetch r.valley src a
    let j : FordJob := { ring := u8 d 0, desc := d, src, dst, shard := x, room := (handleOf (hs.getD (u8 d 24) [])).len - u32 d 28 }
    s.fordBegin i op a r hs d x (.ok src) (.ok dst) =
      ({ t with ford := { t.ford with jobs := put t.ford.jobs i { j with data } } }).fordPump j.ring := by
  unfold State.fordBegin
  dsimp only at h ⊢
  rw [h]

theorem State.fordBegin_badRow {src dst k : Nat} (puts : op = 0x23)
    (h : (if a = 0 then s else s.fetch r.valley src a).putRows (((s.ring (u8 d 0)).map Ring.gen).getD 84) x src (u64 d 32) (u32 d 8) =
      .error k) :
    let t := (if a = 0 then s else s.fetch r.valley src a).error {
      source := 8, event := 4, cls := 8, valley := r.valley, ctx := r.ctx, scope := 1, cmpl := 0x12, addr := src
      index := u64 d 32 + k } [{ cls := 8, idx := 0 }]
    let j : FordJob := { ring := u8 d 0, desc := d, src, dst, shard := x, room := (handleOf (hs.getD (u8 d 24) [])).len - u32 d 28 }
    s.fordBegin i op a r hs d x (.ok src) (.ok dst) =
      ({ t with ford := { t.ford with jobs := put t.ford.jobs i j } }).fordEnd i 0x12 := by
  subst puts
  unfold State.fordBegin
  dsimp only
  rw [if_neg (by omega), if_neg (by omega), if_pos rfl, h]

end

section
variable {s : State} {n i : Nat} {j : FordJob} {q : Request} (alone : s.fordJobs n = [(i, j)])

theorem State.fordPump_testing (h : s.testing 8 0) : s.fordPump n = s := if_pos h

include alone

theorem State.fordPump_one (h : s.testing 8 0 = false) : s.fordPump n = s.fordTry i := by
  unfold State.fordPump
  rw [if_neg (by simp [h]), alone]
  rfl

theorem State.fordJobs_ring : j.ring = n := by
  have there : (i, j) ∈ s.fordJobs n := by simp [alone]
  exact of_decide_eq_true (List.mem_filter.mp there).2

end

theorem State.ringWrite_ring (s : State) (r a n : Nat) (d : Bytes) : (s.ringWrite r a d).ring n = s.ring n := by
  unfold State.ringWrite
  split
  · rfl
  · rw [State.writeThrough_dataOnly s (hostBase + a) d]
    rfl

/-- The posting of a command's entry, with room for its data and its answer in its ring `z` (R619). -/
def State.fordPosted (s : State) (i : Nat) (j : FordJob) (x : Ring) (r : Request) (o q : Nat) (z : Ring) : State :=
  let len := j.data.length
  let rspLen := fordRspLen x.gen r.op j.desc j.shard
  let xid := s.ford.nextXid
  let job := { j with posted := true }
  let s := s.setRing j.ring z
  let s := { s with ford := { s.ford with nextXid := (xid + 1) % 2 ^ 32, jobs := put s.ford.jobs i job, turn := j.ring / 16 } }
  let s := if len = 0 then s else s.ringWrite j.ring (x.base + o) j.data
  let rest := fordEntry r.op xid j.desc j.shard (if len = 0 then 0 else x.base + o) len rspLen (if rspLen = 0 then 0 else x.base + q)
  match s.ring j.ring with
  | some z => s.outEntry j.ring z (fordOut r.op) (if r.op = 0x20 && bit (u8 j.desc 2) 0 then 2 else 0) 0 x.gen rest
  | none => s

theorem State.fordPosted_eq {s : State} {i o q : Nat} {j : FordJob} {x z : Ring} {r : Request} :
    let t := s.setRing j.ring z
    let t := { t with ford := { t.ford with
      nextXid := (s.ford.nextXid + 1) % 2 ^ 32, jobs := put s.ford.jobs i { j with posted := true }, turn := j.ring / 16 } }
    let t := if j.data.length = 0 then t else t.ringWrite j.ring (x.base + o) j.data
    let rspLen := fordRspLen x.gen r.op j.desc j.shard
    s.fordPosted i j x r o q z = t.outEntry j.ring z (fordOut r.op) (if r.op = 0x20 && bit (u8 j.desc 2) 0 then 2 else 0) 0 x.gen
      (fordEntry r.op s.ford.nextXid j.desc j.shard (if j.data.length = 0 then 0 else x.base + o) j.data.length rspLen
        (if rspLen = 0 then 0 else x.base + q)) := by
  intro t t2 t3 rspLen
  have kept : t3.ring j.ring = some z := by
    have first : t2.ring j.ring = some z := look_put_self ..
    simp only [t3]
    split
    · exact first
    · exact (State.ringWrite_ring ..).trans first
  have run : s.fordPosted i j x r o q z = match t3.ring j.ring with
      | some z => t3.outEntry j.ring z (fordOut r.op) (if r.op = 0x20 && bit (u8 j.desc 2) 0 then 2 else 0) 0 x.gen
        (fordEntry r.op s.ford.nextXid j.desc j.shard (if j.data.length = 0 then 0 else x.base + o) j.data.length rspLen
          (if rspLen = 0 then 0 else x.base + q))
      | none => t3 := rfl
  rw [run, kept]

end Sys2Proof.Machine
end

section
/-! PROOFS. The statement about the messages and commands of Ford (16). -/
open Sys2Proof Sys2Proof.Machine

/-- Settles O46: the five commands of Ford are one, and a message reads the ring that it names as it was. -/
theorem fordCommands : Obligations.FordCommands := by
  unfold Obligations.FordCommands
  refine ⟨?_, ?_, ?_, ?_, ?_, ?_, ?_, ?_, ?_, ?_, ?_, ?_⟩
  · intro r s h v new unfit
    refine ⟨fun none_ => serve_fail h ?_ nofun, fun p there => ⟨fun same => serve_okay h ?_, fun other bad => serve_fail h ?_ nofun,
      fun other good fit => serve_pending (after := fun s => s.boundaryIfStopped v) h ?_⟩⟩
    all_goals
      unfold fordPersonalitySet
      dsimp only
      rw [State.consume_profile]
    · rw [show s.profile (u8 r.pay 0) = _ from none_]
    all_goals
      rw [show s.profile (u8 r.pay 0) = _ from there]
      dsimp only
      rw [consume_nextPersonality]
    · rw [if_pos same]
    · rw [if_neg other, if_pos]
      rw [State.consume_core, Bool.or_eq_true, Bool.and_eq_true, decide_eq_true_eq, decide_eq_true_eq]
      exact bad
    · rw [if_neg other, if_neg]
      rw [State.consume_core, Bool.or_eq_true, Bool.and_eq_true, decide_eq_true_eq, decide_eq_true_eq]
      rintro (⟨e, k⟩ | bad)
      · exact good.elim e k
      · exact absurd bad (ne_true_of_eq_false fit)
  · intro r s h n x hd taken
    have run : fordRingCreate.run r (s.consume r.via) =
        if (s.ring n).isSome || s.ringLost x.base x.bytes || (!s.link.standalone && !s.link.cxlEnabled) ||
            (u32 hd 0 = 0x44524F46 && u8 hd 5 = 1 && u8 hd 8 ≠ s.dev.nodeId && !bit (u8 r.pay 3) 0) then Res.fail (s.consume r.via) .conflict
        else if 64 ≤ s.ford.rings.length then Res.fail (s.consume r.via) .noResource
        else (Res.okay ((((s.consume r.via).setRing n x).ringWrite n x.base (s.ringHeader n x)).ringWrite n (x.base + 4096)
          (zeros (128 * x.size)))).work r := by
      unfold fordRingCreate
      dsimp only
      rw [ringHeader_congr (t := (s.consume r.via).setRing _ _) (State.consume_dev s r.via)]
      simp only [consume_ring, consume_ringRead, consume_ringLost, State.consume_link, State.consume_now, State.consume_dev,
        State.consume_ford]
      rfl
    have refused : ((s.ring n).isSome || s.ringLost x.base x.bytes || (!s.link.standalone && !s.link.cxlEnabled) ||
        (u32 hd 0 = 0x44524F46 && u8 hd 5 = 1 && u8 hd 8 ≠ s.dev.nodeId && !bit (u8 r.pay 3) 0)) = true ↔
        s.ring n ≠ none ∨ s.ringLost x.base x.bytes ∨ (s.link.standalone = false ∧ s.link.cxlEnabled = false) ∨ taken := by
      simp only [taken, Bool.or_eq_true, Bool.and_eq_true, decide_eq_true_eq, Bool.not_eq_true', Option.isSome_iff_ne_none, or_assoc,
        and_assoc]
    refine ⟨fun bad => serve_fail h (run.trans (if_pos (refused.mpr bad))) nofun, fun none_ there linked free => ?_⟩
    have good := run.trans (if_neg (mt refused.mp (by
      rintro (k | k | k | k)
      · exact k none_
      · exact absurd k (ne_true_of_eq_false there)
      · simp [k] at linked
      · exact free k)))
    refine ⟨fun full => serve_fail h (good.trans (if_pos full)) nofun, fun room => ?_⟩
    exact serve_work h (good.trans (if_neg (by omega)))
  · intro r s h n
    refine ⟨fun none_ => serve_okay h ?_, fun x there busy => serve_fail h ?_ nofun, fun x there idle => ?_⟩
    · unfold fordRingDestroy
      dsimp only
      rw [consume_ring, show s.ring (u8 r.pay 0) = _ from none_]
    · unfold fordRingDestroy
      dsimp only
      rw [consume_ring, show s.ring (u8 r.pay 0) = _ from there]
      exact if_pos busy
    · refine serve_pending (after := fun s => (((s.fordJobs n).filter fun j => !j.2.posted).foldl (fun s j => s.fordEnd j.1 0x0E) s).closeRing n)
        h ?_
      unfold fordRingDestroy
      dsimp only
      rw [consume_ring, show s.ring (u8 r.pay 0) = _ from there]
      dsimp only
      rw [if_neg idle, consume_ringLost]
  · intro n x s there closing empty
    unfold State.closeRing
    rw [there]
    exact if_pos (by simp [closing, empty])
  · intro r s h k
    refine ⟨fun clear => serve_okay h ?_, fun some_ none_ => serve_fail h ?_ nofun, fun x some_ there =>
      ⟨fun bad => serve_fail h ?_ nofun, fun opened fits => serve_okay h ?_⟩⟩
    all_goals
      unfold fordShardSet
      dsimp only
    · rw [if_pos clear, State.consume_ford]
    all_goals rw [if_neg some_, consume_ring]
    · rw [none_]
    · rw [there]
      exact if_pos (by rw [consume_shardConflict]; simpa using bad)
    · rw [there]
      dsimp only
      rw [if_neg (by rw [consume_shardConflict]; simp [opened, fits]), State.consume_ford]
  · intro r s h n ans seen
    refine ⟨fun all => serve_okay h ?_, fun one none_ => serve_okay h ?_, fun x one there => serve_okay h ?_⟩
    all_goals
      unfold fordQuery
      dsimp only
    · rw [if_pos all]
      simp only [State.consume_ford, consume_shardsOn]
      rfl
    all_goals rw [if_neg one, consume_ring]
    · rw [show s.ring (u8 r.pay 0) = _ from none_]
    · rw [show s.ring (u8 r.pay 0) = _ from there]
      dsimp only
      rw [consume_shardsOn]
  · rintro n _ op q s rfl head k l t
    have run : s.admitOp k n = .next t := by
      refine congrArg Host.Outcome.next ((State.admitHead_of head (decide_eq_true head.op)).trans ?_)
      simp only [t]
      cases hl : l <;> simp only [l] at hl <;> rw [hl] <;> rfl
    exact ⟨by rintro rfl; exact run, by rintro rfl; exact run, by rintro rfl; exact run, by rintro rfl; exact run,
      by rintro rfl; exact run⟩
  · intro op n r s d
    refine ⟨fun none_ => ?_, fun x there => ?_⟩
    · unfold fordRefuse
      dsimp only
      rw [show s.ring (u8 (r.fordDesc n) 0) = _ from none_]
    · intro other bad
      rw [fordRefuse_of there]
      exact ⟨fun gone => if_pos gone, fun live o => (if_neg (by simp [live])).trans (if_pos o),
        fun live same b => (if_neg (by simp [live])).trans ((if_neg same).trans (if_pos b)),
        fun live same good => (if_neg (by simp [live])).trans ((if_neg same).trans (if_neg good))⟩
  · intro i op n r hs s d x z src dst go
    have run : go = s.fordBegin i op z.1 r hs d x src dst := fordKind_run op n i r hs s
    refine ⟨fun c bad => ?_, fun a c good bad => ?_, fun a b goodSrc goodDst => ?_⟩
    · rw [run, bad]
      cases dst <;> rfl
    · rw [run, good, bad]
      rfl
    rw [run, goodSrc, goodDst]
    intro t gen j put
    refine ⟨fun k => ?_, fun k => ?_, fun k => ?_, fun data k rows => ?_, fun e k bad => ?_⟩
    · exact State.fordBegin_data (if_pos k)
    · exact State.fordBegin_data ((if_neg (by omega)).trans (if_pos k))
    · exact State.fordBegin_data ((if_neg (by omega)).trans ((if_neg (by omega)).trans (if_neg (by omega))))
    · exact State.fordBegin_data ((if_neg (by omega)).trans ((if_neg (by omega)).trans ((if_pos k).trans rows)))
    · exact State.fordBegin_badRow k bad
  · intro n i j x q s alone job request ring
    have tries := State.fordPump_one alone
    have own := State.fordJobs_ring alone
    refine ⟨State.fordPump_testing, fun live posted => (tries live).trans ?_, fun live waits other => (tries live).trans ?_,
      fun h live waits recv room held => (tries live).trans ?_⟩
    all_goals
      unfold State.fordTry
      rw [job, request]
    · exact if_pos posted
    · exact (if_neg (by simp [waits])).trans (if_neg other)
    · refine (if_neg (by simp [waits])).trans ((if_pos recv).trans ?_)
      rw [own, ring]
      dsimp only
      rw [held]
      exact if_neg (by simp [room])
  · intro i o p j x r s ring request st room few free there len rsp y place place' xid job e z
    obtain ⟨exch, converted⟩ : (if rsp = 0 then y else y.take none p rsp).exch = x.exch ∧
        (if rsp = 0 then y else y.take none p rsp).converted = x.converted := by
      have first : y.exch = x.exch ∧ y.converted = x.converted := by
        simp only [y]
        split <;> exact ⟨rfl, rfl⟩
      split <;> exact first
    have same : z = { (if rsp = 0 then y else y.take none p rsp) with
        exch := put (if rsp = 0 then y else y.take none p rsp).exch xid e
        converted := (if rsp = 0 then y else y.take none p rsp).converted + len } := by
      rw [exch, converted]
    have run : s.fordPost i j = s.fordPosted i j x r o p z := by
      rw [same]
      unfold State.fordPost
      rw [ring, request]
      dsimp only
      rw [if_neg (by simp [st, room, free]; omega), show x.place j.data.length = some o from place]
      dsimp only
      rw [show Ring.place _ _ = some p from place']
      exact if_neg (by simp [there])
    rw [run]
    exact State.fordPosted_eq
  · intro i code j r s job request
    unfold State.fordEnd
    rw [job, request]
end

section
/-! SUPPORT. Entries of Ford's rings (16). -/
namespace Sys2Proof.Machine
open Sys2Proof

section
variable {r : Nat} {x : Ring} {e : Bytes} {s t : State} {ops : Nat → Bool} {f : Ring → Bytes → State → State}

theorem Incoming.onEntry (h : Incoming r x e t s) (own : ops (entOp e)) : s.onEntry r ops f = f x e t := by
  obtain ⟨awake, running, rfl, ring, entry, readable⟩ := h
  unfold State.onEntry
  rw [if_neg (by rcases awake with a | a <;> simp [a, running])]
  dsimp only
  rw [ring, entry]
  exact (if_neg (by simp [readable])).trans (if_pos own)

end

section
variable {r ans key : Nat} {x : Ring} {e : Bytes} {w : Bool} {t : State} {y : TSet} {b : Table}
  {f : Nat → Table → Nat → State → State × Nat × Bytes}

theorem State.serveLocal_full (full : x.full) : t.serveLocal r ans x e w f = t := if_pos full

variable (room : x.full = false)
include room

theorem State.serveLocal_bad (bad : entBad x e) : t.serveLocal r ans x e w f = (t.takeIn r).fordAnswer r e ans 6 [] :=
  (if_neg (by simp [room])).trans (if_pos bad)

variable (good : entBad x e = false)
include good

theorem State.serveLocal_tableless (none_ : t.localTable r e = none) :
    t.serveLocal r ans x e w f = (t.takeIn r).fordAnswer r e ans 1 [] := by
  unfold State.serveLocal
  rw [if_neg (by simp [room]), if_neg (by simp [good]), none_]

variable (there : t.localTable r e = some (y, key, b))
include there

theorem State.serveLocal_gone (st : epochStatus y (entEpoch e) = some 2) :
    t.serveLocal r ans x e w f = (t.takeIn r).fordAnswer r e ans 2 [] := by
  unfold State.serveLocal
  rw [if_neg (by simp [room]), if_neg (by simp [good]), there]
  dsimp only
  rw [st] <;> rfl

theorem State.serveLocal_early (st : epochStatus y (entEpoch e) = some 3) :
    t.serveLocal r ans x e w f = if w then (t.takeIn r).fordAnswer r e ans 3 [] else t := by
  unfold State.serveLocal
  rw [if_neg (by simp [room]), if_neg (by simp [good]), there]
  dsimp only
  rw [st] <;> rfl

theorem State.serveLocal_format (st : epochStatus y (entEpoch e) = none) (none_ : offers (entGen e) b.fmt b.group = false) :
    t.serveLocal r ans x e w f = (t.takeIn r).fordAnswer r e ans 8 [] := by
  unfold State.serveLocal
  rw [if_neg (by simp [room]), if_neg (by simp [good]), there]
  dsimp only
  rw [st]
  exact if_pos (by simp [none_])

theorem State.serveLocal_rows (st : epochStatus y (entEpoch e) = none) (offered : offers (entGen e) b.fmt b.group) :
    t.serveLocal r ans x e w f = let a := f key b (if entEpoch e = 0 then y.newest else entEpoch e) (t.takeIn r)
      a.1.fordAnswer r e ans a.2.1 a.2.2 := by
  unfold State.serveLocal
  rw [if_neg (by simp [room]), if_neg (by simp [good]), there]
  dsimp only
  rw [st]
  exact if_neg (by simp [offered])

end

section
variable {rd : Reader} {key epoch row : Nat} {b : Table} {s : State} (there : s.mapThere rd b) (within : row < b.rows)

theorem State.localRow_mapless (gone : s.mapThere rd b = false) : (s.localRow rd key b epoch row).2 = .error 4 :=
  congrArg Prod.snd (if_pos (by simp [gone]))

include there

theorem State.localRow_beyond (beyond : b.rows ≤ row) : s.localRow rd key b epoch row = (s, .error 5) :=
  (if_neg (by simp [there])).trans (if_pos beyond)

include within

theorem State.localRow_entry (clean : s.poisoned (b.map + 16 * (row / 2 ^ b.shift) + 8 * (epoch % 2)) 8 = false) :
    let u := s.fetch rd.valley (b.map + 16 * (row / 2 ^ b.shift) + 8 * (epoch % 2)) 8
    let m := u.mapEntry b (row / 2 ^ b.shift) epoch
    s.localRow rd key b epoch row =
      if badEntry6 m then (u, .error 4) else if isT3 m then (u, .error 1)
      else if tierOf m = 0 then
        match (u.updTable key fun t => { t with missing := t.missing + 1 }).readDefault rd b with
        | (s, some x) => (s, .ok x)
        | (s, none) => (s, .error 4)
      else match u.readRow rd b (baseOf m) (row % 2 ^ b.shift) row with
        | (s, some x) => (s, .ok x)
        | (s, none) => (s, .error 4) :=
  (if_neg (by simp [there])).trans ((if_neg (Nat.not_le.mpr within)).trans (if_neg (ne_true_of_eq_false clean)))

theorem State.localRow_poisoned (bad : s.poisoned (b.map + 16 * (row / 2 ^ b.shift) + 8 * (epoch % 2)) 8) :
    (s.localRow rd key b epoch row).2 = .error 4 :=
  congrArg Prod.snd ((if_neg (by simp [there])).trans ((if_neg (Nat.not_le.mpr within)).trans (if_pos bad)))

end

theorem State.updRing_link (s : State) (r : Nat) (f : Ring → Ring) : (s.updRing r f).link = s.link := by
  unfold State.updRing
  split <;> rfl

theorem State.updRing_of {s : State} {r : Nat} {x : Ring} (f g : Ring → Ring) (there : s.ring r = some x) (same : f x = g x) :
    s.updRing r f = s.updRing r g := by
  unfold State.updRing
  rw [there]
  dsimp only
  rw [same]

theorem State.readEntries_ring (s : State) (r n : Nat) (x : Ring) (prod : W32) : (s.readEntries r x prod).ring n = s.ring n := by
  unfold State.readEntries
  split <;> rfl

theorem execPoolRdmaCompletion_of {d : Bytes} {o : RdmaOp} {l : List RdmaOp} {s : State} (ops : s.pool.ops = o :: l) :
    execPoolRdmaCompletion d s = .next (
      if o.write || s.pool.qpErr then { s with pool := { s.pool with ops := l } } else
      let t := { s with pool := { s.pool with ops := l, mem := wrN s.pool.mem o.off (fit o.bytes d) } }
      if o.what = 0 then t.pollDone o.ring
      else if o.what = 1 then
        if entryOkCrc (t.ringRead o.off 64) then t.readData2 o.ring (t.ringRead o.off 64) else t
      else t) := by
  unfold execPoolRdmaCompletion
  rw [ops]

/-- What a vector that has been taken in does: a receive of its tag takes it, or it is held (R628). -/
def State.vecTaken (s : State) (r : Nat) (x : Ring) (e : Bytes) : Option (Nat × FordJob) → State
  | some (i, j) => s.vecGive i j e
  | none =>
    if 256 ≤ x.held.length then s.vecAck r e 7
    else s.updRing r fun y => { y with held := y.held ++ [e] }

/-- What an answer that has been taken in does to the exchange that it names (R620). -/
def State.takeAnswer (s : State) (r : Nat) (x : Ring) (e : Bytes) (dp : Bool) : Option Exchange → State
  | some y =>
    if entOp e ≠ y.op + 1 then s
    else if s.ringLost y.rspAt (max 1 y.rspLen) then s.ringError r
    else ((s.fordFinish r x y e dp).fordPump r).closeRing r
  | none => s.updRing r fun y => { y with late := y.late + 1 }

/-- What an answer's data does: it is stored, or its code ends the command. -/
def State.fordResult (s : State) (r : Nat) (y : Exchange) (q : Request) : Except Nat Bytes → State
  | .error c => (s.updRing r fun y => { y with inexact := y.inexact + b2n (c == 9) }).fordEnd y.req (ringCode c)
  | .ok d =>
    let (s, code) := s.fordStore q y.req y.job d
    (s.updRing r fun z => { z with converted := z.converted + y.rspLen }).fordEnd y.req code

theorem State.fordFinish_of {r : Nat} {x : Ring} {y : Exchange} {e : Bytes} {dp : Bool} {q : Request} {s : State}
    (request : look (s.dropExchange r (entXid e)).core.reqs y.req = some q) : let t := s.dropExchange r (entXid e)
    s.fordFinish r x y e dp = if dp then
        (t.error { source := 8, event := 6, cls := 8, valley := q.valley, ctx := q.ctx, scope := 1, cmpl := 0x17 }
          [{ cls := 8, idx := 0 }]).fordEnd y.req 0x17
      else if entStatus e ≠ 0 then t.fordEnd y.req (ringCode (entStatus e))
      else t.fordResult r y q (y.result x.gen (t.ringRead y.rspAt y.rspLen)) := by
  unfold State.fordFinish
  dsimp only
  rw [request]
  dsimp only
  unfold State.fordResult
  cases y.result x.gen ((s.dropExchange r (entXid e)).ringRead y.rspAt y.rspLen) <;> rfl

end Sys2Proof.Machine
end

section
/-! PROOFS. The statement about the entries of Ford's rings (16). -/
open Sys2Proof Sys2Proof.Machine

/-- Settles O47: an entry is looked at once, and what serves a lookup serves a get of rows. -/
theorem fordEntries : Obligations.FordEntries := by
  unfold Obligations.FordEntries
  refine ⟨?_, ?_, ?_, ?_, ?_, ?_, ?_, ?_, ?_, ?_, ?_, ?_, ?_, ?_, ?_⟩
  · intro r x s ring polls t t2
    have run (goes : s.link.standalone ∨ s.pwr.d3hot = false) : exec (.fordRingPoll r) s = .next (
        if t2.link.standalone then
          if t2.ringLost x.base 512 then t2.ringError r
          else { t2 with pool := { t2.pool with ops := t2.pool.ops ++ [{ write := false, ring := r, off := x.base, bytes := 256 }] } }
        else t2.pollDone r) := by
      change execFordRingPoll r s = _
      unfold execFordRingPoll
      rw [ring]
      dsimp only
      rw [if_neg (by rcases goes with g | g <;> simp [polls, g])]
    have same : t2.link.standalone = s.link.standalone :=
      congrArg Link.standalone ((State.updRing_link ..).trans (State.advanceTo_link ..))
    refine ⟨fun hosted awake => ?_, fun alone lost => ?_, fun alone kept => ?_⟩
    · rw [run (.inr awake), if_neg (by simp [same, hosted])]
    · rw [run (.inl alone), if_pos (same.trans alone), if_pos lost]
    · rw [run (.inl alone), if_pos (same.trans alone), if_neg (ne_true_of_eq_false kept)]
  · intro r x s ring
    refine ⟨fun lost => ?_, fun kept => ?_, fun open_ => ?_⟩
    · unfold State.pollDone
      rw [ring]
      exact if_pos lost
    · unfold State.pollDone
      rw [ring]
      dsimp only
      rw [if_neg (ne_true_of_eq_false kept)]
      have there : (s.readEntries r x (BitVec.ofNat 32 (u32 (s.ringRead (x.base + 192) 4) 0))).ring r = some x :=
        (State.readEntries_ring ..).trans ring
      exact congrArg (State.fordPump · r) (State.updRing_of _ _ there rfl)
    · unfold State.ringError
      rw [ring]
      exact if_neg open_
  · intro d o l s ops
    dsimp only
    refine ⟨fun ended => ?_, fun read sound => ?_⟩
    · exact (execPoolRdmaCompletion_of ops).trans (congrArg Host.Outcome.next (if_pos (by simpa using ended)))
    · have run := (execPoolRdmaCompletion_of (d := d) ops).trans (congrArg Host.Outcome.next (if_neg (by simp [read, sound])))
      exact ⟨fun what => run.trans (congrArg Host.Outcome.next (if_pos what)),
        fun what => run.trans (congrArg Host.Outcome.next ((if_neg (by omega)).trans (if_pos what))),
        fun what => run.trans (congrArg Host.Outcome.next ((if_neg (by omega)).trans (if_neg (by omega))))⟩
  · intro r w x e t s h room
    dsimp only
    have lookup : entOp e = 1 → exec (.fordInLookup r w) s =
        .next (t.serveLocal r 2 x e w fun key t epoch s => s.localLookup r e key t epoch) :=
      fun op => congrArg Host.Outcome.next (h.onEntry (by simp [op]))
    have get : entOp e = 3 → exec (.fordInRowGet r w) s =
        .next (t.serveLocal r 4 x e w fun key t epoch s => s.localGet r e key t epoch) :=
      fun op => congrArg Host.Outcome.next (h.onEntry (by simp [op]))
    refine ⟨fun bad => ⟨fun op => ?_, fun op => ?_⟩, fun good none_ => ⟨fun op => ?_, fun op => ?_⟩, fun y key b good there =>
      ⟨fun st => ⟨fun op => ?_, fun op => ?_⟩, fun st ended => ⟨fun op => ?_, fun op => ?_⟩, fun st waits => ⟨fun op => ?_, fun op => ?_⟩,
       fun st bad => ⟨fun op => ?_, fun op => ?_⟩, fun st offered => ⟨fun op => ?_, fun op => ?_⟩⟩⟩
    · rw [lookup op, State.serveLocal_bad room bad]
    · rw [get op, State.serveLocal_bad room bad]
    · rw [lookup op, State.serveLocal_tableless room good none_]
    · rw [get op, State.serveLocal_tableless room good none_]
    · rw [lookup op, State.serveLocal_gone room good there st]
    · rw [get op, State.serveLocal_gone room good there st]
    · rw [lookup op, State.serveLocal_early room good there st, if_pos ended]
    · rw [get op, State.serveLocal_early room good there st, if_pos ended]
    · rw [lookup op, State.serveLocal_early room good there st, if_neg (by simp [waits])]
    · rw [get op, State.serveLocal_early room good there st, if_neg (by simp [waits])]
    · rw [lookup op, State.serveLocal_format room good there st bad]
    · rw [get op, State.serveLocal_format room good there st bad]
    · rw [lookup op, State.serveLocal_rows room good there st offered]
    · rw [get op, State.serveLocal_rows room good there st offered]
  · intro r key epoch e b s
    dsimp only
    refine ⟨fun bad => ?_, fun fit good => ?_, fun bad => ?_⟩
    · refine if_pos ?_
      simp only [Bool.or_eq_true, decide_eq_true_eq, or_assoc]
      exact bad
    · refine (if_neg ?_).trans (if_pos (by simp [good]))
      simp only [Bool.or_eq_true, decide_eq_true_eq, or_assoc]
      exact fit
    · refine if_pos ?_
      simp only [Bool.or_eq_true, decide_eq_true_eq, or_assoc]
      exact bad
  · intro rd key epoch row b s
    dsimp only
    refine ⟨State.localRow_mapless, State.localRow_beyond, State.localRow_poisoned, fun there within clean => ?_⟩
    have run := State.localRow_entry (key := key) (epoch := epoch) there within clean
    refine ⟨fun bad => run.trans (if_pos bad), fun good t3 => run.trans ((if_neg (by simp [good])).trans (if_pos t3)),
      fun v d good plain tier read => run.trans ((if_neg (by simp [good])).trans ((if_neg (by simp [plain])).trans
        ((if_neg tier).trans ?_)))⟩
    rw [read]
    cases d <;> rfl
  · intro r x e t s h op room u taker
    have run : exec (.fordInVec r) s = .next (if entBad x e then u.vecAck r e 6 else u.vecTaken r x e taker) :=
      congrArg Host.Outcome.next ((h.onEntry (by simp [op])).trans (if_neg (by simp [room])))
    rw [run]
    refine ⟨fun bad => ?_, fun good => ?_⟩
    · rw [if_pos bad]
    rw [if_neg (ne_true_of_eq_false good)]
    refine ⟨fun i j one => ?_, fun none_ full => ?_, fun none_ space => ?_⟩
    · rw [one]
      rfl
    · rw [none_]
      exact congrArg Host.Outcome.next (if_pos full)
    · rw [none_]
      exact congrArg Host.Outcome.next (if_neg (Nat.not_le.mpr space))
  · intro i j e q s request
    dsimp only
    have same : (entCount e ≠ u32 j.desc 8 || entLen e < vecBytes (entFmt e) (entCount e) ||
        !offersFmt q.stamp.personality (entFmt e)) = true ↔
        entCount e ≠ u32 j.desc 8 ∨ entLen e < vecBytes (entFmt e) (entCount e) ∨
          offersFmt q.stamp.personality (entFmt e) = false := by
      simp only [Bool.or_eq_true, decide_eq_true_eq, Bool.not_eq_true', or_assoc]
    refine ⟨fun bad => ?_, fun t c fits store => ?_⟩
    all_goals
      unfold State.vecGive
      rw [request]
      dsimp only
    · exact if_pos (same.mpr bad)
    · rw [if_neg (mt same.mp fits), store]
  · intro i j d q s some_
    dsimp only
    refine ⟨fun small => ?_, fun fits gone => ?_, fun fits there => ?_⟩
    all_goals refine (if_neg (by simpa using some_)).trans ?_
    · exact if_pos small
    · exact (if_neg (Nat.not_lt.mpr fits)).trans (if_pos (by simp [gone]))
    · exact (if_neg (Nat.not_lt.mpr fits)).trans (if_neg (by simp [there]))
  · intro r x e t s h room
    refine ⟨fun op => ?_, fun op => ?_⟩
    · exact congrArg Host.Outcome.next ((h.onEntry (by simp [op])).trans ((if_neg (by simp [room])).trans (if_pos op)))
    · exact congrArg Host.Outcome.next ((h.onEntry (by simp; omega)).trans ((if_neg (by simp [room])).trans (if_neg (by omega))))
  · intro r w x e t s h full
    refine ⟨fun op => ?_, fun op => ?_, fun op => ?_, fun op => ?_⟩
    · exact congrArg Host.Outcome.next ((h.onEntry (by simp [op])).trans (if_pos full))
    · exact congrArg Host.Outcome.next ((h.onEntry (by simp [op])).trans (if_pos full))
    · exact congrArg Host.Outcome.next ((h.onEntry (by simp [op])).trans (if_pos full))
    · exact congrArg Host.Outcome.next ((h.onEntry (by simp; omega)).trans (if_pos full))
  · intro r dp x e t s h op u
    have run : exec (.fordInAnswer r dp) s = .next (u.takeAnswer r x e dp (look x.exch (entXid e))) := by
      refine congrArg Host.Outcome.next ((h.onEntry ?_).trans ?_)
      · simpa [or_assoc] using op
      · unfold State.takeAnswer
        cases look x.exch (entXid e) <;> rfl
    rw [run]
    refine ⟨fun none_ => ?_, fun y there => ⟨fun other => ?_, fun own lost => ?_, fun own kept => ?_⟩⟩
    · rw [none_]
      rfl
    all_goals rw [there]
    · exact congrArg Host.Outcome.next (if_pos other)
    · exact congrArg Host.Outcome.next ((if_neg (by simp [own])).trans (if_pos lost))
    · exact congrArg Host.Outcome.next ((if_neg (by simp [own])).trans (if_neg (ne_true_of_eq_false kept)))
  · intro r dp x y e q s t request
    have run := State.fordFinish_of (r := r) (x := x) (dp := dp) request
    refine ⟨fun bad => run.trans (if_pos bad), fun good st => run.trans ((if_neg (by simp [good])).trans (if_pos st)), fun good st => ?_⟩
    have reads := run.trans ((if_neg (by simp [good])).trans (if_neg (by simp [st])))
    refine ⟨fun c bad => reads.trans ?_, fun d ok => reads.trans ?_⟩
    · rw [bad]
      rfl
    · rw [ok]
      split
      · next none_ =>
        rw [none_]
        rfl
      · rfl
  · intro r xid x y s ring there
    change execFordExchangeTimeout r xid s = _
    unfold execFordExchangeTimeout
    rw [ring]
    dsimp only
    rw [there]
  · intro c
    rfl
end

section
/-! SUPPORT. The messages of Canyon (17). -/
namespace Sys2Proof.Machine
open Sys2Proof

section
variable (s : State) (via : Via)

theorem consume_cynCtx (c : Nat) : (s.consume via).cynCtx c = s.cynCtx c := by
  unfold State.cynCtx
  rw [State.consume_cyn]

theorem consume_t1OrHost (v a n : Nat) : (s.consume via).t1OrHost v a n = s.t1OrHost v a n := by
  obtain ⟨a, b, c, d, e⟩ := State.consume_frame s via
  rw [e]
  rfl

theorem consume_poisoned (a n : Nat) : (s.consume via).poisoned a n = s.poisoned a n := by
  obtain ⟨a, b, c, d, e⟩ := State.consume_frame s via
  rw [e]
  rfl

theorem consume_keyBusy (c slot : Nat) : (s.consume via).keyBusy c slot = s.keyBusy c slot := by
  unfold State.keyBusy State.cynJobs
  rw [State.consume_cyn]

theorem consume_triple (x : CynCtx) (i : Nat) : (s.consume via).triple x i = s.triple x i := by
  unfold State.triple
  rw [State.consume_mem]

theorem consume_triples (x : CynCtx) (st : Nat) : (s.consume via).triples x st = s.triples x st := by
  unfold State.triples
  simp only [consume_triple]

theorem consume_cynPipes (v : Nat) : (s.consume via).cynPipes v = s.cynPipes v := by
  obtain ⟨a, b, c, d, e⟩ := State.consume_frame s via
  rw [e]
  rfl

theorem consume_cynJobs (c : Nat) : (s.consume via).cynJobs c = s.cynJobs c := by
  unfold State.cynJobs
  rw [State.consume_cyn]

end

theorem u8_cynPay (p : Bytes) : u8 (cynPay p) 0 = u8 p 0 := by
  cases p <;> rfl

/-- An answer that is given at once, with nothing to follow it. -/
def Res.Now (r : Res) : Prop := r.after = id ∧ r.st ≠ .pending

theorem Res.Now.whole {r : Res} (h : r.Now) : r = ⟨r.s, r.st, r.detail, r.pay, id⟩ := by
  rw [← h.1]

theorem Res.Now.ite {p : Prop} [Decidable p] {a b : Res} (h : a.Now) (k : b.Now) : (if p then a else b).Now := by
  split
  · exact h
  · exact k

theorem Res.okay_now (s : State) (b : Bytes) : (Res.okay s b).Now := ⟨rfl, nofun⟩

theorem State.enableCyn_now (s : State) (p : Bytes) : (s.enableCyn p).Now := by
  unfold State.enableCyn
  refine .ite ⟨rfl, nofun⟩ (.ite ⟨rfl, nofun⟩ ?_)
  cases badLimb _ _
  · exact Res.okay_now ..
  · exact ⟨rfl, nofun⟩

/-- What an enabling meets that is in conflict (R644). -/
def State.cynClash (s : State) (p : Bytes) : Bool :=
  let c := u8 p 0
  let v := c / 8
  let share := u8 p 1 = 2
  let mine := cynAreas p
  let others := (s.cyn.ctxs.filter fun x => x.1 / 8 = v).flatMap fun x => cynAreas x.2.pay
  ((s.profile v).map fun q => q.cynPipes.toNat).getD 0 = 0 || (look s.core.ctxs (ctxKey v (u16 p 2))).isNone ||
    (share && u64 p 24 ≠ 0) || (!share && !s.t1OrHost v (u64 p 8) (8 * u8 p 5)) ||
    mine.any (fun a => !s.inRegion v a.1 a.2 || s.claimed v a.1 a.2 || others.any fun b => overlaps a.1 a.2 b.1 b.2)

theorem State.cynClash_iff (s : State) (p : Bytes) : let v := u8 p 0 / 8
    let others := (s.cyn.ctxs.filter fun x => x.1 / 8 = v).flatMap fun x => cynAreas x.2.pay
    s.cynClash p ↔ ((s.profile v).map fun q => q.cynPipes.toNat).getD 0 = 0 ∨ look s.core.ctxs (ctxKey v (u16 p 2)) = none ∨
      (u8 p 1 = 2 ∧ u64 p 24 ≠ 0) ∨ (¬u8 p 1 = 2 ∧ s.t1OrHost v (u64 p 8) (8 * u8 p 5) = false) ∨
      (cynAreas p).any (fun a => !s.inRegion v a.1 a.2 || s.claimed v a.1 a.2 || others.any fun b => overlaps a.1 a.2 b.1 b.2) := by
  simp only [State.cynClash, Bool.or_eq_true, Bool.and_eq_true, decide_eq_true_eq, Bool.not_eq_true', Option.isNone_iff_eq_none,
    decide_eq_false_iff_not, or_assoc]

end Sys2Proof.Machine
end

section
/-! PROOFS. The statement about the messages of Canyon (17). -/
open Sys2Proof Sys2Proof.Machine

/-- Settles O48: the request leaves the context that it names, and what it reads, as they were. -/
theorem canyonMessages : Obligations.CanyonMessages := by
  unfold Obligations.CanyonMessages
  refine ⟨?_, ?_, ?_, ?_, ?_, ?_, ?_, ?_⟩
  · intro r s h p
    have names : u8 (cynPay r.pay) 0 = u8 r.pay 0 := u8_cynPay r.pay
    refine ⟨?_, fun x there on same => serve_okay h ?_, fun x there on other => serve_fail h ?_ nofun,
      fun x there off held => serve_fail h ?_ nofun, fun x there off free => serve_pend h ?_⟩
    · intro none_ y
      have now := (s.consume r.via).enableCyn_now p
      refine serve_then (after := id) h ?_ now.2
      unfold cynCtxEnable
      dsimp only
      rw [names, consume_cynCtx, none_]
      exact now.whole
    all_goals
      unfold cynCtxEnable
      dsimp only
      rw [names, consume_cynCtx, there]
    · exact (if_pos on).trans (if_pos same)
    · exact (if_pos on).trans (if_neg other)
    · exact (if_neg off).trans (if_pos (Option.isSome_iff_ne_none.mpr held))
    · exact (if_neg off).trans (if_neg (by simp [free]))
  · intro p s c v share others chain clash crc t t2
    have same : s.cynClash p ↔ clash := s.cynClash_iff p
    have run : s.enableCyn p = if s.cynClash p then Res.fail s .conflict
        else if s.poisoned (u64 p 8) (8 * chain.length) then Res.fail s .checkFailed 0xFFFFFFFF
        else match badLimb (2 ^ u8 p 4) chain with
        | some i => Res.fail s .checkFailed i
        | none => Res.okay (t2.setCyn c { pay := p, chain, crc, low := share }) (leBytes 4 crc ++ zeros 4) := rfl
    rw [run]
    refine ⟨fun b => if_pos (same.mpr b), fun b bad => (if_neg (mt same.mp b)).trans (if_pos bad), fun b clean =>
      ⟨fun i bad => (if_neg (mt same.mp b)).trans ((if_neg (ne_true_of_eq_false clean)).trans ?_),
       fun good => (if_neg (mt same.mp b)).trans ((if_neg (ne_true_of_eq_false clean)).trans ?_)⟩⟩
    · rw [bad]
    · rw [good]
  · intro r s h c
    refine ⟨fun none_ => serve_okay h ?_, fun x there on => serve_pend h ?_, fun x there off => ?_⟩
    · unfold cynCtxDisable
      dsimp only
      rw [consume_cynCtx, show s.cynCtx (u8 r.pay 0) = _ from none_]
    · unfold cynCtxDisable
      dsimp only
      rw [consume_cynCtx, show s.cynCtx (u8 r.pay 0) = _ from there]
      exact if_pos on
    · intro t
      have run := serve_pending (d := 0) (pay := []) (t := (s.consume r.via).setCyn c { x with shut := { dones := x.shut.dones ++ [r.deferred] } })
          (after := fun s => match x.shut.held with
        | some h => s.done h.1 .conflict 0 []
        | none => s) h (by
        unfold cynCtxDisable
        dsimp only
        rw [consume_cynCtx, show s.cynCtx (u8 r.pay 0) = _ from there]
        exact if_neg off)
      refine ⟨fun free => ?_, fun d held => ?_⟩
      · rw [free] at run
        exact run
      · rw [held] at run
        exact run
  · intro c x s there off idle t t2 t3
    have run : exec (.cynCtxShutdownDone c) s = .next (match x.shut.held with
        | none => t3
        | some (d, p) => (t3.enableCyn p).s.done d (t3.enableCyn p).st (t3.enableCyn p).detail (t3.enableCyn p).pay) := by
      change execCynCtxShutdownDone c s = _
      unfold execCynCtxShutdownDone
      rw [there]
      dsimp only
      rw [if_neg (by simp [off, idle])] <;> rcases x.shut.held with _ | ⟨d, p⟩ <;> rfl
    refine ⟨fun free => ?_, fun d p held => ?_⟩
    · rw [run, free]
    · rw [run, held]
  · intro r s h c
    refine ⟨fun none_ => serve_fail h ?_ nofun, fun x there => ?_⟩
    · unfold cynKeyLoad
      dsimp only
      rw [consume_cynCtx, show s.cynCtx (u8 r.pay 0) = _ from none_]
    · intro bad
      have same : (x.st ≠ 1 || x.mode = 2 || (!bit (u8 r.pay 2) 0 && !s.t1OrHost r.via.mbx (u64 r.pay 8) (u64 r.pay 16))) = true ↔ bad := by
        simp only [bad, Bool.or_eq_true, Bool.and_eq_true, decide_eq_true_eq, Bool.not_eq_true', or_assoc]
      refine ⟨fun b => serve_fail h ?_ nofun, fun b busy => serve_fail h ?_ nofun, fun b free => ?_⟩
      · unfold cynKeyLoad
        dsimp only
        rw [consume_cynCtx, show s.cynCtx (u8 r.pay 0) = _ from there]
        dsimp only
        rw [consume_t1OrHost, if_pos (same.mpr b)]
      · unfold cynKeyLoad
        dsimp only
        rw [consume_cynCtx, show s.cynCtx (u8 r.pay 0) = _ from there]
        dsimp only
        rw [consume_t1OrHost, if_neg (mt same.mp b), consume_keyBusy, if_pos busy]
      · refine serve_pending (after := fun s => (s.loadKey c x r.pay).1.done r.deferred (s.loadKey c x r.pay).2.1 (s.loadKey c x r.pay).2.2 []) h ?_
        unfold cynKeyLoad
        dsimp only
        rw [consume_cynCtx, show s.cynCtx (u8 r.pay 0) = _ from there]
        dsimp only
        rw [consume_t1OrHost, if_neg (mt same.mp b), consume_keyBusy, if_neg (ne_true_of_eq_false free)]
  · intro c x p s slot k t u
    refine ⟨fun clear => if_pos clear, fun load size => (if_neg (ne_true_of_eq_false load)).trans (if_pos size),
      fun load size bad => ?_, fun load size clean => ?_⟩
    all_goals refine (if_neg (ne_true_of_eq_false load)).trans ((if_neg (by simp [size, k])).trans ?_)
    · exact if_pos bad
    · exact if_neg (ne_true_of_eq_false clean)
  · intro r s h c n
    refine ⟨fun none_ => serve_fail h ?_ nofun, fun x there => ?_⟩
    · unfold cynTriplesLoad
      dsimp only
      rw [consume_cynCtx, show s.cynCtx (u8 r.pay 0) = _ from none_]
    · intro bad full
      have same : (x.st ≠ 1 || x.mode ≠ 2 || (n ≠ 0 && !s.t1OrHost r.via.mbx (u64 r.pay 8) (24 * n))) = true ↔ bad := by
        simp only [bad, Bool.or_eq_true, Bool.and_eq_true, decide_eq_true_eq, Bool.not_eq_true', or_assoc]
      have same' : (x.cap < n || (List.range n).any fun i => s.triple x (x.loadIdx + i) ≠ 0) = true ↔ full := by
        simp only [full, Bool.or_eq_true, decide_eq_true_eq]
      have run : cynTriplesLoad.run r (s.consume r.via) =
          (if x.st ≠ 1 || x.mode ≠ 2 || (n ≠ 0 && !s.t1OrHost r.via.mbx (u64 r.pay 8) (24 * n)) then Res.fail (s.consume r.via) .conflict
          else if x.cap < n || (List.range n).any fun i => s.triple x (x.loadIdx + i) ≠ 0 then Res.fail (s.consume r.via) .noResource
          else if s.poisoned (u64 r.pay 8) (24 * n) then Res.fail (s.consume r.via) .checkFailed 0xFFFFFFFF
          else
            let t := (List.range n).foldl (fun t i => (t.writeThrough (x.tripleAt (x.loadIdx + i))
              (s.bytes (u64 r.pay 8 + 24 * i) 24)).writeThrough (x.stateAt (x.loadIdx + i)) [1]) (s.consume r.via)
            Res.okay ((t.setCyn c { x with loadIdx := (x.loadIdx + n) % x.cap }).tripleLevel c)) := by
        unfold cynTriplesLoad
        dsimp only
        rw [consume_cynCtx, show s.cynCtx (u8 r.pay 0) = _ from there]
        simp only [consume_t1OrHost, consume_triple, consume_poisoned, consume_bytes]
        rfl
      refine ⟨fun b => serve_fail h (run.trans (if_pos (same.mpr b))) nofun, fun b k =>
        serve_fail h (run.trans ((if_neg (mt same.mp b)).trans (if_pos (same'.mpr k)))) nofun, fun b k p =>
        serve_fail h (run.trans ((if_neg (mt same.mp b)).trans ((if_neg (mt same'.mp k)).trans (if_pos p)))) nofun, fun b k p =>
        serve_okay h (run.trans ((if_neg (mt same.mp b)).trans ((if_neg (mt same'.mp k)).trans
          (if_neg (ne_true_of_eq_false p)))))⟩
  · intro r s h c ans
    refine ⟨fun none_ => serve_okay h ?_, fun x there => ?_⟩
    · unfold cynQuery
      dsimp only
      rw [consume_cynCtx, show s.cynCtx (u8 r.pay 0) = _ from none_, consume_cynPipes, consume_cynJobs]
      refine congrArg (fun b : Bytes => Res.okay (s.consume r.via) b) ?_
      simp [leBytes, zeros, CynCtx.mode, CynCtx.log2, CynCtx.limbs, u8, slice, leNat, maskOf, c]
    · intro n
      refine serve_okay h ?_
      unfold cynQuery
      dsimp only
      rw [consume_cynCtx, show s.cynCtx (u8 r.pay 0) = _ from there, consume_cynPipes, consume_cynJobs]
      simp only [Option.isSome_some, Bool.true_and, decide_eq_true_eq, Option.getD_some, Option.map_some, consume_triples, n, c]
end

section
/-! SUPPORT. The commands and operations of Canyon (17). -/
namespace Sys2Proof.Machine
open Sys2Proof

section
variable {s : State} {op n i : Nat} {r : Request} {hs : List Bytes} {x : CynCtx}
  (there : s.cynCtx (u8 (r.cynDesc n) 0) = some x)
include there

theorem State.cynAdmit_error {code : Nat} (args : s.cynArgs op r hs (r.cynDesc n) = .error code) :
    let d := r.cynDesc n
    s.cynAdmit op n i r hs = (if code = 0x17 then s.recordAccess 9 r (s.cynHeaderPoison r hs d) 0x17
      else if code = 0x11 then s.recordAccess 9 r (s.cynLost r hs op d) 0x11 else s).cynRefused i (u8 d 0) code false := by
  unfold State.cynAdmit
  dsimp only
  rw [there, args]

variable {a : CynArgs} (args : s.cynArgs op r hs (r.cynDesc n) = .ok a)
include args

theorem State.cynAdmit_header {code : Nat} (bad : (x.hdrRefuse a.hdr0 <|>
      if takesIn1 op (u8 (r.cynDesc n) 1) then x.hdrRefuse a.hdr1 else none) = some code) :
    s.cynAdmit op n i r hs = s.cynRefused i (u8 (r.cynDesc n) 0) code false := by
  unfold State.cynAdmit
  dsimp only
  rw [there, args]
  dsimp only
  rw [bad]

variable (good : (x.hdrRefuse a.hdr0 <|> if takesIn1 op (u8 (r.cynDesc n) 1) then x.hdrRefuse a.hdr1 else none) = none)
include good

theorem State.cynAdmit_unfit (bad : x.fits op (u8 (r.cynDesc n) 1) (b2n (bit (u8 (r.cynDesc n) 2) 0)) a.hdr0 a.hdr1 = false) :
    s.cynAdmit op n i r hs = s.cynRefused i (u8 (r.cynDesc n) 0) 0x0A false := by
  unfold State.cynAdmit
  dsimp only
  rw [there, args]
  dsimp only
  rw [good]
  exact if_pos (by simp [bad])

variable (fits : x.fits op (u8 (r.cynDesc n) 1) (b2n (bit (u8 (r.cynDesc n) 2) 0)) a.hdr0 a.hdr1)
include fits

theorem State.cynAdmit_level {code : Nat}
    (bad : (if x.mode = 0 then levelRefuse op (u8 (r.cynDesc n) 1) a.hdr0 a.hdr1 else none) = some code) :
    s.cynAdmit op n i r hs = s.cynRefused i (u8 (r.cynDesc n) 0) code true := by
  unfold State.cynAdmit
  dsimp only
  rw [there, args]
  dsimp only
  rw [good]
  dsimp only
  rw [if_neg (by simp [fits]), bad]

variable (level : (if x.mode = 0 then levelRefuse op (u8 (r.cynDesc n) 1) a.hdr0 a.hdr1 else none) = none)
include level

theorem State.cynAdmit_triples {code : Nat} (bad : s.tripleRefuse (u8 (r.cynDesc n) 0) x op a.hdr0 = some code) :
    s.cynAdmit op n i r hs = s.cynRefused i (u8 (r.cynDesc n) 0) code false := by
  unfold State.cynAdmit
  dsimp only
  rw [there, args]
  dsimp only
  rw [good]
  dsimp only
  rw [if_neg (by simp [fits]), level, bad]

/-- What a command that passes every check of Canyon does: a score gathers its rows, a mask takes its triples, and it waits. -/
theorem State.cynAdmit_passed (triples : s.tripleRefuse (u8 (r.cynDesc n) 0) x op a.hdr0 = none) :
    let d := r.cynDesc n
    let c := u8 d 0
    let j : CynJob := { valley := r.valley, ctx := c, op, desc := d, in0 := a.in0, in1 := a.in1, out0 := a.out0, out1 := a.out1
                        hdr0 := a.hdr0, hdr1 := a.hdr1, first := if op = 0x2E then x.maskIdx else hdrFirst a.hdr0 }
    s.cynAdmit op n i r hs = if op = 0x2C then
        match s.scoreGather r d x.log2 a.idx with
        | (s, .error code) => s.cynRefused i c code false
        | (s, .ok (elems, width, scales)) => { s with cyn := { s.cyn with jobs := put s.cyn.jobs i { j with elems, width, scales } } }
      else
        let s := if op = 0x2E then s.setCyn c { x with maskIdx := (x.maskIdx + hdrCount a.hdr0) % x.cap } else s
        { s with cyn := { s.cyn with jobs := put s.cyn.jobs i j } } := by
  unfold State.cynAdmit
  dsimp only
  rw [there, args]
  dsimp only
  rw [good]
  dsimp only
  rw [if_neg (by simp [fits]), level, triples] <;> rfl

end

/-- The start of an operation whose key, if it reads one, can be read, once its inputs have been fetched. -/
def State.cynTake (s : State) (i : Nat) (j : CynJob) (x : CynCtx) (pipe : Nat) : State :=
  let slot := b2n (bit (u8 j.desc 2) 0)
  let k := keyBytes x.log2 x.limbs
  let bad0 := s.poisoned j.in0 j.bytes0
  let bad1 := s.poisoned j.in1 j.bytes1
  let bad2 := s.triplePoison j x
  let lost := (j.places.find? fun a => a.2 ≠ 0 && !rangeAll s.populated a.1 a.2).map (·.1)
  let s := if bad0 then s.cynPoison j j.in0 else if bad1 then s.cynPoison j j.in1 else if bad2 then s.cynPoison j (x.tripleAt j.first) else s
  let s := match lost, look s.core.reqs i with
    | some a, some r => s.recordAccess 9 r a 0x11
    | _, _ => s
  let d0 := s.bytes j.in0 j.bytes0
  let d1 := s.bytes j.in1 j.bytes1
  let tr := if 0x2E ≤ j.op then (List.range (hdrCount j.hdr0)).flatMap fun n => s.bytes (x.tripleAt (j.first + n)) 24 else []
  let result := if j.op ≤ 0x2C then j.rlwe x d0 d1 (if j.op = 0x2A then s.bytes (x.keyAt slot) k else []) else j.share x d0 d1 tr
  let j := { j with pipe := some pipe, start := s.now, result, err := if bad0 || bad1 || bad2 then some 0x17 else lost.map fun _ => 0x11 }
  { s with cyn := { s.cyn with jobs := put s.cyn.jobs i j } }

section
variable {t : State} {i p : Nat} {j : CynJob} {x : CynCtx}

theorem State.cynTake_clean (bad0 : t.poisoned j.in0 j.bytes0 = false) (bad1 : t.poisoned j.in1 j.bytes1 = false)
    (bad2 : t.triplePoison j x = false) (gone : j.places.find? (fun a => a.2 ≠ 0 && !rangeAll t.populated a.1 a.2) = none) :
    let d0 := t.bytes j.in0 j.bytes0
    let d1 := t.bytes j.in1 j.bytes1
    let tr := (List.range (hdrCount j.hdr0)).flatMap fun n => t.bytes (x.tripleAt (j.first + n)) 24
    let res := if j.op ≤ 0x2C
      then j.rlwe x d0 d1 (if j.op = 0x2A then t.bytes (x.keyAt (b2n (bit (u8 j.desc 2) 0))) (keyBytes x.log2 x.limbs) else [])
      else j.share x d0 d1 (if 0x2E ≤ j.op then tr else [])
    t.cynTake i j x p =
      { t with cyn := { t.cyn with jobs := put t.cyn.jobs i { j with pipe := some p, start := t.now, err := none, result := res } } } := by
  unfold State.cynTake
  simp only [bad0, bad1, bad2, gone, Option.map_none, Bool.or_self, Bool.false_eq_true, if_false]

theorem State.cynTake_bad : ∃ y, look (t.cynTake i j x p).cyn.jobs i = some y ∧ y.pipe = some p ∧
    y.err = if t.poisoned j.in0 j.bytes0 || t.poisoned j.in1 j.bytes1 || t.triplePoison j x then some 0x17
      else ((j.places.find? fun a => a.2 ≠ 0 && !rangeAll t.populated a.1 a.2).map (·.1)).map fun _ => 0x11 :=
  ⟨_, look_put_self .., rfl, rfl⟩

end

/-- The end of an operation, once its job has gone (R667). -/
def State.cynEnd (s : State) (i : Nat) (j : CynJob) (residue : Bool) : State :=
  match s.cynCtx j.ctx, look s.core.reqs i with
  | some x, some r =>
    if j.dead then s else
    let err := j.err <|> (if residue then some 0x17 else none) <|>
      (if j.places.any fun a => a.2 ≠ 0 && !rangeAll s.populated a.1 a.2 then some 0x11 else none)
    let s := s.updCyn j.ctx fun y => { y with ops := y.ops + 1, poisoned := y.poisoned + b2n (err == some 0x17) }
    let s := match err with
      | none => s.cynWrite j x
      | some _ => if s.triplePoison j x then (s.setTriples j x 0).tripleLevel j.ctx else s
    let s := s.updReq i fun y => { y with wrote := err.isNone }
    (s.engineSync i r (u32 j.desc 4)).finishWith i (err.getD 0) 0
  | _, _ => s

section
variable {t : State} {i : Nat} {j : CynJob} {res : Bool}

theorem State.cynEnd_gone (gone : j.dead ∨ t.cynCtx j.ctx = none ∨ look t.core.reqs i = none) : t.cynEnd i j res = t := by
  unfold State.cynEnd
  split
  · next x r there request => exact if_pos (by simpa [there, request] using gone)
  · rfl

theorem State.cynEnd_live {x : CynCtx} {r : Request} (there : t.cynCtx j.ctx = some x) (request : look t.core.reqs i = some r)
    (live : j.dead = false) {err : Option Nat} (ended : (j.err <|> (if res then some 0x17 else none) <|>
      (if j.places.any fun a => a.2 ≠ 0 && !rangeAll t.populated a.1 a.2 then some 0x11 else none)) = err) :
    let u := t.setCyn j.ctx { x with ops := x.ops + 1, poisoned := x.poisoned + b2n (err == some 0x17) }
    let u := match err with
      | none => u.cynWrite j x
      | some _ => if u.triplePoison j x then (u.setTriples j x 0).tripleLevel j.ctx else u
    t.cynEnd i j res = ((u.updReq i fun y => { y with wrote := err.isNone }).engineSync i r (u32 j.desc 4)).finishWith i (err.getD 0) 0 := by
  subst ended
  unfold State.cynEnd State.updCyn
  rw [there, request]
  exact if_neg (by simp [live])

end

end Sys2Proof.Machine
end

section
/-! PROOFS. The statement about the commands and operations of Canyon (17). -/
open Sys2Proof Sys2Proof.Machine

/-- Settles O49: a command is refused by its first check, and an operation is cut where its inputs have been read. -/
theorem canyonCommands : Obligations.CanyonCommands := by
  unfold Obligations.CanyonCommands
  refine ⟨?_, ?_, ?_, ?_, ?_, ?_, ?_, ?_, ?_⟩
  · rintro n _ op q s rfl head k l t
    have run : s.admitOp k n = .next t := by
      refine congrArg Host.Outcome.next ((State.admitHead_of head (decide_eq_true head.op)).trans ?_)
      simp only [t]
      cases hl : l <;> simp only [l] at hl <;> rw [hl] <;> rfl
    exact ⟨by rintro rfl; exact run, by rintro rfl; exact run, by rintro rfl; exact run, by rintro rfl; exact run,
      by rintro rfl; exact run, by rintro rfl; exact run, by rintro rfl; exact run, by rintro rfl; exact run⟩
  · intro n r s
    unfold cynRefuse
    dsimp only
    cases there : s.cynCtx (u8 (r.cynDesc n) 0) with
    | none => rw [if_neg (by rintro ⟨x, there, -⟩; simp at there)]
    | some x =>
      simp only [Bool.or_eq_true, decide_eq_true_eq, List.isEmpty_iff]
      by_cases sound : u8 (r.cynDesc n) 0 / 8 = r.valley ∧ x.st = 1 ∧ x.ctx = r.ctx ∧ s.cynPipes r.valley ≠ []
      · obtain ⟨a, b, c, d⟩ := sound
        exact (if_neg (by simp [a, b, c, d])).trans (if_pos ⟨x, rfl, a, b, c, d⟩).symm
      · exact (if_pos (by grind)).trans (if_neg (by rintro ⟨y, e, rest⟩; cases e; exact sound rest)).symm
  · intro op n i code x r hs s d there args
    have run := State.cynAdmit_error (i := i) there args
    dsimp only at run
    refine ⟨fun a b => ?_, fun e => ?_, fun e => ?_⟩
    · rw [if_neg a, if_neg b] at run
      exact run
    · subst e
      exact run
    · subst e
      exact run
  · intro op n i x a r hs s d sub hdr fits level triples there args
    refine ⟨fun code bad => State.cynAdmit_header there args bad, fun good bad => State.cynAdmit_unfit there args good bad,
      fun code good fit bad => State.cynAdmit_level there args good fit bad,
      fun code good fit low bad => State.cynAdmit_triples there args good fit low bad, fun good fit low ready => ?_⟩
    have run := State.cynAdmit_passed (i := i) there args good fit low ready
    intro j
    refine ⟨fun other => run.trans (if_neg other), fun t elems width scales score rows => (run.trans (if_pos score)).trans ?_,
      fun t code score bad => (run.trans (if_pos score)).trans ?_⟩
    · rw [rows]
    · rw [bad]
  · intro i c code level s
    rfl
  · intro v i p j x s first there free
    have run (poison : Bool) : exec (.cynOperationStart (v, poison)) s = .next (
        if poison then s.cynLoses j x { event := 2, cls := 9, unit := p } [{ cls := 9, idx := p }]
        else match s.cynHeld j x with
        | [] => s.cynStart i j x p
        | l => l.foldl (fun s a => s.recall a.1 a.2 false) s) := by
      change execCynOperationStart (v, poison) s = _
      unfold execCynOperationStart
      dsimp only
      rw [first]
      dsimp only
      rw [there, free] <;> rfl
    refine ⟨(run true).trans (congrArg Host.Outcome.next (if_pos rfl)), fun none_ => (run false).trans ?_, fun held => (run false).trans ?_⟩
    all_goals refine congrArg Host.Outcome.next ((if_neg nofun).trans ?_)
    · rw [none_]
    · split
      · next none_ => exact absurd none_ held
      · rfl
  · intro i p j x s key k t bad gone d0 d1 tr res
    refine ⟨fun u op lost unit => ?_, fun reads => ?_⟩
    · unfold State.cynStart
      dsimp only
      rw [if_pos (by simpa [op] using lost), show memUnit (x.keyAt _) = some u from unit] <;> rfl
    have run : s.cynStart i j x p = t.cynTake i j x p := if_neg (by rcases reads with e | e <;> simp [key, k] at e <;> simp [e])
    rw [run]
    refine ⟨fun clean none_ => ?_, fun lost => ?_⟩
    · simp only [bad, not_or, Bool.not_eq_true] at clean
      obtain ⟨b0, b1, b2⟩ := clean
      exact State.cynTake_clean b0 b1 b2 none_
    · obtain ⟨y, there, pipe, err⟩ := State.cynTake_bad (t := t) (i := i) (j := j) (x := x) (p := p)
      refine ⟨y, there, pipe, fun b => err.trans (if_pos (by simpa [bad, or_assoc] using b)), fun b => err.trans ((if_neg ?_).trans ?_)⟩
      · simpa [bad, or_assoc] using b
      · obtain ⟨a, found⟩ := Option.ne_none_iff_exists'.mp (lost.resolve_left b)
        simp only [gone] at found
        rw [found]
        rfl
  · intro p i res j s first t t2 t3
    have run : exec (.cynOperationComplete p res) s = .next (t3.cynEnd i j res) := by
      change execCynOperationComplete p res s = _
      unfold execCynOperationComplete
      rw [first]
      rfl
    rw [run]
    clear_value t3
    refine ⟨fun gone => congrArg Host.Outcome.next (State.cynEnd_gone gone), ?_⟩
    intro x r there request live err u
    refine ⟨fun good => congrArg Host.Outcome.next ?_, fun c bad => congrArg Host.Outcome.next ?_⟩
    · simpa only [u, good, Option.isNone_none, Option.getD_none] using State.cynEnd_live there request live good
    · simpa only [u, bad, Option.isNone_some, Option.getD_some] using State.cynEnd_live there request live bad
  · intro j x s t
    unfold State.cynWrite
    refine ⟨fun op => ?_, fun op => ?_, fun op => ?_, fun op => ?_⟩
    · dsimp only
      rw [if_neg (show ¬ j.op = 0x2C by omega), if_neg (show ¬ j.op = 0x2E by omega), if_neg (show ¬ j.op = 0x2F by omega),
        if_neg (show ¬ 0x2E ≤ j.op by omega)]
    · simp only [op]
      rfl
    · simp only [op]
      rfl
    · simp only [op]
      rfl
end

section
/-! SUPPORT. Where a write or read of BAR0 arrives: one unit, one wide register, one byte (22). -/
namespace Sys2Proof.Machine
open Sys2Proof

theorem State.writeRing_outside (s : State) {o : Nat} {d : Bytes} (outside : ∀ i < d.length, inRequestRing (o + i) = false) :
    s.writeRing o d = s := by
  induction d generalizing o with
  | nil => rfl
  | cons b l ih =>
    have first : inRequestRing o = false := outside 0 (by simp)
    unfold State.writeRing
    rw [if_neg (by simp [first])]
    exact ih fun i small => by
      rw [Nat.add_assoc, Nat.add_comm 1 i]
      exact outside (i + 1) (by simpa using small)

theorem writeUnits_one {o : Nat} {d : Bytes} (aligned : o % 4 = 0) (four : d.length = 4) :
    writeUnits o d = [(o, BitVec.ofNat 32 (u32 d 0))] := by
  have first : ceilDiv o 4 * 4 = o := by unfold ceilDiv; omega
  unfold writeUnits
  simp [first, four]

/-- A byte is less than a unit. -/
theorem writeUnits_byte (o : Nat) (b : Byte) : writeUnits o [b] = [] := by
  have none : (o + 1 - ceilDiv o 4 * 4) / 4 = 0 := by unfold ceilDiv; omega
  unfold writeUnits
  simp [none]

theorem execRegisterWrite_sound {s : State} {o : Nat} {d : Bytes} (bar : s.bar0) (inside : o + d.length ≤ 0x4000000) :
    execRegisterWrite o (d, false) s = .next (if isWide o d
      then s.writeSync ((o - 0x800000) / 64) (o % 64) (BitVec.ofNat 64 (u64 d 0))
      else (writeUnits o d).foldl (fun s u => s.write4 u.1 u.2) (s.writeRing o d)) :=
  congrArg Host.Outcome.next ((if_neg (by simp [bar, inside])).trans (if_neg nofun))

theorem execRegisterWrite_unit {s : State} {o : Nat} {d : Bytes} (bar : s.bar0) (four : d.length = 4) (aligned : o % 4 = 0)
    (inside : o + 4 ≤ 0x4000000) (outside : inRequestRing o = false) :
    execRegisterWrite o (d, false) s = .next (s.write4 o (BitVec.ofNat 32 (u32 d 0))) := by
  have ring : s.writeRing o d = s := State.writeRing_outside s fun i small => by
    simp [inRequestRing] at outside ⊢
    omega
  rw [execRegisterWrite_sound bar (by omega), if_neg (by simp [isWide, four]), writeUnits_one aligned four, ring]
  rfl

theorem execRegisterWrite_byte {s : State} {o : Nat} (b : Byte) (bar : s.bar0) (inside : o < 0x4000000) :
    execRegisterWrite o ([b], false) s = .next (if inRequestRing o then { s with ram := wr s.ram o b } else s) := by
  rw [execRegisterWrite_sound bar (by simp; omega), if_neg (by simp [isWide]), writeUnits_byte]
  rfl

theorem execRegisterWrite_mbx {s : State} {o n r : Nat} {d : Bytes} (bar : s.bar0) (four : d.length = 4) (small : n < 9)
    (place : o = 0x100000 + 0x4000 * n + r) (aligned : r % 4 = 0) (registers : 0x1000 ≤ r ∧ r < 0x4000) :
    execRegisterWrite o (d, false) s = .next (s.writeMbx n r (BitVec.ofNat 32 (u32 d 0))) := by
  obtain ⟨low, high⟩ := registers
  have parts : (o - 0x100000) / 0x4000 = n ∧ (o - 0x100000) % 0x4000 = r := by omega
  rw [execRegisterWrite_unit bar four (by omega) (by omega) (by simp [inRequestRing]; omega)]
  unfold State.write4
  rw [if_pos (by simp; omega), parts.1, parts.2]

theorem execRegisterWrite_bell {s : State} {o q r : Nat} {d : Bytes} (bar : s.bar0) (four : d.length = 4) (small : q < 4096)
    (place : o = 0x1000000 + 4096 * q + r) (aligned : r % 4 = 0) (inside : r < 4096) :
    execRegisterWrite o (d, false) s = .next (s.writeBell q r (BitVec.ofNat 32 (u32 d 0))) := by
  have parts : (o - 0x1000000) / 4096 = q ∧ o % 4096 = r := by omega
  rw [execRegisterWrite_unit bar four (by omega) (by omega) (by simp [inRequestRing]; omega)]
  unfold State.write4
  rw [if_neg (by simp; omega), if_neg (by simp; omega), if_neg (by simp; omega), if_neg (by simp; omega),
    if_pos (by simp; omega), parts.1, parts.2]

theorem execRegisterWrite_sync {s : State} {o g r : Nat} {d : Bytes} (bar : s.bar0) (four : d.length = 4) (small : g < 131072)
    (place : o = 0x800000 + 64 * g + r) (aligned : r % 4 = 0) (inside : r < 64) :
    execRegisterWrite o (d, false) s = .next (s.writeSync g r ((BitVec.ofNat 32 (u32 d 0)).setWidth 64)) := by
  have parts : (o - 0x800000) / 64 = g ∧ o % 64 = r := by omega
  rw [execRegisterWrite_unit bar four (by omega) (by omega) (by simp [inRequestRing]; omega)]
  unfold State.write4
  rw [if_neg (by simp; omega), if_neg (by simp; omega), if_neg (by simp; omega), if_pos (by simp; omega), parts.1, parts.2]

theorem execRegisterWrite_wide {s : State} {o g r : Nat} {d : Bytes} (bar : s.bar0) (eight : d.length = 8) (small : g < 131072)
    (place : o = 0x800000 + 64 * g + r) (wide : r = 0x08 ∨ r = 0x10 ∨ r = 0x18) :
    execRegisterWrite o (d, false) s = .next (s.writeSync g r (BitVec.ofNat 64 (u64 d 0))) := by
  have parts : (o - 0x800000) / 64 = g ∧ o % 64 = r := by omega
  rw [execRegisterWrite_sound bar (by omega), if_pos (by simp [isWide, eight]; omega), parts.1, parts.2]

theorem leBytes_length (n v : Nat) : (leBytes n v).length = n := by
  induction n generalizing v with
  | zero => rfl
  | succ n ih => simp [leBytes, ih]

theorem State.hostRead_unit (s : State) {o : Nat} (aligned : o % 4 = 0) :
    s.hostRead o 4 = (leBytes 4 (s.unitAt o), s.afterRead o) := by
  have units : (o + 4 + 3) / 4 - o / 4 = 1 ∧ o / 4 * 4 = o := by omega
  unfold State.hostRead
  rw [if_neg (by simp), units.1, units.2]
  simp [State.readUnits, aligned, List.take_of_length_le, leBytes_length]

theorem State.hostRead_wide {s : State} {o : Nat} {x : W64} (aligned : o % 8 = 0) (wide : s.wideAt o = some x) :
    s.hostRead o 8 = (leBytes 8 x.toNat, s) := by
  unfold State.hostRead
  rw [if_pos (by simp [aligned, wide]), wide]
  rfl

theorem State.hostRead_sync (s : State) {o g r : Nat} (small : g < 131072) (place : o = 0x800000 + 64 * g + r)
    (aligned : r % 4 = 0) (inside : r < 64) : s.hostRead o 4 = (leBytes 4 (s.readSync g r), s.afterSync g r) := by
  rw [State.hostRead_unit s (by omega), place, State.unitAt_sync s small inside, State.afterRead_sync s small inside]

/-- What the registers of a readable object give (10, R391). -/
theorem State.readSync_of {s : State} {g : Nat} (readable : s.syncReadable g) :
    s.readSync g 0 = lo32 (s.obj g).seen ∧ s.readSync g 4 = (if (s.obj g).hiValid then (s.obj g).hi.toNat else hi32 (s.obj g).seen) ∧
    s.readSync g 8 = 0 ∧
    s.afterSync g 0 = s.setObj g { s.obj g with hi := ((s.obj g).seen >>> 32).setWidth 32, hiValid := true } := by
  have heard : ¬(!s.syncReadable g) = true := by simp [readable]
  exact ⟨if_neg heard, if_neg heard, if_neg heard, if_neg heard⟩

end Sys2Proof.Machine
end
section
/-! PROOFS. Writes and reads of BAR0. -/
open Sys2Proof Sys2Proof.Machine

/-- Settles O52: a write of one whole unit is the write of the register at its place, a wide write the write of its
register, a byte the write of the ring it may lie in; a read takes the units it covers, or its wide register. -/
theorem registerWrites : Obligations.RegisterWrites := by
  unfold Obligations.RegisterWrites
  refine ⟨fun o d p s => ⟨fun gone => ?_, fun bar inside => ?_⟩, fun n d s bar four => ?_, fun g d s bar eight small => ?_,
    fun g d s bar four small => ?_, fun o b s bar inside => execRegisterWrite_byte b bar inside,
    fun o s aligned => State.hostRead_unit s aligned, fun o x s aligned wide => State.hostRead_wide aligned wide,
    fun g s readable => ?_, fun s => ?_⟩
  · exact congrArg Host.Outcome.next (if_pos (by simpa using gone))
  · exact congrArg Host.Outcome.next ((if_neg (by simp [bar, inside])).trans (if_pos rfl))
  · refine ⟨fun small => ?_, fun small => ?_, ?_, ?_, ?_, ?_, ?_, ?_⟩
    · have at_ {o r : Nat} := @execRegisterWrite_mbx s o n r d bar four small
      exact ⟨at_ (r := 0x3000) (by omega) rfl (by decide), at_ (r := 0x300C) (by omega) rfl (by decide),
        at_ (r := 0x3014) (by omega) rfl (by decide), at_ (r := 0x301C) (by omega) rfl (by decide),
        at_ (r := 0x3020) (by omega) rfl (by decide)⟩
    · have at_ {o r : Nat} := @execRegisterWrite_bell s o n r d bar four small
      exact ⟨at_ (r := 0x00) (by omega) rfl (by decide), at_ (r := 0x40) (by omega) rfl (by decide),
        at_ (r := 0x50) (by omega) rfl (by decide)⟩
    all_goals exact execRegisterWrite_unit bar four rfl (by decide) rfl
  · have at_ {o r : Nat} := @execRegisterWrite_wide s o g r d bar eight small
    exact ⟨at_ (r := 0x08) (by omega) (by decide), at_ (r := 0x10) (by omega) (by decide),
      at_ (r := 0x18) (by omega) (by decide)⟩
  · have at_ {o r : Nat} := @execRegisterWrite_sync s o g r d bar four small
    have narrow : ((BitVec.ofNat 32 (u32 d 0)).setWidth 64).setWidth 32 = BitVec.ofNat 32 (u32 d 0) :=
      BitVec.setWidth_setWidth_of_le _ (by decide)
    refine ⟨at_ (r := 0x08) (by omega) rfl (by decide), at_ (r := 0x0C) (by omega) rfl (by decide),
      at_ (r := 0x10) (by omega) rfl (by decide), at_ (r := 0x14) (by omega) rfl (by decide),
      at_ (r := 0x18) (by omega) rfl (by decide), at_ (r := 0x1C) (by omega) rfl (by decide), ?_, fun writable => ?_,
      fun writable => ?_⟩
    · exact (at_ (r := 0x28) (by omega) rfl (by decide)).trans (congrArg (fun v => exec (.synArmWrite g v) s) narrow)
    · refine (at_ (r := 0x20) (by omega) rfl (by decide)).trans (congrArg Host.Outcome.next ?_)
      exact (congrArg (s.writeSynCtrl g) narrow).trans (if_pos writable)
    · refine (at_ (r := 0x30) (by omega) rfl (by decide)).trans (congrArg Host.Outcome.next ?_)
      exact (congrArg (s.writeSynStatus g) narrow).trans (if_pos writable)
  · obtain ⟨value, upper, add, read⟩ := State.readSync_of readable
    have at_ {o r : Nat} := @State.hostRead_sync s o g r
    refine ⟨fun small => ?_, fun small => ?_, fun small held => ?_, fun small => ?_⟩
    · rw [at_ (r := 0) small (Nat.add_zero _).symm rfl (by decide), value]
    · rw [at_ (r := 0) small (Nat.add_zero _).symm rfl (by decide), read]
    · rw [at_ (r := 4) small (by omega) rfl (by decide), upper, if_pos held]
    · rw [at_ (r := 8) small (by omega) rfl (by decide), add]
      rfl
  · have nothing : s.unitAt 0x131000 = 0 := rfl
    exact ⟨(State.hostRead_unit s (o := 0x131000) rfl).trans (congrArg (fun x => (leBytes 4 x, s)) nothing), (State.hostRead_unit s (o := 0) rfl).trans rfl,
      State.hostRead_wide (o := 8) rfl rfl, (congrArg Prod.fst (State.hostRead_unit s (o := 0x130104) rfl)).trans rfl⟩

end

section
/-! SUPPORT. What the jobs and the memory do leaves the device part (Table 2.1) as it was: a frame lemma per operation. -/
namespace Sys2Proof.Machine
open Sys2Proof

theorem ThreadsOnly.dev {s t : State} (h : ThreadsOnly s t) : t.dev = s.dev := by rw [h]

theorem DataOnly.dev {s t : State} (h : DataOnly s t) : t.dev = s.dev := by rw [h]

section
variable (s : State)

@[simp] theorem State.updBag_dev (i : Nat) (f : Bag → Bag) : (s.updBag i f).dev = s.dev := by
  unfold State.updBag
  split <;> rfl

@[simp] theorem State.updPlain_dev (i : Nat) (f : PlainOp → PlainOp) : (s.updPlain i f).dev = s.dev := by
  unfold State.updPlain
  split <;> rfl

@[simp] theorem State.updTable_dev (i : Nat) (f : Table → Table) : (s.updTable i f).dev = s.dev := by
  unfold State.updTable
  split <;> rfl

@[simp] theorem State.updStream_dev (i : Nat) (f : Stream → Stream) : (s.updStream i f).dev = s.dev := by
  unfold State.updStream
  split <;> rfl

@[simp] theorem State.send_dev (p : Packet) : (s.send p).dev = s.dev := rfl

@[simp] theorem State.sendError_dev (dest tag kind code : Nat) (msg : Bytes) :
    (s.sendError dest tag kind code msg).dev = s.dev := rfl

@[simp] theorem State.dropRemote_dev (i : Nat) : (s.dropRemote i).dev = s.dev := rfl

@[simp] theorem State.updLink_dev (p : Nat) (f : PassLink → PassLink) : (s.updLink p f).dev = s.dev := rfl

@[simp] theorem State.updValley_dev (v : Nat) (f : Valley → Valley) : (s.updValley v f).dev = s.dev := rfl

@[simp] theorem State.noteEdges_dev (old : State) : (old.noteEdges s).dev = s.dev := rfl

@[simp] theorem State.drawNat_dev (k : Nat) : (s.drawNat k).2.dev = s.dev := rfl

@[simp] theorem State.error_dev (e : FaultEv) (us : List UnitRef) : (s.error e us).dev = s.dev := (s.error_recorded e us).dev

@[simp] theorem State.event_dev (a b u : Nat) (d : Bytes) (v : Option Nat) : (s.event a b u d v).dev = s.dev :=
  (s.event_posts a b u d v).dev

@[simp] theorem State.doneOpt_dev (d : Option Deferred) (st : St) (n : Nat) (p : Bytes) :
    (s.doneOpt d st n p).dev = s.dev := (s.doneOpt_posts d st n p).dev

@[simp] theorem State.resume_dev : s.resume.dev = s.dev := s.resume_threadsOnly.dev

@[simp] theorem State.wake_dev (t st : Nat) (v : Option W64) : (s.wake t st v).dev = s.dev := (s.wake_threadsOnly t st v).dev

@[simp] theorem State.serveLine_dev (g k : Nat) : (State.serveLine g k s).dev = s.dev := (State.serveLine_threadsOnly g k s).dev

@[simp] theorem State.askRemote_dev (m : Remote) (v : Nat) (msg : Nat → Bytes) : (s.askRemote m v msg).dev = s.dev := rfl

@[simp] theorem State.cancel_dev (mine : Nat → Bool) : (s.cancel mine).dev = s.dev := (State.serveAll_threadsOnly _).dev

@[simp] theorem State.latch_dev (i code detail : Nat) : (s.latch i code detail).dev = s.dev := by
  unfold State.latch
  split
  · rfl
  · simp [apply_ite State.dev]

@[simp] theorem State.bagErr_dev (i : Nat) (b : Bag) (code detail : Nat) : (s.bagErr i b code detail).dev = s.dev := by
  simp [State.bagErr, apply_ite State.dev]

@[simp] theorem State.finish_dev (i : Nat) : (s.finish i).dev = s.dev := by
  unfold State.finish
  repeat' split
  all_goals simp

@[simp] theorem State.settle_dev (i : Nat) : (s.settle i).dev = s.dev := by
  unfold State.settle
  split
  · rfl
  · simp [apply_ite State.dev]

@[simp] theorem State.fail_dev (i code detail : Nat) : (s.fail i code detail).dev = s.dev := by
  simp [State.fail]

@[simp] theorem State.recordLost_dev (r : Reader) (a n index : Nat) : (s.recordLost r a n index).dev = s.dev := by
  unfold State.recordLost
  repeat' split
  all_goals simp

@[simp] theorem State.recall_dev (a n : Nat) (w : Bool) : (s.recall a n w).dev = s.dev := (s.recall_dataOnly a n w).dev

@[simp] theorem State.writeThrough_dev (a : Nat) (d : Bytes) : (s.writeThrough a d).dev = s.dev := (s.writeThrough_dataOnly a d).dev

@[simp] theorem State.putThrough_dev (a : Nat) (d : Bytes) : (s.putThrough a d).dev = s.dev := (s.putThrough_dataOnly a d).dev

@[simp] theorem State.wakeChannels_dev (a n : Nat) : (s.wakeChannels a n).dev = s.dev := by
  unfold State.wakeChannels
  split <;> rfl

@[simp] theorem State.clearPoison_dev (a n : Nat) : (s.clearPoison a n).dev = s.dev := by
  unfold State.clearPoison
  split <;> rfl

@[simp] theorem State.countMem_dev (a n : Nat) : (s.countMem a n).dev = s.dev := by
  unfold State.countMem
  repeat' split
  all_goals rfl

@[simp] theorem State.writeBack_dev (l : Nat) : (s.writeBack l).dev = s.dev := by
  unfold State.writeBack
  split <;> simp

@[simp] theorem State.dropLine_dev (l : Nat) : (s.dropLine l).dev = s.dev := rfl

@[simp] theorem State.touch_dev (v a n l : Nat) : (s.touch v a n l).dev = s.dev := by
  unfold State.touch
  dsimp only
  repeat' split
  all_goals simp

@[simp] theorem State.dirty_dev (who : Option (Nat × Nat)) (a n l : Nat) : (s.dirty who a n l).dev = s.dev := by
  unfold State.dirty
  split <;> rfl

end

/-- A fold of steps that each leave the device part leaves it. -/
theorem foldl_dev {α : Type} (f : State → α → State) (same : ∀ t x, (f t x).dev = t.dev) (l : List α) (s : State) :
    (l.foldl f s).dev = s.dev :=
  foldl_holds (P := fun t => t.dev = s.dev) f l rfl fun t x h => (same t x).trans h

section
variable (s : State)

@[simp] theorem State.putFor_dev (v ctx a : Nat) (d : Bytes) : (s.putFor v ctx a d).dev = s.dev := by
  unfold State.putFor
  split
  · exact (State.clearPoison_dev ..).trans ((foldl_dev _ (by simp) _ _).trans (s.wakeChannels_dev ..))
  · exact (State.clearPoison_dev ..).trans (s.wakeChannels_dev ..)

@[simp] theorem State.putHeld_dev (w : HeldWrite) : (s.putHeld w).dev = s.dev := by
  unfold State.putHeld
  repeat' split
  all_goals simp

@[simp] theorem State.forgetHost_dev : s.forgetHost.dev = s.dev := foldl_dev _ (by simp) _ _

@[simp] theorem State.fetch_dev (v a n : Nat) (alloc : Bool) : (s.fetch v a n alloc).dev = s.dev := by
  unfold State.fetch
  split
  · exact (foldl_dev _ (by simp) _ _).trans (by simp)
  · simp

@[simp] theorem State.fetchWith_dev (v a n b m : Nat) (alloc : Bool) : (s.fetchWith v a n b m alloc).dev = s.dev := by
  unfold State.fetchWith
  split
  · exact (foldl_dev _ (by simp) _ _).trans (by simp)
  · simp

@[simp] theorem State.track_dev (b : Bag) (slot : Nat) : (s.track b slot).dev = s.dev := by
  unfold State.track
  repeat' split
  all_goals simp

@[simp] theorem State.askRows_dev (i k : Nat) : (State.askRows i k s).dev = s.dev := by
  induction k generalizing s with
  | zero => rfl
  | succ k ih =>
    unfold State.askRows
    repeat' split
    all_goals simp [ih]

@[simp] theorem State.pumpCreek_dev (k : Nat) : (s.pumpCreek k).dev = s.dev := foldl_dev _ (by simp) _ _

@[simp] theorem State.resolveIndex_dev (r : Request) (t : Table) (epoch : Nat) (b : Bag) (i idx : Nat) :
    (s.resolveIndex r t epoch b i idx).1.dev = s.dev := by
  unfold State.resolveIndex
  dsimp only
  repeat' split
  all_goals simp

end

/-- The same for a fold that carries more than the state. -/
theorem foldl_fst_dev {α β : Type} (f : State × β → α → State × β) (same : ∀ x a, (f x a).1.dev = x.1.dev) (l : List α)
    (x : State × β) : (l.foldl f x).1.dev = x.1.dev := by
  induction l generalizing x with
  | nil => rfl
  | cons a l ih => exact (ih (f x a)).trans (same x a)

section
variable (s : State)

@[simp] theorem State.resolveBag_dev (i : Nat) : (s.resolveBag i).dev = s.dev := by
  unfold State.resolveBag
  split
  · rfl
  next b _ =>
  split
  · rfl
  split
  · rfl
  next r _ =>
  split
  next t c _ _ =>
    split
    · simp
    · have rows : ∀ ix : List Nat, (ix.foldl (fun (acc : State × Bag × Nat) idx =>
          let (s, b) := acc.1.resolveIndex r t ((look r.stamp.epochs b.set).getD 0) acc.2.1 acc.2.2 idx
          (s, b, acc.2.2 + 1)) (s, b, 0)).1.dev = s.dev := fun ix => foldl_fst_dev _ (by simp) ix _
      dsimp only
      repeat' split
      all_goals simp [rows]
  · simp

@[simp] theorem State.readData_dev (m : Remote) (d : Bytes) : (s.readData m d).dev = s.dev := by
  unfold State.readData
  repeat' split
  all_goals simp

@[simp] theorem State.remoteFails_dev (m : Remote) (code : Nat) : (s.remoteFails m code).dev = s.dev := by
  unfold State.remoteFails
  repeat' split
  all_goals simp

@[simp] theorem State.errorAnswer_dev (src : Nat) (msg : Bytes) : (s.errorAnswer src msg).dev = s.dev := by
  unfold State.errorAnswer
  dsimp only
  split <;> simp

@[simp] theorem State.setPos_dev (i p : Nat) (x : Pos) : (s.setPos i p x).dev = s.dev := State.updBag_dev ..

@[simp] theorem State.answerRow_dev (i p row : Nat) (b : Bag) (r : Request) (t : Table) (msg : Bytes) (o : Nat) :
    (s.answerRow i p row b r t msg o).1.dev = s.dev := by
  unfold State.answerRow
  dsimp only
  repeat' split
  all_goals simp

@[simp] theorem State.lookupAnswer_dev (src : Nat) (msg : Bytes) : (s.lookupAnswer src msg).dev = s.dev := by
  unfold State.lookupAnswer
  split
  · rfl
  dsimp only
  split
  · split
    · simp
    split
    · refine (State.pumpCreek_dev ..).trans ?_
      split
      · simp
      · exact foldl_fst_dev _ (fun x p => by split <;> simp) _ _
    · rfl
  · rfl

@[simp] theorem State.signalAnswer_dev (node tag status : Nat) : (s.signalAnswer node tag status).dev = s.dev := by
  unfold State.signalAnswer
  repeat' split
  all_goals simp

@[simp] theorem State.answer_dev (src kind : Nat) (msg : Bytes) (poison : Bool) : (s.answer src kind msg poison).dev = s.dev := by
  unfold State.answer
  dsimp only
  split
  · simp
  split
  · rfl
  rcases s.remoteOf src (answerOf kind msg).2 [(answerOf kind msg).1] with _ | ⟨i, m⟩
  · rfl
  · simp [apply_ite State.dev]

@[simp] theorem State.recordCrc_dev (r : Reader) (held : Option UnitRef) (a index : Nat) (x : StoredRow) :
    (s.recordCrc r held a index x).dev = s.dev := State.error_dev ..

@[simp] theorem State.readRow_dev (r : Reader) (t : Table) (base k index : Nat) :
    (s.readRow r t base k index).1.dev = s.dev := by
  unfold State.readRow
  dsimp only
  repeat' split
  all_goals simp

@[simp] theorem State.peerRow_dev (v k : Nat) (t : Table) (epoch row : Nat) :
    (s.peerRow v k t epoch row).1.dev = s.dev := by
  unfold State.peerRow
  dsimp only
  split
  · simp
  split
  · rfl
  split
  · simp
  split
  · simp
  split
  · simp
  split
  · simp
  · split <;> next _ _ e => simpa using (congrArg (fun p => p.1.dev) e).symm

@[simp] theorem State.answerPeer_dev (p : PeerLookup) (msg : Bytes) : (s.answerPeer p msg).dev = s.dev := rfl

@[simp] theorem State.refusePeer_dev (p : PeerLookup) (st : Nat) : (s.refusePeer p st).dev = s.dev := by
  unfold State.refusePeer
  dsimp only
  split <;> simp

@[simp] theorem State.servePeer_dev (p : PeerLookup) : (s.servePeer p).dev = s.dev := by
  unfold State.servePeer
  split
  · simp
  split
  · simp
  · simp only [State.answerPeer_dev, State.updTable_dev]
    exact foldl_fst_dev _ (by simp) _ _

@[simp] theorem State.takePeer_dev (p : PeerLookup) : (s.takePeer p).dev = s.dev := by simp [State.takePeer]

@[simp] theorem State.drainPeers_dev (k : Nat) : (s.drainPeers k).dev = s.dev := by
  unfold State.drainPeers
  split
  · rfl
  · exact foldl_dev _ (by simp) _ _

@[simp] theorem State.admitPeer_dev (p : PeerLookup) : (s.admitPeer p).dev = s.dev := by
  unfold State.admitPeer
  dsimp only
  repeat' split
  all_goals simp

@[simp] theorem State.lookupRequest_dev (src tag : Nat) (msg : Bytes) : (s.lookupRequest src tag msg).dev = s.dev := by
  unfold State.lookupRequest
  dsimp only
  repeat' split
  all_goals simp

@[simp] theorem State.peerAddress_dev (src tag kind : Nat) (msg : Bytes) : (s.peerAddress src tag kind msg).dev = s.dev := by
  simp [State.peerAddress]

@[simp] theorem State.readRequest_dev (src tag : Nat) (msg : Bytes) : (s.readRequest src tag msg).dev = s.dev := by
  unfold State.readRequest
  dsimp only
  repeat' split
  all_goals simp

@[simp] theorem State.pushRequest_dev (src tag : Nat) (msg : Bytes) : (s.pushRequest src tag msg).dev = s.dev := by
  unfold State.pushRequest
  dsimp only
  repeat' split
  all_goals simp

@[simp] theorem State.fireNotify_dev (g : Nat) : (s.fireNotify g).dev = s.dev := by
  unfold State.fireNotify
  dsimp only
  split <;> simp

@[simp] theorem State.changed_dev (g : Nat) : (s.changed g).dev = s.dev := by
  unfold State.changed
  simp only [State.resume_dev, State.serveLine_dev, State.setCore_dev]
  exact (foldl_dev _ (by simp) _ _).trans (s.fireNotify_dev g)

@[simp] theorem State.syncAdd_dev (g : Nat) (n : W64) : (s.syncAdd g n).1.dev = s.dev := by
  rw [State.syncAdd_state]
  split <;> simp

@[simp] theorem State.signalRequest_dev (src tag : Nat) (msg : Bytes) : (s.signalRequest src tag msg).dev = s.dev := by
  unfold State.signalRequest
  dsimp only
  repeat' split
  all_goals simp

@[simp] theorem State.loseRegion_dev (lpddr : Bool) (r : Nat) : (s.loseRegion lpddr r).dev = s.dev := by
  unfold State.loseRegion
  dsimp only
  split
  · exact State.event_dev ..
  · rfl

@[simp] theorem State.giveBack_dev (q : Queued) (n : Nat) : (s.giveBack q n).dev = s.dev := by
  unfold State.giveBack
  split <;> simp

@[simp] theorem State.undeliverable_dev (p : Packet) : (s.undeliverable p).dev = s.dev := by
  unfold State.undeliverable
  split <;> simp

end

end Sys2Proof.Machine
end
section
/-! SUPPORT. What accepting or refusing a configuration leaves of the staging of configurations (02). -/
namespace Sys2Proof.Machine
open Sys2Proof

/-- The last accepted generation, and the commit under way. -/
def State.staged (s : State) : Nat × Option Commit := (s.dev.lastGen, s.dev.commit)

theorem State.staged_of_dev {s t : State} (h : t.dev = s.dev) : t.staged = s.staged := by
  unfold State.staged
  rw [h]

/-- A fold of steps that each leave the staging leaves it. -/
theorem foldl_staged {α : Type} (f : State → α → State) (same : ∀ t x, (f t x).staged = t.staged) (l : List α) (s : State) :
    (l.foldl f s).staged = s.staged :=
  foldl_holds (P := fun t => t.staged = s.staged) f l rfl fun t x h => (same t x).trans h

section
variable (s : State)

theorem State.enter_staged (st : DevState) (n : Nat) : (s.enter st n).staged = s.staged := by
  unfold State.staged
  rw [State.enter_dev]

theorem State.retireChannel_staged (lpddr : Bool) (ch related : Nat) : (s.retireChannel lpddr ch related).staged = s.staged := by
  have lost {t : State} {r : Nat} (h : t.dev = s.dev) : (t.loseRegion lpddr r).staged = s.staged :=
    State.staged_of_dev ((t.loseRegion_dev ..).trans h)
  have dev := (s.stage_recorded { kind := 2, source := 2, cls := if lpddr then 5 else 4, unit := ch, related }).dev
  unfold State.retireChannel
  refine ite_holds (P := fun t => t.staged = s.staged) rfl ((State.staged_of_dev (State.event_dev ..)).trans ?_)
  exact ite_holds (P := fun t => t.staged = s.staged) ((State.enter_staged ..).trans (lost dev)) (lost dev)

theorem State.poison_staged (a n : Nat) : (s.poison a n).staged = s.staged := by
  unfold State.poison
  split
  · rfl
  split
  · refine foldl_staged _ ?_ _ _
    intro _ _
    rfl
  · refine foldl_staged _ (fun t i => ?_) _ _
    dsimp only
    split
    · rfl
    split
    · exact t.retireChannel_staged ..
    · rfl

theorem State.writeRequest_staged (src tag : Nat) (msg : Bytes) (poison : Bool) :
    (s.writeRequest src tag msg poison).staged = s.staged := by
  unfold State.writeRequest
  dsimp only
  split
  · rfl
  split
  · rfl
  split
  · exact State.staged_of_dev (State.peerAddress_dev ..)
  · refine (State.staged_of_dev (State.send_dev ..)).trans ?_
    split
    · exact s.poison_staged ..
    · exact State.staged_of_dev (s.writeThrough_dev ..)

theorem State.terminate_staged (p : Packet) : (s.terminate p).staged = s.staged := by
  unfold State.terminate
  split
  · refine State.staged_of_dev ?_
    dsimp only
    split <;> rfl
  split
  · exact State.staged_of_dev (by simp)
  split
  · exact s.writeRequest_staged ..
  · refine State.staged_of_dev ?_
    repeat' split
    all_goals simp

theorem State.routeQueued_staged (q : Queued) : (s.routeQueued q).staged = s.staged := by
  unfold State.routeQueued
  dsimp only
  split
  · exact (State.terminate_staged ..).trans (State.staged_of_dev (s.giveBack_dev ..))
  · refine State.staged_of_dev ?_
    repeat' split
    all_goals simp

theorem State.haltLink_staged (p : Nat) (st : LinkState) (reason : Nat) : (s.haltLink p st reason).staged = s.staged := by
  have rerouted {t : State} (h : t.dev = s.dev) : (t.reroute p).staged = s.staged :=
    (foldl_staged _ State.routeQueued_staged _ _).trans (State.staged_of_dev h)
  unfold State.haltLink
  refine ite_holds (P := fun t => t.staged = s.staged) ((State.staged_of_dev (State.event_dev ..)).trans (rerouted ?_))
    (rerouted ?_)
  all_goals
    rw [State.noteEdges_dev, State.updLink_dev]
    split
    · exact s.giveBack_dev ..
    · rfl

theorem State.startLink_staged (p : Nat) (encrypt identity : Bool) : (s.startLink p encrypt identity).staged = s.staged :=
  (State.staged_of_dev (State.updLink_dev ..)).trans (State.haltLink_staged ..)

theorem State.setLinks_staged : s.setLinks.staged = s.staged := by
  refine foldl_staged _ (fun t p => ?_) _ _
  split
  · rfl
  split
  · exact t.startLink_staged ..
  · rfl

@[simp] theorem State.setGpio_dev (g : Gpio) : (s.setGpio g).dev = s.dev := rfl

@[simp] theorem State.mapPins_dev (es : List Bytes) (latch : W32) : (s.mapPins es latch).dev = s.dev := rfl

@[simp] theorem State.setSmb_dev (p : Bytes) : (s.setSmb p).dev = s.dev := rfl

@[simp] theorem State.setPool_dev (p : Bytes) : (s.setPool p).dev = s.dev := rfl

@[simp] theorem State.setMask_dev (t m : Nat) : (s.setMask t m).dev = s.dev := by
  unfold State.setMask
  split <;> rfl

theorem State.withRec_dev (rs : List Rec) (n : Nat) {f : State → Bytes → State} (same : ∀ t b, (f t b).dev = t.dev) :
    (s.withRec rs n f).dev = s.dev := by
  unfold State.withRec
  split
  · exact same ..
  · rfl

theorem State.withEach_dev (rs : List Rec) (n : Nat) {f : State → Bytes → State} (same : ∀ t b, (f t b).dev = t.dev) :
    (s.withEach rs n f).dev = s.dev := foldl_dev _ (fun _ _ => same ..) _ s

theorem State.setLayout_dev (rs : List Rec) : (s.setLayout rs).dev = s.dev :=
  (State.withRec_dev _ _ _ (by intro _ _; rfl)).trans s.forgetHost_dev

theorem State.setValleys_dev (rs : List Rec) : (s.setValleys rs).dev = s.dev := by
  refine (foldl_dev _ (fun t e => ?_) _ _).trans (State.withRec_dev _ _ _ (by intro _ _; rfl))
  split <;> rfl

theorem State.setFabric_dev (first : Bool) (rs : List Rec) : (s.setFabric first rs).dev = s.dev :=
  (State.withRec_dev _ _ _ (by intro _ _; rfl)).trans (State.withRec_dev _ _ _ (by intro _ _; rfl))

theorem State.setNets_dev (rs : List Rec) : (s.setNets rs).dev = s.dev :=
  (State.withRec_dev _ _ _ (by intro _ _; rfl)).trans ((State.withRec_dev _ _ _ State.setPool_dev).trans
    (State.withEach_dev _ _ _ (by intro _ _; rfl)))

theorem State.setOthers_dev (rs : List Rec) : (s.setOthers rs).dev = s.dev :=
  (State.withRec_dev _ _ _ State.setSmb_dev).trans ((State.withRec_dev _ _ _ (by intro _ _; rfl)).trans
    ((State.withRec_dev _ _ _ (by simp)).trans ((State.withRec_dev _ _ _ (by intro _ _; rfl)).trans
    ((State.withRec_dev _ _ _ (by intro _ _; rfl)).trans ((State.withRec_dev _ _ _ (by intro _ _; rfl)).trans
    (State.withRec_dev _ _ _ (by intro _ _; rfl)))))))

theorem State.linksDown_dev : s.linksDown.dev = s.dev := by
  refine foldl_dev _ (fun t p => ?_) _ _
  have notice : (t.downNotice p).dev = t.dev := by
    unfold State.downNotice
    split <;> rfl
  split
  · rfl
  · rfl
  · exact notice

/-- Whichever way the image sets the parts, the device then serves under its generation. -/
theorem State.accept_staged (c : Commit) (rs : List Rec) : (s.accept c rs).staged = (c.generation, none) ∧
    ((s.accept c rs).dev.st = .ready ∨ (s.accept c rs).dev.st = .degraded) := by
  unfold State.accept
  dsimp only
  constructor
  · rw [State.enter_staged, State.staged_of_dev (State.doneOpt_dev ..), State.setLinks_staged]
    exact State.staged_of_dev ((State.setOthers_dev ..).trans ((State.setNets_dev ..).trans ((State.setFabric_dev ..).trans
      ((State.setValleys_dev ..).trans (State.setLayout_dev ..)))))
  · rw [State.enter_dev]
    unfold State.servingState
    dsimp only
    split
    · exact .inl rfl
    · exact .inr rfl

theorem Posts.cxlEnabled {t u : State} (h : Posts t u) : u.link.cxlEnabled = t.link.cxlEnabled := by
  rw [← h.link]

/-- Rejecting a configuration leaves the last accepted generation, says why, and takes CXL away (R62). -/
theorem State.reject_leaves (d : Nat) : (s.reject d).dev.lastGen = s.dev.lastGen ∧ (s.reject d).dev.st = .configRejected ∧
    (s.reject d).dev.rejectDetail = d ∧ (s.reject d).link.cxlEnabled = false := by
  unfold State.reject
  dsimp only
  split
  case isTrue rejected => exact ⟨rfl, rejected, rfl, rfl⟩
  · have off := (State.enter_posts { s with link := { s.link with cxlEnabled := false } } .configRejected d).cxlEnabled
    rw [State.enter_dev]
    refine ⟨rfl, rfl, rfl, ?_⟩
    rw [off]
    rfl

theorem State.refuse_leaves (c : Commit) (d : Nat) : (s.refuse c d).dev.lastGen = s.dev.lastGen ∧
    (s.refuse c d).dev.st = .configRejected ∧ (s.refuse c d).dev.rejectDetail = d ∧ (s.refuse c d).link.cxlEnabled = false := by
  unfold State.refuse
  obtain ⟨gen, rest⟩ := State.reject_leaves (State.doneOpt (State.linksDown { s with
    dev := { s.dev with commit := none }, link := { s.link with cxlEnabled := false } }) c.done .checkFailed d []) d
  refine ⟨gen.trans ?_, rest⟩
  rw [State.doneOpt_dev, State.linksDown_dev]

end

theorem State.consume_setStaging (s : State) (v : Via) (g : Option Staging) :
    (s.setStaging g).consume v = (s.consume v).setStaging g := by
  unfold State.consume
  cases v.xport <;> rfl

/-- Of a session of the request's transport and generation, a chunk restarts the idle time and is then accepted as before. -/
theorem chunkSeen_of_accepted {r : Req} {s : State} {g : Staging} (h : Accepted configChunk r s) (session : s.dev.staging = some g)
    (mine : g.xport = r.via.xport) (gen : u32 r.pay 0 = g.generation) :
    s.chunkSeen r.via = s.setStaging (some { g with idleFrom := s.now }) ∧
    Accepted configChunk r (s.setStaging (some { g with idleFrom := s.now })) := by
  obtain ⟨raw, waits, parsed⟩ := Option.map_eq_some_iff.1 h.waits
  have long : 4 ≤ r.pay.length := by
    obtain ⟨len, pay⟩ := h.len
    simp only [configChunk, chunkMsgLen, Bool.and_eq_true, decide_eq_true_eq] at len
    omega
  have op : r.op = 0x0011 := h.op
  have dm : r.via.mbx = 8 := h.mbx_eq rfl
  constructor
  · unfold State.chunkSeen
    simp only [waits, session, parsed]
    exact if_pos (by simp [op, dm, mine, long, gen])
  · obtain ⟨x, y, z, w, e⟩ := State.consume_frame s r.via
    have checks := h.checks
    have room := h.room
    rw [e] at checks room
    refine ⟨h.waits, h.op, ?_, h.free, ?_⟩
    · rw [State.consume_setStaging, e]
      exact checks
    · rw [State.consume_setStaging, e]
      exact room

end Sys2Proof.Machine
end
section
/-! PROOFS. The staging session and the check of a configuration. -/
open Sys2Proof Sys2Proof.Machine

/-- Settles O4: each message's checks in their order; the check's end refuses, or accepts and serves. -/
theorem configuration : Obligations.Configuration := by
  unfold Obligations.Configuration
  refine ⟨?_, ?_, ?_, ?_, ?_, ?_, ?_, ?_, ?_⟩
  · intro r s h above mine count
    have free : ((s.dev.staging.map fun g => g.xport != r.via.xport).getD false) = false := by
      cases u : s.dev.staging with
      | none => rfl
      | some g => simpa using mine g u
    refine serve_okay h ?_
    simp only [configBegin, State.consume_dev, free]
    rw [if_neg nofun, if_neg (by omega), if_neg (by simp [count]), State.consume_now]
  · intro r s g h session mine gen inside len crc new
    obtain ⟨seen, accepted⟩ := chunkSeen_of_accepted h session mine gen.symm
    have stored : ({ g with idleFrom := s.now } : Staging).store r.pay = _ := Staging.store_new gen.symm inside len crc new
    change serve configChunk r.via (s.chunkSeen r.via) = _
    rw [seen]
    refine serve_okay accepted ?_
    rw [State.consume_setStaging]
    simp only [configChunk, State.setStaging_dev]
    rw [if_neg (by simp [mine]), stored]
    rfl
  · intro r s g h session mine gen whole
    refine serve_pending (after := fun s => s.enter .configCheck 0) h ?_
    simp only [configCommit, State.consume_dev, session]
    rw [if_neg (by simp [mine]), if_neg (by simp [gen]), whole]
  · intro r s g d h session mine gen fails
    refine serve_then (after := fun s => s.reject d) h ?_ nofun
    simp only [configCommit, State.consume_dev, session]
    rw [if_neg (by simp [mine]), if_neg (by simp [gen]), fails]
  · intro r s g h session mine gen
    refine serve_okay h ?_
    simp only [configAbort, State.consume_dev, session]
    rw [if_neg (by simp [mine]), if_pos gen]
  · intro s g session
    change Host.Outcome.next _ = _
    rw [session]
  · intro s c rs commit st trained good
    change Host.Outcome.next _ = _
    rw [commit]
    dsimp only
    rw [if_neg (by simp [st, trained]), good]
  · intro s c d commit st trained bad
    refine ⟨?_, s.refuse_leaves c d⟩
    change Host.Outcome.next _ = _
    rw [commit]
    dsimp only
    rw [if_neg (by simp [st, trained]), bad]
  · intro s c rs
    obtain ⟨staged, serves⟩ := s.accept_staged c rs
    exact ⟨congrArg Prod.fst staged, congrArg Prod.snd staged, serves⟩

end
